-- ==== Sys2Proof/Word.lean ====
section
/-! DEFINITION. The data units of Table 0.3 and R24 to R29: word, double word, octet, nonet, step, cipher block, and the
sparse tables in which the state holds large memories. -/
namespace Sys2Proof

/-- The native word of 18 bits (spec/02, Table 2.1). -/
abbrev Word := BitVec 18
/-- The double word of 36 bits: register pair, instruction, address (R26). -/
abbrev DWord := BitVec 36
/-- An octet (Table 0.3). -/
abbrev Octet := BitVec 8
/-- A nonet: an octet with its parity bit (R28). -/
abbrev Nonet := BitVec 9
/-- A figure step of 144 bits (R88). -/
abbrev StepWord := BitVec 144
/-- A cipher block of 16 octets, octet 0 most significant. -/
abbrev Block := BitVec 128

/-- A sparse table: (index, value) pairs at strictly rising indexes; an index that is not listed holds the default value
that the accessor names. -/
abbrev Tab (α : Type) := List (Nat × α)

/-- The low word of a double word (R26). -/
def loW (d : DWord) : Word := d.extractLsb' 0 18
/-- The high word of a double word (R26). -/
def hiW (d : DWord) : Word := d.extractLsb' 18 18
/-- The double word with high word `h` and low word `l` (R26). -/
def dword (h l : Word) : DWord := h ++ l

end Sys2Proof
end

