-- ==== Sys2Proof/Syntax.lean ====
section
/-! DEFINITION. The commands of the block: one constructor of `Instr` for each row of spec/opcode_table.json, with the operands
that the spec gives the row. -/
namespace Sys2Proof

/-- The controllers (R24). -/
inductive CtlId | sc0 | sc1 | mc
  deriving DecidableEq, Repr

/-- Where and when a figure issues an operation: sequencer, instance cycle, step, slot (R88, R91); whether the step is read with
a parity error (R115); the faults the hardware meets in the operation, as (place, kind): for a block operation the lane of the
group and the slot, 31 at capture (R156, R157); for a hold read the block index and 1 or 2 wrong bits (R151); for another unit
any entry is a mismatch of the unit (R156, R176, R200). -/
structure At where
  fs : Fin 64
  cyc : Nat
  step : Fin 8192
  slot : Fin 4
  parity : Bool
  faults : List (Nat × Nat)
  deriving DecidableEq, Repr

/-- The two places an instruction of spec/02 executes: a controller, or slot 0 of a figure step (R25, R89). -/
inductive Site
  | ctl (c : CtlId)
  | fig (a : At)
  deriving DecidableEq, Repr

/-- The count of LOOP (Table 2.10): an immediate, or a register. -/
inductive LoopCount
  | imm (n : BitVec 16)
  | reg (r : Fin 32)
  deriving DecidableEq, Repr

/-- The masters that administer the device through the host windows (R272, R275). -/
inductive Requester | pfA | pfB | mc
  deriving DecidableEq, Repr

/-- What one sample of the tamper sensors reads (Tables 16.3, 16.4): junction temperatures in degrees, battery inputs in units of
10 mV, glitch detectors, clock windows, mesh loops whose pattern differs, the shield, the enclosure inputs' levels, cell presence. -/
inductive TamperReading
  | temp (t0 t1 : Int)
  | vbat (a b : Nat)
  | glitch (core sram io : Bool)
  | clkMain (bad : Bool)
  | clkTamp (bad : Bool)
  | mesh (failed : BitVec 8)
  | shield (failed : Bool)
  | enclosure (l0 l1 : Bool)
  | presence (a b : Bool)
  deriving DecidableEq, Repr

/-- A command held by the device: function, queue, command identifier (R314). -/
structure CmdRef where
  f : Fin 2050
  q : Fin 256
  cid : BitVec 16
  deriving DecidableEq, Repr

/-- The masters that hold lock tokens (R278). -/
inductive TokenMaster | sc0 | sc1 | mc | pfA | pfB
  deriving DecidableEq, Repr

/-- Who asks for a measurement extension (R180): a secure controller, or a requester of the host window. -/
inductive MeasBy
  | sc (c : Fin 2)
  | host (m : Requester)
  deriving DecidableEq, Repr

/-- A register access: a controller's word address, a PF's BAR 0 offset, or a VF's BAR 0 offset. -/
inductive RegAt
  | word (c : CtlId) (a : DWord)
  | pf (p : Fin 2) (off : BitVec 26)
  | vf (f : Fin 2048) (off : BitVec 14)
  deriving DecidableEq, Repr

/-- What the debug master reads or writes (Table 14.12): a word of the fabric, a general register, or a control register of a controller in
a world. -/
inductive DebugTarget
  | word (addr : DWord)
  | greg (c : CtlId) (r : Fin 32)
  | creg (c : CtlId) (secure : Bool) (n : BitVec 8)
  deriving DecidableEq, Repr

/-- A host configuration write (R306, Table 13.1): VF Enable of a port's PF, or a function's power state. -/
inductive ConfigWrite
  | vfEnable (p : Fin 2) (on : Bool)
  | power (f : Fin 2050) (d3hot : Bool)
  deriving DecidableEq, Repr

/-- One command of the block: a row of spec/opcode_table.json, in the table's order. -/
inductive Instr
  /-- ADD (R40): Adds two registers modulo 2^18 and writes Z, N, C and V. -/
  | add (x : Site) (rd ra rb : Fin 32)
  /-- ADC (R40): Adds two registers and the carry flag modulo 2^18. -/
  | adc (x : Site) (rd ra rb : Fin 32)
  /-- SUB (R40): Subtracts rb from ra modulo 2^18 and sets C on a borrow. -/
  | sub (x : Site) (rd ra rb : Fin 32)
  /-- SBC (R40): Subtracts rb plus C from ra, borrowing when ra < rb + C. -/
  | sbc (x : Site) (rd ra rb : Fin 32)
  /-- NEG (R40): Negates ra, setting V for the most negative word and C for every nonzero operand. -/
  | neg (x : Site) (rd ra : Fin 32)
  /-- CMP (R39): Sets flags from ra − rb without writing a register. -/
  | cmp (x : Site) (ra rb : Fin 32)
  /-- AND (R39): Bitwise AND of two registers, writing Z and N. -/
  | and (x : Site) (rd ra rb : Fin 32)
  /-- OR (R39): Bitwise OR of two registers, writing Z and N. -/
  | or (x : Site) (rd ra rb : Fin 32)
  /-- XOR (R39): Bitwise XOR of two registers, writing Z and N. -/
  | xor (x : Site) (rd ra rb : Fin 32)
  /-- ANDN (R39): ra AND NOT rb, writing Z and N. -/
  | andn (x : Site) (rd ra rb : Fin 32)
  /-- SHL (R41): Logical left shift by the low 5 bits of rb. -/
  | shl (x : Site) (rd ra rb : Fin 32)
  /-- SHR (R41): Logical right shift by the low 5 bits of rb. -/
  | shr (x : Site) (rd ra rb : Fin 32)
  /-- SAR (R41): Arithmetic right shift by the low 5 bits of rb. -/
  | sar (x : Site) (rd ra rb : Fin 32)
  /-- ROL (R42): Rotate left by the amount reduced modulo 18. -/
  | rol (x : Site) (rd ra rb : Fin 32)
  /-- ROR (R42): Rotate right by the amount reduced modulo 18. -/
  | ror (x : Site) (rd ra rb : Fin 32)
  /-- SHLI (R41): Logical left shift by the amount in the rb field. -/
  | shli (x : Site) (rd ra amount : Fin 32)
  /-- SHRI (R41): Logical right shift by the amount in the rb field. -/
  | shri (x : Site) (rd ra amount : Fin 32)
  /-- SARI (R41): Arithmetic right shift by the amount in the rb field. -/
  | sari (x : Site) (rd ra amount : Fin 32)
  /-- ROLI (R42): Rotate left by the amount in the rb field. -/
  | roli (x : Site) (rd ra amount : Fin 32)
  /-- RORI (R42): Rotate right by the amount in the rb field. -/
  | rori (x : Site) (rd ra amount : Fin 32)
  /-- MUL (R43): Writes the exact signed 36-bit product to a pair. -/
  | mul (x : Site) (rd ra rb : Fin 32)
  /-- MULU (R43): Writes the exact unsigned 36-bit product to a pair. -/
  | mulu (x : Site) (rd ra rb : Fin 32)
  /-- DIV (R44): Signed division that writes quotient and remainder to a pair, with the zero-divisor rule of R45. -/
  | div (c : CtlId) (rd ra rb : Fin 32)
  /-- DIVU (R44): Unsigned division that writes quotient and remainder to a pair, with the zero-divisor rule of R45. -/
  | divu (c : CtlId) (rd ra rb : Fin 32)
  /-- MOVD (R39): Copies one register pair to another and writes Z and N. -/
  | movd (x : Site) (rd ra : Fin 32)
  /-- ADDD (R40): Adds two pairs modulo 2^36. -/
  | addd (x : Site) (rd ra rb : Fin 32)
  /-- SUBD (R40): Subtracts one pair from another modulo 2^36. -/
  | subd (x : Site) (rd ra rb : Fin 32)
  /-- CLZ (R39): Counts the leading zero bits of ra. -/
  | clz (x : Site) (rd ra : Fin 32)
  /-- PACKO (R28): Packs two octets into a word as two nonets with generated parity. -/
  | packo (x : Site) (rd ra rb : Fin 32)
  /-- ADDI (R40): Adds an 18-bit immediate to ra. -/
  | addi (x : Site) (rd ra : Fin 32) (imm : Word)
  /-- ANDI (R39): ANDs ra with an immediate. -/
  | andi (x : Site) (rd ra : Fin 32) (imm : Word)
  /-- ORI (R39): ORs ra with an immediate. -/
  | ori (x : Site) (rd ra : Fin 32) (imm : Word)
  /-- XORI (R39): XORs ra with an immediate. -/
  | xori (x : Site) (rd ra : Fin 32) (imm : Word)
  /-- CMPI (R39): Sets flags from ra minus an immediate. -/
  | cmpi (x : Site) (ra : Fin 32) (imm : Word)
  /-- LEA (R37): Adds a sign-extended immediate to a pair modulo 2^36 without flags. -/
  | lea (x : Site) (rd ra : Fin 32) (imm : Word)
  /-- LD (R46): Loads one word after the isolation check. -/
  | ld (x : Site) (rt rbase : Fin 32) (off : Word)
  /-- ST (R46): Stores one word after the isolation check. -/
  | st (x : Site) (rt rbase : Fin 32) (off : Word)
  /-- LDD (R46): Loads a double word from an even address. -/
  | ldd (x : Site) (rt rbase : Fin 32) (off : Word)
  /-- STD (R46): Stores a double word to an even address in one access. -/
  | std (x : Site) (rt rbase : Fin 32) (off : Word)
  /-- LDO (R50): Loads an octet with parity check, or a whole nonet. -/
  | ldo (c : CtlId) (rt rbase : Fin 32) (n : Bool) (off : Word)
  /-- STO (R51): Stores one nonet, with generated or given parity, leaving the other nonet intact. -/
  | sto (c : CtlId) (rt rbase : Fin 32) (n : Bool) (off : Word)
  /-- BEQ (R59): Branches with a delay slot if ra equals rb. -/
  | beq (c : CtlId) (ra rb : Fin 32) (disp : Word)
  /-- BNE (R59): Branches with a delay slot if ra differs from rb. -/
  | bne (c : CtlId) (ra rb : Fin 32) (disp : Word)
  /-- BLT (R59): Branches with a delay slot if ra < rb signed. -/
  | blt (c : CtlId) (ra rb : Fin 32) (disp : Word)
  /-- BGE (R59): Branches with a delay slot if ra ≥ rb signed. -/
  | bge (c : CtlId) (ra rb : Fin 32) (disp : Word)
  /-- BLTU (R59): Branches with a delay slot if ra < rb unsigned. -/
  | bltu (c : CtlId) (ra rb : Fin 32) (disp : Word)
  /-- BGEU (R59): Branches with a delay slot if ra ≥ rb unsigned. -/
  | bgeu (c : CtlId) (ra rb : Fin 32) (disp : Word)
  /-- BF (R59): Branches with a delay slot on a FLAGS condition of Table 2.13. -/
  | bf (c : CtlId) (cond : Fin 16) (disp : Word)
  /-- JMP (R59): Jumps to a PC-relative target with a delay slot. -/
  | jmp (c : CtlId) (disp : BitVec 30)
  /-- CALL (R60): Jumps and writes the link to d30 when the delay slot completes. -/
  | call (c : CtlId) (disp : BitVec 30)
  /-- JR (R62): Jumps to the address in a pair, raising Alignment on an odd target. -/
  | jr (c : CtlId) (ra : Fin 32)
  /-- CALLR (R60): Jumps to the old value of pair ra and writes the link to d30. -/
  | callr (c : CtlId) (ra : Fin 32)
  /-- LOOP (R64): Starts a hardware loop at a level or raises the Loop exception. -/
  | loop (x : Site) (lvl : Fin 2) (count : LoopCount) (len : BitVec 12)
  /-- MFC (R34): Reads a control register of the current world. -/
  | mfc (c : CtlId) (rd : Fin 32) (code : BitVec 8)
  /-- MTC (R34): Writes a control register of the current world, refetching after loop-register writes. -/
  | mtc (c : CtlId) (ra : Fin 32) (code : BitVec 8)
  /-- GATE (R71): Enters the monitor from the normal world or returns from it. -/
  | gate (c : CtlId) (code : BitVec 8)
  /-- ERET (R79): Returns from the top exception frame. -/
  | eret (c : CtlId)
  /-- SYNC_I (R86): Waits for earlier stores and refetches the two prefetched instructions. -/
  | syncI (c : CtlId)
  /-- FENCE (R48): Completes when all earlier loads have returned and stores are accepted. -/
  | fence (c : CtlId)
  /-- WAIT (R82): Suspends the controller until an enabled line for its world is pending. -/
  | wait (c : CtlId)
  /-- BRK (R351): Raises Breakpoint, or halts the controller under a level-2 debug session. -/
  | brk (c : CtlId) (code : BitVec 8)
  /-- BMOV (R54): Copies up to 4,096 words in ascending order, interruptible between words. -/
  | bmov (c : CtlId) (rd ra rb : Fin 32) (upTo : Nat)
  /-- BZERO (R54): Writes up to 4,096 zero words in ascending order, interruptible between words. -/
  | bzero (c : CtlId) (rd rb : Fin 32) (upTo : Nat)
  /-- SYSCALL (R75): Raises the System Call exception from user level. -/
  | syscall (c : CtlId) (code : BitVec 8)
  /-- INTERRUPT_TAKEN (R80): A pending, enabled line is taken at a permitted boundary through vector 0x0F. -/
  | interruptTaken (c : CtlId)
  /-- SECURE_INTERRUPT_ENTRY (R81): A secure line pending in the normal world makes a hardware monitor entry with GCODE 0xFF. -/
  | secureInterruptEntry (c : CtlId)
  /-- END (R101): Ends the figure run in this cycle. -/
  | endRun (a : At)
  /-- END_REPEAT (R104): Ends the run and, if the condition holds, runs again from step 0 at the next span boundary. -/
  | endRepeat (a : At) (ra : Fin 32)
  /-- END_REJECT (R89): Ends the run and, if the condition holds, completes with ARITH_REJECT and withholds output. -/
  | endReject (a : At) (ra : Fin 32)
  /-- HSET (R102): Sets a lane group's hold pointer from a register. -/
  | hset (a : At) (u : Fin 32) (r : Fin 32)
  /-- HLD (R126): Loads blocks from the hold pointer into the selected lanes' BIN, optionally feeding the promenade tap. -/
  | hld (a : At) (u : Fin 32) (m : BitVec 8) (tap adv : Bool)
  /-- HST (R126): Stores the selected lanes' BOUT at the hold pointer. -/
  | hst (a : At) (u : Fin 32) (m : BitVec 8) (adv : Bool)
  /-- AESE (R140): Encrypts BIN into BOUT over 20 round slots in 360 FAB cycles. -/
  | aese (a : At) (u : Fin 32) (m : BitVec 8)
  /-- AESD (R140): Decrypts BIN into BOUT over 20 round slots. -/
  | aesd (a : At) (u : Fin 32) (m : BitVec 8)
  /-- CTRE (R150): Writes E(CTR) XOR BIN to BOUT and advances CTR under the counter guards. -/
  | ctre (a : At) (u : Fin 32) (m : BitVec 8)
  /-- CTRK (R140): Writes E(CTR) to BOUT without changing CTR. -/
  | ctrk (a : At) (u : Fin 32) (m : BitVec 8)
  /-- CTRI (R149): Loads selected lanes' CTR from the instance counter base and advances the base. -/
  | ctri (a : At) (u : Fin 32) (m : BitVec 8)
  /-- XORB (R95): Sets BOUT to BOUT XOR BIN in selected lanes. -/
  | xorb (a : At) (u : Fin 32) (m : BitVec 8)
  /-- MOVB (R95): Copies BOUT into BIN in selected lanes. -/
  | movb (a : At) (u : Fin 32) (m : BitVec 8)
  /-- XTSE (R140): XTS-encrypts BIN with the reel tweak stream. -/
  | xtse (a : At) (u : Fin 32) (m : BitVec 8)
  /-- XTSD (R140): XTS-decrypts BIN with the reel tweak stream. -/
  | xtsd (a : At) (u : Fin 32) (m : BitVec 8)
  /-- CBCD (R140): CBC-decrypts BIN with CHAIN and updates CHAIN. -/
  | cbcd (a : At) (u : Fin 32) (m : BitVec 8)
  /-- CMACB (R140): Encrypts BIN XOR BOUT for CMAC chaining. -/
  | cmacb (a : At) (u : Fin 32) (m : BitVec 8)
  /-- CSAVE (R95): Writes chaining state of selected lanes at the hold pointer. -/
  | csave (a : At) (u : Fin 32) (m : BitVec 8)
  /-- CREST (R95): Restores chaining state of selected lanes from the hold pointer. -/
  | crest (a : At) (u : Fin 32) (m : BitVec 8)
  /-- KPUT (R97): Places lane output as a key in a KPUT target operand. -/
  | kput (a : At) (u : Fin 32) (m : BitVec 8) (k : Fin 8)
  /-- GHK (R95): Loads GHASH H from one lane's BOUT. -/
  | ghk (a : At) (u : Fin 32) (lane : Fin 8)
  /-- GHA (R95): Absorbs one lane's BOUT into GHASH. -/
  | gha (a : At) (u : Fin 32) (lane : Fin 8)
  /-- GHB (R95): Absorbs one lane's BIN into GHASH. -/
  | ghb (a : At) (u : Fin 32) (lane : Fin 8)
  /-- GHL (R95): Absorbs a length block formed from eight registers into GHASH. -/
  | ghl (a : At) (u : Fin 32) (r : Fin 25)
  /-- GTAG (R95): Writes Y XOR BOUT at the hold pointer as the tag. -/
  | gtag (a : At) (u : Fin 32) (lane : Fin 8) (adv : Bool)
  /-- GCMP (R95): Compares Y XOR BOUT with BIN in constant time into a register. -/
  | gcmp (a : At) (u : Fin 32) (lane : Fin 8) (r : Fin 32)
  /-- GCLR (R95): Clears GHASH Y. -/
  | gclr (a : At) (u : Fin 32)
  /-- TWI (R150): Computes the XTS tweak from a data-unit number under K2. -/
  | twi (a : At) (u : Fin 32) (r : Fin 25)
  /-- TWN (R150): Multiplies the XTS tweak by alpha. -/
  | twn (a : At) (u : Fin 32)
  /-- DINIT (R162): Initialises a digest unit to an algorithm's initial state. -/
  | dinit (a : At) (u : Fin 32) (alg : BitVec 4)
  /-- DABS (R163): Appends 16 octets from a lane to a digest unit's buffer. -/
  | dabs (a : At) (u lg : Fin 32) (lane : Fin 8) (bout : Bool)
  /-- DCOMP (R164): Performs one compression or permutation in a digest unit. -/
  | dcomp (a : At) (u : Fin 32)
  /-- DFIN (R165): Pads and finalises the digest, setting FINAL. -/
  | dfin (a : At) (u : Fin 32)
  /-- DOUT (R166): Writes the digest to hold pages or the fixity field, with the early-read error. -/
  | dout (a : At) (u : Fin 32) (lg : Option (Fin 32))
  /-- DPAD (R175): Forms a keyed pad block through the key-pad port and sets KEYED. -/
  | dpad (a : At) (u : Fin 32) (k : Fin 8) (opad : Bool)
  /-- DSAVE (R172): Writes a digest state record at a block boundary. -/
  | dsave (a : At) (u lg : Fin 32)
  /-- DREST (R172): Restores a digest state record after checking it. -/
  | drest (a : At) (u lg : Fin 32)
  /-- DTAP (R168): Binds a digest unit to a reel's promenade tap. -/
  | dtap (a : At) (u lg : Fin 32)
  /-- LADD (R185): Adds limb by limb without carries, rejecting on limb overflow. -/
  | ladd (x : At) (u : Fin 32) (d a b : Fin 16)
  /-- LSUB (R185): Subtracts limb by limb against the borrow-free 4m. -/
  | lsub (x : At) (u : Fin 32) (d a b : Fin 16)
  /-- MNORM (R193): Reduces a value to canonical form below m. -/
  | mnorm (x : At) (u : Fin 32) (d a : Fin 16) (double : Bool)
  /-- MMUL (R193): Montgomery multiplication. -/
  | mmul (x : At) (u : Fin 32) (d a b : Fin 16)
  /-- MSQR (R193): Montgomery squaring. -/
  | msqr (x : At) (u : Fin 32) (d a : Fin 16)
  /-- MINV (R193): Constant-time Montgomery-form inverse. -/
  | minv (x : At) (u : Fin 32) (d a : Fin 16)
  /-- MEXP (R197): Modular exponentiation with fixed window or multiply-always. -/
  | mexp (x : At) (u : Fin 32) (d a b : Fin 16) (opt : Fin 256)
  /-- MSET (R193): Sets the modulus context, computing or taking its constants. -/
  | mset (x : At) (u : Fin 32) (a : Fin 16) (given : Bool)
  /-- MCHK (R193): Rejects unless the operand is canonical, below m and optionally nonzero. -/
  | mchk (x : At) (u : Fin 32) (a : Fin 16) (nonzero : Bool)
  /-- MSEL (R193): Selects one of two operands by a bit in constant time. -/
  | msel (x : At) (u : Fin 32) (d a b s : Fin 16)
  /-- MSCAN (R193): Reads every table entry and writes the indexed one. -/
  | mscan (x : At) (u : Fin 32) (d a b : Fin 16) (opt : Fin 256)
  /-- MEQ (R193): Writes 1 if two operands are congruent modulo m. -/
  | meq (x : At) (u : Fin 32) (d a b : Fin 16)
  /-- LSET (R193): Sets the lattice context from q and a twiddle table. -/
  | lset (x : At) (u : Fin 32) (a : Fin 16) (wide : Bool)
  /-- NTT (R193): Forward number-theoretic transform of a polynomial. -/
  | ntt (x : At) (u : Fin 32) (d a : Fin 16) (eight : Bool)
  /-- INTT (R193): Inverse NTT with scaling. -/
  | intt (x : At) (u : Fin 32) (d a : Fin 16) (eight : Bool)
  /-- PMUL (R193): Pointwise or degree-2 base multiplication of polynomials. -/
  | pmul (x : At) (u : Fin 32) (d a b : Fin 16) (base : Bool)
  /-- PADD (R193): Coefficient-wise polynomial sum mod q. -/
  | padd (x : At) (u : Fin 32) (d a b : Fin 16)
  /-- PSUB (R193): Coefficient-wise polynomial difference mod q. -/
  | psub (x : At) (u : Fin 32) (d a b : Fin 16)
  /-- PNORM (R193): Writes 1 if any centred coefficient reaches the bound. -/
  | pnorm (x : At) (u : Fin 32) (d a b : Fin 16)
  /-- PSPLIT (R193): Decomposes a polynomial into high and low parts. -/
  | psplit (x : At) (u : Fin 32) (d a b : Fin 16)
  /-- PHINT (R193): MakeHint or UseHint on polynomials. -/
  | phint (x : At) (u : Fin 32) (d a b : Fin 16) (use : Bool)
  /-- PCOMP (R193): Compresses coefficients to w bits. -/
  | pcomp (x : At) (u : Fin 32) (d a : Fin 16) (w : Fin 32)
  /-- PDECOMP (R193): Decompresses coefficients from w bits. -/
  | pdecomp (x : At) (u : Fin 32) (d a : Fin 16) (w : Fin 32)
  /-- PACK (R193): Packs coefficients into a bit string. -/
  | pack (x : At) (u : Fin 32) (d a b : Fin 16) (w : Fin 32) (minus : Bool)
  /-- UNPACK (R193): Unpacks a bit string into coefficients. -/
  | unpack (x : At) (u : Fin 32) (d a b : Fin 16) (w : Fin 32) (minus : Bool)
  /-- PREJ (R193): Rejection-samples a polynomial or SampleInBall. -/
  | prej (x : At) (u : Fin 32) (d a b : Fin 16) (mode : Fin 4) (c : Fin 8)
  /-- PCBD (R193): Centred binomial sampling of a polynomial. -/
  | pcbd (x : At) (u : Fin 32) (d a : Fin 16) (eta : Fin 8)
  /-- PCONV (R193): Arithmetic-to-Boolean share conversion fused with Compress. -/
  | pconv (x : At) (u : Fin 32) (d a b : Fin 16) (w : Fin 32)
  /-- NSETA (R191): Sets an NU address register from a sequencer register. -/
  | nseta (x : At) (u : Fin 32) (d : Fin 16) (r : Fin 32)
  /-- NSETL (R191): Sets LEN and invalidates both contexts. -/
  | nsetl (x : At) (u : Fin 32) (r : Fin 32)
  /-- NLDH (R191): Moves hold-page blocks into operand memory in a chosen form. -/
  | nldh (x : At) (u : Fin 32) (d : Fin 16) (r : Fin 32) (c : Fin 256) (form : Fin 8)
  /-- NSTH (R191): Moves operand memory into hold-page blocks. -/
  | nsth (x : At) (u : Fin 32) (d : Fin 16) (r : Fin 32) (c : Fin 256) (form : Fin 8)
  /-- NLDF (R191): Writes a sequencer register into one operand-memory word. -/
  | nldf (x : At) (u : Fin 32) (d : Fin 16) (r : Fin 32)
  /-- NSTF (R191): Reads one operand-memory word into a sequencer register. -/
  | nstf (x : At) (u : Fin 32) (a : Fin 16) (r : Fin 32)
  /-- NSTAT (R191): Reads REJ and context validity into a register. -/
  | nstat (x : At) (u : Fin 32) (r : Fin 32)
  /-- NINC (R191): Adds a register to an NU address register modulo 2^16. -/
  | ninc (x : At) (u : Fin 32) (d : Fin 16) (r : Fin 32)
  /-- KLANE (R141): Delivers a key operand's form to selected lanes over the key bus. -/
  | klane (a : At) (u : Fin 32) (m : BitVec 8) (k : Fin 8)
  /-- KGH (R95): Delivers a slot's GCM hash subkey to H. -/
  | kgh (a : At) (u : Fin 32) (k : Fin 8)
  /-- KXT (R95): Delivers tweak key K2 to the XT unit. -/
  | kxt (a : At) (u : Fin 32) (k : Fin 8)
  /-- KNU (R188): Delivers key limbs into NU operand memory. -/
  | knu (a : At) (u : Fin 32) (k : Fin 8) (base : Fin 512)
  /-- RNDF (R216): Writes the next reserved random word to a register. -/
  | rndf (a : At) (r : Fin 32)
  /-- RNDN (R188): Writes eight reserved random words into operand memory. -/
  | rndn (a : At) (u : Fin 32) (base : Fin 512)
  /-- AUTH (R125): Records the authentication result for egress. -/
  | auth (a : At) (r : Fin 32)
  /-- RES (R95): Writes a register into a completion result word. -/
  | res (a : At) (i : Fin 8) (r : Fin 32)
  /-- HREL (R125): Releases a logical page to egress for streaming. -/
  | hrel (a : At) (u : Fin 32) (page : Fin 64)
  /-- RESULT_LANDING (R91): A floor operation's result lands at t + L, visible to operations issued from that cycle. -/
  | resultLanding (fs : Fin 64)
  /-- MEASURE_BOUNDARY (R92): Every 360 FAB cycles the boundary applies commits, grants, placements, releases, aborts and repeats. -/
  | measureBoundary
  /-- SQ_TAIL (R311): A submission doorbell write that lets the device fetch ring commands. -/
  | sqTail (f : Fin 2050) (q : Fin 256) (v : BitVec 32)
  /-- CQ_HEAD (R311): A completion doorbell write that releases completion entries. -/
  | cqHead (f : Fin 2050) (q : Fin 256) (v : BitVec 32)
  /-- PUSH_WRITE (R311): A push-window write taken whole as one command, or dropped. -/
  | pushWrite (f : Fin 2050) (q : Fin 256) (off : BitVec 8) (oneTlp : Bool) (ide : Bool) (data : List Octet)
  /-- COMMAND_FETCH (R319): A ring read completion delivers a command, which undergoes the spoof checks and is Queued. -/
  | commandFetch (f : Fin 2050) (q : Fin 256) (ide : Bool) (data : List Octet)
  /-- INGRESS_ADMIT (R480): A freed staging place admits the next Queued command by round robin into Ingress. -/
  | ingressAdmit (f : Fin 2050)
  /-- KEY_CACHE_LOAD_DONE (R241): A vault fetch and unwrap for a cache miss completes and order 6 continues. -/
  | keyCacheLoadDone (r : CmdRef)
  /-- STAGING_DMA_DONE (R124): Input staging or refill into hold pages completes. -/
  | stagingDmaDone (r : CmdRef) (data : List Octet)
  /-- PAGE_DRAIN_DONE (R125): Egress finishes draining a released page, which may then be refilled. -/
  | pageDrainDone (r : CmdRef)
  /-- COMPLETION_WRITE (R130): After output writes, egress writes the completion, releases resources and signals MSI-X. -/
  | completionWrite (f : Fin 2050) (q : Fin 256)
  /-- MSIX_MODERATION_TIMER (R320): Q_MOD.TIME elapses and the queue's vector is raised. -/
  | msixModerationTimer (f : Fin 2050) (q : Fin 256)
  /-- RUN (R119): Submits a figure instance through the ingress checks of Table 5.2. -/
  | run (r : CmdRef)
  /-- ABORT (R132): Aborts a target command of the same function. -/
  | abort (r : CmdRef)
  /-- KEY_GENERATE (R247): Generates a new key object, completing after its commit. -/
  | keyGenerate (r : CmdRef) (blk : List Octet)
  /-- KEY_DERIVE (R248): Derives a new key object from a parent. -/
  | keyDerive (r : CmdRef) (blk : List Octet)
  /-- KEY_RESTRICT (R230): Clears attributes or lowers the usage limit of a key. -/
  | keyRestrict (r : CmdRef) (blk : List Octet)
  /-- KEY_INFO (R479): Returns a key's HEAD header fields. -/
  | keyInfo (r : CmdRef)
  /-- KEY_DESTROY (R250): Destroys a key object. -/
  | keyDestroy (r : CmdRef) (blk : List Octet)
  /-- KEY_EXPORT (R252): Exports a key as a transfer or owner-wrap blob under quorum. -/
  | keyExport (r : CmdRef) (blk : List Octet)
  /-- KEY_IMPORT (R255): Imports a key from a blob. -/
  | keyImport (r : CmdRef) (blk : List Octet)
  /-- ATTEST (R299): Returns a signed attestation statement over a nonce. -/
  | attest (r : CmdRef) (blk : List Octet)
  /-- JOURNAL_READ (R291): Returns up to 1,024 journal records. -/
  | journalRead (r : CmdRef)
  /-- JOURNAL_ACK (R291): The lead acknowledges records up to a SEQ. -/
  | journalAck (r : CmdRef)
  /-- BALLOT_OPEN (R265): Opens a ballot and returns its challenge statement. -/
  | ballotOpen (r : CmdRef) (blk : List Octet)
  /-- BALLOT_SIGN (R266): Verifies and records an officer signature. -/
  | ballotSign (r : CmdRef) (blk : List Octet)
  /-- BALLOT_CLOSE (R269): The lead lapses a ballot. -/
  | ballotClose (r : CmdRef)
  /-- COMMISSION_BEGIN (R270): Opens the commissioning ballot for a DOM_0 officer set. -/
  | commissionBegin (r : CmdRef) (blk : List Octet)
  /-- COMMISSION_FINISH (R270): Creates the storage root, vault and DOM_0 records. -/
  | commissionFinish (r : CmdRef) (blk : List Octet)
  /-- DOMAIN_CREATE (R280): Creates a domain with its officers. -/
  | domainCreate (r : CmdRef) (blk trailer : List Octet)
  /-- DOMAIN_DESTROY (R280): Moves a domain to DESTROYING. -/
  | domainDestroy (r : CmdRef) (blk : List Octet)
  /-- DOMAIN_SUSPEND (R280): Suspends a domain. -/
  | domainSuspend (r : CmdRef) (blk : List Octet)
  /-- DOMAIN_RESUME (R280): Clears a domain's suspension bits. -/
  | domainResume (r : CmdRef) (blk : List Octet)
  /-- OFFICER_CHANGE (R280): Adds, removes or replaces officers or sets M or TTL. -/
  | officerChange (r : CmdRef) (blk trailer : List Octet)
  /-- FIGURE_SIGNER (R264): Adds or removes a figure-signer record. -/
  | figureSigner (r : CmdRef) (blk : List Octet)
  /-- DEVICE_POLICY (R271): Sets MC_LEAD or blows NO_RECOMMISSION. -/
  | devicePolicy (r : CmdRef) (blk : List Octet)
  /-- LEAD_TAKEOVER (R277): A follower spends a takeover ballot and becomes lead. -/
  | leadTakeover (r : CmdRef) (blk : List Octet)
  /-- JOURNAL_CLEAR (R294): Advances ACKED under quorum and optionally rebinds the header. -/
  | journalClear (r : CmdRef) (blk : List Octet)
  /-- VAULT_RESET (R260): Discards the vault and creates a new vault key. -/
  | vaultReset (r : CmdRef) (blk : List Octet)
  /-- MIGRATION_FREEZE (R325): Enters Migration Freeze and freezes every VF. -/
  | migrationFreeze (r : CmdRef) (blk : List Octet)
  /-- REPLICATION (R403): Approves, withdraws or moves replicas, founds a quadrille or assumes the caller role. -/
  | replication (r : CmdRef) (blk : List Octet)
  /-- FIRMWARE_STAGE (R418): Stages a chunk of a firmware image. -/
  | firmwareStage (r : CmdRef) (blk : List Octet)
  /-- FIRMWARE_ACTIVATE (R419): Marks a staged slot to try at the next boot. -/
  | firmwareActivate (r : CmdRef) (blk : List Octet)
  /-- DEBUG_AUTHORISE (R349): Opens or ends a debug session by certificate. -/
  | debugAuthorise (r : CmdRef) (blk trailer : List Octet)
  /-- RAW_ENTROPY (R217): Sets RAW_PERMIT under quorum. -/
  | rawEntropy (r : CmdRef) (blk : List Octet)
  /-- RAW_READ (R218): Returns the raw capture buffer from an offset. -/
  | rawRead (r : CmdRef)
  /-- CELL_WINDOW (R389): Opens a maintenance window, configures the tamper domain or zeroizes. -/
  | cellWindow (r : CmdRef) (blk : List Octet)
  /-- VAULT_COMMIT (R258): Emits changed page blobs and the version table blob. -/
  | vaultCommit (r : CmdRef)
  /-- VAULT_STORED (R258): Host reports durable storage and the device writes IMAGE_ROOT. -/
  | vaultStored (r : CmdRef)
  /-- VAULT_LOAD (R259): Accepts one vault blob at cold start. -/
  | vaultLoad (r : CmdRef) (blk : List Octet)
  /-- FIGURE_PIN (R107): Verifies a figure image and loads it into a set of sequencers. -/
  | figurePin (r : CmdRef) (blk : List Octet)
  /-- FIGURE_UNPIN (R108): Invalidates a figure's residency entries. -/
  | figureUnpin (r : CmdRef)
  /-- FUNC_CREATE (R322): Creates a VF from the pools. -/
  | funcCreate (r : CmdRef) (blk : List Octet)
  /-- FUNC_CHANGE (R322): Replaces a function's configuration. -/
  | funcChange (r : CmdRef) (blk : List Octet)
  /-- VF_DESTROY (R323): Destroys a VF and returns its resources. -/
  | vfDestroy (r : CmdRef)
  /-- VF_FREEZE (R324): Freezes a VF. -/
  | vfFreeze (r : CmdRef)
  /-- VF_THAW (R324): Thaws a frozen VF. -/
  | vfThaw (r : CmdRef)
  /-- MIG_TICKET (R326): Issues a migration ticket with a statement. -/
  | migTicket (r : CmdRef)
  /-- VF_SAVE (R327): Builds a migration blob and makes the VF SAVED. -/
  | vfSave (r : CmdRef) (blk : List Octet)
  /-- VF_RESTORE (R328): Restores a VF from a migration blob. -/
  | vfRestore (r : CmdRef) (blk : List Octet)
  /-- QUEUE_MARK (R152): Sets or clears a queue's streaming mark. -/
  | queueMark (r : CmdRef)
  /-- MIGRATION_THAW (R325): Leaves Migration Freeze and thaws unsaved VFs. -/
  | migrationThaw (r : CmdRef)
  /-- PORT_VF_ALLOC (R306): Divides the VF pool between ports. -/
  | portVfAlloc (r : CmdRef)
  /-- WARM_RESET (R444): The lead's warm-reset command, optionally targeting Diagnostic. -/
  | warmReset (r : CmdRef)
  /-- QUEUE_ENABLE (R309): Setting Q_CTL.ENABLE validates and enables a queue. -/
  | queueEnable (f : Fin 2050) (q : Fin 256) (v : BitVec 32)
  /-- QUEUE_DISABLE (R309): Clearing Q_CTL.ENABLE disables an idle queue. -/
  | queueDisable (f : Fin 2050) (q : Fin 256) (v : BitVec 32)
  /-- FLR_REPORT_POP (R330): Writing FLR_REPORT.VALID discards the head report. -/
  | flrReportPop (p : Fin 2)
  /-- HOST_MISALIGNED_ACCESS (R8): A host register access of wrong size or alignment completes with zeros and sets ACC_ERR. -/
  | hostMisalignedAccess (f : Fin 2050)
  /-- REGISTER_WRITE (R10): A write to a register without its own row, applying access codes and the lock rule. -/
  | registerSet (x : RegAt) (v : BitVec 32)
  /-- LATCHED_READ (R35): Reading the low word of a wide counter latches its high words. -/
  | latchedRead (x : RegAt)
  /-- VF_FLR (R329): Function-level reset of a VF. -/
  | vfFlr (f : Fin 2048)
  /-- PF_FLR (R330): Function-level reset of a PF and its port's VFs. -/
  | pfFlr (p : Fin 2)
  /-- PERST_ASSERT (R330): PERST of a port resets its functions and lapses its lead. -/
  | perstAssert (p : Fin 2)
  /-- PERST_RELEASE (R429): Release of PERST lets the port train. -/
  | perstRelease (p : Fin 2)
  /-- HOT_RESET (R330): A hot reset of a port with PERST reach. -/
  | hotReset (p : Fin 2)
  /-- LINK_DOWN (R330): Link-down of a port with PERST reach. -/
  | linkDown (p : Fin 2)
  /-- GET_VERSION (R300): SPDM GET_VERSION request. -/
  | getVersion (p : Fin 2) (msg : List Octet)
  /-- GET_CAPABILITIES (R300): SPDM GET_CAPABILITIES request. -/
  | getCapabilities (p : Fin 2) (msg : List Octet)
  /-- NEGOTIATE_ALGORITHMS (R300): SPDM NEGOTIATE_ALGORITHMS request. -/
  | negotiateAlgorithms (p : Fin 2) (msg : List Octet)
  /-- GET_DIGESTS (R300): SPDM GET_DIGESTS request. -/
  | getDigests (p : Fin 2) (msg : List Octet)
  /-- GET_CERTIFICATE (R300): SPDM GET_CERTIFICATE request. -/
  | getCertificate (p : Fin 2) (msg : List Octet)
  /-- CHALLENGE (R300): SPDM CHALLENGE request. -/
  | challenge (p : Fin 2) (msg : List Octet)
  /-- GET_MEASUREMENTS (R300): SPDM GET_MEASUREMENTS request. -/
  | getMeasurements (p : Fin 2) (msg : List Octet)
  /-- KEY_EXCHANGE (R305): SPDM KEY_EXCHANGE for a secured session. -/
  | keyExchange (p : Fin 2) (msg : List Octet)
  /-- FINISH (R305): SPDM FINISH of a secured session. -/
  | finish (p : Fin 2) (msg : List Octet)
  /-- END_SESSION (R305): SPDM END_SESSION. -/
  | closeSession (p : Fin 2) (msg : List Octet)
  /-- KEY_UPDATE (R305): SPDM KEY_UPDATE. -/
  | keyUpdate (p : Fin 2) (msg : List Octet)
  /-- HEARTBEAT (R305): SPDM HEARTBEAT. -/
  | heartbeat (p : Fin 2) (msg : List Octet)
  /-- IDE_KM (R305): IDE_KM message programming IDE keys in a secured session. -/
  | ideKm (p : Fin 2) (msg : List Octet)
  /-- DOE_DISCOVERY (R305): DOE Discovery request on a PF mailbox. -/
  | doeDiscovery (p : Fin 2) (index : BitVec 8)
  /-- MCTP_SPDM_RELAY (R301): The MC relays an SPDM message over MCTP to the secure world. -/
  | mctpSpdmRelay (msg : List Octet)
  /-- MCTP_CONTROL (R415): An MCTP control message. -/
  | mctpControl (msg : List Octet)
  /-- PLDM_PLATFORM_MONITORING (R415): A PLDM sensor request. -/
  | pldmPlatformMonitoring (msg : List Octet)
  /-- REQUEST_FIRMWARE_DATA (R415): PLDM firmware-update transfer that the MC stages. -/
  | requestFirmwareData (data : List Octet)
  /-- ACTIVATE_FIRMWARE (R415): PLDM ActivateFirmware, answered unsupported. -/
  | activateFirmware (msg : List Octet)
  /-- PTP_EVENT_MESSAGE (R422): A PTP event message is received and timestamped in hardware. -/
  | ptpEventMessage (msg : List Octet)
  /-- FLOOR_COMMIT (R111): Writing FLOOR_CTL.COMMIT requests the shadow card take effect. -/
  | floorCommit
  /-- LANE_GROUP_TEST (R160): LANE_CMD action 0 starts the group test of a lane group. -/
  | laneGroupTest (reel : Fin 32) (lane : Fin 32)
  /-- LANE_REINSTATE (R160): LANE_CMD action 1 runs a lane's known-answer test to reinstate it. -/
  | laneReinstate (reel : Fin 32) (lane : Fin 32)
  /-- LANE_RETIRE (R159): LANE_CMD action 2 retires a lane by command. -/
  | laneRetire (reel : Fin 32) (lane : Fin 32)
  /-- SPARE_TEST (R160): LANE_CMD action 3 tests the reel's spare lane. -/
  | spareTest (reel : Fin 32)
  /-- LANE_ACTION_DONE (R160): A lane action finishes and LANE_RESULT.DONE sets. -/
  | laneActionDone (reel : Fin 32) (pass : Bool)
  /-- DU_TEST (R176): DU_CMD test action. -/
  | duTest (u : Fin 64)
  /-- DU_REINSTATE (R176): DU_CMD reinstate action. -/
  | duReinstate (u : Fin 64)
  /-- DU_RETIRE (R176): DU_CMD retire action. -/
  | duRetire (u : Fin 64)
  /-- DU_ACTION_DONE (R176): A DU action finishes. -/
  | duActionDone (u : Fin 64) (pass : Bool)
  /-- NU_TEST (R200): NU_CMD test action. -/
  | nuTest (u : Fin 16)
  /-- NU_REINSTATE (R200): NU_CMD reinstate action. -/
  | nuReinstate (u : Fin 16)
  /-- NU_RETIRE (R200): NU_CMD retire action. -/
  | nuRetire (u : Fin 16)
  /-- NU_ACTION_DONE (R200): An NU action finishes. -/
  | nuActionDone (u : Fin 16) (pass : Bool)
  /-- BOOT_TAP_ARM (R177): Initialises DU_63 and opens the boot tap. -/
  | bootTapArm
  /-- BOOT_TAP_CLOSE (R177): Finalises the boot digest and extends MEAS_0. -/
  | bootTapClose (place : DWord) (image : List Octet)
  /-- MEASX_CMD_GO (R180): Requests a measurement extension through a request set. -/
  | measxGo (x : MeasBy) (index : Fin 32)
  /-- MEAS_EXTENSION (R180): The measurement block applies a queued extension whole. -/
  | measExtension
  /-- RESEED (R210): RNG_CTL.RESEED requests a DRBG reseed at class 2. -/
  | reseed
  /-- RETIRE (R205): SRC_CTL.RETIRE retires a noise source. -/
  | retire (n : Fin 8)
  /-- RAW_CTL_GO (R217): Opens raw access and starts a capture. -/
  | rawCtlGo (sc : Fin 2) (restart : Bool) (source : Fin 8) (count : Fin 1024)
  /-- RAW_CTL_CLOSE (R219): Closes raw access and forces a reseed. -/
  | rawCtlClose (sc : Fin 2)
  /-- RAW_CAPTURE_END (R218): A raw capture finishes or aborts. -/
  | rawCaptureEnd (samples : List Octet)
  /-- ENTROPY_BLOCK_COMPLETE (R203): A 2,048-sample block completes and is accepted or discarded. -/
  | entropyBlockComplete (n : Fin 8) (samples : List Octet)
  /-- STARTUP_TEST_END (R204): A source's start-up test ends, passing or failing. -/
  | startupTestEnd (n : Fin 8) (samples : List Octet)
  /-- CONDITIONED_OUTPUT_READY (R208): The conditioner outputs 256 bits into the FIFO. -/
  | conditionedOutputReady
  /-- DRBG_GENERATE (R211): The DRBG serves the highest-priority pending generate request. -/
  | drbgGenerateServe
  /-- DRBG_RESEED (R211): The DRBG reseeds once two outputs are available. -/
  | drbgReseedServe
  /-- DRBG_INSTANTIATE (R212): The DRBG runs its known-answer test and instantiates. -/
  | drbgInstantiate (testPass : Bool)
  /-- EXPANDER_RESEED (R147): A mask expander absorbs a fresh seed every 2^20 permutations. -/
  | expanderReseed (reel : Fin 32)
  /-- EXPANDER_STALE (R147): 2^22 permutations without a seed take the reel out of service. -/
  | expanderStale (reel : Fin 32)
  /-- KS_OP_GENERATE (R247): KS_OP operation 1: generate a key. -/
  | ksOpGenerate (sc : Fin 2) (arg : DWord)
  /-- KS_OP_DERIVE (R248): KS_OP operation 2: derive a key. -/
  | ksOpDerive (sc : Fin 2) (arg : DWord)
  /-- KS_OP_RESTRICT (R230): KS_OP operation 3: restrict a key. -/
  | ksOpRestrict (sc : Fin 2) (arg : DWord)
  /-- KS_OP_INFO (R479): KS_OP operation 4: key information. -/
  | ksOpInfo (sc : Fin 2) (arg : DWord)
  /-- KS_OP_DESTROY (R250): KS_OP operation 5: destroy a key. -/
  | ksOpDestroy (sc : Fin 2) (arg : DWord)
  /-- KS_OP_EXPORT (R251): KS_OP operation 6: export a key. -/
  | ksOpExport (sc : Fin 2) (arg : DWord)
  /-- KS_OP_IMPORT (R255): KS_OP operation 7: import a key. -/
  | ksOpImport (sc : Fin 2) (arg : DWord)
  /-- KS_OP_COMMIT (R258): KS_OP operation 8: vault commit. -/
  | ksOpCommit (sc : Fin 2) (arg : DWord)
  /-- KS_OP_LOAD (R259): KS_OP operation 9: vault load. -/
  | ksOpLoad (sc : Fin 2) (arg : DWord)
  /-- KS_OP_VAULT_RESET (R260): KS_OP operation 10: vault reset. -/
  | ksOpVaultReset (sc : Fin 2) (arg : DWord)
  /-- DOMAIN_DESTRUCTION_STEP (R280): Background destruction of a DESTROYING domain's objects, ending in ABSENT. -/
  | domainDestructionStep (d : Fin 4096)
  /-- JREC_SUBMIT (R303): Secure firmware submits a journal record. -/
  | jrecSubmit (sc : Fin 2) (cont reserve : Bool)
  /-- JOURNAL_AGE_TIMER (R286): The oldest unflushed record reaches 1 ms and a flush starts. -/
  | journalAgeTimer
  /-- JOURNAL_FLUSH_DONE (R286): A flush completes and the journal head is written. -/
  | journalFlushDone
  /-- POT_ENTRY_WRITE (R336): Writes a page ownership entry through to the backing store. -/
  | potEntryWrite (sc : Fin 2) (p : Fin 524288) (v : BitVec 16)
  /-- POT_SYNC (R337): POT_CTL.SYNC waits for accesses under earlier entries. -/
  | potSyncSet
  /-- POT_BACK_WRITE (R338): Sets the page-table backing store and locks its pages. -/
  | potBackSet (sc : Fin 2) (v : BitVec 15)
  /-- REGION_WRITE (R341): Writes a region register, with ATTR.LOCK locking the region. -/
  | regionSet (sc : Fin 2) (k : Fin 3) (r : Fin 16) (off : Fin 4) (v : Word)
  /-- VIOL_POP (R345): Removes the head violation report. -/
  | violPop
  /-- MEM_VAULT_BASE_WRITE (R354): Sets the vault region base once per POR. -/
  | memVaultBaseSet (sc : Fin 2) (high : Bool) (v : Word)
  /-- LINE_WRITE (R363): MEM_LW_CMD.GO writes a full DRAM line, clearing poison. -/
  | lineWrite (sc : Fin 2)
  /-- DDR_TRAINING_DONE (R353): DDR training completes or fails. -/
  | ddrTrainingDone (pass : Bool)
  /-- DRAM_ZQ_CALIBRATION (R353): Periodic ZQ calibration and DQS tracking. -/
  | dramZqCalibration
  /-- SEALED_FILL_PAGE (R359): The background sealed fill completes a page. -/
  | sealedFillPage
  /-- VAULT_FILL_DONE (R360): The vault fill ends and VAULT_READY sets. -/
  | vaultFillDone
  /-- PATROL_SCRUB (R366): Patrol scrub reads and corrects one line. -/
  | patrolScrub (line : BitVec 29) (errs : Fin 81)
  /-- ALARM_ACK (R380): TAMP_CTL.ACK clears ALARM if conditions hold. -/
  | alarmAck (m : Requester) (index : BitVec 9)
  /-- WIN_CLOSE (R389): TAMP_CTL.WIN_CLOSE closes the maintenance window. -/
  | winClose (m : Requester)
  /-- WINDOW_DURATION_EXPIRY (R389): The maintenance window's DURATION elapses. -/
  | windowDurationExpiry
  /-- CELL_READ_SERIAL (R373): CELL_CMD action 0 reads a cell's SERIAL. -/
  | cellReadSerial (c : Fin 2)
  /-- CELL_CHALLENGE (R372): CELL_CMD action 1 sends a challenge and fills the response. -/
  | cellChallenge (c : Fin 2)
  /-- CELL_ACCEPT (R375): CELL_CMD action 2 accepts a new cell into its record. -/
  | cellAccept (c : Fin 2)
  /-- CELL_REJECT (R375): CELL_CMD action 3 rejects a cell. -/
  | cellReject (c : Fin 2)
  /-- CELL_CMD_DONE (R372): A custody-cell bus action finishes. -/
  | cellCmdDone (answer : Option (List Octet))
  /-- TAMPER_CONFIG_WRITE (R388): The lead writes a tamper configuration word while unlocked. -/
  | tamperConfigSet (m : Requester) (k : Fin 1024) (v : Word)
  /-- TAMPER_SAMPLE (R376): A sensor sample is taken and filters are advanced. -/
  | tamperSample (r : List TamperReading)
  /-- VBAT_CRIT_TRIP (R376): Both battery inputs stay below 2.30 V for 1 ms on battery. -/
  | vbatCritTrip
  /-- CELL_IDENTITY_CHECK (R373): Periodic SERIAL check of a present cell. -/
  | cellIdentityCheck (c : Fin 2) (serial : BitVec 64)
  /-- CELL_HOUR (R374): A cell's hour count advances, raising CELL_DUE or the life sensor. -/
  | cellHour (c : Fin 2)
  /-- TICK_STUCK (R371): The tick count sticks at its maximum. -/
  | tickStuck
  /-- MAIN_ZEROIZED_ENTRY (R382): The main domain learns of zeroization and enters Zeroized. -/
  | mainZeroizedEntry
  /-- TAMPER_POWER_SWITCH (R369): The tamper domain switches between main and battery supply. -/
  | tamperPowerSwitch (toMain : Bool)
  /-- TAMPER_DOMAIN_LOSS (R370): Both battery inputs fail without main power and the domain's contents are lost. -/
  | tamperDomainLoss
  /-- CLAIM (R272): A candidate claims the lead. -/
  | claim (m : Requester)
  /-- RELEASE (R273): The lead gives up the role. -/
  | releaseLead (m : Requester)
  /-- ACQUIRE (R278): A master requests a lock token. -/
  | acquire (n : Fin 16) (t : TokenMaster)
  /-- TOKEN_RELEASE (R278): The holder releases a lock token. -/
  | tokenRelease (n : Fin 16) (t : TokenMaster)
  /-- BALLOT_EXPIRY (R269): The tick count reaches a ballot's EXPIRY. -/
  | ballotExpiry (b : Fin 32)
  /-- MIG_TICKET_LAPSE (R326): A migration ticket lapses after 600 s. -/
  | migTicketLapse (i : Fin 8)
  /-- STAGING_SESSION_TIMEOUT (R418): A staging session ends after 600 s without a chunk. -/
  | stagingSessionTimeout
  /-- DEBUG_SESSION_EXPIRY (R350): DBG_STAT.LEFT reaches 0 and the session ends. -/
  | debugSessionExpiry
  /-- IDCODE (R460): JTAG IDCODE instruction. -/
  | jtagIdcode
  /-- SAMPLE_PRELOAD (R460): JTAG SAMPLE/PRELOAD instruction. -/
  | jtagSamplePreload (cells : List Bool)
  /-- EXTEST (R461): JTAG EXTEST, effective only in admitting modes. -/
  | jtagExtest
  /-- CLAMP (R461): JTAG CLAMP, effective only in admitting modes. -/
  | jtagClamp
  /-- HIGHZ (R461): JTAG HIGHZ, effective only in admitting modes. -/
  | jtagHighz
  /-- NONCE_READ (R460): JTAG read of DBG_NONCE. -/
  | jtagNonceRead
  /-- DEBUG_PORT (R460): JTAG selection of the debug access port. -/
  | jtagDebugPort
  /-- BYPASS (R460): JTAG BYPASS instruction. -/
  | jtagBypass
  /-- DEBUG_HALT (R347): The debug port halts a target controller. -/
  | debugHalt (c : CtlId)
  /-- DEBUG_SINGLE_STEP (R347): The debug port single-steps a halted controller. -/
  | debugSingleStep (c : CtlId)
  /-- DEBUG_RESUME (R351): The debug port resumes a halted controller. -/
  | debugResume (c : CtlId)
  /-- DEBUG_ACCESS (R347): A debug-master memory or register access at the session's level. -/
  | debugAccess (isStore : Bool) (target : DebugTarget) (v : Word)
  /-- HELLO (R394): A received HELLO frame updates path state. -/
  | hello (port : Fin 4) (frame : List Octet)
  /-- JOIN (R399): A received JOIN message in the join exchange. -/
  | joinMessage (port : Fin 4) (frames : List (List Octet))
  /-- PAIR (R396): A received PAIR message in the link-key exchange. -/
  | pair (port : Fin 4) (frames : List (List Octet))
  /-- ROSTER (R397): A received roster update. -/
  | roster (port : Fin 4) (frames : List (List Octet))
  /-- ACK (R402): A received acknowledgement of a message. -/
  | ack (port : Fin 4) (frames : List (List Octet))
  /-- STATEMENT (R404): A received attestation request or statement. -/
  | statement (port : Fin 4) (frames : List (List Octet))
  /-- REPLICA (R406): A received domain update with an optional transfer blob. -/
  | replica (port : Fin 4) (frames : List (List Octet))
  /-- RESYNC (R406): A received request for missing domain updates. -/
  | resync (port : Fin 4) (frames : List (List Octet))
  /-- HELLO_TIMER (R394): Every 100 ms a HELLO is sent on each enabled port. -/
  | helloTimer
  /-- PATH_TIMEOUT (R402): No HELLO for 300 ms marks a path down. -/
  | pathTimeout (member : Fin 4096) (port : Fin 4)
  /-- MESSAGE_RETRY_TIMER (R402): An unacknowledged message is retried after 10 ms or moved to another port. -/
  | messageRetryTimer (id : BitVec 32)
  /-- PCS_LOCK_LOSS (R402): A Peloux port loses PCS lock and moves its messages. -/
  | pcsLockLoss (port : Fin 4)
  /-- LINK_REKEY_TIMER (R396): Link keys are renewed after 86,400 s. -/
  | linkRekeyTimer (member : Fin 4096)
  /-- PLX_JOIN (R399): PLX_CMD JOIN starts a join. -/
  | plxJoin (m : Requester)
  /-- ADMIT (R399): PLX_CMD ADMIT admits a pending joiner. -/
  | admitJoiner (m : Requester)
  /-- REFUSE (R399): PLX_CMD REFUSE refuses a pending joiner. -/
  | refuseJoiner (m : Requester)
  /-- LEAVE (R401): PLX_CMD LEAVE retires this member. -/
  | leave (m : Requester)
  /-- JOIN_CALLER_TIMEOUT (R399): No caller heard within 1 s of JOIN. -/
  | joinCallerTimeout
  /-- JOIN_ADMIT_TIMEOUT (R399): No ADMIT within 600 s. -/
  | joinAdmitTimeout
  /-- MC_RUN (R411): MC_CTL.RUN releases the MC. -/
  | mcRun
  /-- MC_RESET (R411): MC_CTL.RESET resets and releases the MC. -/
  | mcReset
  /-- MC_WDOG_EXPIRY (R411): The MC watchdog expires and resets the MC. -/
  | mcWdogExpiry
  /-- WDOG_KICK (R411): Restarts the MC watchdog. -/
  | wdogKick
  /-- MONITOR_SAMPLE (R412): The 1 ms die-monitor sample updates WARN and CRIT levels. -/
  | monitorSample (k : Fin 14) (v : Int)
  /-- HLOG_APPEND (R414): Appends an MC record to the health log. -/
  | hlogAppend
  /-- HLOG_ERASE (R414): Erases the health log partition. -/
  | hlogErase (m : Requester)
  /-- STAGE_CMD_GO (R418): The MC submits a staging block. -/
  | stageCmdGo
  /-- TIME_RATE_WRITE (R422): Writing TIME_RATE_H applies a new rate. -/
  | timeRateSet (v : Word)
  /-- TIME_STEP (R422): Applies a signed step to the time counter. -/
  | timeStep (v : Word)
  /-- TIME_SET (R422): Sets the time counter absolutely and enters ACQUIRING. -/
  | timeSet (v : Word)
  /-- TIME_CTL_LOCK_WRITE (R422): The servo claims or drops lock. -/
  | timeLockSet (lock : Bool)
  /-- HOLDOVER_TIMER (R422): 4 s without discipline moves DISCIPLINED to HOLDOVER. -/
  | holdoverTimer
  /-- FREERUN_TIMER (R422): 86,400 s in HOLDOVER moves to FREERUN. -/
  | freerunTimer
  /-- PPS_IN_EDGE (R424): A PPS_IN rising edge latches the time counter. -/
  | ppsInEdge
  /-- PPS_IN_LOST (R424): 2 s without a PPS_IN edge sets PPS_IN_LOST. -/
  | ppsInLost
  /-- PPS_OUT_PULSE (R424): PPS_OUT rises as the nanoseconds field passes zero. -/
  | ppsOutPulse
  /-- RST_CTL_WARM (R427): Secure firmware requests a warm reset. -/
  | rstCtlWarm
  /-- RST_CTL_FAULT (R445): Secure firmware enters Fault with cause 10. -/
  | rstCtlFault
  /-- SC1_RUN (R434): Releases SC_1 from reset. -/
  | sc1Run
  /-- SC_WDOG_KICK (R473): Restarts the SC watchdog. -/
  | scWdogKick
  /-- SC_WDOG_HALF (R473): The SC watchdog reaches half its timeout and line 15 pends. -/
  | scWdogHalf
  /-- SC_WDOG_EXPIRY (R427): The SC watchdog expires and requests a warm reset. -/
  | scWdogExpiry
  /-- BLOCK_RST_GO (R432): Starts a block reset behind its isolation wrapper. -/
  | blockRstGo (ty : Fin 4) (i : Fin 64)
  /-- BLOCK_RESET_DONE (R432): A block reset completes and the wrapper opens. -/
  | blockResetDone
  /-- WAKE_REQ (R448): SLEEP_STAT.WAKE_REQ raises wake event 4. -/
  | wakeReq
  /-- INT_DOOR (R474): Rings another controller's doorbell. -/
  | intDoor (ring : BitVec 3)
  /-- SLEEP_ENTRY (R447): The idle condition holds for IDLE and the device enters Sleep. -/
  | sleepEntry
  /-- SLEEP_WAKE (R448): A wake event returns the device to Operational. -/
  | sleepWake (ev : Fin 7)
  /-- SUPPLY_POR (R427): A main supply falls below its threshold. -/
  | supplyPor
  /-- RESET_N_ASSERT (R427): RESET_N held low resets with POR reach. -/
  | resetNAssert
  /-- WARM_N_ASSERT (R427): WARM_N held low requests a warm reset. -/
  | warmNAssert
  /-- RESET_SOURCE_RELEASE (R429): Release of the last source starts exit from reset. -/
  | resetSourceRelease (bit : Fin 11)
  /-- FUSE_LOAD_DONE (R430): Fuse Load ends and the shadow is checked. -/
  | fuseLoadDone (shadowOk : Bool) (split : Bool) (strap : Fin 8)
  /-- SECURE_BOOT_END (R443): Secure Boot ends and the mode is set. -/
  | secureBootEnd (slot : Option Bool) (testPass : Bool)
  /-- WARM_RESET_APPLY (R436): After its flush, the warm reset is applied. -/
  | warmResetApply
  /-- WARM_RESET_RELEASE (R436): After reload and scrub, SC_0 leaves reset. -/
  | warmResetRelease
  /-- PWR_FAIL_N_FALL (R287): PWR_FAIL_N falls and the power-fail flush starts. -/
  | pwrFailFall
  /-- POWER_FAIL_HOLD (R287): After the flush the device holds itself in reset. -/
  | powerFailHold
  /-- PWR_FAIL_N_RISE (R437): PWR_FAIL_N rises with supplies in range and the device restarts. -/
  | pwrFailRise
  /-- FIGURE_LOAD_DONE (R107): The loader finishes writing a figure's steps. -/
  | figureLoadDone (fid : BitVec 16)
  /-- ILLEGAL_INSTRUCTION (R38): A controller fetches a reserved or malformed encoding and raises Illegal Instruction before any change. -/
  | illegalInstruction (c : CtlId) (w : DWord)
  /-- CYCLE_COUNT_WRAP (R35): The 36-bit controller cycle count wraps to zero and sets CTRSTAT.CYO. -/
  | cycleCountWrap (c : CtlId)
  /-- MASK_EXPANDER_ALLOTMENT (R146): At cycles 8j to 8j+7 of each measure a reel's mask expander writes an allotment into lane j's free randomness buffer. -/
  | maskExpanderAllotment (reel : Fin 32) (lane : Fin 32)
  /-- PCS_LOCK_ACQUIRED (R402): A Peloux port's PCS gains lock, setting PLX_STAT.LINK and letting paths on that port come up. -/
  | pcsLockAcquired (port : Fin 4)
  /-- PELOUX_FRAME_DISCARD (R393): A received frame that is short, of unknown VER or TYPE, or with LEN beyond 1,400 is discarded and counted in PLX_PORT_DROP. -/
  | pelouxFrameDiscard (port : Fin 4)
  /-- LINK_UP (R330): A PCIe port completes link training and becomes usable after PERST release, hot reset or link-down. -/
  | linkUp (p : Fin 2)
  /-- L1_ENTRY (R447): A PCIe port enters an L1 substate, one of the conditions that lets the Sleep idle timer run. -/
  | l1Entry (p : Fin 2)
  /-- CONFIG_SPACE_WRITE (R306): A host configuration write sets or clears VF Enable or a function's power state. -/
  | configSpaceSet (w : ConfigWrite)
  /-- MGMT_ETHERNET_FRAME (R415): A management Ethernet frame other than a PTP event message (ARP, ICMP, PTP general or TFTP) arrives for the MC. -/
  | mgmtEthernetFrame (frame : List Octet)
  /-- FLASH_WRITE_DONE (R414): The flash controller finishes a health-log append, erase or staging write, clears GO and latches MC line 5. -/
  | flashDone
  /-- KS_OP_DONE (R246): The key store core finishes a KS_OP operation and sets KS_OP_STAT.DONE with its status. -/
  | ksOpDone
  deriving DecidableEq, Repr

end Sys2Proof
end

