-- ==== Sys2Proof/Decode.lean ====
section
/-! DEFINITION. Words that spell commands. -/
namespace Sys2Proof

/-- The command that a word spells by the bits of spec/opcode_table.json. The table gives no row any bits (every row's list of fields
is empty: the device takes commands from outside, and no master sends them as instruction words), so no word spells a command. -/
def decodeTableWord (_nbits _w : Nat) : Option Instr := none

end Sys2Proof
end

