-- ==== Sys2Proof/Config.lean ====
section
/-! DEFINITION. What the spec leaves open, as constants that nothing in Lean can evaluate, and what an implementation or a
board fixes. Each constant is named in the assumption log (notes/assumptions). -/
namespace Sys2Proof.Config

/-- A free word: the value of a result that the spec does not state, taken at a count of the state. -/
opaque freeWord : Nat → Word
/-- A free number, for a count or a length that the spec leaves open. -/
opaque freeNat : Nat → Nat
/-- A free octet string of a given length: secrets, nonces and serial numbers that the device draws or was made with. -/
opaque freeOctets : Nat → Nat → List Octet
/-- Cycles that an access to DRAM or a device register takes (Table 2.20 gives no figure). -/
opaque accessCycles : Nat → Nat
/-- The contents of the boot ROM and of the calibration windows, nonet by nonet. -/
opaque romNonet : Nat → Nonet
/-- The 32-octet identity root in OTP (Table 10.1). -/
opaque identityRoot : List Octet
/-- The device serial number of 16 octets. -/
opaque deviceSerial : List Octet
/-- A signature by a device key over octets: key number, message, randomness count. The public-key arithmetic is that of
the standards the spec names. -/
opaque sign : Nat → List Octet → Nat → List Octet
/-- Does this signature by this public key over this message verify? Algorithm code, public key, message, signature. -/
opaque verify : Nat → List Octet → List Octet → List Octet → Bool
/-- The public key that belongs to a key pair's private material: algorithm code, material. -/
opaque publicKey : Nat → List Octet → List Octet
/-- The shared secret of a key-establishment algorithm: algorithm code, private material, peer message. -/
opaque sharedSecret : Nat → List Octet → List Octet → List Octet
/-- The message a key-establishment algorithm sends to a peer: algorithm code, peer public key, randomness count. -/
opaque encapsulate : Nat → List Octet → Nat → List Octet × List Octet

/-- The WORLD bit of a journal record without a requesting master (R282 states it only for a master). -/
opaque noMasterWorld : Bool

/-- Whether CSAVE and CREST hold CTR before BOUT (Table 4.3 names the chaining state and two blocks a lane, not their order). -/
opaque csaveCtrFirst : Bool

/-- Which of the values r and r + m a modular result below 2m takes (R185 bounds the result and does not choose): modulus, operands. -/
opaque redundant : Nat → Nat → Nat → Bool
/-- Carries that wait in the guard bits of a loose number: value, limb (R184, R185 fix the value and not the limbs). -/
opaque looseCarry : Nat → Nat → Nat
/-- A Boolean share of PCONV: share, coefficient, random word, value (Table 8.2 fixes the exclusive OR of the shares only). -/
opaque pconvShare : Nat → Nat → Nat → Nat → Nat
/-- A part of a coefficient split by a gamma2 word of zero, for which no decomposition is stated (Table 8.2). -/
opaque splitZero : Nat → Nat → Nat
/-- The 832 bits that a mask expander deals to a lane: sponge state, permutations since, lane (R146 gives the rotation, not the bits). -/
opaque allotment : List Octet → Nat → Nat → Nat
/-- The place of the journal buffer that a record takes (R286 gives 1,024 places and no order): SEQ. -/
opaque journalPlace : Nat → Nat
/-- What an octet of a place of the journal buffer that holds no unflushed record reads as. -/
opaque journalStale : Nat → Octet
/-- Public keys that the Raesh factory put into the device or its flash: 0 LMS and 1 ML-DSA-87 for firmware images (R416), 2 and 3 ML-DSA-87
and ECDSA P-384 of the factory CA (R225), 4 the cell CA, 5 and 6 for library figures (R107). -/
opaque raeshKey : Nat → List Octet
/-- SHA-384 of the debug key pair, in OTP (R348). -/
opaque debugKeyDigest : List Octet
/-- The factory index in OTP, 26 bits (R238). -/
opaque factoryIndex : Nat
/-- The certificate chain of the identity ECDSA key (R300). -/
opaque factoryChain : List Octet
/-- Does this octet string hold identity keys that chain to the factory CA (R252, R298)? Statement or key octets. -/
opaque chains : List Octet → Bool
/-- Private material of an asymmetric binding made from random seeds (R247): binding, length in bits, seeds. -/
opaque keyMaterial : Nat → Nat → List Octet → List Octet
/-- The identity public keys (ML-DSA-87, ECDSA P-384) that the Raesh factory CA certifies for a serial number (R225, R252). -/
opaque identityKeys : List Octet → List Octet × List Octet
/-- Did this device issue this nonce for a statement, and has it not been used (R252; no command of the spec issues one for an export)? -/
opaque freshNonce : List Octet → Bool
/-- The selective IDE stream that a function's configuration space binds it to (Table 13.1, R319; the spec lays out no such register). -/
opaque ideStream : Nat → Option Nat
/-- The OTP shadow's digest, which MEAS_3 takes (R221). -/
opaque otpDigest : List Octet
/-- Which bindings secure firmware's acceptance table lists for an operand of a library figure (R232): figure, operand, binding. -/
opaque accepts : Nat → Nat → Nat → Bool
/-- What the figure library documentation gives of a library figure's lengths, from its parameter words and IN_LEN: octets of data (for CMAC of
the longest message, for GMAC of additional data), and the output length (R316). -/
opaque dataLength : Nat → List Nat → Nat → Nat
opaque outputLength : Nat → List Nat → Nat → Nat
/-- The further length rules of a library figure, which that documentation gives: figure, P, parameter words, IN_LEN. -/
opaque lengthsAgree : Nat → Nat → List Nat → Nat → Bool
/-- Does a library figure take an object identifier (R315)? -/
opaque takesObject : Nat → Bool
/-- First data-unit number and number of data units of an XTS command, from its parameter words (Table 6.9). -/
opaque xtsUnits : List Nat → Nat × Nat
/-- The subject handle of a key statement, from the command (R302). -/
opaque attestSubject : List Octet → Nat
/-- The octet of a fixity figure's page ring at which its image keeps the digest state record (R169, R477): figure. -/
opaque fixityPlace : Nat → Nat
/-- The record type of an event of the quadrille, which R398 and R405 journal and Table 12.3 does not list. -/
opaque plxRecordType : Nat
/-- The transport keys whose SHA-384 is a roster entry's TR_DIGEST: ML-KEM-1024 key, ECDH key (R396). -/
opaque transportOfDigest : List Octet → List Octet × List Octet
/-- The 16 octets that CAPABILITIES of SPDM carries: timing, flags, transfer sizes (R300 names the features, not the sizes). -/
opaque spdmCapabilities : List Octet
/-- The fields that QUERY_RESP of IDE_KM carries beyond its port index. -/
opaque ideCapabilities : List Octet

end Sys2Proof.Config
end

