-- ==== Sys2Proof/Machine/State.lean ====
section
/-! DEFINITION. The state of the CK-720 as plain data: every register, memory, buffer, counter, mode and table that spec/
gives the block, the queue of waiting commands, and the state after reset. -/
namespace Sys2Proof.Machine

/-- Register access codes (R10, Table 0.4). -/
inductive Acc | rw | ro | wo | w1c | w1s | wl | xo
  deriving DecidableEq, Repr

/-- Reset names in order of decreasing reach (R11, Table 0.5); `none` for a field that no reset changes. -/
inductive RCls | none | vbat | por | warm | perst | flr | block
  deriving DecidableEq, Repr

/-- One named field of a register: store address, lowest bit, width, reset value, access code, reset name. -/
structure Fld where
  addr : Nat
  lo : Nat
  wid : Nat
  rst : Nat
  acc : Acc
  cls : RCls
  deriving DecidableEq, Repr

/-- Names of stops. No meaning of this model raises one: every command of the table has an effect the spec gives. -/
inductive Fault
  /-- Raised by nothing; kept so that the type has a name. Safe: a machine that never stops here loses no behaviour. -/
  | noFault
  deriving DecidableEq, Repr

/-- Commands that have no meaning. -/
inductive Refusal
  /-- Raised by an arm of `exec` for a command that has not been given its meaning. Safe: the run stops. -/
  | notModelled (mnemonic : String)
  deriving DecidableEq, Repr

/-! ### Controllers (spec/02, spec/03) -/

/-- FLAGS (Table 2.4). -/
structure Flags where
  z : Bool
  n : Bool
  c : Bool
  v : Bool
  dz : Bool
  pe : Bool
  deriving DecidableEq, Repr

/-- One hardware loop level: ACT, LCNT, LSTA, LEND (Table 3.3; R478 for a sequencer, where addresses count steps). -/
structure LoopLevel where
  act : Bool
  cnt : Word
  sta : DWord
  fin : DWord
  deriving DecidableEq, Repr

/-- One exception frame (R76). -/
structure Frame where
  epc : DWord
  code : BitVec 8
  vec : BitVec 5
  eaddr : DWord
  shpos : Bool
  shadow : Bool
  dsx : Bool
  plevel : Bool
  pie : Bool
  deriving DecidableEq, Repr

/-- What each world keeps for itself (R70): FLAGS, TRAPEN, loop state, exception state. -/
structure WorldCtx where
  flags : Flags
  pet : Bool
  dzt : Bool
  lp0 : LoopLevel
  lp1 : LoopLevel
  depth : Nat
  ie : Bool
  f0 : Frame
  f1 : Frame
  vbase : DWord
  imask : BitVec 16
  escr0 : Word
  escr1 : Word
  deriving DecidableEq, Repr

/-- A branch whose delay slot has not completed: its address, where control goes after the slot, and whether it writes the
link to d30 (R59 to R61). -/
structure BranchPend where
  owner : DWord
  dest : DWord
  link : Bool
  deriving DecidableEq, Repr

/-- One controller: general registers, pc, level, world, both worlds' contexts, cycle count with its holding register,
CTRSTAT.CYO, the pending branch, the instructions left of a GATE shadow, the world registers of Table 3.6, and whether it
runs, waits (R82) or is halted (R83, R351); whether a single step of the debug port lets its next instruction run (Table 14.12). -/
structure Ctl where
  g : Vector Word 32
  pc : DWord
  priv : Bool
  secure : Bool
  norm : WorldCtx
  secu : WorldCtx
  cyc : DWord
  cycHold : Option Word
  cyo : Bool
  branch : Option BranchPend
  shadow : Nat
  gvalid : Bool
  grlevel : Bool
  ghwentry : Bool
  gpc : DWord
  gcode : BitVec 8
  monbase : DWord
  iroute : BitVec 16
  running : Bool
  waiting : Bool
  halted : Bool
  step : Bool
  deriving DecidableEq, Repr

/-- All flags clear (Table 2.4). -/
def Flags.reset : Flags := ⟨false, false, false, false, false, false⟩
/-- An inactive loop level (Table 3.3). -/
def LoopLevel.reset : LoopLevel := ⟨false, 0, 0, 0⟩
/-- An empty frame (Table 3.9). -/
def Frame.reset : Frame := ⟨0, 0, 0, 0, false, false, false, false, false⟩
/-- A world's context after reset: TRAPEN.PET is 1, everything else 0 (Tables 2.4, 2.5, 3.3, 3.9). -/
def WorldCtx.reset : WorldCtx :=
  ⟨.reset, true, false, .reset, .reset, 0, false, .reset, .reset, 0, 0, 0, 0⟩
/-- A controller at its reset entry (R84), held until it is released: privileged, SC_0 and SC_1 secure, the MC normal.
The general registers hold 0 (DESIGN CHOICE, log 1). -/
def Ctl.reset (secure : Bool) : Ctl :=
  ⟨Vector.replicate 32 0, 0, true, secure, .reset, .reset, 0, none, false, none, 0, false, false, false, 0, 0, 0x400, 0xFFFF,
   false, false, false, false⟩

/-! ### The floor (spec/04 to spec/08) -/

/-- A key as a lane holds it (R141): material, length in bits, inverse form, algorithm binding, attributes of its slot. -/
structure LaneKey where
  mat : List Octet
  bits : Nat
  inv : Bool
  binding : Nat
  attr : Nat
  deriving DecidableEq, Repr

/-- One lane (Table 6.2). CTR also serves as CHAIN; `spent` is the guard mark of R150; `rnd` holds the allotments of the two
randomness buffers, the older first (R145, R146). STATE, KSCHED, DSTATE and DKEY live only within a block and are computed
with it. -/
structure Lane where
  bin : Block
  bout : Block
  ctr : Block
  key : Option LaneKey
  spent : Bool
  rnd : List (BitVec 832)
  deriving DecidableEq, Repr

/-- What a lane group adds to its lanes: the hold pointer (R102) and GHASH H and Y. -/
structure Group where
  hp : BitVec 14
  h : Block
  y : Block
  deriving DecidableEq, Repr

/-- An XTS tweak unit: tweak, exponent of alpha since the last TWI, K2. -/
structure XtUnit where
  tweak : Block
  expo : Nat
  k2 : Option (List Octet)
  deriving DecidableEq, Repr

/-- A digest unit (R162 to R168): algorithm code (0 none), 200-octet state, length counter, message buffer, squeeze buffer,
digest register, FINAL, KEYED, tapped reel, absorb position of KECCAK mode, and whether it is absorbing. -/
structure DigestUnit where
  alg : Nat
  st : List Octet
  len : Nat
  buf : List Octet
  sq : List Octet
  dig : List Octet
  final : Bool
  keyed : Bool
  tap : Option Nat
  apos : Nat
  absorbing : Bool
  deriving DecidableEq, Repr

/-- A modulus context (MSET): m, m', R² mod m, the limbs of the borrow-free 4m. -/
structure ModCtx where
  m : Nat
  mp : Nat
  r2 : Nat
  m4 : List Nat
  deriving DecidableEq, Repr

/-- A lattice context (LSET): width, q, twiddle table, the word after the first one (R193, PSPLIT). -/
structure LatCtx where
  w : Nat
  q : Nat
  tw : List Nat
  g2 : Nat
  deriving DecidableEq, Repr

/-- A number unit (R183, R187, R189): operand memory, written bits, A0 to A15, LEN (0 invalid), contexts, REJ. -/
structure NumUnit where
  mem : Tab Word
  wr : Tab Bool
  a : Vector (BitVec 16) 16
  len : Nat
  mctx : Option ModCtx
  lctx : Option LatCtx
  lw : Nat
  rej : Bool
  deriving DecidableEq, Repr

/-- What lands when an operation's latency has passed (R91). -/
inductive LandEff
  | freg (r : Fin 32) (v : Word)
  | fpair (r : Fin 32) (v : DWord)
  | flags (z n : Bool) (c v : Option Bool)
  | loc (a : Nat) (v : Word)
  | loop (lvl : Fin 2) (l : LoopLevel)
  | hp (lg : Nat) (v : BitVec 14)
  | bin (lane : Nat) (b : Block)
  | bout (lane : Nat) (b : Block)
  | ctr (lane : Nat) (b : Block) (spent : Bool)
  | key (lane : Nat) (k : LaneKey)
  | gh (lg : Nat) (b : Block)
  | gy (lg : Nat) (b : Block)
  | tweak (xt : Nat) (b : Block) (expo : Nat)
  | k2 (xt : Nat) (mat : List Octet)
  | hold (addr : Nat) (b : Block)
  | base (v : Nat) (spent : Bool)
  | slotKey (slot : Nat) (mat : List Octet)
  | duNew (du : Nat) (u : DigestUnit)
  | duState (du : Nat) (st : List Octet) (moreSq : List Octet)
  | duFinal (du : Nat) (st dig sq : List Octet)
  | duAppend (du : Nat) (src : Nat) (o : List Octet) (keyed : Bool)
  | duTap (du : Nat) (reel : Nat)
  | fixity (alg : Nat) (o : List Octet)
  | nuMem (nu : Nat) (base : Nat) (ws : List Word)
  | nuA (nu : Nat) (d : Fin 16) (v : BitVec 16)
  | nuLen (nu : Nat) (n : Nat)
  | nuMod (nu : Nat) (c : ModCtx)
  | nuLat (nu : Nat) (c : LatCtx)
  | nuWidth (nu : Nat) (w : Nat)
  | nuRej (nu : Nat)
  | auth (ok : Bool)
  | res (i : Fin 8) (v : Word)
  | hrel (page : Nat)
  | spareFree (reel : Nat)
  | noted
  deriving DecidableEq, Repr

/-- A result in flight: the instance cycle at which it lands, the cycle at which its operation issued, what it writes. -/
structure Landing where
  cyc : Nat
  issued : Nat
  eff : LandEff
  deriving DecidableEq, Repr

/-- The declarations of a resident figure image (Table 4.4). -/
structure FigHdr where
  fid : Nat
  version : Nat
  steps : Nat
  auth : Bool
  stream : Bool
  repeatable : Bool
  bodyFirst : Nat
  bodyLast : Nat
  pMax : Nat
  pReg : Nat
  repeatMax : Nat
  nReels : Nat
  nKeys : Nat
  nPages : Nat
  rndWords : Nat
  nParams : Nat
  cycPro : Nat
  cycBody : Nat
  cycEpi : Nat
  keyDecl : List (Nat × Nat)
  units : List (Nat × Nat)
  digest : List Octet
  deriving DecidableEq, Repr

/-- How an instance stopped short of its END (R115, R126, R132, R134, R151, R157). -/
inductive StopKind | abort | fault | replayable | flr | keyAttr
  deriving DecidableEq, Repr

/-- A figure instance on a sequencer (R92 to R104): its command, declarations, function, P, run number, the measure at which
the run was placed, current cycle and step, span, bound columns, reels, key slots, hold pages by logical reel, reserved random
words, counter base (R149), previous TWI number (R150), authentication result, result words, fixity field, pages released and
not yet taken, whether a page has been drained, a stop due at the next boundary (R126, R151, R157), the sticky errors of R166 and
R172, the cycle of END, whether it repeats (R104), END.REJECT, a stop by the contract monitor, whether it is a replay, results in
flight, the place of its steps in figure memory. -/
structure Inst where
  uid : Nat
  hdr : FigHdr
  func : Nat
  dir : Bool
  p : Nat
  run : Nat
  start : Nat
  cyc : Nat
  step : Nat
  span : Nat
  cols : List Nat
  reels : List Nat
  keys : List (Option Nat)
  kput : List Nat
  pages : List (List Nat)
  rnd : List Word
  base : Nat
  baseSpent : Bool
  baseWidth : Nat
  lastUnit : Option Nat
  auth : Option Bool
  res : List (Nat × Word)
  fixity : Option (Nat × List Octet)
  released : List Nat
  drained : Bool
  bstop : Option StopKind
  earlyRead : Bool
  digErr : Bool
  ended : Option Nat
  again : Bool
  rejected : Bool
  stop : Option StopKind
  replayed : Bool
  flight : List Landing
  base0 : Nat
  deriving DecidableEq, Repr

/-- A figure sequencer (R87): figure memory, registers, FLAGS, two loop levels, local data memory, the body-loop counter, the
instance it runs. -/
structure Seq where
  fmem : Tab StepWord
  f : Vector Word 32
  flags : Flags
  lp0 : LoopLevel
  lp1 : LoopLevel
  loc : Tab Word
  body : Nat
  inst : Option Inst
  deriving DecidableEq, Repr

/-- What a hold page of a ring is ready for (R124 to R126): readable and writable, released and not drained, drained and not
refilled. -/
inductive PagePhase | staged | released | drained
  deriving DecidableEq, Repr

/-- A hold page (R122, R151): the command that holds it, whether it came from the function's reservation, its phase, and
whether a double-bit error retired it. -/
structure HoldPage where
  owner : Option Nat
  func : Nat
  fromRsv : Bool
  phase : PagePhase
  retired : Bool
  deriving DecidableEq, Repr

/-- A mask expander (R145 to R147): Keccak state, permutations since its last seed, a seed that has arrived. -/
structure Expander where
  st : List Octet
  perms : Nat
  seed : Option (List Octet)
  deriving DecidableEq, Repr

/-- The floor: sequencers, lanes (1,024, then 32 spares), lane groups, tweak units, digest units, number units, hold blocks and
pages, mask expanders, resident figures, and the measures at which each lane detected the faults of its window (R159). -/
structure Floor where
  seqs : Tab Seq
  lanes : Tab Lane
  groups : Tab Group
  xts : Tab XtUnit
  dus : Tab DigestUnit
  nus : Tab NumUnit
  hold : Tab Block
  pages : Tab HoldPage
  expanders : Tab Expander
  figs : List FigHdr
  unpin : List Nat
  loads : List (Nat × List Nat × List StepWord)
  faultAt : Tab (List Nat)
  deriving DecidableEq, Repr

/-- A lane as R94 clears it. -/
def Lane.zero : Lane := ⟨0, 0, 0, none, false, []⟩
/-- A lane group as R94 clears it. -/
def Group.zero : Group := ⟨0, 0, 0⟩
/-- A tweak unit as R94 clears it. -/
def XtUnit.zero : XtUnit := ⟨0, 0, none⟩
/-- A digest unit as R94 clears it: it names no algorithm (R482). -/
def DigestUnit.zero : DigestUnit := ⟨0, [], 0, [], [], [], false, false, none, 0, true⟩
/-- A number unit as R94 and R189 clear it. -/
def NumUnit.zero : NumUnit := ⟨[], [], Vector.replicate 16 0, 0, none, none, 0, false⟩
/-- A sequencer as R94 clears it, with empty figure memory. -/
def Seq.zero : Seq := ⟨[], Vector.replicate 32 0, .reset, .reset, .reset, [], 0, none⟩
/-- A free hold page. -/
def HoldPage.free : HoldPage := ⟨none, 0, false, .staged, false⟩
/-- An expander that has not been seeded. -/
def Expander.zero : Expander := ⟨[], 0, none⟩
/-- The floor after reset: every unit clear, no figure resident. -/
def Floor.reset : Floor := ⟨[], [], [], [], [], [], [], [], [], [], [], [], []⟩

/-! ### Measurements (spec/07) -/

/-- An extension asked of the measurement block (R180): request set, register, d. -/
structure MeasReq where
  set : Nat
  index : Nat
  d : List Octet
  deriving DecidableEq, Repr

/-- MEAS_0 to MEAS_31 (unlisted: 48 zero octets), requests in order of arrival, and each requester's latched register (R180). -/
structure MeasSt where
  regs : Tab (List Octet)
  queue : List MeasReq
  latch : Tab (List Octet)
  deriving DecidableEq, Repr

/-- Cleared registers (R181). -/
def MeasSt.reset : MeasSt := ⟨[], [], []⟩

/-! ### Random bit generation (spec/09) -/

/-- The state of CTR_DRBG: key of 32 octets, V, reseed counter. -/
structure Drbg where
  key : List Octet
  v : Block
  cnt : Nat
  deriving DecidableEq, Repr

/-- A reservation that waits for random words (R127, R214 to R216): class 3 or 4, its command, words still to come, and whether
they come from the conditioner. -/
structure RngReq where
  cls : Nat
  uid : Nat
  words : Nat
  ent : Bool
  deriving DecidableEq, Repr

/-- The entropy block beside its registers: conditioned outputs (R209), accepted blocks that wait for the conditioner, the source
last served, each source's repetition run as last bit and length (R203), waiting reservations, whether a reseed is due (R210), whether
class 4 waits for the reseed after raw access (R219), the raw source and mode (R217). -/
structure EntropySt where
  fifo : List (List Octet)
  acc : List (Nat × List Octet)
  served : Nat
  run : Tab (Bool × Nat)
  reqs : List RngReq
  due : Bool
  rawHold : Bool
  rawSrc : Fin 8
  rawRestart : Bool
  deriving DecidableEq, Repr

/-- The entropy block after POR (R205). -/
def EntropySt.reset : EntropySt := ⟨[], [], 7, [], [], false, false, 0, false⟩

/-! ### The key cache and the vault (spec/10) -/

/-- A key slot of the cache KS_0 to KS_8191 (R240), listed at the first slot of a key: number of
slots, handle, material, length in bits, algorithm binding, attributes, flags, pins,
and when it was last bound. -/
structure KSlot where
  used : Bool
  n : Nat
  handle : Nat
  mat : List Octet
  bits : Nat
  binding : Nat
  attr : Nat
  flags : Nat
  pins : Nat
  lastUse : Nat
  deriving DecidableEq, Repr

/-- An empty slot. -/
def KSlot.empty : KSlot := ⟨false, 0, 0, [], 0, 0, 0, 0, 0, 0⟩

/-- A commit of the vault image between steps 1 and 4 (R258): its pages, those still to emit, the version table blob once emitted, its
IMAGE_SEQ. -/
structure VCommit where
  pages : List Nat
  left : List Nat
  table : Option (List Octet)
  seq : Nat
  deriving DecidableEq, Repr

/-- The vault (R227, R256 to R259): vault key; records of 128 octets (an unlisted record holds the empty-record pattern); record map
entries of Table 10.3 (unlisted: FREE, generation 0); page versions; pages changed and not committed; IMAGE_SEQ; IMPORT_SEQ and its
mark; the open commit; the pages that a cold load still awaits, once its table is accepted. -/
structure Vault where
  key : Option (List Octet)
  recs : Tab (List Octet)
  map : Tab Nat
  ver : Tab Nat
  dirty : List Nat
  seq : Nat
  impSeq : Nat
  impMark : Nat
  commit : Option VCommit
  await : List Nat
  tableOk : Bool
  deriving DecidableEq, Repr

/-- No vault. -/
def Vault.none : Vault := ⟨Option.none, [], [], [], [], 0, 0, 0, Option.none, [], false⟩

/-- The key store core's operation port (Table 10.18): the output of the last operation, and whether it waits for a commit with the
pages it changed. -/
structure KsPort where
  out : List Octet
  wait : List Nat
  status : Nat
  deriving DecidableEq, Repr

/-! ### Custody (spec/11) -/

/-- A ballot entry (R265, Table 11.12): state (0 free, 1 OPEN, 2 CARRIED, 3 SPENT, 4 LAPSED), OP, domain, opener (Table 11.4),
BALLOT_ID, ARG_DIGEST, the 128-octet statement, EXPIRY tick, officers recorded of the domain and of DOM_0, the set that carried it
(0 the domain's, 1 DOM_0's), and for COMMISSION the officer set it stands on. -/
structure Ballot where
  st : Nat
  op : Nat
  dom : Nat
  opener : Nat
  id : Nat
  dig : List Octet
  stmt : List Octet
  expiry : Nat
  own : Nat
  dom0 : Nat
  by0 : Nat
  block : List Octet
  deriving DecidableEq, Repr

/-- A free entry. -/
def Ballot.free : Ballot := ⟨0, 0, 0, 0, 0, [], [], 0, 0, 0, 0, []⟩

/-! ### The audit journal (spec/12) -/

/-- A journal record (Table 12.1). -/
structure JRec where
  seq : Nat
  typ : Nat
  src : Nat
  flags : Nat
  arg : Nat
  payload : List Octet
  link : List Octet
  deriving DecidableEq, Repr

/-- The journal: unflushed records oldest first (R286), journal memory by place (R289), last SEQ, chain value (R283), FLUSHED,
ACKED, LIMIT, CLEAN and CHAIN_FLUSHED of the journal head (R286, R290), CAP, whether the memory's header is this device's, the OTP
journal epoch, the HEAD_LOST or GAP mark of Table 12.8, whether a head is held at all. -/
structure JournalSt where
  buf : List JRec
  mem : Tab JRec
  seq : Nat
  chain : List Octet
  flushed : Nat
  acked : Nat
  limit : Nat
  clean : Bool
  chainFlushed : List Octet
  cap : Nat
  hdrOk : Bool
  epoch : Nat
  lost : Bool
  headValid : Bool
  deriving DecidableEq, Repr

/-- The empty record, the default of journal memory's places. -/
def JRec.none : JRec := ⟨0, 0, 0, 0, 0, [], []⟩

/-- The journal of a new device (R283, R290): no record yet but the factory's, CAP of the smallest memory (DESIGN CHOICE, log 8);
the chain value and sequence are those of SEQ 0 and are computed from the serial when the first record is made. -/
def JournalSt.reset : JournalSt := ⟨[], [], 0, [], 0, 0, 4096, true, [], 131008, true, 0, false, true⟩

/-! ### The host interface (spec/05, spec/13) -/

/-- The states of Table 5.1; `held` is a command executed whose completion waits for a vault commit (R246). -/
inductive CmdPhase | queued | ingress | ready | placed | held | completing
  deriving DecidableEq, Repr

/-- A command the device holds: its number, function, queue, the 64 octets with extension units; state of Table 5.1; for a RUN the order
of Table 5.2 it has reached, the residency it uses, bound key slots, KPUT slots, invocation value charged, physical reels, granted pages by logical reel,
input octets staged, pages drained, random words, counter base with its marks (R149, R150), whether it waits on a lease (R239); the
instance is found by the number. Then its outcome: status, result words, OUT_WRITTEN, journal SEQ, output octets, result slot
output; vault pages whose commit it waits for; an abort taken; whether it has been replayed; the input that filled its ring. -/
structure Cmd where
  uid : Nat
  func : Nat
  queue : Nat
  raw : List Octet
  ph : CmdPhase
  order : Nat
  keys : List (Option Nat)
  kput : List Nat
  inv : Option Nat
  reels : List Nat
  pages : List (List Nat)
  staged : Nat
  drained : Nat
  refill : List Nat
  rnd : List Word
  rndWant : Nat
  base : Nat
  baseSpent : Bool
  baseWidth : Nat
  lease : Bool
  status : Nat
  res : List (Nat × Word)
  outw : Nat
  jseq : Nat
  out : List Octet
  slotOut : List Octet
  fix : Option (Nat × List Octet)
  wait : List Nat
  abortAt : Option Nat
  replayed : Bool
  inp : List Octet
  deriving DecidableEq, Repr

/-- A queue pair beside its entry of Table 13.6 (R309 to R312): SQ head and tail, CQ tail, the host's CQ head, phase of the
next pass, commands in use, completions since the last raise. -/
structure QueueSt where
  sqHead : Nat
  sqTail : Nat
  cqTail : Nat
  cqHead : Nat
  phase : Bool
  inUse : Nat
  since : Nat
  deriving DecidableEq, Repr

/-- A queue as enabling sets it (R309). -/
def QueueSt.fresh : QueueSt := ⟨0, 0, 0, 0, true, 0, 0⟩

/-- A function's life (Tables 13.14, 13.15): state code, octets 0x00 to 0xAF of its configuration block, cells as (column, positions),
context key, context entries as kind and record (R153, R174), stream sequence and open sealing streams (R155), the function
number of its restored records (R328), commands returned by a freeze as (queue, octets), whether a freeze is requested, queue from which
a command last entered (R480), boundaries towards PRESSURE (R133). -/
structure FuncSt where
  st : Nat
  cfg : List Octet
  cells : List (Nat × Nat)
  ctxKey : List Octet
  ctx : Tab (Nat × List Octet)
  seq : Nat
  streams : List Nat
  orig : Option Nat
  held : List (Nat × List Octet)
  freezing : Bool
  lastQ : Nat
  press : Nat
  deriving DecidableEq, Repr

/-- An ABSENT function. -/
def FuncSt.absent : FuncSt := ⟨0, [], [], [], [], 0, [], none, [], false, 0, 0⟩

/-- An MSI-X table entry with its pending bit; masked after reset (base specification, R320). -/
structure MsixEnt where
  addr : Nat
  data : Nat
  masked : Bool
  pend : Bool
  deriving DecidableEq, Repr

/-- A reset table entry. -/
def MsixEnt.reset : MsixEnt := ⟨0, 0, true, false⟩

/-- An SPDM responder's connection (R300, R305): negotiation step, session (0 none, 1 handshake, 2 established), session ID, its
secret, transcript, sequence of key updates, IDE keys by (stream, sub-stream, direction, key set). -/
structure Spdm where
  step : Nat
  sess : Nat
  sid : Nat
  secret : List Octet
  transcript : List Octet
  updates : Nat
  ide : Tab (List Octet)
  deriving DecidableEq, Repr

/-- No connection. -/
def Spdm.reset : Spdm := ⟨0, 0, 0, [], [], 0, []⟩

/-- A PCIe port: PERST held, link trained, in an L1 substate, VF Enable, SPDM connection. -/
structure Port where
  perst : Bool
  link : Bool
  l1 : Bool
  vfEnable : Bool
  spdm : Spdm
  deriving DecidableEq, Repr

/-- A port after POR. -/
def Port.reset : Port := ⟨false, false, false, false, .reset⟩

/-- What the device has sent, oldest first: a completion with its queue, ring index, entry, result slot and output; a message on a DOE
mailbox, over MCTP or the management network; a Peloux frame; a rising edge of PPS_OUT. -/
inductive Sent
  | completion (f q k : Nat) (entry slot out : List Octet)
  | doe (port : Nat) (o : List Octet)
  | mctp (o : List Octet)
  | peloux (port : Nat) (o : List Octet)
  | ppsOut
  deriving DecidableEq, Repr

/-! ### Memories and isolation (spec/14, spec/15) -/

/-- On-chip SRAM and DRAM. `sram` holds the nonets of the CTL, MC and mailbox SRAM (index 2 × word address + nonet; scrubbed
to zero, R428). `dram` holds the octets of DRAM (index of the octet; filled with zeros, R359); `ver`, `poison` and `bad` hold
each line's version, POISON bit and octets in error (R357, R362, R365); the fault of a line's counter chain is `chainBad` (R361). -/
structure Mem where
  sram : Tab Nonet
  dram : Tab Octet
  ver : Tab Nat
  poison : Tab Bool
  bad : Tab Nat
  chainBad : Tab Bool
  deriving DecidableEq, Repr

/-- Zeroed SRAM and filled DRAM. -/
def Mem.reset : Mem := ⟨[], [], [], [], [], []⟩

/-- What interrupt lines show beside registers (Table 22.5): SC_WDOG past half its timeout, a management Ethernet frame, an
MCTP message for the MC; and the CTL and MC watchdogs' PTP cycles since their last kick (R411, R473). -/
structure IrqSrc where
  wdogHalf : Bool
  ethFrame : Bool
  mctpMsg : Bool
  scWdog : Nat
  mcWdog : Nat
  deriving DecidableEq, Repr

/-- No source. -/
def IrqSrc.reset : IrqSrc := ⟨false, false, false, 0, 0⟩

/-! ### The tamper domain (spec/16) and OTP -/

/-- A sensor's filter (R376): consecutive samples showing the condition, and whether it has asserted and not re-armed. -/
structure Sensor where
  cnt : Nat
  asserted : Bool
  deriving DecidableEq, Repr

/-- A sensor after a clean sample. -/
def Sensor.clean : Sensor := ⟨0, false⟩

/-- A cell record (Table 16.1): SERIAL, RATED_HOURS, HOURS_USED. -/
structure CellRec where
  serial : Nat
  rated : Nat
  used : Nat
  deriving DecidableEq, Repr

/-- No cell recorded. -/
def CellRec.none : CellRec := ⟨0, 0, 0⟩

/-- The contents of the tamper domain beside its registers and the journal head (Table 16.1): storage root with its origin mode
(R270; true for Zeroized), the two IMAGE_ROOT banks as digest and IMAGE_SEQ (R257), ledger entries and the index of the last one
written, overflow count, tick count with the fraction of the next tick, session count, cell records,
sensor filters, mesh pattern generator and whether it waits for its reseed (R377), whether main power is present, the mask of
R386, the open window's cells and ticks left with its DURATION, whether this session's anchor is written (R385), whether a
zeroization waits for the main domain (R382), whether the canary is invalid (R370), whether TICK_STUCK has been written. -/
structure Tamper where
  root : Option (List Octet)
  origin : Bool
  bank0 : List Octet × Nat
  bank1 : List Octet × Nat
  ledger : List (List Octet)
  lastIdx : Option Nat
  overflow : Nat
  tick : Nat
  tickFrac : Nat
  session : Nat
  cells : Tab CellRec
  sens : Tab Sensor
  mesh : List Octet
  meshDue : Bool
  main : Bool
  masked : Bool
  winCells : Nat
  winTicks : Nat
  winDur : Nat
  anchored : Bool
  zeroEntry : Bool
  lost : Bool
  stuckDone : Bool
  deriving DecidableEq, Repr

/-- The domain's initial state (R370), on main power. -/
def Tamper.reset : Tamper :=
  ⟨none, false, ([], 0), ([], 0), [], none, 0, 0, 0, 0, [], [], [], false, true, false, 0, 0, 0, false, false, false, false⟩

/-- OTP: commissioning counter (R270), NO_RECOMMISSION. The anti-rollback count is FW_STAT_ARB, the journal epoch stands with the
journal. -/
structure Otp where
  comm : Nat
  noRecomm : Bool
  deriving DecidableEq, Repr

/-- A device as the Raesh factory ships it. -/
def Otp.reset : Otp := ⟨0, false⟩

/-! ### The quadrille (spec/17) -/

/-- Link keys with one peer (R395, R396): keys and salts to and from it, LSEQ sent, highest LSEQ accepted with the accepted ones of the
window below it, exchange counter. -/
structure LinkKey where
  tx : List Octet
  rx : List Octet
  txSalt : List Octet
  rxSalt : List Octet
  lseq : Nat
  high : Nat
  seen : List Nat
  exch : Nat
  deriving DecidableEq, Repr

/-- No link key. -/
def LinkKey.none : LinkKey := ⟨[], [], [], [], 0, 0, [], 0⟩

/-- A message not yet acknowledged (R402): receiver, type, MSG_ID, payload, port, retries on it. -/
structure PlxMsg where
  dst : Nat
  typ : Nat
  id : Nat
  body : List Octet
  port : Nat
  tries : Nat
  deriving DecidableEq, Repr

/-- The Peloux block and what a quadrille adds (R392 to R409). The roster itself is device records of DOM_0 (R397). Own member number (0xFFFF
none), QID, tenure; epoch and count of assignments as caller; highest epoch seen; ROSTER_SEQ; FIXED that waits for a commit (R400); link
keys with their order of use, exchanges open by member (own) and 4096 + member (peer's); paths up as 4 × member + port; messages
unacknowledged; MSG_IDs delivered as (sender, MSG_ID); next MSG_ID; approved sets by domain as (member, tenure); role and home by domain;
DSEQ by domain; updates made as home and held as replica, as (domain, DSEQ, octets); acknowledged DSEQ by 4096 × domain + member; a join
in progress as (QID, member asked, nonce, step); joiners at the caller; tick at which a live caller was last heard; epochs that members claim
as caller; transport keys of a checked statement with the tick of the check; nonces sent. -/
structure Plx where
  member : Nat
  qid : Nat
  tenure : Nat
  epoch : Nat
  count : Nat
  seenEpoch : Nat
  seq : Nat
  fixedNext : Option Nat
  keys : Tab LinkKey
  lru : List Nat
  pairing : Tab (List Octet)
  paths : List Nat
  msgs : List PlxMsg
  got : List (Nat × Nat)
  nextId : Nat
  sets : Tab (List (Nat × Nat))
  roles : Tab (Nat × Nat)
  dseq : Tab Nat
  updates : List (Nat × Nat × List Octet)
  heldUp : List (Nat × Nat × List Octet)
  acked : Tab Nat
  join : Option (Nat × Nat × List Octet × Nat)
  joiners : List (List Octet)
  heardAt : Option Nat
  claims : Tab Nat
  checked : Tab (Nat × List Octet)
  nonces : Tab (List Octet)
  deriving DecidableEq, Repr

/-- A standalone device. -/
def Plx.reset : Plx where
  member := 0xFFFF
  qid := 0
  tenure := 0
  epoch := 0
  count := 0
  seenEpoch := 0
  seq := 0
  fixedNext := none
  keys := []
  lru := []
  pairing := []
  paths := []
  msgs := []
  got := []
  nextId := 1
  sets := []
  roles := []
  dseq := []
  updates := []
  heldUp := []
  acked := []
  join := none
  joiners := []
  heardAt := none
  claims := []
  checked := []
  nonces := []

/-! ### Management and time (spec/18) -/

/-- An open staging session (R418): owner (1 PF A, 2 PF B, 3 MC), slot, TOTAL, octets received. -/
structure Staging where
  owner : Nat
  slot : Nat
  total : Nat
  got : Nat
  deriving DecidableEq, Repr

/-- The health log's records and HSEQ of the next one (R414); the time counter in seconds, nanoseconds and units of 2^-36 ns, the applied
TIME_RATE, whether TIME_RATE or TIME_STEP was written within 4 s (R422); whether PPS_IN has had an
edge; the PTP cycles of the current tamper tick; slot images, boot control block copies (R417), MC data partition, staging session; the
flash operation in progress (0 none, 1 append, 2 erase, 3 staging); the MCTP endpoint ID
(R415); management Ethernet frames with their hardware time stamp and MCTP messages that await the MC. -/
structure Mgmt where
  hlog : List (List Octet)
  hseq : Nat
  secs : Nat
  ns : Nat
  frac : Nat
  rate : Int
  recent : Bool
  ppsSeen : Bool
  tickAcc : Nat
  slotA : List Octet
  slotB : List Octet
  bcb0 : List Octet
  bcb1 : List Octet
  mcData : Tab Octet
  stage : Option Staging
  flashOp : Nat
  eid : Nat
  ethIn : List (List Octet × Option (Nat × Nat))
  mctpIn : List (List Octet)
  deriving DecidableEq, Repr

/-- After POR, with the flash as shipped empty of slots (DESIGN CHOICE). -/
def Mgmt.reset : Mgmt := ⟨[], 0, 0, 0, 0, 0, false, false, 0, [], [], [], [], [], none, 0, 0, [], []⟩

/-! ### Resets, debug and JTAG (spec/14, spec/19, spec/20) -/

/-- JTAG instructions (R460). -/
inductive JtagIr | idcode | samplePreload | extest | clamp | highz | nonceRead | debugPort | bypass
  deriving DecidableEq, Repr

/-- What secure firmware holds in secure DRAM and republishes (R436): card, residency and admission registers, resident figures, figure
memories. -/
structure FwCopy where
  regs : Tab Nat
  figs : List FigHdr
  mems : Tab (Tab StepWord)
  deriving DecidableEq, Repr

/-- Reset sources: those asserted now and those of the union since the first was asserted, both as RST_CAUSE bits (R429); whether POR reach
holds the device; a warm reset requested with its ARG and not applied; applied and not released; the power-fail flush and hold (R287);
Fuse Load repeated once (R431); PCIE_SPLIT as sampled; an OTP shadow that failed (R431); the mode that a POR left (R442); Fuse Load stopped
by another reset (R430); firmware's copy. -/
structure RstSt where
  now : Nat
  union : Nat
  por : Bool
  warmReq : Option Nat
  warmOn : Bool
  pfFlush : Bool
  pfHold : Bool
  fuseAgain : Bool
  split : Bool
  otpBad : Bool
  fromMode : Nat
  loadStop : Bool
  copy : Option FwCopy
  deriving DecidableEq, Repr

/-- Power just applied: Fuse Load (MODE_STAT resets to 1). -/
def RstSt.reset : RstSt := ⟨0, 4, false, none, false, false, false, false, true, false, 0, false, none⟩

/-- The debug session and the JTAG port (R347 to R351, R460): DBG_NONCE, ticks left, digest of the accepted certificate, mode in which it was
accepted, JTAG instruction, boundary cells preloaded, pins frozen by EXTEST, CLAMP or HIGHZ. -/
structure DbgSt where
  nonce : List Octet
  ticks : Nat
  cert : List Octet
  fromMode : Nat
  ir : JtagIr
  cells : List Bool
  deriving DecidableEq, Repr

/-- The debug block after reset; DBG_NONCE is drawn when the DRBG is instantiated. -/
def DbgSt.reset : DbgSt := ⟨[], 0, [], 0, .idcode, []⟩

/-! ### The whole state -/

/-- Everything the spec gives the device, and beside it the queue of commands, the count of free values drawn (`free`), and what a read or a
half write leaves for the next access, and which captures a first-only mode holds beside those that ISO_CAPT names one by one
(`capHeld`: reels, and 64 for the lock capture, R343): the words that the read of a low word copied, by register and requester, one above their value (`holds`,
R35); the low words of the MC's window that wait for their high words, by offset and requester, one above their value (`winLow`, R410). -/
structure State where
  pending : List Instr
  free : Nat
  regs : Tab Nat
  sc0 : Ctl
  sc1 : Ctl
  mc : Ctl
  floor : Floor
  cache : Tab KSlot
  drbg : Option Drbg
  jnl : JournalSt
  vectors : List (Nat × Nat)
  halting : Bool
  mem : Mem
  irq : IrqSrc
  viol : List (List Nat)
  capHeld : List Nat
  holds : Tab Nat
  winLow : Tab Nat
  tamp : Tamper
  otp : Otp
  meas : MeasSt
  ent : EntropySt
  vault : Vault
  ks : KsPort
  ballots : Tab Ballot
  ballotId : Nat
  cmds : List Cmd
  nextUid : Nat
  queues : Tab QueueSt
  funcs : Tab FuncSt
  msix : Tab MsixEnt
  d3 : List Nat
  portA : Port
  portB : Port
  spdmM : Spdm
  flrs : Tab (List (Nat × Nat))
  tickets : List (List Octet)
  sent : List Sent
  plx : Plx
  mgmt : Mgmt
  rst : RstSt
  dbg : DbgSt
  blockRst : Option (Nat × Nat)
  deriving DecidableEq, Repr

/-- The machine right after reset. -/
def State.reset : State where
  pending := []
  free := 0
  regs := []
  sc0 := .reset true
  sc1 := .reset true
  mc := .reset false
  floor := .reset
  cache := []
  drbg := none
  jnl := .reset
  vectors := []
  halting := false
  mem := .reset
  irq := .reset
  viol := []
  capHeld := []
  holds := []
  winLow := []
  tamp := .reset
  otp := .reset
  meas := .reset
  ent := .reset
  vault := .none
  ks := ⟨[], [], 0⟩
  ballots := []
  ballotId := 1
  cmds := []
  nextUid := 1
  queues := []
  funcs := []
  msix := []
  d3 := []
  portA := .reset
  portB := .reset
  spdmM := .reset
  flrs := []
  tickets := []
  sent := []
  plx := .reset
  mgmt := .reset
  rst := .reset
  dbg := .reset
  blockRst := none

end Sys2Proof.Machine
end

