-- ==== Sys2Proof/Machine/Regs.lean ====
section
/-! DEFINITION. The register map of the device: one `Fld` for every named field of the register tables of
spec/04 to spec/22 (Tables 4.7 to 4.12, 5.6, 6.14 to 6.16, 7.7 to 7.11, 8.6, 9.6 to 9.9, 10.18, 11.9 to 11.12, 12.9,
13.4 to 13.6, 14.14 to 14.16, 15.7, 16.12, 17.8, 18.9 to 18.12, 19.11, 22.6), with its word address, position, access code
(R10, Table 0.4), reset value and reset name (R11, Table 0.5), and the fields of each register word. Spaces: secure and MC
words at their word addresses; PF BAR 0 window offsets from 2^40; function registers from 2^41 + 2^20 f; queue entries
from 2^42. A register with one copy per requester, port or request set has the copy's number at 2^36. -/
namespace Sys2Proof.Machine

/-- Default response of sensor `s` (Table 16.3; 0 Log, 1 Alarm, 2 Zeroize; a code not listed reads 0). -/
def sensResponseReset (s : Nat) : Nat :=
  if s ∈ [0x08, 0x0A] then 0
  else if s ∈ [0x04, 0x09, 0x0B, 0x15, 0x24, 0x25, 0x28, 0x29] then 1
  else if s ∈ [0x00, 0x01, 0x02, 0x03, 0x0C, 0x10, 0x11, 0x12, 0x14, 0x18, 0x19, 0x1A, 0x1B, 0x1C, 0x1D, 0x1E, 0x1F, 0x20,
    0x21, 0x22, 0x26, 0x27] then 2
  else 0

/-- Default filter length of sensor `s` (Table 16.3). -/
def sensFilterReset (s : Nat) : Nat :=
  if s ∈ [0x00, 0x01, 0x02, 0x03, 0x08, 0x09, 0x0A, 0x0B] then 4
  else if s = 0x04 then 8
  else if s ∈ [0x10, 0x11, 0x12, 0x26, 0x27, 0x28, 0x29] then 1
  else if s ∈ [0x14, 0x15, 0x20, 0x21, 0x22, 0x24, 0x25] then 2
  else if s ∈ [0x18, 0x19, 0x1A, 0x1B, 0x1C, 0x1D, 0x1E, 0x1F] then 3
  else 0

/-- GPIO function after POR (R426): GPIO_5 the cartridge alert, GPIO_6 THERM_ALERT_N, the others inputs. -/
def gpioFuncReset (g : Nat) : Nat := if g = 5 then 4 else if g = 6 then 3 else 0

/-- WARN threshold after POR (Table 18.2): 90 degrees in 0.125 degree steps, or 3 % in 0.1 % steps. -/
def monWarnReset (k : Nat) : Nat := if k < 8 then 720 else 30

/-- CRIT threshold after POR (Table 18.2): 97 degrees in 0.125 degree steps, or 5 % in 0.1 % steps. -/
def monCritReset (k : Nat) : Nat := if k < 8 then 776 else 50

/-- FUNC_ID.IS_PF of function `f` (Table 13.4). -/
def isPfReset (f : Nat) : Nat := if 2048 ≤ f then 1 else 0
/-- FUNC_ID.FUNC of function `f`. -/
def funcNumReset (f : Nat) : Nat := f
/-- Queue pairs and push slots after POR: 16 for a PF (Tables 13.4, 13.13). -/
def grant16Reset (f : Nat) : Nat := if 2048 ≤ f then 16 else 0
/-- MSI-X vectors after POR: 17 for a PF. -/
def grant17Reset (f : Nat) : Nat := if 2048 ≤ f then 17 else 0

def Reg.FLOOR_CTL_LEND_SPAN : Fld := ⟨0x30000000, 2, 6, 4, .rw, .warm⟩
def Reg.FLOOR_CTL_COMMIT : Fld := ⟨0x30000000, 1, 1, 0, .w1s, .warm⟩
def Reg.FLOOR_CTL_LENDING : Fld := ⟨0x30000000, 0, 1, 0, .rw, .warm⟩
def Reg.FLOOR_STAT_MCO : Fld := ⟨0x30000001, 2, 1, 0, .w1c, .warm⟩
def Reg.FLOOR_STAT_CMF : Fld := ⟨0x30000001, 1, 1, 0, .w1c, .warm⟩
def Reg.FLOOR_STAT_LIVE_LEND : Fld := ⟨0x30000001, 0, 1, 0, .ro, .warm⟩
def Reg.MCOUNT_L : Fld := ⟨0x30000002, 0, 18, 0, .ro, .warm⟩
def Reg.MCOUNT_H : Fld := ⟨0x30000003, 0, 18, 0, .ro, .warm⟩
def Reg.CMON_CAUSE : Fld := ⟨0x30000010, 0, 4, 0, .ro, .warm⟩
def Reg.CMON_FS : Fld := ⟨0x30000011, 0, 6, 0, .ro, .warm⟩
def Reg.CMON_STEP_SLOT : Fld := ⟨0x30000012, 13, 2, 0, .ro, .warm⟩
def Reg.CMON_STEP_STEP : Fld := ⟨0x30000012, 0, 13, 0, .ro, .warm⟩
def Reg.CMON_CYC_L : Fld := ⟨0x30000013, 0, 18, 0, .ro, .warm⟩
def Reg.CMON_CYC_H : Fld := ⟨0x30000014, 0, 4, 0, .ro, .warm⟩
def Reg.CMON_OWNER : Fld := ⟨0x30000015, 0, 12, 0, .ro, .warm⟩
def Reg.CMON_CYC_X_RUN : Fld := ⟨0x30000016, 7, 8, 0, .ro, .warm⟩
def Reg.CMON_CYC_X_CYCLE : Fld := ⟨0x30000016, 0, 7, 0, .ro, .warm⟩
def Reg.CARD_SHADOW (c : Nat) (p : Nat) : Fld := ⟨0x30010000 + 64 * c + p, 0, 18, 0xFFF, .rw, .warm⟩
def Reg.CARD_LIVE (c : Nat) (p : Nat) : Fld := ⟨0x30020000 + 64 * c + p, 0, 18, 0xFFF, .ro, .warm⟩
def Reg.RES_QUAR (q : Nat) (e : Nat) : Fld := ⟨0x30030000 + 32 * q + 2 * e, 17, 1, 0, .rw, .warm⟩
def Reg.RES_VALID (q : Nat) (e : Nat) : Fld := ⟨0x30030000 + 32 * q + 2 * e, 16, 1, 0, .rw, .warm⟩
def Reg.RES_FIGURE (q : Nat) (e : Nat) : Fld := ⟨0x30030000 + 32 * q + 2 * e, 0, 16, 0, .rw, .warm⟩
def Reg.RES_BASE (q : Nat) (e : Nat) : Fld := ⟨0x30030001 + 32 * q + 2 * e, 0, 13, 0, .rw, .warm⟩
def Reg.ADM_PAGES_RSV (n : Nat) : Fld := ⟨0x30040000 + 4 * n, 0, 7, 0, .rw, .warm⟩
def Reg.ADM_WIN_DMA_WEIGHT (n : Nat) : Fld := ⟨0x30040001 + 4 * n, 8, 8, 1, .rw, .warm⟩
def Reg.ADM_WIN_STAGE_WIN (n : Nat) : Fld := ⟨0x30040001 + 4 * n, 0, 8, 4, .rw, .warm⟩
def Reg.ADM_STAT_SMO (n : Nat) : Fld := ⟨0x30040002 + 4 * n, 2, 1, 0, .w1c, .warm⟩
def Reg.ADM_STAT_FROZEN (n : Nat) : Fld := ⟨0x30040002 + 4 * n, 1, 1, 0, .ro, .warm⟩
def Reg.ADM_STAT_PRESSURE (n : Nat) : Fld := ⟨0x30040002 + 4 * n, 0, 1, 0, .ro, .warm⟩
def Reg.ADM_SMISS (n : Nat) : Fld := ⟨0x30040003 + 4 * n, 0, 18, 0, .ro, .warm⟩
def Reg.SYM_CTL_FAULT_LIMIT : Fld := ⟨0x30080000, 5, 4, 3, .rw, .por⟩
def Reg.SYM_CTL_FAULT_WIN : Fld := ⟨0x30080000, 0, 5, 20, .rw, .por⟩
def Reg.STREAM_CNT : Fld := ⟨0x30080001, 0, 7, 0, .ro, .warm⟩
def Reg.REEL_STAT_FCO (r : Nat) : Fld := ⟨0x30080100 + 32 * r, 9, 1, 0, .w1c, .por⟩
def Reg.REEL_STAT_MX_STALE (r : Nat) : Fld := ⟨0x30080100 + 32 * r, 8, 1, 0, .ro, .warm⟩
def Reg.REEL_STAT_SPARE_OOS (r : Nat) : Fld := ⟨0x30080100 + 32 * r, 7, 1, 0, .ro, .por⟩
def Reg.REEL_STAT_SPARE_BUSY (r : Nat) : Fld := ⟨0x30080100 + 32 * r, 6, 1, 0, .ro, .warm⟩
def Reg.REEL_STAT_SPARE_SUB (r : Nat) : Fld := ⟨0x30080100 + 32 * r, 5, 1, 0, .ro, .por⟩
def Reg.REEL_STAT_SPARE_LANE (r : Nat) : Fld := ⟨0x30080100 + 32 * r, 0, 5, 0, .ro, .por⟩
def Reg.LANE_OOS_L (r : Nat) : Fld := ⟨0x30080101 + 32 * r, 0, 18, 0, .ro, .por⟩
def Reg.LANE_OOS_H (r : Nat) : Fld := ⟨0x30080102 + 32 * r, 0, 14, 0, .ro, .por⟩
def Reg.LANE_CMD_GO (r : Nat) : Fld := ⟨0x30080103 + 32 * r, 7, 1, 0, .w1s, .warm⟩
def Reg.LANE_CMD_ACTION (r : Nat) : Fld := ⟨0x30080103 + 32 * r, 5, 2, 0, .rw, .warm⟩
def Reg.LANE_CMD_LANE (r : Nat) : Fld := ⟨0x30080103 + 32 * r, 0, 5, 0, .rw, .warm⟩
def Reg.LANE_RESULT_PASS (r : Nat) : Fld := ⟨0x30080104 + 32 * r, 1, 1, 0, .ro, .warm⟩
def Reg.LANE_RESULT_DONE (r : Nat) : Fld := ⟨0x30080104 + 32 * r, 0, 1, 0, .w1c, .warm⟩
def Reg.FLT_LAST_SPARE (r : Nat) : Fld := ⟨0x30080105 + 32 * r, 15, 1, 0, .ro, .warm⟩
def Reg.FLT_LAST_LANE (r : Nat) : Fld := ⟨0x30080105 + 32 * r, 10, 5, 0, .ro, .warm⟩
def Reg.FLT_LAST_SLOT (r : Nat) : Fld := ⟨0x30080105 + 32 * r, 5, 5, 0, .ro, .warm⟩
def Reg.FLT_LAST_REAL (r : Nat) : Fld := ⟨0x30080105 + 32 * r, 4, 1, 0, .ro, .warm⟩
def Reg.FLT_LAST_OUTCOME (r : Nat) : Fld := ⟨0x30080105 + 32 * r, 2, 2, 0, .ro, .warm⟩
def Reg.FLT_COUNT (r : Nat) : Fld := ⟨0x30080106 + 32 * r, 0, 18, 0, .ro, .por⟩
def Reg.LANE_FWIN (r : Nat) (k : Nat) : Fld := ⟨0x30080108 + 32 * r + k, 0, 16, 0, .ro, .por⟩
def Reg.DU_STAT_FCO (u : Nat) : Fld := ⟨0x300c0000 + 8 * u, 1, 1, 0, .w1c, .por⟩
def Reg.DU_STAT_OOS (u : Nat) : Fld := ⟨0x300c0000 + 8 * u, 0, 1, 0, .ro, .por⟩
def Reg.DU_CMD_GO (u : Nat) : Fld := ⟨0x300c0001 + 8 * u, 7, 1, 0, .w1s, .warm⟩
def Reg.DU_CMD_ACTION (u : Nat) : Fld := ⟨0x300c0001 + 8 * u, 5, 2, 0, .rw, .warm⟩
def Reg.DU_RESULT_PASS (u : Nat) : Fld := ⟨0x300c0002 + 8 * u, 1, 1, 0, .ro, .warm⟩
def Reg.DU_RESULT_DONE (u : Nat) : Fld := ⟨0x300c0002 + 8 * u, 0, 1, 0, .w1c, .warm⟩
def Reg.DU_FLT_COUNT (u : Nat) : Fld := ⟨0x300c0003 + 8 * u, 0, 18, 0, .ro, .por⟩
def Reg.BOOT_TAP_CTL_CLOSE : Fld := ⟨0x300d0000, 1, 1, 0, .w1s, .warm⟩
def Reg.BOOT_TAP_CTL_ARM : Fld := ⟨0x300d0000, 0, 1, 0, .w1s, .warm⟩
def Reg.BOOT_TAP_STAT_LOCKED : Fld := ⟨0x300d0001, 2, 1, 0, .ro, .warm⟩
def Reg.BOOT_TAP_STAT_FAULT : Fld := ⟨0x300d0001, 1, 1, 0, .ro, .warm⟩
def Reg.BOOT_TAP_STAT_ARMED : Fld := ⟨0x300d0001, 0, 1, 0, .ro, .warm⟩
def Reg.BOOT_TAP_OCT_L : Fld := ⟨0x300d0002, 0, 18, 0, .ro, .warm⟩
def Reg.BOOT_TAP_OCT_H : Fld := ⟨0x300d0003, 0, 18, 0, .ro, .warm⟩
def Reg.BOOT_TAP_DIG (w : Nat) : Fld := ⟨0x300d0040 + w, 0, 18, 0, .ro, .warm⟩
def Reg.MEASX_CMD_GO (t : Nat) : Fld := ⟨0x300d0010 + 0x1000000000 * t, 17, 1, 0, .w1s, .warm⟩
def Reg.MEASX_CMD_INDEX (t : Nat) : Fld := ⟨0x300d0010 + 0x1000000000 * t, 0, 5, 0, .rw, .warm⟩
def Reg.MEASX_STAT_ERR (t : Nat) : Fld := ⟨0x300d0011 + 0x1000000000 * t, 1, 2, 0, .ro, .warm⟩
def Reg.MEASX_STAT_DONE (t : Nat) : Fld := ⟨0x300d0011 + 0x1000000000 * t, 0, 1, 0, .w1c, .warm⟩
def Reg.MEASX_DATA (t : Nat) (w : Nat) : Fld := ⟨0x300d0020 + 0x1000000000 * t + w, 0, 18, 0, .rw, .warm⟩
def Reg.NU_STAT_FCO (u : Nat) : Fld := ⟨0x30100000 + 8 * u, 1, 1, 0, .w1c, .por⟩
def Reg.NU_STAT_OOS (u : Nat) : Fld := ⟨0x30100000 + 8 * u, 0, 1, 0, .ro, .por⟩
def Reg.NU_CMD_GO (u : Nat) : Fld := ⟨0x30100001 + 8 * u, 7, 1, 0, .w1s, .warm⟩
def Reg.NU_CMD_ACTION (u : Nat) : Fld := ⟨0x30100001 + 8 * u, 5, 2, 0, .rw, .warm⟩
def Reg.NU_RESULT_PASS (u : Nat) : Fld := ⟨0x30100002 + 8 * u, 1, 1, 0, .ro, .warm⟩
def Reg.NU_RESULT_DONE (u : Nat) : Fld := ⟨0x30100002 + 8 * u, 0, 1, 0, .w1c, .warm⟩
def Reg.NU_FLT_COUNT (u : Nat) : Fld := ⟨0x30100003 + 8 * u, 0, 18, 0, .ro, .por⟩
def Reg.RNG_CTL_RESEED : Fld := ⟨0x30140000, 0, 1, 0, .w1s, .warm⟩
def Reg.RNG_STAT_FIFO : Fld := ⟨0x30140001, 10, 5, 0, .ro, .warm⟩
def Reg.RNG_STAT_DRBG : Fld := ⟨0x30140001, 8, 2, 0, .ro, .warm⟩
def Reg.RNG_STAT_HEALTHY : Fld := ⟨0x30140001, 4, 4, 8, .ro, .por⟩
def Reg.RNG_STAT_RAW_OPEN : Fld := ⟨0x30140001, 3, 1, 0, .ro, .warm⟩
def Reg.RNG_STAT_RAW_PERMIT : Fld := ⟨0x30140001, 2, 1, 0, .ro, .warm⟩
def Reg.RNG_STAT_RSO : Fld := ⟨0x30140001, 1, 1, 0, .w1c, .warm⟩
def Reg.SRC_CTL_RETIRE (n : Nat) : Fld := ⟨0x30140010 + 4 * n, 8, 1, 0, .w1s, .por⟩
def Reg.SRC_STAT_RFO (n : Nat) : Fld := ⟨0x30140010 + 4 * n, 7, 1, 0, .w1c, .warm⟩
def Reg.SRC_STAT_FFO (n : Nat) : Fld := ⟨0x30140010 + 4 * n, 6, 1, 0, .w1c, .warm⟩
def Reg.SRC_STAT_CONSEC (n : Nat) : Fld := ⟨0x30140010 + 4 * n, 4, 2, 0, .ro, .por⟩
def Reg.SRC_STAT_STATE (n : Nat) : Fld := ⟨0x30140010 + 4 * n, 0, 3, 0, .ro, .por⟩
def Reg.SRC_RCTF (n : Nat) : Fld := ⟨0x30140011 + 4 * n, 0, 18, 0, .ro, .warm⟩
def Reg.SRC_APTF (n : Nat) : Fld := ⟨0x30140012 + 4 * n, 0, 18, 0, .ro, .warm⟩
def Reg.SRC_RESTARTS (n : Nat) : Fld := ⟨0x30140013 + 4 * n, 0, 18, 0, .ro, .warm⟩
def Reg.DRBG_RSD_L : Fld := ⟨0x30140040, 0, 18, 0, .ro, .warm⟩
def Reg.DRBG_RSD_H : Fld := ⟨0x30140041, 0, 18, 0, .ro, .warm⟩
def Reg.DRBG_REQS : Fld := ⟨0x30140042, 0, 13, 0, .ro, .warm⟩
def Reg.RAW_CTL_GO : Fld := ⟨0x30140050, 17, 1, 0, .w1s, .warm⟩
def Reg.RAW_CTL_CLOSE : Fld := ⟨0x30140050, 16, 1, 0, .w1s, .warm⟩
def Reg.RAW_CTL_MODE : Fld := ⟨0x30140050, 15, 1, 0, .rw, .warm⟩
def Reg.RAW_CTL_SOURCE : Fld := ⟨0x30140050, 10, 3, 0, .rw, .warm⟩
def Reg.RAW_CTL_COUNT : Fld := ⟨0x30140050, 0, 10, 0, .rw, .warm⟩
def Reg.RAW_STAT_ABORT : Fld := ⟨0x30140051, 3, 1, 0, .ro, .warm⟩
def Reg.RAW_STAT_HEALTH : Fld := ⟨0x30140051, 2, 1, 0, .ro, .warm⟩
def Reg.RAW_STAT_BUSY : Fld := ⟨0x30140051, 1, 1, 0, .ro, .warm⟩
def Reg.RAW_STAT_DONE : Fld := ⟨0x30140051, 0, 1, 0, .w1c, .warm⟩
def Reg.RAW_BASE_L : Fld := ⟨0x30140052, 0, 18, 0, .rw, .warm⟩
def Reg.RAW_BASE_H : Fld := ⟨0x30140053, 0, 18, 0, .rw, .warm⟩
def Reg.KS_STAT_MSO : Fld := ⟨0x30180000, 5, 1, 0, .w1c, .warm⟩
def Reg.KS_STAT_LEASE_WAIT : Fld := ⟨0x30180000, 4, 1, 0, .ro, .warm⟩
def Reg.KS_STAT_COMMIT_BUSY : Fld := ⟨0x30180000, 3, 1, 0, .ro, .warm⟩
def Reg.KS_STAT_DIRTY : Fld := ⟨0x30180000, 2, 1, 0, .ro, .por⟩
def Reg.KS_STAT_VAULT : Fld := ⟨0x30180000, 0, 2, 0, .ro, .por⟩
def Reg.KS_FREE_L : Fld := ⟨0x30180001, 0, 18, 0, .ro, .por⟩
def Reg.KS_FREE_H : Fld := ⟨0x30180002, 0, 7, 0, .ro, .por⟩
def Reg.KS_PINNED : Fld := ⟨0x30180003, 0, 13, 0, .ro, .warm⟩
def Reg.KS_MISS_L : Fld := ⟨0x30180004, 0, 18, 0, .ro, .warm⟩
def Reg.KS_MISS_H : Fld := ⟨0x30180005, 0, 18, 0, .ro, .warm⟩
def Reg.KS_IMPSEQ_L : Fld := ⟨0x30180006, 0, 18, 0, .ro, .por⟩
def Reg.KS_IMPSEQ_H : Fld := ⟨0x30180007, 0, 8, 0, .ro, .por⟩
def Reg.KS_FIXED_L : Fld := ⟨0x30180008, 0, 18, 0, .ro, .por⟩
def Reg.KS_FIXED_H : Fld := ⟨0x30180009, 0, 14, 0, .ro, .por⟩
def Reg.KS_RETIRED : Fld := ⟨0x3018000a, 0, 18, 0, .ro, .por⟩
def Reg.KS_OP_CMD_GO : Fld := ⟨0x30180010, 17, 1, 0, .w1s, .warm⟩
def Reg.KS_OP_CMD_OP : Fld := ⟨0x30180010, 0, 4, 0, .rw, .warm⟩
def Reg.KS_OP_STAT_STATUS : Fld := ⟨0x30180011, 1, 8, 0, .ro, .warm⟩
def Reg.KS_OP_STAT_DONE : Fld := ⟨0x30180011, 0, 1, 0, .w1c, .warm⟩
def Reg.KS_OP_ARG_L : Fld := ⟨0x30180012, 0, 18, 0, .rw, .warm⟩
def Reg.KS_OP_ARG_H : Fld := ⟨0x30180013, 0, 18, 0, .rw, .warm⟩
def Reg.LEAD_STAT_NL (q : Nat) : Fld := ⟨0x10000030000 + 0x1000000000 * q, 7, 1, 0, .w1c, .warm⟩
def Reg.LEAD_STAT_REFUSED (q : Nat) : Fld := ⟨0x10000030000 + 0x1000000000 * q, 6, 1, 0, .w1c, .warm⟩
def Reg.LEAD_STAT_EPO (q : Nat) : Fld := ⟨0x10000030000 + 0x1000000000 * q, 5, 1, 0, .w1c, .por⟩
def Reg.LEAD_STAT_MC_ALLOWED : Fld := ⟨0x10000030001, 4, 1, 0, .ro, .warm⟩
def Reg.LEAD_STAT_LEAD : Fld := ⟨0x10000030001, 0, 3, 0, .ro, .warm⟩
def Reg.LEAD_CTL_RELEASE : Fld := ⟨0x10000030004, 1, 1, 0, .w1s, .warm⟩
def Reg.LEAD_CTL_CLAIM : Fld := ⟨0x10000030004, 0, 1, 0, .w1s, .warm⟩
def Reg.LEAD_EPOCH : Fld := ⟨0x10000030008, 0, 32, 0, .ro, .por⟩
def Reg.TOKEN_RELEASE (n : Nat) : Fld := ⟨0x10000030100 + 4 * n, 17, 1, 0, .w1s, .warm⟩
def Reg.TOKEN_ACQUIRE (n : Nat) : Fld := ⟨0x10000030100 + 4 * n, 16, 1, 0, .w1s, .warm⟩
def Reg.TOKEN_BROKEN (n : Nat) : Fld := ⟨0x10000030100 + 4 * n, 9, 1, 0, .ro, .por⟩
def Reg.TOKEN_HOLDER (n : Nat) : Fld := ⟨0x10000030100 + 4 * n, 0, 8, 0xFF, .ro, .warm⟩
def Reg.JNL_STAT_UNAVAIL : Fld := ⟨0x301c0000, 5, 1, 0, .ro, .por⟩
def Reg.JNL_STAT_FLUSHING : Fld := ⟨0x301c0000, 4, 1, 0, .ro, .por⟩
def Reg.JNL_STAT_LEVEL : Fld := ⟨0x301c0000, 2, 2, 0, .ro, .por⟩
def Reg.JNL_STAT_STUCK : Fld := ⟨0x301c0000, 1, 1, 0, .ro, .none⟩
def Reg.JNL_STAT_LEVEL_CHG : Fld := ⟨0x301c0000, 0, 1, 0, .w1c, .por⟩
def Reg.JREC_CMD_GO : Fld := ⟨0x301c0010, 17, 1, 0, .w1s, .warm⟩
def Reg.JREC_CMD_CONT : Fld := ⟨0x301c0010, 16, 1, 0, .rw, .warm⟩
def Reg.JREC_CMD_RESERVE : Fld := ⟨0x301c0010, 15, 1, 0, .rw, .warm⟩
def Reg.JREC_STAT_REFUSED : Fld := ⟨0x301c0011, 1, 1, 0, .ro, .warm⟩
def Reg.JREC_STAT_DONE : Fld := ⟨0x301c0011, 0, 1, 0, .w1c, .warm⟩
def Reg.JREC_DATA (w : Nat) : Fld := ⟨0x301c0020 + w, 0, 18, 0, .rw, .warm⟩
def Reg.FUNC_ID_IS_PF (f : Nat) : Fld := ⟨0x20000000000 + 0x100000 * f, 13, 1, isPfReset f, .ro, .none⟩
def Reg.FUNC_ID_PORT (f : Nat) : Fld := ⟨0x20000000000 + 0x100000 * f, 12, 1, 0, .ro, .por⟩
def Reg.FUNC_ID_FUNC (f : Nat) : Fld := ⟨0x20000000000 + 0x100000 * f, 0, 12, funcNumReset f, .ro, .por⟩
def Reg.FUNC_CAP_STREAM_PERMIT (f : Nat) : Fld := ⟨0x20000000004 + 0x100000 * f, 30, 1, 0, .ro, .por⟩
def Reg.FUNC_CAP_PUSH_SLOTS (f : Nat) : Fld := ⟨0x20000000004 + 0x100000 * f, 18, 12, grant16Reset f, .ro, .por⟩
def Reg.FUNC_CAP_VECTORS (f : Nat) : Fld := ⟨0x20000000004 + 0x100000 * f, 9, 9, grant17Reset f, .ro, .por⟩
def Reg.FUNC_CAP_QUEUES (f : Nat) : Fld := ⟨0x20000000004 + 0x100000 * f, 0, 9, grant16Reset f, .ro, .por⟩
def Reg.FUNC_STAT_SAVED (f : Nat) : Fld := ⟨0x20000000008 + 0x100000 * f, 3, 1, 0, .ro, .por⟩
def Reg.FUNC_STAT_FROZEN (f : Nat) : Fld := ⟨0x20000000008 + 0x100000 * f, 2, 1, 0, .ro, .por⟩
def Reg.FUNC_STAT_PRESSURE (f : Nat) : Fld := ⟨0x20000000008 + 0x100000 * f, 1, 1, 0, .ro, .warm⟩
def Reg.FUNC_STAT_ACC_ERR (f : Nat) : Fld := ⟨0x20000000008 + 0x100000 * f, 0, 1, 0, .w1c, .flr⟩
def Reg.FUNC_EVT (f : Nat) : Fld := ⟨0x2000000000c + 0x100000 * f, 0, 10, 0, .w1c, .flr⟩
def Reg.FUNC_EVT_MASK (f : Nat) : Fld := ⟨0x20000000010 + 0x100000 * f, 0, 10, 0, .rw, .flr⟩
def Reg.DEV_STAT_MODE (f : Nat) : Fld := ⟨0x20000000014 + 0x100000 * f, 0, 4, 0, .ro, .por⟩
def Reg.PORT_VF_A_VFS (p : Nat) : Fld := ⟨0x10000001000 + 0x1000000000 * p, 0, 12, 0, .ro, .por⟩
def Reg.FLR_REPORT_VALID (p : Nat) : Fld := ⟨0x10000001004 + 0x1000000000 * p, 31, 1, 0, .w1c, .perst⟩
def Reg.FLR_REPORT_COUNT (p : Nat) : Fld := ⟨0x10000001004 + 0x1000000000 * p, 16, 15, 0, .ro, .perst⟩
def Reg.FLR_REPORT_OVF (p : Nat) : Fld := ⟨0x10000001004 + 0x1000000000 * p, 12, 1, 0, .ro, .perst⟩
def Reg.FLR_REPORT_FUNC (p : Nat) : Fld := ⟨0x10000001004 + 0x1000000000 * p, 0, 12, 0, .ro, .perst⟩
def Reg.Q_CTL_VECTOR (x : Nat) : Fld := ⟨0x40000000000 + 32 * x, 16, 9, 0, .rw, .flr⟩
def Reg.Q_CTL_LDEPTH (x : Nat) : Fld := ⟨0x40000000000 + 32 * x, 8, 4, 0, .rw, .flr⟩
def Reg.Q_CTL_STREAM (x : Nat) : Fld := ⟨0x40000000000 + 32 * x, 4, 1, 0, .ro, .flr⟩
def Reg.Q_CTL_FAILFAST (x : Nat) : Fld := ⟨0x40000000000 + 32 * x, 2, 1, 0, .rw, .flr⟩
def Reg.Q_CTL_PUSH (x : Nat) : Fld := ⟨0x40000000000 + 32 * x, 1, 1, 0, .rw, .flr⟩
def Reg.Q_CTL_ENABLE (x : Nat) : Fld := ⟨0x40000000000 + 32 * x, 0, 1, 0, .rw, .flr⟩
def Reg.Q_STAT_CFG_CAUSE (x : Nat) : Fld := ⟨0x40000000004 + 32 * x, 4, 4, 0, .ro, .flr⟩
def Reg.Q_STAT_PUSH_OVF (x : Nat) : Fld := ⟨0x40000000004 + 32 * x, 1, 1, 0, .w1c, .flr⟩
def Reg.Q_STAT_ACTIVE (x : Nat) : Fld := ⟨0x40000000004 + 32 * x, 0, 1, 0, .ro, .flr⟩
def Reg.SQ_BASE_LO (x : Nat) : Fld := ⟨0x40000000008 + 32 * x, 0, 32, 0, .rw, .flr⟩
def Reg.SQ_BASE_HI (x : Nat) : Fld := ⟨0x4000000000c + 32 * x, 0, 32, 0, .rw, .flr⟩
def Reg.CQ_BASE_LO (x : Nat) : Fld := ⟨0x40000000010 + 32 * x, 0, 32, 0, .rw, .flr⟩
def Reg.CQ_BASE_HI (x : Nat) : Fld := ⟨0x40000000014 + 32 * x, 0, 32, 0, .rw, .flr⟩
def Reg.Q_MOD_TIME (x : Nat) : Fld := ⟨0x40000000018 + 32 * x, 8, 8, 0, .rw, .flr⟩
def Reg.Q_MOD_COUNT (x : Nat) : Fld := ⟨0x40000000018 + 32 * x, 0, 8, 0, .rw, .flr⟩
def Reg.Q_SQHEAD (x : Nat) : Fld := ⟨0x4000000001c + 32 * x, 0, 12, 0, .ro, .flr⟩
def Reg.ISO_CAPT_FLT_HELD : Fld := ⟨0x30200000, 3, 1, 0, .w1c, .warm⟩
def Reg.ISO_CAPT_CMON_HELD : Fld := ⟨0x30200000, 2, 1, 0, .w1c, .warm⟩
def Reg.ISO_CAPT_VIOL_HELD : Fld := ⟨0x30200000, 1, 1, 0, .w1c, .warm⟩
def Reg.ISO_CAPT_FIRST_ONLY : Fld := ⟨0x30200000, 0, 1, 0, .ro, .warm⟩
def Reg.VIOL_STAT_LOST : Fld := ⟨0x30200001, 7, 1, 0, .w1c, .warm⟩
def Reg.VIOL_STAT_VCO : Fld := ⟨0x30200001, 6, 1, 0, .w1c, .warm⟩
def Reg.VIOL_STAT_ENTRIES : Fld := ⟨0x30200001, 0, 6, 0, .ro, .warm⟩
def Reg.VIOL_CTL_POP : Fld := ⟨0x30200002, 0, 1, 0, .w1s, .warm⟩
def Reg.VIOL_COUNT : Fld := ⟨0x30200003, 0, 18, 0, .ro, .warm⟩
def Reg.LOCK_VIOLATION : Fld := ⟨0x30200010, 0, 1, 0, .w1c, .warm⟩
def Reg.LOCK_ADDR_L : Fld := ⟨0x30200011, 0, 18, 0, .ro, .warm⟩
def Reg.LOCK_ADDR_H : Fld := ⟨0x30200012, 0, 18, 0, .ro, .warm⟩
def Reg.LOCK_INFO_LEVEL : Fld := ⟨0x30200013, 9, 1, 0, .ro, .warm⟩
def Reg.LOCK_INFO_WORLD : Fld := ⟨0x30200013, 8, 1, 0, .ro, .warm⟩
def Reg.LOCK_INFO_MASTER : Fld := ⟨0x30200013, 0, 8, 0, .ro, .warm⟩
def Reg.POT_STAT_RANGE : Fld := ⟨0x30200020, 1, 1, 0, .w1c, .warm⟩
def Reg.POT_CTL_SYNC : Fld := ⟨0x30200020, 0, 1, 0, .w1s, .warm⟩
def Reg.POT_BACK_BASE16 : Fld := ⟨0x30200021, 0, 15, 0, .wl, .por⟩
def Reg.POT_CAP_GIB : Fld := ⟨0x30200022, 0, 6, 0, .ro, .por⟩
def Reg.DBG_STAT_LEVEL : Fld := ⟨0x30200030, 4, 2, 0, .ro, .warm⟩
def Reg.DBG_STAT_TARGETS : Fld := ⟨0x30200030, 1, 3, 0, .ro, .warm⟩
def Reg.DBG_STAT_ACTIVE : Fld := ⟨0x30200030, 0, 1, 0, .ro, .warm⟩
def Reg.DBG_LEFT : Fld := ⟨0x30200031, 0, 18, 0, .ro, .warm⟩
def Reg.POT_ENTRY (p : Nat) : Fld := ⟨0x30800000 + p, 0, 16, 0, .rw, .por⟩
def Reg.RGN_BASE (k : Nat) (r : Nat) : Fld := ⟨0x30201000 + 64 * k + 4 * r, 0, 14, 0, .rw, .warm⟩
def Reg.RGN_LIMIT (k : Nat) (r : Nat) : Fld := ⟨0x30201001 + 64 * k + 4 * r, 0, 14, 0, .rw, .warm⟩
def Reg.RGN_MID_MASK (k : Nat) (r : Nat) : Fld := ⟨0x30201002 + 64 * k + 4 * r, 8, 8, 0, .rw, .warm⟩
def Reg.RGN_MID_ID (k : Nat) (r : Nat) : Fld := ⟨0x30201002 + 64 * k + 4 * r, 0, 8, 0, .rw, .warm⟩
def Reg.RGN_ATTR_LOCK (k : Nat) (r : Nat) : Fld := ⟨0x30201003 + 64 * k + 4 * r, 7, 1, 0, .wl, .warm⟩
def Reg.RGN_ATTR_EN (k : Nat) (r : Nat) : Fld := ⟨0x30201003 + 64 * k + 4 * r, 6, 1, 0, .rw, .warm⟩
def Reg.RGN_ATTR_WORLD (k : Nat) (r : Nat) : Fld := ⟨0x30201003 + 64 * k + 4 * r, 4, 2, 0, .rw, .warm⟩
def Reg.RGN_ATTR_PRIV (k : Nat) (r : Nat) : Fld := ⟨0x30201003 + 64 * k + 4 * r, 3, 1, 0, .rw, .warm⟩
def Reg.RGN_ATTR_X (k : Nat) (r : Nat) : Fld := ⟨0x30201003 + 64 * k + 4 * r, 2, 1, 0, .rw, .warm⟩
def Reg.RGN_ATTR_W (k : Nat) (r : Nat) : Fld := ⟨0x30201003 + 64 * k + 4 * r, 1, 1, 0, .rw, .warm⟩
def Reg.RGN_ATTR_R (k : Nat) (r : Nat) : Fld := ⟨0x30201003 + 64 * k + 4 * r, 0, 1, 0, .rw, .warm⟩
def Reg.MEM_STAT_CFG_ERR : Fld := ⟨0x30240000, 10, 1, 0, .w1c, .por⟩
def Reg.MEM_STAT_VSTUCK : Fld := ⟨0x30240000, 9, 1, 0, .w1c, .por⟩
def Reg.MEM_STAT_CTR_FAIL : Fld := ⟨0x30240000, 8, 1, 0, .w1c, .por⟩
def Reg.MEM_STAT_POISON_EVT : Fld := ⟨0x30240000, 7, 1, 0, .w1c, .por⟩
def Reg.MEM_STAT_UE : Fld := ⟨0x30240000, 6, 1, 0, .w1c, .por⟩
def Reg.MEM_STAT_UEO : Fld := ⟨0x30240000, 5, 1, 0, .w1c, .por⟩
def Reg.MEM_STAT_CEO : Fld := ⟨0x30240000, 4, 1, 0, .w1c, .por⟩
def Reg.MEM_STAT_VAULT_READY : Fld := ⟨0x30240000, 2, 1, 0, .ro, .por⟩
def Reg.MEM_STAT_FILL_DONE : Fld := ⟨0x30240000, 1, 1, 0, .ro, .por⟩
def Reg.MEM_STAT_TRAINED : Fld := ⟨0x30240000, 0, 1, 0, .ro, .por⟩
def Reg.MEM_CFG_STRAP : Fld := ⟨0x30240001, 0, 3, 0, .ro, .por⟩
def Reg.MEM_VAULT_BASE_L : Fld := ⟨0x30240002, 0, 18, 0, .wl, .por⟩
def Reg.MEM_VAULT_BASE_H : Fld := ⟨0x30240003, 0, 1, 0, .wl, .por⟩
def Reg.MEM_USABLE_L : Fld := ⟨0x30240004, 0, 18, 0, .ro, .por⟩
def Reg.MEM_USABLE_H : Fld := ⟨0x30240005, 0, 1, 0, .ro, .por⟩
def Reg.MEM_FILL_L : Fld := ⟨0x30240006, 0, 18, 0, .ro, .por⟩
def Reg.MEM_FILL_H : Fld := ⟨0x30240007, 0, 1, 0, .ro, .por⟩
def Reg.MEM_CE_COUNT : Fld := ⟨0x30240008, 0, 18, 0, .ro, .por⟩
def Reg.MEM_UE_COUNT : Fld := ⟨0x30240009, 0, 18, 0, .ro, .por⟩
def Reg.MEM_ERR_ADDR_L : Fld := ⟨0x3024000a, 0, 18, 0, .ro, .por⟩
def Reg.MEM_ERR_ADDR_H : Fld := ⟨0x3024000b, 0, 18, 0, .ro, .por⟩
def Reg.MEM_ERR_INFO_KIND : Fld := ⟨0x3024000c, 16, 2, 0, .ro, .por⟩
def Reg.MEM_ERR_INFO_MASTER : Fld := ⟨0x3024000c, 8, 8, 0, .ro, .por⟩
def Reg.MEM_ERR_INFO_OCTETS : Fld := ⟨0x3024000c, 6, 2, 0, .ro, .por⟩
def Reg.MEM_ERR_INFO_REGION : Fld := ⟨0x3024000c, 3, 3, 0, .ro, .por⟩
def Reg.MEM_SCRUB_PERIOD : Fld := ⟨0x3024000d, 0, 8, 24, .rw, .warm⟩
def Reg.MEM_LW_ADDR_L : Fld := ⟨0x30240010, 0, 18, 0, .rw, .warm⟩
def Reg.MEM_LW_ADDR_H : Fld := ⟨0x30240011, 0, 18, 0, .rw, .warm⟩
def Reg.MEM_LW_CMD_GO : Fld := ⟨0x30240012, 17, 1, 0, .w1s, .warm⟩
def Reg.MEM_LW_STAT_ERR : Fld := ⟨0x30240013, 1, 1, 0, .ro, .warm⟩
def Reg.MEM_LW_STAT_DONE : Fld := ⟨0x30240013, 0, 1, 0, .w1c, .warm⟩
def Reg.MEM_LW_DATA (w : Nat) : Fld := ⟨0x30240020 + w, 0, 18, 0, .rw, .warm⟩
def Reg.TAMP_STAT_ACK_REF : Fld := ⟨0x30280000, 17, 1, 0, .w1c, .vbat⟩
def Reg.TAMP_STAT_CLK_RC : Fld := ⟨0x30280000, 16, 1, 0, .ro, .vbat⟩
def Reg.TAMP_STAT_WINDOW : Fld := ⟨0x30280000, 15, 1, 0, .ro, .vbat⟩
def Reg.TAMP_STAT_CELL_DUE_B : Fld := ⟨0x30280000, 14, 1, 0, .ro, .vbat⟩
def Reg.TAMP_STAT_CELL_DUE_A : Fld := ⟨0x30280000, 13, 1, 0, .ro, .vbat⟩
def Reg.TAMP_STAT_TICK_STUCK : Fld := ⟨0x30280000, 12, 1, 0, .ro, .vbat⟩
def Reg.TAMP_STAT_LEDGER_FULL : Fld := ⟨0x30280000, 11, 1, 0, .ro, .vbat⟩
def Reg.TAMP_STAT_CFG_LOCKED : Fld := ⟨0x30280000, 10, 1, 0, .ro, .vbat⟩
def Reg.TAMP_STAT_COMMISSIONED : Fld := ⟨0x30280000, 9, 1, 0, .ro, .vbat⟩
def Reg.TAMP_STAT_ROOT : Fld := ⟨0x30280000, 8, 1, 0, .ro, .vbat⟩
def Reg.TAMP_STAT_ALARM : Fld := ⟨0x30280000, 7, 1, 0, .ro, .vbat⟩
def Reg.TAMP_STAT_TAMPER : Fld := ⟨0x30280000, 0, 2, 0, .ro, .vbat⟩
def Reg.TAMP_CTL_ACK : Fld := ⟨0x30280001, 17, 1, 0, .w1s, .vbat⟩
def Reg.TAMP_CTL_WIN_CLOSE : Fld := ⟨0x30280001, 16, 1, 0, .w1s, .vbat⟩
def Reg.TAMP_CTL_ACK_INDEX : Fld := ⟨0x30280001, 0, 9, 0, .rw, .vbat⟩
def Reg.LEDGER_USED : Fld := ⟨0x30280005, 0, 9, 0, .ro, .vbat⟩
def Reg.LAST_ZERO : Fld := ⟨0x3028000a, 0, 16, 0xFFFF, .ro, .vbat⟩
def Reg.LAST_ALARM : Fld := ⟨0x3028000b, 0, 16, 0xFFFF, .ro, .vbat⟩
def Reg.WIN_LEFT : Fld := ⟨0x3028000c, 0, 18, 0, .ro, .vbat⟩
def Reg.TEMP_LIM_LOW : Fld := ⟨0x30280010, 9, 9, 482, .rw, .vbat⟩
def Reg.TEMP_LIM_HIGH : Fld := ⟨0x30280010, 0, 9, 100, .rw, .vbat⟩
def Reg.VBAT_LIM_HIGH : Fld := ⟨0x30280011, 9, 9, 175, .rw, .vbat⟩
def Reg.VBAT_LIM_LOW : Fld := ⟨0x30280011, 0, 9, 60, .rw, .vbat⟩
def Reg.BAT_RATE : Fld := ⟨0x30280012, 0, 3, 1, .rw, .vbat⟩
def Reg.MESH_EN : Fld := ⟨0x30280013, 0, 8, 0xFF, .rw, .vbat⟩
def Reg.ENC_CFG : Fld := ⟨0x30280014, 0, 4, 12, .rw, .vbat⟩
def Reg.CELL_STAT_AUTH_FAIL (c : Nat) : Fld := ⟨0x30280018 + 16 * c, 3, 1, 0, .ro, .vbat⟩
def Reg.CELL_STAT_AUTH_OK (c : Nat) : Fld := ⟨0x30280018 + 16 * c, 2, 1, 0, .ro, .vbat⟩
def Reg.CELL_STAT_EXPIRED (c : Nat) : Fld := ⟨0x30280018 + 16 * c, 1, 1, 0, .ro, .vbat⟩
def Reg.CELL_STAT_PRESENT (c : Nat) : Fld := ⟨0x30280018 + 16 * c, 0, 1, 0, .ro, .vbat⟩
def Reg.CELL_CMD_GO : Fld := ⟨0x30280038, 17, 1, 0, .w1s, .vbat⟩
def Reg.CELL_CMD_ACTION : Fld := ⟨0x30280038, 15, 2, 0, .rw, .vbat⟩
def Reg.CELL_CMD_CELL : Fld := ⟨0x30280038, 14, 1, 0, .rw, .vbat⟩
def Reg.CELL_CMD_STAT_ERR : Fld := ⟨0x30280039, 1, 1, 0, .ro, .vbat⟩
def Reg.CELL_CMD_STAT_DONE : Fld := ⟨0x30280039, 0, 1, 0, .w1c, .vbat⟩
def Reg.SENS_CFG_RESPONSE (s : Nat) : Fld := ⟨0x30280040 + s, 16, 2, sensResponseReset s, .rw, .vbat⟩
def Reg.SENS_CFG_FILTER (s : Nat) : Fld := ⟨0x30280040 + s, 0, 16, sensFilterReset s, .rw, .vbat⟩
def Reg.CELL_CHAL (w : Nat) : Fld := ⟨0x30280080 + w, 0, 18, 0, .rw, .vbat⟩
def Reg.CELL_RESP (w : Nat) : Fld := ⟨0x302800c0 + w, 0, 18, 0, .ro, .vbat⟩
def Reg.PLX_STAT_CONFLICT : Fld := ⟨0x10000070000, 7, 1, 0, .w1c, .por⟩
def Reg.PLX_STAT_CALLER : Fld := ⟨0x10000070000, 6, 1, 0, .ro, .por⟩
def Reg.PLX_STAT_MSTATE : Fld := ⟨0x10000070000, 4, 2, 0, .ro, .por⟩
def Reg.PLX_STAT_LINK : Fld := ⟨0x10000070000, 0, 4, 0, .ro, .por⟩
def Reg.PLX_FIXED : Fld := ⟨0x10000070004, 0, 32, 0, .ro, .por⟩
def Reg.PLX_QID_LO : Fld := ⟨0x10000070008, 0, 32, 0, .ro, .por⟩
def Reg.PLX_QID_HI : Fld := ⟨0x1000007000c, 0, 32, 0, .ro, .por⟩
def Reg.PLX_ROSTER_SEQ : Fld := ⟨0x10000070010, 0, 32, 0, .ro, .por⟩
def Reg.PLX_ACTIVE : Fld := ⟨0x10000070014, 0, 13, 0, .ro, .por⟩
def Reg.PLX_CMD_GO : Fld := ⟨0x10000070020, 31, 1, 0, .w1s, .warm⟩
def Reg.PLX_CMD_ACTION : Fld := ⟨0x10000070020, 28, 3, 0, .rw, .warm⟩
def Reg.PLX_CMD_STATUS : Fld := ⟨0x10000070020, 24, 4, 0, .ro, .warm⟩
def Reg.PLX_ARG (k : Nat) : Fld := ⟨0x10000070024 + 4 * k, 0, 32, 0, .rw, .warm⟩
def Reg.PLX_PEND_VALID : Fld := ⟨0x10000070040, 31, 1, 0, .ro, .warm⟩
def Reg.PLX_PEND_MEMBER : Fld := ⟨0x10000070040, 0, 12, 0, .ro, .warm⟩
def Reg.PLX_PEND_SERIAL (k : Nat) : Fld := ⟨0x10000070044 + 4 * k, 0, 32, 0, .ro, .warm⟩
def Reg.PLX_PORT_CFG_VID (n : Nat) : Fld := ⟨0x10000070100 + 16 * n, 16, 16, 0, .rw, .por⟩
def Reg.PLX_PORT_CFG_DRO (n : Nat) : Fld := ⟨0x10000070100 + 16 * n, 1, 1, 0, .w1c, .por⟩
def Reg.PLX_PORT_CFG_ENABLE (n : Nat) : Fld := ⟨0x10000070100 + 16 * n, 0, 1, 0, .rw, .por⟩
def Reg.PLX_PORT_DROP (n : Nat) : Fld := ⟨0x10000070104 + 16 * n, 0, 32, 0, .ro, .por⟩
def Reg.PLX_DOM_ROLE (d : Nat) : Fld := ⟨0x10000078000 + 8 * d, 30, 2, 0, .ro, .por⟩
def Reg.PLX_DOM_INCOMPLETE (d : Nat) : Fld := ⟨0x10000078000 + 8 * d, 29, 1, 0, .ro, .por⟩
def Reg.PLX_DOM_HOME (d : Nat) : Fld := ⟨0x10000078000 + 8 * d, 16, 12, 0, .ro, .por⟩
def Reg.PLX_DOM_LAG (d : Nat) : Fld := ⟨0x10000078004 + 8 * d, 0, 32, 0, .ro, .por⟩
def Reg.MC_CTL_RESET : Fld := ⟨0x302c0000, 1, 1, 0, .w1s, .warm⟩
def Reg.MC_CTL_RUN : Fld := ⟨0x302c0000, 0, 1, 0, .w1s, .warm⟩
def Reg.MC_STAT_WDOG : Fld := ⟨0x302c0001, 2, 1, 0, .w1c, .warm⟩
def Reg.MC_STAT_HALTED : Fld := ⟨0x302c0001, 1, 1, 0, .ro, .warm⟩
def Reg.MC_STAT_RUNNING : Fld := ⟨0x302c0001, 0, 1, 0, .ro, .warm⟩
def Reg.MC_WDOG_MS : Fld := ⟨0x302c0002, 0, 18, 0, .rw, .warm⟩
def Reg.MC_WDOG_KICK : Fld := ⟨0x31000000, 0, 18, 0, .wo, .warm⟩
def Reg.TIME_CTL_LOCK : Fld := ⟨0x31000001, 0, 1, 0, .rw, .por⟩
def Reg.TIME_RATE_L : Fld := ⟨0x31000002, 0, 18, 0, .rw, .por⟩
def Reg.TIME_RATE_H : Fld := ⟨0x31000003, 0, 18, 0, .rw, .por⟩
def Reg.TIME_STEP (w : Nat) : Fld := ⟨0x31000004 + w, 0, 18, 0, .rw, .por⟩
def Reg.TIME_SET (w : Nat) : Fld := ⟨0x31000009 + w, 0, 18, 0, .rw, .por⟩
def Reg.PPS_IN_TS (w : Nat) : Fld := ⟨0x31000018 + w, 0, 18, 0, .ro, .por⟩
def Reg.GPIO_CFG_VALUE (g : Nat) : Fld := ⟨0x31000020 + g, 3, 1, 0, .rw, .por⟩
def Reg.GPIO_CFG_FUNC (g : Nat) : Fld := ⟨0x31000020 + g, 0, 3, gpioFuncReset g, .rw, .por⟩
def Reg.GPIO_STAT_CONFLICT : Fld := ⟨0x31000028, 0, 1, 0, .w1c, .por⟩
def Reg.MON_WARN_THR (k : Nat) : Fld := ⟨0x31000030 + 2 * k, 0, 18, monWarnReset k, .rw, .por⟩
def Reg.MON_CRIT_THR (k : Nat) : Fld := ⟨0x31000031 + 2 * k, 0, 18, monCritReset k, .rw, .por⟩
def Reg.ETH_CFG_MODE : Fld := ⟨0x31000050, 0, 1, 0, .rw, .por⟩
def Reg.HLOG_APPEND_GO : Fld := ⟨0x31000060, 17, 1, 0, .w1s, .warm⟩
def Reg.HLOG_DATA (w : Nat) : Fld := ⟨0x31000061 + w, 0, 18, 0, .rw, .warm⟩
def Reg.STAGE_CMD_GO : Fld := ⟨0x31000070, 17, 1, 0, .w1s, .warm⟩
def Reg.STAGE_CMD_STATUS : Fld := ⟨0x31000070, 9, 8, 0, .ro, .warm⟩
def Reg.STAGE_CMD_CODE : Fld := ⟨0x31000070, 0, 9, 0, .ro, .warm⟩
def Reg.STAGE_ADDR_L : Fld := ⟨0x31000071, 0, 18, 0, .rw, .warm⟩
def Reg.STAGE_ADDR_H : Fld := ⟨0x31000072, 0, 18, 0, .rw, .warm⟩
def Reg.MGT_STAT_GPIO5_CONFLICT : Fld := ⟨0x10000060000, 11, 1, 0, .w1c, .por⟩
def Reg.MGT_STAT_PPS_IN_LOST : Fld := ⟨0x10000060000, 10, 1, 0, .ro, .por⟩
def Reg.MGT_STAT_MON_CRIT : Fld := ⟨0x10000060000, 9, 1, 0, .ro, .por⟩
def Reg.MGT_STAT_MON_WARN : Fld := ⟨0x10000060000, 8, 1, 0, .ro, .por⟩
def Reg.MGT_STAT_MC_HALTED : Fld := ⟨0x10000060000, 7, 1, 0, .ro, .warm⟩
def Reg.MGT_STAT_STAGE_BUSY : Fld := ⟨0x10000060000, 6, 1, 0, .ro, .warm⟩
def Reg.MGT_STAT_TIME_STATE : Fld := ⟨0x10000060000, 3, 3, 0, .ro, .por⟩
def Reg.MGT_STAT_CART_ALERT : Fld := ⟨0x10000060000, 2, 1, 0, .ro, .por⟩
def Reg.FW_STAT_ARB : Fld := ⟨0x10000060004, 16, 8, 0, .ro, .none⟩
def Reg.FW_STAT_ADV_PEND : Fld := ⟨0x10000060004, 11, 1, 0, .ro, .warm⟩
def Reg.FW_STAT_TRY_PENDING : Fld := ⟨0x10000060004, 10, 1, 0, .ro, .warm⟩
def Reg.FW_STAT_FALLBACK : Fld := ⟨0x10000060004, 9, 1, 0, .ro, .warm⟩
def Reg.FW_STAT_ACTIVE_SLOT : Fld := ⟨0x10000060004, 8, 1, 0, .ro, .warm⟩
def Reg.FW_STAT_STAGE_CODE : Fld := ⟨0x10000060004, 0, 8, 0, .ro, .warm⟩
def Reg.FW_SVN : Fld := ⟨0x10000060008, 0, 32, 0, .ro, .warm⟩
def Reg.MC_SVN : Fld := ⟨0x1000006000c, 0, 32, 0, .ro, .warm⟩
def Reg.MON_VAL_LEVEL (k : Nat) : Fld := ⟨0x10000060020 + 4 * k, 16, 2, 0, .ro, .por⟩
def Reg.MON_VAL_VALUE (k : Nat) : Fld := ⟨0x10000060020 + 4 * k, 0, 16, 0, .ro, .por⟩
def Reg.MGT_CFG_MC_STAGE : Fld := ⟨0x10000060060, 1, 1, 0, .rw, .por⟩
def Reg.MGT_CFG_HLOG_ERASE : Fld := ⟨0x10000060060, 0, 1, 0, .w1s, .por⟩
def Reg.HLOG_SEQ : Fld := ⟨0x10000060064, 0, 32, 0, .ro, .por⟩
def Reg.RST_CAUSE_FW : Fld := ⟨0x30300000, 10, 1, 0, .ro, .por⟩
def Reg.RST_CAUSE_WDOG : Fld := ⟨0x30300000, 9, 1, 0, .ro, .por⟩
def Reg.RST_CAUSE_LEAD_CMD : Fld := ⟨0x30300000, 8, 1, 0, .ro, .por⟩
def Reg.RST_CAUSE_WARM_PIN : Fld := ⟨0x30300000, 7, 1, 0, .ro, .por⟩
def Reg.RST_CAUSE_PERST_B : Fld := ⟨0x30300000, 6, 1, 0, .ro, .por⟩
def Reg.RST_CAUSE_PERST_A : Fld := ⟨0x30300000, 5, 1, 0, .ro, .por⟩
def Reg.RST_CAUSE_PWR_FAIL : Fld := ⟨0x30300000, 4, 1, 0, .ro, .por⟩
def Reg.RST_CAUSE_RESET_PIN : Fld := ⟨0x30300000, 3, 1, 0, .ro, .por⟩
def Reg.RST_CAUSE_SUPPLY : Fld := ⟨0x30300000, 2, 1, 0, .ro, .por⟩
def Reg.FUSE_STAT_INTERRUPTS : Fld := ⟨0x30300001, 0, 16, 0, .ro, .por⟩
def Reg.RST_CTL_WARM : Fld := ⟨0x30300002, 17, 1, 0, .w1s, .warm⟩
def Reg.RST_CTL_FAULT : Fld := ⟨0x30300002, 16, 1, 0, .w1s, .warm⟩
def Reg.RST_CTL_SC1_RUN : Fld := ⟨0x30300002, 15, 1, 0, .w1s, .warm⟩
def Reg.RST_BOOT_TARGET : Fld := ⟨0x30300003, 0, 1, 0, .rw, .por⟩
def Reg.SC_WDOG_MS : Fld := ⟨0x30300004, 0, 18, 0, .rw, .warm⟩
def Reg.SC_WDOG_KICK : Fld := ⟨0x30300005, 0, 18, 0, .wo, .warm⟩
def Reg.BLOCK_RST_GO : Fld := ⟨0x30300008, 17, 1, 0, .w1s, .warm⟩
def Reg.BLOCK_RST_TYPE : Fld := ⟨0x30300008, 6, 2, 0, .rw, .warm⟩
def Reg.BLOCK_RST_INDEX : Fld := ⟨0x30300008, 0, 6, 0, .rw, .warm⟩
def Reg.BLOCK_RST_STAT_ERR : Fld := ⟨0x30300009, 1, 1, 0, .ro, .warm⟩
def Reg.BLOCK_RST_STAT_DONE : Fld := ⟨0x30300009, 0, 1, 0, .w1c, .warm⟩
def Reg.SLEEP_CFG_EN : Fld := ⟨0x30300010, 17, 1, 0, .rw, .warm⟩
def Reg.SLEEP_CFG_IDLE : Fld := ⟨0x30300010, 0, 16, 100, .rw, .warm⟩
def Reg.SLEEP_STAT_WAKE_REQ : Fld := ⟨0x30300011, 17, 1, 0, .w1s, .warm⟩
def Reg.SLEEP_STAT_SCO : Fld := ⟨0x30300011, 16, 1, 0, .w1c, .warm⟩
def Reg.SLEEP_STAT_WAKE : Fld := ⟨0x30300011, 0, 3, 0, .ro, .warm⟩
def Reg.SLEEP_COUNT : Fld := ⟨0x30300012, 0, 18, 0, .ro, .warm⟩
def Reg.MODE_STAT_FAULT_CAUSE : Fld := ⟨0x30300018, 4, 5, 0, .ro, .warm⟩
def Reg.MODE_STAT_MODE : Fld := ⟨0x30300018, 0, 4, 1, .ro, .por⟩
def Reg.INT_LATCH_DOOR (c : Nat) : Fld := ⟨0x30340000 + c, 3, 1, 0, .w1c, .warm⟩
def Reg.INT_LATCH_MODE (c : Nat) : Fld := ⟨0x30340000 + c, 2, 1, 0, .w1c, .warm⟩
def Reg.INT_LATCH_ENT (c : Nat) : Fld := ⟨0x30340000 + c, 1, 1, 0, .w1c, .warm⟩
def Reg.INT_LATCH_FLT (c : Nat) : Fld := ⟨0x30340000 + c, 0, 1, 0, .w1c, .warm⟩
def Reg.INT_DOOR_RING : Fld := ⟨0x30340004, 0, 3, 0, .w1s, .warm⟩
def Reg.MC_INT_LATCH : Fld := ⟨0x31000080, 0, 4, 0, .w1c, .warm⟩

/-- The fields of the register word at `a` in this block of the map. -/
def secFields3000 (a : Nat) : List Fld :=
  if a = 0x30000000 then [Reg.FLOOR_CTL_LEND_SPAN, Reg.FLOOR_CTL_COMMIT, Reg.FLOOR_CTL_LENDING]
  else if a = 0x30000001 then [Reg.FLOOR_STAT_MCO, Reg.FLOOR_STAT_CMF, Reg.FLOOR_STAT_LIVE_LEND]
  else if a = 0x30000002 then [Reg.MCOUNT_L]
  else if a = 0x30000003 then [Reg.MCOUNT_H]
  else if a = 0x30000010 then [Reg.CMON_CAUSE]
  else if a = 0x30000011 then [Reg.CMON_FS]
  else if a = 0x30000012 then [Reg.CMON_STEP_SLOT, Reg.CMON_STEP_STEP]
  else if a = 0x30000013 then [Reg.CMON_CYC_L]
  else if a = 0x30000014 then [Reg.CMON_CYC_H]
  else if a = 0x30000015 then [Reg.CMON_OWNER]
  else if a = 0x30000016 then [Reg.CMON_CYC_X_RUN, Reg.CMON_CYC_X_CYCLE]
  else []

/-- The fields of the register word at `a` in this block of the map. -/
def secFields3001 (a : Nat) : List Fld :=
  if 0x30010000 ≤ a ∧ (a - 0x30010000) / 0x40 < 304 ∧ (a - 0x30010000) % 0x40 / 1 < 64
      ∧ (a - 0x30010000) % 0x40 % 1 = 0 then [Reg.CARD_SHADOW ((a - 0x30010000) / 0x40) ((a - 0x30010000) % 0x40 / 1)]
  else []

/-- The fields of the register word at `a` in this block of the map. -/
def secFields3002 (a : Nat) : List Fld :=
  if 0x30020000 ≤ a ∧ (a - 0x30020000) / 0x40 < 304 ∧ (a - 0x30020000) % 0x40 / 1 < 64
      ∧ (a - 0x30020000) % 0x40 % 1 = 0 then [Reg.CARD_LIVE ((a - 0x30020000) / 0x40) ((a - 0x30020000) % 0x40 / 1)]
  else []

/-- The fields of the register word at `a` in this block of the map. -/
def secFields3003 (a : Nat) : List Fld :=
  if 0x30030000 ≤ a ∧ (a - 0x30030000) / 0x20 < 64 ∧ (a - 0x30030000) % 0x20 / 2 < 16
      ∧ (a - 0x30030000) % 0x20 % 2 = 0 then [Reg.RES_QUAR ((a - 0x30030000) / 0x20) ((a - 0x30030000) % 0x20 / 2), Reg.RES_VALID ((a - 0x30030000) / 0x20) ((a - 0x30030000) % 0x20 / 2), Reg.RES_FIGURE ((a - 0x30030000) / 0x20) ((a - 0x30030000) % 0x20 / 2)]
  else if 0x30030001 ≤ a ∧ (a - 0x30030001) / 0x20 < 64 ∧ (a - 0x30030001) % 0x20 / 2 < 16
      ∧ (a - 0x30030001) % 0x20 % 2 = 0 then [Reg.RES_BASE ((a - 0x30030001) / 0x20) ((a - 0x30030001) % 0x20 / 2)]
  else []

/-- The fields of the register word at `a` in this block of the map. -/
def secFields3004 (a : Nat) : List Fld :=
  if 0x30040000 ≤ a ∧ (a - 0x30040000) % 0x4 = 0 ∧ (a - 0x30040000) / 0x4 < 2050 then [Reg.ADM_PAGES_RSV ((a - 0x30040000) / 0x4)]
  else if 0x30040001 ≤ a ∧ (a - 0x30040001) % 0x4 = 0 ∧ (a - 0x30040001) / 0x4 < 2050 then [Reg.ADM_WIN_DMA_WEIGHT ((a - 0x30040001) / 0x4), Reg.ADM_WIN_STAGE_WIN ((a - 0x30040001) / 0x4)]
  else if 0x30040002 ≤ a ∧ (a - 0x30040002) % 0x4 = 0 ∧ (a - 0x30040002) / 0x4 < 2050 then [Reg.ADM_STAT_SMO ((a - 0x30040002) / 0x4), Reg.ADM_STAT_FROZEN ((a - 0x30040002) / 0x4), Reg.ADM_STAT_PRESSURE ((a - 0x30040002) / 0x4)]
  else if 0x30040003 ≤ a ∧ (a - 0x30040003) % 0x4 = 0 ∧ (a - 0x30040003) / 0x4 < 2050 then [Reg.ADM_SMISS ((a - 0x30040003) / 0x4)]
  else []

/-- The fields of the register word at `a` in this block of the map. -/
def secFields3008 (a : Nat) : List Fld :=
  if a = 0x30080000 then [Reg.SYM_CTL_FAULT_LIMIT, Reg.SYM_CTL_FAULT_WIN]
  else if a = 0x30080001 then [Reg.STREAM_CNT]
  else if 0x30080100 ≤ a ∧ (a - 0x30080100) % 0x20 = 0 ∧ (a - 0x30080100) / 0x20 < 32 then [Reg.REEL_STAT_FCO ((a - 0x30080100) / 0x20), Reg.REEL_STAT_MX_STALE ((a - 0x30080100) / 0x20), Reg.REEL_STAT_SPARE_OOS ((a - 0x30080100) / 0x20), Reg.REEL_STAT_SPARE_BUSY ((a - 0x30080100) / 0x20), Reg.REEL_STAT_SPARE_SUB ((a - 0x30080100) / 0x20), Reg.REEL_STAT_SPARE_LANE ((a - 0x30080100) / 0x20)]
  else if 0x30080101 ≤ a ∧ (a - 0x30080101) % 0x20 = 0 ∧ (a - 0x30080101) / 0x20 < 32 then [Reg.LANE_OOS_L ((a - 0x30080101) / 0x20)]
  else if 0x30080102 ≤ a ∧ (a - 0x30080102) % 0x20 = 0 ∧ (a - 0x30080102) / 0x20 < 32 then [Reg.LANE_OOS_H ((a - 0x30080102) / 0x20)]
  else if 0x30080103 ≤ a ∧ (a - 0x30080103) % 0x20 = 0 ∧ (a - 0x30080103) / 0x20 < 32 then [Reg.LANE_CMD_GO ((a - 0x30080103) / 0x20), Reg.LANE_CMD_ACTION ((a - 0x30080103) / 0x20), Reg.LANE_CMD_LANE ((a - 0x30080103) / 0x20)]
  else if 0x30080104 ≤ a ∧ (a - 0x30080104) % 0x20 = 0 ∧ (a - 0x30080104) / 0x20 < 32 then [Reg.LANE_RESULT_PASS ((a - 0x30080104) / 0x20), Reg.LANE_RESULT_DONE ((a - 0x30080104) / 0x20)]
  else if 0x30080105 ≤ a ∧ (a - 0x30080105) % 0x20 = 0 ∧ (a - 0x30080105) / 0x20 < 32 then [Reg.FLT_LAST_SPARE ((a - 0x30080105) / 0x20), Reg.FLT_LAST_LANE ((a - 0x30080105) / 0x20), Reg.FLT_LAST_SLOT ((a - 0x30080105) / 0x20), Reg.FLT_LAST_REAL ((a - 0x30080105) / 0x20), Reg.FLT_LAST_OUTCOME ((a - 0x30080105) / 0x20)]
  else if 0x30080106 ≤ a ∧ (a - 0x30080106) % 0x20 = 0 ∧ (a - 0x30080106) / 0x20 < 32 then [Reg.FLT_COUNT ((a - 0x30080106) / 0x20)]
  else if 0x30080108 ≤ a ∧ (a - 0x30080108) / 0x20 < 32 ∧ (a - 0x30080108) % 0x20 / 1 < 8
      ∧ (a - 0x30080108) % 0x20 % 1 = 0 then [Reg.LANE_FWIN ((a - 0x30080108) / 0x20) ((a - 0x30080108) % 0x20 / 1)]
  else []

/-- The fields of the register word at `a` in this block of the map. -/
def secFields300C (a : Nat) : List Fld :=
  if 0x300c0000 ≤ a ∧ (a - 0x300c0000) % 0x8 = 0 ∧ (a - 0x300c0000) / 0x8 < 64 then [Reg.DU_STAT_FCO ((a - 0x300c0000) / 0x8), Reg.DU_STAT_OOS ((a - 0x300c0000) / 0x8)]
  else if 0x300c0001 ≤ a ∧ (a - 0x300c0001) % 0x8 = 0 ∧ (a - 0x300c0001) / 0x8 < 64 then [Reg.DU_CMD_GO ((a - 0x300c0001) / 0x8), Reg.DU_CMD_ACTION ((a - 0x300c0001) / 0x8)]
  else if 0x300c0002 ≤ a ∧ (a - 0x300c0002) % 0x8 = 0 ∧ (a - 0x300c0002) / 0x8 < 64 then [Reg.DU_RESULT_PASS ((a - 0x300c0002) / 0x8), Reg.DU_RESULT_DONE ((a - 0x300c0002) / 0x8)]
  else if 0x300c0003 ≤ a ∧ (a - 0x300c0003) % 0x8 = 0 ∧ (a - 0x300c0003) / 0x8 < 64 then [Reg.DU_FLT_COUNT ((a - 0x300c0003) / 0x8)]
  else []

/-- The fields of the register word at `a` in this block of the map. -/
def secFields300D (a : Nat) : List Fld :=
  if a = 0x300d0000 then [Reg.BOOT_TAP_CTL_CLOSE, Reg.BOOT_TAP_CTL_ARM]
  else if a = 0x300d0001 then [Reg.BOOT_TAP_STAT_LOCKED, Reg.BOOT_TAP_STAT_FAULT, Reg.BOOT_TAP_STAT_ARMED]
  else if a = 0x300d0002 then [Reg.BOOT_TAP_OCT_L]
  else if a = 0x300d0003 then [Reg.BOOT_TAP_OCT_H]
  else if 0x300d0040 ≤ a ∧ a < 0x300d0058 then [Reg.BOOT_TAP_DIG (a - 0x300d0040)]
  else if 0x300d0010 ≤ a ∧ (a - 0x300d0010) % 0x1000000000 = 0 ∧ (a - 0x300d0010) / 0x1000000000 < 4 then [Reg.MEASX_CMD_GO ((a - 0x300d0010) / 0x1000000000), Reg.MEASX_CMD_INDEX ((a - 0x300d0010) / 0x1000000000)]
  else if 0x300d0011 ≤ a ∧ (a - 0x300d0011) % 0x1000000000 = 0 ∧ (a - 0x300d0011) / 0x1000000000 < 4 then [Reg.MEASX_STAT_ERR ((a - 0x300d0011) / 0x1000000000), Reg.MEASX_STAT_DONE ((a - 0x300d0011) / 0x1000000000)]
  else if 0x300d0020 ≤ a ∧ (a - 0x300d0020) / 0x1000000000 < 4 ∧ (a - 0x300d0020) % 0x1000000000 / 1 < 24
      ∧ (a - 0x300d0020) % 0x1000000000 % 1 = 0 then [Reg.MEASX_DATA ((a - 0x300d0020) / 0x1000000000) ((a - 0x300d0020) % 0x1000000000 / 1)]
  else []

/-- The fields of the register word at `a` in this block of the map. -/
def secFields3010 (a : Nat) : List Fld :=
  if 0x30100000 ≤ a ∧ (a - 0x30100000) % 0x8 = 0 ∧ (a - 0x30100000) / 0x8 < 16 then [Reg.NU_STAT_FCO ((a - 0x30100000) / 0x8), Reg.NU_STAT_OOS ((a - 0x30100000) / 0x8)]
  else if 0x30100001 ≤ a ∧ (a - 0x30100001) % 0x8 = 0 ∧ (a - 0x30100001) / 0x8 < 16 then [Reg.NU_CMD_GO ((a - 0x30100001) / 0x8), Reg.NU_CMD_ACTION ((a - 0x30100001) / 0x8)]
  else if 0x30100002 ≤ a ∧ (a - 0x30100002) % 0x8 = 0 ∧ (a - 0x30100002) / 0x8 < 16 then [Reg.NU_RESULT_PASS ((a - 0x30100002) / 0x8), Reg.NU_RESULT_DONE ((a - 0x30100002) / 0x8)]
  else if 0x30100003 ≤ a ∧ (a - 0x30100003) % 0x8 = 0 ∧ (a - 0x30100003) / 0x8 < 16 then [Reg.NU_FLT_COUNT ((a - 0x30100003) / 0x8)]
  else []

/-- The fields of the register word at `a` in this block of the map. -/
def secFields3014 (a : Nat) : List Fld :=
  if a = 0x30140000 then [Reg.RNG_CTL_RESEED]
  else if a = 0x30140001 then [Reg.RNG_STAT_FIFO, Reg.RNG_STAT_DRBG, Reg.RNG_STAT_HEALTHY, Reg.RNG_STAT_RAW_OPEN, Reg.RNG_STAT_RAW_PERMIT, Reg.RNG_STAT_RSO]
  else if 0x30140010 ≤ a ∧ (a - 0x30140010) % 0x4 = 0 ∧ (a - 0x30140010) / 0x4 < 8 then [Reg.SRC_CTL_RETIRE ((a - 0x30140010) / 0x4), Reg.SRC_STAT_RFO ((a - 0x30140010) / 0x4), Reg.SRC_STAT_FFO ((a - 0x30140010) / 0x4), Reg.SRC_STAT_CONSEC ((a - 0x30140010) / 0x4), Reg.SRC_STAT_STATE ((a - 0x30140010) / 0x4)]
  else if 0x30140011 ≤ a ∧ (a - 0x30140011) % 0x4 = 0 ∧ (a - 0x30140011) / 0x4 < 8 then [Reg.SRC_RCTF ((a - 0x30140011) / 0x4)]
  else if 0x30140012 ≤ a ∧ (a - 0x30140012) % 0x4 = 0 ∧ (a - 0x30140012) / 0x4 < 8 then [Reg.SRC_APTF ((a - 0x30140012) / 0x4)]
  else if 0x30140013 ≤ a ∧ (a - 0x30140013) % 0x4 = 0 ∧ (a - 0x30140013) / 0x4 < 8 then [Reg.SRC_RESTARTS ((a - 0x30140013) / 0x4)]
  else if a = 0x30140040 then [Reg.DRBG_RSD_L]
  else if a = 0x30140041 then [Reg.DRBG_RSD_H]
  else if a = 0x30140042 then [Reg.DRBG_REQS]
  else if a = 0x30140050 then [Reg.RAW_CTL_GO, Reg.RAW_CTL_CLOSE, Reg.RAW_CTL_MODE, Reg.RAW_CTL_SOURCE, Reg.RAW_CTL_COUNT]
  else if a = 0x30140051 then [Reg.RAW_STAT_ABORT, Reg.RAW_STAT_HEALTH, Reg.RAW_STAT_BUSY, Reg.RAW_STAT_DONE]
  else if a = 0x30140052 then [Reg.RAW_BASE_L]
  else if a = 0x30140053 then [Reg.RAW_BASE_H]
  else []

/-- The fields of the register word at `a` in this block of the map. -/
def secFields3018 (a : Nat) : List Fld :=
  if a = 0x30180000 then [Reg.KS_STAT_MSO, Reg.KS_STAT_LEASE_WAIT, Reg.KS_STAT_COMMIT_BUSY, Reg.KS_STAT_DIRTY, Reg.KS_STAT_VAULT]
  else if a = 0x30180001 then [Reg.KS_FREE_L]
  else if a = 0x30180002 then [Reg.KS_FREE_H]
  else if a = 0x30180003 then [Reg.KS_PINNED]
  else if a = 0x30180004 then [Reg.KS_MISS_L]
  else if a = 0x30180005 then [Reg.KS_MISS_H]
  else if a = 0x30180006 then [Reg.KS_IMPSEQ_L]
  else if a = 0x30180007 then [Reg.KS_IMPSEQ_H]
  else if a = 0x30180008 then [Reg.KS_FIXED_L]
  else if a = 0x30180009 then [Reg.KS_FIXED_H]
  else if a = 0x3018000a then [Reg.KS_RETIRED]
  else if a = 0x30180010 then [Reg.KS_OP_CMD_GO, Reg.KS_OP_CMD_OP]
  else if a = 0x30180011 then [Reg.KS_OP_STAT_STATUS, Reg.KS_OP_STAT_DONE]
  else if a = 0x30180012 then [Reg.KS_OP_ARG_L]
  else if a = 0x30180013 then [Reg.KS_OP_ARG_H]
  else []

/-- The fields of the register word at `a` in this block of the map. -/
def winFields (a : Nat) : List Fld :=
  if 0x10000030000 ≤ a ∧ (a - 0x10000030000) % 0x1000000000 = 0 ∧ (a - 0x10000030000) / 0x1000000000 < 3 then [Reg.LEAD_STAT_NL ((a - 0x10000030000) / 0x1000000000), Reg.LEAD_STAT_REFUSED ((a - 0x10000030000) / 0x1000000000), Reg.LEAD_STAT_EPO ((a - 0x10000030000) / 0x1000000000)]
  else if a = 0x10000030001 then [Reg.LEAD_STAT_MC_ALLOWED, Reg.LEAD_STAT_LEAD]
  else if a = 0x10000030004 then [Reg.LEAD_CTL_RELEASE, Reg.LEAD_CTL_CLAIM]
  else if a = 0x10000030008 then [Reg.LEAD_EPOCH]
  else if 0x10000030100 ≤ a ∧ (a - 0x10000030100) % 0x4 = 0 ∧ (a - 0x10000030100) / 0x4 < 16 then [Reg.TOKEN_RELEASE ((a - 0x10000030100) / 0x4), Reg.TOKEN_ACQUIRE ((a - 0x10000030100) / 0x4), Reg.TOKEN_BROKEN ((a - 0x10000030100) / 0x4), Reg.TOKEN_HOLDER ((a - 0x10000030100) / 0x4)]
  else if 0x10000001000 ≤ a ∧ (a - 0x10000001000) % 0x1000000000 = 0 ∧ (a - 0x10000001000) / 0x1000000000 < 2 then [Reg.PORT_VF_A_VFS ((a - 0x10000001000) / 0x1000000000)]
  else if 0x10000001004 ≤ a ∧ (a - 0x10000001004) % 0x1000000000 = 0 ∧ (a - 0x10000001004) / 0x1000000000 < 2 then [Reg.FLR_REPORT_VALID ((a - 0x10000001004) / 0x1000000000), Reg.FLR_REPORT_COUNT ((a - 0x10000001004) / 0x1000000000), Reg.FLR_REPORT_OVF ((a - 0x10000001004) / 0x1000000000), Reg.FLR_REPORT_FUNC ((a - 0x10000001004) / 0x1000000000)]
  else if a = 0x10000070000 then [Reg.PLX_STAT_CONFLICT, Reg.PLX_STAT_CALLER, Reg.PLX_STAT_MSTATE, Reg.PLX_STAT_LINK]
  else if a = 0x10000070004 then [Reg.PLX_FIXED]
  else if a = 0x10000070008 then [Reg.PLX_QID_LO]
  else if a = 0x1000007000c then [Reg.PLX_QID_HI]
  else if a = 0x10000070010 then [Reg.PLX_ROSTER_SEQ]
  else if a = 0x10000070014 then [Reg.PLX_ACTIVE]
  else if a = 0x10000070020 then [Reg.PLX_CMD_GO, Reg.PLX_CMD_ACTION, Reg.PLX_CMD_STATUS]
  else if 0x10000070024 ≤ a ∧ (a - 0x10000070024) % 0x4 = 0 ∧ (a - 0x10000070024) / 0x4 < 7 then [Reg.PLX_ARG ((a - 0x10000070024) / 0x4)]
  else if a = 0x10000070040 then [Reg.PLX_PEND_VALID, Reg.PLX_PEND_MEMBER]
  else if 0x10000070044 ≤ a ∧ (a - 0x10000070044) % 0x4 = 0 ∧ (a - 0x10000070044) / 0x4 < 4 then [Reg.PLX_PEND_SERIAL ((a - 0x10000070044) / 0x4)]
  else if 0x10000070100 ≤ a ∧ (a - 0x10000070100) % 0x10 = 0 ∧ (a - 0x10000070100) / 0x10 < 4 then [Reg.PLX_PORT_CFG_VID ((a - 0x10000070100) / 0x10), Reg.PLX_PORT_CFG_DRO ((a - 0x10000070100) / 0x10), Reg.PLX_PORT_CFG_ENABLE ((a - 0x10000070100) / 0x10)]
  else if 0x10000070104 ≤ a ∧ (a - 0x10000070104) % 0x10 = 0 ∧ (a - 0x10000070104) / 0x10 < 4 then [Reg.PLX_PORT_DROP ((a - 0x10000070104) / 0x10)]
  else if 0x10000078000 ≤ a ∧ (a - 0x10000078000) % 0x8 = 0 ∧ (a - 0x10000078000) / 0x8 < 4096 then [Reg.PLX_DOM_ROLE ((a - 0x10000078000) / 0x8), Reg.PLX_DOM_INCOMPLETE ((a - 0x10000078000) / 0x8), Reg.PLX_DOM_HOME ((a - 0x10000078000) / 0x8)]
  else if 0x10000078004 ≤ a ∧ (a - 0x10000078004) % 0x8 = 0 ∧ (a - 0x10000078004) / 0x8 < 4096 then [Reg.PLX_DOM_LAG ((a - 0x10000078004) / 0x8)]
  else if a = 0x10000060000 then [Reg.MGT_STAT_GPIO5_CONFLICT, Reg.MGT_STAT_PPS_IN_LOST, Reg.MGT_STAT_MON_CRIT, Reg.MGT_STAT_MON_WARN, Reg.MGT_STAT_MC_HALTED, Reg.MGT_STAT_STAGE_BUSY, Reg.MGT_STAT_TIME_STATE, Reg.MGT_STAT_CART_ALERT]
  else if a = 0x10000060004 then [Reg.FW_STAT_ARB, Reg.FW_STAT_ADV_PEND, Reg.FW_STAT_TRY_PENDING, Reg.FW_STAT_FALLBACK, Reg.FW_STAT_ACTIVE_SLOT, Reg.FW_STAT_STAGE_CODE]
  else if a = 0x10000060008 then [Reg.FW_SVN]
  else if a = 0x1000006000c then [Reg.MC_SVN]
  else if 0x10000060020 ≤ a ∧ (a - 0x10000060020) % 0x4 = 0 ∧ (a - 0x10000060020) / 0x4 < 14 then [Reg.MON_VAL_LEVEL ((a - 0x10000060020) / 0x4), Reg.MON_VAL_VALUE ((a - 0x10000060020) / 0x4)]
  else if a = 0x10000060060 then [Reg.MGT_CFG_MC_STAGE, Reg.MGT_CFG_HLOG_ERASE]
  else if a = 0x10000060064 then [Reg.HLOG_SEQ]
  else []

/-- The fields of the register word at `a` in this block of the map. -/
def secFields301C (a : Nat) : List Fld :=
  if a = 0x301c0000 then [Reg.JNL_STAT_UNAVAIL, Reg.JNL_STAT_FLUSHING, Reg.JNL_STAT_LEVEL, Reg.JNL_STAT_STUCK, Reg.JNL_STAT_LEVEL_CHG]
  else if a = 0x301c0010 then [Reg.JREC_CMD_GO, Reg.JREC_CMD_CONT, Reg.JREC_CMD_RESERVE]
  else if a = 0x301c0011 then [Reg.JREC_STAT_REFUSED, Reg.JREC_STAT_DONE]
  else if 0x301c0020 ≤ a ∧ a < 0x301c0033 then [Reg.JREC_DATA (a - 0x301c0020)]
  else []

/-- The fields of the register word at `a` in this block of the map. -/
def fnFields (a : Nat) : List Fld :=
  if 0x20000000000 ≤ a ∧ (a - 0x20000000000) % 0x100000 = 0 ∧ (a - 0x20000000000) / 0x100000 < 2050 then [Reg.FUNC_ID_IS_PF ((a - 0x20000000000) / 0x100000), Reg.FUNC_ID_PORT ((a - 0x20000000000) / 0x100000), Reg.FUNC_ID_FUNC ((a - 0x20000000000) / 0x100000)]
  else if 0x20000000004 ≤ a ∧ (a - 0x20000000004) % 0x100000 = 0 ∧ (a - 0x20000000004) / 0x100000 < 2050 then [Reg.FUNC_CAP_STREAM_PERMIT ((a - 0x20000000004) / 0x100000), Reg.FUNC_CAP_PUSH_SLOTS ((a - 0x20000000004) / 0x100000), Reg.FUNC_CAP_VECTORS ((a - 0x20000000004) / 0x100000), Reg.FUNC_CAP_QUEUES ((a - 0x20000000004) / 0x100000)]
  else if 0x20000000008 ≤ a ∧ (a - 0x20000000008) % 0x100000 = 0 ∧ (a - 0x20000000008) / 0x100000 < 2050 then [Reg.FUNC_STAT_SAVED ((a - 0x20000000008) / 0x100000), Reg.FUNC_STAT_FROZEN ((a - 0x20000000008) / 0x100000), Reg.FUNC_STAT_PRESSURE ((a - 0x20000000008) / 0x100000), Reg.FUNC_STAT_ACC_ERR ((a - 0x20000000008) / 0x100000)]
  else if 0x2000000000c ≤ a ∧ (a - 0x2000000000c) % 0x100000 = 0 ∧ (a - 0x2000000000c) / 0x100000 < 2050 then [Reg.FUNC_EVT ((a - 0x2000000000c) / 0x100000)]
  else if 0x20000000010 ≤ a ∧ (a - 0x20000000010) % 0x100000 = 0 ∧ (a - 0x20000000010) / 0x100000 < 2050 then [Reg.FUNC_EVT_MASK ((a - 0x20000000010) / 0x100000)]
  else if 0x20000000014 ≤ a ∧ (a - 0x20000000014) % 0x100000 = 0 ∧ (a - 0x20000000014) / 0x100000 < 2050 then [Reg.DEV_STAT_MODE ((a - 0x20000000014) / 0x100000)]
  else []

/-- The fields of the register word at `a` in this block of the map. -/
def queueFields (a : Nat) : List Fld :=
  if 0x40000000000 ≤ a ∧ (a - 0x40000000000) % 0x20 = 0 ∧ (a - 0x40000000000) / 0x20 < 524800 then [Reg.Q_CTL_VECTOR ((a - 0x40000000000) / 0x20), Reg.Q_CTL_LDEPTH ((a - 0x40000000000) / 0x20), Reg.Q_CTL_STREAM ((a - 0x40000000000) / 0x20), Reg.Q_CTL_FAILFAST ((a - 0x40000000000) / 0x20), Reg.Q_CTL_PUSH ((a - 0x40000000000) / 0x20), Reg.Q_CTL_ENABLE ((a - 0x40000000000) / 0x20)]
  else if 0x40000000004 ≤ a ∧ (a - 0x40000000004) % 0x20 = 0 ∧ (a - 0x40000000004) / 0x20 < 524800 then [Reg.Q_STAT_CFG_CAUSE ((a - 0x40000000004) / 0x20), Reg.Q_STAT_PUSH_OVF ((a - 0x40000000004) / 0x20), Reg.Q_STAT_ACTIVE ((a - 0x40000000004) / 0x20)]
  else if 0x40000000008 ≤ a ∧ (a - 0x40000000008) % 0x20 = 0 ∧ (a - 0x40000000008) / 0x20 < 524800 then [Reg.SQ_BASE_LO ((a - 0x40000000008) / 0x20)]
  else if 0x4000000000c ≤ a ∧ (a - 0x4000000000c) % 0x20 = 0 ∧ (a - 0x4000000000c) / 0x20 < 524800 then [Reg.SQ_BASE_HI ((a - 0x4000000000c) / 0x20)]
  else if 0x40000000010 ≤ a ∧ (a - 0x40000000010) % 0x20 = 0 ∧ (a - 0x40000000010) / 0x20 < 524800 then [Reg.CQ_BASE_LO ((a - 0x40000000010) / 0x20)]
  else if 0x40000000014 ≤ a ∧ (a - 0x40000000014) % 0x20 = 0 ∧ (a - 0x40000000014) / 0x20 < 524800 then [Reg.CQ_BASE_HI ((a - 0x40000000014) / 0x20)]
  else if 0x40000000018 ≤ a ∧ (a - 0x40000000018) % 0x20 = 0 ∧ (a - 0x40000000018) / 0x20 < 524800 then [Reg.Q_MOD_TIME ((a - 0x40000000018) / 0x20), Reg.Q_MOD_COUNT ((a - 0x40000000018) / 0x20)]
  else if 0x4000000001c ≤ a ∧ (a - 0x4000000001c) % 0x20 = 0 ∧ (a - 0x4000000001c) / 0x20 < 524800 then [Reg.Q_SQHEAD ((a - 0x4000000001c) / 0x20)]
  else []

/-- The fields of the register word at `a` in this block of the map. -/
def secFields3020 (a : Nat) : List Fld :=
  if a = 0x30200000 then [Reg.ISO_CAPT_FLT_HELD, Reg.ISO_CAPT_CMON_HELD, Reg.ISO_CAPT_VIOL_HELD, Reg.ISO_CAPT_FIRST_ONLY]
  else if a = 0x30200001 then [Reg.VIOL_STAT_LOST, Reg.VIOL_STAT_VCO, Reg.VIOL_STAT_ENTRIES]
  else if a = 0x30200002 then [Reg.VIOL_CTL_POP]
  else if a = 0x30200003 then [Reg.VIOL_COUNT]
  else if a = 0x30200010 then [Reg.LOCK_VIOLATION]
  else if a = 0x30200011 then [Reg.LOCK_ADDR_L]
  else if a = 0x30200012 then [Reg.LOCK_ADDR_H]
  else if a = 0x30200013 then [Reg.LOCK_INFO_LEVEL, Reg.LOCK_INFO_WORLD, Reg.LOCK_INFO_MASTER]
  else if a = 0x30200020 then [Reg.POT_STAT_RANGE, Reg.POT_CTL_SYNC]
  else if a = 0x30200021 then [Reg.POT_BACK_BASE16]
  else if a = 0x30200022 then [Reg.POT_CAP_GIB]
  else if a = 0x30200030 then [Reg.DBG_STAT_LEVEL, Reg.DBG_STAT_TARGETS, Reg.DBG_STAT_ACTIVE]
  else if a = 0x30200031 then [Reg.DBG_LEFT]
  else if 0x30201000 ≤ a ∧ (a - 0x30201000) / 0x40 < 3 ∧ (a - 0x30201000) % 0x40 / 4 < 16
      ∧ (a - 0x30201000) % 0x40 % 4 = 0 then [Reg.RGN_BASE ((a - 0x30201000) / 0x40) ((a - 0x30201000) % 0x40 / 4)]
  else if 0x30201001 ≤ a ∧ (a - 0x30201001) / 0x40 < 3 ∧ (a - 0x30201001) % 0x40 / 4 < 16
      ∧ (a - 0x30201001) % 0x40 % 4 = 0 then [Reg.RGN_LIMIT ((a - 0x30201001) / 0x40) ((a - 0x30201001) % 0x40 / 4)]
  else if 0x30201002 ≤ a ∧ (a - 0x30201002) / 0x40 < 3 ∧ (a - 0x30201002) % 0x40 / 4 < 16
      ∧ (a - 0x30201002) % 0x40 % 4 = 0 then [Reg.RGN_MID_MASK ((a - 0x30201002) / 0x40) ((a - 0x30201002) % 0x40 / 4), Reg.RGN_MID_ID ((a - 0x30201002) / 0x40) ((a - 0x30201002) % 0x40 / 4)]
  else if 0x30201003 ≤ a ∧ (a - 0x30201003) / 0x40 < 3 ∧ (a - 0x30201003) % 0x40 / 4 < 16
      ∧ (a - 0x30201003) % 0x40 % 4 = 0 then [Reg.RGN_ATTR_LOCK ((a - 0x30201003) / 0x40) ((a - 0x30201003) % 0x40 / 4), Reg.RGN_ATTR_EN ((a - 0x30201003) / 0x40) ((a - 0x30201003) % 0x40 / 4), Reg.RGN_ATTR_WORLD ((a - 0x30201003) / 0x40) ((a - 0x30201003) % 0x40 / 4), Reg.RGN_ATTR_PRIV ((a - 0x30201003) / 0x40) ((a - 0x30201003) % 0x40 / 4), Reg.RGN_ATTR_X ((a - 0x30201003) / 0x40) ((a - 0x30201003) % 0x40 / 4), Reg.RGN_ATTR_W ((a - 0x30201003) / 0x40) ((a - 0x30201003) % 0x40 / 4), Reg.RGN_ATTR_R ((a - 0x30201003) / 0x40) ((a - 0x30201003) % 0x40 / 4)]
  else []

/-- The fields of the register word at `a` in this block of the map. -/
def secFields3080 (a : Nat) : List Fld :=
  if 0x30800000 ≤ a ∧ a < 0x30880000 then [Reg.POT_ENTRY (a - 0x30800000)]
  else []

/-- The fields of the register word at `a` in this block of the map. -/
def secFields3024 (a : Nat) : List Fld :=
  if a = 0x30240000 then [Reg.MEM_STAT_CFG_ERR, Reg.MEM_STAT_VSTUCK, Reg.MEM_STAT_CTR_FAIL, Reg.MEM_STAT_POISON_EVT, Reg.MEM_STAT_UE, Reg.MEM_STAT_UEO, Reg.MEM_STAT_CEO, Reg.MEM_STAT_VAULT_READY, Reg.MEM_STAT_FILL_DONE, Reg.MEM_STAT_TRAINED]
  else if a = 0x30240001 then [Reg.MEM_CFG_STRAP]
  else if a = 0x30240002 then [Reg.MEM_VAULT_BASE_L]
  else if a = 0x30240003 then [Reg.MEM_VAULT_BASE_H]
  else if a = 0x30240004 then [Reg.MEM_USABLE_L]
  else if a = 0x30240005 then [Reg.MEM_USABLE_H]
  else if a = 0x30240006 then [Reg.MEM_FILL_L]
  else if a = 0x30240007 then [Reg.MEM_FILL_H]
  else if a = 0x30240008 then [Reg.MEM_CE_COUNT]
  else if a = 0x30240009 then [Reg.MEM_UE_COUNT]
  else if a = 0x3024000a then [Reg.MEM_ERR_ADDR_L]
  else if a = 0x3024000b then [Reg.MEM_ERR_ADDR_H]
  else if a = 0x3024000c then [Reg.MEM_ERR_INFO_KIND, Reg.MEM_ERR_INFO_MASTER, Reg.MEM_ERR_INFO_OCTETS, Reg.MEM_ERR_INFO_REGION]
  else if a = 0x3024000d then [Reg.MEM_SCRUB_PERIOD]
  else if a = 0x30240010 then [Reg.MEM_LW_ADDR_L]
  else if a = 0x30240011 then [Reg.MEM_LW_ADDR_H]
  else if a = 0x30240012 then [Reg.MEM_LW_CMD_GO]
  else if a = 0x30240013 then [Reg.MEM_LW_STAT_ERR, Reg.MEM_LW_STAT_DONE]
  else if 0x30240020 ≤ a ∧ a < 0x30240040 then [Reg.MEM_LW_DATA (a - 0x30240020)]
  else []

/-- The fields of the register word at `a` in this block of the map. -/
def secFields3028 (a : Nat) : List Fld :=
  if a = 0x30280000 then [Reg.TAMP_STAT_ACK_REF, Reg.TAMP_STAT_CLK_RC, Reg.TAMP_STAT_WINDOW, Reg.TAMP_STAT_CELL_DUE_B, Reg.TAMP_STAT_CELL_DUE_A, Reg.TAMP_STAT_TICK_STUCK, Reg.TAMP_STAT_LEDGER_FULL, Reg.TAMP_STAT_CFG_LOCKED, Reg.TAMP_STAT_COMMISSIONED, Reg.TAMP_STAT_ROOT, Reg.TAMP_STAT_ALARM, Reg.TAMP_STAT_TAMPER]
  else if a = 0x30280001 then [Reg.TAMP_CTL_ACK, Reg.TAMP_CTL_WIN_CLOSE, Reg.TAMP_CTL_ACK_INDEX]
  else if a = 0x30280005 then [Reg.LEDGER_USED]
  else if a = 0x3028000a then [Reg.LAST_ZERO]
  else if a = 0x3028000b then [Reg.LAST_ALARM]
  else if a = 0x3028000c then [Reg.WIN_LEFT]
  else if a = 0x30280010 then [Reg.TEMP_LIM_LOW, Reg.TEMP_LIM_HIGH]
  else if a = 0x30280011 then [Reg.VBAT_LIM_HIGH, Reg.VBAT_LIM_LOW]
  else if a = 0x30280012 then [Reg.BAT_RATE]
  else if a = 0x30280013 then [Reg.MESH_EN]
  else if a = 0x30280014 then [Reg.ENC_CFG]
  else if 0x30280018 ≤ a ∧ (a - 0x30280018) % 0x10 = 0 ∧ (a - 0x30280018) / 0x10 < 2 then [Reg.CELL_STAT_AUTH_FAIL ((a - 0x30280018) / 0x10), Reg.CELL_STAT_AUTH_OK ((a - 0x30280018) / 0x10), Reg.CELL_STAT_EXPIRED ((a - 0x30280018) / 0x10), Reg.CELL_STAT_PRESENT ((a - 0x30280018) / 0x10)]
  else if a = 0x30280038 then [Reg.CELL_CMD_GO, Reg.CELL_CMD_ACTION, Reg.CELL_CMD_CELL]
  else if a = 0x30280039 then [Reg.CELL_CMD_STAT_ERR, Reg.CELL_CMD_STAT_DONE]
  else if 0x30280040 ≤ a ∧ a < 0x3028006a then [Reg.SENS_CFG_RESPONSE (a - 0x30280040), Reg.SENS_CFG_FILTER (a - 0x30280040)]
  else if 0x30280080 ≤ a ∧ a < 0x30280090 then [Reg.CELL_CHAL (a - 0x30280080)]
  else if 0x302800c0 ≤ a ∧ a < 0x3028012a then [Reg.CELL_RESP (a - 0x302800c0)]
  else []

/-- The fields of the register word at `a` in this block of the map. -/
def secFields302C (a : Nat) : List Fld :=
  if a = 0x302c0000 then [Reg.MC_CTL_RESET, Reg.MC_CTL_RUN]
  else if a = 0x302c0001 then [Reg.MC_STAT_WDOG, Reg.MC_STAT_HALTED, Reg.MC_STAT_RUNNING]
  else if a = 0x302c0002 then [Reg.MC_WDOG_MS]
  else []

/-- The fields of the register word at `a` in this block of the map. -/
def secFields3100 (a : Nat) : List Fld :=
  if a = 0x31000000 then [Reg.MC_WDOG_KICK]
  else if a = 0x31000001 then [Reg.TIME_CTL_LOCK]
  else if a = 0x31000002 then [Reg.TIME_RATE_L]
  else if a = 0x31000003 then [Reg.TIME_RATE_H]
  else if 0x31000004 ≤ a ∧ a < 0x31000009 then [Reg.TIME_STEP (a - 0x31000004)]
  else if 0x31000009 ≤ a ∧ a < 0x3100000e then [Reg.TIME_SET (a - 0x31000009)]
  else if 0x31000018 ≤ a ∧ a < 0x3100001d then [Reg.PPS_IN_TS (a - 0x31000018)]
  else if 0x31000020 ≤ a ∧ a < 0x31000028 then [Reg.GPIO_CFG_VALUE (a - 0x31000020), Reg.GPIO_CFG_FUNC (a - 0x31000020)]
  else if a = 0x31000028 then [Reg.GPIO_STAT_CONFLICT]
  else if 0x31000030 ≤ a ∧ (a - 0x31000030) % 0x2 = 0 ∧ (a - 0x31000030) / 0x2 < 14 then [Reg.MON_WARN_THR ((a - 0x31000030) / 0x2)]
  else if 0x31000031 ≤ a ∧ (a - 0x31000031) % 0x2 = 0 ∧ (a - 0x31000031) / 0x2 < 14 then [Reg.MON_CRIT_THR ((a - 0x31000031) / 0x2)]
  else if a = 0x31000050 then [Reg.ETH_CFG_MODE]
  else if a = 0x31000060 then [Reg.HLOG_APPEND_GO]
  else if 0x31000061 ≤ a ∧ a < 0x3100006a then [Reg.HLOG_DATA (a - 0x31000061)]
  else if a = 0x31000070 then [Reg.STAGE_CMD_GO, Reg.STAGE_CMD_STATUS, Reg.STAGE_CMD_CODE]
  else if a = 0x31000071 then [Reg.STAGE_ADDR_L]
  else if a = 0x31000072 then [Reg.STAGE_ADDR_H]
  else if a = 0x31000080 then [Reg.MC_INT_LATCH]
  else []

/-- The fields of the register word at `a` in this block of the map. -/
def secFields3030 (a : Nat) : List Fld :=
  if a = 0x30300000 then [Reg.RST_CAUSE_FW, Reg.RST_CAUSE_WDOG, Reg.RST_CAUSE_LEAD_CMD, Reg.RST_CAUSE_WARM_PIN, Reg.RST_CAUSE_PERST_B, Reg.RST_CAUSE_PERST_A, Reg.RST_CAUSE_PWR_FAIL, Reg.RST_CAUSE_RESET_PIN, Reg.RST_CAUSE_SUPPLY]
  else if a = 0x30300001 then [Reg.FUSE_STAT_INTERRUPTS]
  else if a = 0x30300002 then [Reg.RST_CTL_WARM, Reg.RST_CTL_FAULT, Reg.RST_CTL_SC1_RUN]
  else if a = 0x30300003 then [Reg.RST_BOOT_TARGET]
  else if a = 0x30300004 then [Reg.SC_WDOG_MS]
  else if a = 0x30300005 then [Reg.SC_WDOG_KICK]
  else if a = 0x30300008 then [Reg.BLOCK_RST_GO, Reg.BLOCK_RST_TYPE, Reg.BLOCK_RST_INDEX]
  else if a = 0x30300009 then [Reg.BLOCK_RST_STAT_ERR, Reg.BLOCK_RST_STAT_DONE]
  else if a = 0x30300010 then [Reg.SLEEP_CFG_EN, Reg.SLEEP_CFG_IDLE]
  else if a = 0x30300011 then [Reg.SLEEP_STAT_WAKE_REQ, Reg.SLEEP_STAT_SCO, Reg.SLEEP_STAT_WAKE]
  else if a = 0x30300012 then [Reg.SLEEP_COUNT]
  else if a = 0x30300018 then [Reg.MODE_STAT_FAULT_CAUSE, Reg.MODE_STAT_MODE]
  else []

/-- The fields of the register word at `a` in this block of the map. -/
def secFields3034 (a : Nat) : List Fld :=
  if 0x30340000 ≤ a ∧ a < 0x30340002 then [Reg.INT_LATCH_DOOR (a - 0x30340000), Reg.INT_LATCH_MODE (a - 0x30340000), Reg.INT_LATCH_ENT (a - 0x30340000), Reg.INT_LATCH_FLT (a - 0x30340000)]
  else if a = 0x30340004 then [Reg.INT_DOOR_RING]
  else []

/-- The fields of the register word with store address `a`; a word with no named field has none. -/
def fieldsAt (a : Nat) : List Fld :=
  if a % 0x1000000000 / 0x10000 = 0x3000 ∧ a < 0x10000000000 then secFields3000 a
  else if a % 0x1000000000 / 0x10000 = 0x3001 ∧ a < 0x10000000000 then secFields3001 a
  else if a % 0x1000000000 / 0x10000 = 0x3002 ∧ a < 0x10000000000 then secFields3002 a
  else if a % 0x1000000000 / 0x10000 = 0x3003 ∧ a < 0x10000000000 then secFields3003 a
  else if a % 0x1000000000 / 0x10000 = 0x3004 ∧ a < 0x10000000000 then secFields3004 a
  else if a % 0x1000000000 / 0x10000 = 0x3008 ∧ a < 0x10000000000 then secFields3008 a
  else if a % 0x1000000000 / 0x10000 = 0x300c ∧ a < 0x10000000000 then secFields300C a
  else if a % 0x1000000000 / 0x10000 = 0x300d ∧ a < 0x10000000000 then secFields300D a
  else if a % 0x1000000000 / 0x10000 = 0x3010 ∧ a < 0x10000000000 then secFields3010 a
  else if a % 0x1000000000 / 0x10000 = 0x3014 ∧ a < 0x10000000000 then secFields3014 a
  else if a % 0x1000000000 / 0x10000 = 0x3018 ∧ a < 0x10000000000 then secFields3018 a
  else if a % 0x1000000000 / 0x10000 = 0x301c ∧ a < 0x10000000000 then secFields301C a
  else if a % 0x1000000000 / 0x10000 = 0x3020 ∧ a < 0x10000000000 then secFields3020 a
  else if a % 0x1000000000 / 0x10000 = 0x3080 ∧ a < 0x10000000000 then secFields3080 a
  else if a % 0x1000000000 / 0x10000 = 0x3024 ∧ a < 0x10000000000 then secFields3024 a
  else if a % 0x1000000000 / 0x10000 = 0x3028 ∧ a < 0x10000000000 then secFields3028 a
  else if a % 0x1000000000 / 0x10000 = 0x302c ∧ a < 0x10000000000 then secFields302C a
  else if a % 0x1000000000 / 0x10000 = 0x3100 ∧ a < 0x10000000000 then secFields3100 a
  else if a % 0x1000000000 / 0x10000 = 0x3030 ∧ a < 0x10000000000 then secFields3030 a
  else if a % 0x1000000000 / 0x10000 = 0x3034 ∧ a < 0x10000000000 then secFields3034 a
  else if 0x30800000 ≤ a ∧ a < 0x30880000 then secFields3080 a
  else if 0x10000000000 ≤ a ∧ a < 0x20000000000 then winFields a
  else if 0x20000000000 ≤ a ∧ a < 0x40000000000 then fnFields a
  else if 0x40000000000 ≤ a ∧ a < 0x80000000000 then queueFields a
  else []

end Sys2Proof.Machine
end

