-- ==== Sys2Proof/Machine/Ops.lean ====
section
/-! DEFINITION. Named operations over the state: sparse tables, the register store, octet strings, bit fields, free values. -/
namespace Sys2Proof.Machine

/-- The answer of every meaning of this model: the next state. -/
abbrev Out := Host.Outcome State Fault Refusal

/-- A next state. -/
def done (s : State) : Out := .next s

/-! ### Sparse tables -/

/-- Reading a sparse table whose unlisted entry is `d`. -/
def tget {α : Type} (d : α) (t : Tab α) (k : Nat) : α :=
  match t with
  | [] => d
  | (k', v) :: rest => if k = k' then v else tget d rest k

/-- The list with what is listed at `k` removed. -/
def tdel {α : Type} (t : Tab α) (k : Nat) : Tab α :=
  match t with
  | [] => []
  | (k', v) :: rest => if k = k' then tdel rest k else (k', v) :: tdel rest k

/-- The list with the entry at `k` listed as `v`, in rising order. -/
def tput {α : Type} (t : Tab α) (k : Nat) (v : α) : Tab α :=
  match t with
  | [] => [(k, v)]
  | (k', v') :: rest =>
    if k < k' then (k, v) :: (k', v') :: rest
    else if k = k' then (k, v) :: rest
    else (k', v') :: tput rest k v

/-- Writing a sparse table whose unlisted entry is `d`: the entry is listed exactly when its value is not `d`. -/
def tset {α : Type} [DecidableEq α] (d : α) (t : Tab α) (k : Nat) (v : α) : Tab α :=
  if v = d then tdel t k else tput t k v

/-- Strictly rising indexes. -/
def tsorted {α : Type} : Tab α → Bool
  | [] => true
  | [_] => true
  | (k, _) :: (k', v') :: rest => decide (k < k') && tsorted ((k', v') :: rest)

/-- The canonical form of a table with default `d`: strictly rising indexes and no entry that holds the default. -/
def twf {α : Type} [DecidableEq α] (d : α) (t : Tab α) : Bool :=
  tsorted t && t.all (fun e => decide (e.2 ≠ d))

/-! ### Registers -/

/-- The number of a reset name in the store's keys. -/
def RCls.num : RCls → Nat
  | .none => 0 | .vbat => 1 | .por => 2 | .warm => 3 | .perst => 4 | .flr => 5 | .block => 6

/-- The index of a field in the register store: address, position, reset name. -/
def Fld.key (f : Fld) : Nat := (f.addr * 32 + f.lo) * 8 + f.cls.num

/-- The value of a field. -/
def State.rd (s : State) (f : Fld) : Nat := tget f.rst s.regs f.key

/-- The state with a field set (modulo its width). -/
def State.wr (s : State) (f : Fld) (v : Nat) : State :=
  { s with regs := tset f.rst s.regs f.key (v % 2 ^ f.wid) }

/-- A field of one bit, read as a Boolean. -/
def State.on (s : State) (f : Fld) : Bool := decide (s.rd f ≠ 0)

/-- Setting or clearing a field of one bit. -/
def State.flag (s : State) (f : Fld) (b : Bool) : State := s.wr f (if b then 1 else 0)

/-- The 36-bit value of a low and a high word register. -/
def State.rd2 (s : State) (l h : Fld) : Nat := s.rd l + 2 ^ 18 * s.rd h

/-- Writing a value over a low and a high word register. -/
def State.wr2 (s : State) (l h : Fld) (v : Nat) : State := (s.wr l v).wr h (v / 2 ^ 18)

/-- A statistics counter that wraps to zero and sets its overflow mark. -/
def State.count (s : State) (c o : Fld) : State :=
  let v := s.rd c + 1
  if v < 2 ^ c.wid then s.wr c v else (s.wr c 0).wr o 1

/-- A reset of class `r` reaches a field whose reset name has the same or a smaller reach; battery-domain fields answer only
to VBAT (R11, Table 0.5). -/
def resetReaches (r c : RCls) : Bool :=
  decide (c.num ≠ 0) && (if r = .vbat then decide (c = .vbat) else decide (r.num ≤ c.num))

/-- The register store after a reset: every field that the reset reaches holds its reset value. -/
def resetRegs (r : RCls) (t : Tab Nat) : Tab Nat :=
  t.filter (fun e => !(decide (e.1 % 8 ≠ 0) &&
    (if r = .vbat then decide (e.1 % 8 = 1) else decide (r.num ≤ e.1 % 8))))

/-- The whole word of a register as a bus read finds it: the sum of its readable fields (R10). -/
def State.word (s : State) (a : Nat) : Nat :=
  ((fieldsAt a).map (fun f => if f.acc = .wo then 0 else s.rd f * 2 ^ f.lo)).sum

/-- The mark that a field of access WL has had its first write (R344); it is reset with the field. -/
def Fld.mark (f : Fld) : Fld := { f with addr := f.addr + 2 ^ 45, wid := 1, rst := 0, acc := .ro }

/-- Does a bus write change a field of access WL after its first write (R344)? -/
def State.lockedChange (s : State) (a v : Nat) : Bool :=
  (fieldsAt a).any (fun f => decide (f.acc = .wl) && s.on f.mark && decide (v / 2 ^ f.lo % 2 ^ f.wid ≠ s.rd f))

/-- A bus write of one field by its access code (R10): RW takes the value, W1C clears where 1 is written, W1S sets where
1 is written, WL takes its first write only (R344), WO, RO and XO are left to the defining chapter. -/
def State.wrAcc (s : State) (f : Fld) (v : Nat) : State :=
  let x := v / 2 ^ f.lo % 2 ^ f.wid
  match f.acc with
  | .rw => s.wr f x
  | .wo => s
  | .ro => s
  | .xo => s
  | .w1c => s.wr f (((BitVec.ofNat f.wid (s.rd f)) &&& ~~~(BitVec.ofNat f.wid x)).toNat)
  | .w1s => s.wr f (((BitVec.ofNat f.wid (s.rd f)) ||| (BitVec.ofNat f.wid x)).toNat)
  | .wl => if s.on f.mark then s else (s.wr f x).flag f.mark true

/-- A bus write of a whole register word, field by field. -/
def State.wrWord (s : State) (a v : Nat) : State :=
  (fieldsAt a).foldl (fun s f => s.wrAcc f v) s

/-! ### Free values -/

/-- A free number below `n`, and the state with the free counter advanced. -/
def State.freeNat (s : State) : Nat × State := (Config.freeNat s.free, { s with free := s.free + 1 })
/-- A free word. -/
def State.freeWord (s : State) : Word × State := (Config.freeWord s.free, { s with free := s.free + 1 })
/-- A free octet string of length `n`: the opaque octets, cut and padded to the length. -/
def State.freeOctets (s : State) (n : Nat) : List Octet × State :=
  let o := Config.freeOctets s.free n
  ((o ++ List.replicate n 0).take n, { s with free := s.free + 1 })

/-! ### Octet strings -/

/-- Little-endian octets of a number. -/
def leOctets : Nat → Nat → List Octet
  | 0, _ => []
  | k + 1, v => BitVec.ofNat 8 v :: leOctets k (v / 256)
/-- Big-endian octets of a number. -/
def beOctets (k v : Nat) : List Octet := (leOctets k v).reverse
/-- The number that little-endian octets spell. -/
def ofLe : List Octet → Nat
  | [] => 0
  | o :: rest => o.toNat + 256 * ofLe rest
/-- The number that big-endian octets spell. -/
def ofBe (o : List Octet) : Nat := ofLe o.reverse
/-- A field of a block of octets: `n` octets from offset `off`, zero beyond the end. -/
def octAt (o : List Octet) (off n : Nat) : List Octet := ((o.drop off) ++ List.replicate n 0).take n
/-- A little-endian field of a block of octets. -/
def leAt (o : List Octet) (off n : Nat) : Nat := ofLe (octAt o off n)
/-- An octet string cut or padded with zeros to `n` octets. -/
def fitOctets (n : Nat) (o : List Octet) : List Octet := (o ++ List.replicate n 0).take n
/-- Writing octets over a string at an offset. -/
def setOctets (o : List Octet) (off : Nat) (v : List Octet) : List Octet :=
  o.take off ++ v ++ o.drop (off + v.length)
/-- A block from 16 octets, octet 0 most significant. -/
def blockOf (o : List Octet) : Block := BitVec.ofNat 128 (ofBe (fitOctets 16 o))
/-- The 16 octets of a block. -/
def octetsOf (b : Block) : List Octet := beOctets 16 b.toNat
/-- The octets of a string, 16 at a time, the last padded with zeros. -/
def blocksOf (o : List Octet) : List Block :=
  (List.range ((o.length + 15) / 16)).map (fun i => blockOf (octAt o (16 * i) 16))
/-- Exclusive OR of two octet strings of one length. -/
def xorOctets (a b : List Octet) : List Octet := List.zipWith (· ^^^ ·) a b
/-- The octets spelt by characters of ASCII. -/
def ascii (t : String) : List Octet := t.toList.map (fun c => BitVec.ofNat 8 c.toNat)

/-- A statistics or sequence value that sticks at its maximum of `w` bits. -/
def stick (w v : Nat) : Nat := min v (2 ^ w - 1)

/-- Bit `i` of a number. -/
def bit (v i : Nat) : Bool := v / 2 ^ i % 2 = 1

/-- A Boolean as a number. -/
def b2n (b : Bool) : Nat := if b then 1 else 0

/-- The element at `i` of a list, or a default. -/
def nth {α : Type} (d : α) (l : List α) (i : Nat) : α := (l[i]?).getD d

/-- A list with the element at `i` replaced. -/
def lset {α : Type} (l : List α) (i : Nat) (v : α) : List α := l.set i v

end Sys2Proof.Machine
end

