-- ==== Sys2Proof/Machine/Aes.lean ====
section
/-! DEFINITION. AES (FIPS 197) and the modes of spec/06 over it: counter, XTS, CBC, CMAC, GHASH and GCM, key wrap with
padding. The arithmetic is that of the standards the spec names (log 3). -/
namespace Sys2Proof.Machine

/-- Multiplication by x in GF(2^8) modulo x^8 + x^4 + x^3 + x + 1. -/
def xtime (a : Octet) : Octet := (a <<< 1) ^^^ (if a.getLsbD 7 then 0x1B else 0)

/-- Multiplication in GF(2^8), over `n` bits of the second operand. -/
def gmulAux : Nat → Octet → Octet → Octet
  | 0, _, _ => 0
  | n + 1, a, b => (if b.getLsbD 0 then a else 0) ^^^ gmulAux n (xtime a) (b >>> 1)

/-- Multiplication in GF(2^8). -/
def gmul (a b : Octet) : Octet := gmulAux 8 a b

/-- The inverse in GF(2^8), as the 254th power; 0 for 0. -/
def ginv (a : Octet) : Octet :=
  let a2 := gmul a a; let a3 := gmul a2 a; let a6 := gmul a3 a3; let a12 := gmul a6 a6
  let a15 := gmul a12 a3; let a30 := gmul a15 a15; let a60 := gmul a30 a30; let a120 := gmul a60 a60
  let a126 := gmul a120 a6; let a127 := gmul a126 a
  gmul a127 a127

/-- The S-box of FIPS 197. -/
def sbox (a : Octet) : Octet :=
  let b := ginv a
  b ^^^ b.rotateLeft 1 ^^^ b.rotateLeft 2 ^^^ b.rotateLeft 3 ^^^ b.rotateLeft 4 ^^^ 0x63

/-- The inverse S-box of FIPS 197. -/
def invSbox (a : Octet) : Octet :=
  ginv (a.rotateLeft 1 ^^^ a.rotateLeft 3 ^^^ a.rotateLeft 6 ^^^ 0x05)

/-- Words of the expanded key still to form: `words` holds the schedule so far, latest first. -/
def expandAux (nk : Nat) : Nat → Nat → Octet → List (List Octet) → List (List Octet)
  | 0, _, _, ws => ws
  | k + 1, i, rcon, ws =>
    let prev := nth [] ws 0
    let back := nth [] ws (nk - 1)
    let rot := prev.drop 1 ++ prev.take 1
    let t := if i % nk = 0 then xorOctets (rot.map sbox) [rcon, 0, 0, 0]
             else if nk > 6 ∧ i % nk = 4 then prev.map sbox else prev
    expandAux nk k (i + 1) (if i % nk = 0 then xtime rcon else rcon) (xorOctets back t :: ws)

/-- Rounds for a key of `n` octets: 10, 12 or 14 (spec/06, Table 6.4). -/
def aesRounds (n : Nat) : Nat := n / 4 + 6

/-- The round keys of 16 octets, first to last. -/
def roundKeys (key : List Octet) : List (List Octet) :=
  let nk := key.length / 4
  let start := ((List.range nk).map (fun i => octAt key (4 * i) 4)).reverse
  let ws := (expandAux nk (4 * (aesRounds key.length + 1) - nk) nk 1 start).reverse
  (List.range (aesRounds key.length + 1)).map (fun r => ((ws.drop (4 * r)).take 4).flatten)

/-- ShiftRows on 16 octets in column order. -/
def shiftRows (s : List Octet) : List Octet :=
  (List.range 16).map (fun i => nth 0 s ((i + 4 * (i % 4)) % 16))
/-- InvShiftRows. -/
def invShiftRows (s : List Octet) : List Octet :=
  (List.range 16).map (fun i => nth 0 s ((i + 16 - 4 * (i % 4)) % 16))
/-- One column times a circulant matrix row. -/
def mixWith (m : List Octet) (s : List Octet) : List Octet :=
  (List.range 16).map (fun i =>
    let c := i / 4 * 4
    ((List.range 4).map (fun j => gmul (nth 0 m ((j + 4 - i % 4) % 4)) (nth 0 s (c + j)))).foldl (· ^^^ ·) 0)
/-- MixColumns. -/
def mixColumns (s : List Octet) : List Octet := mixWith [2, 3, 1, 1] s
/-- InvMixColumns. -/
def invMixColumns (s : List Octet) : List Octet := mixWith [14, 11, 13, 9] s

/-- The rounds of the forward cipher over the remaining round keys. -/
def encRounds : List (List Octet) → List Octet → List Octet
  | [], s => s
  | [k], s => xorOctets (shiftRows (s.map sbox)) k
  | k :: ks, s => encRounds ks (xorOctets (mixColumns (shiftRows (s.map sbox))) k)

/-- The rounds of the inverse cipher over the remaining round keys, last round key first. -/
def decRounds : List (List Octet) → List Octet → List Octet
  | [], s => s
  | [k], s => xorOctets (invShiftRows s |>.map invSbox) k
  | k :: ks, s => decRounds ks (invMixColumns (xorOctets (invShiftRows s |>.map invSbox) k))

/-- The forward cipher under a key of 16, 24 or 32 octets. -/
def aesEnc (key : List Octet) (b : Block) : Block :=
  match roundKeys key with
  | [] => b
  | k :: ks => blockOf (encRounds ks (xorOctets (octetsOf b) k))

/-- The inverse cipher under a key of 16, 24 or 32 octets. -/
def aesDec (key : List Octet) (b : Block) : Block :=
  match (roundKeys key).reverse with
  | [] => b
  | k :: ks => blockOf (decRounds ks (xorOctets (octetsOf b) k))

/-- The inverse start key: the last Nk words of the expanded schedule (R141). -/
def inverseStartKey (key : List Octet) : List Octet :=
  let all := (roundKeys key).flatten
  all.drop (all.length - key.length)

/-! ### GHASH and GCM (SP 800-38D) -/

/-- The bits of the GHASH product still to add: `z` the sum, `v` the shifted operand. -/
def gfAux : Nat → Block → Block → Block → Block
  | 0, _, _, z => z
  | n + 1, x, v, z =>
    gfAux n (x <<< 1) ((v >>> 1) ^^^ (if v.getLsbD 0 then (0xE1 : Block) <<< 120 else 0))
      (if x.getLsbD 127 then z ^^^ v else z)

/-- Multiplication of blocks in the field of GHASH. -/
def gfMul (x y : Block) : Block := gfAux 128 x y 0

/-- GHASH under H of a string of whole blocks. -/
def ghash (h : Block) (bs : List Block) : Block := bs.foldl (fun y b => gfMul (y ^^^ b) h) 0

/-- The counter block with its low 32 bits advanced by `n`. -/
def inc32 (b : Block) (n : Nat) : Block :=
  BitVec.ofNat 128 (b.toNat / 2 ^ 32 * 2 ^ 32 + (b.toNat + n) % 2 ^ 32)

/-- GCTR: the octets XORed with the encrypted counter blocks from `ctr`. -/
def gctr (key : List Octet) (ctr : Block) (o : List Octet) : List Octet :=
  let bs := (List.range ((o.length + 15) / 16)).map (fun i => octetsOf (aesEnc key (inc32 ctr i)))
  xorOctets o bs.flatten

/-- The GHASH of padded additional data, padded ciphertext and the length block. -/
def gcmHash (h : Block) (aad c : List Octet) : Block :=
  ghash h (blocksOf aad ++ blocksOf c ++
    [BitVec.ofNat 128 (aad.length * 8 * 2 ^ 64 + c.length * 8)])

/-- GCM seal: ciphertext and 16-octet tag under a 12-octet IV. -/
def gcmSeal (key iv aad p : List Octet) : List Octet × List Octet :=
  let j0 := blockOf (fitOctets 12 iv ++ [0, 0, 0, 1])
  let h := aesEnc key 0
  let c := gctr key (inc32 j0 1) p
  (c, octetsOf (gcmHash h aad c ^^^ aesEnc key j0))

/-- GCM open: the plaintext, or none when the tag differs. -/
def gcmOpen (key iv aad c tag : List Octet) : Option (List Octet) :=
  let j0 := blockOf (fitOctets 12 iv ++ [0, 0, 0, 1])
  let h := aesEnc key 0
  if octetsOf (gcmHash h aad c ^^^ aesEnc key j0) = tag then some (gctr key (inc32 j0 1) c) else none

/-! ### XTS, CMAC, key wrap -/

/-- Multiplication of an XTS tweak by alpha (SP 800-38E; octet 0 least significant). -/
def xtsAlpha (t : Block) : Block :=
  let v := ofLe (octetsOf t)
  let d := 2 * v
  let r := if d ≥ 2 ^ 128 then (BitVec.ofNat 128 d) ^^^ 0x87 else BitVec.ofNat 128 d
  blockOf (leOctets 16 r.toNat)

/-- The tweak times a power of alpha. -/
def xtsPow : Nat → Block → Block
  | 0, t => t
  | n + 1, t => xtsPow n (xtsAlpha t)

/-- Doubling in the field of CMAC. -/
def cmacDouble (b : Block) : Block := (b <<< 1) ^^^ (if b.getLsbD 127 then 0x87 else 0)

/-- AES-CMAC (SP 800-38B). -/
def cmac (key msg : List Octet) : List Octet :=
  let k1 := cmacDouble (aesEnc key 0)
  let n := max 1 ((msg.length + 15) / 16)
  let lastO := msg.drop (16 * (n - 1))
  let lastB := if lastO.length = 16 then blockOf lastO ^^^ k1 else blockOf (lastO ++ [0x80]) ^^^ cmacDouble k1
  let x := ((List.range (n - 1)).map (fun i => blockOf (octAt msg (16 * i) 16))).foldl (fun x b => aesEnc key (x ^^^ b)) 0
  octetsOf (aesEnc key (x ^^^ lastB))

/-- One wrap step over the semiblock list: `t` counts from 1. -/
def wrapSteps (key : List Octet) : Nat → Nat → List Octet → List (List Octet) → List Octet × List (List Octet)
  | 0, _, a, rs => (a, rs)
  | k + 1, t, a, rs =>
    match rs with
    | [] => (a, rs)
    | r :: rest =>
      let b := octetsOf (aesEnc key (blockOf (a ++ r)))
      wrapSteps key k (t + 1) (xorOctets (b.take 8) (beOctets 8 t)) (rest ++ [b.drop 8])

/-- One unwrap step over the reversed semiblock list: `t` counts down. -/
def unwrapSteps (key : List Octet) : Nat → List Octet → List (List Octet) → List Octet × List (List Octet)
  | 0, a, rs => (a, rs)
  | t + 1, a, rs =>
    match rs with
    | [] => (a, rs)
    | r :: rest =>
      let b := octetsOf (aesDec key (blockOf (xorOctets a (beOctets 8 (t + 1)) ++ r)))
      unwrapSteps key t (b.take 8) (rest ++ [b.drop 8])

/-- Semiblocks of a string of whole semiblocks. -/
def semiblocks (o : List Octet) : List (List Octet) :=
  (List.range (o.length / 8)).map (fun i => octAt o (8 * i) 8)

/-- AES key wrap with padding (KWP, SP 800-38F). -/
def kwpWrap (key p : List Octet) : List Octet :=
  let aiv := [0xA6, 0x59, 0x59, 0xA6] ++ beOctets 4 p.length
  let padded := fitOctets ((p.length + 7) / 8 * 8) p
  if padded.length = 8 then octetsOf (aesEnc key (blockOf (aiv ++ padded)))
  else
    let rs := semiblocks padded
    let (a, out) := wrapSteps key (6 * rs.length) 1 aiv rs
    a ++ out.flatten

/-- AES key unwrap with padding: the plaintext, or none when the check fails. -/
def kwpUnwrap (key c : List Octet) : Option (List Octet) :=
  let (a, p) :=
    if c.length = 16 then
      let b := octetsOf (aesDec key (blockOf c)); (b.take 8, b.drop 8)
    else
      let rs := (semiblocks (c.drop 8)).reverse
      let (a, out) := unwrapSteps key (6 * rs.length) (c.take 8) rs
      (a, out.reverse.flatten)
  let len := ofBe (a.drop 4)
  if a.take 4 = [0xA6, 0x59, 0x59, 0xA6] ∧ len ≤ p.length ∧ p.length < len + 8 ∧ 0 < len ∧
      (p.drop len).all (· = 0) then some (p.take len) else none

/-- AES key wrap (KW, SP 800-38F). -/
def kwWrap (key p : List Octet) : List Octet :=
  let rs := semiblocks p
  let (a, out) := wrapSteps key (6 * rs.length) 1 (List.replicate 8 0xA6) rs
  a ++ out.flatten

end Sys2Proof.Machine
end

