-- ==== Sys2Proof/Machine/Hash.lean ====
section
/-! DEFINITION. The digest algorithms of spec/07: SHA-2 (FIPS 180-4), Keccak, SHA-3 and SHAKE (FIPS 202), cSHAKE and KMAC
encodings (SP 800-185), HMAC (FIPS 198-1), and the random bit generator CTR_DRBG (SP 800-90A). The arithmetic is that of the
standards the spec names (log 3). -/
namespace Sys2Proof.Machine

/-- The first primes. -/
def primes80 : List Nat :=
  [2, 3, 5, 7, 11, 13, 17, 19, 23, 29, 31, 37, 41, 43, 47, 53, 59, 61, 67, 71, 73, 79, 83, 89, 97, 101, 103, 107, 109, 113,
   127, 131, 137, 139, 149, 151, 157, 163, 167, 173] ++
  [179, 181, 191, 193, 197, 199, 211, 223, 227, 229, 233, 239, 241, 251, 257, 263, 269, 271, 277, 281, 283, 293, 307, 311,
   313, 317, 331, 337, 347, 349, 353, 359, 367, 373, 379, 383, 389, 397, 401, 409]

/-- The largest root whose `e`th power does not exceed `n`, found bit by bit from bit `k - 1`. -/
def rootAux (e n : Nat) : Nat → Nat → Nat
  | 0, r => r
  | k + 1, r => rootAux e n k (if (r + 2 ^ k) ^ e ≤ n then r + 2 ^ k else r)

/-- The first `w` fraction bits of the square root of `p`. -/
def sqrtFrac (w p : Nat) : Nat := rootAux 2 (p * 2 ^ (2 * w)) (w + 5) 0 % 2 ^ w
/-- The first `w` fraction bits of the cube root of `p`. -/
def cbrtFrac (w p : Nat) : Nat := rootAux 3 (p * 2 ^ (3 * w)) (w + 4) 0 % 2 ^ w

/-- The round constants of SHA-224 and SHA-256. -/
def k256 : List (BitVec 32) := (primes80.take 64).map (fun p => BitVec.ofNat 32 (cbrtFrac 32 p))
/-- The round constants of SHA-384 and SHA-512. -/
def k512 : List (BitVec 64) := primes80.map (fun p => BitVec.ofNat 64 (cbrtFrac 64 p))

/-- The message schedule: words so far, latest first. -/
def sched {w : Nat} (s0 s1 : BitVec w → BitVec w) : Nat → List (BitVec w) → List (BitVec w)
  | 0, ws => ws
  | n + 1, ws =>
    sched s0 s1 n ((s1 (nth 0 ws 1) + nth 0 ws 6 + s0 (nth 0 ws 14) + nth 0 ws 15) :: ws)

/-- One compression of a SHA-2 function over its 8 chaining words. -/
def sha2Compress {w : Nat} (ks : List (BitVec w)) (b0 b1 s0 s1 : BitVec w → BitVec w) (h m : List (BitVec w)) :
    List (BitVec w) :=
  let ws := (sched s0 s1 (ks.length - 16) m.reverse).reverse
  let out := (ks.zip ws).foldl (fun (v : List (BitVec w)) kw =>
    let a := nth 0 v 0; let b := nth 0 v 1; let c := nth 0 v 2; let d := nth 0 v 3
    let e := nth 0 v 4; let f := nth 0 v 5; let g := nth 0 v 6; let hh := nth 0 v 7
    let t1 := hh + b1 e + ((e &&& f) ^^^ (~~~e &&& g)) + kw.1 + kw.2
    let t2 := b0 a + ((a &&& b) ^^^ (a &&& c) ^^^ (b &&& c))
    [t1 + t2, a, b, c, d + t1, e, f, g]) h
  List.zipWith (· + ·) h out

/-- The SHA-256 compression over octets: chaining value and block. -/
def compress256 (h blk : List Octet) : List Octet :=
  let ws := fun (o : List Octet) (n : Nat) => (List.range n).map (fun i => BitVec.ofNat 32 (ofBe (octAt o (4 * i) 4)))
  let r := fun (x : BitVec 32) n => x.rotateRight n
  ((sha2Compress k256 (fun x => r x 2 ^^^ r x 13 ^^^ r x 22) (fun x => r x 6 ^^^ r x 11 ^^^ r x 25)
    (fun x => r x 7 ^^^ r x 18 ^^^ x >>> 3) (fun x => r x 17 ^^^ r x 19 ^^^ x >>> 10)
    (ws h 8) (ws blk 16)).map (fun x => beOctets 4 x.toNat)).flatten

/-- The SHA-512 compression over octets. -/
def compress512 (h blk : List Octet) : List Octet :=
  let ws := fun (o : List Octet) (n : Nat) => (List.range n).map (fun i => BitVec.ofNat 64 (ofBe (octAt o (8 * i) 8)))
  let r := fun (x : BitVec 64) n => x.rotateRight n
  ((sha2Compress k512 (fun x => r x 28 ^^^ r x 34 ^^^ r x 39) (fun x => r x 14 ^^^ r x 18 ^^^ r x 41)
    (fun x => r x 1 ^^^ r x 8 ^^^ x >>> 7) (fun x => r x 19 ^^^ r x 61 ^^^ x >>> 6)
    (ws h 8) (ws blk 16)).map (fun x => beOctets 8 x.toNat)).flatten

/-- Initial chaining values as the octets of FIPS 180-4: SHA-256 and SHA-512 from square roots of the first eight primes,
SHA-384 from the ninth to sixteenth, SHA-224 from the second halves of those of SHA-384. -/
def iv256 : List Octet := ((primes80.take 8).map (fun p => beOctets 4 (sqrtFrac 32 p))).flatten
def iv512 : List Octet := ((primes80.take 8).map (fun p => beOctets 8 (sqrtFrac 64 p))).flatten
def iv384 : List Octet := (((primes80.drop 8).take 8).map (fun p => beOctets 8 (sqrtFrac 64 p))).flatten
def iv224 : List Octet := (((primes80.drop 8).take 8).map (fun p => beOctets 4 (sqrtFrac 64 p % 2 ^ 32))).flatten

/-- The padding of a SHA-2 message whose last `rest` octets are unprocessed and whose length is `len` octets (R165). -/
def sha2Pad (r : Nat) (rest : List Octet) (len : Nat) : List Octet :=
  let lw := r / 8
  let z := (2 * r - 1 - lw - rest.length % r) % r
  rest ++ [0x80] ++ List.replicate z 0 ++ beOctets lw (len * 8 % 2 ^ (8 * lw))

/-- A SHA-2 chaining value after all whole blocks of a padded message. -/
def sha2Run (r : Nat) (comp : List Octet → List Octet → List Octet) (iv msg : List Octet) : List Octet :=
  (List.range (msg.length / r)).foldl (fun h i => comp h (octAt msg (r * i) r)) iv

/-- SHA-512 initial value of SHA-512/256, by the generation function of FIPS 180-4. -/
def iv512256 : List Octet :=
  let iv := iv512.map (· ^^^ 0xA5)
  sha2Run 128 compress512 iv (sha2Pad 128 (ascii "SHA-512/256") 11)

/-- SHA-256 of an octet string. -/
def sha256 (m : List Octet) : List Octet := sha2Run 64 compress256 iv256 (sha2Pad 64 m m.length)
/-- SHA-384 of an octet string. -/
def sha384 (m : List Octet) : List Octet := (sha2Run 128 compress512 iv384 (sha2Pad 128 m m.length)).take 48
/-- SHA-512 of an octet string. -/
def sha512 (m : List Octet) : List Octet := sha2Run 128 compress512 iv512 (sha2Pad 128 m m.length)

/-! ### Keccak -/

/-- The rotation offsets of rho, for the lane at x + 5y. -/
def rhoOff : List Nat :=
  [0, 1, 62, 28, 27, 36, 44, 6, 55, 20, 3, 10, 43, 25, 39, 41, 45, 15, 21, 8, 18, 2, 61, 56, 14]

/-- The linear feedback shift register of iota, `n` steps from 1. -/
def rcLfsr : Nat → Nat → Nat
  | 0, r => r
  | n + 1, r => rcLfsr n (if r * 2 ≥ 256 then ((BitVec.ofNat 8 (r * 2 % 256)) ^^^ 0x71).toNat else r * 2)

/-- The round constant of round `i`. -/
def keccakRc (i : Nat) : BitVec 64 :=
  (List.range 7).foldl (fun c j => if rcLfsr (j + 7 * i) 1 % 2 = 1 then c ^^^ ((1 : BitVec 64) <<< (2 ^ j - 1)) else c) 0

/-- One round of Keccak-f[1600] on 25 lanes. -/
def keccakRound (a : List (BitVec 64)) (rc : BitVec 64) : List (BitVec 64) :=
  let c := (List.range 5).map (fun x => ((List.range 5).map (fun y => nth 0 a (x + 5 * y))).foldl (· ^^^ ·) 0)
  let d := (List.range 5).map (fun x => nth 0 c ((x + 4) % 5) ^^^ (nth 0 c ((x + 1) % 5)).rotateLeft 1)
  let t := (List.range 25).map (fun i => nth 0 a i ^^^ nth 0 d (i % 5))
  -- rho and pi: lane (x, y) moves to (y, 2x + 3y)
  let b := (List.range 25).map (fun i =>
    let x' := i % 5; let y' := i / 5
    let y := x'
    let x := (y' + 5 * 5 - 3 * y % 5) * 3 % 5
    (nth 0 t (x + 5 * y)).rotateLeft (nth 0 rhoOff (x + 5 * y)))
  (List.range 25).map (fun i =>
    let x := i % 5; let y := i / 5
    let v := nth 0 b i ^^^ (~~~(nth 0 b ((x + 1) % 5 + 5 * y)) &&& nth 0 b ((x + 2) % 5 + 5 * y))
    if i = 0 then v ^^^ rc else v)

/-- Keccak-f[1600] on the 200-octet state in the lane order of FIPS 202. -/
def keccakF (st : List Octet) : List Octet :=
  let a := (List.range 25).map (fun i => BitVec.ofNat 64 (ofLe (octAt st (8 * i) 8)))
  let out := (List.range 24).foldl (fun a i => keccakRound a (keccakRc i)) a
  (out.map (fun x => leOctets 8 x.toNat)).flatten

/-- XOR of octets into the state at a position. -/
def absorbAt (st : List Octet) (pos : Nat) (o : List Octet) : List Octet :=
  setOctets (fitOctets 200 st) pos (xorOctets (octAt (fitOctets 200 st) pos o.length) o)

/-- pad10*1 after a suffix, to whole blocks of `r` octets. -/
def keccakPad (r : Nat) (suffix : Octet) (rest : List Octet) : List Octet :=
  let n := r - rest.length % r
  let p := rest ++ [suffix] ++ List.replicate (n - 1) 0
  setOctets p (p.length - 1) [nth 0 p (p.length - 1) ^^^ 0x80]

/-- The state of a Keccak sponge of rate `r` after a padded message. -/
def spongeRun (r : Nat) (m : List Octet) : List Octet :=
  (List.range (m.length / r)).foldl (fun st i => keccakF (absorbAt st 0 (octAt m (r * i) r))) (List.replicate 200 0)

/-- Output of a sponge: `k` further rate blocks. -/
def squeeze (r : Nat) : Nat → List Octet → List Octet
  | 0, _ => []
  | k + 1, st => st.take r ++ squeeze r k (keccakF st)

/-- SHA3-384 of an octet string. -/
def sha3_384 (m : List Octet) : List Octet := (spongeRun 104 (keccakPad 104 0x06 m)).take 48
/-- SHAKE256 output of `n` octets. -/
def shake256 (m : List Octet) (n : Nat) : List Octet :=
  (squeeze 136 ((n + 135) / 136) (spongeRun 136 (keccakPad 136 0x1F m))).take n

/-- left_encode of SP 800-185. -/
def leftEncode (v : Nat) : List Octet :=
  let o := (beOctets 8 v).dropWhile (· = 0)
  let o := if o = [] then [0] else o
  BitVec.ofNat 8 o.length :: o
/-- encode_string of SP 800-185. -/
def encodeString (o : List Octet) : List Octet := leftEncode (8 * o.length) ++ o
/-- bytepad of SP 800-185. -/
def bytepad (o : List Octet) (r : Nat) : List Octet :=
  let p := leftEncode r ++ o
  fitOctets ((p.length + r - 1) / r * r) p

/-! ### HMAC and key derivation -/

/-- HMAC-SHA-384. -/
def hmac384 (key msg : List Octet) : List Octet :=
  let k := fitOctets 128 (if key.length > 128 then sha384 key else key)
  sha384 (k.map (· ^^^ 0x5C) ++ sha384 (k.map (· ^^^ 0x36) ++ msg))

/-- HKDF-Expand with SHA-384: `n` blocks with the previous block in front. -/
def hkdfExpandAux (prk info : List Octet) : Nat → Nat → List Octet → List Octet
  | 0, _, _ => []
  | k + 1, i, prev =>
    let t := hmac384 prk (prev ++ info ++ [BitVec.ofNat 8 i])
    t ++ hkdfExpandAux prk info k (i + 1) t

/-- SP 800-108 counter mode over a pseudorandom function: `n` octets; the counter and length are 32 bits, big-endian. -/
def kdfCounter (prf : List Octet → List Octet) (blk : Nat) (label context : List Octet) (n : Nat) : List Octet :=
  ((List.range ((n + blk - 1) / blk)).flatMap (fun i =>
    prf (beOctets 4 (i + 1) ++ label ++ [0] ++ context ++ beOctets 4 (8 * n)))).take n

/-! ### CTR_DRBG with AES-256 (SP 800-90A), no derivation function -/

/-- `n` blocks of output from V + 1. -/
def drbgBlocks (key : List Octet) (v : Block) (n : Nat) : List Octet :=
  ((List.range n).map (fun i => octetsOf (aesEnc key (v + BitVec.ofNat 128 (i + 1))))).flatten

/-- CTR_DRBG_Update. -/
def drbgUpdate (d : Drbg) (data : List Octet) : Drbg :=
  let t := xorOctets (drbgBlocks d.key d.v 3) (fitOctets 48 data)
  ⟨t.take 32, blockOf (t.drop 32), d.cnt⟩

/-- Generate `n` octets. -/
def drbgGenerate (d : Drbg) (n : Nat) : List Octet × Drbg :=
  let k := (n + 15) / 16
  let out := (drbgBlocks d.key d.v k).take n
  let d' := drbgUpdate { d with v := d.v + BitVec.ofNat 128 k } []
  (out, { d' with cnt := d.cnt + 1 })

end Sys2Proof.Machine
end

