-- ==== Sys2Proof/Machine/Shared.lean ====
section
/-! DEFINITION. The operations that many commands share: modes (Table 1.8), journal records (R282 to R293), function events
(R321), interrupt latches (Table 22.5), entry into Fault (R445). -/
namespace Sys2Proof.Machine

/-! ### Modes -/

/-- The positions of the modes in Table 1.8, counting Battery Hold as 0. -/
def mBatteryHold : Nat := 0
def mFuseLoad : Nat := 1
def mSecureBoot : Nat := 2
def mUncommissioned : Nat := 3
def mOperational : Nat := 4
def mSleep : Nat := 5
def mMaintenance : Nat := 6
def mMigrationFreeze : Nat := 7
def mDiagnostic : Nat := 8
def mDebug : Nat := 9
def mFault : Nat := 10
def mZeroized : Nat := 11

/-- The current mode (MODE_STAT.MODE). -/
def State.mode (s : State) : Nat := s.rd Reg.MODE_STAT_MODE

/-- A first-only mode (R343): Fuse Load, Secure Boot, Diagnostic, Fault. -/
def State.firstOnly (s : State) : Bool :=
  decide (s.mode ∈ [mFuseLoad, mSecureBoot, mDiagnostic, mFault])

/-! ### Function events and MSI-X vectors -/

/-- The numbers of PF A and PF B in the numbering of R123. -/
def pfA : Nat := 2048
def pfB : Nat := 2049

/-- The place of a vector in the MSI-X tables. -/
def msixKey (f v : Nat) : Nat := 512 * f + v

/-- A raised MSI-X vector: a masked entry keeps it pending, another sends its message (R320). -/
def raiseVector (s : State) (f v : Nat) : State :=
  let e := tget MsixEnt.reset s.msix (msixKey f v)
  if e.masked then { s with msix := tset MsixEnt.reset s.msix (msixKey f v) { e with pend := true } }
  else { s with vectors := s.vectors ++ [(f, v)] }

/-- A function event (R321): the bit sets, and vector 0 is raised when it was clear and its mask bit is 1. -/
def fnEvent (s : State) (f ev : Nat) : State :=
  let cur := s.rd (Reg.FUNC_EVT f)
  if bit cur ev then s
  else
    let s := s.wr (Reg.FUNC_EVT f) (cur + 2 ^ ev)
    if bit (s.rd (Reg.FUNC_EVT_MASK f)) ev then raiseVector s f 0 else s

/-- An event on both PFs. -/
def pfEvent (s : State) (ev : Nat) : State := fnEvent (fnEvent s pfA ev) pfB ev

/-- An event on every function that exists. -/
def allEvent (s : State) (ev : Nat) : State :=
  (s.funcs.filter (fun e => decide (e.2.st ≠ 0 ∧ e.1 < pfA))).foldl (fun s e => fnEvent s e.1 ev) (pfEvent s ev)

/-! ### Journal records -/

/-- The 64 octets of a record (Table 12.1). -/
def JRec.octets (r : JRec) : List Octet :=
  leOctets 8 r.seq ++ leOctets 2 r.typ ++ leOctets 1 r.src ++ leOctets 1 r.flags ++ leOctets 4 r.arg ++
    fitOctets 32 r.payload ++ fitOctets 16 r.link

/-- The chain value of SEQ 0 (R283). -/
def chainZero : List Octet := sha384 (ascii "CK720JNL" ++ fitOctets 16 Config.deviceSerial)

/-- The journal's chain value, the start of the chain while no record has been made. -/
def State.chain (s : State) : List Octet := if s.jnl.seq = 0 then chainZero else s.jnl.chain

/-- Record types flagged F in Table 12.3: their creation starts a flush. -/
def jFlush (typ : Nat) : Bool :=
  decide (typ ∈ [0x0002, 0x0003, 0x0005, 0x0006, 0x0007, 0x0009, 0x0212, 0x0303, 0x0304, 0x0305])

/-- FREE (R292). -/
def State.jfree (s : State) : Nat := s.jnl.cap - (s.jnl.flushed - s.jnl.acked)

/-- The fill level that Table 12.6 gives. -/
def State.jlevel (s : State) : Nat :=
  let un := s.on Reg.JNL_STAT_UNAVAIL
  if s.jfree ≤ 1024 ∨ (un ∧ s.jnl.buf.length ≥ 960) then 2
  else if s.jfree ≤ 4096 ∨ un then 1
  else 0

/-- A record placed in the buffer (R282 to R286): next SEQ, chain, LIMIT kept ahead, CLEAN cleared, a flush started where the type
is flagged, where 512 records are unflushed, or where the caller asks. The sequence sticks at its maximum (R284). -/
def jput (s : State) (typ src arg : Nat) (payload : List Octet) (cont world flush : Bool) : State :=
  if s.jnl.seq ≥ 2 ^ 64 - 1 then s
  else
    let seq := s.jnl.seq + 1
    let r : JRec := ⟨seq, typ, src, s.mode + 16 * b2n cont + 32 * b2n world, arg % 2 ^ 32, fitOctets 32 payload,
      s.chain.take 16⟩
    let j := s.jnl
    let s := { s with jnl := { j with
      buf := j.buf ++ [r], seq := seq, chain := sha384 (s.chain ++ r.octets), clean := false,
      limit := if seq + 1 + 1024 ≥ j.limit then j.limit + 4096 else j.limit } }
    if flush || jFlush typ || decide (s.jnl.buf.length ≥ 512) then s.flag Reg.JNL_STAT_FLUSHING true else s

/-- A record; the one at SEQ 2^64 - 2 is SEQ_END, made as soon as that number is the next (R284). -/
def jraw (s : State) (typ src arg : Nat) (payload : List Octet) (cont world flush : Bool) : State :=
  let s := jput s typ src arg payload cont world flush
  if s.jnl.seq = 2 ^ 64 - 3 then (jput s 0x0009 0xE0 0 [] false Config.noMasterWorld true).flag Reg.JNL_STAT_STUCK true else s

/-! ### What entry into Fault ends beside work (R269, R350) -/

def State.ballot (s : State) (b : Nat) : Ballot := tget Ballot.free s.ballots b
def State.setBallot (s : State) (b : Nat) (x : Ballot) : State := { s with ballots := tset Ballot.free s.ballots b x }

/-- PAYLOAD of a ballot record (Table 12.3, layout of log 10): OP, DOMAIN, officer, set or cause; ARG_DIGEST from octet 16. -/
def ballotPayload (x : Ballot) (officer extra : Nat) : List Octet :=
  fitOctets 16 (leOctets 1 x.op ++ leOctets 2 x.dom ++ leOctets 1 officer ++ leOctets 1 extra) ++ x.dig.take 16


/-- Every ballot that is OPEN or CARRIED lapses, with its record of cause 5 (Table 11.6, row 5). -/
def lapseAllFault (s : State) : State :=
  (List.range 32).foldl (fun s b =>
    let x := s.ballot b
    if x.st = 1 ∨ x.st = 2 then
      pfEvent (jraw (s.setBallot b { x with st := 4 }) 0x0105 0xE4 x.id (ballotPayload x 0 5) false Config.noMasterWorld false) 9
    else s) s

/-- A bit set in a number. -/
def setBit (v b : Nat) : Nat := if bit v b then v else v + 2 ^ b
/-- A bit cleared in a number. -/
def clearBit (v b : Nat) : Nat := if bit v b then v - 2 ^ b else v

/-- Is the device in a reset, or completing its exit from one (R429)? -/
def inReset (s : State) : Bool :=
  decide (s.rst.now ≠ 0) || s.rst.por || s.rst.loadStop || s.rst.warmReq.isSome || s.rst.warmOn || decide (s.mode = mFuseLoad)

/-- A reset source asserts (R429): it widens the union, or begins one; RST_CAUSE shows the union. -/
def noteSource (s : State) (b : Nat) (held : Bool) : State :=
  { s with rst := { s.rst with
      union := setBit (if inReset s then s.rst.union else 0) b
      now := if held then setBit s.rst.now b else s.rst.now } }

/-- What a request for a warm reset sets (R427, R436, R288): placement stops. A request while one runs widens the union. -/
def askWarm (s : State) (arg causeBit : Nat) : State :=
  let s := noteSource s causeBit false
  if s.rst.warmOn then s
  else { s with rst := { s.rst with warmReq := if s.rst.warmReq.isSome then s.rst.warmReq else some arg }, halting := true }

/-- The registers of a debug session cleared. -/
def clearDebug (s : State) : State :=
  let s := ((s.flag Reg.DBG_STAT_ACTIVE false).wr Reg.DBG_STAT_LEVEL 0).wr Reg.DBG_STAT_TARGETS 0
  ({ s with dbg := { s.dbg with ticks := 0 } }).wr Reg.DBG_LEFT 0

/-- A debug session ends with entry into Fault; one of level 2 asks for its warm reset (R350). -/
def faultDebug (s : State) : State :=
  if s.on Reg.DBG_STAT_ACTIVE then
    let lvl := s.rd Reg.DBG_STAT_LEVEL
    let s := clearDebug (jraw s 0x0602 0xE7 lvl (s.dbg.cert.take 16) false Config.noMasterWorld false)
    if lvl = 2 then jraw (askWarm s 4 10) 0x0007 0xE4 4 [] false Config.noMasterWorld true else s
  else s

/-- Raw access closes (R219): the source enters Start-up, waiting outputs go, the DRBG reseeds before any further request. -/
def rawShut (s : State) : State :=
  let s := (s.flag Reg.RAW_CTL_CLOSE false).flag Reg.RAW_CTL_GO false
  if ¬ s.on Reg.RNG_STAT_RAW_OPEN then s
  else
    let n := s.ent.rawSrc.val
    let s := (s.flag Reg.RNG_STAT_RAW_OPEN false).flag Reg.RAW_STAT_BUSY false
    let raw := decide (s.rd (Reg.SRC_STAT_STATE n) = 3)
    let s := if raw then (s.count (Reg.SRC_RESTARTS n) (Reg.SRC_STAT_RFO n)).wr (Reg.SRC_STAT_STATE n) 1 else s
    let e := { s.ent with run := if raw then tdel s.ent.run n else s.ent.run, fifo := [], acc := [], rawHold := true,
                          due := s.ent.due || s.drbg.isSome }
    let s := ({ s with ent := e }).wr Reg.RNG_STAT_FIFO 0
    let s := if s.drbg.isSome then s.wr Reg.RNG_STAT_DRBG 2 else s
    jraw s 0x0501 0xE5 n (leOctets 1 5 ++ leOctets 1 (b2n s.ent.rawRestart)) false Config.noMasterWorld false

/-- Entry into a first-only mode (R343): a capture that holds a value keeps it as its first. -/
def holdCaptures (s : State) : State :=
  let reels := (List.range 32).filter (fun r => decide (s.word (Reg.FLT_LAST_LANE r).addr ≠ 0))
  let lock := if s.on Reg.LOCK_VIOLATION then [64] else []
  let s := if s.viol ≠ [] then s.flag Reg.ISO_CAPT_VIOL_HELD true else s
  let s := if s.rd Reg.CMON_CAUSE ≠ 0 then s.flag Reg.ISO_CAPT_CMON_HELD true else s
  let s := if reels ≠ [] then s.flag Reg.ISO_CAPT_FLT_HELD true else s
  { s with capHeld := reels ++ lock }

/-- A mode change (R442): the mode register, a record 0x0801 with the row of Table 19.7, the MODE_CHG event, and the
latched line 13 of both secure controllers (R473). MC_LEAD reads 0 in Uncommissioned and Zeroized (R272); leaving Diagnostic
clears RAW_PERMIT (R219, R444). -/
def setModeWith (s : State) (m row extra : Nat) : State :=
  let old := s.mode
  let s := s.wr Reg.MODE_STAT_MODE m
  let led := if m = mZeroized then leOctets 2 (s.rd Reg.LAST_ZERO) else [0, 0]
  let s := jraw s 0x0801 0xE4 m (leOctets 1 old ++ leOctets 1 row ++ led ++ leOctets 2 extra) false Config.noMasterWorld (decide (m = mFault))
  let s := (s.flag (Reg.INT_LATCH_MODE 0) true).flag (Reg.INT_LATCH_MODE 1) true
  let s := if s.firstOnly ∧ old ∉ [mFuseLoad, mSecureBoot, mDiagnostic, mFault] then holdCaptures s else s
  let s := s.flag Reg.ISO_CAPT_FIRST_ONLY s.firstOnly
  let s := if m = mUncommissioned ∨ m = mZeroized then s.flag Reg.LEAD_STAT_MC_ALLOWED false else s
  let s := if m ∉ [mUncommissioned, mZeroized, mFault] ∧ s.dbg.ir ∈ [JtagIr.extest, .clamp, .highz] then
      { s with dbg := { s.dbg with ir := .bypass } } else s
  let s := if old = mDiagnostic ∧ m ≠ mDiagnostic then rawShut (s.flag Reg.RNG_STAT_RAW_PERMIT false) else s
  allEvent s 4

/-- A mode change without restarts to report. -/
def setMode (s : State) (m row : Nat) : State := setModeWith s m row 0

/-- Every queue of every function is disabled and every held command goes without a completion, placed ones at the boundary (R21, R331). -/
def disableQueues (s : State) : State :=
  let placed := fun (uid : Nat) => s.cmds.any (fun c => decide (c.uid = uid ∧ c.ph = CmdPhase.placed))
  { s with
    regs := s.regs.filter (fun e => !decide (0x40000000000 * 256 ≤ e.1 ∧ e.1 < 0x40001010000 * 256 ∧ e.1 / 8 % 32 = 0 ∧ e.1 / 256 % 32 ∈ [0, 4]))
    cmds := s.cmds.filter (fun c => decide (c.ph = CmdPhase.placed))
    ent := { s.ent with reqs := s.ent.reqs.filter (fun r => placed r.uid) }
    floor := { s.floor with pages := (s.floor.pages.map (fun e =>
        if e.2.owner.any (fun u => !placed u) then (e.1, { HoldPage.free with retired := e.2.retired }) else e)).filter (fun e => decide (e.2 ≠ HoldPage.free)) } }

/-- A wake (R448, row 16 of Table 19.7): WAKE, the sources that Sleep switched Off restart, Operational. -/
def wake (s : State) (ev : Nat) : State :=
  if s.mode ≠ mSleep then s
  else
    let s := s.wr Reg.SLEEP_STAT_WAKE ev
    let s := (List.range 8).foldl (fun s n => if s.rd (Reg.SRC_STAT_STATE n) = 0 then s.wr (Reg.SRC_STAT_STATE n) 1 else s) s
    setMode (s.flag Reg.SLEEP_STAT_WAKE_REQ false) mOperational 16

/-- Entry into Fault (R445): not from Fuse Load, where R431 applies, nor from Battery Hold; the floor stops at the next boundary;
the key cache and the DRBG working state are cleared; every ballot lapses, a debug session ends, queues are disabled (R331). -/
def enterFault (s : State) (cause : Nat) : State :=
  if s.mode = mFault ∨ s.mode = mFuseLoad ∨ s.mode = mBatteryHold then s
  else
    let s := setMode s mFault (if s.mode = mSecureBoot ∧ cause ∈ [3, 4, 5, 6] then 7 else 19)
    let s := disableQueues (faultDebug (lapseAllFault (s.wr Reg.MODE_STAT_FAULT_CAUSE cause)))
    { s with halting := true, cache := [], drbg := none }

/-- The journal's level brought up to date (R292): a change makes a LEVEL record, sets LEVEL_CHG and the journal event; level 2
enters Fault with cause 8. -/
def jlevelUpdate (s : State) : State :=
  let l := s.jlevel
  if l = s.rd Reg.JNL_STAT_LEVEL then s
  else
    let s := s.wr Reg.JNL_STAT_LEVEL l
    let s := jraw s 0x0008 0xE0 l (leOctets 4 s.jfree) false Config.noMasterWorld false
    let s := s.flag Reg.JNL_STAT_LEVEL_CHG true
    let s := pfEvent s 6
    if l = 2 then enterFault s 8 else s

/-- A journal record (R282 to R292). After SEQ_END the next event takes SEQ 2^64 - 1 with entry into Fault (R284). -/
def jrecG (s : State) (typ src arg : Nat) (payload : List Octet) (cont world flush : Bool) : State :=
  if s.jnl.seq = 2 ^ 64 - 2 then
    enterFault (jraw s typ src arg payload cont world true) 8
  else jlevelUpdate (jraw s typ src arg payload cont world flush)

/-- A record without a requesting master, or made for one in the secure world: the spec states no WORLD bit for the former, which
is a free value (log 9). -/
def jrec (s : State) (typ src arg : Nat) (payload : List Octet) : State :=
  jrecG s typ src arg payload false (if src ≥ 0xE0 then Config.noMasterWorld else true) false

/-- Is a journaled operation refused (R293)? At level 1 or above, and after SEQ_END. -/
def State.journalFull (s : State) : Bool :=
  decide (s.rd Reg.JNL_STAT_LEVEL ≥ 1 ∨ s.jnl.seq ≥ 2 ^ 64 - 2)

/-- The latched fault line 2 of both secure controllers (Table 22.5). -/
def latchFault (s : State) : State :=
  (s.flag (Reg.INT_LATCH_FLT 0) true).flag (Reg.INT_LATCH_FLT 1) true

/-- The latched entropy line 6 of both secure controllers. -/
def latchEntropy (s : State) : State :=
  (s.flag (Reg.INT_LATCH_ENT 0) true).flag (Reg.INT_LATCH_ENT 1) true

end Sys2Proof.Machine
end

