-- ==== Sys2Proof/Machine/Iso.lean ====
section
/-! DEFINITION. Worlds and memory protection (spec/14): transaction attributes, the address map, region controllers, the page
ownership table, refusals and violation reports, locked writes. -/
namespace Sys2Proof.Machine

/-- Kinds of access. -/
inductive Kind | read | write | fetch
  deriving DecidableEq, Repr

/-- A transaction: master ID, world bit, privilege bit, function number (0xFFF for none), kind, word address, nonet of an octet
access (R332). -/
structure Access where
  m : Nat
  world : Bool
  priv : Bool
  fn : Nat
  kind : Kind
  addr : Nat
  nonet : Nat
  deriving DecidableEq, Repr

/-- A refusal: TARGET, REASON (Table 14.8), the deciding region if any, the region controller (7 for none). -/
structure Refused where
  target : Nat
  reason : Nat
  region : Option Nat
  rc : Nat
  deriving DecidableEq, Repr

/-- The capacity in usable pages (R354), from the strap. -/
def State.usable (s : State) : Nat :=
  match s.rd Reg.MEM_CFG_STRAP with
  | 0 => 114688 | 1 => 229376 | 2 => 344064 | _ => 458752

/-- The vault region's first page (R354). -/
def State.vaultBase (s : State) : Nat := s.rd2 Reg.MEM_VAULT_BASE_L Reg.MEM_VAULT_BASE_H

/-- The secure world: SC_0 or SC_1 running in it. -/
def Access.secure (a : Access) : Bool := decide (a.m ≤ 1) && a.world

/-- TARGET of a word address (Table 14.2); the MC sees its SRAM at the bottom and no boot ROM (R333). -/
def targetOf (m addr : Nat) : Nat :=
  if addr < 0x10000 then (if m = 2 then 3 else 1)
  else if addr < 0x40000 then (if m = 2 then 3 else 0)
  else if 0x1000000 ≤ addr ∧ addr < 0x1100000 then 2
  else if 0x2000000 ≤ addr ∧ addr < 0x2040000 then 3
  else if 0x3000000 ≤ addr ∧ addr < 0x3020000 then 4
  else if 0x4000000 ≤ addr ∧ addr < 0x4008000 then 5
  else if 0x30000000 ≤ addr ∧ addr < 0x32000000 then 6
  else if 0x400000000 ≤ addr ∧ addr < 0x800000000 then 7
  else 0

/-- The offset in an SRAM. -/
def sramOffset (addr : Nat) : Nat :=
  if addr < 0x40000 then addr else if addr < 0x2000000 then addr - 0x1000000 else if addr < 0x3000000 then addr - 0x2000000
  else addr - 0x3000000

/-- The granules of an SRAM (Table 14.15). -/
def rcGranules (rc : Nat) : Nat := if rc = 0 then 0x4000 else if rc = 1 then 0x1000 else 0x800

/-- Does a region match (R339)? -/
def regionMatches (s : State) (rc r off : Nat) (a : Access) : Bool :=
  let lo := s.rd (Reg.RGN_BASE rc r)
  let hi := s.rd (Reg.RGN_LIMIT rc r)
  let g := off / 64
  let mask := BitVec.ofNat 8 (s.rd (Reg.RGN_MID_MASK rc r))
  let w := s.rd (Reg.RGN_ATTR_WORLD rc r)
  s.on (Reg.RGN_ATTR_EN rc r) && decide (lo ≤ g ∧ g ≤ hi ∧ g < rcGranules rc) &&
    decide (BitVec.ofNat 8 a.m &&& mask = BitVec.ofNat 8 (s.rd (Reg.RGN_MID_ID rc r)) &&& mask) &&
    (decide (w = 0) || (decide (w = 1) && a.world) || (decide (w = 2) && !a.world)) &&
    (!s.on (Reg.RGN_ATTR_PRIV rc r) || a.priv)

/-- The highest-numbered matching region among the first `n`. -/
def decidingRegion (s : State) (rc off : Nat) (a : Access) : Nat → Option Nat
  | 0 => none
  | n + 1 => if regionMatches s rc n off a then some n else decidingRegion s rc off a n

/-- Does the region permit the kind (R340)? -/
def regionPermits (s : State) (rc r : Nat) : Kind → Bool
  | .read => s.on (Reg.RGN_ATTR_R rc r)
  | .write => s.on (Reg.RGN_ATTR_W rc r)
  | .fetch => s.on (Reg.RGN_ATTR_X rc r)

/-- The default maps of Table 14.5. The debug master counts as the secure world in a level-2 session, and reads MC SRAM at level 1
(Table 14.12). -/
def defaultPermits (s : State) (rc : Nat) (a : Access) : Bool :=
  let sec := a.secure || (decide (a.m = 0x80) && a.world)
  let rw := decide (a.kind ≠ .fetch)
  match rc with
  | 0 => sec || ((decide (a.m = 0x60 ∨ a.m = 0x61 ∨ a.m = 0x03)) && rw) ||
      (decide (a.m = 0x90) && decide (a.kind = .write) && decide (s.mode = mSecureBoot))
  | 1 => (sec && rw) || decide (a.m = 2) || decide (a.m = 0x80 ∧ a.kind = .read)
  | _ => (sec || decide (a.m = 2 ∨ a.m = 0x60 ∨ a.m = 0x61)) && rw

/-- Does a page entry permit the access (Table 14.4, R335)? -/
def potPermits (e : Nat) (a : Access) : Bool :=
  let cls := e / 2 ^ 13
  let owner := e % 2 ^ 12
  let rw := decide (a.kind ≠ .fetch)
  let secP := a.secure && a.priv
  if a.m = 0x80 then
    if a.world then decide (cls ≠ 2) else decide (a.kind = .read ∧ (cls = 3 ∨ cls = 4))
  else if cls ∈ [2, 3, 4, 6] ∧ owner ≠ 0 then secP
  else match cls with
    | 1 =>
      if owner = 0 then a.secure
      else if owner = 1 then a.secure || (decide (a.m = 4) && decide (a.kind = .write))
      else if owner = 2 then secP && decide (a.kind = .read)
      else secP
    | 2 => decide (a.m = 3) && rw
    | 3 => (decide (a.m ≤ 1) && !a.world) || (secP && rw)
    | 4 => decide (a.m = 2) || (secP && rw)
    | 5 => if owner > 2049 then secP else (secP && rw) || (decide (a.m = 0x60 ∨ a.m = 0x61) && rw && decide (a.fn = owner))
    | 6 => (secP && rw) || (decide (a.m = 0x60) && decide (a.kind = .read))
    | _ => if cls = 0 ∧ owner ≠ 0 then secP else secP && rw

/-- Words of the secure device registers that the MC's management window maps (R474, Table 19.11): INT_DOOR and SLEEP_STAT. -/
def mcManaged (addr : Nat) : Bool := decide (addr = 0x30340004 ∨ addr = 0x30300011)

/-- Is this access refused, and how (R333, R335, R340, Table 14.6)? -/
def checkAccess (s : State) (a : Access) : Option Refused :=
  let t := targetOf a.m a.addr
  let rw := decide (a.kind ≠ .fetch)
  let sec := a.secure || (decide (a.m = 0x80) && a.world)
  match t with
  | 0 => some ⟨0, 1, none, 7⟩
  | 1 => if sec && a.priv && decide (a.kind ≠ .write) then none else some ⟨1, 6, none, 7⟩
  | 5 => if sec && a.priv && decide (a.kind = .read) then none else some ⟨5, 6, none, 7⟩
  | 6 =>
    let ok := if a.addr < 0x31000000 then (sec && a.priv) || (decide (a.m = 2) && mcManaged a.addr)
      else ((decide (a.m ≤ 1) || sec) && a.priv) || decide (a.m = 2)
    if ok && rw then none else some ⟨6, 6, none, 7⟩
  | 7 =>
    let p := (a.addr - 0x400000000) / 32768
    let vb := s.vaultBase
    if p ≥ s.usable ∨ (vb ≠ 0 ∧ vb + 33280 ≤ p ∧ p < vb + 38035) then some ⟨7, 1, none, 7⟩
    else if potPermits (s.rd (Reg.POT_ENTRY p)) a then none else some ⟨7, 5, none, 7⟩
  | _ =>
    let rc := t - 2
    match decidingRegion s rc (sramOffset a.addr) a 16 with
    | some r => if regionPermits s rc r a.kind then none else some ⟨t, 3, some r, rc⟩
    | none => if a.priv then (if defaultPermits s rc a then none else some ⟨t, 4, none, rc⟩) else some ⟨t, 2, none, rc⟩

/-- ECAUSE.CODE of a refusal (Table 14.8). -/
def Refused.code (r : Refused) (nonet : Nat) : Nat := r.target * 16 + r.reason * 2 + nonet % 2

/-- The five words of a violation report (Table 14.10). -/
def reportWords (a : Access) (r : Refused) : List Nat :=
  [a.addr % 2 ^ 18, a.addr / 2 ^ 18, r.target * 256 + a.m,
   r.reason * 2 ^ 12 + (match a.kind with | .read => 0 | .write => 1 | .fetch => 2) * 2 ^ 10 + b2n a.world * 512 +
     b2n a.priv * 256 + b2n r.region.isSome * 128 + r.region.getD 0 * 8 + r.rc, a.fn]

/-- The violation FIFO with its count of entries. -/
def setViol (s : State) (v : List (List Nat)) : State := ({ s with viol := v }).wr Reg.VIOL_STAT_ENTRIES v.length

/-- A refusal is counted and reported (R343, R345). -/
def reportRefusal (s : State) (a : Access) (r : Refused) : State :=
  let s := s.count Reg.VIOL_COUNT Reg.VIOL_STAT_VCO
  if s.on Reg.ISO_CAPT_VIOL_HELD then s
  else
    let s := if s.viol.length < 32 then setViol s (s.viol ++ [reportWords a r]) else s.flag Reg.VIOL_STAT_LOST true
    if s.firstOnly then s.flag Reg.ISO_CAPT_VIOL_HELD true else s

/-- A dropped write to a locked register (R344): captured by the rule of R343, with a record of type 0x0601. -/
def lockViolation (s : State) (m : Nat) (world priv : Bool) (addr : Nat) : State :=
  let s := if s.on Reg.LOCK_VIOLATION ∧ 64 ∈ s.capHeld then s.count Reg.VIOL_COUNT Reg.VIOL_STAT_VCO
    else
      let s := { s with capHeld := s.capHeld.filter (fun i => decide (i ≠ 64)) ++ (if s.firstOnly then [64] else []) }
      let s := (s.wr2 Reg.LOCK_ADDR_L Reg.LOCK_ADDR_H addr).wr Reg.LOCK_INFO_MASTER m
      ((s.flag Reg.LOCK_INFO_WORLD world).flag Reg.LOCK_INFO_LEVEL priv).flag Reg.LOCK_VIOLATION true
  jrecG s 0x0601 m addr [BitVec.ofNat 8 m, BitVec.ofNat 8 (b2n world), BitVec.ofNat 8 (b2n priv)] false world false

/-- ACC_ERR of a function (R8, Table 13.4) with its event. -/
def accErr (s : State) (f : Nat) : State := fnEvent (s.flag (Reg.FUNC_STAT_ACC_ERR f) true) f 3

/-- A dropped write to a locked register of PF BAR 0 (R344): the recorded address of a PF's write, which sets its ACC_ERR; the MC writes through
its window (Table 18.1). -/
def hostLock (s : State) (m off : Nat) (priv : Bool) : State :=
  if m = 2 then lockViolation s 2 false priv (0x31800000 + off / 2)
  else accErr (lockViolation s m false false (0x80000000 + 0x08000000 * (m - 0x70) + off)) (2048 + (m - 0x70))

/-- VIOL_CTL.POP: the head report leaves (R345). -/
def popViolation (s : State) : State := setViol s (s.viol.drop 1)

/-- A region register written (R341); `off` 0 BASE, 1 LIMIT, 2 MID, 3 ATTR. -/
def regionWrite (s : State) (m k r off v : Nat) : State :=
  let a := 0x30201000 + 64 * k + 4 * r + off
  if s.on (Reg.RGN_ATTR_LOCK k r) then lockViolation s m true true a
  else
    let bad := s.lockedChange a v
    let s := s.wrWord a v
    if bad then lockViolation s m true true a else s

def execRegionSet (sc : Fin 2) (k : Fin 3) (r : Fin 16) (off : Fin 4) (v : Word) (s : State) : Out :=
  done (regionWrite s sc k r off v.toNat)
def execViolPop (s : State) : Out := done (popViolation s)

end Sys2Proof.Machine
end

