-- ==== Sys2Proof/Machine/Mem.lean ====
section
/-! DEFINITION. The memory subsystem (spec/15) as its masters see it: line protection of DRAM with versions, poison and error marks,
on-chip SRAM by nonets, the page ownership table with its backing store, the line-write window, patrol scrub, training and fill. -/
namespace Sys2Proof.Machine

/-- How a DRAM access fails (Table 15.5). -/
inductive MemErr | integrity | poisoned
  deriving DecidableEq, Repr

/-- The line of an octet of DRAM (R355). -/
def lineOf (octet : Nat) : Nat := octet / 64

/-- The region kind of a line, by its address (Table 15.2). -/
def lineKind (s : State) (line : Nat) : Nat :=
  let p := line / 1024
  let vb := s.vaultBase
  if p ≥ s.usable then 2
  else if vb ≠ 0 ∧ vb ≤ p ∧ p < vb + 33280 then 3
  else if vb ≠ 0 ∧ vb ≤ p ∧ p < vb + 38035 then 4
  else 1

/-- The error capture takes an event (R365). -/
def memCapture (s : State) (line kind master octets : Nat) : State :=
  let s := s.wr2 Reg.MEM_ERR_ADDR_L Reg.MEM_ERR_ADDR_H (0x400000000 + 32 * line)
  let s := (s.wr Reg.MEM_ERR_INFO_KIND kind).wr Reg.MEM_ERR_INFO_MASTER master
  (s.wr Reg.MEM_ERR_INFO_OCTETS octets).wr Reg.MEM_ERR_INFO_REGION (lineKind s line)

/-- The canonical form of memory: in each of its tables the indexes rise strictly and no entry holds what an unlisted one reads as. -/
def Mem.wf (m : Mem) : Bool :=
  twf 0 m.sram && twf 0 m.dram && twf 0 m.ver && twf false m.poison && twf 0 m.bad && twf false m.chainBad

def State.setMem (s : State) (f : Mem → Mem) : State := { s with mem := f s.mem }

/-- A read checks a line (R361, R365): up to 3 octets are corrected and written back; more, or a counter chain that fails, is a
failure. A poisoned line answers with an error. -/
def lineCheck (s : State) (line master : Nat) : State × Option MemErr :=
  if tget false s.mem.poison line then (s, some .poisoned)
  else if tget false s.mem.chainBad line then
    let s := s.count Reg.MEM_UE_COUNT Reg.MEM_STAT_UEO
    (memCapture ((s.flag Reg.MEM_STAT_UE true).flag Reg.MEM_STAT_CTR_FAIL true) line 2 master 0, some .integrity)
  else
    let n := tget 0 s.mem.bad line
    if n = 0 then (s, none)
    else if n ≤ 3 then
      let s := s.setMem (fun m => { m with bad := tdel m.bad line })
      (memCapture (s.count Reg.MEM_CE_COUNT Reg.MEM_STAT_CEO) line 0 master n, none)
    else
      let s := s.count Reg.MEM_UE_COUNT Reg.MEM_STAT_UEO
      (memCapture (s.flag Reg.MEM_STAT_UE true) line 1 master 0, some .integrity)

/-- A line's version raised by 1 (R357); none where it is stuck. -/
def raiseVersion (s : State) (line : Nat) : Option State :=
  let v := tget 0 s.mem.ver line
  if v ≥ 2 ^ 56 - 1 then none else some (s.setMem (fun m => { m with ver := tset 0 m.ver line (v + 1) }))

/-- A write refused because its version is stuck (R357). -/
def versionStuck (s : State) : State := s.flag Reg.MEM_STAT_VSTUCK true

/-- Octets written into DRAM. -/
def putOctets (s : State) (o : List (Nat × Octet)) : State :=
  s.setMem (fun m => { m with dram := o.foldl (fun t e => tset 0 t e.1 e.2) m.dram })

/-- A line poisoned by a partial write whose check failed (R362). -/
def poisonLine (s : State) (line master : Nat) : State :=
  let s := s.setMem (fun m => { m with poison := tset false m.poison line true })
  memCapture (s.flag Reg.MEM_STAT_POISON_EVT true) line 3 master 0

/-- A partial write (R362): read, check, merge, raise the version. -/
def linePartialWrite (s : State) (line master : Nat) (o : List (Nat × Octet)) : State × Option MemErr :=
  if tget false s.mem.poison line then (s, some .poisoned)
  else if tget 0 s.mem.bad line > 3 ∨ tget false s.mem.chainBad line then (poisonLine s line master, some .integrity)
  else
    let s := (lineCheck s line master).1
    match raiseVersion s line with
    | none => (versionStuck s, some .integrity)
    | some s => (putOctets s o, none)

/-- A full-line write (R363): needs no read; clears the poison where it comes from the secure world. -/
def lineFullWrite (s : State) (line : Nat) (world : Bool) (o : List Octet) : State × Option MemErr :=
  if tget false s.mem.poison line ∧ ¬ world then (s, some .poisoned)
  else match raiseVersion s line with
    | none => (versionStuck s, some .integrity)
    | some s =>
      let s := s.setMem (fun m => { m with
        poison := tdel m.poison line, bad := tdel m.bad line, chainBad := tdel m.chainBad line })
      (putOctets s ((List.range 64).zip o |>.map (fun e => (64 * line + e.1, e.2))), none)

/-- The octets of DRAM from an octet address. -/
def State.dramOctets (s : State) (a n : Nat) : List Octet := (List.range n).map (fun i => tget 0 s.mem.dram (a + i))

/-! ### Nonets (R28, R29, R334) -/

/-- The parity bit of a nonet. -/
def parity (o : Octet) : Bool := (List.range 8).foldl (fun p i => p != o.getLsbD i) false
/-- A nonet with generated parity. -/
def nonetOf (o : Octet) : Nonet := (if parity o then (1#1 : BitVec 1) else 0#1) ++ o
/-- Is a nonet well-formed? -/
def nonetOk (n : Nonet) : Bool := n.getLsbD 8 == parity (n.extractLsb' 0 8)
/-- The word of two nonets. -/
def wordOf (n1 n0 : Nonet) : Word := n1 ++ n0
/-- A nonet of a word. -/
def nonetIn (w : Word) (i : Nat) : Nonet := w.extractLsb' (9 * (i % 2)) 9
/-- The words that octets fill, two a word (R29). -/
def packWords (o : List Octet) : List Word :=
  (List.range ((o.length + 1) / 2)).map (fun i => wordOf (nonetOf (nth 0 o (2 * i + 1))) (nonetOf (nth 0 o (2 * i))))
/-- The octets of words, parity dropped (R29). -/
def unpackWords (w : List Nat) : List Octet :=
  w.flatMap (fun v => [BitVec.ofNat 8 v, BitVec.ofNat 8 (v / 512)])

/-- The place of an SRAM word's nonet 0 in `sram`: both views of the MC SRAM share one. -/
def sramIndex (addr : Nat) : Nat := 2 * (if addr < 0x40000 then addr + 0x2000000 else addr)

/-- One word of SRAM. -/
def State.sramWord (s : State) (addr : Nat) : Word :=
  wordOf (tget 0 s.mem.sram (sramIndex addr + 1)) (tget 0 s.mem.sram (sramIndex addr))
/-- One nonet of SRAM written. -/
def State.setNonet (s : State) (addr i : Nat) (n : Nonet) : State :=
  s.setMem (fun m => { m with sram := tset 0 m.sram (sramIndex addr + i % 2) n })
/-- One word of SRAM written. -/
def State.setSramWord (s : State) (addr : Nat) (w : Word) : State :=
  (s.setNonet addr 0 (nonetIn w 0)).setNonet addr 1 (nonetIn w 1)
/-- Octets written into SRAM by a transfer, packed with parity (R29). -/
def State.sramPut (s : State) (addr : Nat) (o : List Octet) : State :=
  ((List.range o.length).zip o).foldl (fun s e => s.setNonet (addr + e.1 / 2) e.1 (nonetOf e.2)) s
/-- Octets taken from SRAM by a transfer (R29). -/
def State.sramGet (s : State) (addr n : Nat) : List Octet :=
  (List.range n).map (fun i => (tget 0 s.mem.sram (sramIndex (addr + i / 2) + i % 2)).extractLsb' 0 8)

/-- An octet of the journal buffer (R286). -/
def State.jbufOctet (s : State) (i : Nat) : Octet :=
  match s.jnl.buf.find? (fun r => decide (Config.journalPlace r.seq % 1024 = i / 64)) with
  | some r => nth 0 r.octets (i % 64)
  | none => Config.journalStale i

/-! ### The page ownership table (R336 to R338) -/

/-- The first octet of the backing store's entry of a page. -/
def backAddr (s : State) (p : Nat) : Nat := 16 * s.rd Reg.POT_BACK_BASE16 * 65536 + 2 * p

/-- An entry changes and is written through to the backing store once that is set. -/
def potPut (s : State) (p v : Nat) : State :=
  let s := s.wr (Reg.POT_ENTRY p) v
  if s.on Reg.POT_BACK_BASE16.mark then
    let a := backAddr s p
    (linePartialWrite s (lineOf a) 0xE7 [(a, BitVec.ofNat 8 v), (a + 1, BitVec.ofNat 8 (v / 256))]).1
  else s

/-- POT_ENTRY written by secure-world privileged code (R336): dropped where locked or beyond the usable pages (R354). -/
def potWrite (s : State) (m p v : Nat) : State :=
  if p ≥ s.usable then s.flag Reg.POT_STAT_RANGE true
  else if bit (s.rd (Reg.POT_ENTRY p)) 12 then lockViolation s m true true (0x30800000 + p)
  else potPut s p v

/-- POT_CTL.SYNC (R337): every access passed under an earlier entry has completed within its own command, so SYNC reads 0 at once. -/
def potSync (s : State) : State := s.flag Reg.POT_CTL_SYNC false

/-- POT_BACK.BASE16, once per POR (R338, R344): its sixteen pages become table backing store, locked. -/
def potBackWrite (s : State) (m v : Nat) : State :=
  if s.lockedChange 0x30200021 v then lockViolation s m true true 0x30200021
  else if s.on Reg.POT_BACK_BASE16.mark then s
  else
    let s := s.wrWord 0x30200021 v
    (List.range 16).foldl (fun s i => potPut s (16 * (v % 2 ^ 15) + i) (2 ^ 13 + 2 ^ 12 + 2)) s

/-- The reload of the table from the backing store before SC_0 leaves a warm reset (R338): every entry FREE while POT_BACK is unwritten;
a failing or poisoned line enters Fault. -/
def potReload (s : State) : State :=
  let clear := { s with regs := s.regs.filter (fun e => !decide (0x30800000 ≤ e.1 / 256 ∧ e.1 / 256 < 0x30880000)) }
  if ¬ s.on Reg.POT_BACK_BASE16.mark then clear
  else
    let first := lineOf (backAddr s 0)
    let isBad := fun l => decide (first ≤ l ∧ l < first + 16384)
    if s.mem.bad.any (fun e => isBad e.1 && decide (e.2 > 3)) ∨ s.mem.poison.any (fun e => isBad e.1 && e.2) then
      enterFault clear 9
    else
      let base := backAddr s 0
      let pages := (s.mem.dram.filter (fun e => decide (base ≤ e.1 ∧ e.1 < base + 2 * 524288))).map (fun e => (e.1 - base) / 2)
      pages.foldl (fun t p => t.wr (Reg.POT_ENTRY p) (leAt (s.dramOctets (base + 2 * p) 2) 0 2)) clear

/-! ### Commands -/

/-- MEM_VAULT_BASE, once per POR (R354, Table 15.7): a value whose vault passes USABLE is dropped without locking. -/
def vaultBaseWrite (s : State) (m : Nat) (high : Bool) (v : Nat) : State :=
  let a := 0x30240002 + b2n high
  let vb := if high then s.rd Reg.MEM_VAULT_BASE_L + 2 ^ 18 * (v % 2) else v % 2 ^ 18 + 2 ^ 18 * s.rd Reg.MEM_VAULT_BASE_H
  if s.lockedChange a v then lockViolation s m true true a
  else if vb + 38035 > s.usable then s.flag Reg.MEM_STAT_CFG_ERR true
  else s.wrWord a v

/-- MEM_LW_CMD.GO (R363): the 32 words go out as one full line with the attributes of the controller that set GO. -/
def lineWindow (s : State) (m : Nat) (world priv : Bool) : State :=
  let addr := s.rd2 Reg.MEM_LW_ADDR_L Reg.MEM_LW_ADDR_H / 32 * 32
  let acc : Access := ⟨m, world, priv, 0xFFF, .write, addr, 0⟩
  let fin := fun (s : State) (err : Bool) => (s.flag Reg.MEM_LW_STAT_ERR err).flag Reg.MEM_LW_STAT_DONE true
  match checkAccess s acc with
  | some r => fin (reportRefusal s acc r) true
  | none =>
    if targetOf m addr ≠ 7 then fin s true
    else
      let o := unpackWords ((List.range 32).map (fun w => s.rd (Reg.MEM_LW_DATA w)))
      let (s, e) := lineFullWrite s ((addr - 0x400000000) / 32) world o
      fin s e.isSome

/-- DDR training ends during the Secure Boot of a cold start (R353); SC_0 leaves reset at its entry (R84, Table 19.3). -/
def trainingDone (s : State) (pass : Bool) : State :=
  if s.mode ≠ mSecureBoot ∨ s.on Reg.MEM_STAT_TRAINED then s
  else if pass then { s.flag Reg.MEM_STAT_TRAINED true with sc0 := { Ctl.reset true with running := true } }
  else enterFault s 3

/-- One page of the sealed fill (R359). -/
def fillPage (s : State) : State :=
  if ¬ s.on Reg.MEM_STAT_TRAINED ∨ s.on Reg.MEM_STAT_FILL_DONE then s
  else
    let n := s.rd2 Reg.MEM_FILL_L Reg.MEM_FILL_H + 1
    let s := s.wr2 Reg.MEM_FILL_L Reg.MEM_FILL_H n
    if n ≥ s.usable then s.flag Reg.MEM_STAT_FILL_DONE true else s

/-- Patrol scrub of one line, which shows `errs` octets in error or what the state marks (R366): reports, and poisons nothing. -/
def scrubLine (s : State) (line errs : Nat) : State :=
  if s.rd Reg.MEM_SCRUB_PERIOD = 0 ∨ tget false s.mem.poison line then s
  else
    let s := if errs = 0 then s else s.setMem (fun m => { m with bad := tset 0 m.bad line errs })
    (lineCheck s line 0xFE).1

def execPotEntryWrite (sc : Fin 2) (p : Fin 524288) (v : BitVec 16) (s : State) : Out := done (potWrite s sc p v.toNat)
def execPotSyncSet (s : State) : Out := done (potSync s)
def execPotBackSet (sc : Fin 2) (v : BitVec 15) (s : State) : Out := done (potBackWrite s sc v.toNat)
def execMemVaultBaseSet (sc : Fin 2) (high : Bool) (v : Word) (s : State) : Out := done (vaultBaseWrite s sc high v.toNat)
def execLineWrite (sc : Fin 2) (s : State) : Out := done (lineWindow s sc true true)
def execDdrTrainingDone (pass : Bool) (s : State) : Out := done (trainingDone s pass)
/-- R353: calibration delays accesses and changes no state. -/
def execDramZqCalibration (s : State) : Out := done s
def execSealedFillPage (s : State) : Out := done (fillPage s)
def execPatrolScrub (line : BitVec 29) (errs : Fin 81) (s : State) : Out := done (scrubLine s line.toNat errs)

end Sys2Proof.Machine
end

