-- ==== Sys2Proof/Machine/Health.lean ====
section
/-! DEFINITION. The health log (R413, R414), the time counter's value (R422) and the cartridge alert (R426). -/
namespace Sys2Proof.Machine

def State.setMgmt (s : State) (f : Mgmt → Mgmt) : State := { s with mgmt := f s.mgmt }

/-- One bit of CRC-16/CCITT (polynomial 0x1021). -/
def crc16Bit (c : BitVec 16) (b : Bool) : BitVec 16 :=
  if (c.getLsbD 15 != b) then (c <<< 1) ^^^ 0x1021 else c <<< 1

/-- CRC-16/CCITT over octets, from 0xFFFF (PRESUMED, log 20). -/
def crc16 (o : List Octet) : Nat :=
  (o.foldl (fun c x => (List.range 8).foldl (fun c i => crc16Bit c (x.getLsbD (7 - i))) c) (0xFFFF : BitVec 16)).toNat

/-- A health log record (Table 18.4). -/
def hlogRecord (s : State) (typ src : Nat) (data : List Octet) : List Octet :=
  let o := leOctets 4 s.mgmt.hseq ++ leOctets 6 s.mgmt.secs ++ leOctets 4 s.mgmt.ns ++
    leOctets 1 (s.rd Reg.MGT_STAT_TIME_STATE) ++ leOctets 1 typ ++ leOctets 1 src ++ fitOctets 13 data
  o ++ leOctets 2 (crc16 o)

/-- A record appended (R414): a full partition first loses its oldest sector of 2,048 records. HSEQ wraps to zero. -/
def hlogAdd (s : State) (typ src : Nat) (data : List Octet) : State :=
  let r := hlogRecord s typ src data
  let n := s.mgmt.hseq
  let old := if s.mgmt.hlog.length ≥ 262144 then s.mgmt.hlog.drop 2048 else s.mgmt.hlog
  (s.setMgmt (fun m => { m with hlog := old ++ [r], hseq := (n + 1) % 2 ^ 32 })).wr Reg.HLOG_SEQ n

/-- The cartridge alert is due: CELL_DUE or EXPIRED of either cell (R426). -/
def alertDue (s : State) : Bool :=
  s.on Reg.TAMP_STAT_CELL_DUE_A || s.on Reg.TAMP_STAT_CELL_DUE_B || s.on (Reg.CELL_STAT_EXPIRED 0) || s.on (Reg.CELL_STAT_EXPIRED 1)

/-- The alert meets a GPIO_5 that is configured for something else (R426). -/
def gpioConflict (s : State) : State :=
  if s.on Reg.MGT_STAT_CART_ALERT ∧ s.rd (Reg.GPIO_CFG_FUNC 5) ≠ 4 then
    hlogAdd ((s.flag Reg.GPIO_STAT_CONFLICT true).flag Reg.MGT_STAT_GPIO5_CONFLICT true) 4 5 []
  else s

/-- The cartridge alert brought up to date (R374, R426). -/
def cartAlert (s : State) : State :=
  if s.on Reg.MGT_STAT_CART_ALERT = alertDue s then s
  else
    let s := s.flag Reg.MGT_STAT_CART_ALERT (alertDue s)
    gpioConflict s

end Sys2Proof.Machine
end

