-- ==== Sys2Proof/Machine/Tamper.lean ====
section
/-! DEFINITION. The tamper domain (spec/16): ledger, sensors, responses, zeroization, cells, configuration, maintenance window. -/
namespace Sys2Proof

/-- The code of a requester as lead (Table 11.9). -/
def Requester.lead : Requester → Nat
  | .pfA => 1 | .pfB => 2 | .mc => 3
/-- A requester's copy of the requester-specific fields. -/
def Requester.idx : Requester → Nat
  | .pfA => 0 | .pfB => 1 | .mc => 2
/-- A requester's master ID (R278). -/
def Requester.master : Requester → Nat
  | .pfA => 0x70 | .pfB => 0x71 | .mc => 2

end Sys2Proof

namespace Sys2Proof.Machine

def State.setTamp (s : State) (f : Tamper → Tamper) : State := { s with tamp := f s.tamp }

/-! ### The requesters of the host windows -/

/-- The lead in place: 0 none. -/
def State.lead (s : State) : Nat := s.rd Reg.LEAD_STAT_LEAD
/-- A follower's order is dropped and its NL sets (R275). -/
def dropFollower (s : State) (m : Requester) : State := s.flag (Reg.LEAD_STAT_NL m.idx) true

/-! ### State that registers report -/

/-- TAMP_STAT.TAMPER (Table 12.8, R379, R382) and ROOT. -/
def tampRefresh (s : State) : State :=
  let t := match s.tamp.root with
    | none => if s.otp.comm > 0 then 3 else 0
    | some _ => if s.on Reg.TAMP_STAT_ALARM then 2 else 1
  (s.wr Reg.TAMP_STAT_TAMPER t).flag Reg.TAMP_STAT_ROOT s.tamp.root.isSome

/-! ### The ledger -/

/-- Rank of an entry type (Table 16.8). -/
def ledgerRank (t : Nat) : Nat := if t = 3 then 1 else if t = 4 then 2 else 0

/-- The MODE of an entry (Table 16.7). -/
def State.tampMode (s : State) : Nat := if s.tamp.main then s.mode else mBatteryHold

/-- An entry's 32 octets (Table 16.7). -/
def ledgerEntry (s : State) (typ src count : Nat) (data : List Octet) : List Octet :=
  leOctets 1 typ ++ leOctets 1 src ++ leOctets 1 (b2n s.tamp.main + 2 * b2n (s.on Reg.TAMP_STAT_WINDOW)) ++
    leOctets 1 s.tampMode ++ leOctets 6 s.tamp.tick ++ leOctets 2 count ++ fitOctets 16 data ++ leOctets 4 s.tamp.session

/-- An entry stored at an index; LAST_ZERO and LAST_ALARM follow it (R384). -/
def ledgerStore (s : State) (i : Nat) (e : List Octet) : State :=
  let s := s.setTamp (fun t => { t with
    ledger := if i < t.ledger.length then t.ledger.set i e else t.ledger ++ [e], lastIdx := some i })
  let s := (s.wr Reg.LEDGER_USED s.tamp.ledger.length).flag Reg.TAMP_STAT_LEDGER_FULL (decide (s.tamp.ledger.length ≥ 256))
  let s := if leAt e 0 1 = 4 ∧ leAt e 12 1 = 0 then s.wr Reg.LAST_ZERO i else s
  if leAt e 0 1 = 3 then s.wr Reg.LAST_ALARM i else s

/-- A ledger entry placed (R384). -/
def ledgerPut (s : State) (typ src : Nat) (data : List Octet) : State :=
  let e := ledgerEntry s typ src 1 data
  let last := match s.tamp.lastIdx with | some i => nth [] s.tamp.ledger i | none => []
  let li := s.tamp.lastIdx.getD 0
  let has := s.tamp.lastIdx.isSome
  if has ∧ typ = 2 ∧ leAt last 0 1 = 2 ∧ leAt last 1 1 = src then
    ledgerStore s li (setOctets (setOctets last 10 (leOctets 2 (min (leAt last 10 2 + 1) 0xFFFF))) 12 (leOctets 6 s.tamp.tick))
  else if has ∧ typ = 1 ∧ leAt last 0 1 = 1 then ledgerStore s li e
  else if s.tamp.ledger.length < 256 then ledgerStore s s.tamp.ledger.length e
  else
    let s := s.setTamp (fun t => { t with overflow := stick 32 (t.overflow + 1) })
    if ledgerRank typ ≥ ledgerRank (leAt (nth [] s.tamp.ledger 255) 0 1) then ledgerStore s 255 e else s

/-- The octets of the configuration words (Table 16.8, R29). -/
def configOctets (s : State) : List Octet :=
  unpackWords ((List.range 5).map (fun i => s.word (0x30280010 + i)) ++ (List.range 42).map (fun i => s.word (0x30280040 + i)))

/-- The configuration digest. -/
def configDigest (s : State) : List Octet := sha384 (configOctets s)

/-! ### The maintenance window -/

/-- The sensors that an open window turns to Log for a cell (R389). -/
def windowSensors (c : Nat) : List Nat := if c = 0 then [0x08, 0x09, 0x24, 0x26] else [0x0A, 0x0B, 0x25, 0x27]

/-- The sensors suspended by the open window. -/
def suspended (s : State) : List Nat :=
  (if bit s.tamp.winCells 0 then windowSensors 0 else []) ++ (if bit s.tamp.winCells 1 then windowSensors 1 else [])

/-- DATA of a WINDOW entry (Table 16.8). -/
def windowData (s : State) (ev cause : Nat) : List Octet :=
  leOctets 1 ev ++ leOctets 1 cause ++ leOctets 1 s.tamp.winCells ++ [0] ++ leOctets 4 s.tamp.winDur

/-- The window closes (R389): entry, filters restarted, the mode of row 12 for causes 1, 2, 3 and 5. -/
def closeWindow (s : State) (cause src : Nat) : State :=
  if ¬ s.on Reg.TAMP_STAT_WINDOW then s
  else
    let sus := suspended s
    let d := windowData s 2 cause
    let s := (s.flag Reg.TAMP_STAT_WINDOW false).wr Reg.WIN_LEFT 0
    let s := s.setTamp (fun t => { t with
      sens := t.sens.filter (fun e => !decide (e.1 ∈ sus)), winCells := 0, winTicks := 0, winDur := 0 })
    let s := ledgerPut s 7 src d
    if cause ≠ 4 ∧ s.mode = mMaintenance then setMode s mOperational 12 else s

/-- The window opens (R389, row 11 of Table 19.7). -/
def openWindow (s : State) (cells dur : Nat) : State :=
  let s := s.setTamp (fun t => { t with winCells := cells, winTicks := 32768 * dur, winDur := dur })
  let s := (s.flag Reg.TAMP_STAT_WINDOW true).wr Reg.WIN_LEFT dur
  let s := ledgerPut s 7 0x30 (windowData s 1 0)
  setMode s mMaintenance 11

/-! ### Responses and zeroization -/

/-- The key cache cleared (R240), with the memory-encryption keys, vault key and counter cache (R367): no vault. -/
def clearKeys (s : State) : State :=
  (({ s with cache := [], vault := .none }).wr Reg.KS_STAT_VAULT 0).flag Reg.MEM_STAT_VAULT_READY false

/-- The destruction of Table 16.6. A zeroization that finds no storage root destroys nothing (R382). -/
def zeroizeDestroy (s : State) : State :=
  match s.tamp.root with
  | none => s
  | some _ =>
    let s := s.setTamp (fun t => { t with root := none, origin := false, bank0 := ([], 0), bank1 := ([], 0), zeroEntry := true })
    let s := (s.flag Reg.TAMP_STAT_COMMISSIONED false).flag Reg.TAMP_STAT_CFG_LOCKED false
    let s := if s.tamp.main then clearKeys s else s
    tampRefresh s

/-- Zeroization (R381): the ZEROIZE entry, the destruction, the window closed with cause 5. -/
def zeroize (s : State) (src : Nat) : State :=
  let s := ledgerPut s 4 src (leOctets 1 (b2n s.tamp.root.isNone))
  closeWindow (zeroizeDestroy s) 5 src

/-- The response in force for a sensor (R376, R379, R389). -/
def sensResponse (s : State) (c : Nat) : Nat :=
  if c = 0x0C ∨ c = 0x20 then 2
  else if c ∈ suspended s then 0
  else min (s.rd (Reg.SENS_CFG_RESPONSE c)) 2

/-- The filter length in force for a sensor (R376). -/
def sensFilter (s : State) (c : Nat) : Nat :=
  if c = 0x20 then 2 else max 1 (s.rd (Reg.SENS_CFG_FILTER c))

/-- One sensor's filter takes a sample; the answer says whether it asserts (R376). -/
def sampleSensor (s : State) (c : Nat) (shows : Bool) : State × Bool :=
  if ¬ shows then (s.setTamp (fun t => { t with sens := tdel t.sens c }), false)
  else
    let x := tget Sensor.clean s.tamp.sens c
    let n := min (x.cnt + 1) (sensFilter s c)
    let hit := !x.asserted && decide (n ≥ sensFilter s c)
    (s.setTamp (fun t => { t with sens := tset Sensor.clean t.sens c ⟨n, x.asserted || hit⟩ }), hit)

/-- The entry of one asserted sensor; `d0` is DATA octet 0 of a ZEROIZE entry of this sample. -/
def responseEntry (d0 : Nat) (s : State) (c : Nat) : State :=
  match sensResponse s c with
  | 0 => ledgerPut s 2 c (leOctets 6 s.tamp.tick)
  | 1 => ledgerPut s 3 c []
  | _ => ledgerPut s 4 c (leOctets 1 d0)

/-- The responses of the sensors that assert at one sample, codes ascending: one entry each, the strongest response taken once
(R391). -/
def respond (s : State) (codes : List Nat) : State :=
  let strongest := (codes.map (sensResponse s)).foldl max 0
  let d0 := b2n s.tamp.root.isNone
  let zsrc := (codes.find? (fun c => decide (sensResponse s c = 2))).getD 0
  let s := codes.foldl (responseEntry d0) s
  if strongest = 2 then closeWindow (zeroizeDestroy s) 5 zsrc
  else if strongest = 1 then tampRefresh (s.flag Reg.TAMP_STAT_ALARM true)
  else s

/-- Several samples taken in one tick: filters first, then the responses. -/
def takeSamples (s : State) (l : List (Nat × Bool)) : State :=
  let r := l.foldl (fun (x : State × List Nat) e =>
    let y := sampleSensor x.1 e.1 e.2
    (y.1, if y.2 then x.2 ++ [e.1] else x.2)) (s, [])
  respond r.1 (r.2.mergeSort (fun a b => decide (a ≤ b)))

/-- A signed 9-bit value. -/
def signed9 (v : Nat) : Int := (BitVec.ofNat 9 v).toInt

/-- The (sensor, condition) pairs of a reading (Table 16.3). GLITCH and CLK_MAIN are sampled on main power only and while not
masked (Table 16.4, R386). -/
def readingSamples (s : State) : TamperReading → List (Nat × Bool)
  | .temp a b =>
    let lo := signed9 (s.rd Reg.TEMP_LIM_LOW)
    let hi := signed9 (s.rd Reg.TEMP_LIM_HIGH)
    [(0, decide (a < lo)), (1, decide (a > hi)), (2, decide (b < lo)), (3, decide (b > hi)), (4, decide (a - b > 12 ∨ b - a > 12))]
  | .vbat a b =>
    let lo := 200 + s.rd Reg.VBAT_LIM_LOW
    let hi := 200 + s.rd Reg.VBAT_LIM_HIGH
    [(8, decide (a < lo)), (9, decide (a > hi)), (0xA, decide (b < lo)), (0xB, decide (b > hi))]
  | .glitch a b c => if s.tamp.main ∧ ¬ s.tamp.masked then [(0x10, a), (0x11, b), (0x12, c)] else []
  | .clkMain b => if s.tamp.main ∧ ¬ s.tamp.masked then [(0x14, b)] else []
  | .clkTamp b => [(0x15, b)]
  | .mesh f => (List.range 8).map (fun n => (0x18 + n, f.getLsbD n && bit (s.rd Reg.MESH_EN) n))
  | .shield f => [(0x20, f)]
  | .enclosure a b =>
    let e := s.rd Reg.ENC_CFG
    [(0x21, bit e 2 && (a == bit e 0)), (0x22, bit e 3 && (b == bit e 1))]
  | .presence a b => [(0x24, !a), (0x25, !b)]

/-- What a reading shows beside its sensors: cell presence (Table 16.12), the RC reference while the crystal fails (R376). -/
def readingMarks (s : State) : TamperReading → State
  | .presence a b => (s.flag (Reg.CELL_STAT_PRESENT 0) a).flag (Reg.CELL_STAT_PRESENT 1) b
  | .clkTamp _ => s.flag Reg.TAMP_STAT_CLK_RC (tget Sensor.clean s.tamp.sens 0x15).asserted
  | .temp _ _ => s
  | .vbat _ _ => s
  | .glitch _ _ _ => s
  | .clkMain _ => s
  | .mesh _ => s
  | .shield _ => s
  | .enclosure _ _ => s

/-- A sample of the tamper sensors (R376 to R379). -/
def tamperSample (s : State) (r : List TamperReading) : State :=
  r.foldl readingMarks (takeSamples s (r.flatMap (readingSamples s)))

/-! ### Cells -/

def State.cell (s : State) (c : Nat) : CellRec := tget CellRec.none s.tamp.cells c
def State.setCell (s : State) (c : Nat) (r : CellRec) : State :=
  s.setTamp (fun t => { t with cells := tset CellRec.none t.cells c r })

/-- CELL_DUE of a cell. -/
def cellDue (c : Nat) : Fld := if c = 0 then Reg.TAMP_STAT_CELL_DUE_A else Reg.TAMP_STAT_CELL_DUE_B

/-- An hour of service (R374). HOURS_USED sticks at 24 bits. -/
def cellHour (s : State) (c : Nat) : State :=
  let r := s.cell c
  let u := stick 24 (r.used + 1)
  let s := s.setCell c { r with used := u }
  let s := if u ≥ (9 * r.rated + 9) / 10 ∧ ¬ s.on (cellDue c) then
      let s := s.flag (cellDue c) true
      ledgerPut s 6 0x3F (beOctets 8 r.serial ++ leOctets 4 u ++ leOctets 1 c)
    else s
  let s := cartAlert (s.flag (Reg.CELL_STAT_EXPIRED c) (decide (u ≥ r.rated)))
  takeSamples s [(0x28 + c, decide (u ≥ r.rated))]

/-- A cell's SERIAL read on its bus is compared with its record (R373). -/
def cellIdentity (s : State) (c serial : Nat) : State :=
  if s.on (Reg.CELL_STAT_PRESENT c) then takeSamples s [(0x26 + c, decide (serial ≠ (s.cell c).serial))] else s

/-- CELL_CMD.GO with an action: taken unless one is running. -/
def cellStart (s : State) (c act : Nat) : State :=
  if s.on Reg.CELL_CMD_GO then s
  else (((s.wr Reg.CELL_CMD_ACTION act).wr Reg.CELL_CMD_CELL c).flag Reg.CELL_CMD_GO true)

/-- The response buffer's octets. -/
def cellResp (s : State) : List Octet := unpackWords ((List.range 106).map (fun w => s.rd (Reg.CELL_RESP w)))

/-- Accepting a cell (R372, R375): the record changes only inside a window that names the cell. -/
def cellAccept (s : State) (c : Nat) : State :=
  if s.on Reg.CELL_CMD_GO then s
  else
    let s := cellStart s c 2
    let s := (s.flag (Reg.CELL_STAT_AUTH_OK c) true).flag (Reg.CELL_STAT_AUTH_FAIL c) false
    if s.on Reg.TAMP_STAT_WINDOW ∧ bit s.tamp.winCells c then
      let o := cellResp s
      let serial := ofBe (octAt o 0 8)
      let rated := ofBe (octAt o 8 4) % 2 ^ 24
      let s := s.setCell c ⟨serial, rated, 0⟩
      let s := (s.flag (cellDue c) false).flag (Reg.CELL_STAT_EXPIRED c) false
      let s := s.setTamp (fun t => { t with sens := tdel t.sens (0x28 + c) })
      cartAlert (ledgerPut s 5 0x31 (octAt o 0 8 ++ leOctets 4 rated ++ leOctets 1 c))
    else s

/-- Rejecting a cell (R373, R375): AUTH_FAIL sets and the identity sensor sees the failure. -/
def cellReject (s : State) (c : Nat) : State :=
  if s.on Reg.CELL_CMD_GO then s
  else
    let s := cellStart s c 3
    let s := (s.flag (Reg.CELL_STAT_AUTH_OK c) false).flag (Reg.CELL_STAT_AUTH_FAIL c) true
    takeSamples s [(0x26 + c, true)]

/-- A bus action finishes (R372, R463): no answer sets ERR; action 0 compares SERIAL; action 1 fills the response buffer. -/
def cellCmdDone (s : State) (answer : Option (List Octet)) : State :=
  if ¬ s.on Reg.CELL_CMD_GO then s
  else
    let act := s.rd Reg.CELL_CMD_ACTION
    let c := s.rd Reg.CELL_CMD_CELL
    let s := (s.flag Reg.CELL_CMD_GO false).flag Reg.CELL_CMD_STAT_DONE true
    match answer with
    | none => s.flag Reg.CELL_CMD_STAT_ERR (decide (act < 2))
    | some o =>
      let s := s.flag Reg.CELL_CMD_STAT_ERR false
      if act = 0 then cellIdentity s c (ofBe (octAt o 0 8))
      else if act = 1 then
        ((List.range 106).zip (packWords (fitOctets 212 o))).foldl (fun s e => s.wr (Reg.CELL_RESP e.1) e.2.toNat) s
      else s

/-! ### Configuration -/

/-- The codes of Table 16.3. -/
def sensorCodes : List Nat :=
  [0x00, 0x01, 0x02, 0x03, 0x04, 0x08, 0x09, 0x0A, 0x0B, 0x0C, 0x10, 0x11, 0x12, 0x14, 0x15, 0x18, 0x19, 0x1A, 0x1B, 0x1C, 0x1D,
    0x1E, 0x1F, 0x20, 0x21, 0x22, 0x24, 0x25, 0x26, 0x27, 0x28, 0x29]

/-- Is k a configuration word? -/
def isConfigWord (k : Nat) : Bool := decide (0x10 ≤ k ∧ k ≤ 0x14 ∨ 0x40 ≤ k ∧ k ≤ 0x69)

/-- Does a value lie in the ranges of R378, and name no reserved sensor (R390)? -/
def configOk (k v : Nat) : Bool :=
  if k = 0x10 then
    let lo := signed9 (v / 512)
    let hi := signed9 (v % 512)
    decide (-45 ≤ lo ∧ lo ≤ 0 ∧ 85 ≤ hi ∧ hi ≤ 115)
  else if k = 0x11 then decide (160 ≤ v / 512 ∧ v / 512 ≤ 200 ∧ 30 ≤ v % 512 ∧ v % 512 ≤ 160)
  else if 0x40 ≤ k then decide (k - 0x40 ∈ sensorCodes)
  else true

/-- A configuration word set: the words of reserved and fixed sensors keep what they read. -/
def configPut (s : State) (k v : Nat) : State :=
  if 0x40 ≤ k ∧ (k - 0x40 ∉ sensorCodes ∨ k = 0x4C ∨ k = 0x60) then s else s.wrWord (0x30280000 + k) v

/-- A configuration word written directly (R388): locked, it is dropped under R344. -/
def configWrite (s : State) (m : Requester) (k v : Nat) : State :=
  if s.lead ≠ m.lead then dropFollower s m
  else if ¬ isConfigWord k then s
  else if s.on Reg.TAMP_STAT_CFG_LOCKED then hostLock s m.master (0x50000 + 4 * k) s.mc.priv
  else if configOk k v then configPut s k v else s

/-! ### Commands -/

/-- TAMP_CTL.ACK (R380). -/
def alarmAck (s : State) (m : Requester) (i : Nat) : State :=
  if s.lead ≠ m.lead then dropFollower s m
  else
    let s := s.wr Reg.TAMP_CTL_ACK_INDEX i
    let held := s.tamp.sens.any (fun e => e.2.asserted && decide (sensResponse s e.1 = 1))
    if s.on Reg.TAMP_STAT_ALARM ∧ i = s.rd Reg.LAST_ALARM ∧ s.tamp.main ∧ ¬ held then
      tampRefresh (ledgerPut (s.flag Reg.TAMP_STAT_ALARM false) 0xC 0x3F (leOctets 2 i))
    else s.flag Reg.TAMP_STAT_ACK_REF true

/-- TAMP_CTL.WIN_CLOSE (R389). -/
def winClose (s : State) (m : Requester) : State :=
  if s.lead ≠ m.lead then dropFollower s m else closeWindow s 2 0x3F

/-- Ticks pass: the tick count sticks at 2^48 - 1 (R371); the open window and the debug session run down (R389, R350). -/
def passTicks (s : State) (n : Nat) : State :=
  let s := s.setTamp (fun t => { t with tick := stick 48 (t.tick + n), winTicks := t.winTicks - n })
  let s := { s with dbg := { s.dbg with ticks := s.dbg.ticks - n } }
  let s := if s.on Reg.DBG_STAT_ACTIVE then s.wr Reg.DBG_LEFT (stick 18 (s.dbg.ticks / 32768)) else s
  if s.on Reg.TAMP_STAT_WINDOW then s.wr Reg.WIN_LEFT (s.tamp.winTicks / 32768) else s

/-- The tick count sticks (R371): the ticks up to its maximum pass, and one entry is made. -/
def tickStuck (s : State) : State :=
  if s.tamp.stuckDone then s
  else
    let s := passTicks s (2 ^ 48 - 1 - s.tamp.tick)
    let s := (s.setTamp (fun t => { t with stuckDone := true })).flag Reg.TAMP_STAT_TICK_STUCK true
    ledgerPut s 0xB 0x3F []

/-- The domain's supply switches (R369); sensing goes on. -/
def powerSwitch (s : State) (toMain : Bool) : State := s.setTamp (fun t => { t with main := toMain })

/-- Loss of both battery inputs without main power (R370): everything of Table 16.1 goes, the journal head with it. -/
def domainLoss (s : State) : State :=
  if s.tamp.main then s
  else
    let s := { s with regs := resetRegs .vbat s.regs, tamp := { Tamper.reset with main := false, lost := true },
                      jnl := { s.jnl with headValid := false } }
    tampRefresh s

def execAlarmAck (m : Requester) (index : BitVec 9) (s : State) : Out := done (alarmAck s m index.toNat)
def execWinClose (m : Requester) (s : State) : Out := done (winClose s m)
/-- R389, cause 1: the ticks that were left pass, then the window closes. -/
def execWindowDurationExpiry (s : State) : Out := done (closeWindow (if s.on Reg.TAMP_STAT_WINDOW then passTicks s s.tamp.winTicks else s) 1 0x3F)
def execCellReadSerial (c : Fin 2) (s : State) : Out := done (cellStart s c 0)
def execCellChallenge (c : Fin 2) (s : State) : Out := done (cellStart s c 1)
def execCellAccept (c : Fin 2) (s : State) : Out := done (cellAccept s c)
def execCellReject (c : Fin 2) (s : State) : Out := done (cellReject s c)
def execCellCmdDone (answer : Option (List Octet)) (s : State) : Out := done (cellCmdDone s answer)
def execTamperConfigSet (m : Requester) (k : Fin 1024) (v : Word) (s : State) : Out := done (configWrite s m k v.toNat)
def execTamperSample (r : List TamperReading) (s : State) : Out := done (tamperSample s r)
/-- R376: both inputs low on battery for 1 ms; the comparator re-arms with main power. -/
def execVbatCritTrip (s : State) : Out := done (if s.tamp.main then s else zeroize s 0x0C)
def execCellIdentityCheck (c : Fin 2) (serial : BitVec 64) (s : State) : Out := done (cellIdentity s c serial.toNat)
def execCellHour (c : Fin 2) (s : State) : Out := done (cellHour s c)
def execTickStuck (s : State) : Out := done (tickStuck s)
def execTamperPowerSwitch (toMain : Bool) (s : State) : Out := done (powerSwitch s toMain)
def execTamperDomainLoss (s : State) : Out := done (domainLoss s)

end Sys2Proof.Machine
end

