-- ==== Sys2Proof/Machine/Lead.lean ====
section
/-! DEFINITION. The lead, lock tokens and the ballot table (spec/11, R265 to R279), the time state's anchor (R385), the end of a debug
session (R350). -/
namespace Sys2Proof.Machine

/-- A journal record for a normal-world master (R282). -/
def jreq (s : State) (m : Nat) (typ arg : Nat) (payload : List Octet) : State :=
  jrecG s typ m arg payload false false false

/-- The administrative windows answer: not in a reset, Fuse Load or Secure Boot (R436). -/
def State.hostUp (s : State) : Bool := decide (s.mode ≥ mUncommissioned)

/-- Does a requester exist? In x16 mode port B does not (R304). -/
def State.reqExists (s : State) : Requester → Bool
  | .pfB => s.rst.split
  | .pfA => true
  | .mc => true

/-! ### Ballots -/

/-- A ballot lapses (R269): record and BALLOT event. -/
def lapse (s : State) (b cause : Nat) : State :=
  let x := s.ballot b
  if x.st = 1 ∨ x.st = 2 then
    let s := s.setBallot b { x with st := 4 }
    pfEvent (jrec s 0x0105 0xE4 x.id (ballotPayload x 0 cause)) 9
  else s

/-- Every ballot that `keep` does not keep lapses. -/
def lapseAll (s : State) (cause : Nat) (keep : Nat → Ballot → Bool) : State :=
  (List.range 32).foldl (fun s b => if keep b (s.ballot b) then s else lapse s b cause) s

/-- The ballots of a domain lapse (Table 11.6, row 4). -/
def lapseDomain (s : State) (d : Nat) : State := lapseAll s 4 (fun _ x => decide (x.dom ≠ d))

/-! ### Debug sessions -/

/-- A warm reset is requested (R427, R436, R288): placement stops, the flush starts. A request while one runs widens the union. -/
def requestWarm (s : State) (arg causeBit src : Nat) : State :=
  jrecG (askWarm s arg causeBit) 0x0007 src arg [] false (if src ≥ 0xE0 then Config.noMasterWorld else decide (src ≤ 1)) true

/-- The debug session ends (R350): its second record; a level-2 session's end asks for a warm reset with ARG 4. -/
def endDebug (s : State) : State :=
  if ¬ s.on Reg.DBG_STAT_ACTIVE then s
  else
    let lvl := s.rd Reg.DBG_STAT_LEVEL
    let s := jrec s 0x0602 0xE7 lvl (s.dbg.cert.take 16)
    let s := clearDebug s
    if lvl = 2 then requestWarm s 4 10 0xE4 else s

/-! ### The lead -/

/-- A change of lead (R269, R273, R321, R350, R389): LEAD_EPOCH, record, event, ballots, debug session, window. `keep` is the
ballot of a takeover that is being spent. Causes: 1 lapse, 2 release, 3 takeover, 4 claim. -/
def changeLead (s : State) (new cause src : Nat) (keep : Option Nat) : State :=
  let old := s.lead
  let s := s.wr Reg.LEAD_STAT_LEAD new
  let e := s.rd Reg.LEAD_EPOCH + 1
  let s := if e < 2 ^ 32 then s.wr Reg.LEAD_EPOCH e
    else (List.range 3).foldl (fun s q => s.flag (Reg.LEAD_STAT_EPO q) true) (s.wr Reg.LEAD_EPOCH 0)
  let s := jrecG s 0x0110 src (s.rd Reg.LEAD_EPOCH) (leOctets 1 old ++ leOctets 1 new ++ leOctets 1 cause) false
    (if src ≥ 0xE0 then Config.noMasterWorld else false) false
  let s := pfEvent s 8
  let s := lapseAll s 3 (fun b _ => decide (some b = keep))
  closeWindow (endDebug s) 3 0x3F

/-- The lead lapses where it is the given one (R274). -/
def lapseLead (s : State) (l : Nat) : State := if s.lead = l ∧ l ≠ 0 then changeLead s 0 1 0xE4 none else s

/-- A warm reset's request as Table 19.4 has it at time 0: Sleep ends (Table 19.9, row 6), the record, the flush, the lead lapses. Any request
but the lead's command clears RST_BOOT.TARGET (R444). -/
def startWarm (s : State) (arg causeBit src : Nat) : State :=
  let s := wake s 6
  let s := if arg = 2 then s else s.flag Reg.RST_BOOT_TARGET false
  let s := requestWarm s arg causeBit src
  if s.lead = 0 then s else changeLead s 0 1 0xE4 none

/-- A debug session's end with the lapse that its warm reset brings (Table 19.4). -/
def endDebugNow (s : State) : State :=
  let lvl := s.rd Reg.DBG_STAT_LEVEL
  let was := s.on Reg.DBG_STAT_ACTIVE
  let s := endDebug s
  if was ∧ lvl = 2 then
    let s := s.flag Reg.RST_BOOT_TARGET false
    if s.lead = 0 then s else changeLead s 0 1 0xE4 none
  else s

/-- LEAD_CTL.CLAIM (R272, R273). -/
def claimLead (s : State) (m : Requester) : State :=
  if ¬ s.hostUp ∨ ¬ s.reqExists m then s
  else if s.lead ≠ 0 ∨ (m = .mc ∧ ¬ s.on Reg.LEAD_STAT_MC_ALLOWED) then s.flag (Reg.LEAD_STAT_REFUSED m.idx) true
  else changeLead s m.lead 4 m.master none

/-- LEAD_CTL.RELEASE (R273, R275). -/
def releaseRole (s : State) (m : Requester) : State :=
  if ¬ s.hostUp then s
  else if s.lead = m.lead then changeLead s 0 2 m.master none
  else dropFollower s m

/-! ### Lock tokens -/

/-- Master ID of a token master (R278). -/
def tokenId : TokenMaster → Nat
  | .sc0 => 0 | .sc1 => 1 | .mc => 2 | .pfA => 0x70 | .pfB => 0x71

/-- TOKEN_n.ACQUIRE (R278). -/
def acquireToken (s : State) (n : Nat) (m : Nat) : State :=
  if s.rd (Reg.TOKEN_HOLDER n) = 0xFF then s.wr (Reg.TOKEN_HOLDER n) m else s

/-- TOKEN_n.RELEASE (R278). -/
def releaseToken (s : State) (n : Nat) (m : Nat) : State :=
  if s.rd (Reg.TOKEN_HOLDER n) = m then (s.wr (Reg.TOKEN_HOLDER n) 0xFF).flag (Reg.TOKEN_BROKEN n) false else s

/-- A reset of a holder frees its tokens with BROKEN set, one record each (R279). -/
def breakTokens (s : State) (holds : Nat → Bool) : State :=
  (List.range 16).foldl (fun s n =>
    let h := s.rd (Reg.TOKEN_HOLDER n)
    if h ≠ 0xFF ∧ holds h then
      jrec ((s.wr (Reg.TOKEN_HOLDER n) 0xFF).flag (Reg.TOKEN_BROKEN n) true) 0x0111 0xE4 n (leOctets 1 h)
    else s) s

/-- EXPIRY reached (R269): the ticks up to it pass, and the ballot lapses. -/
def expireBallot (s : State) (b : Nat) : State :=
  let x := s.ballot b
  if x.st = 1 ∨ x.st = 2 then lapse (passTicks s (x.expiry - s.tamp.tick)) b 1 else s

def execClaim (m : Requester) (s : State) : Out := done (claimLead s m)
def execReleaseLead (m : Requester) (s : State) : Out := done (releaseRole s m)
def execAcquire (n : Fin 16) (t : TokenMaster) (s : State) : Out := done (acquireToken s n (tokenId t))
def execTokenRelease (n : Fin 16) (t : TokenMaster) (s : State) : Out := done (releaseToken s n (tokenId t))
def execBallotExpiry (b : Fin 32) (s : State) : Out := done (expireBallot s b)
/-- R350: the ticks left pass, and the session ends. -/
def execDebugSessionExpiry (s : State) : Out :=
  done (if s.on Reg.DBG_STAT_ACTIVE then endDebugNow (passTicks s s.dbg.ticks) else s)

end Sys2Proof.Machine
end

