-- ==== Sys2Proof/Machine/Mgmt.lean ====
section
/-! DEFINITION. The management controller's surroundings and disciplined time (spec/18): MC release and watchdog, monitors, health log,
firmware images and staging, time counter, PPS, sideband messages. -/
namespace Sys2Proof.Machine

/-- A latched line of the MC (Table 22.6): bit of MC_INT_LATCH. -/
def mcLatch (s : State) (b : Nat) : State :=
  let v := s.rd Reg.MC_INT_LATCH
  if bit v b then s else s.wr Reg.MC_INT_LATCH (v + 2 ^ b)

/-! ### MC release, reset, watchdog (R411) -/

/-- MC_CTL.RUN: the MC begins at its reset entry (R84). -/
def mcRelease (s : State) : State :=
  if s.on Reg.MC_STAT_RUNNING then s
  else ({ s with mc := { Ctl.reset false with running := true } }.flag Reg.MC_STAT_RUNNING true).flag Reg.MC_CTL_RUN true

/-- What every reset of the MC does: its lead lapses (R274), its tokens break (R279), a health log record. -/
def mcResetEffects (s : State) : State :=
  let s := (s.flag Reg.MC_STAT_HALTED false).flag Reg.MGT_STAT_MC_HALTED false
  hlogAdd (breakTokens (lapseLead s 3) (fun h => decide (h = 2))) 5 0xFF []

/-- MC_CTL.RESET: reset and released again. -/
def mcRestart (s : State) : State :=
  mcResetEffects (({ s with mc := { Ctl.reset false with running := true } }).flag Reg.MC_STAT_RUNNING true)

/-- The MC watchdog expires: the MC is reset and waits for its release (DEDUCED, log 21). -/
def mcExpire (s : State) : State :=
  if s.rd Reg.MC_WDOG_MS = 0 ∨ ¬ s.on Reg.MC_STAT_RUNNING then s
  else
    let s := (({ s with mc := Ctl.reset false }).flag Reg.MC_STAT_RUNNING false).flag Reg.MC_CTL_RUN false
    mcResetEffects (s.flag Reg.MC_STAT_WDOG true)

/-! ### Monitors (R412) -/

/-- A threshold as a signed number. -/
def signed18 (v : Nat) : Int := (BitVec.ofNat 18 v).toInt

/-- Nominal voltage of a channel in mV (Table 18.2). -/
def monNominal (k : Nat) : Int := nth 0 [750, 800, 1800, 1100, 850, 1200] (k - 8)

/-- Is a sample beyond a threshold, with the hysteresis where the level is held? Temperature in 0.125 degrees; voltage as deviation in
0.1 %. -/
def monBeyond (k : Nat) (v thr : Int) (held : Bool) : Bool :=
  if k < 8 then decide (v > thr - (if held then 24 else 0))
  else decide ((v - monNominal k).natAbs * 1000 > (thr - (if held then 5 else 0)) * monNominal k)

/-- The level of a sample. -/
def monLevel (s : State) (k : Nat) (v : Int) : Nat :=
  let cur := s.rd (Reg.MON_VAL_LEVEL k)
  if monBeyond k v (signed18 (s.rd (Reg.MON_CRIT_THR k))) (decide (cur = 2)) then 2
  else if monBeyond k v (signed18 (s.rd (Reg.MON_WARN_THR k))) (decide (cur ≥ 1)) then 1
  else 0

/-- A 1 ms sample of one channel. -/
def monSample (s : State) (k : Nat) (v : Int) : State :=
  let cur := s.rd (Reg.MON_VAL_LEVEL k)
  let l := monLevel s k v
  let s := s.wr (Reg.MON_VAL_VALUE k) (v % 2 ^ 16).toNat
  if l = cur then s
  else
    let s := s.wr (Reg.MON_VAL_LEVEL k) l
    let any := fun n => (List.range 14).any (fun j => decide (s.rd (Reg.MON_VAL_LEVEL j) = n))
    let s := (s.flag Reg.MGT_STAT_MON_WARN (any 1)).flag Reg.MGT_STAT_MON_CRIT (any 2)
    mcLatch (hlogAdd s 1 k (leOctets 2 (v % 2 ^ 16).toNat ++ leOctets 1 l)) 0

/-! ### Firmware images (R416, R417) -/

/-- Does the image verify? 0, or the code of Table 18.7. -/
def imageCode (s : State) (img : List Octet) : Nat :=
  let len := leAt img 0x14 4
  let sec := fun k => octAt img (leAt img (0x20 + 16 * k + 4) 4) (leAt img (0x20 + 16 * k + 8) 4)
  let dig := octAt img 0x50 48
  let svn := leAt img 8 4
  if octAt img 0 4 ≠ [0x43, 0x4B, 0x46, 0x57] ∨ leAt img 4 2 ≠ 1 then 1
  else if len > 16777216 ∨ img.length ≠ len then 2
  else if sha384 (octAt img 0 0x50 ++ sec 0 ++ sec 1 ++ sec 2) ≠ dig then 3
  else if ¬ Config.verify 10 (Config.raeshKey 0) dig (octAt img 0x80 1772) then 4
  else if ¬ Config.verify 1 (Config.raeshKey 1) dig (octAt img 0x76C 4627) then 5
  else if svn < s.rd Reg.FW_STAT_ARB then 6
  else if svn > 128 ∨ svn = 0 then 7
  else 0

/-- The image in a slot: as many octets as were staged. -/
def State.slotImage (s : State) (slot : Nat) : List Octet := if slot = 0 then s.mgmt.slotA else s.mgmt.slotB
/-- A slot's contents replaced. -/
def State.setSlotImage (s : State) (slot : Nat) (o : List Octet) : State :=
  s.setMgmt (fun m => if slot = 0 then { m with slotA := o } else { m with slotB := o })

/-- One bit of CRC-32 (IEEE 802.3, reflected). -/
def crc32Bit (c : BitVec 32) (b : Bool) : BitVec 32 :=
  if (c.getLsbD 0 != b) then (c >>> 1) ^^^ 0xEDB88320 else c >>> 1
/-- CRC-32 over octets (PRESUMED, log 20). -/
def crc32 (o : List Octet) : Nat :=
  (~~~(o.foldl (fun c x => (List.range 8).foldl (fun c i => crc32Bit c (x.getLsbD i)) c) (0xFFFFFFFF : BitVec 32))).toNat

/-- Is a boot control block copy valid? -/
def bcbValid (o : List Octet) : Bool := decide (o.length = 12) && decide (leAt o 8 4 = crc32 (o.take 8))

/-- The copy that counts: SEQ, ACTIVE, TRY, FLAGS; without a valid copy, slot A and no try (R417). -/
def bootBlock (s : State) : Nat × Nat × Nat × Nat :=
  let read := fun o => (leAt o 0 4, leAt o 4 1, leAt o 5 1, leAt o 6 1)
  let a := s.mgmt.bcb0
  let b := s.mgmt.bcb1
  if bcbValid a ∧ (¬ bcbValid b ∨ leAt a 0 4 ≥ leAt b 0 4) then read a
  else if bcbValid b then read b
  else (0, 0, 0xFF, 0)

/-- A write goes to the other copy with SEQ + 1 (R417). -/
def putBootBlock (s : State) (active try_ flags : Nat) : State :=
  let a := s.mgmt.bcb0
  let b := s.mgmt.bcb1
  let aCounts := decide (bcbValid a ∧ (¬ bcbValid b ∨ leAt a 0 4 ≥ leAt b 0 4))
  let o := leOctets 4 ((bootBlock s).1 + 1) ++ leOctets 1 active ++ leOctets 1 try_ ++ leOctets 1 flags ++ [0]
  let o := o ++ leOctets 4 (crc32 (o.take 8))
  let s := s.setMgmt (fun m => if aCounts then { m with bcb1 := o } else { m with bcb0 := o })
  (s.flag Reg.FW_STAT_TRY_PENDING (decide (try_ ≠ 0xFF))).flag Reg.FW_STAT_ADV_PEND (bit flags 1)

/-! ### Staging (R418) -/

/-- A staging event's two records: journal type 0x0901 and health log type 6. -/
def stageRecord (s : State) (src slot svn : Nat) : State :=
  hlogAdd (jreq s src 0x0901 slot (leOctets 4 svn)) 6 0xFF (leOctets 1 slot)

/-- The staging session ends. -/
def stageClose (s : State) : State := (s.setMgmt (fun m => { m with stage := none })).flag Reg.MGT_STAT_STAGE_BUSY false

/-- One staging block (R418): the state, the status (Table 22.1) and RESULT0. -/
def stageBlock (s : State) (owner src : Nat) (blk : List Octet) : State × Nat × Nat :=
  let flags := leAt blk 0 1
  let off := leAt blk 4 4
  let total := leAt blk 8 4
  let data := blk.drop 16
  let slot := 1 - s.rd Reg.FW_STAT_ACTIVE_SLOT
  -- STAGE_CODE shows what a LAST came to (Table 18.12)
  let shown := fun (s : State) (c : Nat) => if bit flags 1 then s.wr Reg.FW_STAT_STAGE_CODE c else s
  if s.journalFull then (s, 0x44, 0)
  else if bit flags 0 ∧ (bootBlock s).2.2.1 ≠ 0xFF then (s, 0x43, 20)
  else if s.mgmt.stage.any (fun x => decide (x.owner ≠ owner)) then (s, 0x43, 21)
  else
    let s := if bit flags 0 then
        let s := stageRecord (s.setSlotImage slot []) src slot 0
        (s.setMgmt (fun m => { m with stage := some ⟨owner, slot, total, 0⟩ })).flag Reg.MGT_STAT_STAGE_BUSY true
      else s
    match s.mgmt.stage with
    | none => (shown s 8, 0x30, 8)
    | some x =>
      if bit flags 2 then (stageClose s, 0, 0)
      else if total > 16777216 then (stageClose (stageRecord (shown s 2) src x.slot 0), 0x30, 2)
      else if off ≠ x.got then (shown s 8, 0x30, 8)
      else
        let img := s.slotImage x.slot ++ data
        let s := s.setSlotImage x.slot img
        let s := s.setMgmt (fun m => { m with stage := some { x with got := img.length } })
        if bit flags 1 then
          let c := imageCode s img
          let s := stageRecord (shown s c) src x.slot (leAt img 8 4)
          (stageClose s, if c = 0 then 0 else 0x30, c)
        else (s, 0, 0)

/-- STAGE_CMD.GO of the MC (Table 18.9): dropped while MC_STAGE is 0; the block runs from STAGE_ADDR to the end of TOTAL or of the
mailbox SRAM (DEDUCED, log 22). -/
def stageCommand (s : State) : State :=
  if s.on Reg.STAGE_CMD_GO ∨ ¬ s.on Reg.MGT_CFG_MC_STAGE then s
  else
    let a := s.rd2 Reg.STAGE_ADDR_L Reg.STAGE_ADDR_H
    let head := s.sramGet a 16
    let room := 2 * (0x3020000 - a) - 16
    let n := min (leAt head 8 4 - leAt head 4 4) room
    let (s, st, code) := stageBlock s 3 2 (s.sramGet a (16 + n))
    let s := ((s.wr Reg.STAGE_CMD_STATUS st).wr Reg.STAGE_CMD_CODE code).flag Reg.STAGE_CMD_GO true
    s.setMgmt (fun m => { m with flashOp := 3 })

/-! ### Time (R422 to R424) -/

/-- A change of time state: health log, MC line 7, and once a session the ledger's anchor (R385). -/
def setTimeState (s : State) (t : Nat) : State :=
  if t = s.rd Reg.MGT_STAT_TIME_STATE then s
  else
    let s := mcLatch (hlogAdd (s.wr Reg.MGT_STAT_TIME_STATE t) 2 0xFF (leOctets 1 t)) 3
    if (t = 2 ∨ t = 3) ∧ ¬ s.tamp.anchored then
      let s := ledgerPut s 1 0x31 (leOctets 6 s.mgmt.secs ++ leOctets 4 s.mgmt.ns ++ leOctets 1 (t - 2))
      s.setTamp (fun x => { x with anchored := true })
    else s

/-- A write to TIME_RATE or TIME_STEP while the servo claims lock. -/
def disciplined (s : State) : State :=
  let s := s.setMgmt (fun m => { m with recent := true })
  if s.on Reg.TIME_CTL_LOCK then setTimeState s 2 else s

/-- The bound of TIME_RATE: 1,000 ppm of 2 ns in units of 2^-36 ns (R422). -/
def rateMax : Int := 137438953

/-- TIME_RATE_H written: the rate applies. -/
def rateWrite (s : State) (v : Nat) : State :=
  let s := s.wr Reg.TIME_RATE_H v
  let r := (BitVec.ofNat 36 (s.rd2 Reg.TIME_RATE_L Reg.TIME_RATE_H)).toInt
  disciplined (s.setMgmt (fun m => { m with rate := max (-rateMax) (min rateMax r) }))

/-- Seconds and nanoseconds of five words laid out as TIME_STEP. -/
def timeWords (f : Nat → Fld) (s : State) : Nat × Nat :=
  (s.rd (f 0) + 2 ^ 18 * s.rd (f 1) + 2 ^ 36 * (s.rd (f 2) % 2 ^ 12), s.rd (f 3) + 2 ^ 18 * (s.rd (f 4) % 2 ^ 14))

/-- The counter set from a number of nanoseconds, seconds modulo 2^48. -/
def putTime (s : State) (t : Int) : State :=
  s.setMgmt (fun m => { m with secs := (t / 1000000000 % 2 ^ 48).toNat, ns := (t % 1000000000).toNat })

/-- TIME_STEP applied whole at the write of its last word. -/
def stepWrite (s : State) (v : Nat) : State :=
  let s := s.wr (Reg.TIME_STEP 4) v
  let w := timeWords Reg.TIME_STEP s
  let s := putTime s (s.mgmt.secs * 1000000000 + s.mgmt.ns + (BitVec.ofNat 48 w.1).toInt * 1000000000 + w.2)
  disciplined (hlogAdd s 3 0xFF (leOctets 6 w.1 ++ leOctets 4 w.2))

/-- TIME_SET applied at the write of its last word: ACQUIRING. -/
def setWrite (s : State) (v : Nat) : State :=
  let s := s.wr (Reg.TIME_SET 4) v
  let w := timeWords Reg.TIME_SET s
  let s := putTime s (w.1 * 1000000000 + w.2)
  setTimeState (s.setMgmt (fun m => { m with recent := false, frac := 0 })) 1

/-- TIME_CTL.LOCK written (Table 18.10). -/
def lockWrite (s : State) (lock : Bool) : State :=
  let s := s.flag Reg.TIME_CTL_LOCK lock
  let t := s.rd Reg.MGT_STAT_TIME_STATE
  if lock then (if s.mgmt.recent then setTimeState s 2 else s)
  else if t = 2 then setTimeState s 3
  else if t = 4 then setTimeState s 1
  else s

/-- PPS_OUT rises in DISCIPLINED and HOLDOVER, on GPIO_5 in its PPS_OUT function, unless the cartridge alert holds the pin (R424, R426). -/
def ppsOut (s : State) : State :=
  let t := s.rd Reg.MGT_STAT_TIME_STATE
  if (t = 2 ∨ t = 3) ∧ s.rd (Reg.GPIO_CFG_FUNC 5) = 3 ∧ ¬ s.on Reg.MGT_STAT_CART_ALERT then
    { s with sent := s.sent ++ [.ppsOut] }
  else s

/-- One PTP cycle of the counter: 2 ns corrected by TIME_RATE. -/
def timeCycle (s : State) : State :=
  let u : Int := s.mgmt.ns * 2 ^ 36 + s.mgmt.frac + 2 * 2 ^ 36 + s.mgmt.rate
  let lim : Int := 1000000000 * 2 ^ 36
  let wrap := decide (u ≥ lim)
  let u := if wrap then u - lim else u
  let s := s.setMgmt (fun m => { m with
    ns := (u / 2 ^ 36).toNat, frac := (u % 2 ^ 36).toNat, secs := if wrap then (m.secs + 1) % 2 ^ 48 else m.secs })
  if wrap then ppsOut s else s

/-- The latched counter's five words (Table 18.9). -/
def stampWords (secs ns : Nat) : List Nat :=
  [ns % 2 ^ 18, ns / 2 ^ 18, secs % 2 ^ 18, secs / 2 ^ 18 % 2 ^ 18, secs / 2 ^ 36]

/-- A PPS_IN edge (R424). -/
def ppsEdge (s : State) : State :=
  let s := ((List.range 5).zip (stampWords s.mgmt.secs s.mgmt.ns)).foldl (fun s e => s.wr (Reg.PPS_IN_TS e.1) e.2) s
  let s := s.setMgmt (fun m => { m with ppsSeen := true })
  let s := if s.on Reg.MGT_STAT_PPS_IN_LOST then hlogAdd (s.flag Reg.MGT_STAT_PPS_IN_LOST false) 9 0xFF [1] else s
  mcLatch s 1

/-- 2 s without an edge. -/
def ppsLost (s : State) : State :=
  if s.mgmt.ppsSeen ∧ ¬ s.on Reg.MGT_STAT_PPS_IN_LOST then
    mcLatch (hlogAdd (s.flag Reg.MGT_STAT_PPS_IN_LOST true) 9 0xFF [0]) 1
  else s

/-! ### Health log commands (R414) -/

/-- HLOG_APPEND.GO: the record of HLOG_DATA. -/
def hlogCommand (s : State) : State :=
  if s.on Reg.HLOG_APPEND_GO then s
  else
    let o := unpackWords ((List.range 9).map (fun w => s.rd (Reg.HLOG_DATA w)))
    let s := hlogAdd s (leAt o 0 1) (leAt o 1 1) (octAt o 2 13)
    (s.setMgmt (fun m => { m with flashOp := 1 })).flag Reg.HLOG_APPEND_GO true

/-- MGT_CFG.HLOG_ERASE by the lead: the whole partition; the record that follows is ERASED. -/
def hlogWipe (s : State) (m : Requester) : State :=
  if s.lead ≠ m.lead then dropFollower s m
  else if s.on Reg.MGT_CFG_HLOG_ERASE then s
  else
    let s := hlogAdd (s.setMgmt (fun m => { m with hlog := [], flashOp := 2 })) 8 0xFF []
    s.flag Reg.MGT_CFG_HLOG_ERASE true

/-- The flash controller is done: GO falls; MC line 5 latches for an append or a staging write (Table 22.5). -/
def flashDone (s : State) : State :=
  let op := s.mgmt.flashOp
  let s := s.setMgmt (fun m => { m with flashOp := 0 })
  if op = 1 then mcLatch (s.flag Reg.HLOG_APPEND_GO false) 2
  else if op = 2 then s.flag Reg.MGT_CFG_HLOG_ERASE false
  else if op = 3 then mcLatch (s.flag Reg.STAGE_CMD_GO false) 2
  else s

/-! ### Sideband messages (R415) -/

/-- An MCTP answer goes out. -/
def mctpSend (s : State) (o : List Octet) : State := { s with sent := s.sent ++ [.mctp o] }

/-- A message for the MC waits (line 4). -/
def mctpArrive (s : State) (o : List Octet) : State :=
  { s.setMgmt (fun m => { m with mctpIn := m.mctpIn ++ [o] }) with irq := { s.irq with mctpMsg := true } }

/-- An MCTP control request (DSP0236; PRESUMED, log 20): command code in octet 1 after the instance octet. Set Endpoint ID assigns the ID;
Get Endpoint ID, Get Version Support and Get Message Type Support answer; any other is answered unsupported. -/
def mctpControl (s : State) (o : List Octet) : State :=
  let s := mctpArrive s o
  let inst := nth 0 o 0 &&& 0x1F
  let cmd := nth 0 o 1
  if cmd = 1 then
    let e := (nth 0 o 3).toNat
    mctpSend (s.setMgmt (fun m => { m with eid := e })) [inst, cmd, 0, 0, BitVec.ofNat 8 e, 0]
  else if cmd = 2 then mctpSend s [inst, cmd, 0, BitVec.ofNat 8 s.mgmt.eid, 0, 0]
  else if cmd = 5 then mctpSend s [inst, cmd, 0, 2, 1, 5]
  else mctpSend s [inst, cmd, 5]

/-- A PLDM request for platform monitoring (DSP0248; PRESUMED, log 20): GetSensorReading of sensor k answers channel k's latest sample. -/
def pldmMonitor (s : State) (o : List Octet) : State :=
  let s := mctpArrive s o
  let inst := nth 0 o 0 &&& 0x1F
  let cmd := nth 0 o 2
  let k := leAt o 3 2
  if cmd = 0x11 ∧ k < 14 then
    let l := s.rd (Reg.MON_VAL_LEVEL k)
    mctpSend s ([inst, 2, cmd, 0, 3, 0, 0] ++ leOctets 1 (if l = 0 then 1 else if l = 1 then 2 else 3) ++ [0, 0] ++
      leOctets 2 (s.rd (Reg.MON_VAL_VALUE k)))
  else mctpSend s [inst, 2, cmd, 5]

/-- Image data over PLDM, which the MC stages (R415, R418). -/
def pldmData (s : State) (o : List Octet) : State :=
  let s := mctpArrive s o
  if s.on Reg.MGT_CFG_MC_STAGE ∧ s.mc.running then
    let (s, st, code) := stageBlock s 3 2 o
    (s.wr Reg.STAGE_CMD_STATUS st).wr Reg.STAGE_CMD_CODE code
  else s

/-- A management frame waits for the MC (line 3), a PTP event message with its hardware time stamp (R422). -/
def ethArrive (s : State) (o : List Octet) (stamp : Option (Nat × Nat)) : State :=
  { s.setMgmt (fun m => { m with ethIn := m.ethIn ++ [(o, stamp)] }) with irq := { s.irq with ethFrame := true } }

def execMcRun (s : State) : Out := done (mcRelease s)
def execMcReset (s : State) : Out := done (mcRestart s)
def execMcWdogExpiry (s : State) : Out := done (mcExpire s)
def execWdogKick (s : State) : Out := done { s with irq := { s.irq with mcWdog := 0 } }
def execMonitorSample (k : Fin 14) (v : Int) (s : State) : Out := done (monSample s k v)
def execHlogAppend (s : State) : Out := done (hlogCommand s)
def execHlogErase (m : Requester) (s : State) : Out := done (hlogWipe s m)
def execStageCmdGo (s : State) : Out := done (stageCommand s)
def execTimeRateSet (v : Word) (s : State) : Out := done (rateWrite s v.toNat)
def execTimeStep (v : Word) (s : State) : Out := done (stepWrite s v.toNat)
def execTimeSet (v : Word) (s : State) : Out := done (setWrite s v.toNat)
def execTimeLockSet (lock : Bool) (s : State) : Out := done (lockWrite s lock)
/-- 4 s without discipline (Table 18.10). -/
def execHoldoverTimer (s : State) : Out :=
  let s := s.setMgmt (fun m => { m with recent := false })
  done (if s.rd Reg.MGT_STAT_TIME_STATE = 2 then setTimeState s 3 else s)
/-- 86,400 s in HOLDOVER (Table 18.10). -/
def execFreerunTimer (s : State) : Out := done (if s.rd Reg.MGT_STAT_TIME_STATE = 3 then setTimeState s 4 else s)
def execPpsInEdge (s : State) : Out := done (ppsEdge s)
def execPpsInLost (s : State) : Out := done (ppsLost s)
def execPpsOutPulse (s : State) : Out := done (ppsOut s)
def execFlashDone (s : State) : Out := done (flashDone s)
/-- R418: 600 s without a chunk. -/
def execStagingSessionTimeout (s : State) : Out := done (stageClose s)
def execMctpControl (msg : List Octet) (s : State) : Out := done (mctpControl s msg)
def execPldmPlatformMonitoring (msg : List Octet) (s : State) : Out := done (pldmMonitor s msg)
def execRequestFirmwareData (data : List Octet) (s : State) : Out := done (pldmData s data)
/-- R415: unsupported in every case. -/
def execActivateFirmware (msg : List Octet) (s : State) : Out :=
  done (mctpSend (mctpArrive s msg) [nth 0 msg 0 &&& 0x1F, 5, nth 0 msg 2, 5])
def execPtpEventMessage (msg : List Octet) (s : State) : Out := done (ethArrive s msg (some (s.mgmt.secs, s.mgmt.ns)))
def execMgmtEthernetFrame (frame : List Octet) (s : State) : Out := done (ethArrive s frame none)

end Sys2Proof.Machine
end

