-- ==== Sys2Proof/Machine/Clock.lean ====
section
/-! DEFINITION. What passes while no command waits: the counters that run by themselves (R371, R389, R350, R411, R422, R473). What
happens when one of them reaches its end is a command of the table. -/
namespace Sys2Proof.Machine

/-- One cycle of the tamper clock in PTP cycles: 500 MHz over 32,768 Hz (Table 19.8), as a fraction that `tickAcc` collects. -/
def ptpTick (s : State) : State :=
  let a := s.mgmt.tickAcc + 32768
  if a < 500000000 then s.setMgmt (fun m => { m with tickAcc := a })
  else passTicks (s.setMgmt (fun m => { m with tickAcc := a - 500000000 })) 1

/-- The watchdogs of the CTL and MC domains count from their last kick while they are enabled (R411, R473). -/
def wdogCycle (s : State) : State :=
  let k1 := if s.rd Reg.SC_WDOG_MS ≠ 0 ∧ s.sc0.running then 1 else 0
  let k2 := if s.rd Reg.MC_WDOG_MS ≠ 0 ∧ s.mc.running then 1 else 0
  { s with irq := { s.irq with scWdog := s.irq.scWdog + k1, mcWdog := s.irq.mcWdog + k2 } }

/-- One idle step: a PTP cycle, or a tick of the tamper clock where the PTP clock is off (Battery Hold). -/
def idle (s : State) : State :=
  if s.mode = mBatteryHold ∨ s.rst.por then passTicks s 1 else wdogCycle (ptpTick (timeCycle s))

end Sys2Proof.Machine
end

