-- ==== Sys2Proof/Machine/Floor.lean ====
section
/-! DEFINITION. The floor's common operations (spec/04): units of the state, results in flight (R91), the issue of an operation,
the contract monitor (R115), hold pages as a ring (R102, R124 to R126, R151), unit faults (Table 5.4). -/
namespace Sys2Proof.Machine

/-! ### Units -/

def State.seq (s : State) (i : Nat) : Seq := tget Seq.zero s.floor.seqs i
def State.setSeq (s : State) (i : Nat) (q : Seq) : State :=
  { s with floor := { s.floor with seqs := tset Seq.zero s.floor.seqs i q } }
def State.lane (s : State) (i : Nat) : Lane := tget Lane.zero s.floor.lanes i
def State.setLane (s : State) (i : Nat) (l : Lane) : State :=
  { s with floor := { s.floor with lanes := tset Lane.zero s.floor.lanes i l } }
def State.group (s : State) (i : Nat) : Group := tget Group.zero s.floor.groups i
def State.setGroup (s : State) (i : Nat) (g : Group) : State :=
  { s with floor := { s.floor with groups := tset Group.zero s.floor.groups i g } }
def State.xt (s : State) (i : Nat) : XtUnit := tget XtUnit.zero s.floor.xts i
def State.setXt (s : State) (i : Nat) (x : XtUnit) : State :=
  { s with floor := { s.floor with xts := tset XtUnit.zero s.floor.xts i x } }
def State.du (s : State) (i : Nat) : DigestUnit := tget DigestUnit.zero s.floor.dus i
def State.setDu (s : State) (i : Nat) (d : DigestUnit) : State :=
  { s with floor := { s.floor with dus := tset DigestUnit.zero s.floor.dus i d } }
def State.nu (s : State) (i : Nat) : NumUnit := tget NumUnit.zero s.floor.nus i
def State.setNu (s : State) (i : Nat) (n : NumUnit) : State :=
  { s with floor := { s.floor with nus := tset NumUnit.zero s.floor.nus i n } }
def State.page (s : State) (i : Nat) : HoldPage := tget HoldPage.free s.floor.pages i
def State.setPage (s : State) (i : Nat) (p : HoldPage) : State :=
  { s with floor := { s.floor with pages := tset HoldPage.free s.floor.pages i p } }
/-- A block of a hold buffer: blocks are numbered (reel × 64 + page) × 256 + block. -/
def State.hold (s : State) (a : Nat) : Block := tget 0 s.floor.hold a
def State.setHold (s : State) (a : Nat) (b : Block) : State :=
  { s with floor := { s.floor with hold := tset 0 s.floor.hold a b } }
def State.slot (s : State) (i : Nat) : KSlot := tget KSlot.empty s.cache i
def State.setSlot (s : State) (i : Nat) (k : KSlot) : State :=
  { s with cache := tset KSlot.empty s.cache i k }

/-- The instance on a sequencer, changed by `f`. -/
def State.onInst (s : State) (fs : Nat) (f : Inst → Inst) : State :=
  let q := s.seq fs
  s.setSeq fs { q with inst := q.inst.map f }

/-- A sequencer register; f0 reads as zero (R87). -/
def Seq.reg (q : Seq) (r : Nat) : Word := if r = 0 then 0 else nth 0 q.f.toList r
/-- A sequencer with a register written; writes to f0 are discarded. -/
def Seq.setReg (q : Seq) (r : Nat) (v : Word) : Seq :=
  if h : 0 < r ∧ r < 32 then { q with f := q.f.set r v h.2 } else q
/-- A register pair of a sequencer (R32). -/
def Seq.pair (q : Seq) (r : Nat) : DWord := dword (q.reg (r + 1)) (q.reg r)
/-- A write of a register pair. -/
def Seq.setPair (q : Seq) (r : Nat) (v : DWord) : Seq := (q.setReg r (loW v)).setReg (r + 1) (hiW v)

/-! ### Results in flight (R91) -/

/-- One result takes effect. -/
def landEff (s : State) (fs : Nat) : LandEff → State
  | .freg r v => s.setSeq fs ((s.seq fs).setReg r v)
  | .fpair r v => s.setSeq fs ((s.seq fs).setPair r v)
  | .flags z n c v =>
    let q := s.seq fs
    s.setSeq fs { q with flags := { q.flags with z := z, n := n, c := c.getD q.flags.c, v := v.getD q.flags.v } }
  | .loc a v => let q := s.seq fs; s.setSeq fs { q with loc := tset 0 q.loc a v }
  | .loop lvl l => let q := s.seq fs; s.setSeq fs (if lvl = 0 then { q with lp0 := l } else { q with lp1 := l })
  | .hp g v => s.setGroup g { s.group g with hp := v }
  | .bin l b => s.setLane l { s.lane l with bin := b }
  | .bout l b => s.setLane l { s.lane l with bout := b }
  | .ctr l b sp => s.setLane l { s.lane l with ctr := b, spent := sp }
  | .key l k => s.setLane l { s.lane l with key := some k }
  | .gh g b => s.setGroup g { s.group g with h := b }
  | .gy g b => s.setGroup g { s.group g with y := b }
  | .tweak x b e => s.setXt x { s.xt x with tweak := b, expo := e }
  | .k2 x m => s.setXt x { s.xt x with k2 := some m }
  | .hold a b => s.setHold a b
  | .base v sp => s.onInst fs (fun i => { i with base := v, baseSpent := sp })
  | .slotKey k m => s.setSlot k { s.slot k with mat := m }
  | .duNew d u => s.setDu d u
  | .duState d st more => let u := s.du d; s.setDu d { u with st := st, sq := u.sq ++ more }
  | .duFinal d st dig sq => s.setDu d { s.du d with st := st, dig := dig, sq := sq, final := true, absorbing := false }
  | .duAppend d _ o k =>
    let u := s.du d
    if u.alg = 15 then
      -- KECCAK mode: 16 octets are XORed into the state at the absorb position (R167)
      s.setDu d { u with st := absorbAt u.st u.apos o, apos := (u.apos + o.length) % 192, len := (u.len + o.length) % 2 ^ 128 }
    else
      let room := 336 - u.buf.length
      s.setDu d { u with buf := u.buf ++ o.take room, len := (u.len + o.length) % 2 ^ 128, keyed := u.keyed || k }
  | .duTap d r => s.setDu d { s.du d with tap := some r }
  | .fixity alg o => s.onInst fs (fun i => { i with fixity := some (alg, o) })
  | .nuMem n base ws =>
    let u := s.nu n
    let ix := (List.range ws.length).zip ws
    s.setNu n { u with
      mem := ix.foldl (fun m e => tset 0 m (base + e.1) e.2) u.mem
      wr := ix.foldl (fun m e => tset false m (base + e.1) true) u.wr }
  | .nuA n d v => let u := s.nu n; s.setNu n { u with a := u.a.set d v }
  | .nuLen n k => let u := s.nu n; s.setNu n { u with len := k, mctx := none, lctx := none }
  | .nuMod n c => s.setNu n { s.nu n with mctx := some c }
  | .nuLat n c => s.setNu n { s.nu n with lctx := some c }
  | .nuWidth n w => s.setNu n { s.nu n with lw := w }
  | .nuRej n => s.setNu n { s.nu n with rej := true }
  | .auth ok => s.onInst fs (fun i => { i with auth := some ok })
  | .res k v => s.onInst fs (fun i => { i with res := tset 0 i.res k v })
  | .hrel p =>
    (s.setPage p { s.page p with phase := .released }).onInst fs (fun i => { i with released := i.released ++ [p] })
  | .spareFree r => s.flag (Reg.REEL_STAT_SPARE_BUSY r) false
  | .noted => s

/-- The order of octets that enter a digest unit in one cycle: DPAD, tapped HLDs in ascending lane group, DABS (R163). -/
def LandEff.rank : LandEff → Nat
  | .duAppend _ src _ _ => src
  | _ => 0

/-- A result takes its place behind every result that lands no later. A flag result replaces a flag result of the same cycle,
which is never visible (R100). -/
def insLanding (l : Landing) : List Landing → List Landing
  | [] => [l]
  | x :: xs =>
    if x.cyc < l.cyc ∨ (x.cyc = l.cyc ∧ x.eff.rank ≤ l.eff.rank) then x :: insLanding l xs else l :: x :: xs

/-- Is this a flag result of cycle `c`? -/
def isFlagsAt (c : Nat) (l : Landing) : Bool :=
  match l.eff with
  | .flags _ _ _ _ => decide (l.cyc = c)
  | _ => false

/-- Results added to those in flight. -/
def addLandings (fl : List Landing) (new : List Landing) : List Landing :=
  new.foldl (fun fl l => insLanding l (if isFlagsAt l.cyc l then fl.filter (fun x => !isFlagsAt l.cyc x) else fl)) fl

/-- Everything of a sequencer's instance that lands at or before cycle `t` takes effect, in order. -/
def landDue (s : State) (fs t : Nat) : State :=
  match (s.seq fs).inst with
  | none => s
  | some i =>
    let due := i.flight.filter (fun l => decide (l.cyc ≤ t))
    let s := s.onInst fs (fun i => { i with flight := i.flight.filter (fun l => !decide (l.cyc ≤ t)) })
    due.foldl (fun s l => landEff s fs l.eff) s

/-- Results issued at cycle `a.cyc` that land `L` cycles later. -/
def launch (s : State) (a : At) (effs : List (Nat × LandEff)) : State :=
  s.onInst a.fs (fun i => { i with
    flight := addLandings i.flight (effs.map (fun e => ⟨a.cyc + e.1, a.cyc, e.2⟩)) })

/-! ### Captures and the contract monitor (R115, R343) -/

/-- The owner code of a function on the card (R110). -/
def cardOwner (f : Nat) : Nat := f

/-- A column leaves service: firmware writes 0xFFE to the column of the shadow card and requests COMMIT (Table 5.4). -/
def retireColumn (s : State) (col : Nat) : State :=
  ((List.range 64).foldl (fun s p => s.wr (Reg.CARD_SHADOW col p) 0xFFE) s).flag Reg.FLOOR_CTL_COMMIT true

/-- The entries of every sequencer's residency table. -/
def resPairs : List (Nat × Nat) :=
  (List.range 64).flatMap (fun q => (List.range 16).map (fun e => (q, e)))

/-- A figure is quarantined: its residency entries on every sequencer set QUAR and clear VALID (Table 4.11), with a journal record
of type 0x0301. -/
def quarantine (s : State) (h : FigHdr) : State :=
  let s := resPairs.foldl (fun s qe =>
    if s.rd (Reg.RES_FIGURE qe.1 qe.2) = h.fid ∧ (s.on (Reg.RES_VALID qe.1 qe.2) ∨ s.on (Reg.RES_QUAR qe.1 qe.2)) then
      (s.flag (Reg.RES_QUAR qe.1 qe.2) true).flag (Reg.RES_VALID qe.1 qe.2) false
    else s) s
  jrec s 0x0301 0xE8 h.fid (leOctets 4 h.version ++ List.replicate 8 0xFF ++ h.digest.take 16)

/-- The capture registers of Table 4.12 as journal payload, one 32-bit little-endian value each (log 10). -/
def cmonPayload (cause fs step slot cyc owner run : Nat) : List Octet :=
  leOctets 4 cause ++ leOctets 4 fs ++ leOctets 4 (step + 2 ^ 13 * slot) ++ leOctets 4 cyc ++ leOctets 4 owner ++ leOctets 4 run

/-- The capture registers take a fault, unless an earlier one is held, which is counted (R343). -/
def cmonCapture (s : State) (cause fs step slot cyc owner run : Nat) : State :=
  if s.on Reg.ISO_CAPT_CMON_HELD then s.count Reg.VIOL_COUNT Reg.VIOL_STAT_VCO
  else
    let s := (s.wr Reg.CMON_CAUSE cause).wr Reg.CMON_FS fs
    let s := (s.wr Reg.CMON_STEP_SLOT slot).wr Reg.CMON_STEP_STEP step
    let s := ((s.wr Reg.CMON_CYC_L cyc).wr Reg.CMON_CYC_H (cyc / 2 ^ 18)).wr Reg.CMON_CYC_X_CYCLE (cyc / 2 ^ 22)
    let s := (s.wr Reg.CMON_OWNER owner).wr Reg.CMON_CYC_X_RUN run
    if s.firstOnly then s.flag Reg.ISO_CAPT_CMON_HELD true else s

/-- How a contract monitor cause ends its instance (Table 4.11, Table 5.4). -/
def monStop (cause : Nat) : StopKind :=
  if cause = 4 then .keyAttr else if cause = 1 then .replayable else .fault

/-- The further action of Table 4.11. -/
def monAction (s : State) (a : At) (i : Inst) (cause : Nat) : State :=
  if cause = 2 ∨ cause = 3 then quarantine s i.hdr
  else if cause = 5 then
    (List.range 16).foldl (fun s e =>
      if s.rd (Reg.RES_FIGURE a.fs e) = i.hdr.fid then s.flag (Reg.RES_VALID a.fs e) false else s)
      { s with floor := { s.floor with loads := s.floor.loads ++ [(i.hdr.fid, [a.fs.val], [])] } }
  else s

/-- The contract monitor suppresses a step (R115): the results it issued are dropped, the instance issues no further step, the
capture registers, FLOOR_STAT.CMF and the journal record the fault, and the cause's further action is taken. -/
def monitor (s : State) (a : At) (cause : Nat) : State :=
  match (s.seq a.fs).inst with
  | none => s
  | some i =>
    let s := s.onInst a.fs (fun i => { i with
      flight := i.flight.filter (fun l => !decide (l.issued = a.cyc)), stop := some (monStop cause) })
    let slot := if cause = 5 then 0 else a.slot.val
    let s := cmonCapture s cause a.fs a.step slot a.cyc (cardOwner i.func) i.run
    let s := s.flag Reg.FLOOR_STAT_CMF true
    let s := jrec s 0x0303 0xE8 cause (cmonPayload cause a.fs a.step slot a.cyc (cardOwner i.func) i.run)
    let s := { s with cmds := s.cmds.map (fun (c : Cmd) => if c.uid = i.uid then { c with jseq := s.jnl.seq } else c) }
    monAction s a i cause

/-- A mismatch detected in a unit (R156, R176, R200): its instance is stopped from that cycle (Table 5.4), its results of the cycle
are dropped, the column leaves service, line 2 is latched and a record of type 0x0305 is made. -/
def unitFault (s : State) (a : At) (col : Nat) : State :=
  let s := s.onInst a.fs (fun i => { i with
    flight := i.flight.filter (fun l => !decide (l.issued = a.cyc)), stop := some .replayable })
  let s := if 160 ≤ col ∧ col < 224 then
      (s.count (Reg.DU_FLT_COUNT (col - 160)) (Reg.DU_STAT_FCO (col - 160))).flag (Reg.DU_STAT_OOS (col - 160)) true
    else if 224 ≤ col ∧ col < 240 then
      (s.count (Reg.NU_FLT_COUNT (col - 224)) (Reg.NU_STAT_FCO (col - 224))).flag (Reg.NU_STAT_OOS (col - 224)) true
    else
      let r := if col < 128 then col / 4 else col - 128
      s.count (Reg.FLT_COUNT r) (Reg.REEL_STAT_FCO r)
  let s := latchFault s
  let s := jrec s 0x0305 0xE6 col (leOctets 4 0)
  retireColumn s col

/-! ### Issue -/

/-- The classes of logical units (Table 4.4, UNIT_DECL). -/
def uLG : Nat := 1
def uXT : Nat := 2
def uDU : Nat := 3
def uNU : Nat := 4

/-- The column bound to a logical unit of the given type, while the instance holds it (R93, R115 cause 1). -/
def boundCol (i : Inst) (ty u cyc : Nat) : Option Nat :=
  if (nth (0, 0) i.hdr.units u).1 = ty ∧ cyc < i.span * 360 then i.cols[u]? else none

/-- The physical index within its class of a card column (Table 4.6). -/
def colUnit (ty col : Nat) : Nat :=
  if ty = 1 then col else if ty = 2 then col - 128 else if ty = 3 then col - 160 else if ty = 4 then col - 224 else col - 240

/-- An operation issues in a figure's step: every result due lands first; a step read with a parity error is suppressed as cause 5;
otherwise the operation acts on the instance as it stands at that cycle. An operation of a sequencer with no instance, of an instance
that has ended or been stopped, or of a cycle that has passed, is none (log 4). -/
def issue (s : State) (a : At) (op : State → Inst → State) : State :=
  match (s.seq a.fs).inst with
  | none => s
  | some i =>
    if i.ended.isSome || i.stop.isSome || decide (a.cyc < i.cyc) then s
    else
      let s := landDue s a.fs a.cyc
      let s := s.onInst a.fs (fun i => { i with cyc := a.cyc, step := a.step })
      if a.parity then monitor s a 5
      else match (s.seq a.fs).inst with
        | none => s
        | some i => op s i

/-- A cell that the instance does not hold (cause 1): the unit named is reported for fault handling, which takes its column out of service
(Tables 4.11 and 5.4). -/
def cellFault (s : State) (a : At) (i : Inst) (u : Nat) : State :=
  let s := monitor s a 1
  match i.cols[u]? with
  | some col => if col < 304 then retireColumn (latchFault s) col else s
  | none => s

/-- An operation on a logical unit: a cell that the instance does not hold is cause 1 (R115). -/
def issueOn (s : State) (a : At) (ty u : Nat) (op : State → Inst → Nat → State) : State :=
  issue s a (fun s i =>
    match boundCol i ty u a.cyc with
    | none => cellFault s a i u
    | some col => op s i (colUnit ty col))

/-! ### Hold pages as a ring (R102, R124 to R126, R151) -/

/-- The ring of hold pages that a logical reel of the instance has. -/
def ringOf (i : Inst) (reel : Nat) : List Nat := nth [] i.pages reel

/-- The logical reel of a lane group or tweak unit (UNIT_DECL octet 1). -/
def reelOf (i : Inst) (u : Nat) : Nat := (nth (0, 0) i.hdr.units u).2

/-- The place of ring block `n` of a logical reel: hold page and block; none when the figure has no page. -/
def ringPlace (i : Inst) (reel n : Nat) : Option (Nat × Nat) :=
  let ring := ringOf i reel
  if ring = [] then none
  else (ring[n / 256 % ring.length]?).map (fun p => (p, n % 256))

/-- A pointer advanced by `k` blocks round the ring of N_PAGES pages. -/
def advanceHp (i : Inst) (hp : BitVec 14) (k : Nat) : BitVec 14 :=
  if i.hdr.nPages = 0 then hp else BitVec.ofNat 14 ((hp.toNat + k) % (i.hdr.nPages * 256))

/-- A staging miss or a double-bit error: the instance is stopped at the next boundary (R126, R151). -/
def noteStop (s : State) (fs : Nat) (k : StopKind) : State :=
  s.onInst fs (fun i => if i.bstop.isSome then i else { i with bstop := some k })

/-- A staging miss of function `f`'s instance counts in its SMISS (R126). -/
def stagingMiss (s : State) (fs f : Nat) : State :=
  (noteStop s fs .fault).count (Reg.ADM_SMISS f) (Reg.ADM_STAT_SMO f)

/-- A floor read of a ring block: a page not refilled misses and reads zeros; wrong bits are corrected or retire the page. -/
def readRing (s : State) (a : At) (i : Inst) (reel n idx : Nat) : State × Block :=
  match ringPlace i reel n with
  | none => (s, 0)
  | some (p, b) =>
    if (s.page p).phase ≠ .staged then (stagingMiss s a.fs i.func, 0)
    else if (idx, 2) ∈ a.faults then
      ((noteStop (s.setPage p { s.page p with retired := true }) a.fs .fault), 0)
    else if (idx, 1) ∈ a.faults then
      (s.count (Reg.FLT_COUNT (p / 64)) (Reg.REEL_STAT_FCO (p / 64)), s.hold (p * 256 + b))
    else (s, s.hold (p * 256 + b))

/-- A floor read of `k` ring blocks from block `n`. -/
def readRings (s : State) (a : At) (i : Inst) (reel n : Nat) : Nat → State × List Block
  | 0 => (s, [])
  | k + 1 =>
    let (s, bs) := readRings s a i reel n k
    let (s, b) := readRing s a i reel (n + k) k
    (s, bs ++ [b])

/-- A floor write of a ring block, landing `L` cycles on: a page not drained misses and is not written. -/
def writeRing (s : State) (a : At) (i : Inst) (reel n L : Nat) (b : Block) : State :=
  match ringPlace i reel n with
  | none => s
  | some (p, k) =>
    if (s.page p).phase = .released then stagingMiss s a.fs i.func
    else launch s a [(L, .hold (p * 256 + k) b)]

/-- A floor write of several ring blocks from block `n`. -/
def writeRings (s : State) (a : At) (i : Inst) (reel L : Nat) : Nat → List Block → State
  | _, [] => s
  | n, b :: bs => writeRings (writeRing s a i reel n L b) a i reel L (n + 1) bs

end Sys2Proof.Machine
end

