-- ==== Sys2Proof/Machine/FloorSym.lean ====
section
/-! DEFINITION. The symmetric engine's operations (spec/06; majors 0x30, 0x31, 0x32, 0x38 of Table 4.3): lanes, GHASH, tweak
units, key delivery, pirouette rounds, lane faults. -/
namespace Sys2Proof.Machine

/-- The lanes of lane group `g` that the mask selects, in ascending order. -/
def lanesOf (g : Nat) (m : BitVec 8) : List Nat :=
  ((List.range 8).filter (fun i => m.getLsbD i)).map (fun i => 8 * g + i)

/-! ### Keys (R141, R142, R232, R245) -/

/-- Attribute bits (Table 10.5). -/
def aSymEnc : Nat := 0
def aSymDec : Nat := 1
def aPad : Nat := 2
def aNum : Nat := 3
def aWrap : Nat := 4
def aUnwrap : Nat := 5
def aDerive : Nat := 6
def aExport : Nat := 7
def aAttest : Nat := 8

/-- The direction's attribute: SYM_ENC for seal, encrypt or sign, SYM_DEC for the others. -/
def dirAttr (dir : Bool) : Nat := if dir then aSymDec else aSymEnc

/-- Does a key-bus destination class accept a slot (Table 10.7)? `dir` is the command's direction. -/
def classAdmits (fid cls : Nat) (dir : Bool) (k : KSlot) : Bool :=
  match cls with
  | 0 => if k.binding ∈ [1, 2, 3, 4, 5] then bit k.attr (dirAttr dir)
         else if k.binding = 6 then bit k.attr aWrap else if k.binding = 7 then bit k.attr aDerive else false
  | 1 => if k.binding ∈ [3, 4] then bit k.attr aSymDec else if k.binding = 6 then bit k.attr aUnwrap else false
  | 2 => decide (k.binding = 1) && bit k.attr (dirAttr dir)
  | 3 => decide (k.binding = 3) && bit k.attr (dirAttr dir)
  | 4 => bit k.attr aPad && (decide (k.binding ≠ 0x15) || bit k.attr aDerive)
  | 5 => if fid = 0x0061 then bit k.attr aAttest else bit k.attr aNum
  | _ => false

/-- The key slot of a logical operand that holds material; none delivers nothing (R97). -/
def operandSlot (s : State) (i : Inst) (k : Nat) : Option (Nat × KSlot) :=
  match nth none i.keys k with
  | none => none
  | some n => let sl := s.slot n; if sl.mat = [] then none else some (n, sl)

/-- The KEY_DECL classes of a logical operand. -/
def declClasses (i : Inst) (k : Nat) : Nat := (nth (0, 0) i.hdr.keyDecl k).1

/-- Block operations of the lanes. -/
inductive BlockKind | aese | aesd | ctre | ctrk | xtse | xtsd | cbcd | cmacb
  deriving DecidableEq, Repr

/-- Does the operation need the inverse form (R142)? -/
def BlockKind.inverse : BlockKind → Bool
  | .aesd | .xtsd | .cbcd => true
  | _ => false

/-- Table 6.5: the block operations that a key's binding admits. -/
def bindingAdmits (b : BlockKind) (k : LaneKey) : Bool :=
  match k.binding with
  | 1 | 2 => decide (b = .ctre ∨ b = .ctrk)
  | 3 => decide (b = .xtse ∨ b = .xtsd)
  | 4 => decide (b = .cbcd ∨ b = .aesd)
  | 5 | 7 => decide (b = .cmacb ∨ b = .aese)
  | 6 => (decide (b = .aese) && bit k.attr aWrap) || (decide (b = .aesd) && bit k.attr aUnwrap)
  | _ => false

/-- The counter's width for a binding (R150): the low 32 bits under GCM, all 128 under any other. -/
def ctrWidth (binding : Nat) : Nat := if binding = 1 then 32 else 128

/-- A counter advanced by `n` within its width. -/
def ctrAdd (w : Nat) (c n : Nat) : Nat := c / 2 ^ w * 2 ^ w + (c + n) % 2 ^ w

/-- Why a lane refuses a block operation: 3 for no key, 4 for a wrong form or binding or a spent counter, 0 when it accepts. -/
def laneRefusal (b : BlockKind) (l : Lane) : Nat :=
  match l.key with
  | none => 3
  | some k =>
    if k.inv ≠ b.inverse ∨ ¬ bindingAdmits b k then 4
    else if l.spent ∧ (b = .ctre ∨ b = .ctrk) then 4 else 0

/-! ### Pirouette rounds (R143) -/

/-- The slot kinds of a block from slot `20 - n` on, `r` real rounds still to place; true is a real round. `u` gives the decision
values of the slots. -/
def pirouette (u : Nat → Nat) : Nat → Nat → List Bool
  | 0, _ => []
  | n + 1, r =>
    let kind := if r = 0 then false else if r = n + 1 then true else decide (u (19 - n) < r * 65536 / (n + 1))
    kind :: pirouette u n (if kind then r - 1 else r)

/-- The decision value of a slot in an allotment (Table 6.6). -/
def decision (al : BitVec 832) (sl : Nat) : Nat := al.toNat / 2 ^ (16 * sl) % 65536

/-- The permutation of byte order that a slot draws (R144). -/
def shuffle (j i : Nat) : Nat := ((if j < 16 then 1 else 7) * i + j % 16) % 16

/-- Real rounds of a key of `bits` bits (R140). -/
def realRounds (bits : Nat) : Nat := bits / 32 + 6

/-! ### Lane faults (R156 to R159) -/

/-- A journal record of a lane event: ARG holds reel and lane, the payload the FLT_LAST fields (Table 12.3). -/
def laneRecord (s : State) (reel lane sl real outcome : Nat) : State :=
  jrec s 0x0304 0xE6 (reel + 256 * lane) (leOctets 4 (outcome * 4 + real * 16 + sl * 32 + lane * 1024))

/-- FLT_LAST takes a fault unless an earlier one of its reel is held (R343). -/
def fltLast (s : State) (reel lane sl real outcome : Nat) (spare : Bool) : State :=
  let held := if s.on Reg.ISO_CAPT_FLT_HELD then s.capHeld else s.capHeld.filter (fun i => decide (i = 64))
  if reel ∈ held then s.count Reg.VIOL_COUNT Reg.VIOL_STAT_VCO
  else
    let s := ((s.flag (Reg.FLT_LAST_SPARE reel) spare).wr (Reg.FLT_LAST_LANE reel) lane).wr (Reg.FLT_LAST_SLOT reel) sl
    let s := (s.wr (Reg.FLT_LAST_REAL reel) real).wr (Reg.FLT_LAST_OUTCOME reel) outcome
    if s.firstOnly then { s.flag Reg.ISO_CAPT_FLT_HELD true with capHeld := reel :: held } else s

/-- The window count of a lane of a reel. -/
def setFwin (s : State) (reel lane n : Nat) : State :=
  let f := Reg.LANE_FWIN reel (lane / 4)
  let w := s.rd f
  let sh := 2 ^ (4 * (lane % 4))
  s.wr f (w - w / sh % 16 * sh + min n 15 * sh)

/-- Whether a lane of a reel is out of service. -/
def laneOos (s : State) (reel lane : Nat) : Bool :=
  if lane < 18 then bit (s.rd (Reg.LANE_OOS_L reel)) lane else bit (s.rd (Reg.LANE_OOS_H reel)) (lane - 18)

/-- A lane's out-of-service bit set or cleared. -/
def setLaneOos (s : State) (reel lane : Nat) (b : Bool) : State :=
  let f := if lane < 18 then Reg.LANE_OOS_L reel else Reg.LANE_OOS_H reel
  let i := if lane < 18 then lane else lane - 18
  let w := s.rd f
  s.wr f (w - b2n (bit w i) * 2 ^ i + b2n b * 2 ^ i)

/-- A lane leaves service (R159): the spare substitutes for it, or its lane group's column leaves the card. -/
def laneLeaves (s : State) (reel lane : Nat) : State :=
  let s := setLaneOos s reel lane true
  if s.on (Reg.REEL_STAT_SPARE_SUB reel) ∨ s.on (Reg.REEL_STAT_SPARE_OOS reel) then retireColumn s (4 * reel + lane / 8)
  else (s.flag (Reg.REEL_STAT_SPARE_SUB reel) true).wr (Reg.REEL_STAT_SPARE_LANE reel) lane

/-- The measure count. -/
def State.mcount (s : State) : Nat := s.rd2 Reg.MCOUNT_L Reg.MCOUNT_H

/-- FAULT_LIMIT, where 0 acts as 1 (Table 6.14). -/
def State.faultLimit (s : State) : Nat := max 1 (s.rd Reg.SYM_CTL_FAULT_LIMIT)
/-- The fault window in measures. -/
def State.faultWindow (s : State) : Nat := 2 ^ min 30 (s.rd Reg.SYM_CTL_FAULT_WIN)

/-- A lane's detected fault of known outcome: FLT_LAST, FLT_COUNT, the journal, line 2, and the window count that can retire the
lane, which updates FLT_LAST a second time with OUTCOME 3 (R159). -/
def laneFault (s : State) (reel lane sl real outcome : Nat) : State :=
  let s := fltLast s reel lane sl real outcome false
  let s := s.count (Reg.FLT_COUNT reel) (Reg.REEL_STAT_FCO reel)
  let s := latchFault (laneRecord s reel lane sl real outcome)
  let key := 32 * reel + lane
  let now := s.mcount
  let times := ((tget [] s.floor.faultAt key).filter (fun t => decide (now < t + s.faultWindow))) ++ [now]
  let s := { s with floor := { s.floor with faultAt := tset [] s.floor.faultAt key times } }
  let s := setFwin s reel lane times.length
  if times.length ≥ s.faultLimit ∧ ¬ laneOos s reel lane then
    let s := fltLast s reel lane sl real 3 false
    laneLeaves (laneRecord s reel lane sl real 3) reel lane
  else s

/-- The fate of a block in which lane `i` of the group meets a fault (R157): none when the block still completes, and the state with
the fault recorded. A fault at capture, or one that no idle spare can take, stops the instance at the next boundary. -/
def blockFault (s : State) (a : At) (phys sl : Nat) (k : LaneKey) (al : BitVec 832) : State × Bool :=
  let reel := phys / 32
  let lane := phys % 32
  if sl ≥ 20 then ((noteStop (laneFault s reel lane 31 0 2) a.fs .replayable), false)
  else
    let kinds := pirouette (decision al) 20 (realRounds k.bits)
    let real := nth false kinds sl
    let done := ((kinds.take sl).filter (· = true)).length
    if ¬ real then (laneFault s reel lane sl 0 1, true)
    else if 19 - sl ≥ realRounds k.bits - done ∧ ¬ s.on (Reg.REEL_STAT_SPARE_BUSY reel) ∧
        ¬ s.on (Reg.REEL_STAT_SPARE_SUB reel) ∧ ¬ s.on (Reg.REEL_STAT_SPARE_OOS reel) then
      let s := laneFault (s.flag (Reg.REEL_STAT_SPARE_BUSY reel) true) reel lane sl 1 0
      (launch s a [(360, .spareFree reel)], true)
    else (noteStop (laneFault s reel lane sl 1 2) a.fs .replayable, false)

/-! ### Block operations (R96, R140, R142, R150) -/

/-- The output of a block operation on captured operands, with the new CTR (or CHAIN) where the operation changes it. -/
def blockOut (b : BlockKind) (k : LaneKey) (l : Lane) (t : Block) : Block × Option Block :=
  let key := if k.binding = 3 then k.mat.take (k.mat.length / 2) else k.mat
  match b with
  | .aese => (aesEnc key l.bin, none)
  | .aesd => (aesDec key l.bin, none)
  | .ctre => (aesEnc key l.ctr ^^^ l.bin, some (BitVec.ofNat 128 (ctrAdd (ctrWidth k.binding) l.ctr.toNat 1)))
  | .ctrk => (aesEnc key l.ctr, none)
  | .xtse => (aesEnc key (l.bin ^^^ t) ^^^ t, none)
  | .xtsd => (aesDec key (l.bin ^^^ t) ^^^ t, none)
  | .cbcd => (aesDec key l.bin ^^^ l.ctr, some l.bin)
  | .cmacb => (aesEnc key (l.bin ^^^ l.bout), none)

/-- Does CTRE or CTRK use the last counter value and so leave CTR spent (R150)? -/
def lastCounter (k : LaneKey) (l : Lane) : Bool :=
  decide (l.ctr.toNat % 2 ^ ctrWidth k.binding = 2 ^ ctrWidth k.binding - 1)

/-- One selected lane's block: the allotment is taken, faults decide, and the results are launched. -/
def laneBlock (a : At) (b : BlockKind) (t : Block) (phys : Nat) (s : State) : State :=
  let l := s.lane phys
  match l.key with
  | none => s
  | some k =>
    let al := nth 0 l.rnd 0
    let s := s.setLane phys { l with rnd := l.rnd.drop 1 }
    let hits := a.faults.filter (fun f => decide (f.1 = phys % 8))
    let (s, ok) := hits.foldl (fun (r : State × Bool) f =>
      let (s, ok) := blockFault r.1 a phys f.2 k al; (s, r.2 && ok)) (s, true)
    if ¬ ok then s
    else
      let (o, c) := blockOut b k l t
      let sp := (b = .ctre ∨ b = .ctrk) ∧ lastCounter k l
      let s := launch s a [(360, .bout phys o)]
      match c with
      | some c => launch s a [(360, .ctr phys c (decide sp || l.spent))]
      | none => if sp then launch s a [(360, .ctr phys l.ctr true)] else s

/-- The XT unit's column that the instance holds in the reel of lane group `g`. -/
def xtOfReel (i : Inst) (g : Nat) : Option Nat :=
  let r := g / 4
  if (128 + r) ∈ i.cols then some r else none

/-- A block operation on the selected lanes: a lane without a key is cause 3, a lane whose key cannot serve is cause 4, an exponent
of alpha that reaches 2^20 is cause 4; otherwise every selected lane runs its block. -/
def blockOp (b : BlockKind) (a : At) (u : Nat) (m : BitVec 8) (s : State) : State :=
  issueOn s a uLG u (fun s i g =>
    let ls := lanesOf g m
    let rs := ls.map (fun n => laneRefusal b (s.lane n))
    let x := (xtOfReel i g).getD 32
    let xts := b = .xtse ∨ b = .xtsd
    if 3 ∈ rs then monitor s a 3
    else if 4 ∈ rs then monitor s a 4
    else if xts ∧ (s.xt x).expo + ls.length > 2 ^ 20 then monitor s a 4
    else
      let t := (s.xt x).tweak
      ((List.range ls.length).zip ls).foldl (fun s e => laneBlock a b (xtsPow e.1 t) e.2 s) s)

/-! ### Lane data (major 0x30) -/

/-- HSET (R102). -/
def hsetOp (a : At) (u r : Nat) (s : State) : State :=
  issueOn s a uLG u (fun s _ g => launch s a [(1, .hp g (((s.seq a.fs).reg r).truncate 14))])

/-- The digest units whose tap is bound to a reel. -/
def tappedDus (s : State) (reel : Nat) : List Nat := (List.range 64).filter (fun d => (s.du d).tap = some reel)

/-- HLD: blocks from the hold pointer to BIN, to the tapped digest units when asked (R163, R168), the pointer advanced when asked. -/
def hldOp (a : At) (u : Nat) (m : BitVec 8) (tap adv : Bool) (s : State) : State :=
  issueOn s a uLG u (fun s i g =>
    let ls := lanesOf g m
    let p := ls.length
    let hp := (s.group g).hp
    let (s, bs) := readRings s a i (reelOf i u) hp.toNat p
    let s := launch s a ((ls.zip bs).map (fun e => (3 + p, LandEff.bin e.1 e.2)))
    let s := if tap then
        launch s a ((tappedDus s (g / 4)).map (fun d => (3 + p, LandEff.duAppend d (1 + g) (bs.flatMap octetsOf) false)))
      else s
    if adv then launch s a [(3 + p, .hp g (advanceHp i hp p))] else s)

/-- HST. -/
def hstOp (a : At) (u : Nat) (m : BitVec 8) (adv : Bool) (s : State) : State :=
  issueOn s a uLG u (fun s i g =>
    let ls := lanesOf g m
    let p := ls.length
    let hp := (s.group g).hp
    let s := writeRings s a i (reelOf i u) (3 + p) hp.toNat (ls.map (fun n => (s.lane n).bout))
    if adv then launch s a [(3 + p, .hp g (advanceHp i hp p))] else s)

/-- CTRI (R149, R150): the i-th selected lane takes the base plus i and the base advances by p; refused where a lane's key does not
admit it, where a value passes the width, or where the base is spent. -/
def ctriOp (a : At) (u : Nat) (m : BitVec 8) (s : State) : State :=
  issueOn s a uLG u (fun s i g =>
    let ls := lanesOf g m
    let p := ls.length
    let w := i.baseWidth
    let lowv := i.base % 2 ^ w
    let badKey := ls.any (fun n => match (s.lane n).key with
      | none => false
      | some k => decide (k.binding ≠ 1 ∧ k.binding ≠ 2))
    if badKey ∨ i.baseSpent ∨ (0 < p ∧ lowv + (p - 1) ≥ 2 ^ w) then monitor s a 4
    else
      let s := launch s a (((List.range p).zip ls).map (fun e =>
        (1, LandEff.ctr e.2 (BitVec.ofNat 128 (ctrAdd w i.base e.1)) false)))
      launch s a [(1, .base (ctrAdd w i.base p) (decide (lowv + p ≥ 2 ^ w)))])

/-- XORB and MOVB: one cycle, no key. -/
def xorbOp (a : At) (u : Nat) (m : BitVec 8) (s : State) : State :=
  issueOn s a uLG u (fun s _ g =>
    launch s a ((lanesOf g m).map (fun n => (1, LandEff.bout n ((s.lane n).bout ^^^ (s.lane n).bin)))))

def movbOp (a : At) (u : Nat) (m : BitVec 8) (s : State) : State :=
  issueOn s a uLG u (fun s _ g => launch s a ((lanesOf g m).map (fun n => (1, LandEff.bin n (s.lane n).bout))))

/-- The two chaining blocks of a lane in the order of the record (Config.csaveCtrFirst). -/
def chainBlocks (l : Lane) : List Block := if Config.csaveCtrFirst then [l.ctr, l.bout] else [l.bout, l.ctr]

/-- CSAVE: two blocks a lane at the hold pointer. -/
def csaveOp (a : At) (u : Nat) (m : BitVec 8) (s : State) : State :=
  issueOn s a uLG u (fun s i g =>
    let ls := lanesOf g m
    writeRings s a i (reelOf i u) (3 + 2 * ls.length) (s.group g).hp.toNat (ls.flatMap (fun n => chainBlocks (s.lane n))))

/-- CREST: the chaining state from the hold pointer. -/
def crestOp (a : At) (u : Nat) (m : BitVec 8) (s : State) : State :=
  issueOn s a uLG u (fun s i g =>
    let ls := lanesOf g m
    let L := 3 + 2 * ls.length
    let (s, bs) := readRings s a i (reelOf i u) (s.group g).hp.toNat (2 * ls.length)
    launch s a (((List.range ls.length).zip ls).flatMap (fun e =>
      let x := nth 0 bs (2 * e.1)
      let y := nth 0 bs (2 * e.1 + 1)
      let (c, o) := if Config.csaveCtrFirst then (x, y) else (y, x)
      [(L, LandEff.ctr e.2 c false), (L, LandEff.bout e.2 o)])))

/-- KPUT (R97): BOUT of one lane, or of two lanes lower first, becomes the operand's key at t + 6. -/
def kputOp (a : At) (u : Nat) (m : BitVec 8) (k : Nat) (s : State) : State :=
  issueOn s a uLG u (fun s i g =>
    match nth none i.keys k with
    | none => monitor s a 3
    | some n => launch s a [(6, .slotKey n ((lanesOf g m).flatMap (fun l => octetsOf (s.lane l).bout)))])

/-! ### GHASH (major 0x31) -/

/-- GHK. -/
def ghkOp (a : At) (u lane : Nat) (s : State) : State :=
  issueOn s a uLG u (fun s _ g => launch s a [(2, .gh g (s.lane (8 * g + lane)).bout)])

/-- One absorption of a block into Y over 8 cycles; a mismatch of the duplicated multiplier is a fault of the column (R156). -/
def ghAbsorb (a : At) (u : Nat) (blk : State → Nat → Block) (s : State) : State :=
  issueOn s a uLG u (fun s _ g =>
    if a.faults ≠ [] then unitFault s a g
    else launch s a [(8, .gy g (gfMul ((s.group g).y ^^^ blk s g) (s.group g).h))])

/-- Eight registers' low 16 bits, the first most significant (GHL, TWI). -/
def regBlock (q : Seq) (r : Nat) : List Octet :=
  (List.range 8).flatMap (fun i => beOctets 2 ((q.reg (r + i)).toNat % 65536))

/-- GTAG: Y XOR BOUT at the hold pointer. -/
def gtagOp (a : At) (u lane : Nat) (adv : Bool) (s : State) : State :=
  issueOn s a uLG u (fun s i g =>
    let hp := (s.group g).hp
    let s := writeRing s a i (reelOf i u) hp.toNat 4 ((s.group g).y ^^^ (s.lane (8 * g + lane)).bout)
    if adv then launch s a [(4, .hp g (advanceHp i hp 1))] else s)

/-- GCMP: 1 when Y XOR BOUT equals BIN. -/
def gcmpOp (a : At) (u lane r : Nat) (hr : r < 32) (s : State) : State :=
  issueOn s a uLG u (fun s _ g =>
    let l := s.lane (8 * g + lane)
    launch s a [(4, .freg ⟨r, hr⟩ (if (s.group g).y ^^^ l.bout = l.bin then 1 else 0))])

/-- GCLR. -/
def gclrOp (a : At) (u : Nat) (s : State) : State := issueOn s a uLG u (fun s _ g => launch s a [(1, .gy g 0)])

/-! ### Tweaks (major 0x32) -/

/-- The number that eight registers name as a data-unit number: f(X) most significant, as GHL reads them (DEDUCED, log 12). -/
def unitNumber (q : Seq) (r : Nat) : Nat := ofBe (regBlock q r)

/-- TWI (R142, R150): the tweak under K2 of the data-unit number, taken little-endian as SP 800-38E encodes it; refused without a K2
(cause 3) or when the number does not exceed the instance's previous one (cause 4). -/
def twiOp (a : At) (u r : Nat) (s : State) : State :=
  issueOn s a uXT u (fun s i x =>
    let n := unitNumber (s.seq a.fs) r
    match (s.xt x).k2 with
    | none => monitor s a 3
    | some k2 =>
      if i.lastUnit.any (fun p => decide (n ≤ p)) then monitor s a 4
      else if a.faults ≠ [] then unitFault s a (128 + x)
      else
        let s := s.onInst a.fs (fun i => { i with lastUnit := some n })
        launch s a [(360, .tweak x (aesEnc k2 (blockOf (leOctets 16 n))) 0)])

/-- TWN (R150): the tweak times alpha; refused when it would use alpha^(2^20). -/
def twnOp (a : At) (u : Nat) (s : State) : State :=
  issueOn s a uXT u (fun s _ x =>
    let t := s.xt x
    if t.expo + 1 ≥ 2 ^ 20 then monitor s a 4
    else if a.faults ≠ [] then unitFault s a (128 + x)
    else launch s a [(2, .tweak x (xtsAlpha t.tweak) (t.expo + 1))])

/-! ### Key delivery (major 0x38) -/

/-- A key-bus delivery of operand `k` to a destination class: nothing to deliver is cause 3, a refused delivery cause 4. -/
def deliver (a : At) (i : Inst) (k cls : Nat) (s : State) (f : KSlot → State) : State :=
  -- a KPUT target holds the forward form only (R235)
  if i.hdr.nKeys ≤ k ∧ (cls = 1 ∨ cls = 2) then monitor s a 3
  else match operandSlot s i k with
  | none => monitor s a 3
  | some (_, sl) => if classAdmits i.hdr.fid cls i.dir sl then f sl else monitor s a 4

/-- KLANE (R141): the form that the operand's KEY_DECL entry chooses; K1 of an XTS slot is its first half. -/
def klaneOp (a : At) (u : Nat) (m : BitVec 8) (k : Nat) (s : State) : State :=
  issueOn s a uLG u (fun s i g =>
    let inv := ¬ bit (declClasses i k) 0 ∧ bit (declClasses i k) 1
    deliver a i k (if inv then 1 else 0) s (fun sl =>
      let bits := if sl.binding = 3 then sl.bits / 2 else sl.bits
      launch s a ((lanesOf g m).map (fun n => (8, LandEff.key n ⟨sl.mat, bits, decide inv, sl.binding, sl.attr⟩)))))

/-- KGH: the slot's GCM hash subkey. -/
def kghOp (a : At) (u k : Nat) (s : State) : State :=
  issueOn s a uLG u (fun s i g => deliver a i k 2 s (fun sl => launch s a [(8, .gh g (aesEnc sl.mat 0))]))

/-- KXT: K2 of the slot. -/
def kxtOp (a : At) (u k : Nat) (s : State) : State :=
  issueOn s a uXT u (fun s i x =>
    deliver a i k 3 s (fun sl => launch s a [(8, .k2 x (sl.mat.drop (sl.mat.length / 2)))]))

/-! ### The meanings -/

def execHset (a : At) (u r : Fin 32) (s : State) : Out := done (hsetOp a u r s)
def execHld (a : At) (u : Fin 32) (m : BitVec 8) (tap adv : Bool) (s : State) : Out := done (hldOp a u m tap adv s)
def execHst (a : At) (u : Fin 32) (m : BitVec 8) (adv : Bool) (s : State) : Out := done (hstOp a u m adv s)
def execAese (a : At) (u : Fin 32) (m : BitVec 8) (s : State) : Out := done (blockOp .aese a u m s)
def execAesd (a : At) (u : Fin 32) (m : BitVec 8) (s : State) : Out := done (blockOp .aesd a u m s)
def execCtre (a : At) (u : Fin 32) (m : BitVec 8) (s : State) : Out := done (blockOp .ctre a u m s)
def execCtrk (a : At) (u : Fin 32) (m : BitVec 8) (s : State) : Out := done (blockOp .ctrk a u m s)
def execCtri (a : At) (u : Fin 32) (m : BitVec 8) (s : State) : Out := done (ctriOp a u m s)
def execXorb (a : At) (u : Fin 32) (m : BitVec 8) (s : State) : Out := done (xorbOp a u m s)
def execMovb (a : At) (u : Fin 32) (m : BitVec 8) (s : State) : Out := done (movbOp a u m s)
def execXtse (a : At) (u : Fin 32) (m : BitVec 8) (s : State) : Out := done (blockOp .xtse a u m s)
def execXtsd (a : At) (u : Fin 32) (m : BitVec 8) (s : State) : Out := done (blockOp .xtsd a u m s)
def execCbcd (a : At) (u : Fin 32) (m : BitVec 8) (s : State) : Out := done (blockOp .cbcd a u m s)
def execCmacb (a : At) (u : Fin 32) (m : BitVec 8) (s : State) : Out := done (blockOp .cmacb a u m s)
def execCsave (a : At) (u : Fin 32) (m : BitVec 8) (s : State) : Out := done (csaveOp a u m s)
def execCrest (a : At) (u : Fin 32) (m : BitVec 8) (s : State) : Out := done (crestOp a u m s)
def execKput (a : At) (u : Fin 32) (m : BitVec 8) (k : Fin 8) (s : State) : Out := done (kputOp a u m k s)
def execGhk (a : At) (u : Fin 32) (lane : Fin 8) (s : State) : Out := done (ghkOp a u lane s)
def execGha (a : At) (u : Fin 32) (lane : Fin 8) (s : State) : Out :=
  done (ghAbsorb a u (fun s g => (s.lane (8 * g + lane)).bout) s)
def execGhb (a : At) (u : Fin 32) (lane : Fin 8) (s : State) : Out :=
  done (ghAbsorb a u (fun s g => (s.lane (8 * g + lane)).bin) s)
def execGhl (a : At) (u : Fin 32) (r : Fin 25) (s : State) : Out :=
  done (ghAbsorb a u (fun s _ => blockOf (regBlock (s.seq a.fs) r)) s)
def execGtag (a : At) (u : Fin 32) (lane : Fin 8) (adv : Bool) (s : State) : Out := done (gtagOp a u lane adv s)
def execGcmp (a : At) (u : Fin 32) (lane : Fin 8) (r : Fin 32) (s : State) : Out := done (gcmpOp a u lane r r.isLt s)
def execGclr (a : At) (u : Fin 32) (s : State) : Out := done (gclrOp a u s)
def execTwi (a : At) (u : Fin 32) (r : Fin 25) (s : State) : Out := done (twiOp a u r s)
def execTwn (a : At) (u : Fin 32) (s : State) : Out := done (twnOp a u s)
def execKlane (a : At) (u : Fin 32) (m : BitVec 8) (k : Fin 8) (s : State) : Out := done (klaneOp a u m k s)
def execKgh (a : At) (u : Fin 32) (k : Fin 8) (s : State) : Out := done (kghOp a u k s)
def execKxt (a : At) (u : Fin 32) (k : Fin 8) (s : State) : Out := done (kxtOp a u k s)

end Sys2Proof.Machine
end

