-- ==== Sys2Proof/Machine/FloorDigest.lean ====
section
/-! DEFINITION. The digest units (spec/07, R161 to R175; major 0x34 of Table 4.3). -/
namespace Sys2Proof.Machine

/-- The block length or rate of an algorithm code, in octets (Table 7.1). -/
def dRate (alg : Nat) : Nat :=
  match alg with
  | 1 | 2 => 64
  | 3 | 4 | 5 => 128
  | 8 => 136 | 9 => 104 | 10 => 72 | 11 => 168 | 12 => 136 | 13 => 168 | 14 => 136 | 15 => 192
  | _ => 0

/-- Octets that one DOUT delivers (Table 7.1). -/
def dOut (alg : Nat) : Nat :=
  match alg with
  | 1 => 28 | 2 => 32 | 3 => 48 | 4 => 64 | 5 => 32 | 8 => 32 | 9 => 48 | 10 => 64 | 11 => 32 | 12 => 64 | 13 => 32
  | 14 => 64 | 15 => 64
  | _ => 0

/-- The latency of DCOMP (Table 7.1). -/
def dLat (alg : Nat) : Nat := if alg ≤ 2 then 66 else if alg ≤ 5 then 82 else 26

/-- A SHA-2 algorithm. -/
def isSha2 (alg : Nat) : Bool := decide (1 ≤ alg ∧ alg ≤ 5)
/-- A code that names an algorithm. -/
def algValid (alg : Nat) : Bool := decide (dRate alg ≠ 0)

/-- The initial 200-octet state: the standard chaining value, or zeros (R162). -/
def dInit (alg : Nat) : List Octet :=
  fitOctets 200 (match alg with
    | 1 => iv224 | 2 => iv256 | 3 => iv384 | 4 => iv512 | 5 => iv512256 | _ => [])

/-- A unit set to the initial state of an algorithm (R162); DINIT also ends a tap binding (R168). -/
def duFresh (alg : Nat) : DigestUnit := ⟨alg, dInit alg, 0, [], [], [], false, false, none, 0, true⟩

/-- One compression or permutation of a state by a block of R octets. -/
def dCompress (alg : Nat) (st blk : List Octet) : List Octet :=
  if alg ≤ 2 then fitOctets 200 (compress256 (st.take 32) blk)
  else if alg ≤ 5 then fitOctets 200 (compress512 (st.take 64) blk)
  else keccakF (absorbAt st 0 blk)

/-- The suffix of a Keccak algorithm's padding (R165). -/
def dSuffix (alg : Nat) : Octet := if alg ≤ 10 then 0x06 else if alg ≤ 12 then 0x1F else 0x04

/-- The state after DFIN: padding, then one compression or two (R165). KECCAK mode permutes without padding (R167). -/
def dFinish (u : DigestUnit) : List Octet :=
  let r := dRate u.alg
  if u.alg = 15 then keccakF u.st
  else
    let p := if isSha2 u.alg then sha2Pad r u.buf u.len else keccakPad r (dSuffix u.alg) u.buf
    (List.range (p.length / r)).foldl (fun st i => dCompress u.alg st (octAt p (r * i) r)) u.st

/-- An operation on a digest unit; a mismatch of its predicted parity is a fault of its column (R176). -/
def duOp (a : At) (u : Nat) (op : State → Inst → Nat → State) (s : State) : State :=
  issueOn s a uDU u (fun s i d => if a.faults ≠ [] then unitFault s a (160 + d) else op s i d)

/-- The lane group bound to a logical unit that a digest operation names; a cell that is not held is cause 1. -/
def withGroup (s : State) (a : At) (i : Inst) (lg : Nat) (f : Nat → State) : State :=
  match boundCol i uLG lg a.cyc with
  | none => cellFault s a i lg
  | some g => f g

/-- DINIT (R162). -/
def dinitOp (a : At) (u alg : Nat) (s : State) : State :=
  duOp a u (fun s _ d => launch s a [(2, .duNew d (duFresh alg))]) s

/-- DABS (R163): 16 octets of a lane's BIN or BOUT. -/
def dabsOp (a : At) (u lg lane : Nat) (bout : Bool) (s : State) : State :=
  duOp a u (fun s i d => withGroup s a i lg (fun g =>
    let l := s.lane (8 * g + lane)
    launch s a [(1, .duAppend d 200 (octetsOf (if bout then l.bout else l.bin)) false)])) s

/-- DCOMP (R164, R167): in the absorbing phase the first R octets of the buffer, filled with zeros; in the squeeze phase a
permutation that appends R octets, of which the buffer keeps 2R. -/
def dcompOp (a : At) (u : Nat) (s : State) : State :=
  duOp a u (fun s _ d =>
    let x := s.du d
    let r := dRate x.alg
    if x.alg = 15 then
      let s := s.setDu d { x with apos := 0 }
      let st := keccakF x.st
      launch s a [(26, .duState d st (if x.absorbing then [] else (st.take r).take (2 * r - x.sq.length)))]
    else if x.absorbing ∨ x.alg < 11 then
      let s := s.setDu d { x with buf := x.buf.drop r }
      launch s a [(dLat x.alg, .duState d (dCompress x.alg x.st (fitOctets r x.buf)) [])]
    else
      let st := keccakF x.st
      launch s a [(26, .duState d st ((st.take r).take (2 * r - x.sq.length)))]) s

/-- DFIN (R165). A buffer that holds R octets or more gives the digest of no message: the result is then a free value (log 13). -/
def dfinOp (a : At) (u : Nat) (s : State) : State :=
  duOp a u (fun s _ d =>
    let x := s.du d
    let r := dRate x.alg
    let L := if isSha2 x.alg then 2 * dLat x.alg else dLat x.alg
    let (st, s) := if x.alg ≠ 15 ∧ r ≤ x.buf.length then s.freeOctets 200 else (dFinish x, s)
    let s := s.setDu d { s.du d with buf := [] }
    launch s a [(L, .duFinal d st (st.take (dOut x.alg)) (if isSha2 x.alg then [] else st.take r))]) s

/-- What DOUT reads and whether it is an early read (R166, R167): zeros while FINAL is 0, and zeros for squeeze octets that are
missing. -/
def dRead (x : DigestUnit) : List Octet × Bool × DigestUnit :=
  let n := dOut x.alg
  if ¬ x.final then (List.replicate n 0, true, x)
  else if x.alg = 15 then (fitOctets n (x.st.take 64), false, x)
  else if 11 ≤ x.alg then
    (fitOctets n (x.sq.take n), decide (x.sq.length < n), { x with sq := x.sq.drop n })
  else (fitOctets n x.dig, false, x)

/-- DOUT (R166, R171): to the hold pointer of a lane group, or to the fixity field. -/
def doutOp (a : At) (u : Nat) (lg : Option Nat) (s : State) : State :=
  duOp a u (fun s i d =>
    let (o, early, x) := dRead (s.du d)
    let s := s.setDu d x
    let s := if early then s.onInst a.fs (fun i => { i with earlyRead := true }) else s
    match lg with
    | none => launch s a [(4, .fixity x.alg o)]
    | some lg => withGroup s a i lg (fun g =>
        writeRings s a i (reelOf i lg) 4 (s.group g).hp.toNat (blocksOf o))) s

/-- Does DPAD accept the unit's algorithm, the key length and X[3] (R175)? -/
def padAccepts (alg bits : Nat) (opad : Bool) : Bool :=
  if alg = 1 ∨ alg = 2 then decide (8 ≤ bits ∧ bits ≤ 512 ∧ bits % 8 = 0)
  else if alg = 3 ∨ alg = 4 ∨ alg = 5 then decide (8 ≤ bits ∧ bits ≤ 1024 ∧ bits % 8 = 0)
  else if alg = 13 ∨ alg = 14 then decide (128 ≤ bits ∧ bits ≤ 512) && !opad
  else false

/-- The key-pad block (R175). -/
def padBlock (alg : Nat) (key : List Octet) (opad : Bool) : List Octet :=
  let r := dRate alg
  if alg ≤ 5 then (fitOctets r key).map (fun o => o ^^^ (if opad then 0x5C else 0x36))
  else fitOctets r (bytepad (encodeString key) r)

/-- DPAD (R175): the key operand through the key-pad port; KEYED sets with the octets. -/
def dpadOp (a : At) (u k : Nat) (opad : Bool) (s : State) : State :=
  duOp a u (fun s i d =>
    deliver a i k 4 s (fun sl =>
      let x := s.du d
      if padAccepts x.alg sl.bits opad then
        launch s a [(14, .duAppend d 0 (padBlock x.alg (sl.mat.take (sl.bits / 8)) opad) true)]
      else monitor s a 4)) s

/-- The digest state record (Table 7.5). -/
def stateRecord (x : DigestUnit) : List Octet :=
  [0x43, 0x4B, 0x44, 0x53, 0x01, BitVec.ofNat 8 x.alg, 0, 0] ++ leOctets 16 x.len ++ List.replicate 8 0 ++
    fitOctets 200 x.st ++ List.replicate 24 0

/-- DSAVE (R172, R173). -/
def dsaveOp (a : At) (u lg : Nat) (s : State) : State :=
  duOp a u (fun s i d =>
    let x := s.du d
    if x.keyed then monitor s a 4
    else if x.buf ≠ [] ∨ ¬ x.absorbing then s.onInst a.fs (fun i => { i with digErr := true })
    else withGroup s a i lg (fun g =>
      writeRings s a i (reelOf i lg) 16 (s.group g).hp.toNat (blocksOf (stateRecord x)))) s

/-- Does a digest state record pass the checks of R172? -/
def recordOk (r : List Octet) : Bool :=
  let alg := leAt r 5 1
  let chainLen := if alg ≤ 2 then 32 else 64
  decide (r.take 5 = [0x43, 0x4B, 0x44, 0x53, 0x01]) && algValid alg && decide (alg ≠ 15) &&
    decide (octAt r 6 2 = [0, 0]) && (octAt r 0x18 8).all (· = 0) && (octAt r 0xE8 24).all (· = 0) &&
    (!isSha2 alg || ((octAt r 0x20 200).drop chainLen).all (· = 0)) && decide (leAt r 8 16 % dRate alg = 0)

/-- DREST (R172): a record that fails its checks sets the digest-state error and leaves the initial state of its ALG. -/
def drestOp (a : At) (u lg : Nat) (s : State) : State :=
  duOp a u (fun s i d => withGroup s a i lg (fun g =>
    let (s, bs) := readRings s a i (reelOf i lg) (s.group g).hp.toNat 16
    let r := bs.flatMap octetsOf
    let alg := leAt r 5 1
    let tap := (s.du d).tap
    if recordOk r then
      launch s a [(16, .duNew d { duFresh alg with st := octAt r 0x20 200, len := leAt r 8 16, tap := tap })]
    else
      let s := s.onInst a.fs (fun i => { i with digErr := true })
      launch s a [(16, .duNew d { duFresh (if algValid alg then alg else 2) with tap := tap })])) s

/-- DTAP (R168): bound from t + 1 to the tap of the lane group's reel. -/
def dtapOp (a : At) (u lg : Nat) (s : State) : State :=
  duOp a u (fun s i d => withGroup s a i lg (fun g => launch s a [(1, .duTap d (g / 4))])) s

def execDinit (a : At) (u : Fin 32) (alg : BitVec 4) (s : State) : Out := done (dinitOp a u alg.toNat s)
def execDabs (a : At) (u lg : Fin 32) (lane : Fin 8) (bout : Bool) (s : State) : Out := done (dabsOp a u lg lane bout s)
def execDcomp (a : At) (u : Fin 32) (s : State) : Out := done (dcompOp a u s)
def execDfin (a : At) (u : Fin 32) (s : State) : Out := done (dfinOp a u s)
def execDout (a : At) (u : Fin 32) (lg : Option (Fin 32)) (s : State) : Out := done (doutOp a u (lg.map (fun x => x.val)) s)
def execDpad (a : At) (u : Fin 32) (k : Fin 8) (opad : Bool) (s : State) : Out := done (dpadOp a u k opad s)
def execDsave (a : At) (u lg : Fin 32) (s : State) : Out := done (dsaveOp a u lg s)
def execDrest (a : At) (u lg : Fin 32) (s : State) : Out := done (drestOp a u lg s)
def execDtap (a : At) (u lg : Fin 32) (s : State) : Out := done (dtapOp a u lg s)

end Sys2Proof.Machine
end

