-- ==== Sys2Proof/Machine/FloorNum.lean ====
section
/-! DEFINITION. The number units (spec/08; majors 0x36 and 0x37, KNU and RNDN): loose and canonical numbers, the modular
commands, the lattice commands, transfers, rejection. -/
namespace Sys2Proof.Machine

/-- Words of an operand memory (R183). -/
def nuWords : Nat := 49152

/-- The value of a number given by its limbs (R184). -/
def limbVal : List Nat → Nat
  | [] => 0
  | l :: ls => l + 2 ^ 16 * limbVal ls

/-- `n` canonical limbs of a value (R184). -/
def limbs : Nat → Nat → List Nat
  | 0, _ => []
  | n + 1, v => v % 2 ^ 16 :: limbs n (v / 2 ^ 16)

/-- `n` limbs of a value whose top limb keeps what does not fit. -/
def limbsTop : Nat → Nat → List Nat
  | 0, _ => []
  | 1, v => [v]
  | n + 2, v => v % 2 ^ 16 :: limbsTop (n + 1) (v / 2 ^ 16)

/-- Carries moved down into the guard bits where they fit; the value is unchanged. -/
def spread (k : Nat → Nat) : Nat → List Nat → List Nat
  | _, [] => []
  | _, [x] => [x]
  | i, x :: y :: rest =>
    let c := k i % 4
    if c ≤ y ∧ x + c * 2 ^ 16 < 2 ^ 18 then (x + c * 2 ^ 16) :: spread k (i + 1) ((y - c) :: rest)
    else x :: spread k (i + 1) (y :: rest)

/-- A range of operand memory, read as numbers; none when it passes the end or holds a word not written (R186, R187). -/
def nuRead (u : NumUnit) (p n : Nat) : Option (List Nat) :=
  if p + n ≤ nuWords ∧ (List.range n).all (fun i => tget false u.wr (p + i)) then
    some ((List.range n).map (fun i => (tget 0 u.mem (p + i)).toNat))
  else none

/-- What a command that does not reject does when it lands: words written and other effects. -/
structure NuRes where
  writes : List (Nat × List Nat)
  effs : List LandEff
  deriving DecidableEq, Repr

/-- The words of a destination that lie in the memory. -/
def nuZero (d : Nat × Nat) : Nat × List Nat := (d.1, List.replicate (min d.2 (nuWords - d.1)) 0)

/-- The landing of words. -/
def nuWrite (n : Nat) (w : Nat × List Nat) : LandEff := .nuMem n w.1 (w.2.map (fun v => BitVec.ofNat 18 v))

/-- A number-unit operation: operands are read at issue; the results land after `lat` FAB cycles; a rejection writes zeros to the
whole destination, marks it written and sets REJ (R192, R193, R195). A residue mismatch is a fault of the column (R200). -/
def nuOp (a : At) (u : Nat) (lat : NumUnit → Nat) (dests : NumUnit → List (Nat × Nat))
    (run : Nat → Inst → NumUnit → Option NuRes) (s : State) : State :=
  issueOn s a uNU u (fun s i n =>
    if a.faults ≠ [] then unitFault s a (224 + n)
    else
      let x := s.nu n
      let inRange := (dests x).all (fun d => decide (d.1 + d.2 ≤ nuWords))
      match (if inRange then run n i x else none) with
      | some r => launch s a (r.writes.map (fun w => (lat x, nuWrite n w)) ++ r.effs.map (fun e => (lat x, e)))
      | none => launch s a ((dests x).map (fun d => (lat x, nuWrite n (nuZero d))) ++ [(lat x, .nuRej n)]))

/-- The address in an A register. -/
def NumUnit.addr (u : NumUnit) (r : Fin 16) : Nat := u.a[r].toNat

/-- LEN as a valid length (R189). -/
def NumUnit.n? (u : NumUnit) : Option Nat := if u.len = 0 then none else some u.len

/-! ### Latencies (Table 8.2), in FAB cycles: twice the NUM formula -/

def cdiv (x y : Nat) : Nat := (x + y - 1) / y
def latAdd (n : Nat) : Nat := 2 * (4 + cdiv n 32)
def latNorm (n : Nat) (dbl : Bool) : Nat := 2 * ((10 + 4 * cdiv n 32) * (if dbl then 2 else 1))
def numMul (n : Nat) : Nat := 16 + cdiv n 16 * cdiv n 4
def numSqr (n : Nat) : Nat := 16 + cdiv (3 * (cdiv n 16 * cdiv n 4)) 4
def latInv (n : Nat) : Nat := 2 * (32 + 46 * n * cdiv n 32)
def latExp (n e : Nat) : Nat :=
  2 * (if n ≤ 256 then 24 + (e + 3) * numSqr n + (11 + e / 4) * numMul n + e / 4 * (4 + 16 * cdiv n 64)
       else 24 + 2 * e * numMul n)
def latSet (n : Nat) (given : Bool) : Nat := 2 * (if given then 8 + 2 * cdiv n 32 else 64 + 32 * n * cdiv n 32)
def latChk (n : Nat) : Nat := 2 * (6 + 2 * cdiv n 32)
def latScan (w k : Nat) : Nat := 2 * (4 + k * cdiv w 64)
def latEq (n : Nat) : Nat := 2 * (12 + 4 * cdiv n 32)
def numNtt (l w : Nat) : Nat := 8 + l * (128 / (if w = 2 then 4 else 8) + 4)

/-! ### Modular arithmetic -/

/-- x^e mod m over the bits of e, `k` of them. -/
def modPow (m : Nat) : Nat → Nat → Nat → Nat → Nat
  | 0, _, _, r => r
  | k + 1, x, e, r => modPow m k (x * x % m) (e / 2) (if e % 2 = 1 then r * x % m else r)

/-- Extended Euclid with fuel: the inverse of `a` modulo `m` when gcd is 1. -/
def invAux (m : Nat) : Nat → Nat → Nat → Int → Int → Option Nat
  | 0, _, _, _, _ => none
  | k + 1, r0, r1, t0, t1 =>
    if r1 = 0 then (if r0 = 1 then some ((t0 % (m : Int)).toNat) else none)
    else invAux m k r1 (r0 % r1) t1 (t0 - (r0 / r1 : Nat) * t1)

/-- The inverse of `a` modulo `m`. -/
def modInv (a m : Nat) : Option Nat := invAux m (2 * Nat.log2 m + 4) m (a % m) 0 1

/-- The Montgomery radix for n limbs (R185). -/
def montR (n : Nat) : Nat := 2 ^ (16 * (n + 1))

/-- R⁻¹ mod m, for odd m. -/
def montRinv (n m : Nat) : Nat := (modInv (montR n) m).getD 0

/-- A modular result of n limbs: canonical, below 2m; which of r and r + m is a free value (R185, log 14). -/
def modResult (n m x y r : Nat) : List Nat :=
  limbs n (if Config.redundant m x y ∧ r + m < 2 ^ (16 * n) then r + m else r)

/-- An operand of the modular commands: n limbs whose value is below 4m (R185). -/
def modOperand (u : NumUnit) (c : ModCtx) (n p : Nat) : Option Nat := do
  let ws ← nuRead u p n
  let v := limbVal ws
  if v < 4 * c.m then some v else none

/-- LADD (R185): limb by limb, rejecting where a limb overflows. -/
def laddOp (a : At) (u : Nat) (d x y : Fin 16) (s : State) : State :=
  nuOp a u (fun n => latAdd n.len) (fun n => [(n.addr d, n.len)]) (fun _ _ n => do
    let k ← n.n?
    let p ← nuRead n (n.addr x) k
    let q ← nuRead n (n.addr y) k
    let r := List.zipWith (· + ·) p q
    if r.all (fun v => decide (v < 2 ^ 18)) then some ⟨[(n.addr d, r)], []⟩ else none) s

/-- LSUB (R185): a - b + 4m limb by limb against the context's form of 4m; b must be below 4m. -/
def lsubOp (a : At) (u : Nat) (d x y : Fin 16) (s : State) : State :=
  nuOp a u (fun n => latAdd n.len) (fun n => [(n.addr d, n.len)]) (fun _ _ n => do
    let k ← n.n?
    let c ← n.mctx
    let p ← nuRead n (n.addr x) k
    let q ← nuRead n (n.addr y) k
    let _ ← modOperand n c k (n.addr y)
    let pm := List.zipWith (· + ·) p c.m4
    let r := if (pm.zip q).all (fun e => decide (e.2 ≤ e.1)) then List.zipWith (· - ·) pm q
      else let v := limbVal p + limbVal c.m4 - limbVal q
           spread (Config.looseCarry v) 0 (limbsTop k v)
    if r.all (fun v => decide (v < 2 ^ 18)) then some ⟨[(n.addr d, r)], []⟩ else none) s

/-- MNORM (R193). -/
def mnormOp (a : At) (u : Nat) (d x : Fin 16) (dbl : Bool) (s : State) : State :=
  nuOp a u (fun n => latNorm n.len dbl) (fun n => [(n.addr d, n.len)]) (fun _ _ n => do
    let k ← n.n?
    let c ← n.mctx
    let v ← if dbl then (nuRead n (n.addr x) (2 * k)).map limbVal else modOperand n c k (n.addr x)
    some ⟨[(n.addr d, limbs k (v % c.m))], []⟩) s

/-- MMUL and MSQR: a × b × R⁻¹ mod m. -/
def mmulOp (a : At) (u : Nat) (d x y : Fin 16) (lat : Nat → Nat) (s : State) : State :=
  nuOp a u (fun n => 2 * lat n.len) (fun n => [(n.addr d, n.len)]) (fun _ _ n => do
    let k ← n.n?
    let c ← n.mctx
    let p ← modOperand n c k (n.addr x)
    let q ← modOperand n c k (n.addr y)
    some ⟨[(n.addr d, modResult k c.m p q (p * q * montRinv k c.m % c.m))], []⟩) s

/-- The scratch area of MINV, MEXP and MSET, zero and written when they end (R186). -/
def scratchZero : Nat × List Nat := (32768, List.replicate 16384 0)

/-- MINV: a⁻¹ × R² mod m; rejects when gcd(a, m) ≠ 1. -/
def minvOp (a : At) (u : Nat) (d x : Fin 16) (s : State) : State :=
  nuOp a u (fun n => latInv n.len) (fun n => [(n.addr d, n.len)]) (fun _ _ n => do
    let k ← n.n?
    let c ← n.mctx
    let p ← modOperand n c k (n.addr x)
    let i ← modInv p c.m
    some ⟨[scratchZero, (n.addr d, modResult k c.m p 0 (i * montR k * montR k % c.m))], []⟩) s

/-- MEXP: a^e × R^(1-e) mod m, with e of E = 64 (opt + 1) bits at b. -/
def mexpOp (a : At) (u : Nat) (d x y : Fin 16) (opt : Nat) (s : State) : State :=
  let e := 64 * (opt + 1)
  nuOp a u (fun n => latExp n.len e) (fun n => [(n.addr d, n.len)]) (fun _ _ n => do
    let k ← n.n?
    let c ← n.mctx
    let p ← modOperand n c k (n.addr x)
    let ex ← nuRead n (n.addr y) (e / 16)
    let base := p * montRinv k c.m % c.m
    let r := modPow c.m e base (limbVal ex) 1 * montR k % c.m
    some ⟨[scratchZero, (n.addr d, modResult k c.m p (limbVal ex) r)], []⟩) s

/-- MSET: the modulus context, computed or taken as supplied; rejects an even modulus, one below 3, or a zero top limb. -/
def msetOp (a : At) (u : Nat) (x : Fin 16) (given : Bool) (s : State) : State :=
  nuOp a u (fun n => latSet n.len given) (fun _ => []) (fun nn _ n => do
    let k ← n.n?
    let ws ← nuRead n (n.addr x) k
    let m := limbVal ws
    if m % 2 = 0 ∨ m < 3 ∨ nth 0 ws (k - 1) = 0 then none
    else if given then do
      let r2 ← nuRead n (n.addr x + k) k
      let m4 ← nuRead n (n.addr x + 2 * k) k
      let mp ← nuRead n (n.addr x + 3 * k) 1
      some ⟨[scratchZero], [.nuMod nn ⟨m, nth 0 mp 0, limbVal r2, m4⟩]⟩
    else
      let mp := (2 ^ 16 - (modInv m (2 ^ 16)).getD 0) % 2 ^ 16
      some ⟨[scratchZero], [.nuMod nn ⟨m, mp, montR k * montR k % m,
        spread (Config.looseCarry (4 * m)) 0 (limbsTop k (4 * m))⟩]⟩) s

/-- MCHK: rejects unless a is canonical, below m and, when asked, not zero. -/
def mchkOp (a : At) (u : Nat) (x : Fin 16) (nonzero : Bool) (s : State) : State :=
  nuOp a u (fun n => latChk n.len) (fun _ => []) (fun _ _ n => do
    let k ← n.n?
    let c ← n.mctx
    let ws ← nuRead n (n.addr x) k
    if ws.all (fun w => decide (w < 2 ^ 16)) ∧ limbVal ws < c.m ∧ (¬ nonzero ∨ limbVal ws ≠ 0) then some ⟨[], []⟩
    else none) s

/-- MSEL: one of two operands by bit 0 of the word at A_s. -/
def mselOp (a : At) (u : Nat) (d x y sel : Fin 16) (s : State) : State :=
  nuOp a u (fun n => latAdd n.len) (fun n => [(n.addr d, n.len)]) (fun _ _ n => do
    let k ← n.n?
    let p ← nuRead n (n.addr x) k
    let q ← nuRead n (n.addr y) k
    let b ← nuRead n (n.addr sel) 1
    some ⟨[(n.addr d, if nth 0 b 0 % 2 = 0 then p else q)], []⟩) s

/-- MSCAN: entry j of a table of k entries of w words; rejects when j ≥ k. -/
def mscanOp (a : At) (u : Nat) (d x y : Fin 16) (opt : Nat) (s : State) : State :=
  let k := opt / 4 + 1
  nuOp a u (fun n => latScan (n.len * (opt % 4 + 1)) k) (fun n => [(n.addr d, n.len * (opt % 4 + 1))]) (fun _ _ n => do
    let l ← n.n?
    let w := l * (opt % 4 + 1)
    let t ← nuRead n (n.addr x) (k * w)
    let j ← nuRead n (n.addr y) 1
    if nth 0 j 0 < k then some ⟨[(n.addr d, (t.drop (nth 0 j 0 * w)).take w)], []⟩ else none) s

/-- MEQ: 1 when a and b are congruent modulo m. -/
def meqOp (a : At) (u : Nat) (d x y : Fin 16) (s : State) : State :=
  nuOp a u (fun n => latEq n.len) (fun n => [(n.addr d, 1)]) (fun _ _ n => do
    let k ← n.n?
    let c ← n.mctx
    let p ← modOperand n c k (n.addr x)
    let q ← modOperand n c k (n.addr y)
    some ⟨[(n.addr d, [if p % c.m = q % c.m then 1 else 0])], []⟩) s

/-! ### Lattice commands -/

/-- Coefficients of W words each. -/
def coeffs (w : Nat) (ws : List Nat) : List Nat :=
  if w = 2 then (List.range (ws.length / 2)).map (fun i => nth 0 ws (2 * i) + 2 ^ 18 * nth 0 ws (2 * i + 1)) else ws

/-- The words of coefficients of W words each. -/
def coeffWords (w : Nat) (cs : List Nat) : List Nat :=
  if w = 2 then cs.flatMap (fun c => [c % 2 ^ 18, c / 2 ^ 18]) else cs

/-- A polynomial of 256 coefficients at an address. -/
def polyAt (u : NumUnit) (c : LatCtx) (p : Nat) : Option (List Nat) := (nuRead u p (256 * c.w)).map (coeffs c.w)

/-- The lattice width of a unit, for destinations and latencies: that of its last LSET, whatever came of it (R193); 1 before any (DEDUCED, log 16). -/
def NumUnit.w (u : NumUnit) : Nat := if u.lw = 2 then 2 else 1

/-- A lattice command: the context, a destination polynomial, the computed coefficients. -/
def latticeOp (a : At) (u : Nat) (lat : Nat → Nat) (d : Fin 16)
    (run : NumUnit → LatCtx → Option (List Nat)) (s : State) : State :=
  nuOp a u (fun n => 2 * lat n.w) (fun n => [(n.addr d, 256 * n.w)]) (fun _ _ n => do
    let c ← n.lctx
    let r ← run n c
    some ⟨[(n.addr d, coeffWords c.w (r.map (· % c.q)))], []⟩) s

/-- The lattice context that LSET takes from q (a double word) and 256 twiddle entries: none for an even q, q below 3, or q of 12W bits or
more. -/
def latticeCtx (n : NumUnit) (p w : Nat) : Option LatCtx := do
  let ws ← nuRead n p (2 + 256 * w)
  let q := nth 0 ws 0 + 2 ^ 18 * nth 0 ws 1
  if q % 2 = 0 ∨ q < 3 ∨ q ≥ 2 ^ (12 * w) then none else some ⟨w, q, coeffs w (ws.drop 2), nth 0 ws 1⟩

/-- LSET: the context, or a rejection; the width is that of the command either way. -/
def lsetOp (a : At) (u : Nat) (x : Fin 16) (wide : Bool) (s : State) : State :=
  let w := if wide then 2 else 1
  issueOn s a uNU u (fun s _ n =>
    if a.faults ≠ [] then unitFault s a (224 + n)
    else launch s a [(48, .nuWidth n w), (48, match latticeCtx (s.nu n) ((s.nu n).addr x) w with
      | some c => .nuLat n c
      | none => .nuRej n)])

/-- One forward butterfly layer: blocks of 2·len, zeta index from `k`. -/
def nttLayer (q : Nat) (tw : List Nat) (len k : Nat) (f : List Nat) : List Nat :=
  (List.range 256).map (fun j =>
    let b := j / (2 * len)
    let z := nth 0 tw (k + b)
    if j % (2 * len) < len then (nth 0 f j + z * nth 0 f (j + len)) % q
    else (nth 0 f (j - len) + (q - z * nth 0 f j % q)) % q)

/-- The forward transform with `l` layers left at half-length `len`. -/
def nttRun (q : Nat) (tw : List Nat) : Nat → Nat → Nat → List Nat → List Nat
  | 0, _, _, f => f
  | l + 1, len, k, f => nttRun q tw l (len / 2) (2 * k) (nttLayer q tw len k f)

/-- One inverse butterfly layer: zeta index downwards from `k`. -/
def inttLayer (q : Nat) (tw : List Nat) (len k : Nat) (f : List Nat) : List Nat :=
  (List.range 256).map (fun j =>
    let b := j / (2 * len)
    let z := nth 0 tw (k - b)
    if j % (2 * len) < len then (nth 0 f j + nth 0 f (j + len)) % q
    else z * ((nth 0 f j + (q - nth 0 f (j - len) % q)) % q) % q)

/-- The inverse transform with `l` layers left. -/
def inttRun (q : Nat) (tw : List Nat) : Nat → Nat → Nat → List Nat → List Nat
  | 0, _, _, f => f
  | l + 1, len, k, f => inttRun q tw l (2 * len) (k / 2) (inttLayer q tw len k f)

/-- NTT with 7 layers (ML-KEM) or 8 (ML-DSA). -/
def nttOp (a : At) (u : Nat) (d x : Fin 16) (eight : Bool) (s : State) : State :=
  let l := if eight then 8 else 7
  latticeOp a u (numNtt l) d (fun n c => (polyAt n c (n.addr x)).map (nttRun c.q c.tw l 128 1)) s

/-- INTT with scaling by the inverse of 128 or 256. -/
def inttOp (a : At) (u : Nat) (d x : Fin 16) (eight : Bool) (s : State) : State :=
  let l := if eight then 8 else 7
  latticeOp a u (fun w => numNtt l w + (if w = 2 then 20 else 8)) d (fun n c =>
    (polyAt n c (n.addr x)).map (fun f =>
      let sc := (modInv (2 ^ l) c.q).getD 0
      (inttRun c.q c.tw l (if eight then 1 else 2) (2 ^ l - 1) f).map (fun v => v * sc % c.q))) s

/-- The product of degree-2 pairs modulo X² - gamma (FIPS 203). -/
def baseMul (q : Nat) (tw f g : List Nat) : List Nat :=
  (List.range 256).map (fun j =>
    let i := j / 2
    let z := nth 0 tw (64 + i / 2)
    let gam := if i % 2 = 0 then z else q - z % q
    let a0 := nth 0 f (2 * i); let a1 := nth 0 f (2 * i + 1); let b0 := nth 0 g (2 * i); let b1 := nth 0 g (2 * i + 1)
    if j % 2 = 0 then (a0 * b0 + a1 * b1 % q * gam) % q else (a0 * b1 + a1 * b0) % q)

/-- PMUL: pointwise, or the base multiplication of ML-KEM for W = 1 only. -/
def pmulOp (a : At) (u : Nat) (d x y : Fin 16) (base : Bool) (s : State) : State :=
  latticeOp a u (fun w => if base then 48 else if w = 2 then 72 else 40) d (fun n c => do
    let f ← polyAt n c (n.addr x)
    let g ← polyAt n c (n.addr y)
    if base then (if c.w = 1 then some (baseMul c.q c.tw f g) else none)
    else some (List.zipWith (fun v w => v * w % c.q) f g)) s

/-- PADD and PSUB. -/
def paddOp (a : At) (u : Nat) (d x y : Fin 16) (minus : Bool) (s : State) : State :=
  latticeOp a u (fun _ => 36) d (fun n c => do
    let f ← polyAt n c (n.addr x)
    let g ← polyAt n c (n.addr y)
    some (List.zipWith (fun v w => if minus then (v + (c.q - w % c.q)) % c.q else (v + w) % c.q) f g)) s

/-- The magnitude of a coefficient centred about zero. -/
def centred (q v : Nat) : Nat := let r := v % q; if r ≤ q / 2 then r else q - r

/-- PNORM: 1 when a centred coefficient reaches the bound. -/
def pnormOp (a : At) (u : Nat) (d x y : Fin 16) (s : State) : State :=
  nuOp a u (fun _ => 80) (fun n => [(n.addr d, 1)]) (fun _ _ n => do
    let c ← n.lctx
    let f ← polyAt n c (n.addr x)
    let b ← nuRead n (n.addr y) 1
    some ⟨[(n.addr d, [if f.any (fun v => decide (nth 0 b 0 ≤ centred c.q v)) then 1 else 0])], []⟩) s

/-- Decompose of FIPS 204: high part, and low part modulo q. -/
def decompose (q g2 v : Nat) : Nat × Nat :=
  if g2 = 0 then (Config.splitZero q v % q, Config.splitZero v q % q) else
  let r := v % q
  let al := 2 * g2
  let m := r % al
  let low : Int := if m ≤ g2 then m else (m : Int) - al
  if (r : Int) - low = q - 1 then (0, ((low - 1) % (q : Int)).toNat)
  else ((((r : Int) - low) / al).toNat, (low % (q : Int)).toNat)

/-- PSPLIT: high parts to d, low parts to b. -/
def psplitOp (a : At) (u : Nat) (d x y : Fin 16) (s : State) : State :=
  nuOp a u (fun _ => 80) (fun n => [(n.addr d, 256 * n.w), (n.addr y, 256 * n.w)]) (fun _ _ n => do
    let c ← n.lctx
    let f ← polyAt n c (n.addr x)
    let r := f.map (decompose c.q c.g2)
    some ⟨[(n.addr d, coeffWords c.w (r.map (·.1))), (n.addr y, coeffWords c.w (r.map (·.2)))], []⟩) s

/-- UseHint of FIPS 204. -/
def useHint (q g2 h r : Nat) : Nat :=
  let r1 := (decompose q g2 r).1
  let r0 := (decompose q g2 r).2
  if g2 = 0 then (if h % 2 = 1 then Config.splitZero (r + q) h % q else r1) else
  let m := (q - 1) / (2 * g2)
  if h % 2 = 1 then (if 0 < r0 ∧ r0 ≤ q / 2 then (r1 + 1) % m else (r1 + m - 1) % m) else r1

/-- PHINT: MakeHint(a, b) or UseHint(a, b). -/
def phintOp (a : At) (u : Nat) (d x y : Fin 16) (use : Bool) (s : State) : State :=
  latticeOp a u (fun _ => 40) d (fun n c => do
    let f ← polyAt n c (n.addr x)
    let g ← polyAt n c (n.addr y)
    some (List.zipWith (fun h r =>
      if use then useHint c.q c.g2 h r
      else if (decompose c.q c.g2 r).1 = (decompose c.q c.g2 (r + h)).1 then 0 else 1) f g)) s

/-- Compress to w bits (FIPS 203). -/
def compressC (q w v : Nat) : Nat := (v % q * 2 ^ (w + 1) + q) / (2 * q) % 2 ^ w
/-- Decompress from w bits (FIPS 203). -/
def decompressC (q w v : Nat) : Nat := (v * q * 2 + 2 ^ w) / 2 ^ (w + 1)

/-- PCOMP and PDECOMP, w from 1 to 12. -/
def pcompOp (a : At) (u : Nat) (d x : Fin 16) (w : Nat) (back : Bool) (s : State) : State :=
  latticeOp a u (fun _ => 40) d (fun n c => do
    let f ← polyAt n c (n.addr x)
    if 1 ≤ w ∧ w ≤ 12 then some (f.map (fun v => if back then decompressC c.q w v else compressC c.q w v)) else none) s

/-- The value of a bit string of w-bit fields, first field lowest. -/
def fieldsVal (w : Nat) : List Nat → Nat
  | [] => 0
  | f :: fs => f % 2 ^ w + 2 ^ w * fieldsVal w fs

/-- PACK: fields of w bits, 1 to 24, each the coefficient or (word at b) - coefficient. -/
def packOp (a : At) (u : Nat) (d x y : Fin 16) (w : Nat) (minus : Bool) (s : State) : State :=
  nuOp a u (fun _ => 2 * (6 + cdiv (256 * w) 288)) (fun n => [(n.addr d, cdiv (256 * w) 16)]) (fun _ _ n => do
    let c ← n.lctx
    let f ← polyAt n c (n.addr x)
    let b ← if minus then nuRead n (n.addr y) 1 else some [0]
    if 1 ≤ w ∧ w ≤ 24 then
      let fs := f.map (fun v => if minus then (nth 0 b 0 + (c.q - v % c.q)) % c.q else v)
      some ⟨[(n.addr d, limbs (cdiv (256 * w) 16) (fieldsVal w fs))], []⟩
    else none) s

/-- UNPACK: the inverse of PACK with the same options. -/
def unpackOp (a : At) (u : Nat) (d x y : Fin 16) (w : Nat) (minus : Bool) (s : State) : State :=
  latticeOp a u (fun _ => 6 + cdiv (256 * w) 288) d (fun n c => do
    let ws ← nuRead n (n.addr x) (cdiv (256 * w) 16)
    let b ← if minus then nuRead n (n.addr y) 1 else some [0]
    if 1 ≤ w ∧ w ≤ 24 then
      let v := limbVal (ws.map (· % 2 ^ 16))
      some ((List.range 256).map (fun i =>
        let f := v / 2 ^ (w * i) % 2 ^ w
        if minus then (nth 0 b 0 + (c.q - f % c.q)) % c.q else f))
    else none) s

/-- Candidates accepted below q from octets, 3 octets at a time: two 12-bit values, or one 23-bit value. -/
def rejCandidates (q mode : Nat) (o : List Nat) : List Nat :=
  ((List.range (o.length / 3)).flatMap (fun i =>
    let b0 := nth 0 o (3 * i) % 256; let b1 := nth 0 o (3 * i + 1) % 256; let b2 := nth 0 o (3 * i + 2) % 256
    if mode = 0 then [b0 + 256 * (b1 % 16), b1 / 16 + 16 * b2] else [b0 + 256 * b1 + 65536 * (b2 % 128)])).filter
    (fun v => decide (v < q))

/-- SampleInBall (FIPS 204) over the octets left: `k` positions left, sign bits, polynomial so far. -/
def ballRun (q : Nat) : List Nat → Nat → Nat → List Nat → Option (List Nat)
  | [], k, _, c => if k = 0 then some c else none
  | o :: os, k, sg, c =>
    if k = 0 then some c
    else
      let i := 256 - k
      if o % 256 ≤ i then
        ballRun q os (k - 1) (sg / 2) ((c.set i (nth 0 c (o % 256))).set (o % 256) (if sg % 2 = 1 then q - 1 else 1))
      else ballRun q os k sg c

/-- PREJ: rejection sampling; mode 2 is SampleInBall with tau at b; rejects when too few candidates are accepted. -/
def prejOp (a : At) (u : Nat) (d x y : Fin 16) (mode c1 : Nat) (s : State) : State :=
  latticeOp a u (fun _ => if mode = 2 then 60 else 8 + 8 * (c1 + 1)) d (fun n c => do
    let o ← nuRead n (n.addr x) (168 * (c1 + 1))
    if mode ≤ 1 then
      let v := rejCandidates c.q mode o
      if 256 ≤ v.length then some (v.take 256) else none
    else if mode = 2 then do
      let t ← nuRead n (n.addr y) 1
      let sg := ofLe ((o.take 8).map (fun b => BitVec.ofNat 8 b))
      if nth 0 t 0 ≤ 256 then ballRun c.q (o.drop 8) (nth 0 t 0) sg (List.replicate 256 0) else none
    else none) s

/-- PCBD: centred binomial sampling with eta 1 to 4. -/
def pcbdOp (a : At) (u : Nat) (d x : Fin 16) (eta : Nat) (s : State) : State :=
  latticeOp a u (fun _ => 24) d (fun n c => do
    let o ← nuRead n (n.addr x) (64 * eta)
    if 1 ≤ eta ∧ eta ≤ 4 then
      let v := ofLe (o.map (fun b => BitVec.ofNat 8 b))
      some ((List.range 256).map (fun i =>
        let cnt := fun off => ((List.range eta).filter (fun j => bit v (2 * i * eta + off + j))).length
        (cnt 0 + (c.q - cnt eta)) % c.q))
    else none) s

/-- PCONV: three Boolean shares whose exclusive OR is the sum of three arithmetic shares compressed to w bits. -/
def pconvOp (a : At) (u : Nat) (d x y : Fin 16) (w : Nat) (s : State) : State :=
  nuOp a u (fun _ => 2 * 2054) (fun n => [(n.addr d, 3 * 256 * n.w)]) (fun _ _ n => do
    let c ← n.lctx
    let f ← (nuRead n (n.addr x) (3 * 256 * c.w)).map (coeffs c.w)
    let r ← nuRead n (n.addr y) 768
    let v := (List.range 256).map (fun i =>
      compressC c.q w ((nth 0 f i + nth 0 f (256 + i) + nth 0 f (512 + i)) % c.q))
    let sh := fun k => (List.range 256).map (fun i => Config.pconvShare k i (nth 0 r (256 * k + i)) (nth 0 v i) % 2 ^ w)
    let s0 := sh 0
    let s1 := sh 1
    let s2 := (List.range 256).map (fun i =>
      ((BitVec.ofNat 36 (nth 0 v i)) ^^^ (BitVec.ofNat 36 (nth 0 s0 i)) ^^^ (BitVec.ofNat 36 (nth 0 s1 i))).toNat)
    some ⟨[(n.addr d, coeffWords c.w (s0 ++ s1 ++ s2))], []⟩) s

/-! ### Transfers (Table 8.1), KNU, RNDN -/

/-- A transfer: the unit, its latency, what lands. -/
def xferOp (a : At) (u lat : Nat) (f : State → Inst → Nat → State × List LandEff) (s : State) : State :=
  issueOn s a uNU u (fun s i n =>
    if a.faults ≠ [] then unitFault s a (224 + n)
    else let (s, effs) := f s i n; launch s a (effs.map (fun e => (lat, e))))

/-- NSETL: LEN from a register; both contexts become invalid; 0 or above 1,024 sets LEN invalid and rejects. -/
def nsetlEffs (n : Nat) (v : Nat) : List LandEff :=
  if v = 0 ∨ v > 1024 then [.nuLen n 0, .nuRej n] else [.nuLen n v]

/-- Words of `c` blocks in a form (R191): digits, a big-endian integer, or one octet a word. -/
def formWords (form : Nat) (bs : List Block) : Option (List Nat) :=
  let o := bs.flatMap octetsOf
  match form with
  | 0 => some ((List.range (o.length / 2)).map (fun i => leAt o (2 * i) 2))
  | 1 => some (limbs (o.length / 2) (ofBe o))
  | 2 => some (o.map (fun b => b.toNat))
  | _ => none

/-- The octets of limbs in a form; the low 16 bits of each limb are stored. -/
def formOctets (form : Nat) (ws : List Nat) : List Octet :=
  match form with
  | 0 => ws.flatMap (fun w => leOctets 2 (w % 2 ^ 16))
  | 1 => beOctets (2 * ws.length) (limbVal (ws.map (· % 2 ^ 16)))
  | _ => ws.map (fun w => BitVec.ofNat 8 w)

/-- Words that `c` blocks fill in a form. -/
def formLen (form c : Nat) : Nat := if form = 2 then 16 * c else 8 * c

/-- NLDH: blocks of the ring to operand memory. -/
def nldhOp (a : At) (u : Nat) (d : Fin 16) (r c1 form : Nat) (s : State) : State :=
  let c := c1 + 1
  xferOp a u (4 + 2 * c) (fun s i n =>
    let x := s.nu n
    let p := x.addr d
    let hp := ((s.seq a.fs).reg r).toNat % 2 ^ 14
    let (s, bs) := readRings s a i 0 hp c
    match formWords form bs with
    | some ws => if p + ws.length ≤ nuWords then (s, [nuWrite n (p, ws)])
        else (s, [nuWrite n (nuZero (p, formLen form c)), .nuRej n])
    | none => (s, [nuWrite n (nuZero (p, formLen form c)), .nuRej n])) s

/-- NSTH: operand memory to blocks of the ring; a rejecting transfer writes zeros to the blocks. -/
def nsthOp (a : At) (u : Nat) (d : Fin 16) (r c1 form : Nat) (s : State) : State :=
  let c := c1 + 1
  let L := 4 + 2 * c
  issueOn s a uNU u (fun s i n =>
    if a.faults ≠ [] then unitFault s a (224 + n)
    else
      let x := s.nu n
      let hp := ((s.seq a.fs).reg r).toNat % 2 ^ 14
      match (if form ≤ 2 then nuRead x (x.addr d) (formLen form c) else none) with
      | some ws => writeRings s a i 0 L hp (blocksOf (formOctets form ws))
      | none => launch (writeRings s a i 0 L hp (List.replicate c 0)) a [(L, .nuRej n)])

/-- NLDF: a register into one word. -/
def nldfEffs (s : State) (a : At) (n : Nat) (d : Fin 16) (r : Nat) : List LandEff :=
  let p := (s.nu n).addr d
  if p < nuWords then [nuWrite n (p, [((s.seq a.fs).reg r).toNat])] else [.nuRej n]

/-- NSTF: one word into a register; a word not written rejects and gives zero. -/
def nstfEffs (s : State) (n : Nat) (x : Fin 16) (r : Fin 32) : List LandEff :=
  match nuRead (s.nu n) ((s.nu n).addr x) 1 with
  | some ws => [.freg r (BitVec.ofNat 18 (nth 0 ws 0))]
  | none => [.freg r 0, .nuRej n]

/-- NSTAT: REJ and the validity of the contexts. -/
def nstatWord (x : NumUnit) : Word :=
  BitVec.ofNat 18 (b2n x.rej + 2 * b2n x.mctx.isSome + 4 * b2n x.lctx.isSome)

/-- KNU (R188): the key's octets as one big-endian integer, in canonical limbs. -/
def knuOp (a : At) (u k base : Nat) (s : State) : State :=
  issueOn s a uNU u (fun s i n =>
    if a.faults ≠ [] then unitFault s a (224 + n)
    else deliver a i k 5 s (fun sl =>
      let c := cdiv sl.bits 16
      launch s a [(6 + 2 * cdiv c 8, nuWrite n (8 * base, limbs c (ofBe (sl.mat.take (cdiv sl.bits 8)))))]))

/-- RNDN (R188): eight reserved random words as canonical limbs. -/
def rndnOp (a : At) (u base : Nat) (s : State) : State :=
  issueOn s a uNU u (fun s i n =>
    if a.faults ≠ [] then unitFault s a (224 + n)
    else
      let ws := (List.range 8).map (fun j => (nth 0 i.rnd j).toNat % 2 ^ 16)
      let s := s.onInst a.fs (fun i => { i with rnd := i.rnd.drop 8 })
      launch s a [(4, nuWrite n (8 * base, ws))])

def execLadd (x : At) (u : Fin 32) (d a b : Fin 16) (s : State) : Out := done (laddOp x u d a b s)
def execLsub (x : At) (u : Fin 32) (d a b : Fin 16) (s : State) : Out := done (lsubOp x u d a b s)
def execMnorm (x : At) (u : Fin 32) (d a : Fin 16) (double : Bool) (s : State) : Out := done (mnormOp x u d a double s)
def execMmul (x : At) (u : Fin 32) (d a b : Fin 16) (s : State) : Out := done (mmulOp x u d a b numMul s)
def execMsqr (x : At) (u : Fin 32) (d a : Fin 16) (s : State) : Out := done (mmulOp x u d a a numSqr s)
def execMinv (x : At) (u : Fin 32) (d a : Fin 16) (s : State) : Out := done (minvOp x u d a s)
def execMexp (x : At) (u : Fin 32) (d a b : Fin 16) (opt : Fin 256) (s : State) : Out := done (mexpOp x u d a b opt s)
def execMset (x : At) (u : Fin 32) (a : Fin 16) (given : Bool) (s : State) : Out := done (msetOp x u a given s)
def execMchk (x : At) (u : Fin 32) (a : Fin 16) (nonzero : Bool) (s : State) : Out := done (mchkOp x u a nonzero s)
def execMsel (x : At) (u : Fin 32) (d a b sel : Fin 16) (s : State) : Out := done (mselOp x u d a b sel s)
def execMscan (x : At) (u : Fin 32) (d a b : Fin 16) (opt : Fin 256) (s : State) : Out := done (mscanOp x u d a b opt s)
def execMeq (x : At) (u : Fin 32) (d a b : Fin 16) (s : State) : Out := done (meqOp x u d a b s)
def execLset (x : At) (u : Fin 32) (a : Fin 16) (wide : Bool) (s : State) : Out := done (lsetOp x u a wide s)
def execNtt (x : At) (u : Fin 32) (d a : Fin 16) (eight : Bool) (s : State) : Out := done (nttOp x u d a eight s)
def execIntt (x : At) (u : Fin 32) (d a : Fin 16) (eight : Bool) (s : State) : Out := done (inttOp x u d a eight s)
def execPmul (x : At) (u : Fin 32) (d a b : Fin 16) (base : Bool) (s : State) : Out := done (pmulOp x u d a b base s)
def execPadd (x : At) (u : Fin 32) (d a b : Fin 16) (s : State) : Out := done (paddOp x u d a b false s)
def execPsub (x : At) (u : Fin 32) (d a b : Fin 16) (s : State) : Out := done (paddOp x u d a b true s)
def execPnorm (x : At) (u : Fin 32) (d a b : Fin 16) (s : State) : Out := done (pnormOp x u d a b s)
def execPsplit (x : At) (u : Fin 32) (d a b : Fin 16) (s : State) : Out := done (psplitOp x u d a b s)
def execPhint (x : At) (u : Fin 32) (d a b : Fin 16) (use : Bool) (s : State) : Out := done (phintOp x u d a b use s)
def execPcomp (x : At) (u : Fin 32) (d a : Fin 16) (w : Fin 32) (s : State) : Out := done (pcompOp x u d a w false s)
def execPdecomp (x : At) (u : Fin 32) (d a : Fin 16) (w : Fin 32) (s : State) : Out := done (pcompOp x u d a w true s)
def execPack (x : At) (u : Fin 32) (d a b : Fin 16) (w : Fin 32) (minus : Bool) (s : State) : Out :=
  done (packOp x u d a b w minus s)
def execUnpack (x : At) (u : Fin 32) (d a b : Fin 16) (w : Fin 32) (minus : Bool) (s : State) : Out :=
  done (unpackOp x u d a b w minus s)
def execPrej (x : At) (u : Fin 32) (d a b : Fin 16) (mode : Fin 4) (c : Fin 8) (s : State) : Out :=
  done (prejOp x u d a b mode c s)
def execPcbd (x : At) (u : Fin 32) (d a : Fin 16) (eta : Fin 8) (s : State) : Out := done (pcbdOp x u d a eta s)
def execPconv (x : At) (u : Fin 32) (d a b : Fin 16) (w : Fin 32) (s : State) : Out := done (pconvOp x u d a b w s)
def execNseta (x : At) (u : Fin 32) (d : Fin 16) (r : Fin 32) (s : State) : Out :=
  done (xferOp x u 2 (fun s _ n => (s, [.nuA n d (((s.seq x.fs).reg r).truncate 16)])) s)
def execNsetl (x : At) (u : Fin 32) (r : Fin 32) (s : State) : Out :=
  done (xferOp x u 2 (fun s _ n => (s, nsetlEffs n (((s.seq x.fs).reg r).toNat % 2 ^ 11))) s)
def execNldh (x : At) (u : Fin 32) (d : Fin 16) (r : Fin 32) (c : Fin 256) (form : Fin 8) (s : State) : Out :=
  done (nldhOp x u d r c form s)
def execNsth (x : At) (u : Fin 32) (d : Fin 16) (r : Fin 32) (c : Fin 256) (form : Fin 8) (s : State) : Out :=
  done (nsthOp x u d r c form s)
def execNldf (x : At) (u : Fin 32) (d : Fin 16) (r : Fin 32) (s : State) : Out :=
  done (xferOp x u 2 (fun s _ n => (s, nldfEffs s x n d r)) s)
def execNstf (x : At) (u : Fin 32) (a : Fin 16) (r : Fin 32) (s : State) : Out :=
  done (xferOp x u 4 (fun s _ n => (s, nstfEffs s n a r)) s)
def execNstat (x : At) (u : Fin 32) (r : Fin 32) (s : State) : Out :=
  done (xferOp x u 2 (fun s _ n => (s, [.freg r (nstatWord (s.nu n))])) s)
def execNinc (x : At) (u : Fin 32) (d : Fin 16) (r : Fin 32) (s : State) : Out :=
  done (xferOp x u 2 (fun s _ n => (s, [.nuA n d ((s.nu n).a[d] + ((s.seq x.fs).reg r).truncate 16)])) s)
def execKnu (a : At) (u : Fin 32) (k : Fin 8) (base : Fin 512) (s : State) : Out := done (knuOp a u k base s)
def execRndn (a : At) (u : Fin 32) (base : Fin 512) (s : State) : Out := done (rndnOp a u base s)

end Sys2Proof.Machine
end

