-- ==== Sys2Proof/Machine/FloorMisc.lean ====
section
/-! DEFINITION. The remaining floor commands: the END family (R89, R101, R104, R196), random words, AUTH, RES, HREL, results landing
(R91), FLOOR_COMMIT (R111), actions on lanes, DUs and NUs (R159, R160, R176, R200), mask expanders (R146, R147). -/
namespace Sys2Proof.Machine

/-! ### END, END.REPEAT, END.REJECT -/

/-- Is REJ set in a number unit that the instance holds (R196)? -/
def instRej (s : State) (i : Inst) : Bool :=
  (List.range i.hdr.units.length).any (fun k =>
    decide ((nth (0, 0) i.hdr.units k).1 = uNU) &&
      (match i.cols[k]? with | some c => (s.nu (colUnit uNU c)).rej | none => false))

/-- A run of the instance ends at cycle `t` (R93): its span follows from t, REJ rejects whatever the condition (R196). -/
def endInst (rej : Bool) (t : Nat) (again rejected : Bool) (i : Inst) : Inst :=
  { i with ended := some t, span := max 1 ((t + 359) / 360), again := again && !rej, rejected := rejected || rej }

/-- END. -/
def endOp (a : At) (s : State) : State :=
  issue s a (fun s i => s.onInst a.fs (endInst (instRej s i) a.cyc false false))

/-- END.REPEAT: in the last permitted run a true condition is END.REJECT's (R104). -/
def endRepeatOp (a : At) (r : Nat) (s : State) : State :=
  issue s a (fun s i =>
    let c := decide ((s.seq a.fs).reg r ≠ 0)
    let last := decide (i.run ≥ i.hdr.repeatMax)
    s.onInst a.fs (endInst (instRej s i) a.cyc (c && !last) (c && last)))

/-- END.REJECT. -/
def endRejectOp (a : At) (r : Nat) (s : State) : State :=
  issue s a (fun s i => s.onInst a.fs (endInst (instRej s i) a.cyc false (decide ((s.seq a.fs).reg r ≠ 0))))

def execEndRun (a : At) (s : State) : Out := done (endOp a s)
def execEndRepeat (a : At) (ra : Fin 32) (s : State) : Out := done (endRepeatOp a ra s)
def execEndReject (a : At) (ra : Fin 32) (s : State) : Out := done (endRejectOp a ra s)

/-! ### RNDF, AUTH, RES, HREL -/

/-- RNDF: the next reserved random word into a register (R216). -/
def rndfOp (a : At) (r : Fin 32) (s : State) : State :=
  issue s a (fun s i => launch (s.onInst a.fs (fun i => { i with rnd := i.rnd.drop 1 })) a [(2, .freg r (nth 0 i.rnd 0))])

/-- AUTH: bit 0 of the register is the authentication result. -/
def authOp (a : At) (r : Nat) (s : State) : State :=
  issue s a (fun s _ => launch s a [(1, .auth (((s.seq a.fs).reg r).getLsbD 0))])

/-- RES: a register into a result word. -/
def resOp (a : At) (k : Fin 8) (r : Nat) (s : State) : State :=
  issue s a (fun s _ => launch s a [(1, .res k ((s.seq a.fs).reg r))])

/-- HREL: the logical page of the lane group's reel is released to egress (R125). -/
def hrelOp (a : At) (u page : Nat) (s : State) : State :=
  issueOn s a uLG u (fun s i _ =>
    match (ringOf i (reelOf i u))[page]? with
    | some p => launch s a [(1, .hrel p)]
    | none => s)

def execRndf (a : At) (r : Fin 32) (s : State) : Out := done (rndfOp a r s)
def execAuth (a : At) (r : Fin 32) (s : State) : Out := done (authOp a r s)
def execRes (a : At) (i : Fin 8) (r : Fin 32) (s : State) : Out := done (resOp a i r s)
def execHrel (a : At) (u : Fin 32) (page : Fin 64) (s : State) : Out := done (hrelOp a u page s)

/-- The first result in flight of a sequencer lands, with every result of its cycle; the instance's time moves to that cycle (R91). -/
def landNext (fs : Nat) (s : State) : State :=
  match (s.seq fs).inst with
  | none => s
  | some i =>
    match i.flight with
    | [] => s
    | l :: _ => (landDue s fs l.cyc).onInst fs (fun i => { i with cyc := max i.cyc l.cyc })

def execResultLanding (fs : Fin 64) (s : State) : Out := done (landNext fs s)

/-- FLOOR_CTL.COMMIT (R111): the shadow takes effect at the next boundary. -/
def execFloorCommit (s : State) : Out := done (s.flag Reg.FLOOR_CTL_COMMIT true)

/-! ### Actions on lanes (Table 6.16) -/

/-- LANE_CMD written with GO: the action starts; GO reads 1 until it is done. -/
def laneStart (s : State) (reel lane action : Nat) : State :=
  ((s.wr (Reg.LANE_CMD_LANE reel) lane).wr (Reg.LANE_CMD_ACTION reel) action).flag (Reg.LANE_CMD_GO reel) true

/-- The spare stops serving a lane that has come back (R160). -/
def freeSpareOf (s : State) (reel lane : Nat) : State :=
  if s.on (Reg.REEL_STAT_SPARE_SUB reel) ∧ s.rd (Reg.REEL_STAT_SPARE_LANE reel) = lane then
    s.flag (Reg.REEL_STAT_SPARE_SUB reel) false
  else s

/-- A lane's fault window is emptied. -/
def clearWindow (s : State) (reel lane : Nat) : State :=
  setFwin { s with floor := { s.floor with faultAt := tdel s.floor.faultAt (32 * reel + lane) } } reel lane 0

/-- The lane action in LANE_CMD finishes (R159, R160). A group test that fails takes the lane group's column out of service; a lane
that passes returns and one that fails stays out or leaves; a retired lane leaves; the spare's test decides SPARE_OOS. -/
def laneDone (s : State) (reel : Nat) (pass : Bool) : State :=
  if ¬ s.on (Reg.LANE_CMD_GO reel) then s
  else
    let lane := s.rd (Reg.LANE_CMD_LANE reel)
    let act := s.rd (Reg.LANE_CMD_ACTION reel)
    let s := (s.flag (Reg.LANE_CMD_GO reel) false).flag (Reg.LANE_RESULT_DONE reel) true
    if act = 0 then
      let s := s.flag (Reg.LANE_RESULT_PASS reel) pass
      let s := jrec s 0x0305 0xE6 (4 * reel + lane / 8) [0, BitVec.ofNat 8 (b2n pass)]
      if pass then s else retireColumn (latchFault s) (4 * reel + lane / 8)
    else if act = 1 then
      let s := s.flag (Reg.LANE_RESULT_PASS reel) pass
      if pass then laneRecord (freeSpareOf (setLaneOos (clearWindow s reel lane) reel lane false) reel lane) reel lane 0 0 0
      else if laneOos s reel lane then s
      else laneRecord (laneLeaves (latchFault s) reel lane) reel lane 0 0 3
    else if act = 2 then
      if laneOos s reel lane then s else laneRecord (laneLeaves s reel lane) reel lane 0 0 3
    else
      let s := s.flag (Reg.LANE_RESULT_PASS reel) pass
      s.flag (Reg.REEL_STAT_SPARE_OOS reel) (!pass)

def execLaneGroupTest (reel lane : Fin 32) (s : State) : Out := done (laneStart s reel lane 0)
def execLaneReinstate (reel lane : Fin 32) (s : State) : Out := done (laneStart s reel lane 1)
def execLaneRetire (reel lane : Fin 32) (s : State) : Out := done (laneStart s reel lane 2)
def execSpareTest (reel : Fin 32) (s : State) : Out := done (laneStart s reel (s.rd (Reg.LANE_CMD_LANE reel)) 3)
def execLaneActionDone (reel : Fin 32) (pass : Bool) (s : State) : Out := done (laneDone s reel pass)

/-! ### Actions on digest units and number units (Tables 7.7 and 8.6) -/

/-- The registers that an engine's actions use, and its card column. -/
structure UnitRegs where
  go : Fld
  action : Fld
  done : Fld
  pass : Fld
  oos : Fld
  col : Nat

/-- The registers of a digest unit. -/
def duRegs (u : Nat) : UnitRegs :=
  ⟨Reg.DU_CMD_GO u, Reg.DU_CMD_ACTION u, Reg.DU_RESULT_DONE u, Reg.DU_RESULT_PASS u, Reg.DU_STAT_OOS u, 160 + u⟩
/-- The registers of a number unit. -/
def nuRegs (u : Nat) : UnitRegs :=
  ⟨Reg.NU_CMD_GO u, Reg.NU_CMD_ACTION u, Reg.NU_RESULT_DONE u, Reg.NU_RESULT_PASS u, Reg.NU_STAT_OOS u, 224 + u⟩

/-- An action starts. -/
def unitStart (s : State) (r : UnitRegs) (action : Nat) : State := (s.wr r.action action).flag r.go true

/-- An action finishes: a failed test leaves the column out of service, a reinstated unit's column is republished by firmware, a
retired unit's column leaves. -/
def unitDone (s : State) (r : UnitRegs) (ok : Bool) : State :=
  if ¬ s.on r.go then s
  else
    let act := s.rd r.action
    let s := (s.flag r.go false).flag r.done true
    let s := if act = 2 then s else s.flag r.pass ok
    let s := jrec s 0x0305 0xE6 r.col [BitVec.ofNat 8 act, BitVec.ofNat 8 (b2n ok)]
    if act = 2 ∨ ¬ ok then retireColumn (latchFault (s.flag r.oos true)) r.col
    else if act = 1 then s.flag r.oos false
    else s

def execDuTest (u : Fin 64) (s : State) : Out := done (unitStart s (duRegs u) 0)
def execDuReinstate (u : Fin 64) (s : State) : Out := done (unitStart s (duRegs u) 1)
def execDuRetire (u : Fin 64) (s : State) : Out := done (unitStart s (duRegs u) 2)
def execDuActionDone (u : Fin 64) (pass : Bool) (s : State) : Out := done (unitDone s (duRegs u) pass)
def execNuTest (u : Fin 16) (s : State) : Out := done (unitStart s (nuRegs u) 0)
def execNuReinstate (u : Fin 16) (s : State) : Out := done (unitStart s (nuRegs u) 1)
def execNuRetire (u : Fin 16) (s : State) : Out := done (unitStart s (nuRegs u) 2)
def execNuActionDone (u : Fin 16) (pass : Bool) (s : State) : Out := done (unitDone s (nuRegs u) pass)

/-! ### Mask expanders (R145 to R147) -/

def State.expander (s : State) (reel : Nat) : Expander := tget Expander.zero s.floor.expanders reel
def State.setExpander (s : State) (reel : Nat) (e : Expander) : State :=
  { s with floor := { s.floor with expanders := tset Expander.zero s.floor.expanders reel e } }

/-- `n` permutations of a Keccak state. -/
def keccakTimes : Nat → List Octet → List Octet
  | 0, st => st
  | n + 1, st => keccakTimes n (keccakF st)

/-- One allotment into the free randomness buffer of a lane; where no buffer is free it replaces the older one (R146). Which output bits
of the sponge a lane receives is left open. -/
def allot (reel lane : Nat) (s : State) : State :=
  let e := s.expander reel
  let al := BitVec.ofNat 832 (Config.allotment e.st e.perms lane)
  let phys := 32 * reel + lane
  let l := s.lane phys
  s.setLane phys { l with rnd := (if l.rnd.length ≥ 2 then l.rnd.drop 1 else l.rnd) ++ [al] }

/-- A seed that has arrived is absorbed (R147): at floor reset with the reel number, later by XOR into the first 256 bits of the rate. -/
def reseedExpander (reel : Nat) (s : State) : State :=
  let e := s.expander reel
  match e.seed with
  | none => s
  | some sd =>
    let st := if e.st = [] then absorbAt (List.replicate 200 0) 0 (sd ++ [BitVec.ofNat 8 reel])
      else absorbAt (keccakTimes e.perms e.st) 0 sd
    (s.setExpander reel ⟨st, 0, none⟩).flag (Reg.REEL_STAT_MX_STALE reel) false

/-- 2^22 permutations without a seed: MX_STALE, and the reel's four lane-group columns and its XT column leave service (R147). -/
def expanderStale (reel : Nat) (s : State) : State :=
  if (s.expander reel).perms < 2 ^ 22 then s
  else
    let s := s.flag (Reg.REEL_STAT_MX_STALE reel) true
    [4 * reel, 4 * reel + 1, 4 * reel + 2, 4 * reel + 3, 128 + reel].foldl retireColumn s

def execMaskExpanderAllotment (reel lane : Fin 32) (s : State) : Out := done (allot reel lane s)
def execExpanderReseed (reel : Fin 32) (s : State) : Out := done (reseedExpander reel s)
def execExpanderStale (reel : Fin 32) (s : State) : Out := done (expanderStale reel s)

end Sys2Proof.Machine
end

