-- ==== Sys2Proof/Machine/Entropy.lean ====
section
/-! DEFINITION. Entropy source and random bit generation (spec/09): health tests, source states, conditioner, DRBG, raw capture;
the journal's flush and resumption (spec/12, R286 to R290) and record submission (R303). -/
namespace Sys2Proof.Machine

def State.setEnt (s : State) (f : EntropySt → EntropySt) : State :=
  let e := f s.ent
  ({ s with ent := e }).wr Reg.RNG_STAT_FIFO e.fifo.length

/-! ### Health tests (R203, R204) -/

/-- The samples of octets, sample 8k in bit 7 of octet k (R208). -/
def samplesMsb (o : List Octet) : List Bool := o.flatMap (fun x => (List.range 8).map (fun i => x.getLsbD (7 - i)))
/-- The samples of captured octets, sample 8k + i in bit i (R218). -/
def samplesLsb (o : List Octet) : List Bool := o.flatMap (fun x => (List.range 8).map (fun i => x.getLsbD i))

/-- The repetition count over samples from a run (last bit, length): the run after them and whether it reached 41. -/
def rctRun : Bool × Nat → List Bool → (Bool × Nat) × Bool
  | r, [] => (r, false)
  | (b, n), x :: rest =>
    let r := if n ≠ 0 ∧ x = b then (b, n + 1) else (x, 1)
    let t := rctRun r rest
    (t.1, decide (r.2 ≥ 41) || t.2)

/-- The adaptive proportion test fails in a window of 1,024 samples: the first sample occurs 793 or more times. -/
def aptWindow (w : List Bool) : Bool :=
  match w with
  | [] => false
  | x :: _ => decide ((w.filter (fun y => y == x)).length ≥ 793)

/-- The adaptive proportion test over windows aligned to the samples' start. -/
def aptFails (l : List Bool) : Bool :=
  (List.range (l.length / 1024)).any (fun i => aptWindow ((l.drop (1024 * i)).take 1024))

/-! ### Source states (R205 to R207) -/

/-- States of Table 9.2. -/
def srcOff : Nat := 0
def srcStartUp : Nat := 1
def srcRunning : Nat := 2
def srcRaw : Nat := 3
def srcRetired : Nat := 4

/-- A restart: Start-up with the partial block and the repetition run cleared. -/
def srcRestart (s : State) (n : Nat) : State :=
  let s := s.count (Reg.SRC_RESTARTS n) (Reg.SRC_STAT_RFO n)
  (s.setEnt (fun e => { e with run := tdel e.run n })).wr (Reg.SRC_STAT_STATE n) srcStartUp

/-- An entropy record, type 0x0501 (layout of log 10): 1 retired, 2 instantiated, 3 test failed, 4 raw opened, 5 raw closed; raw mode. -/
def entRecord (s : State) (src ev mode : Nat) (flush : Bool) : State :=
  jrecG s 0x0501 0xE5 src (leOctets 1 ev ++ leOctets 1 mode) false Config.noMasterWorld flush

/-- The fatal alarm (R207): the DRBG fails, FIFO and working state are cleared, Fault. -/
def fatalAlarm (s : State) : State :=
  let s := ({ s with drbg := none }).wr Reg.RNG_STAT_DRBG 3
  enterFault (s.setEnt (fun e => { e with fifo := [] })) 6

/-- HEALTHY evaluated (R207). -/
def evalHealthy (s : State) : State :=
  let h := ((List.range 8).filter (fun n => decide (s.rd (Reg.SRC_STAT_STATE n) ≠ srcRetired))).length
  let old := s.rd Reg.RNG_STAT_HEALTHY
  let s := s.wr Reg.RNG_STAT_HEALTHY h
  if h < 3 ∧ old ≥ 3 then fatalAlarm s else s

/-- Retirement (R206): record, entropy line; a capture of this source stops with ABORT (R219). -/
def srcRetire (s : State) (n : Nat) : State :=
  if s.rd (Reg.SRC_STAT_STATE n) = srcRetired then s
  else
    let s := (s.wr (Reg.SRC_STAT_STATE n) srcRetired).flag (Reg.SRC_CTL_RETIRE n) true
    let s := if s.on Reg.RAW_STAT_BUSY ∧ s.ent.rawSrc.val = n then
        latchEntropy ((((s.flag Reg.RAW_STAT_BUSY false).flag Reg.RAW_STAT_ABORT true).flag Reg.RAW_CTL_GO false).flag Reg.RAW_STAT_DONE true)
      else s
    evalHealthy (latchEntropy (entRecord s n 1 0 true))

/-- A failure of a block or a start-up test (R205): counters, CONSEC, restart or retirement. -/
def srcFail (s : State) (n : Nat) (rct apt : Bool) : State :=
  let s := if rct then s.count (Reg.SRC_RCTF n) (Reg.SRC_STAT_FFO n) else s
  let s := if apt then s.count (Reg.SRC_APTF n) (Reg.SRC_STAT_FFO n) else s
  let c := s.rd (Reg.SRC_STAT_CONSEC n) + 1
  let s := s.wr (Reg.SRC_STAT_CONSEC n) c
  if c ≥ 3 then srcRetire s n else srcRestart s n

/-- A 2,048-sample block of a running source (R203, R205, R209). -/
def blockComplete (s : State) (n : Nat) (o : List Octet) : State :=
  if s.rd (Reg.SRC_STAT_STATE n) ≠ srcRunning then s
  else
    let o := fitOctets 256 o
    let l := samplesMsb o
    let r := rctRun (tget (false, 0) s.ent.run n) l
    let apt := aptFails l
    if r.2 ∨ apt then srcFail s n r.2 apt
    else
      let s := s.wr (Reg.SRC_STAT_CONSEC n) 0
      s.setEnt (fun e => { e with run := tset (false, 0) e.run n r.1,
                                  acc := if e.fifo.length ≥ 16 then e.acc else e.acc ++ [(n, o)] })

/-- A start-up test of 4,096 samples from an empty run (R204). -/
def startupEnd (s : State) (n : Nat) (o : List Octet) : State :=
  if s.rd (Reg.SRC_STAT_STATE n) ≠ srcStartUp then s
  else
    let l := samplesMsb (fitOctets 512 o)
    let r := rctRun (false, 0) l
    let apt := aptFails l
    if r.2 ∨ apt then srcFail s n r.2 apt else s.wr (Reg.SRC_STAT_STATE n) srcRunning

/-! ### Random words (R216) -/

/-- The words of one output of `k` words: word i is bits 18i and up of its big-endian integer. -/
def outputWords (k : Nat) (o : List Octet) : List Word :=
  (List.range k).map (fun i => BitVec.ofNat 18 (ofBe o / 2 ^ (18 * i)))

/-- Words of DRBG output, seven a block. -/
def drbgWords (o : List Octet) : List Word :=
  (List.range (o.length / 16)).flatMap (fun i => outputWords 7 (octAt o (16 * i) 16))

/-- Words delivered to the reservation of a command. -/
def deliverWords (s : State) (uid : Nat) (w : List Word) : State :=
  { s with cmds := s.cmds.map (fun c => if c.uid = uid then { c with rnd := c.rnd ++ w.take (c.rndWant - c.rnd.length) } else c) }

/-- A waiting reservation takes words: gone when it has all it asked for. -/
def takeWords (s : State) (r : RngReq) (w : List Word) : State :=
  let s := deliverWords s r.uid (w.take r.words)
  s.setEnt (fun e =>
    let left := e.reqs.map (fun x => if x = r then { x with words := x.words - w.length } else x)
    { e with reqs := left.filter (fun x => decide (x.words ≠ 0)) })

/-! ### Conditioning (R208, R209) -/

/-- The next accepted block in round robin from the source after the one last served. -/
def nextBlock (e : EntropySt) : Option (Nat × List Octet) :=
  ((List.range 8).map (fun i => (e.served + 1 + i) % 8)).findSome? (fun n => e.acc.find? (fun b => decide (b.1 = n)))

/-- RNG_ENTROPY reservations draw on the FIFO's outputs beyond the two that the next reseed needs (R216), at most `n` of them. -/
def serveEntropy : Nat → State → State
  | 0, s => s
  | n + 1, s =>
    match s.ent.reqs.find? (fun r => r.ent) with
    | none => s
    | some r =>
      if s.ent.fifo.length > 2 ∧ ¬ s.on Reg.RNG_STAT_RAW_OPEN ∧ ¬ s.ent.rawHold then
        let o := nth [] s.ent.fifo 0
        serveEntropy n (takeWords (s.setEnt (fun e => { e with fifo := e.fifo.drop 1 })) r (outputWords 14 o))
      else s

/-- A conditioned output: the leftmost 256 bits of SHA-384 of a block, into the FIFO. -/
def conditioned (s : State) : State :=
  match nextBlock s.ent with
  | none => s
  | some b =>
    serveEntropy 16 (s.setEnt (fun e => { e with
      acc := e.acc.erase b
      served := b.1
      fifo := if e.fifo.length < 16 then e.fifo ++ [(sha384 b.2).take 32] else e.fifo }))

/-! ### The DRBG (R210 to R214) -/

/-- BCC of SP 800-90A. -/
def bcc (key : List Octet) (data : List Octet) : Block :=
  (blocksOf data).foldl (fun c b => aesEnc key (c ^^^ b)) 0

/-- Block_Cipher_df of SP 800-90A with AES-256, 48 octets out. -/
def blockCipherDf (inp : List Octet) : List Octet :=
  let body := beOctets 4 inp.length ++ beOctets 4 48 ++ inp ++ [0x80]
  let body := body ++ List.replicate ((16 - body.length % 16) % 16) 0
  let k0 := (List.range 32).map (fun i => BitVec.ofNat 8 i)
  let t := (List.range 3).flatMap (fun i => octetsOf (bcc k0 (beOctets 4 i ++ List.replicate 12 0 ++ body)))
  let k := t.take 32
  let x0 := blockOf (t.drop 32)
  let x1 := aesEnc k x0
  let x2 := aesEnc k x1
  octetsOf x1 ++ octetsOf x2 ++ octetsOf (aesEnc k x2)

/-- A reseed with two conditioned outputs. -/
def drbgReseed (d : Drbg) (a b : List Octet) : Drbg := { drbgUpdate d (blockCipherDf (a ++ b)) with cnt := 1 }

/-- The instantiation: two outputs, serial number and tamper tick count as personalisation string. -/
def drbgInit (a b pers : List Octet) : Drbg :=
  { drbgUpdate ⟨List.replicate 32 0, 0, 0⟩ (blockCipherDf (a ++ b ++ pers)) with cnt := 1 }

/-- Is a reseed due: asked for, or before the 4,097th request? -/
def reseedDue (s : State) : Bool := s.ent.due || decide (s.rd Reg.DRBG_REQS ≥ 4096)

/-- A due reseed is served once two outputs are held (R211). -/
def serveReseed (s : State) : State :=
  match s.drbg, s.ent.fifo with
  | some d, a :: b :: rest =>
    if ¬ reseedDue s then s
    else
      let s := { s with drbg := some (drbgReseed d a b) }
      let s := s.setEnt (fun e => { e with
        fifo := rest
        due := false
        rawHold := if s.on Reg.RNG_STAT_RAW_OPEN then e.rawHold else false })
      let s := (s.wr Reg.DRBG_REQS 0).flag Reg.RNG_CTL_RESEED false
      let c := s.rd2 Reg.DRBG_RSD_L Reg.DRBG_RSD_H + 1
      let s := if c < 2 ^ 36 then s.wr2 Reg.DRBG_RSD_L Reg.DRBG_RSD_H c
        else (s.wr2 Reg.DRBG_RSD_L Reg.DRBG_RSD_H 0).flag Reg.RNG_STAT_RSO true
      s.wr Reg.RNG_STAT_DRBG 1
  | _, _ => s

/-- One generate request of the ready DRBG. -/
def drbgRequest (s : State) (d : Drbg) (n : Nat) : List Octet × State :=
  let r := drbgGenerate d n
  (r.1, ({ s with drbg := some r.2 }).wr Reg.DRBG_REQS (s.rd Reg.DRBG_REQS + 1))

/-- Random octets for secure firmware, class 2 (R214), drawn within the command that needs them, at most 64 blocks. A due reseed is
served first; where the DRBG has nothing to give, or its reseed still waits for outputs, the octets are free (log 23). -/
def drawRandom (s : State) (n : Nat) : List Octet × State :=
  let s := serveReseed s
  match s.drbg with
  | some d => if reseedDue s then s.freeOctets n else drbgRequest s d n
  | none => s.freeOctets n

/-- The reel whose expander asks for a seed (R147): never seeded, or 2^20 permutations since its seed, and none waiting. -/
def seedWanted (s : State) : Option Nat :=
  (List.range 32).find? (fun r =>
    let e := tget Expander.zero s.floor.expanders r
    decide (e.seed.isNone ∧ (e.st = [] ∨ e.perms ≥ 2 ^ 20)))

/-- The oldest pending reservation of the highest non-empty class (Table 9.4); class 4 waits while raw access is open and for the
reseed after it. -/
def nextReq (s : State) : Option RngReq :=
  let open4 := !s.on Reg.RNG_STAT_RAW_OPEN && !s.ent.rawHold
  match s.ent.reqs.find? (fun r => decide (r.cls = 3)) with
  | some r => some r
  | none => s.ent.reqs.find? (fun r => decide (r.cls = 4) && !r.ent && open4)

/-- The DRBG serves one request (R214): an expander's seed of two blocks, or up to 64 blocks of a reservation. -/
def serveGenerate (s : State) : State :=
  if reseedDue s ∧ s.ent.fifo.length < 2 then s
  else
    let s := serveReseed s
    match s.drbg with
    | none => s
    | some d =>
      match seedWanted s with
      | some r =>
        let (o, s) := drbgRequest s d 32
        let e := tget Expander.zero s.floor.expanders r
        { s with floor := { s.floor with expanders := tset Expander.zero s.floor.expanders r { e with seed := some o } } }
      | none =>
        match nextReq s with
        | none => s
        | some r =>
          let blocks := min 64 ((r.words + 6) / 7)
          let (o, s) := drbgRequest s d (16 * blocks)
          takeWords s r (drbgWords o)

/-- Instantiation after its known-answer test (R212, R213); the mesh generator takes its reseed (R377) and DBG_NONCE a fresh value (R349). -/
def instantiate (s : State) (pass : Bool) : State :=
  if s.rd Reg.RNG_STAT_DRBG ≠ 0 then s
  else if ¬ pass then fatalAlarm (latchEntropy (entRecord s 0 3 0 true))
  else
    match s.ent.fifo with
    | a :: b :: rest =>
      let pers := fitOctets 16 Config.deviceSerial ++ beOctets 6 s.tamp.tick
      let s := { s with drbg := some (drbgInit a b pers) }
      let s := (s.setEnt (fun e => { e with fifo := rest, due := false })).wr Reg.RNG_STAT_DRBG 1
      let s := entRecord (s.wr Reg.DRBG_REQS 0) 0 2 0 false
      let (m, s) := if s.tamp.meshDue then drawRandom s 16 else (s.tamp.mesh, s)
      let s := s.setTamp (fun t => { t with mesh := m, meshDue := false })
      let (nonce, s) := drawRandom s 32
      { s with dbg := { s.dbg with nonce := nonce } }
    | _ => s

/-- RNG_CTL.RESEED. -/
def askReseed (s : State) : State :=
  let s := (s.setEnt (fun e => { e with due := true })).flag Reg.RNG_CTL_RESEED true
  if s.drbg.isSome then s.wr Reg.RNG_STAT_DRBG 2 else s

/-! ### Raw access (R217 to R219) -/

/-- Raw access closes, with the journal's level brought up to date. -/
def rawClose (s : State) : State := jlevelUpdate (rawShut s)

/-- RAW_PERMIT is cleared, which closes raw access (R219). -/
def rawForbid (s : State) : State := rawClose (s.flag Reg.RNG_STAT_RAW_PERMIT false)

/-- A capture ends (R218): the packed samples lie from RAW_BASE; both health tests have run on them. -/
def rawCaptured (s : State) (o : List Octet) : State :=
  if ¬ s.on Reg.RAW_STAT_BUSY then s
  else
    let n := 128 * (s.rd Reg.RAW_CTL_COUNT + 1)
    let o := fitOctets n o
    let l := samplesLsb o
    let parts := if s.ent.rawRestart then (List.range (n / 128)).map (fun i => (l.drop (1024 * i)).take 1024) else [l]
    let bad := parts.any (fun p => (rctRun (false, 0) p).2 || aptFails p)
    let base := 2 * (s.rd2 Reg.RAW_BASE_L Reg.RAW_BASE_H / 64 * 64 - 0x400000000)
    let s := putOctets s ((List.range n).zip o |>.map (fun e => (base + e.1, e.2)))
    let s := if bad then s.flag Reg.RAW_STAT_HEALTH true else s
    latchEntropy (((s.flag Reg.RAW_STAT_BUSY false).flag Reg.RAW_CTL_GO false).flag Reg.RAW_STAT_DONE true)

/-! ### The journal's memory (R286 to R290) -/

def State.setJnl (s : State) (f : JournalSt → JournalSt) : State := { s with jnl := f s.jnl }

/-- CHAIN_FLUSHED, the start of the chain before the first flush. -/
def State.chainFlushed (s : State) : List Octet := if s.jnl.chainFlushed = [] then chainZero else s.jnl.chainFlushed

/-- A flush starts. -/
def startFlush (s : State) : State := if s.jnl.buf = [] then s else s.flag Reg.JNL_STAT_FLUSHING true

/-- The records that journal memory can take now, written in SEQ order; FLUSHED, CHAIN_FLUSHED and ACKED go to the journal head; the
power-fail flush sets CLEAN (Table 12.4). -/
def flushDone (s : State) : State :=
  if ¬ s.on Reg.JNL_STAT_FLUSHING then s
  else
    let n := if s.on Reg.JNL_STAT_UNAVAIL then 0 else min s.jnl.buf.length s.jfree
    let w := s.jnl.buf.take n
    let chain := w.foldl (fun c r => sha384 (c ++ r.octets)) s.chainFlushed
    let s := s.setJnl (fun j => { j with
      buf := j.buf.drop n,
      mem := w.foldl (fun t r => tset JRec.none t (r.seq % j.cap) r) j.mem,
      flushed := (w.getLast?.map (fun r => r.seq)).getD j.flushed,
      chainFlushed := chain,
      clean := s.rst.pfFlush && decide (j.buf.length = n) })
    jlevelUpdate (s.flag Reg.JNL_STAT_FLUSHING false)

/-- The highest SEQ found in journal memory. -/
def State.highestSeq (s : State) : Nat := (s.jnl.mem.map (fun e => e.2.seq)).foldl max 0

/-- The journal resumes at a start (Table 12.5); the very first start makes JOURNAL_START (R283). The header is rewritten only when FLUSHED
equals ACKED (R290). -/
def journalResume (s : State) : State :=
  let rec0 := fun (s : State) typ arg pay => jrecG s typ 0xE0 arg pay false Config.noMasterWorld false
  let s := s.setJnl (fun j => { j with buf := [] })
  let s :=
    if ¬ s.jnl.headValid then
      let k := min 15 (s.jnl.epoch + 1)
      let high := s.highestSeq
      let next := if s.jnl.epoch ≥ 15 then high + 1 else max (high + 1) (k * 2 ^ 59)
      let s := s.setJnl (fun j => { j with
        epoch := k, seq := next - 1, flushed := next - 1, acked := next - 1, limit := next + 4096, headValid := true, lost := true,
        chain := sha384 (ascii "CK720JNL" ++ fitOctets 16 Config.deviceSerial ++ leOctets 8 next), chainFlushed :=
          sha384 (ascii "CK720JNL" ++ fitOctets 16 Config.deviceSerial ++ leOctets 8 next) })
      rec0 s 0x0003 k (leOctets 8 high)
    else if s.jnl.clean then
      s.setJnl (fun j => { j with seq := j.flushed, chain := s.chainFlushed })
    else
      let a := s.jnl.flushed + 1
      let b := s.jnl.limit - 1
      let s := s.setJnl (fun j => { j with seq := j.limit - 1, chain := s.chainFlushed, lost := true })
      rec0 s 0x0002 0 (leOctets 8 a ++ leOctets 8 b)
  let s := if s.jnl.seq = 0 then rec0 s 0x0001 0 (fitOctets 16 Config.deviceSerial) else s
  let s := if s.jnl.hdrOk then s
    else if s.jnl.flushed = s.jnl.acked then
      rec0 (s.setJnl (fun j => { j with hdrOk := true })) 0x0004 s.jnl.cap (fitOctets 16 Config.deviceSerial)
    else s.flag Reg.JNL_STAT_UNAVAIL true
  jlevelUpdate (s.flag Reg.JNL_STAT_STUCK (decide (s.jnl.seq ≥ 2 ^ 64 - 2)))

/-- JREC_CMD.GO (R303). -/
def submitRecord (s : State) (sc : Nat) (cont reserve : Bool) : State :=
  let s := (s.flag Reg.JREC_CMD_CONT cont).flag Reg.JREC_CMD_RESERVE reserve
  if ¬ reserve ∧ s.journalFull then (s.flag Reg.JREC_STAT_REFUSED true).flag Reg.JREC_STAT_DONE true
  else
    let o := unpackWords ((List.range 19).map (fun w => s.rd (Reg.JREC_DATA w)))
    let s := jrecG s (leAt o 0 2) sc (leAt o 2 4) (octAt o 6 32) cont true false
    (s.flag Reg.JREC_STAT_REFUSED false).flag Reg.JREC_STAT_DONE true

def execReseed (s : State) : Out := done (askReseed s)
def execRetire (n : Fin 8) (s : State) : Out := done (srcRetire s n)
def execRawCtlClose (_sc : Fin 2) (s : State) : Out :=
  done (if s.on Reg.RNG_STAT_RAW_PERMIT then rawClose s else lockViolation s _sc true true 0x30140050)
def execRawCaptureEnd (samples : List Octet) (s : State) : Out := done (rawCaptured s samples)
def execEntropyBlockComplete (n : Fin 8) (samples : List Octet) (s : State) : Out := done (blockComplete s n samples)
def execStartupTestEnd (n : Fin 8) (samples : List Octet) (s : State) : Out := done (startupEnd s n samples)
def execConditionedOutputReady (s : State) : Out := done (conditioned s)
def execDrbgGenerateServe (s : State) : Out := done (serveGenerate s)
def execDrbgReseedServe (s : State) : Out := done (serveReseed s)
def execDrbgInstantiate (testPass : Bool) (s : State) : Out := done (instantiate s testPass)
def execJrecSubmit (sc : Fin 2) (cont reserve : Bool) (s : State) : Out := done (submitRecord s sc cont reserve)
/-- R286: the oldest unflushed record is 1 ms old. -/
def execJournalAgeTimer (s : State) : Out := done (startFlush s)
def execJournalFlushDone (s : State) : Out := done (flushDone s)

end Sys2Proof.Machine
end

