-- ==== Sys2Proof/Machine/Vault.lean ====
section
/-! DEFINITION. The key store core's data (spec/10): roots and derivations, bindings and attributes, vault records and record map, key objects,
device records of DOM_0 (R262), allocation and destruction, counters and leases, the vault image. -/
namespace Sys2Proof.Machine

/-- The master on whose behalf an operation runs: its ID and world (R282). -/
structure Who where
  m : Nat
  world : Bool
  deriving DecidableEq, Repr

/-- The key store core itself. -/
def Who.core : Who := ⟨3, true⟩

/-- A journal record for an operation. -/
def recordFor (s : State) (w : Who) (typ arg : Nat) (payload : List Octet) : State := jrecG s typ w.m arg payload false w.world false

/-- What an operation answers: it waits in Ingress; or a status, result word 0, output octets, and the vault pages whose commit its
completion waits for (R246; empty for none). -/
inductive Rep
  | wait
  | fin (status r0 : Nat) (out : List Octet) (hold : List Nat)
  deriving DecidableEq, Repr

/-- A plain refusal. -/
def Rep.no (status r0 : Nat) : Rep := .fin status r0 [] []
/-- Success at once. -/
def Rep.ok (out : List Octet) : Rep := .fin 0 0 out []

/-! ### Bindings and attributes (Tables 10.5, 10.6) -/

/-- Octets of material of a binding at a key length. -/
def matLen (binding bits : Nat) : Nat := if binding = 0x28 then 4 + 7 * bits / 16 else (bits + 7) / 8

/-- Key lengths that a binding admits. -/
def admitsBits (binding bits : Nat) : Bool :=
  let among := fun (l : List Nat) => decide (bits ∈ l)
  let within := fun lo hi => decide (lo ≤ bits ∧ bits ≤ hi)
  match binding with
  | 1 | 2 | 4 | 5 | 6 => among [128, 192, 256]
  | 3 => among [256, 512]
  | 7 | 8 => among [256]
  | 0x10 => within 8 512
  | 0x11 | 0x12 => within 8 1024
  | 0x13 => within 128 512
  | 0x14 => within 256 512
  | 0x15 => within 256 1024
  | 0x20 | 0x24 => among [256]
  | 0x21 | 0x23 => among [384]
  | 0x22 => among [528]
  | 0x28 => within 2048 16384 && decide (bits % 1024 = 0)
  | 0x30 => among [25344]
  | 0x31 => among [19200]
  | 0x32 => among [32256]
  | 0x33 => among [39168]
  | 0x34 => among [1024]
  | _ => false

/-- The attributes that a binding admits, as a mask. -/
def attrMask (binding : Nat) : Nat :=
  let exp := 128
  match binding with
  | 1 | 2 | 3 | 5 => 3 + exp
  | 4 => 2 + exp
  | 6 => 48 + exp
  | 7 => 64 + exp
  | 8 => 48
  | 0x10 | 0x11 | 0x12 | 0x13 | 0x14 => 4 + exp
  | 0x15 => 68 + exp
  | 0x20 | 0x21 | 0x22 | 0x24 | 0x28 | 0x32 | 0x33 | 0x34 => 8 + 256 + exp
  | 0x23 | 0x30 | 0x31 => 8 + exp
  | _ => 0

/-- Is one attribute word within another? -/
def attrWithin (a b : Nat) : Bool := decide (BitVec.ofNat 16 a &&& BitVec.ofNat 16 b = BitVec.ofNat 16 a)

/-- Does Table 10.6 admit a key? -/
def admits (binding bits attr : Nat) : Bool :=
  admitsBits binding bits && attrWithin attr (attrMask binding) && (decide (binding ≠ 0x15) || bit attr 2 == bit attr 6)

/-! ### Key objects (R229) -/

/-- A key object as Table 10.4 lays it out. -/
structure Obj where
  binding : Nat
  bits : Nat
  dom : Nat
  flags : Nat
  attr : Nat
  cBinding : Nat
  cAttr : Nat
  cBits : Nat
  limit : Nat
  count : Nat
  countMark : Nat
  inv : Nat
  invEnd : Nat
  invMark : Nat
  mat : List Octet
  deriving DecidableEq, Repr

/-- The records of an object. -/
def Obj.nRec (o : Obj) : Nat := 1 + (o.mat.length - 64 + 127) / 128

/-- Octets 0x00 to 0x0F of the HEAD record. -/
def Obj.front (o : Obj) : List Octet :=
  [1] ++ leOctets 1 o.binding ++ leOctets 2 o.bits ++ leOctets 2 (o.dom % 4096) ++ leOctets 1 o.nRec ++ leOctets 1 o.flags ++
    leOctets 2 o.attr ++ leOctets 1 o.cBinding ++ [0] ++ leOctets 2 o.cAttr ++ leOctets 2 o.cBits

/-- KEY_CHECK. -/
def Obj.check (o : Obj) : List Octet := (sha384 (o.front ++ o.mat)).take 8

/-- Octets 0x00 to 0x37 of the HEAD record. -/
def Obj.header (o : Obj) : List Octet :=
  o.front ++ leOctets 5 o.limit ++ leOctets 5 o.count ++ leOctets 5 o.countMark ++ [0] ++ leOctets 8 o.inv ++ leOctets 8 o.invEnd ++
    leOctets 8 o.invMark

/-- The records' octets, 128 each. -/
def Obj.octets (o : Obj) : List Octet := fitOctets (128 * o.nRec) (o.header ++ o.check ++ o.mat)

/-- An object from the octets of its records. -/
def Obj.parse (o : List Octet) : Obj :=
  let binding := leAt o 1 1
  let bits := leAt o 2 2
  ⟨binding, bits, leAt o 4 2, leAt o 7 1, leAt o 8 2, leAt o 0xA 1, leAt o 0xC 2, leAt o 0xE 2, leAt o 0x10 5, leAt o 0x15 5,
    leAt o 0x1A 5, leAt o 0x20 8, leAt o 0x28 8, leAt o 0x30 8, octAt o 0x40 (matLen binding bits)⟩

/-- Is a key's template admitted, with its child's where it derives (R231)? -/
def Obj.admitted (o : Obj) : Bool :=
  admits o.binding o.bits o.attr && (!bit o.attr aDerive || admits o.cBinding o.cBits o.cAttr)

/-- The usage lease of a limit (R239). -/
def usageLease (limit : Nat) : Nat := max 1 (min (2 ^ 20) (limit / 64))

/-! ### Handles -/

/-- A handle of domain, record and generation (R226). -/
def handleOf (d r g : Nat) : Nat := d * 2 ^ 36 + r * 2 ^ 12 + g
def hDom (h : Nat) : Nat := h / 2 ^ 36 % 4096
def hRec (h : Nat) : Nat := h / 2 ^ 12 % 2 ^ 24
def hGen (h : Nat) : Nat := h % 4096

/-! ### Records and the record map (R227) -/

/-- The records of the vault. -/
def vaultRecords : Nat := 16777216

/-- The empty-record pattern (R360). -/
def emptyRecord : List Octet := 0xFF :: List.replicate 127 0

def State.setVault (s : State) (f : Vault → Vault) : State := { s with vault := f s.vault }
def State.vrec (s : State) (r : Nat) : List Octet := tget emptyRecord s.vault.recs r
def State.vmap (s : State) (r : Nat) : Nat := tget 0 s.vault.map r
/-- STATE of a map entry; 5 to 7 act as RETIRED. -/
def mapState (e : Nat) : Nat := min 4 (e / 2 ^ 13)
/-- GEN of a map entry. -/
def mapGen (e : Nat) : Nat := e % 4096
/-- A map entry. -/
def mapEntry (st gen : Nat) : Nat := st * 2 ^ 13 + gen

/-- Is a record FREE or DESTROYED? -/
def recFree (e : Nat) : Bool := decide (mapState e = 0 ∨ mapState e = 3)

/-- The image page of a record, and of a map entry (R256). -/
def recPage (r : Nat) : Nat := r / 512
def mapPage (r : Nat) : Nat := 32768 + r / 32768

/-- A number added to a rising list. -/
def insNat (n : Nat) : List Nat → List Nat
  | [] => [n]
  | m :: l => if n < m then n :: m :: l else if n = m then m :: l else m :: insNat n l

/-- A page changed since the last commit. -/
def markDirty (s : State) (p : Nat) : State :=
  (s.setVault (fun v => { v with dirty := insNat p v.dirty })).flag Reg.KS_STAT_DIRTY true

/-- KS_FREE, KS_RETIRED, KS_IMPSEQ brought up to date. -/
def vaultCounts (s : State) : State :=
  let busy := (s.vault.map.filter (fun e => !recFree e.2)).length
  let ret := (s.vault.map.filter (fun e => decide (mapState e.2 = 4))).length
  ((s.wr2 Reg.KS_FREE_L Reg.KS_FREE_H (vaultRecords - busy)).wr Reg.KS_RETIRED (stick 18 ret)).wr2 Reg.KS_IMPSEQ_L Reg.KS_IMPSEQ_H s.vault.impSeq

/-- The lines of the vault region that hold records and their map entries. -/
def recLines (s : State) (r n : Nat) : List Nat :=
  let b := s.vaultBase * 1024
  (List.range (2 * n)).map (fun i => b + 2 * r + i) ++ [b + 2 ^ 25 + r / 32, b + 2 ^ 25 + (r + n - 1) / 32]

/-- A read of the lines of records (R227, R361): 0, or the status of Table 15.5. -/
def readLines (s : State) : List Nat → State × Nat
  | [] => (s, 0)
  | l :: rest =>
    match lineCheck s l 3 with
    | (s, none) => readLines s rest
    | (s, some .poisoned) => (s, 0x51)
    | (s, some .integrity) => (s, 0x50)

/-- A line that a write of records finds stuck (R357). -/
def stuckLines (s : State) (ls : List Nat) : Bool := ls.any (fun l => decide (tget 0 s.mem.ver l ≥ 2 ^ 56 - 1))

/-- A record written, as two full lines (R363). -/
def putRecord (s : State) (r : Nat) (o : List Octet) : State :=
  let lines := (recLines s r 1).take 2
  let s := s.setMem (fun m => lines.foldl (fun m l => { m with
    ver := tset 0 m.ver l (tget 0 m.ver l + 1), poison := tdel m.poison l, bad := tdel m.bad l, chainBad := tdel m.chainBad l }) m)
  markDirty (s.setVault (fun v => { v with recs := tset emptyRecord v.recs r o })) (recPage r)

/-- A map entry written. -/
def putMap (s : State) (r e : Nat) : State :=
  let l := s.vaultBase * 1024 + 2 ^ 25 + r / 32
  let s := s.setMem (fun m => { m with ver := tset 0 m.ver l (tget 0 m.ver l + 1) })
  markDirty (s.setVault (fun v => { v with map := tset 0 v.map r e })) (mapPage r)

/-- An object written over its records. -/
def putObj (s : State) (r : Nat) (o : Obj) : State :=
  (List.range o.nRec).foldl (fun s i => putRecord s (r + i) (octAt o.octets (128 * i) 128)) s

/-- The octets of an object's records: as many as its HEAD counts. -/
def objOctets (s : State) (r : Nat) : List Octet :=
  (List.range (max 1 (leAt (s.vrec r) 6 1))).flatMap (fun i => s.vrec (r + i))

/-- The object at a HEAD record. -/
def State.obj (s : State) (r : Nat) : Obj := Obj.parse (objOctets s r)

/-- The pages of an object's records and map entries. -/
def objPages (r n : Nat) : List Nat :=
  (List.range n).foldl (fun l i => insNat (mapPage (r + i)) (insNat (recPage (r + i)) l)) []

/-! ### Device records of DOM_0 (R262) -/

def bPolicy : Nat := 0xE0
def bOfficer : Nat := 0xE1
def bSigner : Nat := 0xE2
/-- A quadrille record: approved sets and roster (spec/17). -/
def bRoster : Nat := 0xE3

/-- A device record as an object: KEY_BITS counts its material. -/
def deviceObj (binding : Nat) (mat : List Octet) : Obj := ⟨binding, 8 * mat.length, 0, 0, 0, 0, 0, 0, 0, 0, 0, 0, 0, 0, mat⟩

/-- The HEAD records of a binding whose material satisfies a test. -/
def findDevice (s : State) (binding : Nat) (p : List Octet → Bool) : Option Nat :=
  (s.vault.recs.find? (fun e => decide (mapState (s.vmap e.1) = 1) && decide (leAt e.2 1 1 = binding) && p (s.obj e.1).mat)).map Prod.fst

/-- The policy record of a domain. -/
def policyRec (s : State) (d : Nat) : Option Nat := findDevice s bPolicy (fun m => decide (leAt m 0 2 = d))
/-- An officer record. -/
def officerRec (s : State) (d i : Nat) : Option Nat := findDevice s bOfficer (fun m => decide (leAt m 0 2 = d ∧ leAt m 2 1 = i))
/-- A domain's policy material (Table 11.1), empty where it is ABSENT. -/
def State.policy (s : State) (d : Nat) : List Octet := (policyRec s d).elim [] (fun r => (s.obj r).mat)
/-- A domain's STATE: 0 ABSENT, 1 ACTIVE, 2 SUSPENDED, 3 DESTROYING. -/
def State.domState (s : State) (d : Nat) : Nat := leAt (s.policy d) 2 1

/-- A device record's material replaced in place. -/
def putDevice (s : State) (r : Nat) (mat : List Octet) : State :=
  let o := s.obj r
  putObj s r (deviceObj o.binding mat)

/-- USED of a domain changed by a number of records. It is no policy change: POLICY_SEQ stays (DEDUCED, log 24). -/
def addUsed (s : State) (d : Nat) (grow : Bool) (n : Nat) : State :=
  match policyRec s d with
  | none => s
  | some r =>
    let m := (s.obj r).mat
    let u := leAt m 0xC 4
    putDevice s r (setOctets m 0xC (leOctets 4 (if grow then u + n else u - n)))

/-! ### Allocation and destruction (R228, R250) -/

/-- May a run start at a record? -/
def runFree (s : State) (n c : Nat) : Bool :=
  decide (c + n ≤ vaultRecords) && s.vault.map.all (fun e => decide (e.1 < c ∨ c + n ≤ e.1) || recFree e.2)

/-- The lowest run of n records that are FREE or DESTROYED: it starts at 0 or just after a record that is neither. -/
def findRun (s : State) (n : Nat) : Option Nat :=
  (0 :: (s.vault.map.filter (fun e => !recFree e.2)).map (fun e => e.1 + 1)).find? (runFree s n)

/-- Is the domain's quota passed (R228, R263)? -/
def quotaFull (s : State) (d n : Nat) : Bool :=
  let m := s.policy d
  decide (m ≠ [] ∧ leAt m 0xC 4 + n > leAt m 8 4)

/-- An object created: its handle, or result word 0 of LOCKED. -/
def createObj (s : State) (o : Obj) : State × Except Nat Nat :=
  let n := o.nRec
  match findRun s n with
  | none => (s, .error 1)
  | some r =>
    if quotaFull s o.dom n then (s, .error 2)
    else
      let s := (List.range n).foldl (fun s i => putMap s (r + i) (mapEntry (if i = 0 then 1 else 2) (mapGen (s.vmap (r + i)) + 1))) s
      let s := addUsed (putObj s r o) o.dom true n
      (vaultCounts s, .ok (handleOf o.dom r (mapGen (s.vmap r))))

/-- The pages that a creation or destruction changed: those of its records and of the domain's policy record. -/
def changedPages (s : State) (d r n : Nat) : List Nat :=
  (policyRec s d).elim (objPages r n) (fun p => insNat (recPage p) (objPages r n))

/-- KS_PINNED. -/
def pinCount (s : State) : State :=
  s.wr Reg.KS_PINNED ((s.cache.filter (fun e => decide (e.1 < 8000 ∧ e.2.pins > 0))).map (fun e => e.2.n)).sum

/-- A handle's cache entry is invalidated: pinned slots keep the key until their last command completes (R250). -/
def dropCached (s : State) (h : Nat) : State :=
  { s with cache := (s.cache.filter (fun e => !decide (e.2.handle = h ∧ e.2.pins = 0))).map (fun e =>
      if e.2.handle = h then (e.1, { e.2 with handle := 0 }) else e) }

/-- An object destroyed: DESTROYED, or RETIRED at generation 0xFFF with its record 0x0210. -/
def destroyObj (s : State) (r : Nat) : State :=
  let o := s.obj r
  let h := handleOf o.dom r (mapGen (s.vmap r))
  let n := max 1 (leAt (s.vrec r) 6 1)
  let s := (List.range n).foldl (fun s i =>
    let g := mapGen (s.vmap (r + i))
    let s := putRecord (putMap s (r + i) (mapEntry (if g = 0xFFF then 4 else 3) g)) (r + i) emptyRecord
    if g = 0xFFF then jrec s 0x0210 0xE3 6 (leOctets 8 (handleOf o.dom (r + i) g)) else s) s
  vaultCounts (addUsed (dropCached s h) o.dom false n)

/-! ### Reading a key (Table 10.10, steps 1 to 6) -/

/-- The object that a handle names: its HEAD record, or a status and result word 0. -/
def openObj (s : State) (h : Nat) (suspendedOk : Bool) : State × Except (Nat × Nat) Nat :=
  let st := s.domState (hDom h)
  if st = 3 ∨ (st = 2 ∧ ¬ suspendedOk) then (s, .error (0x43, 4))
  else if s.rd Reg.KS_STAT_VAULT ≠ 2 then (s, .error (0x43, 3))
  else
    let r := hRec h
    let e := s.vmap r
    match readLines s ((recLines s r 1).drop 2) with
    | (s, 0) =>
      if mapGen e ≠ hGen h ∨ mapState e = 0 ∨ mapState e = 2 then (s, .error (0x21, 0))
      else if mapState e ≠ 1 then (s, .error (0x22, 0))
      else
        let n := max 1 (leAt (s.vrec r) 6 1)
        match readLines s ((recLines s r n).take (2 * n)) with
        | (s, 0) =>
          let o := s.obj r
          if o.dom ≠ hDom h then (s, .error (0x21, 0))
          else if leAt (s.vrec r) 0 1 ≠ 1 ∨ octAt (s.vrec r) 0x38 8 ≠ o.check then (s, .error (0x50, 0))
          else (s, .ok r)
        | (s, c) => (s, .error (c, 0))
    | (s, c) => (s, .error (c, 0))

/-! ### Counters and leases (R236 to R239) -/

/-- Result of a charge: charged with the value, refused with a status, or waiting for a commit. -/
inductive Charge
  | made (v : Nat)
  | refused (status : Nat)
  | waits
  deriving DecidableEq, Repr

/-- LEASE_WAIT sets and both PFs are told. -/
def leaseWait (s : State) : State :=
  if s.on Reg.KS_STAT_LEASE_WAIT then s else pfEvent (s.flag Reg.KS_STAT_LEASE_WAIT true) 5

/-- The usage charge of the object at a HEAD record. -/
def chargeUsage (s : State) (r : Nat) : State × Charge :=
  let o := s.obj r
  let h := handleOf o.dom r (mapGen (s.vmap r))
  if (o.limit ≠ 0 ∧ o.count ≥ o.limit) ∨ o.count ≥ 2 ^ 40 - 1 then (s, .refused 0x13)
  else if o.limit ≠ 0 ∧ o.count ≥ o.countMark then
    (leaseWait (putObj s r { o with countMark := o.countMark + usageLease o.limit }), .waits)
  else
    let s := putObj s r { o with count := o.count + 1 }
    (if o.count + 1 = 2 ^ 40 - 1 then jrec s 0x0210 0xE3 1 (leOctets 8 h) else s, .made o.count)

/-- The INV charge of the object at a HEAD record. -/
def chargeInv (s : State) (r : Nat) : State × Charge :=
  let o := s.obj r
  let h := handleOf o.dom r (mapGen (s.vmap r))
  if o.inv ≥ o.invEnd then (s, .refused 0x12)
  else if o.inv ≥ o.invMark then (leaseWait (putObj s r { o with invMark := o.invMark + 2 ^ 20 }), .waits)
  else
    let s := putObj s r { o with inv := o.inv + 1 }
    (if o.inv + 1 = o.invEnd then jrec s 0x0210 0xE3 2 (leOctets 8 h) else s, .made o.inv)

/-- A value of IMPORT_SEQ taken (R237, R239). `blocked`: an earlier taker waits for its lease. -/
def takeImport (s : State) (blocked : Bool) : State × Charge :=
  let v := s.vault.impSeq
  if v ≥ 2 ^ 26 - 2 then (s, .refused 0x12)
  else if blocked then (s, .waits)
  else if v ≥ s.vault.impMark then
    (leaseWait ((s.setVault (fun x => { x with impMark := x.impMark + 256 })).flag Reg.KS_STAT_DIRTY true), .waits)
  else
    let s := vaultCounts (s.setVault (fun x => { x with impSeq := v + 1 }))
    let s := s.flag Reg.KS_STAT_DIRTY true
    (if v + 1 = 2 ^ 26 - 2 then jrec s 0x0210 0xE3 3 [] else s, .made v)

/-- INV of an object that arrives (Table 10.8, row 2). -/
def arrivalInv (s : State) (v : Nat) : Nat := 2 ^ 63 + (s.otp.comm - 1) * 2 ^ 58 + v * 2 ^ 32

/-- An object with its starting counters: generated on this device, or arrived with an IMPORT_SEQ value. -/
def Obj.started (o : Obj) (s : State) (imp : Option Nat) : Obj :=
  let o := match imp with
    | none => { o with inv := 0, invEnd := 2 ^ 63, invMark := 2 ^ 20 }
    | some v => let b := arrivalInv s v; { o with inv := b, invEnd := b + 2 ^ 32, invMark := b + 2 ^ 20 }
  { o with countMark := if o.limit = 0 then 0 else o.count + usageLease o.limit }

/-! ### FIXED (R238) -/

/-- The standalone value of FIXED. -/
def standaloneFixed : Nat := Config.factoryIndex / 2 ^ 14 % 2 ^ 12 * 2 ^ 20 + Config.factoryIndex % 2 ^ 14
/-- FIXED set. -/
def setFixed (s : State) (v : Nat) : State := s.wr2 Reg.KS_FIXED_L Reg.KS_FIXED_H v
/-- FIXED of the device. -/
def State.fixed (s : State) : Nat := s.rd2 Reg.KS_FIXED_L Reg.KS_FIXED_H

/-! ### Derived device keys (R224) -/

/-- A derivation of Table 10.2. -/
def deviceKey (root : List Octet) (label : String) (n : Nat) : List Octet :=
  kdfCounter (hmac384 root) 48 (ascii label) (fitOctets 16 Config.deviceSerial) n

/-- The group order of P-384 (FIPS 186-5). -/
def nP384 : Nat := 0xFFFFFFFFFFFFFFFFFFFFFFFFFFFFFFFFFFFFFFFFFFFFFFFFC7634D81F4372DDF581A0DB248B0A77AECEC196ACCC52973

/-- A P-384 scalar from 448 bits. -/
def scalar384 (c : List Octet) : List Octet := beOctets 48 (ofBe c % (nP384 - 1) + 1)

/-- Algorithm codes: 1 ML-DSA-87, 2 ECDSA P-384, 3 ML-KEM-1024, 4 ECDH P-384, 10 LMS. -/
def identityMat (alg : Nat) : List Octet :=
  if alg = 1 then deviceKey Config.identityRoot "CK720 ID MLDSA" 32
  else scalar384 (deviceKey Config.identityRoot "CK720 ID ECDSA" 56)
/-- An identity public key. -/
def identityPub (alg : Nat) : List Octet := Config.publicKey alg (identityMat alg)
/-- Transport key material under the storage root. -/
def transportMat (root : List Octet) (alg : Nat) : List Octet :=
  if alg = 3 then deviceKey root "CK720 TR MLKEM" 64 else scalar384 (deviceKey root "CK720 TR ECDH" 56)
/-- A transport public key. -/
def transportPub (root : List Octet) (alg : Nat) : List Octet := Config.publicKey alg (transportMat root alg)
/-- The vault-key KEK. -/
def vaultKek (root : List Octet) : List Octet := deviceKey root "CK720 VK WRAP" 32
/-- The image key. -/
def imageKey (vk : List Octet) : List Octet := deviceKey vk "CK720 IMAGE" 32

/-! ### The vault image (R256 to R259) -/

/-- The image pages. -/
def imagePages : Nat := 33280

/-- The contents of a page: 512 records, or 32,768 map entries. -/
def pageOctets (s : State) (p : Nat) : List Octet :=
  if p < 32768 then (List.range 512).flatMap (fun i => s.vrec (512 * p + i))
  else (List.range 32768).flatMap (fun i => leOctets 2 (s.vmap (32768 * (p - 32768) + i)))

/-- A page's version. -/
def State.pageVer (s : State) (p : Nat) : Nat := tget 0 s.vault.ver p

/-- A page blob (Table 10.16). -/
def pageBlob (s : State) (vk : List Octet) (p v : Nat) : List Octet :=
  let head := [0x43, 0x4B, 0x56, 0x50, 1, 0, 0, 0] ++ leOctets 4 p ++ [0, 0, 0, 0] ++ leOctets 8 v ++ List.replicate 8 0
  let c := gcmSeal (imageKey vk) (beOctets 4 p ++ beOctets 8 v) head (pageOctets s p)
  head ++ c.1 ++ c.2

/-- The version table blob (Table 10.20). -/
def tableBlob (s : State) (root vk : List Octet) (seq : Nat) : List Octet :=
  let head := [0x43, 0x4B, 0x56, 0x54, 1, 0, 0, 0] ++ leOctets 8 seq ++ kwpWrap (vaultKek root) vk ++ List.replicate 8 0
  let body := leOctets 4 s.vault.impSeq ++ leOctets 4 s.vault.impMark ++
    (List.range imagePages).flatMap (fun p => leOctets 8 (s.pageVer p))
  let c := gcmSeal (imageKey vk) (beOctets 4 0xFFFFFFFF ++ beOctets 8 seq) head body
  head ++ c.1 ++ c.2

/-- The octets of a page blob and of the version table blob. -/
def pageBlobLen : Nat := 65584
def tableBlobLen : Nat := 266328

/-- IMAGE_ROOT's counting bank: digest and IMAGE_SEQ (R257). -/
def State.imageRoot (s : State) : List Octet × Nat :=
  if s.tamp.bank0.2 ≥ s.tamp.bank1.2 then s.tamp.bank0 else s.tamp.bank1

/-- The older bank takes IMAGE_ROOT (R258, step 4). -/
def putImageRoot (s : State) (dig : List Octet) (seq : Nat) : State :=
  s.setTamp (fun t => if t.bank0.2 ≥ t.bank1.2 then { t with bank1 := (dig, seq) } else { t with bank0 := (dig, seq) })

/-- What a command waits for, beside image pages: the version table's marks, and the end of a domain's destruction (R281). -/
def waitTable : Nat := 33280
def waitDomain (d : Nat) : Nat := 40000 + d

/-- Everything that waits for a commit is contained in the commit that opens now; a domain's destruction is not over yet. -/
def coverWaits (s : State) : State :=
  { s with cmds := s.cmds.map (fun (c : Cmd) => { c with wait := c.wait.filter (fun p => decide (40000 ≤ p)) }),
           ks := { s.ks with wait := s.ks.wait.filter (fun p => decide (40000 ≤ p)) } }

/-- A commit abandoned before step 4 (R261): its pages are uncommitted again, and what it covered waits again. -/
def abandonCommit (s : State) : State :=
  match s.vault.commit with
  | none => s
  | some c =>
    let s := s.setVault (fun v => { v with commit := none, dirty := c.pages.foldl (fun l p => insNat p l) v.dirty })
    ({ s with ks := { s.ks with wait := if s.ks.status = 256 then [waitTable] else s.ks.wait } }.flag
      Reg.KS_STAT_COMMIT_BUSY false).flag Reg.KS_STAT_DIRTY true

/-- A commit opens (R258): refused where a version or IMAGE_SEQ is at its maximum. -/
def openCommit (s : State) : Option State :=
  if s.vault.seq ≥ 2 ^ 64 - 1 ∨ s.vault.dirty.any (fun p => decide (s.pageVer p ≥ 2 ^ 64 - 1)) then none
  else
    let s := s.setVault (fun v => { v with commit := some ⟨v.dirty, v.dirty, none, v.seq + 1⟩, dirty := [] })
    some (((coverWaits s).flag Reg.KS_STAT_COMMIT_BUSY true).flag Reg.KS_STAT_DIRTY false)

/-- Page blobs emitted, each with its version raised, as many as there is room for. -/
def emitPages (vk : List Octet) : List Nat → Nat → State → List Octet × State
  | [], _, s => ([], s)
  | p :: left, room, s =>
    if room < pageBlobLen then ([], s)
    else
      let v := s.pageVer p + 1
      let s := s.setVault (fun x => { x with
        ver := tset 0 x.ver p v
        commit := x.commit.map (fun c => { c with left := left }) })
      let r := emitPages vk left (room - pageBlobLen) s
      (pageBlob s vk p v ++ r.1, r.2)

/-- VAULT_COMMIT: page blobs ascending, then the version table blob; result word 0 counts the blobs still to emit. -/
def commitOp (s : State) (room : Nat) : State × Rep :=
  if s.rd Reg.KS_STAT_VAULT ≠ 2 then (s, .no 0x43 3) else
  match s.tamp.root, s.vault.key with
  | some root, some vk =>
    match if s.vault.commit.isSome then some s else openCommit s with
    | none => (jrec s 0x0212 0xE3 0xFFFFFFFF [24], .no 0x43 24)
    | some s =>
      match s.vault.commit with
      | none => (s, .no 0x43 25)
      | some c =>
        let (o, s) := emitPages vk c.left room s
        let room := room - o.length
        match s.vault.commit with
        | none => (s, .ok o)
        | some c =>
          if c.left = [] ∧ c.table.isNone ∧ room ≥ tableBlobLen then
            let t := tableBlob s root vk c.seq
            (s.setVault (fun v => { v with commit := some { c with table := some t } }), .ok (o ++ t))
          else (s, .fin 0 (c.left.length + b2n c.table.isNone) o [])
  | _, _ => (s, .no 0x43 3)

/-- The mark of a charge whose lease has been committed: it may be made, and keeps its place before later ones until it is. -/
def leaseReady : Nat := 70000

/-- A held completion proceeds once the commit that covers it has taken effect; so may a charge that waited for a lease. -/
def releaseWaits (s : State) : State :=
  let fin := s.cmds.filter (fun (c : Cmd) => decide (c.wait = [] ∧ c.ph = CmdPhase.held))
  let rest := s.cmds.filter (fun (c : Cmd) => !decide (c.wait = [] ∧ c.ph = CmdPhase.held))
  let rest := rest.map (fun (c : Cmd) => if c.lease ∧ c.wait = [] then { c with wait := [leaseReady] } else c)
  let s := { s with cmds := rest ++ fin.map (fun (c : Cmd) => { c with lease := false, ph := .completing }) }
  s.flag Reg.KS_STAT_LEASE_WAIT (s.cmds.any (fun c => c.lease && decide (c.wait ≠ [leaseReady])) || decide (s.ks.status = 256 ∧ s.ks.wait ≠ []))

/-- LEAD_STAT.MC_ALLOWED brought up to date: MC_LEAD of the DOM_0 policy; it reads 0 in Uncommissioned and Zeroized (R272). -/
def mcAllowedRefresh (s : State) : State :=
  s.flag Reg.LEAD_STAT_MC_ALLOWED (bit (leAt (s.policy 0) 3 1) 2 && decide (s.rd Reg.KS_STAT_VAULT = 2) &&
    decide (s.mode ≠ mUncommissioned ∧ s.mode ≠ mZeroized))

/-- VAULT_STORED (R258, steps 3 and 4). The first commit of a commissioning sets COMMISSIONED and the mode (Table 11.7, step 4). -/
def storedOp (s : State) (w : Who) : State × Rep :=
  match s.vault.commit with
  | some ⟨_, [], some t, seq⟩ =>
    let s := putImageRoot s (sha384 t) seq
    let s := (s.setVault (fun v => { v with commit := none, seq := seq })).flag Reg.KS_STAT_COMMIT_BUSY false
    let s := (s.flag Reg.KS_STAT_DIRTY (decide (s.vault.dirty ≠ []))).wr Reg.KS_STAT_VAULT 2
    let s := recordFor s w 0x0211 0 (leOctets 8 seq)
    let s := releaseWaits s
    let s := if s.on Reg.TAMP_STAT_COMMISSIONED then s
      else mcAllowedRefresh (setMode (s.flag Reg.TAMP_STAT_COMMISSIONED true) mOperational 8)
    (s, .ok [])
  | _ => (s, .no 0x43 25)

/-- The vault filled with empty records (R360): the fill starts. -/
def emptyVault (s : State) (vk : List Octet) : State :=
  let s := s.setVault (fun v => { Vault.none with key := some vk, impSeq := v.impSeq, impMark := v.impMark })
  (vaultCounts { s with cache := s.cache.filter (fun e => decide (8000 ≤ e.1)) }).flag Reg.MEM_STAT_VAULT_READY false

/-- A blob refused at a load: status, record 0x0212 with PAGE and cause. -/
def refuseBlob (s : State) (page cause : Nat) : State × Rep :=
  (jrec (s.wr Reg.KS_STAT_VAULT 1) 0x0212 0xE3 page (leOctets 1 cause), .no 0x50 0)

/-- The cold-load rule of R239 for every HEAD record. -/
def coldLoad (s : State) : State :=
  let heads := (s.vault.map.filter (fun e => decide (mapState e.2 = 1))).map Prod.fst
  let s := heads.foldl (fun s r =>
    let o := s.obj r
    s.setVault (fun v => { v with recs := tset emptyRecord v.recs r (octAt
      { o with inv := o.invMark, count := if o.limit = 0 then o.count else min o.countMark o.limit }.octets 0 128) })) s
  mcAllowedRefresh (vaultCounts (s.wr Reg.KS_STAT_VAULT 2))

/-- The version table accepted: vault key, IMPORT_SEQ at its mark, page versions; the fill starts. -/
def loadTable (s : State) (root blob : List Octet) : State × Rep :=
  let seq := leAt blob 8 8
  if sha384 blob ≠ s.imageRoot.1 ∨ seq ≠ s.imageRoot.2 then refuseBlob s 0xFFFFFFFF 1
  else match kwpUnwrap (vaultKek root) (octAt blob 0x10 40) with
    | none => refuseBlob s 0xFFFFFFFF 2
    | some vk =>
      match gcmOpen (imageKey vk) (beOctets 4 0xFFFFFFFF ++ beOctets 8 seq) (octAt blob 0 0x40) (octAt blob 0x40 266248)
          (octAt blob 0x41048 16) with
      | none => refuseBlob s 0xFFFFFFFF 3
      | some t =>
        let ver := ((List.range imagePages).map (fun p => (p, leAt t (8 + 8 * p) 8))).filter (fun e => decide (e.2 ≠ 0))
        let s := emptyVault s vk
        let m := leAt t 4 4
        let s := s.setVault (fun v => { v with ver := ver, seq := seq, impSeq := m, impMark := m, await := ver.map Prod.fst, tableOk := true })
        (vaultCounts (s.wr Reg.KS_STAT_VAULT 1), .ok [])

/-- A page's octets put into the vault. -/
def loadPage (s : State) (p : Nat) (o : List Octet) : State :=
  if p < 32768 then
    (List.range 512).foldl (fun s i => s.setVault (fun v => { v with recs := tset emptyRecord v.recs (512 * p + i) (octAt o (128 * i) 128) })) s
  else
    (List.range 32768).foldl (fun s i =>
      s.setVault (fun v => { v with map := tset 0 v.map (32768 * (p - 32768) + i) (leAt o (2 * i) 2) })) s

/-- VAULT_LOAD of one blob (R259). Page blobs wait for the vault fill (R360). -/
def loadOp (s : State) (blob : List Octet) : State × Rep :=
  match s.tamp.root with
  | none => (s, .no 0x50 0)
  | some root =>
    if s.rd Reg.KS_STAT_VAULT = 2 then (s, .no 0x43 25)
    else if octAt blob 0 4 = [0x43, 0x4B, 0x56, 0x54] ∧ blob.length = tableBlobLen then loadTable s root blob
    else if ¬ s.vault.tableOk then refuseBlob s 0xFFFFFFFF 1
    else if ¬ s.on Reg.MEM_STAT_VAULT_READY then (s, .wait)
    else
      let p := leAt blob 8 4
      let v := leAt blob 0x10 8
      match s.vault.key with
      | none => (s, .no 0x50 0)
      | some vk =>
        if octAt blob 0 6 ≠ [0x43, 0x4B, 0x56, 0x50, 1, 0] ∨ blob.length ≠ pageBlobLen ∨ p ≥ imagePages ∨ v ≠ s.pageVer p then
          refuseBlob s p 3
        else match gcmOpen (imageKey vk) (beOctets 4 p ++ beOctets 8 (s.pageVer p)) (octAt blob 0 0x20) (octAt blob 0x20 65536)
            (octAt blob 0x10020 16) with
          | none => refuseBlob s p 3
          | some o =>
            let s := (loadPage s p o).setVault (fun x => { x with await := x.await.erase p })
            (if s.vault.await = [] then coldLoad s else s, .ok [])

/-- The vault fill ends (R360): VAULT_READY; an image without pages is loaded. -/
def vaultFilled (s : State) : State :=
  if s.vault.key.isNone ∨ s.on Reg.MEM_STAT_VAULT_READY then s
  else
    let s := s.flag Reg.MEM_STAT_VAULT_READY true
    if s.vault.tableOk ∧ s.vault.await = [] ∧ s.rd Reg.KS_STAT_VAULT = 1 then coldLoad s else s

/-- The material of DOM_0's own policy and officer records. -/
def dom0Records (s : State) : List (Nat × List Octet) :=
  let officers := (s.vault.recs.filter (fun e => decide (mapState (s.vmap e.1) = 1 ∧ leAt e.2 1 1 = bOfficer ∧ leAt e.2 0x40 2 = 0))).map
    (fun e => (bOfficer, (s.obj e.1).mat))
  if s.policy 0 = [] then [] else (bPolicy, setOctets (s.policy 0) 0xC (leOctets 4 0)) :: officers

/-- Device records written. -/
def createAll (s : State) (l : List (Nat × List Octet)) : State := l.foldl (fun s e => (createObj s (deviceObj e.1 e.2)).1) s

/-- A vault reset (R260): new vault key, empty vault, IMAGE_SEQ 0 in both banks; IMPORT_SEQ keeps its committed value, with its first
lease. DOM_0 is never destroyed (R280): its policy and officer records are written again (DEDUCED, log 25). -/
def resetVault (s : State) : State :=
  let keep := dom0Records s
  let (vk, s) := drawRandom s 32
  let imp := s.vault.impMark
  let s := emptyVault s vk
  let s := s.setVault (fun v => { v with impSeq := imp, impMark := imp + 256 })
  let s := s.setTamp (fun t => { t with bank0 := ([], 0), bank1 := ([], 0) })
  vaultCounts ((createAll (s.wr Reg.KS_STAT_VAULT 2) keep).flag Reg.KS_STAT_DIRTY true)

def execVaultFillDone (s : State) : Out := done (vaultFilled s)

end Sys2Proof.Machine
end

