-- ==== Sys2Proof/Machine/Attest.lean ====
section
/-! DEFINITION. The attestation statement (R295 to R298), its check by a peer (R252), transfer keys (R253). -/
namespace Sys2Proof.Machine

/-! ### Functions, ports, columns -/

/-- The port of a function (R306): 0 A, 1 B. -/
def portOf (s : State) (f : Nat) : Nat :=
  if f = pfA then 0 else if f = pfB then 1 else if f < s.rd (Reg.PORT_VF_A_VFS 0) then 0 else 1

/-- The PF of a port. -/
def pfOf (p : Nat) : Nat := pfA + p

/-- The master ID of a port's accesses (Table 14.1). -/
def portMaster (p : Nat) : Nat := 0x70 + p

/-- On whose behalf a function's command runs. -/
def State.who (s : State) (f : Nat) : Who := ⟨portMaster (portOf s f), false⟩

/-- Does a function own a column at some card position? -/
def ownsColumn (s : State) (f col : Nat) : Bool :=
  (List.range 64).any (fun p => decide (s.rd (Reg.CARD_LIVE col p) % 4096 = f))

/-- Does a PF hold a DU and an NU column for attestation (R298)? -/
def canAttest (s : State) (pf : Nat) : Bool :=
  (List.range 64).any (fun i => ownsColumn s pf (160 + i)) && (List.range 16).any (fun i => ownsColumn s pf (224 + i))

/-! ### Building a statement -/

/-- A block (R296). -/
def stmtBlock (ty : Nat) (body : List Octet) : List Octet := leOctets 2 ty ++ leOctets 2 body.length ++ body

/-- The officer records' material of a domain, in officer order. -/
def officersMat (s : State) (d : Nat) : List Octet :=
  (List.range 16).flatMap (fun i => (officerRec s d i).elim [] (fun r => (s.obj r).mat))

/-- A domain entry of 64 octets. -/
def domainEntry (s : State) (d : Nat) : List Octet :=
  let m := s.policy d
  leOctets 2 d ++ octAt m 2 2 ++ octAt m 4 2 ++ [0, 0] ++ octAt m 0x14 8 ++ sha384 (m ++ officersMat s d)

/-- The domains that are not ABSENT, ascending. -/
def presentDomains (s : State) : List Nat := (List.range 4096).filter (fun d => decide (s.domState d ≠ 0))

/-- Ledger index 0xFFFF for none. -/
def lastIndex (s : State) : Nat :=
  let z := s.rd Reg.LAST_ZERO
  let a := s.rd Reg.LAST_ALARM
  if z = 0xFFFF then a else if a = 0xFFFF then z else max z a

/-- A measurement register's value. -/
def State.measReg (s : State) (i : Nat) : List Octet := tget (List.replicate 48 0) s.meas.regs i

/-- The blocks of a statement that lists DOM_0 and the given domains. -/
def stmtBlocks (s : State) (doms : List Nat) : List (List Octet) :=
  let img := s.slotImage (s.rd Reg.FW_STAT_ACTIVE_SLOT)
  let listed := (presentDomains s).filter (fun d => decide (d = 0 ∨ d ∈ doms))
  [stmtBlock 1 (sha384 (identityPub 1) ++ sha384 (identityPub 2))] ++
  (match s.tamp.root with
    | none => []
    | some r => [stmtBlock 2 (fitOctets 1568 (transportPub r 3) ++ fitOctets 97 (transportPub r 4))]) ++
  [stmtBlock 3 ((List.range 32).flatMap s.measReg),
   stmtBlock 4 (octAt img 8 8 ++ leOctets 1 (s.rd Reg.FW_STAT_ARB) ++ leOctets 1 (s.rd Reg.FW_STAT_ACTIVE_SLOT) ++
     leOctets 1 (s.rd Reg.FW_STAT_FALLBACK) ++ [1] ++ octAt img 0x10 4),
   stmtBlock 5 (leOctets 1 s.mode ++ leOctets 1 (s.rd Reg.TAMP_STAT_TAMPER) ++ leOctets 2 (s.rd Reg.LEDGER_USED) ++
     leOctets 4 s.tamp.overflow ++ leOctets 2 (lastIndex s) ++ leOctets 2 (s.rd Reg.LAST_ZERO) ++ leOctets 1 s.otp.comm ++
     leOctets 1 (b2n s.otp.noRecomm) ++ leOctets 1 s.lead ++ [0] ++ leOctets 4 s.fixed ++ leOctets 4 (s.rd Reg.LEAD_EPOCH) ++
     leOctets 6 s.tamp.tick ++ [0, 0] ++ leOctets 8 s.vault.seq),
   stmtBlock 6 (leOctets 8 s.jnl.seq ++ s.chain ++ leOctets 8 s.jnl.flushed ++ leOctets 8 s.jnl.acked ++ leOctets 4 s.jfree ++
     leOctets 4 (b2n (s.on Reg.JNL_STAT_UNAVAIL) + 2 * b2n s.jnl.lost + 4 * s.rd Reg.JNL_STAT_LEVEL)),
   stmtBlock 7 (leOctets 2 (presentDomains s).length ++ leOctets 2 listed.length ++
     sha384 ((presentDomains s).flatMap (domainEntry s)) ++ listed.flatMap (domainEntry s))]

/-- A signed statement over a nonce (R295 to R298). In Fault both signatures are deterministic. -/
def statement (s : State) (nonce : List Octet) (doms : List Nat) : List Octet × State :=
  let b := stmtBlocks s doms
  let fault := decide (s.mode = mFault)
  let body := [0x43, 0x4B, 0x41, 0x53, 1, 0] ++ leOctets 2 (b2n fault) ++ leOctets 4 (64 + b.flatten.length) ++ leOctets 2 b.length ++ [0, 0] ++
    fitOctets 16 Config.deviceSerial ++ fitOctets 32 nonce ++ b.flatten
  let rnd := if fault then 0 else s.free + 1
  (body ++ fitOctets 4627 (Config.sign 1 body rnd) ++ fitOctets 96 (Config.sign 2 body rnd), { s with free := s.free + b2n (!fault) })

/-- A statement for a requester on a port (R298): refused with LOCKED 7 where its PF holds no NU or DU column, and with DEVICE_FAULT after
an OTP fault (R431). -/
def attestFor (s : State) (port : Nat) (nonce : List Octet) (doms : List Nat) : State × Rep :=
  if s.rst.otpBad then (s, .no 0x7F 0)
  else if s.mode ≠ mFault ∧ ¬ canAttest s (pfOf port) then (s, .no 0x43 7)
  else
    let r := statement s nonce doms
    (r.2, .ok r.1)

/-! ### Checking a peer's statement (R252) -/

/-- The body of the first block of a type among the next `n` blocks. -/
def findBlock (ty : Nat) : Nat → List Octet → Option (List Octet)
  | 0, _ => none
  | n + 1, o =>
    let len := leAt o 2 2
    if leAt o 0 2 = ty then some (octAt o 4 len) else findBlock ty n (o.drop (4 + len))

/-- A block of a statement. -/
def blockOfStmt (o : List Octet) (ty : Nat) : Option (List Octet) := findBlock ty (leAt o 0xC 2) (o.drop 64)

/-- SERIAL and NONCE of a statement. -/
def stmtSerial (o : List Octet) : List Octet := octAt o 0x10 16
def stmtNonce (o : List Octet) : List Octet := octAt o 0x20 32

/-- Are both signatures good under identity keys that chain to the factory CA (R298)? -/
def stmtSigned (o : List Octet) : Bool :=
  let len := leAt o 8 4
  let body := octAt o 0 len
  let k := Config.identityKeys (stmtSerial o)
  decide (octAt o 0 6 = [0x43, 0x4B, 0x41, 0x53, 1, 0]) && decide (o.length = len + 4723) &&
    Config.verify 1 k.1 body (octAt o len 4627) && Config.verify 2 k.2 body (octAt o (len + 4627) 96) &&
    decide (blockOfStmt o 1 = some (sha384 k.1 ++ sha384 k.2))

/-- The transport keys of a statement that a transfer may use: signed, Operational, tamper status CLEAR. -/
def transportOf (o : List Octet) : Option (List Octet × List Octet) :=
  match blockOfStmt o 2, blockOfStmt o 5 with
  | some t, some st =>
    if stmtSigned o ∧ leAt st 0 1 = mOperational ∧ leAt st 1 1 = 1 then some (octAt t 0 1568, octAt t 1568 97) else none
  | _, _ => none

/-! ### Transfer keys (R253) -/

/-- The KEK: one-step KDF over the hybrid secret. -/
def transferKek (z fixedInfo : List Octet) : List Octet := (sha384 (beOctets 4 1 ++ z ++ fixedInfo)).take 32

/-- What a sender adds to a blob's header: ciphertext, ephemeral key, KWP of the contents under the KEK. -/
def sealTransfer (s : State) (peer : List Octet × List Octet) (head contents : List Octet) : List Octet × State :=
  let a := Config.encapsulate 3 peer.1 s.free
  let b := Config.encapsulate 4 peer.2 s.free
  (fitOctets 1568 a.1 ++ fitOctets 97 b.1 ++ kwpWrap (transferKek (a.2 ++ b.2) head) contents, { s with free := s.free + 1 })

/-- The contents that a receiver unwraps. -/
def openTransfer (s : State) (head ct eph wrapped : List Octet) : Option (List Octet) :=
  match s.tamp.root with
  | none => none
  | some r =>
    let z := Config.sharedSecret 3 (transportMat r 3) ct ++ Config.sharedSecret 4 (transportMat r 4) eph
    kwpUnwrap (transferKek z head) wrapped

/-- Both identity signatures of this device over octets. -/
def signBoth (s : State) (o : List Octet) : List Octet × State :=
  (fitOctets 4627 (Config.sign 1 o (s.free + 1)) ++ fitOctets 96 (Config.sign 2 o (s.free + 1)), { s with free := s.free + 1 })

/-- Do both signatures after the first `n` octets verify under a serial's identity keys? -/
def signedBy (serial o : List Octet) (n : Nat) : Bool :=
  let k := Config.identityKeys serial
  Config.verify 1 k.1 (octAt o 0 n) (octAt o n 4627) && Config.verify 2 k.2 (octAt o 0 n) (octAt o (n + 4627) 96)

end Sys2Proof.Machine
end

