-- ==== Sys2Proof/Machine/Keys.lean ====
section
/-! DEFINITION. The operations on key objects (R246 to R255, R479), the background destruction of a domain (R280), the key store's operation
port (Table 10.18). -/
namespace Sys2Proof.Machine

/-- PAYLOAD of a key record (Table 12.3; layout of log 10): handle, binding, ATTR, FLAGS, blob kind, peer serial. -/
def keyPayload (h : Nat) (o : Obj) (kind : Nat) (peer : List Octet) : List Octet :=
  leOctets 8 h ++ leOctets 1 o.binding ++ leOctets 2 o.attr ++ leOctets 1 o.flags ++ leOctets 1 kind ++ octAt peer 0 8

/-- Is a domain closed to key operations (R479)? An ABSENT domain holds no key. -/
def domClosed (s : State) (d : Nat) : Bool := decide (s.domState d ≠ 1)

/-- Can an object be created: 0, or result word 0 of LOCKED (R228). -/
def creatable (s : State) (o : Obj) : Nat :=
  if (findRun s o.nRec).isNone then 1 else if quotaFull s o.dom o.nRec then 2 else 0

/-- An object created for a requester, with its records of Table 12.3. -/
def createFor (s : State) (w : Who) (o : Obj) (typ kind : Nat) (peer pub : List Octet) : State × Rep :=
  match createObj s o with
  | (s, .error c) => (s, .no 0x43 c)
  | (s, .ok h) =>
    let s := recordFor s w typ 0 (keyPayload h o kind peer)
    let s := if bit o.flags 0 then recordFor s w 0x0207 0 (keyPayload h o kind peer) else s
    (s, .fin 0 0 (leOctets 8 h ++ pub) (changedPages s o.dom (hRec h) o.nRec))

/-- Does an earlier creation wait for a lease of IMPORT_SEQ (R239)? -/
def importBlocked (s : State) : Bool := s.cmds.any (fun c => c.lease && decide (leAt c.raw 0 1 ≠ 1)) || decide (s.ks.status = 256 ∧ s.ks.wait ≠ [])

/-- An object that arrives: it takes a value of IMPORT_SEQ (Table 10.8, row 2). -/
def arriveFor (s : State) (w : Who) (o : Obj) (typ kind : Nat) (peer : List Octet) : State × Rep :=
  let c := creatable s o
  if c ≠ 0 then (s, .no 0x43 c)
  else match takeImport s (importBlocked s) with
    | (s, .refused st) => (s, .no st 0)
    | (s, .waits) => (s, .wait)
    | (s, .made v) => createFor s w (o.started s (some v)) typ kind peer []

/-- Can the DRBG generate at all (R127)? -/
def State.rngOk (s : State) : Bool := s.drbg.isSome

/-- KEY_GENERATE (R247), from a key template (R318). -/
def generateOp (s : State) (w : Who) (blk : List Octet) : State × Rep :=
  let o : Obj := ⟨leAt blk 2 1, leAt blk 4 2, leAt blk 0 2, leAt blk 3 1, leAt blk 6 2, if bit (leAt blk 6 2) aDerive then leAt blk 8 1 else 0,
    leAt blk 0xA 2, leAt blk 0xC 2, leAt blk 0x10 5, 0, 0, 0, 0, 0, []⟩
  if blk.length ≠ 32 ∨ o.flags > 3 ∨ o.dom ≥ 4096 ∨ leAt blk 9 1 ≠ 0 ∨ leAt blk 0xE 2 ≠ 0 ∨ leAt blk 0x15 11 ≠ 0 then (s, .no 0x30 0)
  else if domClosed s o.dom then (s, .no 0x43 4)
  else if s.rd Reg.KS_STAT_VAULT ≠ 2 then (s, .no 0x43 3)
  else if ¬ o.admitted then (s, .no 0x20 0)
  else if ¬ s.rngOk then (s, .no 0x70 0)
  else
    let n := matLen o.binding o.bits
    let c := creatable s { o with mat := List.replicate n 0 }
    if c ≠ 0 then (s, .no 0x43 c)
    else if o.binding < 0x20 then
      let (r, s) := drawRandom s (16 * ((o.bits + 127) / 128))
      createFor s w ({ o with mat := r.take n }.started s none) 0x0201 0 [] []
    else
      let (seed, s) := s.freeOctets 64
      let m := fitOctets n (Config.keyMaterial o.binding o.bits seed)
      createFor s w ({ o with mat := m }.started s none) 0x0201 0 [] (Config.publicKey o.binding m)

/-- The KDF of R248: counter mode with an 8-bit counter. -/
def deriveMat (p : Obj) (ctx : List Octet) : List Octet :=
  let fixedIn := ascii "CKDK" ++ [0] ++ beOctets 2 p.dom ++ ctx ++ beOctets 2 p.cBits
  let n := matLen p.cBinding p.cBits
  let prf := fun o => if p.binding = 7 then cmac p.mat o else hmac384 p.mat o
  let blk := if p.binding = 7 then 16 else 48
  ((List.range ((n + blk - 1) / blk)).flatMap (fun i => prf (beOctets 1 (i + 1) ++ fixedIn))).take n

/-- KEY_DERIVE (R248). A derived key that itself derives keeps its parent's child template (DESIGN CHOICE, log 26). -/
def deriveOp (s : State) (w : Who) (parent : Nat) (blk : List Octet) : State × Rep :=
  let n := leAt blk 2 2
  if leAt blk 0 1 > 3 ∨ leAt blk 1 1 ≠ 0 ∨ n > 64 ∨ blk.length ≠ 4 + n then (s, .no 0x30 0)
  else match openObj s parent false with
    | (s, .error e) => (s, .no e.1 e.2)
    | (s, .ok r) =>
      let p := s.obj r
      let c : Obj := ⟨p.cBinding, p.cBits, p.dom, leAt blk 0 1, p.cAttr, if bit p.cAttr aDerive then p.cBinding else 0, p.cAttr, p.cBits,
        0, 0, 0, 0, 0, 0, deriveMat p (octAt blk 4 n)⟩
      if ¬ bit p.attr aDerive ∨ ¬ c.admitted then (s, .no 0x20 0)
      else arriveFor s w c 0x0202 0 []

/-- KEY_RESTRICT (Table 10.12). Later loads take the new attributes; commands bound keep theirs (Table 10.17). -/
def restrictOp (s : State) (w : Who) (h : Nat) (blk : List Octet) : State × Rep :=
  let a := leAt blk 0 2
  let ca := leAt blk 2 2
  let lim := leAt blk 4 5
  if blk.length ≠ 12 ∨ leAt blk 9 3 ≠ 0 then (s, .no 0x30 0)
  else match openObj s h false with
    | (s, .error e) => (s, .no e.1 e.2)
    | (s, .ok r) =>
      let o := s.obj r
      if ¬ attrWithin a o.attr ∨ ¬ attrWithin ca o.cAttr ∨ (lim ≠ 0 ∧ (o.limit = 0 ∨ lim > o.limit)) then (s, .no 0x20 0)
      else
        let o := { o with attr := a, cAttr := ca, limit := if lim = 0 then o.limit else lim }
        let s := recordFor (putObj (dropCached s h) r o) w 0x0203 0 (keyPayload h o 0 [])
        (s, .fin 0 0 [] (objPages r o.nRec))

/-- KEY_INFO: octets 0x00 to 0x3F of the HEAD record, KEY_CHECK as zero. -/
def infoOp (s : State) (h : Nat) : State × Rep :=
  match openObj s h true with
  | (s, .error e) => (s, .no e.1 e.2)
  | (s, .ok r) => (s, .ok ((s.obj r).header ++ List.replicate 8 0))

/-- KEY_DESTROY (R250); the block repeats the handle. -/
def destroyOp (s : State) (w : Who) (h : Nat) (blk : List Octet) : State × Rep :=
  if blk.length ≠ 8 ∨ leAt blk 0 8 ≠ h then (s, .no 0x30 0)
  else match openObj s h false with
    | (s, .error e) => (s, .no e.1 e.2)
    | (s, .ok r) =>
      let o := s.obj r
      let s := recordFor (destroyObj s r) w 0x0204 0 (keyPayload h o 0 [])
      (s, .fin 0 0 [] (changedPages s o.dom r o.nRec))

/-- A portable object (R251). -/
def Obj.portable (o : Obj) : List Octet :=
  { o with flags := (BitVec.ofNat 8 o.flags ||| 4).toNat, countMark := 0, inv := 0, invEnd := 0, invMark := 0 }.header ++ List.replicate 8 0 ++ o.mat

/-- A transfer blob for a peer (R252). -/
def transferBlob (s : State) (dom : Nat) (serial : List Octet) (peer : List Octet × List Octet) (obj : List Octet) : List Octet × State :=
  let (xid, s) := drawRandom s 8
  let wl := 8 * ((obj.length + 7) / 8) + 8
  let head := [0x43, 0x4B, 0x58, 0x46, 1, 0] ++ leOctets 2 dom ++ fitOctets 16 Config.deviceSerial ++ fitOctets 16 serial ++ xid
  let (t, s) := sealTransfer s peer head obj
  let body := head ++ leOctets 4 wl ++ List.replicate 12 0 ++ t
  let (g, s) := signBoth s body
  (body ++ g, s)

/-- An owner-wrap blob (R254). -/
def ownerBlob (dom wrapH : Nat) (wrapKey obj : List Octet) : List Octet :=
  let c := kwpWrap wrapKey obj
  [0x43, 0x4B, 0x4F, 0x57, 1, 0] ++ leOctets 2 dom ++ leOctets 6 wrapH ++ [0, 0] ++ leOctets 4 c.length ++ List.replicate 12 0 ++ c

/-- KEY_EXPORT (R251 to R254). A target statement that does not qualify refuses the export with KEY_ATTR (DESIGN CHOICE, log 27). -/
def exportOp (s : State) (w : Who) (blk : List Octet) : State × Rep :=
  let h := leAt blk 0 8
  let kind := leAt blk 8 1
  if blk.length < 24 ∨ (kind ≠ 1 ∧ kind ≠ 2) ∨ leAt blk 9 7 ≠ 0 ∨ (kind = 1 ∧ leAt blk 16 8 ≠ 0) ∨ (kind = 2 ∧ blk.length ≠ 24) then
    (s, .no 0x30 0)
  else match openObj s h false with
    | (s, .error e) => (s, .no e.1 e.2)
    | (s, .ok r) =>
      let o := s.obj r
      if ¬ bit o.attr aExport then (s, .no 0x20 0)
      else if kind = 1 then
        let st := blk.drop 24
        match transportOf st with
        | none => (s, .no 0x20 0)
        | some peer =>
          if ¬ Config.freshNonce (stmtNonce st) then (s, .no 0x20 0)
          else
            let (b, s) := transferBlob s o.dom (stmtSerial st) peer o.portable
            (recordFor s w 0x0205 0 (keyPayload h o 1 (stmtSerial st)), .ok b)
      else match openObj s (leAt blk 16 8) false with
        | (s, .error e) => (s, .no e.1 e.2)
        | (s, .ok rw) =>
          let k := s.obj rw
          if k.binding ≠ 8 ∨ ¬ bit k.attr aWrap ∨ k.dom ≠ o.dom then (s, .no 0x20 0)
          else (recordFor s w 0x0205 0 (keyPayload h o 2 []), .ok (ownerBlob o.dom (leAt blk 16 8) k.mat o.portable))

/-- The object that a portable form spells, where its lengths agree. -/
def unpackObj (p : List Octet) (dom : Nat) : Option Obj :=
  let o := Obj.parse p
  if leAt p 0 1 = 1 ∧ o.dom = dom ∧ p.length = 64 + matLen o.binding o.bits ∧ leAt p 6 1 = o.nRec then
    some { o with flags := (BitVec.ofNat 8 o.flags ||| 4).toNat }
  else none

/-- Is a blob an unsigned transfer blob (Table 10.15)? -/
def unsignedTransfer (b : List Octet) : Bool := decide (octAt b 0 4 = [0x43, 0x4B, 0x58, 0x46]) && decide (leAt b 8 16 = 0)

/-- The contents of a transfer blob addressed to this device: the portable object and the sender's serial. -/
def openTransferBlob (s : State) (b : List Octet) : Option (List Octet) :=
  let n := leAt b 0x30 4
  let total := 0x6C1 + n
  if octAt b 0 6 ≠ [0x43, 0x4B, 0x58, 0x46, 1, 0] ∨ b.length ≠ total + 4723 ∨ octAt b 0x18 16 ≠ fitOctets 16 Config.deviceSerial then none
  else if leAt b 8 16 ≠ 0 ∧ ¬ signedBy (octAt b 8 16) b total then none
  else openTransfer s (octAt b 0 0x30) (octAt b 0x40 1568) (octAt b 0x660 97) (octAt b 0x6C1 n)

/-- KEY_IMPORT (R255). No field of the block grants EXPORT to an unsigned blob's key, so it comes without (DESIGN CHOICE, log 28). -/
def importOp (s : State) (w : Who) (blk : List Octet) : State × Rep :=
  let dom := leAt blk 0 2
  let wrapH := leAt blk 8 8
  let b := blk.drop 16
  if blk.length < 16 ∨ leAt blk 2 6 ≠ 0 ∨ dom ≥ 4096 then (s, .no 0x30 0)
  else if domClosed s dom then (s, .no 0x43 4)
  else if s.rd Reg.KS_STAT_VAULT ≠ 2 then (s, .no 0x43 3)
  else if octAt b 0 4 = [0x43, 0x4B, 0x58, 0x46] then
    match (openTransferBlob s b).bind (fun p => unpackObj p dom) with
    | none => (s, .no 0x20 0)
    | some o =>
      let o := if unsignedTransfer b ∧ bit o.attr aExport then { o with attr := o.attr - 128 } else o
      if leAt b 6 2 ≠ dom ∨ ¬ o.admitted then (s, .no 0x20 0) else arriveFor s w o 0x0206 1 (octAt b 8 16)
  else if octAt b 0 6 = [0x43, 0x4B, 0x4F, 0x57, 1, 0] then
    match openObj s wrapH false with
    | (s, .error e) => (s, .no e.1 e.2)
    | (s, .ok rw) =>
      let k := s.obj rw
      if k.binding ≠ 8 ∨ ¬ bit k.attr aUnwrap ∨ leAt b 6 2 ≠ dom ∨ b.length ≠ 32 + leAt b 16 4 then (s, .no 0x20 0)
      else match (kwpUnwrap k.mat (b.drop 32)).bind (fun p => unpackObj p dom) with
        | none => (s, .no 0x20 0)
        | some o =>
          let o' := { o with attr := (BitVec.ofNat 16 o.attr &&& BitVec.ofNat 16 k.cAttr).toNat }
          if ¬ o.admitted ∨ ¬ o'.admitted then (s, .no 0x20 0) else arriveFor s w o' 0x0206 2 []
  else (s, .no 0x20 0)

/-! ### Destruction of a domain (R280, R281) -/

/-- The lowest HEAD record of a domain's objects. -/
def lowestOf (s : State) (d : Nat) : Option Nat :=
  (s.vault.map.find? (fun e => decide (mapState e.2 = 1 ∧ leAt (s.vrec e.1) 4 2 = d))).map Prod.fst

/-- A domain's policy and officer records destroyed: it is ABSENT. -/
def domainAbsent (s : State) (d : Nat) : State :=
  let s := (List.range 16).foldl (fun s i => (officerRec s d i).elim s (fun r => destroyObj s r)) s
  match policyRec s d with
  | none => s
  | some r =>
    let seq := octAt (s.policy d) 0x14 8
    let pages := objPages r 1
    let s := jrec (destroyObj s r) 0x0120 0xE4 d (leOctets 1 3 ++ leOctets 1 0 ++ seq)
    { s with cmds := s.cmds.map (fun (c : Cmd) => if waitDomain d ∈ c.wait then { c with wait := pages } else c) }

/-- One object of a DESTROYING domain goes, in ascending record index; after the last one and its commit, the domain is ABSENT. -/
def destroyStep (s : State) (d : Nat) : State :=
  if s.domState d ≠ 3 then s
  else match lowestOf s d with
    | some r => destroyObj s r
    | none => if s.vault.dirty = [] ∧ s.vault.commit.isNone then domainAbsent s d else s

/-! ### The operation port (Table 10.18) -/

/-- The argument: the 64-octet command and its block, from DRAM. -/
def ksArgument (s : State) : List Octet × List Octet :=
  let a := 2 * (s.rd2 Reg.KS_OP_ARG_L Reg.KS_OP_ARG_H - 0x400000000)
  let cmd := s.dramOctets a 64
  (cmd, s.dramOctets (a + 64) (leAt cmd 0xC 4))

/-- An operation of the port. -/
def ksOperation (s : State) (w : Who) (op : Nat) (cmd blk : List Octet) : State × Rep :=
  let key0 := leAt cmd 0x10 6
  match op with
  | 1 => generateOp s w blk
  | 2 => deriveOp s w key0 blk
  | 3 => restrictOp s w key0 blk
  | 4 => infoOp s key0
  | 5 => destroyOp s w key0 blk
  | 6 => exportOp s w blk
  | 7 => importOp s w blk
  | 8 => commitOp s (leAt cmd 0x1C 4)
  | 9 => loadOp s blk
  | 10 =>
    let s := resetVault s
    (recordFor s w 0x0213 (leAt cmd 0x30 4) [], .ok [])
  | _ => (s, .ok [])

/-- The port runs its operation; status 256 stands for one that has to wait. -/
def ksRun (s : State) (w : Who) (op : Nat) : State :=
  let a := s.rd2 Reg.KS_OP_ARG_L Reg.KS_OP_ARG_H
  let acc : Access := ⟨3, true, true, 0xFFF, .read, a, 0⟩
  match (if targetOf 3 a = 7 then checkAccess s acc else some ⟨targetOf 3 a, 1, none, 7⟩) with
  | some r => { reportRefusal s acc r with ks := ⟨[], [], 0x7F⟩ }
  | none =>
    let x := ksArgument s
    match ksOperation s w op x.1 x.2 with
    | (s, .wait) => { s with ks := ⟨[], if op = 9 then [] else [waitTable], 256⟩ }
    | (s, .fin st _ out hold) => { s with ks := ⟨out, if st = 0 then hold else [], st⟩ }

/-- KS_OP_CMD.GO. -/
def ksStart (s : State) (sc op : Nat) (arg : DWord) : State :=
  if s.on Reg.KS_OP_CMD_GO then s
  else
    let s := s.wr2 Reg.KS_OP_ARG_L Reg.KS_OP_ARG_H (arg.toNat / 16 * 16)
    let s := (s.wr Reg.KS_OP_CMD_OP op).flag Reg.KS_OP_CMD_GO true
    ksRun s ⟨sc, true⟩ op

/-- Operations that complete only after a commit (R246). -/
def ksHeld (op : Nat) : Bool := decide (op ∈ [1, 2, 3, 5, 7])

/-- The operation is over: its status shows. One that waits runs when what it waits for has come. -/
def ksDone (s : State) : State :=
  let op := s.rd Reg.KS_OP_CMD_OP
  if ¬ s.on Reg.KS_OP_CMD_GO ∨ s.ks.wait ≠ [] ∨ (ksHeld op ∧ s.vault.commit.isSome) then s
  else if s.ks.status = 256 then ksRun s ⟨0, true⟩ op
  else ((s.wr Reg.KS_OP_STAT_STATUS s.ks.status).flag Reg.KS_OP_STAT_DONE true).flag Reg.KS_OP_CMD_GO false

def execKsOpGenerate (sc : Fin 2) (arg : DWord) (s : State) : Out := done (ksStart s sc 1 arg)
def execKsOpDerive (sc : Fin 2) (arg : DWord) (s : State) : Out := done (ksStart s sc 2 arg)
def execKsOpRestrict (sc : Fin 2) (arg : DWord) (s : State) : Out := done (ksStart s sc 3 arg)
def execKsOpInfo (sc : Fin 2) (arg : DWord) (s : State) : Out := done (ksStart s sc 4 arg)
def execKsOpDestroy (sc : Fin 2) (arg : DWord) (s : State) : Out := done (ksStart s sc 5 arg)
def execKsOpExport (sc : Fin 2) (arg : DWord) (s : State) : Out := done (ksStart s sc 6 arg)
def execKsOpImport (sc : Fin 2) (arg : DWord) (s : State) : Out := done (ksStart s sc 7 arg)
def execKsOpCommit (sc : Fin 2) (arg : DWord) (s : State) : Out := done (ksStart s sc 8 arg)
def execKsOpLoad (sc : Fin 2) (arg : DWord) (s : State) : Out := done (ksStart s sc 9 arg)
def execKsOpVaultReset (sc : Fin 2) (arg : DWord) (s : State) : Out := done (ksStart s sc 10 arg)
def execDomainDestructionStep (d : Fin 4096) (s : State) : Out := done (destroyStep s d)
def execKsOpDone (s : State) : Out := done (ksDone s)

end Sys2Proof.Machine
end

