-- ==== Sys2Proof/Machine/Host.lean ====
section
/-! DEFINITION. Queues, doorbells, push windows, spoof checks, ingress admission, completions, MSI-X, resets of functions and ports (spec/13,
R118, R480). -/
namespace Sys2Proof.Machine

/-! ### Functions -/

def State.fn (s : State) (f : Nat) : FuncSt := tget FuncSt.absent s.funcs f
def State.setFn (s : State) (f : Nat) (x : FuncSt) : State := { s with funcs := tset FuncSt.absent s.funcs f x }

/-- State code of a function (Table 13.15): a PF is always ACTIVE; PF B exists in x8 mode only (R304). -/
def State.fnState (s : State) (f : Nat) : Nat :=
  if f = pfA then 1 else if f = pfB then b2n s.rst.split else (s.fn f).st

/-- A port. -/
def State.port (s : State) (p : Nat) : Port := if p = 0 then s.portA else s.portB
def State.setPort (s : State) (p : Nat) (x : Port) : State := if p = 0 then { s with portA := x } else { s with portB := x }

/-- Do a function's windows answer the host? Its port is up, it exists, and a VF is enabled. -/
def reachable (s : State) (f : Nat) : Bool :=
  let p := s.port (portOf s f)
  s.hostUp && !p.perst && p.link && decide (s.fnState f ≠ 0) && (decide (f ≥ pfA) || p.vfEnable)

/-- The domains a function owns: those its configuration block lists (R319). -/
def ownedDomains (s : State) (f : Nat) : List Nat :=
  (List.range (min 8 (leAt (s.fn f).cfg 0xD 1))).map (fun i => leAt (s.fn f).cfg (0x20 + 2 * i) 2)


/-! ### Queues -/

/-- The number of a queue in the queue tables. -/
def qx (f q : Nat) : Nat := 256 * f + q
def State.q (s : State) (x : Nat) : QueueSt := tget QueueSt.fresh s.queues x
def State.setQ (s : State) (x : Nat) (v : QueueSt) : State := { s with queues := tset QueueSt.fresh s.queues x v }
/-- Depth of a queue. -/
def State.depth (s : State) (x : Nat) : Nat := 2 ^ s.rd (Reg.Q_CTL_LDEPTH x)
/-- Forward distance around a ring. -/
def ringFwd (d a b : Nat) : Nat := (b + d - a % d) % d

/-- Commands of a queue that the device holds. -/
def State.heldOf (s : State) (f q : Nat) : List Cmd := s.cmds.filter (fun c => decide (c.func = f ∧ c.queue = q))

/-! ### Commands (Table 13.7) -/

def Cmd.opc (c : Cmd) : Nat := leAt c.raw 0 1
def Cmd.flags (c : Cmd) : Nat := leAt c.raw 1 1
/-- FLAGS.DIR: true for open, decrypt, verify. -/
def Cmd.dir (c : Cmd) : Bool := bit c.flags 0
def Cmd.ext (c : Cmd) : Nat := c.flags / 64
def Cmd.cid (c : Cmd) : Nat := leAt c.raw 2 2
def Cmd.figure (c : Cmd) : Nat := leAt c.raw 6 2
def Cmd.p (c : Cmd) : Nat := leAt c.raw 8 2
def Cmd.nkey (c : Cmd) : Nat := leAt c.raw 0xA 1
def Cmd.nparam (c : Cmd) : Nat := leAt c.raw 0xB 1
def Cmd.inLen (c : Cmd) : Nat := leAt c.raw 0xC 4
def Cmd.key0 (c : Cmd) : Nat := leAt c.raw 0x10 6
def Cmd.outLen (c : Cmd) : Nat := leAt c.raw 0x1C 4
def Cmd.ballotId (c : Cmd) : Nat := leAt c.raw 0x30 4
/-- SHORT: 12 octets. -/
def Cmd.short (c : Cmd) : List Octet := octAt c.raw 0x34 12
/-- IVC of a RUN: 16 octets. -/
def Cmd.ivc (c : Cmd) : List Octet := octAt c.raw 0x30 16

/-- Handle of key operand i (R315): KEY0, KEY1, then those of the extension after the parameter words. -/
def Cmd.handle (c : Cmd) (i : Nat) : Nat :=
  if i = 0 then c.key0 else if i = 1 then leAt c.raw 0x16 6 else leAt c.raw (64 + 4 * c.nparam + 6 * (i - 2)) 6
/-- Parameter word i. -/
def Cmd.param (c : Cmd) (i : Nat) : Nat := leAt c.raw (64 + 4 * i) 4

/-- A command as the device takes it. -/
def Cmd.fresh (uid f q : Nat) (raw : List Octet) : Cmd :=
  ⟨uid, f, q, raw, .queued, 0, [], [], none, [], [], 0, 0, [], [], 0, 0, false, 128, false, 0, [], 0, 0, [], [], none, [], none, false, []⟩

/-- The command of a number. -/
def State.cmd (s : State) (uid : Nat) : Option Cmd := s.cmds.find? (fun c => decide (c.uid = uid))
/-- A command changed in place. -/
def State.onCmd (s : State) (uid : Nat) (f : Cmd → Cmd) : State :=
  { s with cmds := s.cmds.map (fun c => if c.uid = uid then f c else c) }

/-- A command becomes Completing: it stands behind those that ended before it (R131). -/
def endCmd (s : State) (uid : Nat) (f : Cmd → Cmd) : State :=
  match s.cmd uid with
  | none => s
  | some c => { s with cmds := s.cmds.filter (fun c => decide (c.uid ≠ uid)) ++ [{ f c with ph := .completing }] }

/-! ### Resources of a command -/

/-- Hold pages returned. -/
def releasePages (s : State) (uid : Nat) : State :=
  { s with floor := { s.floor with pages := (s.floor.pages.map (fun e =>
      if e.2.owner = some uid then (e.1, { HoldPage.free with retired := e.2.retired }) else e)).filter (fun e => decide (e.2 ≠ HoldPage.free)) } }

/-- Waiting reservations withdrawn. -/
def dropReqs (s : State) (uid : Nat) : State := s.setEnt (fun e => { e with reqs := e.reqs.filter (fun r => decide (r.uid ≠ uid)) })

/-- One pin of a slot removed; a slot whose key is gone is cleared with its last pin (R121, R250). -/
def unpin (s : State) (n : Nat) : State :=
  let k := s.slot n
  s.setSlot n (if k.pins ≤ 1 ∧ k.handle = 0 then KSlot.empty else { k with pins := k.pins - 1 })

/-- The pins of a command removed. -/
def releasePins (s : State) (c : Cmd) : State := pinCount ((c.keys.filterMap id ++ c.kput).foldl unpin s)

/-- Everything a command holds is returned. -/
def releaseAll (s : State) (c : Cmd) : State := releasePins (dropReqs (releasePages s c.uid) c.uid) c

/-- A command that has not been placed is refused or aborted: resources return, its pins when the completion is written. -/
def refuseCmd (s : State) (uid status r0 : Nat) : State :=
  endCmd (dropReqs (releasePages s uid) uid) uid (fun c => { c with status := status, res := [(0, BitVec.ofNat 18 r0)], out := [] })

/-! ### Spoof checks (Table 13.11) -/

/-- Who may issue an opcode (Table 13.10): 0 not listed, 1 Function, 2 Owner, 3 PF, 4 Lead, 5 Follower, 6 Lead or a follower. -/
def issuerOf (opc : Nat) : Nat :=
  if opc ∈ [0x01, 0x02, 0x20] then 1
  else if opc ∈ [0x10, 0x11, 0x12, 0x13, 0x14, 0x15, 0x16] then 2
  else if opc = 0x21 then 3
  else if opc = 0x3C then 5
  else if opc ∈ [0x30, 0x31] then 6
  else if opc ∈ [0x22, 0x32, 0x33, 0x34, 0x35, 0x36, 0x37, 0x38, 0x39, 0x3A, 0x3B, 0x3D, 0x3E, 0x3F, 0x40, 0x41, 0x42, 0x43, 0x44, 0x45, 0x46,
      0x50, 0x51, 0x52, 0x58, 0x59, 0x60, 0x61, 0x62, 0x63, 0x64, 0x65, 0x66, 0x67, 0x68, 0x69, 0x6A, 0x6B] then 4
  else 0

/-- Is a function the lead? -/
def isLead (s : State) (f : Nat) : Bool := decide (f ≥ pfA ∧ s.lead = f - pfA + 1)

/-- The handles that a command's own octets name. -/
def Cmd.namedHandles (c : Cmd) : List Nat :=
  if c.opc = 1 then (List.range c.nkey).map c.handle else if c.opc ∈ [0x11, 0x12, 0x13, 0x14] then [c.key0] else []

/-- The selective IDE stream of a function is established: keys of it are programmed on its port. -/
def ideActive (s : State) (f : Nat) : Bool :=
  match Config.ideStream f with
  | none => false
  | some k => (s.port (portOf s f)).spdm.ide.any (fun e => decide (e.1 / 256 = k))

/-- The checks of Table 13.11 that a command's octets allow, in order: 0 where they pass. Those of an argument block come with the block. -/
def spoofStatus (s : State) (c : Cmd) (ide : Bool) : Nat :=
  let who := issuerOf c.opc
  if ideActive s c.func ∧ ¬ ide then 0x40
  else if leAt c.raw 4 2 ≠ c.func then 0x40
  else if who = 0 then 0x30
  else if c.func < pfA ∧ who ≥ 3 then 0x40
  else if who = 4 ∧ ¬ isLead s c.func then 0x41
  else if who = 5 ∧ isLead s c.func then 0x40
  else if c.namedHandles.any (fun h => decide (hDom h ∉ ownedDomains s c.func ∨ hDom h = 0)) then 0x40
  else if c.opc ≠ 1 ∧ (c.dir ∨ c.ext ≠ 0) then 0x30
  else 0

/-- Are new commands of a function completed with FROZEN: a freeze is requested or has taken hold, or the function is saved (R134, Table 13.15)? -/
def frozenFn (s : State) (f : Nat) : Bool := (s.fn f).freezing || decide (s.fnState f = 2 ∨ s.fnState f = 3)

/-- A command enters the device: Queued, or Completing with the status of its spoof check or of the freeze, with result word 0 = 3 for an
ABORT (Table 5.3); a follower's NL sets (R275). -/
def acceptCmd (s : State) (f q : Nat) (raw : List Octet) (ide : Bool) : State :=
  let c := Cmd.fresh s.nextUid f q raw
  let sp := spoofStatus s c ide
  let st := if sp = 0 ∧ frozenFn s f then 0x60 else sp
  let x := qx f q
  let s := (s.setQ x { s.q x with inUse := (s.q x).inUse + 1 })
  let c' := if st = 0 then c
    else { c with ph := .completing, status := st, res := if st = 0x60 ∧ c.opc = 2 then [(0, 3#18)] else [] }
  let s := { s with cmds := s.cmds ++ [c'], nextUid := s.nextUid + 1 }
  if st = 0x41 then s.flag (Reg.LEAD_STAT_NL (f - pfA)) true else s

/-- Octets that a command claims with its extension. -/
def rawLen (o : List Octet) : Nat := 64 * (1 + leAt o 1 1 / 64)

/-! ### Doorbells, fetch, push (R311, R312) -/

/-- An SQ_TAIL write. -/
def sqTailWrite (s : State) (f q v : Nat) : State :=
  let x := qx f q
  let y := s.q x
  let d := s.depth x
  let v := v % 4096
  if ¬ reachable s f then s
  else if ¬ s.on (Reg.Q_CTL_ENABLE x) ∨ s.on (Reg.Q_CTL_PUSH x) ∨ v ≥ d ∨ ringFwd d y.sqHead v < ringFwd d y.sqHead y.sqTail then accErr s f
  else s.setQ x { y with sqTail := v }

/-- Completion entries written and not released. -/
def unreleased (s : State) (f q : Nat) : Nat := (s.q (qx f q)).inUse - (s.heldOf f q).length

/-- A CQ_HEAD write. -/
def cqHeadWrite (s : State) (f q v : Nat) : State :=
  let x := qx f q
  let y := s.q x
  let d := s.depth x
  let v := v % 4096
  let n := ringFwd d y.cqHead v
  if ¬ reachable s f then s
  else if ¬ s.on (Reg.Q_CTL_ENABLE x) ∨ v ≥ d ∨ n > unreleased s f q then accErr s f
  else s.setQ x { y with cqHead := v, inUse := y.inUse - n }

/-- The next command of a ring is fetched. -/
def fetchCmd (s : State) (f q : Nat) (ide : Bool) (data : List Octet) : State :=
  let x := qx f q
  let y := s.q x
  let d := s.depth x
  let n := rawLen data / 64
  if ¬ reachable s f ∨ f ∈ s.d3 ∨ ¬ s.on (Reg.Q_CTL_ENABLE x) ∨ s.on (Reg.Q_CTL_PUSH x) ∨ ringFwd d y.sqHead y.sqTail < n ∨ y.inUse ≥ d ∨
      s.halting then s
  else
    let h := (y.sqHead + n) % d
    acceptCmd ((s.setQ x { y with sqHead := h }).wr (Reg.Q_SQHEAD x) h) f q (fitOctets (64 * n) data) ide

/-- A write to a push window. -/
def pushCmd (s : State) (f q off : Nat) (oneTlp ide : Bool) (data : List Octet) : State :=
  let x := qx f q
  if ¬ reachable s f then s
  else if ¬ s.on (Reg.Q_CTL_ENABLE x) ∨ ¬ s.on (Reg.Q_CTL_PUSH x) ∨ off ≠ 0 ∨ ¬ oneTlp ∨ data.length ≠ rawLen data then accErr s f
  else if (s.q x).inUse ≥ s.depth x then fnEvent (s.flag (Reg.Q_STAT_PUSH_OVF x) true) f 2
  else acceptCmd s f q data ide

/-! ### Ingress admission (R480) -/

/-- Is a command in the staging window? -/
def Cmd.inWindow (c : Cmd) : Bool := decide (c.ph = .ingress ∨ c.ph = .ready ∨ c.ph = .placed)

/-- The queue, from the one after the last, that holds Queued commands. -/
def nextQueue (s : State) (f : Nat) : Option Nat :=
  let n := max 1 (s.rd (Reg.FUNC_CAP_QUEUES f))
  ((List.range n).map (fun i => ((s.fn f).lastQ + 1 + i) % n)).find? (fun q =>
    s.cmds.any (fun c => decide (c.func = f ∧ c.queue = q ∧ c.ph = .queued)))

/-- One free place of the window admits one command. A function whose freeze is requested admits none. -/
def admitOne (s : State) (f : Nat) : State :=
  let win := max 1 (s.rd (Reg.ADM_WIN_STAGE_WIN f))
  if (s.cmds.filter (fun c => decide (c.func = f) && c.inWindow)).length ≥ win ∨ (s.fn f).freezing ∨ s.halting then s
  else match nextQueue s f with
    | none => s
    | some q =>
      match s.cmds.find? (fun c => decide (c.func = f ∧ c.queue = q ∧ c.ph = .queued)) with
      | none => s
      | some c => (s.onCmd c.uid (fun c => { c with ph := .ingress })).setFn f { s.fn f with lastQ := q }

/-! ### Completions (R313, R320) -/

/-- The completion entry (Table 13.8). -/
def completionEntry (s : State) (c : Cmd) (phase : Bool) : List Octet :=
  let slot := c.fix.isSome || c.res.any (fun r => decide (r.1 ≠ 0)) || decide (c.slotOut ≠ [])
  let fix := c.fix.getD (0, [])
  let r0 := ((c.res.find? (fun r => decide (r.1 = 0))).map (fun r => r.2.toNat)).getD 0
  leOctets 2 c.cid ++ leOctets 2 (s.q (qx c.func c.queue)).sqHead ++ leOctets 1 c.status ++
    leOctets 1 (b2n phase + 2 * b2n slot + 4 * b2n (s.on (Reg.FUNC_STAT_PRESSURE c.func))) ++ leOctets 1 fix.1 ++ leOctets 1 fix.2.length ++
    leOctets 4 r0 ++ leOctets 4 c.outw ++ leOctets 8 c.jseq ++ List.replicate 8 0

/-- The result slot (Table 13.9); nothing where it is not written. -/
def resultSlot (c : Cmd) : List Octet :=
  if c.fix.isSome || c.res.any (fun r => decide (r.1 ≠ 0)) then
    (List.range 7).flatMap (fun i => leOctets 4 (((c.res.find? (fun r => decide (r.1 = i + 1))).map (fun r => r.2.toNat)).getD 0)) ++
      [0, 0, 0, 0] ++ fitOctets 64 (c.fix.getD (0, [])).2 ++ List.replicate 32 0
  else c.slotOut

/-- The vector of a queue is raised. -/
def raiseQueue (s : State) (f x : Nat) : State :=
  raiseVector (s.setQ x { s.q x with since := 0 }) f (s.rd (Reg.Q_CTL_VECTOR x))

/-- A freeze takes hold once nothing placed or ended is left to complete (R134, R324). -/
def freezeCheck (s : State) (f : Nat) : State :=
  let x := s.fn f
  if ¬ x.freezing ∨ x.st ≠ 1 ∨ s.cmds.any (fun c => decide (c.func = f ∧ (c.ph = .placed ∨ (c.ph = .completing ∧ c.status ≠ 0x60) ∨ c.ph = .held))) then s
  else
    let s := s.setFn f { x with st := 2 }
    let s := (s.flag (Reg.FUNC_STAT_FROZEN f) true).flag (Reg.ADM_STAT_FROZEN f) true
    let s := fnEvent s f 1
    if s.lead = 1 ∨ s.lead = 2 then fnEvent s (pfA + s.lead - 1) 1 else s

/-- The next completion of a queue is written, after its output; then resources return and the vector is raised (R130). -/
def writeCompletion (s : State) (f q : Nat) : State :=
  let x := qx f q
  match s.cmds.find? (fun c => decide (c.func = f ∧ c.queue = q ∧ c.ph = .completing)) with
  | none => s
  | some c =>
    if f ∈ s.d3 ∨ ¬ s.on (Reg.Q_CTL_ENABLE x) then s
    else
      let y := s.q x
      let d := s.depth x
      let s := { s with sent := s.sent ++ [Sent.completion f q y.cqTail (completionEntry s c y.phase) (resultSlot c) c.out] }
      let wrap := decide (y.cqTail + 1 ≥ d)
      let s := s.setQ x { y with cqTail := (y.cqTail + 1) % d, phase := y.phase != wrap, since := y.since + 1 }
      let s := releaseAll { s with cmds := s.cmds.filter (fun e => decide (e.uid ≠ c.uid)) } c
      let s := if s.rd (Reg.Q_MOD_TIME x) = 0 ∨ (s.q x).since ≥ max 1 (s.rd (Reg.Q_MOD_COUNT x)) then raiseQueue s f x else s
      freezeCheck s f

/-- Q_MOD.TIME has passed since the first completion not yet announced. -/
def moderationTimer (s : State) (f q : Nat) : State :=
  let x := qx f q
  if (s.q x).since = 0 ∨ s.rd (Reg.Q_MOD_TIME x) = 0 then s else raiseQueue s f x

/-! ### Queue entries (R309) -/

/-- Push slots that a function's enabled push queues take. -/
def slotsTaken (s : State) (f : Nat) : Nat :=
  ((List.range 256).map (fun n => if s.on (Reg.Q_CTL_ENABLE (qx f n)) ∧ s.on (Reg.Q_CTL_PUSH (qx f n)) then s.depth (qx f n) else 0)).sum

/-- Why enabling is refused: 0 where it is not. The word is the one written. -/
def enableCause (s : State) (f q v : Nat) : Nat :=
  let x := qx f q
  let ld := v / 256 % 16
  let push := bit v 1
  if q ≥ s.rd (Reg.FUNC_CAP_QUEUES f) then 1
  else if (if push then ld > 4 else ld < 4 ∨ 12 < ld) then 2
  else if v / 65536 % 512 ≥ s.rd (Reg.FUNC_CAP_VECTORS f) then 3
  else if s.rd (Reg.CQ_BASE_LO x) % 64 ≠ 0 ∨ (¬ push ∧ s.rd (Reg.SQ_BASE_LO x) % 64 ≠ 0) then 4
  else if push ∧ slotsTaken s f + 2 ^ ld > s.rd (Reg.FUNC_CAP_PUSH_SLOTS f) then 5
  else 0

/-- The fields of Q_CTL taken from a written word. -/
def putQctl (s : State) (x v : Nat) : State :=
  (((s.wr (Reg.Q_CTL_VECTOR x) (v / 65536)).wr (Reg.Q_CTL_LDEPTH x) (v / 256)).wr (Reg.Q_CTL_FAILFAST x) (v / 4)).wr (Reg.Q_CTL_PUSH x) (v / 2)

/-- The returned commands of a restored function enter their queue first (Table 13.16). -/
def returnHeld (s : State) (f q : Nat) : State :=
  let x := s.fn f
  let mine := x.held.filter (fun e => decide (e.1 = q))
  let s := s.setFn f { x with held := x.held.filter (fun e => decide (e.1 ≠ q)) }
  mine.foldl (fun s e =>
    let y := s.q (qx f q)
    { s.setQ (qx f q) { y with inUse := y.inUse + 1 } with cmds := s.cmds ++ [Cmd.fresh s.nextUid f q e.2], nextUid := s.nextUid + 1 }) s

/-- A refused write of a queue entry. -/
def qRefuse (s : State) (x cause : Nat) : State := s.wr (Reg.Q_STAT_CFG_CAUSE x) cause

/-- A write of Q_CTL. -/
def qctlWrite (s : State) (f q v : Nat) : State :=
  let x := qx f q
  let same := decide (v / 65536 % 512 = s.rd (Reg.Q_CTL_VECTOR x) ∧ v / 256 % 16 = s.rd (Reg.Q_CTL_LDEPTH x) ∧
    v / 4 % 2 = s.rd (Reg.Q_CTL_FAILFAST x) ∧ v / 2 % 2 = s.rd (Reg.Q_CTL_PUSH x))
  if ¬ reachable s f then s
  else if s.on (Reg.Q_CTL_ENABLE x) then
    if bit v 0 then (if same then s else accErr (qRefuse s x 7) f)
    else if s.heldOf f q ≠ [] then accErr (qRefuse s x 6) f
    else (s.flag (Reg.Q_CTL_ENABLE x) false).flag (Reg.Q_STAT_ACTIVE x) false
  else if ¬ bit v 0 then putQctl s x v
  else
    let c := enableCause s f q v
    if c ≠ 0 then qRefuse s x c
    else
      let s := ((putQctl s x v).flag (Reg.Q_CTL_ENABLE x) true).flag (Reg.Q_STAT_ACTIVE x) true
      returnHeld ((s.setQ x QueueSt.fresh).wr (Reg.Q_SQHEAD x) 0) f q

/-! ### Resets of functions and ports (R329, R330) -/

/-- FLR_REPORT shows the FIFO's head. -/
def showReport (s : State) (p : Nat) : State :=
  match tget [] s.flrs p with
  | [] => (s.flag (Reg.FLR_REPORT_VALID p) false).wr (Reg.FLR_REPORT_COUNT p) 0 |>.wr (Reg.FLR_REPORT_FUNC p) 0
  | e :: _ => ((s.flag (Reg.FLR_REPORT_VALID p) true).wr (Reg.FLR_REPORT_COUNT p) (min e.2 0x7FFF)).wr (Reg.FLR_REPORT_FUNC p) e.1

/-- A report enters the FIFO of its port's PF. -/
def pushReport (s : State) (p f n : Nat) : State :=
  let l := tget [] s.flrs p
  if l.length ≥ 64 then s.flag (Reg.FLR_REPORT_OVF p) true
  else fnEvent (showReport { s with flrs := tset [] s.flrs p (l ++ [(f, n)]) } p) (pfOf p) 7

/-- FLR_REPORT.VALID written with 1: the head leaves. -/
def popReport (s : State) (p : Nat) : State :=
  let l := tget [] s.flrs p
  let s := if l = [] then s.flag (Reg.FLR_REPORT_OVF p) false else s
  showReport { s with flrs := tset [] s.flrs p (l.drop 1) } p

/-- The registers of a function and its queue entries at their FLR values. -/
def flrRegs (f : Nat) (t : Tab Nat) : Tab Nat :=
  t.filter (fun e =>
    let a := e.1 / 256
    let mine := (0x20000000000 + 0x100000 * f ≤ a ∧ a < 0x20000000000 + 0x100000 * (f + 1)) ∨
      (0x40000000000 + 8192 * f ≤ a ∧ a < 0x40000000000 + 8192 * (f + 1))
    !(decide mine && decide (5 ≤ e.1 % 8)))

/-- A placed instance of a command is marked to stop at the next boundary. -/
def stopInst (s : State) (uid : Nat) (k : StopKind) : State :=
  { s with floor := { s.floor with seqs := s.floor.seqs.map (fun e =>
      match e.2.inst with
      | some i => if i.uid = uid then (e.1, { e.2 with inst := some { i with stop := some k } }) else e
      | none => e) } }

/-- The commands of a function are discarded: placed ones stop at the next boundary without output, the others go at once. -/
def discardCmds (s : State) (f : Nat) : State :=
  let mine := s.cmds.filter (fun c => decide (c.func = f))
  let s := mine.foldl (fun s c => if c.ph = CmdPhase.placed then stopInst s c.uid .flr else releaseAll s c) s
  { s with cmds := s.cmds.filter (fun c => decide (c.func ≠ f ∨ c.ph = .placed)) }

/-- What every reset of a function does (R329): work, registers, queues, MSI-X table, returned commands. -/
def functionReset (s : State) (f : Nat) : State :=
  let s := discardCmds s f
  let s := { s with
    regs := flrRegs f s.regs
    queues := s.queues.filter (fun e => !decide (256 * f ≤ e.1 ∧ e.1 < 256 * (f + 1)))
    msix := s.msix.filter (fun e => !decide (512 * f ≤ e.1 ∧ e.1 < 512 * (f + 1))) }
  s.setFn f { s.fn f with held := [] }

/-- FLR of a VF: with a record 0x0702 where commands are discarded (Table 19.1) and its report. -/
def flrVf (s : State) (f : Nat) : State :=
  if s.fnState f = 0 then s
  else
    let n := (s.cmds.filter (fun c => decide (c.func = f))).length + (s.fn f).held.length
    let s := functionReset s f
    let s := if n = 0 then s else jrec s 0x0702 0xE8 f (leOctets 4 n)
    pushReport s (portOf s f) f n

/-- The VFs of a port that exist. -/
def vfsOf (s : State) (p : Nat) : List Nat := (s.funcs.map Prod.fst).filter (fun f => decide (f < pfA ∧ s.fnState f ≠ 0 ∧ portOf s f = p))

/-- A reset of a PF's own side: lead, tokens, VF Enable. -/
def pfLapses (s : State) (p : Nat) : State :=
  let s := breakTokens (lapseLead s (p + 1)) (fun h => decide (h = portMaster p))
  s.setPort p { s.port p with vfEnable := false }

/-- FLR of a PF (R330). -/
def flrPf (s : State) (p : Nat) : State :=
  if s.fnState (pfOf p) = 0 then s
  else (vfsOf s p).foldl flrVf (functionReset (pfLapses s p) (pfOf p))

/-- PERST, hot reset, link-down of a port (R330): its functions, SPDM sessions, IDE keys, configuration space, FLR reports. -/
def portReset (s : State) (p : Nat) : State :=
  if p = 1 ∧ ¬ s.rst.split then s
  else
    let vfs := vfsOf s p
    let s := vfs.foldl functionReset (functionReset (pfLapses s p) (pfOf p))
    let s := { s with d3 := s.d3.filter (fun f => !decide (f = pfOf p ∨ f ∈ vfs)), flrs := tset [] s.flrs p [] }
    let s := (showReport s p).flag (Reg.FLR_REPORT_OVF p) false
    s.setPort p { s.port p with spdm := .reset, link := false, l1 := false, vfEnable := false }

/-- A host configuration write (R306, Table 13.1). -/
def configWrite13 (s : State) : ConfigWrite → State
  | .vfEnable p on => if s.fnState (pfOf p) = 0 then s else s.setPort p { s.port p with vfEnable := on }
  | .power f d3 => { s with d3 := if d3 then insNat f s.d3 else s.d3.filter (fun g => decide (g ≠ f.val)) }

def execSqTail (f : Fin 2050) (q : Fin 256) (v : BitVec 32) (s : State) : Out := done (sqTailWrite s f q v.toNat)
def execCqHead (f : Fin 2050) (q : Fin 256) (v : BitVec 32) (s : State) : Out := done (cqHeadWrite s f q v.toNat)
def execPushWrite (f : Fin 2050) (q : Fin 256) (off : BitVec 8) (oneTlp ide : Bool) (data : List Octet) (s : State) : Out :=
  done (pushCmd s f q off.toNat oneTlp ide data)
def execCommandFetch (f : Fin 2050) (q : Fin 256) (ide : Bool) (data : List Octet) (s : State) : Out := done (fetchCmd s f q ide data)
def execIngressAdmit (f : Fin 2050) (s : State) : Out := done (admitOne s f)
def execCompletionWrite (f : Fin 2050) (q : Fin 256) (s : State) : Out := done (writeCompletion s f q)
def execMsixModerationTimer (f : Fin 2050) (q : Fin 256) (s : State) : Out := done (moderationTimer s f q)
def execQueueEnable (f : Fin 2050) (q : Fin 256) (v : BitVec 32) (s : State) : Out := done (qctlWrite s f q (v.toNat / 2 * 2 + 1))
def execQueueDisable (f : Fin 2050) (q : Fin 256) (v : BitVec 32) (s : State) : Out := done (qctlWrite s f q (v.toNat / 2 * 2))
def execFlrReportPop (p : Fin 2) (s : State) : Out := done (popReport s p)
def execHostMisalignedAccess (f : Fin 2050) (s : State) : Out := done (if reachable s f then accErr s f else s)
/-- R330, R304: the port trains unless PERST holds it or it does not exist. -/
def execLinkUp (p : Fin 2) (s : State) : Out :=
  done (if (s.port p).perst ∨ (p.val = 1 ∧ ¬ s.rst.split) ∨ s.rst.por then s else s.setPort p { s.port p with link := true, l1 := false })
def execL1Entry (p : Fin 2) (s : State) : Out := done (if (s.port p).link then s.setPort p { s.port p with l1 := true } else s)
def execConfigSpaceSet (w : ConfigWrite) (s : State) : Out := done (configWrite13 s w)

end Sys2Proof.Machine
end

