-- ==== Sys2Proof/Machine/Quad.lean ====
section
/-! DEFINITION. The quadrille (spec/17): Peloux frames and link keys, roster and membership, replication. The spec names what each message
carries; the layouts of message bodies and the octets around the Ethernet header are the model's own (DESIGN CHOICE, log 30). A frame is
held from the octet VER on. -/
namespace Sys2Proof.Machine

def State.setPlx (s : State) (f : Plx → Plx) : State := { s with plx := f s.plx }
/-- A big-endian field. -/
def beAt (o : List Octet) (off n : Nat) : Nat := ofBe (octAt o off n)

/-- A record of an event of the quadrille (log 32). -/
def plxRecord (s : State) (arg : Nat) (payload : List Octet) : State := jrec s Config.plxRecordType 0xE4 arg payload

/-! ### The roster (R397) -/

/-- A roster entry with its signatures, from its device record: empty where there is none. -/
def State.entry (s : State) (m : Nat) : List Octet :=
  (findDevice s bRoster (fun o => decide (beAt o 0 2 = m))).elim [] (fun r => (s.obj r).mat)
def entState (e : List Octet) : Nat := if e = [] then 0 else beAt e 2 1
def entTenure (e : List Octet) : Nat := beAt e 4 4 % 2 ^ 20
def entSerial (e : List Octet) : List Octet := octAt e 0x10 16
/-- The member numbers that have an entry. -/
def State.members (s : State) : List Nat :=
  ((s.vault.recs.filter (fun e => decide (mapState (s.vmap e.1) = 1 ∧ leAt e.2 1 1 = bRoster))).map (fun e => beAt (s.obj e.1).mat 0 2))

/-- The roster registers brought up to date. -/
def rosterCounts (s : State) : State :=
  (s.wr Reg.PLX_ACTIVE (s.members.filter (fun m => decide (entState (s.entry m) = 1))).length).wr Reg.PLX_ROSTER_SEQ s.plx.seq

/-- An entry stored in its device record. -/
def putEntry (s : State) (e : List Octet) : State :=
  let m := beAt e 0 2
  let s := s.setPlx (fun p => { p with seq := max p.seq (beAt e 8 8) })
  rosterCounts (match findDevice s bRoster (fun o => decide (beAt o 0 2 = m)) with
    | some r => putDevice s r e
    | none => (createObj s (deviceObj bRoster e)).1)

/-- The octets of an entry without signatures. -/
def entryOf (m st tenure seq : Nat) (serial idDig trDig : List Octet) : List Octet :=
  beOctets 2 m ++ beOctets 1 st ++ [0] ++ beOctets 4 tenure ++ beOctets 8 seq ++ fitOctets 16 serial ++ fitOctets 48 idDig ++ fitOctets 48 trDig

/-- An entry that this device signs as caller, stored. -/
def signEntry (s : State) (m st tenure : Nat) (serial idDig trDig : List Octet) : List Octet × State :=
  let seq := s.plx.seq + 1
  let e := entryOf m st tenure seq serial idDig trDig
  let (g, s) := signBoth s (beOctets 8 s.plx.qid ++ e)
  (e ++ g, putEntry s (e ++ g))

/-- Is an entry signed by the member with this serial? -/
def entrySigned (qid : Nat) (serial e : List Octet) : Bool := signedBy serial (beOctets 8 qid ++ octAt e 0 128 ++ e.drop 128) 136

/-- This device's ID_DIGEST and TR_DIGEST. -/
def ownIdDigest : List Octet := sha384 (identityPub 1 ++ identityPub 2)
def ownTrDigest (s : State) : List Octet := s.tamp.root.elim [] (fun r => sha384 (transportPub r 3 ++ transportPub r 4))

/-- FIXED of a member (R397). -/
def fixedOf (m tenure : Nat) : Nat := m % 4096 * 2 ^ 20 + tenure

/-- The registers that show membership. -/
def plxRefresh (s : State) : State :=
  let p := s.plx
  let st := if p.join.isSome then 1 else if p.member = 0xFFFF then 0 else if entState (s.entry p.member) = 3 then 3 else 2
  let s := (((s.wr Reg.PLX_STAT_MSTATE st).flag Reg.PLX_STAT_CALLER (decide (p.epoch ≠ 0))).wr Reg.PLX_QID_LO p.qid).wr Reg.PLX_QID_HI
    (p.qid / 2 ^ 32)
  let s := rosterCounts (s.wr Reg.PLX_FIXED s.fixed)
  p.roles.foldl (fun s e => (s.wr (Reg.PLX_DOM_ROLE e.1) e.2.1).wr (Reg.PLX_DOM_HOME e.1) e.2.2) s

/-- This device is no member any more (R401): FIXED takes its standalone value. -/
def leaveQuadrille (s : State) : State :=
  plxRefresh (setFixed (s.setPlx (fun p => { p with member := 0xFFFF, qid := 0, tenure := 0, epoch := 0, fixedNext := none, join := none }))
    standaloneFixed)

/-! ### Frames (R393, R395) -/

/-- A header (Table 17.1). -/
def plxHeader (typ flags seg src dst qid lseq id len nseg : Nat) : List Octet :=
  [1] ++ beOctets 1 typ ++ beOctets 1 flags ++ beOctets 1 seg ++ beOctets 2 src ++ beOctets 2 dst ++ beOctets 8 qid ++ beOctets 8 lseq ++
    beOctets 4 id ++ beOctets 2 len ++ beOctets 1 nseg ++ [0]

/-- The segments of a body. -/
def segments (b : List Octet) : List (List Octet) :=
  if b = [] then [[]] else (List.range ((b.length + 1399) / 1400)).map (fun i => (b.drop (1400 * i)).take 1400)

/-- Frames leave on a port. -/
def emitFrames (s : State) (port : Nat) (l : List (List Octet)) : State := { s with sent := s.sent ++ l.map (fun o => Sent.peloux port o) }

/-- A clear message leaves on a port. -/
def sendClear (s : State) (port typ dst id : Nat) (body : List Octet) : State :=
  let segs := segments body
  emitFrames s port ((List.range segs.length).zip segs |>.map (fun e =>
    plxHeader typ 0 e.1 s.plx.member dst s.plx.qid 0 id e.2.length segs.length ++ e.2))

/-- Key types (Table 17.2). -/
def isKeyType (t : Nat) : Bool := decide (4 ≤ t)

/-- Is a port enabled and locked? -/
def portUp (s : State) (n : Nat) : Bool := s.on (Reg.PLX_PORT_CFG_ENABLE n) && bit (s.rd Reg.PLX_STAT_LINK) n

/-- The port that a message to a member leaves on: the lowest whose path is up, from `lo` on. -/
def portFor (s : State) (m lo : Nat) : Option Nat :=
  (List.range 4).find? (fun n => decide (lo ≤ n ∧ 4 * m + n ∈ s.plx.paths) && portUp s n)

/-- A link key used: it goes to the end of the order of use. Beyond 512 pairs the first of the order is evicted (R396). -/
def touchKey (s : State) (m : Nat) : State :=
  let l := s.plx.lru.erase m ++ [m]
  match l with
  | old :: rest => if l.length > 512 then s.setPlx (fun p => { p with lru := rest, keys := tdel p.keys old }) else s.setPlx (fun p => { p with lru := l })
  | [] => s

/-- An exchange opens (R396, step 1): this side's offer: kind, counter, identity keys, transport keys, encapsulation, ephemeral key. -/
def startPair (s : State) (m : Nat) : State :=
  match portFor s m 0, s.tamp.root with
  | some port, some root =>
    if tget [] s.plx.pairing m ≠ [] then s
    else
      let k := Config.transportOfDigest (octAt (s.entry m) 0x50 48)
      let c := Config.encapsulate 3 k.1 s.free
      let (eph, s) := s.freeOctets 48
      let ex := (tget LinkKey.none s.plx.keys m).exch + 1
      let offer := [1] ++ beOctets 4 ex ++ fitOctets 2592 (identityPub 1) ++ fitOctets 97 (identityPub 2) ++ fitOctets 1568 (transportPub root 3) ++
        fitOctets 97 (transportPub root 4) ++ fitOctets 1568 c.1 ++ fitOctets 97 (Config.publicKey 4 eph)
      let s := s.setPlx (fun p => { p with pairing := tset [] p.pairing m (fitOctets 32 c.2 ++ eph ++ offer) })
      sendClear s port 3 m s.plx.nextId offer
  | _, _ => s

/-- A message leaves on its port; a key that is missing or used up makes an exchange first (R395, R396). -/
def transmit (s : State) (x : PlxMsg) (ackReq : Bool) : State :=
  if ¬ isKeyType x.typ then sendClear s x.port x.typ x.dst x.id x.body
  else
    let k := tget LinkKey.none s.plx.keys x.dst
    let segs := segments x.body
    if k.tx = [] ∨ k.lseq + segs.length ≥ 2 ^ 32 then startPair s x.dst
    else
      let l := (List.range segs.length).zip segs |>.map (fun e =>
        let h := plxHeader x.typ (1 + 2 * b2n ackReq) e.1 s.plx.member x.dst s.plx.qid (k.lseq + 1 + e.1) x.id e.2.length segs.length
        let c := gcmSeal k.tx (k.txSalt ++ beOctets 8 (k.lseq + 1 + e.1)) h e.2
        h ++ c.1 ++ c.2)
      emitFrames (touchKey (s.setPlx (fun p => { p with keys := tset LinkKey.none p.keys x.dst { k with lseq := k.lseq + segs.length } })) x.dst)
        x.port l

/-- A message to a member (R402); without a path it fails. -/
def sendMsg (s : State) (m typ : Nat) (body : List Octet) (ackReq : Bool) : State :=
  match portFor s m 0 with
  | none => s
  | some port =>
    let x : PlxMsg := ⟨m, typ, s.plx.nextId, body, port, 0⟩
    let s := s.setPlx (fun p => { p with nextId := (p.nextId + 1) % 2 ^ 32, msgs := if ackReq then p.msgs ++ [x] else p.msgs })
    transmit s x ackReq

/-- A message moves to the next port whose path is up, or fails. -/
def moveMsg (s : State) (x : PlxMsg) : State :=
  let next := (portFor s x.dst (x.port + 1)).orElse (fun _ => portFor s x.dst 0)
  match next with
  | none => s.setPlx (fun p => { p with msgs := p.msgs.filter (fun y => decide (y.id ≠ x.id)) })
  | some port =>
    let y := { x with port := port, tries := 0 }
    transmit (s.setPlx (fun p => { p with msgs := p.msgs.map (fun z => if z.id = x.id then y else z) })) y true

/-- A frame is discarded and counted. -/
def dropFrame (s : State) (port : Nat) : State := s.count (Reg.PLX_PORT_DROP port) (Reg.PLX_PORT_CFG_DRO port)

/-- One received frame of a type: discarded, or its payload (R393 to R395). -/
def takeFrame (s : State) (port typ : Nat) (f : List Octet) : State × Option (List Octet) :=
  let len := beAt f 0x1C 2
  let enc := bit (beAt f 2 1) 0
  let src := beAt f 4 2
  if f.length < 32 ∨ beAt f 0 1 ≠ 1 ∨ beAt f 1 1 ≠ typ ∨ len > 1400 ∨ f.length ≠ 32 + len + (if enc then 16 else 0) ∨
      (isKeyType typ ∧ ¬ enc) then (dropFrame s port, none)
  else if ¬ enc then (s, some (octAt f 32 len))
  else
    let k := tget LinkKey.none s.plx.keys src
    let n := beAt f 0x10 8
    if k.rx = [] ∨ n ∈ k.seen ∨ n + 1024 ≤ k.high then (dropFrame s port, none)
    else match gcmOpen k.rx (k.rxSalt ++ beOctets 8 n) (octAt f 0 32) (octAt f 32 len) (octAt f (32 + len) 16) with
      | none => (dropFrame s port, none)
      | some o =>
        let high := max k.high n
        let k := { k with high := high, seen := (n :: k.seen).filter (fun x => decide (high < x + 1024)) }
        (touchKey (s.setPlx (fun p => { p with keys := tset LinkKey.none p.keys src k })) src, some o)

/-- The frames of one message: the body, where every frame is good and they are its segments in order. -/
def takeFrames (s : State) (port typ : Nat) (fs : List (List Octet)) : State × Option (List Octet) :=
  let r := fs.foldl (fun (x : State × Option (List Octet) × Nat) f =>
    let y := takeFrame x.1 port typ f
    (y.1, match x.2.1, y.2 with
      | some a, some b => if beAt f 3 1 = x.2.2 ∧ beAt f 0x1E 1 = fs.length ∧ octAt f 0x18 4 = octAt (nth [] fs 0) 0x18 4 ∧
          octAt f 4 4 = octAt (nth [] fs 0) 4 4 then some (a ++ b) else none
      | _, _ => none, x.2.2 + 1)) (s, if fs = [] then none else some [], 0)
  (r.1, r.2.1)

/-- An acknowledgement: MSG_ID, outcome (0 taken, 1 CLASH). -/
def sendAck (s : State) (m id outcome : Nat) : State := sendMsg s m 5 (beOctets 4 id ++ beOctets 1 outcome) false

/-- A message of a key type delivered once, with its acknowledgement; a port that is down receives nothing. -/
def plxDeliver (s : State) (port typ : Nat) (fs : List (List Octet)) (act : State → Nat → List Octet → State × Nat) : State :=
  if ¬ portUp s port then s
  else match takeFrames s port typ fs with
    | (s, none) => s
    | (s, some b) =>
      let h := nth [] fs 0
      let m := beAt h 4 2
      let id := beAt h 0x18 4
      let r := if (m, id) ∈ s.plx.got then (s, 0) else act (s.setPlx (fun p => { p with got := (m, id) :: p.got })) m b
      if bit (beAt h 2 1) 1 then sendAck r.1 m id r.2 else r.1

/-! ### HELLO and paths (R394, R398, R402) -/

/-- The body of this device's HELLO: SERIAL, member, QID, ROSTER_SEQ, the epoch it is caller of (0 when it is not), port. -/
def helloBody (s : State) (port : Nat) : List Octet :=
  fitOctets 16 Config.deviceSerial ++ beOctets 2 s.plx.member ++ beOctets 8 s.plx.qid ++ beOctets 8 s.plx.seq ++ beOctets 1 s.plx.epoch ++
    beOctets 1 port

/-- The entries that a member signed in an epoch become CONTESTED (R398). -/
def contest (s : State) (m e : Nat) : State :=
  let serial := entSerial (s.entry m)
  let s := s.members.foldl (fun s k =>
    let x := s.entry k
    if entTenure x / 2 ^ 14 = e ∧ entrySigned s.plx.qid serial x then putEntry s (setOctets x 2 [3]) else s) s
  plxRefresh (if s.plx.member = m then s.setPlx (fun p => { p with epoch := 0 }) else s)

/-- A claim of an epoch heard: two callers of one epoch conflict. -/
def heardClaim (s : State) (m e : Nat) : State :=
  let claims := (s.plx.claims.filter (fun c => decide (c.1 ≠ m ∧ c.2 = e))).map Prod.fst ++
    (if s.plx.epoch = e ∧ s.plx.member ≠ m then [s.plx.member] else [])
  let s := s.setPlx (fun p => { p with claims := tset 0 p.claims m e, seenEpoch := max p.seenEpoch e, heardAt := some s.tamp.tick })
  match claims with
  | [] => s
  | o :: _ => contest (plxRecord (s.flag Reg.PLX_STAT_CONFLICT true) e (beOctets 2 m ++ beOctets 2 o)) (max m o) e

/-- A JOIN request: kind 1, QID, number asked, SERIAL, nonce. -/
def joinRequest (qid num : Nat) (nonce : List Octet) : List Octet :=
  [1] ++ beOctets 8 qid ++ beOctets 2 num ++ fitOctets 16 Config.deviceSerial ++ nonce

/-- A received HELLO. -/
def helloFrame (s : State) (port : Nat) (f : List Octet) : State :=
  if ¬ portUp s port then s
  else match takeFrame s port 1 f with
    | (s, none) => s
    | (s, some b) =>
      let m := beAt b 16 2
      let qid := beAt b 18 8
      let e := beAt b 34 1
      match s.plx.join with
      | some (q, num, nonce, 0) =>
        if qid = q ∧ e ≠ 0 then
          sendClear (s.setPlx (fun p => { p with join := some (q, num, nonce, 1), nextId := p.nextId + 1, seenEpoch := max p.seenEpoch e })) port 2 m
            s.plx.nextId (joinRequest q num nonce)
        else s
      | _ =>
        if m ≥ 4096 ∨ qid ≠ s.plx.qid ∨ s.plx.member = 0xFFFF ∨ m = s.plx.member then s
        else
          let s := s.setPlx (fun p => { p with paths := insNat (4 * m + port) p.paths })
          if e ≠ 0 then heardClaim s m e else s

/-- HELLO on every enabled port. -/
def sendHellos (s : State) : State :=
  (List.range 4).foldl (fun s n => if s.on (Reg.PLX_PORT_CFG_ENABLE n) then
    emitFrames s n [plxHeader 1 0 0 s.plx.member 0xFFFF s.plx.qid 0 0 36 1 ++ helloBody s n] else s) s

/-- A path goes down; its messages move. -/
def pathDown (s : State) (m port : Nat) : State :=
  let s := s.setPlx (fun p => { p with paths := p.paths.filter (fun x => decide (x ≠ 4 * m + port)) })
  (s.plx.msgs.filter (fun x => decide (x.dst = m ∧ x.port = port))).foldl moveMsg s

/-- A port loses lock. -/
def lockLost (s : State) (port : Nat) : State :=
  let l := s.rd Reg.PLX_STAT_LINK
  let s := if bit l port then s.wr Reg.PLX_STAT_LINK (l - 2 ^ port) else s
  let s := s.setPlx (fun p => { p with paths := p.paths.filter (fun x => decide (x % 4 ≠ port)) })
  (s.plx.msgs.filter (fun x => decide (x.port = port))).foldl moveMsg s

/-- A port gains lock. -/
def lockGained (s : State) (port : Nat) : State :=
  let l := s.rd Reg.PLX_STAT_LINK
  if bit l port then s else s.wr Reg.PLX_STAT_LINK (l + 2 ^ port)

/-- 10 ms without an acknowledgement. -/
def retryMsg (s : State) (id : Nat) : State :=
  match s.plx.msgs.find? (fun x => decide (x.id = id)) with
  | none => s
  | some x =>
    if x.tries ≥ 8 then moveMsg s x
    else
      let y := { x with tries := x.tries + 1 }
      transmit (s.setPlx (fun p => { p with msgs := p.msgs.map (fun z => if z.id = id then y else z) })) y true

/-- Every message to a member is sent again. -/
def resendTo (s : State) (m : Nat) : State := (s.plx.msgs.filter (fun x => decide (x.dst = m))).foldl (fun s x => transmit s x true) s

/-! ### Link keys (R396) -/

/-- The length of an offer, and of what this side keeps before its own. -/
def offerLen : Nat := 5 + 2592 + 97 + 1568 + 97 + 1568 + 97
def keptLen : Nat := 80

/-- Both offers, the lower member's first. -/
def pairTranscript (s : State) (m : Nat) : List Octet :=
  let own := (tget [] s.plx.pairing m).drop keptLen
  let peer := tget [] s.plx.pairing (4096 + m)
  if s.plx.member < m then own ++ peer else peer ++ own

/-- The keys of a finished exchange. -/
def pairKeys (s : State) (root : List Octet) (m : Nat) : LinkKey :=
  let kept := tget [] s.plx.pairing m
  let peer := tget [] s.plx.pairing (4096 + m)
  let ex := max (beAt (kept.drop keptLen) 1 4) (beAt peer 1 4)
  let mine := octAt kept 0 32
  let theirs := Config.sharedSecret 3 (transportMat root 3) (octAt peer (offerLen - 97 - 1568) 1568)
  let dh := Config.sharedSecret 4 (octAt kept 32 48) (octAt peer (offerLen - 97) 97)
  let low := decide (s.plx.member < m)
  let fm := beOctets 4 (fixedOf m (entTenure (s.entry m)))
  let fo := beOctets 4 s.fixed
  let info := ascii "CKPX" ++ beOctets 8 s.plx.qid ++ (if low then fo ++ fm else fm ++ fo) ++ beOctets 4 ex
  let z := (if low then mine ++ theirs else theirs ++ mine) ++ dh
  let kdf := sha384 (beOctets 4 1 ++ z ++ info) ++ sha384 (beOctets 4 2 ++ z ++ info)
  let up := octAt kdf 0 32
  let down := octAt kdf 32 32
  let su := octAt kdf 64 4
  let sd := octAt kdf 68 4
  if low then ⟨up, down, su, sd, 0, 0, [], ex⟩ else ⟨down, up, sd, su, 0, 0, [], ex⟩

/-- A PAIR message: kind 1, an offer; kind 2, the signatures over the transcript. -/
def pairMessage (s : State) (port : Nat) (fs : List (List Octet)) : State :=
  if ¬ portUp s port then s
  else match takeFrames s port 3 fs with
    | (s, none) => s
    | (s, some b) =>
      let m := beAt (nth [] fs 0) 4 2
      let e := s.entry m
      if m ≥ 4096 ∨ entState e ≠ 1 then s
      else if beAt b 0 1 = 1 then
        if b.length ≠ offerLen ∨ sha384 (octAt b 5 2689) ≠ octAt e 0x20 48 ∨ sha384 (octAt b 2694 1665) ≠ octAt e 0x50 48 then s
        else
          let s := startPair (s.setPlx (fun p => { p with pairing := tset [] p.pairing (4096 + m) b })) m
          let (g, s) := signBoth s (pairTranscript s m)
          sendClear s port 3 m s.plx.nextId ([2] ++ g)
      else match s.tamp.root with
        | none => s
        | some root =>
          let t := pairTranscript s m
          if tget [] s.plx.pairing (4096 + m) = [] ∨ tget [] s.plx.pairing m = [] ∨ b.length ≠ 4724 ∨
              ¬ signedBy (entSerial e) (t ++ b.drop 1) t.length then s
          else
            let k := pairKeys s root m
            let s := s.setPlx (fun p => { p with
              keys := tset LinkKey.none p.keys m k, pairing := tdel (tdel p.pairing m) (4096 + m) })
            resendTo (touchKey s m) m

/-! ### Statements of peers (R401, R404) -/

/-- A statement is asked of a member over a fresh nonce. -/
def askStatement (s : State) (m : Nat) : State :=
  let (n, s) := drawRandom s 32
  sendMsg (s.setPlx (fun p => { p with nonces := tset [] p.nonces m n })) m 6 ([1] ++ n) true

/-- The other members whose entry is ACTIVE. -/
def State.peers (s : State) : List Nat := s.members.filter (fun m => decide (m ≠ s.plx.member ∧ entState (s.entry m) = 1))

/-- Entries sent to every member. -/
def sendRoster (s : State) (e : List Octet) : State := s.peers.foldl (fun s m => sendMsg s m 4 e true) s

/-- The caller retires a member (R401). -/
def retireMember (s : State) (m : Nat) : State :=
  let e := s.entry m
  if s.plx.epoch = 0 ∨ entState e ≠ 1 then s
  else
    let (x, s) := signEntry s m 2 (entTenure e) (entSerial e) (octAt e 0x20 48) (octAt e 0x50 48)
    sendRoster s x

/-! ### Updates of replicated domains (R404 to R406) -/

/-- Role of this device in a domain: 0 none, 1 home, 2 replica. -/
def State.role (s : State) (d : Nat) : Nat := (tget (0, 0) s.plx.roles d).1
def setRole (s : State) (d role home : Nat) : State :=
  ((s.setPlx (fun p => { p with roles := tset (0, 0) p.roles d (role, home) })).wr (Reg.PLX_DOM_ROLE d) role).wr (Reg.PLX_DOM_HOME d) home

/-- The targets of a domain: members of its approved set that are ACTIVE with that tenure. -/
def State.targets (s : State) (d : Nat) : List Nat :=
  ((tget [] s.plx.sets d).filter (fun e => decide (e.1 ≠ s.plx.member) && decide (entState (s.entry e.1) = 1) && decide (entTenure (s.entry e.1) = e.2))).map Prod.fst

/-- LAG of a home: updates that some target has not acknowledged. -/
def lagRefresh (s : State) (d : Nat) : State :=
  let have_ := tget 0 s.plx.dseq d
  let low := ((s.targets d).map (fun m => tget 0 s.plx.acked (4096 * d + m))).foldl min have_
  s.wr (Reg.PLX_DOM_LAG d) (min (if s.role d = 1 then have_ - low else (s.plx.heldUp.filter (fun e => decide (e.1 = d))).length) 0xFFFFFFFF)

/-- The body of an update for a target: domain, DSEQ, kind, content; kind 1 carries the handle and a transfer blob of the object. -/
def updateBody (s : State) (m d n : Nat) (o : List Octet) : List Octet × State :=
  let head := beOctets 2 d ++ beOctets 8 n
  if beAt o 0 1 ≠ 1 then (head ++ o, s)
  else
    let h := beAt o 1 8
    let k := s.obj (hRec h)
    match s.plx.checked.find? (fun e => decide (e.1 = m)) with
    | none => (head ++ [0], s)
    | some (_, _, tr) =>
      if mapGen (s.vmap (hRec h)) ≠ hGen h ∨ mapState (s.vmap (hRec h)) ≠ 1 then (head ++ [0], s)
      else
        let (b, s) := transferBlob s d (entSerial (s.entry m)) (octAt tr 0 1568, octAt tr 1568 97) k.portable
        (head ++ octAt o 0 9 ++ b, s)

/-- An update goes to one target; its statement must have been checked within 600 s, else it is asked for. -/
def sendUpdate (s : State) (d n : Nat) (o : List Octet) (m : Nat) : State :=
  match s.plx.checked.find? (fun e => decide (e.1 = m ∧ s.tamp.tick < e.2.1 + 600 * 32768)) with
  | none => askStatement s m
  | some _ =>
    let (b, s) := updateBody s m d n o
    sendMsg s m 7 b true

/-- A change of a domain whose home this is becomes a numbered update. DSEQ sticks at its maximum. -/
def plxUpdate (s : State) (d : Nat) (o : List Octet) : State :=
  if s.role d ≠ 1 ∨ tget 0 s.plx.dseq d ≥ 2 ^ 64 - 1 then s
  else
    let n := tget 0 s.plx.dseq d + 1
    let s := s.setPlx (fun p => { p with dseq := tset 0 p.dseq d n, updates := p.updates ++ [(d, n, o)] })
    lagRefresh ((s.targets d).foldl (fun s m => sendUpdate s d n o m) s) d

/-- The contents of an update of the domain's records: kind 3, then each material with its length. -/
def recordsUpdate (s : State) (d : Nat) : List Octet :=
  let mats := s.policy d :: (List.range 16).filterMap (fun i => (officerRec s d i).map (fun r => (s.obj r).mat))
  [3] ++ mats.flatMap (fun m => beOctets 4 m.length ++ m)

/-- A key placed or destroyed on the home; only objects with EXPORT travel. -/
def plxKey (s : State) (h : Nat) : State :=
  if bit (s.obj (hRec h)).attr aExport then plxUpdate s (hDom h) ([1] ++ beOctets 8 h) else s
def plxKeyGone (s : State) (h : Nat) : State := plxUpdate s (hDom h) ([2] ++ beOctets 8 h)
/-- A key restricted on the home: its ATTR, CHILD_ATTR and limit. -/
def plxKeyLess (s : State) (h : Nat) : State :=
  let o := s.obj (hRec h)
  plxUpdate s (hDom h) ([6] ++ beOctets 8 h ++ beOctets 2 o.attr ++ beOctets 2 o.cAttr ++ beOctets 5 o.limit)
/-- The domain's records changed on the home. -/
def plxRecords (s : State) (d : Nat) : State := plxUpdate s d (recordsUpdate s d)

/-- The whole of a domain goes to its targets: its records, then every exportable object in ascending record index (R404). -/
def plxAll (s : State) (d : Nat) : State :=
  let heads := (s.vault.map.filter (fun e => decide (mapState e.2 = 1 ∧ leAt (s.vrec e.1) 4 2 = d))).map (fun e => handleOf d e.1 (mapGen e.2))
  heads.foldl plxKey (plxRecords s d)

/-- The lengths-and-materials of a records update. -/
def splitMats : Nat → List Octet → List (List Octet)
  | 0, _ => []
  | n + 1, o => if o = [] then [] else octAt o 4 (beAt o 0 4) :: splitMats n (o.drop (4 + beAt o 0 4))

/-- A domain's records replaced by those of its home. -/
def applyRecords (s : State) (d : Nat) (o : List Octet) : State :=
  let used := leAt (s.policy d) 0xC 4
  let s := (List.range 16).foldl (fun s i => (officerRec s d i).elim s (fun r => destroyObj s r)) s
  let s := (policyRec s d).elim s (fun r => destroyObj s r)
  match splitMats 17 o with
  | [] => s
  | pol :: offs => createAll s ((bPolicy, setOctets (fitOctets 32 pol) 0xC (leOctets 4 used)) :: offs.map (fun x => (bOfficer, x)))

/-- Is the run of records of a handle free for its object (R405)? -/
def placeFree (s : State) (r n g : Nat) : Bool :=
  (List.range n).all (fun i =>
    let e := s.vmap (r + i)
    decide (mapState e = 0) || (decide (mapState e = 3) && decide (mapGen e < g)))

/-- An object imported under its handle (R405): outcome 1 is CLASH. -/
def placeReplica (s : State) (h : Nat) (blob : List Octet) : State × Nat :=
  let d := hDom h
  match (openTransferBlob s blob).bind (fun p => unpackObj p d) with
  | none => (s, 0)
  | some o =>
    if ¬ placeFree s (hRec h) o.nRec (hGen h) then
      (plxRecord (s.flag (Reg.PLX_DOM_INCOMPLETE d) true) d (beOctets 8 h), 1)
    else match takeImport s false with
      | (s, .made v) =>
        let s := (List.range o.nRec).foldl (fun s i => putMap s (hRec h + i) (mapEntry (if i = 0 then 1 else 2) (hGen h))) s
        let s := vaultCounts (addUsed (putObj s (hRec h) (o.started s (some v))) d true o.nRec)
        (recordFor s .core 0x0206 0 (keyPayload h o 1 (octAt blob 8 16)), 0)
      | (s, _) => (s, 0)

/-- The replica of a domain is destroyed as R280 destroys a domain. -/
def dropReplica (s : State) (d : Nat) : State :=
  let s := setRole s d 0 0
  match policyRec s d with
  | none => s
  | some r => putDevice (lapseDomain s d) r (setOctets (s.policy d) 2 [3])

/-- The home of a domain moves (kind 4: the new home, then the approved set with the old home, member and tenure each). The new home takes the
set over; it answers for the updates after this one. -/
def moveHome (s : State) (d : Nat) (o : List Octet) : State :=
  let m := beAt o 1 2
  if m ≠ s.plx.member then setRole s d 2 m
  else
    let set := ((List.range ((o.length - 3) / 6)).map (fun i => (beAt o (3 + 6 * i) 2, beAt o (5 + 6 * i) 4))).filter (fun e => decide (e.1 ≠ m))
    let n := tget 0 s.plx.dseq d
    (setRole s d 1 m).setPlx (fun p => { p with
      sets := tset [] p.sets d set, acked := set.foldl (fun t (e : Nat × Nat) => tset 0 t (4096 * d + e.1) n) p.acked })

/-- One update takes effect on a replica. -/
def applyUpdate (s : State) (d : Nat) (o : List Octet) : State × Nat :=
  let h := beAt o 1 8
  let here := decide (hDom h = d ∧ mapGen (s.vmap (hRec h)) = hGen h ∧ mapState (s.vmap (hRec h)) = 1)
  match beAt o 0 1 with
  | 1 => if hDom h = d then placeReplica s h (o.drop 9) else (s, 0)
  | 2 => (if here then destroyObj s (hRec h) else s, 0)
  | 3 => (applyRecords s d (o.drop 1), 0)
  | 4 => (moveHome s d o, 0)
  | 5 => (dropReplica s d, 0)
  | 7 => (if (List.range ((o.length - 1) / 2)).any (fun i => decide (beAt o (1 + 2 * i) 2 = s.plx.member)) then s else dropReplica s d, 0)
  | 6 => (if here then putObj s (hRec h) { s.obj (hRec h) with attr := beAt o 9 2, cAttr := beAt o 11 2, limit := beAt o 13 5 } else s, 0)
  | _ => (s, 0)

/-- Held updates that have become due are applied. -/
def applyHeld : Nat → State → Nat → State
  | 0, s, _ => s
  | n + 1, s, d =>
    match s.plx.heldUp.find? (fun e => decide (e.1 = d ∧ e.2.1 = tget 0 s.plx.dseq d + 1)) with
    | none => s
    | some e =>
      let s := s.setPlx (fun p => { p with dseq := tset 0 p.dseq d e.2.1, heldUp := p.heldUp.filter (fun x => decide (x ≠ e)) })
      applyHeld n (applyUpdate s d e.2.2).1 d

/-- A REPLICA message (R406): updates in DSEQ order; a gap asks for RESYNC and holds. A domain this device does not hold becomes a
replica of the sender's. -/
def replicaMessage (s : State) (m : Nat) (b : List Octet) : State × Nat :=
  let d := beAt b 0 2 % 4096
  let n := beAt b 2 8
  let o := b.drop 10
  let have_ := tget 0 s.plx.dseq d
  if d = 0 ∨ entState (s.entry m) ≠ 1 ∨ entState (s.entry s.plx.member) ≠ 1 ∨ s.role d = 1 ∨ (s.role d = 2 ∧ (tget (0, 0) s.plx.roles d).2 ≠ m) ∨
      (s.role d = 0 ∧ s.domState d ≠ 0) then (s, 0)
  else
    let s := if s.role d = 0 then setRole s d 2 m else s
    if n ≤ have_ then (s, 0)
    else if n = have_ + 1 then
      let r := applyUpdate (s.setPlx (fun p => { p with dseq := tset 0 p.dseq d n })) d o
      (lagRefresh (applyHeld r.1.plx.heldUp.length r.1 d) d, r.2)
    else
      let s := s.setPlx (fun p => { p with heldUp := p.heldUp ++ [(d, n, o)] })
      (lagRefresh (sendMsg s m 8 (beOctets 2 d ++ beOctets 8 (have_ + 1)) true) d, 0)

/-- A RESYNC message: every update from the missing one on is sent again; to a member that is no target any more, withdrawals only. A device
that was the home answers for the updates it made. -/
def resyncMessage (s : State) (m : Nat) (b : List Octet) : State × Nat :=
  let d := beAt b 0 2
  let n := beAt b 2 8
  if entState (s.entry m) ≠ 1 then (s, 0)
  else
    let l := s.plx.updates.filter (fun e => decide (e.1 = d ∧ n ≤ e.2.1) && (decide (m ∈ s.targets d) || decide (beAt e.2.2 0 1 ∈ [5, 7])))
    (l.foldl (fun s e => sendUpdate s d e.2.1 e.2.2 m) s, 0)

/-- A STATEMENT message: kind 1 asks, kind 2 answers. A checked statement is good for 600 s; what waited for it is sent (R404). A caller
retires a member whose statement shows no storage root or another transport key (R401). -/
def statementMessage (s : State) (m : Nat) (b : List Octet) : State × Nat :=
  if beAt b 0 1 = 1 then
    let r := statement s (octAt b 1 32) []
    (sendMsg r.2 m 6 ([2] ++ r.1) true, 0)
  else
    let st := b.drop 1
    let nonce := tget [] s.plx.nonces m
    if nonce = [] ∨ stmtNonce st ≠ nonce ∨ stmtSerial st ≠ entSerial (s.entry m) ∨ ¬ stmtSigned st then (s, 0)
    else
      let s := s.setPlx (fun p => { p with nonces := tdel p.nonces m })
      let tr := (blockOfStmt st 2).getD []
      if tr = [] ∨ sha384 (octAt tr 0 1665) ≠ octAt (s.entry m) 0x50 48 then (retireMember s m, 0)
      else if (transportOf st).isNone then (s, 0)
      else
        let s := s.setPlx (fun p => { p with checked := tput p.checked m (s.tamp.tick, octAt tr 0 1665) })
        let due := s.plx.updates.filter (fun e => decide (m ∈ s.targets e.1 ∧ tget 0 s.plx.acked (4096 * e.1 + m) < e.2.1))
        (due.foldl (fun s e => sendUpdate s e.1 e.2.1 e.2.2 m) s, 0)

/-- An ACK: its message is done; an acknowledged update counts (PLX_DOM.LAG). -/
def ackMessage (s : State) (m : Nat) (b : List Octet) : State × Nat :=
  match s.plx.msgs.find? (fun x => decide (x.id = beAt b 0 4 ∧ x.dst = m)) with
  | none => (s, 0)
  | some x =>
    let s := s.setPlx (fun p => { p with msgs := p.msgs.filter (fun y => decide (y.id ≠ x.id)) })
    if x.typ ≠ 7 then (s, 0)
    else
      let d := beAt x.body 0 2
      let k := 4096 * d + m
      (lagRefresh (s.setPlx (fun p => { p with acked := tset 0 p.acked k (max (tget 0 p.acked k) (beAt x.body 2 8)) })) d, 0)

/-! ### Joining and leaving (R397 to R401) -/

/-- An entry of 4,851 octets as it travels. -/
def entryLen : Nat := 128 + 4723

/-- A roster message: entries signed by the sender as caller, newer than those held. -/
def rosterMessage (s : State) (m : Nat) (b : List Octet) : State × Nat :=
  let serial := entSerial (s.entry m)
  let l := (List.range (b.length / entryLen)).map (fun i => octAt b (entryLen * i) entryLen)
  let s := l.foldl (fun s e =>
    if entrySigned s.plx.qid serial e ∧ beAt (s.entry (beAt e 0 2)) 8 8 < beAt e 8 8 then putEntry s e else s) s
  let own := s.entry s.plx.member
  (if s.plx.member ≠ 0xFFFF ∧ entState own = 2 ∧ entTenure own = s.plx.tenure then leaveQuadrille s else plxRefresh s, 0)

/-- A join ends at the joiner with a status. -/
def joinFails (s : State) (status : Nat) : State :=
  plxRefresh (((s.setPlx (fun p => { p with join := none })).wr Reg.PLX_CMD_STATUS status).flag Reg.PLX_CMD_GO false)

/-- A joiner at the caller: SERIAL (16), number asked (2), caller's nonce (32), joiner's nonce (32), port (1), checked (1), ID_DIGEST (48),
TR_DIGEST (48). -/
def pendShow (s : State) : State :=
  match s.plx.joiners.find? (fun j => decide (beAt j 83 1 = 1)) with
  | none => s.flag Reg.PLX_PEND_VALID false
  | some j =>
    let s := (s.flag Reg.PLX_PEND_VALID true).wr Reg.PLX_PEND_MEMBER (beAt j 16 2)
    (List.range 4).foldl (fun s k => s.wr (Reg.PLX_PEND_SERIAL k) (leAt j (4 * k) 4)) s

/-- A JOIN message to a device that is no member. -/
def sendJoin (s : State) (port : Nat) (body : List Octet) : State :=
  sendClear (s.setPlx (fun p => { p with nextId := p.nextId + 1 })) port 2 0xFFFF s.plx.nextId body

/-- The joiner stores the roster (step 5): its FIXED follows after the commit (R400). -/
def joined (s : State) (q : Nat) (callerSerial : List Octet) (l : List (List Octet)) : State :=
  let good := l.filter (fun e => entrySigned q callerSerial e)
  match good.find? (fun e => decide (entState e = 1 ∧ entSerial e = fitOctets 16 Config.deviceSerial)) with
  | none => joinFails s 2
  | some own =>
    let s := good.foldl putEntry (s.setPlx (fun p => { p with qid := q, join := none }))
    let m := beAt own 0 2
    plxRefresh (s.setPlx (fun p => { p with member := m, tenure := entTenure own, fixedNext := some (fixedOf m (entTenure own)) }))

/-- A JOIN message: kinds 1 request, 2 caller's nonce and statement, 3 joiner's statement, 4 outcome with the roster, 5 leave. -/
def joinMsg (s : State) (port : Nat) (fs : List (List Octet)) : State :=
  if ¬ portUp s port then s
  else match takeFrames s port 2 fs with
    | (s, none) => s
    | (s, some b) =>
      match beAt b 0 1, s.plx.join with
      | 1, _ =>
        if s.plx.epoch = 0 ∨ beAt b 1 8 ≠ s.plx.qid ∨ b.length ≠ 59 then s
        else
          let (n, s) := drawRandom s 32
          let j := octAt b 11 16 ++ octAt b 9 2 ++ n ++ octAt b 27 32 ++ beOctets 1 port ++ [0] ++ List.replicate 96 0
          let s := s.setPlx (fun p => { p with joiners := p.joiners.filter (fun x => decide (x.take 16 ≠ j.take 16)) ++ [j] })
          let r := statement s (octAt b 27 32) []
          sendJoin r.2 port ([2] ++ n ++ r.1)
      | 2, some (q, num, nonce, 1) =>
        let st := b.drop 33
        if stmtNonce st ≠ nonce ∨ (transportOf st).isNone then joinFails s 2
        else
          let r := statement (s.setPlx (fun p => { p with join := some (q, num, stmtSerial st, 2) })) (octAt b 1 32) []
          sendJoin r.2 port ([3] ++ r.1)
      | 3, _ =>
        let st := b.drop 1
        match s.plx.joiners.find? (fun j => decide (j.take 16 = stmtSerial st)) with
        | none => s
        | some j =>
          match transportOf st with
          | some tr =>
            if stmtNonce st = octAt j 18 32 then
              let j' := j.take 83 ++ [1] ++ octAt ((blockOfStmt st 1).getD []) 0 48 ++ sha384 (tr.1 ++ tr.2)
              pendShow (s.setPlx (fun p => { p with joiners := p.joiners.map (fun x => if x = j then j' else x) }))
            else s
          | none => sendJoin (s.setPlx (fun p => { p with joiners := p.joiners.filter (fun x => decide (x ≠ j)) })) port [4, 2]
      | 4, some (q, _, callerSerial, 2) =>
        if beAt b 1 1 ≠ 0 then joinFails s (beAt b 1 1)
        else joined s q callerSerial ((List.range ((b.length - 2) / entryLen)).map (fun i => octAt b (2 + entryLen * i) entryLen))
      | 5, _ =>
        let m := beAt b 1 2
        if signedBy (entSerial (s.entry m)) b 3 then retireMember s m else s
      | _, _ => s

/-- PLX_CMD.GO: an administrative write, dropped while GO reads 1 (R409). -/
def plxCommand (s : State) (m : Requester) (act : Nat) (f : State → State) : State :=
  if s.lead ≠ m.lead then dropFollower s m
  else if s.on Reg.PLX_CMD_GO then s
  else f ((s.wr Reg.PLX_CMD_ACTION act).flag Reg.PLX_CMD_GO true)

/-- An action that is done at once. -/
def plxEnds (s : State) (status : Nat) : State := (s.wr Reg.PLX_CMD_STATUS status).flag Reg.PLX_CMD_GO false

/-- JOIN (Table 17.5, step 1). A device outside Operational mode, without a storage root, or already a member is refused. -/
def joinStart (s : State) : State :=
  if s.mode ≠ mOperational ∨ s.tamp.root.isNone ∨ s.plx.member ≠ 0xFFFF then plxEnds s 2
  else
    let (n, s) := drawRandom s 32
    let q := s.rd (Reg.PLX_ARG 1) + 2 ^ 32 * s.rd (Reg.PLX_ARG 2)
    plxRefresh (s.setPlx (fun p => { p with join := some (q, s.rd (Reg.PLX_ARG 0) % 4096, n, 0) }))

/-- The joiner that ADMIT or REFUSE names by SERIAL. -/
def namedJoiner (s : State) : Option (List Octet) :=
  let serial := (List.range 4).flatMap (fun k => leOctets 4 (s.rd (Reg.PLX_ARG (3 + k))))
  s.plx.joiners.find? (fun j => decide (beAt j 83 1 = 1 ∧ j.take 16 = serial))

/-- A joiner is done with at the caller. -/
def dropJoiner (s : State) (j : List Octet) (body : List Octet) : State :=
  sendJoin (pendShow (s.setPlx (fun p => { p with joiners := p.joiners.filter (fun x => decide (x ≠ j)) }))) (beAt j 82 1) body

/-- ADMIT (step 4). -/
def admitOp (s : State) : State :=
  match namedJoiner s with
  | none => plxEnds s 2
  | some j =>
    let ask := beAt j 16 2
    let num := if ask ≠ 0 then some ask else (List.range 4096).find? (fun m => decide (entState (s.entry m) ≠ 1))
    match num with
    | none => plxEnds (dropJoiner s j [4, 3]) 3
    | some m =>
      if entState (s.entry m) = 1 then plxEnds (dropJoiner s j [4, 3]) 3
      else if s.plx.count ≥ 16383 ∨ s.plx.epoch = 0 then plxEnds (dropJoiner s j [4, 6]) 6
      else
        let s := s.setPlx (fun p => { p with count := p.count + 1 })
        let (x, s) := signEntry s m 1 (s.plx.epoch * 2 ^ 14 + s.plx.count) (j.take 16) (octAt j 84 48) (octAt j 132 48)
        let s := dropJoiner s j ([4, 0] ++ s.members.flatMap (fun k => fitOctets entryLen (s.entry k)))
        plxEnds (sendRoster s x) 0

/-- REFUSE (step 3). -/
def refuseOp (s : State) : State :=
  match namedJoiner s with
  | none => plxEnds s 2
  | some j => plxEnds (dropJoiner s j [4, 2]) 0

/-- LEAVE (R401): the caller is told with a signed request, or retires its own entry. -/
def leaveOp (s : State) : State :=
  if s.plx.member = 0xFFFF then plxEnds s 2
  else if s.plx.epoch ≠ 0 then plxEnds (leaveQuadrille (retireMember s s.plx.member)) 0
  else
    let b := [5] ++ beOctets 2 s.plx.member
    let (g, s) := signBoth s b
    let s := s.plx.claims.foldl (fun s e => (portFor s e.1 0).elim s (fun p => sendClear s p 2 e.1 s.plx.nextId (b ++ g))) s
    plxEnds (leaveQuadrille s) 0

/-- R399: no ADMIT within 600 s: the joiner's status; a caller forgets the joiner it has shown. -/
def admitTimeout (s : State) : State :=
  let s := match s.plx.join with
    | some (_, _, _, n) => if n ≥ 1 then joinFails s 5 else s
    | none => s
  match s.plx.joiners.find? (fun j => decide (beAt j 83 1 = 1)) with
  | none => s
  | some j => pendShow (s.setPlx (fun p => { p with joiners := p.joiners.filter (fun x => decide (x ≠ j)) }))

/-! ### REPLICATION (R398, R403, R404) -/

/-- An entry of a REPLICATION block: member and tenure. -/
def replEntry (blk : List Octet) (i : Nat) : Nat × Nat := (leAt blk (16 + 8 * i) 2, leAt blk (20 + 8 * i) 4)

/-- The operation once its ballot is spent. -/
def replicationOp (s : State) (blk : List Octet) : State × Rep :=
  let d := leAt blk 0 2
  let act := leAt blk 2 1
  let n := leAt blk 4 2
  let okN := if act = 1 then 1 ≤ n ∧ n ≤ 4095 else if act = 3 ∨ act = 4 then n = 1 else n = 0
  if blk.length ≠ 16 + 8 * n ∨ leAt blk 3 1 ≠ 0 ∨ leAt blk 6 10 ≠ 0 ∨ act = 0 ∨ 5 < act ∨ ¬ okN ∨
      (List.range n).any (fun i => decide (leAt blk (18 + 8 * i) 2 ≠ 0)) ∨ d ≥ 4096 ∨ (act ≥ 4 ∧ d ≠ 0) ∨ (act < 4 ∧ d = 0) then (s, .no 0x30 0)
  else if act = 4 then
    let (q, s) := drawRandom s 8
    let m := (replEntry blk 0).1 % 4096
    let s := s.setPlx (fun p => { p with member := m, qid := ofBe q, tenure := 16384, epoch := 1, count := 0, seenEpoch := max 1 p.seenEpoch,
                                         fixedNext := some (fixedOf m 16384) })
    let (_, s) := signEntry s m 1 16384 Config.deviceSerial ownIdDigest (ownTrDigest s)
    (plxRefresh s, .fin 0 0 [] s.vault.dirty)
  else if act = 5 then
    if s.plx.heardAt.any (fun t => decide (s.tamp.tick < t + 600 * 32768)) then (s, .no 0x43 19)
    else (plxRefresh (s.setPlx (fun p => { p with epoch := p.seenEpoch + 1, seenEpoch := p.seenEpoch + 1, count := 0 })), .ok [])
  else if s.role d = 2 then (s, .no 0x43 18)
  else if act = 1 then
    let new := (List.range n).map (replEntry blk)
    let s := setRole s d 1 s.plx.member
    let s := s.setPlx (fun p => { p with sets := tset [] p.sets d (tget [] p.sets d ++ new.filter (fun e => decide (e ∉ tget [] p.sets d))) })
    let s := plxUpdate s d ([7] ++ new.flatMap (fun e => beOctets 2 e.1))
    let s := s.setPlx (fun p => { p with sets := tset [] p.sets d new })
    (lagRefresh (plxAll s d) d, .fin 0 0 [] s.vault.dirty)
  else if act = 2 then
    let s := plxUpdate s d [5]
    (setRole (s.setPlx (fun p => { p with sets := tdel p.sets d })) d 0 0, .fin 0 0 [] s.vault.dirty)
  else
    let m := (replEntry blk 0).1
    let set := (tget [] s.plx.sets d ++ [(s.plx.member, s.plx.tenure)]).filter (fun (e : Nat × Nat) => decide (e.1 ≠ m))
    let s := plxUpdate s d ([4] ++ beOctets 2 m ++ set.flatMap (fun e => beOctets 2 e.1 ++ beOctets 4 e.2))
    (setRole s d 2 m, .fin 0 0 [] s.vault.dirty)

def execHello (port : Fin 4) (frame : List Octet) (s : State) : Out := done (helloFrame s port frame)
def execJoinMessage (port : Fin 4) (frames : List (List Octet)) (s : State) : Out := done (joinMsg s port frames)
def execPair (port : Fin 4) (frames : List (List Octet)) (s : State) : Out := done (pairMessage s port frames)
def execRoster (port : Fin 4) (frames : List (List Octet)) (s : State) : Out := done (plxDeliver s port 4 frames rosterMessage)
def execAck (port : Fin 4) (frames : List (List Octet)) (s : State) : Out := done (plxDeliver s port 5 frames ackMessage)
def execStatement (port : Fin 4) (frames : List (List Octet)) (s : State) : Out := done (plxDeliver s port 6 frames statementMessage)
def execReplica (port : Fin 4) (frames : List (List Octet)) (s : State) : Out := done (plxDeliver s port 7 frames replicaMessage)
def execResync (port : Fin 4) (frames : List (List Octet)) (s : State) : Out := done (plxDeliver s port 8 frames resyncMessage)
def execHelloTimer (s : State) : Out := done (sendHellos s)
def execPathTimeout (member : Fin 4096) (port : Fin 4) (s : State) : Out := done (pathDown s member port)
def execMessageRetryTimer (id : BitVec 32) (s : State) : Out := done (retryMsg s id.toNat)
def execPcsLockLoss (port : Fin 4) (s : State) : Out := done (lockLost s port)
def execPcsLockAcquired (port : Fin 4) (s : State) : Out := done (lockGained s port)
/-- R393: a frame that is short, of unknown VER or TYPE, or too long. -/
def execPelouxFrameDiscard (port : Fin 4) (s : State) : Out := done (if portUp s port then dropFrame s port else s)
/-- R396: a key of 86,400 s is renewed. -/
def execLinkRekeyTimer (member : Fin 4096) (s : State) : Out :=
  done (if (tget LinkKey.none s.plx.keys member).tx = [] then s else startPair s member)
def execPlxJoin (m : Requester) (s : State) : Out := done (plxCommand s m 1 joinStart)
def execAdmitJoiner (m : Requester) (s : State) : Out := done (plxCommand s m 2 admitOp)
def execRefuseJoiner (m : Requester) (s : State) : Out := done (plxCommand s m 3 refuseOp)
def execLeave (m : Requester) (s : State) : Out := done (plxCommand s m 4 leaveOp)
/-- R399: no caller of the QID is heard within 1 s. -/
def execJoinCallerTimeout (s : State) : Out :=
  done (match s.plx.join with
    | some (_, _, _, 0) => joinFails s 4
    | _ => s)
def execJoinAdmitTimeout (s : State) : Out := done (admitTimeout s)

end Sys2Proof.Machine
end

