-- ==== Sys2Proof/Machine/Custody.lean ====
section
/-! DEFINITION. Ballots (R265 to R269), commissioning (R270), domains and officers (R262 to R264, R280, R281), device policy. -/
namespace Sys2Proof.Machine

/-! ### Ballots -/

/-- Whose quorum an operation takes (Table 11.5): 0 the new DOM_0 set, 1 DOM_0's, 2 the domain's or DOM_0's, 3 the domain's; none for a
reserved code. -/
def quorumOf (op : Nat) : Option Nat :=
  if op = 0 then some 0 else if op = 1 ∨ (0x0B ≤ op ∧ op ≤ 0x14) then some 1 else if op ≤ 4 then some 2
  else if op ≤ 0x0A then some 3 else none

/-- The officer record material of a domain's officer, empty where there is none. -/
def officer (s : State) (d i : Nat) : List Octet := (officerRec s d i).elim [] (fun r => (s.obj r).mat)

/-- The sets of officers that may sign a ballot: whether DOM_0's in the entry's second mask, the domain whose officers sign, M. -/
def signSets (s : State) (x : Ballot) : List (Bool × Nat × Nat) :=
  let m := fun d => leAt (s.policy d) 4 1
  match quorumOf x.op with
  | some 1 => [(false, 0, m 0)]
  | some 2 => if x.dom = 0 then [(false, 0, m 0)] else [(false, x.dom, m x.dom), (true, 0, m 0)]
  | some 3 => [(false, x.dom, m x.dom)]
  | _ => []

/-- Officer entries of a block (R318) as record material (Table 11.2): none where an entry is malformed or the block has another length. -/
def officerEntries (dom : Nat) : Nat → Nat → List Octet → Option (List (List Octet))
  | 0, _, o => if o = [] then some [] else none
  | n + 1, i, o =>
    let alg := leAt o 0 1
    let len := leAt o 2 2
    if (alg = 1 ∧ len = 2592 ∨ alg = 2 ∧ len = 97) ∧ leAt o 1 1 = 0 ∧ 32 + len ≤ o.length then
      (officerEntries dom n (i + 1) (o.drop (32 + len))).map (fun l =>
        (leOctets 2 dom ++ leOctets 1 i ++ leOctets 1 alg ++ octAt o 4 28 ++ octAt o 32 len) :: l)
    else none

/-- Does a signature of an officer's record verify over a statement (R266)? -/
def officerSigned (mat stmt sig : List Octet) : Bool :=
  let alg := leAt mat 3 1
  decide (sig.length = if alg = 1 then 4627 else 96) && Config.verify alg (mat.drop 32) stmt sig

/-- The lowest free entry; where none is free, spent and lapsed entries become free first (R265, R269). -/
def freeBallot (s : State) : State × Option Nat :=
  let find := fun (s : State) => (List.range 32).find? (fun b => decide ((s.ballot b).st = 0))
  match find s with
  | some b => (s, some b)
  | none =>
    let s := { s with ballots := s.ballots.filter (fun e => decide (e.2.st = 1 ∨ e.2.st = 2)) }
    (s, find s)

/-- A ballot opened in an entry: its statement (Table 11.4) is the output, the entry RESULT0. -/
def openBallot (s : State) (w : Who) (b op dom opener ttl : Nat) (dig block : List Octet) : State × Rep :=
  let id := s.ballotId
  let (nonce, s) := drawRandom s 32
  let jseq := s.jnl.seq + 1
  let expiry := s.tamp.tick + ttl * 32768
  let stmt := ascii "CK720BAL" ++ fitOctets 16 Config.deviceSerial ++ beOctets 2 dom ++ beOctets 1 op ++ beOctets 1 opener ++ beOctets 4 id ++
    beOctets 8 jseq ++ fitOctets 48 dig ++ nonce ++ beOctets 8 expiry
  let x : Ballot := ⟨1, op, dom, opener, id, fitOctets 48 dig, stmt, expiry, 0, 0, 0, block⟩
  let s := recordFor s w 0x0101 id (ballotPayload x 0 0)
  (({ s with ballotId := id % (2 ^ 32 - 1) + 1 }).setBallot b x, .fin 0 b stmt [])

/-- May a ballot for an operation be opened in the current mode (R269)? -/
def ballotMode (s : State) (op : Nat) : Bool :=
  decide (s.mode ∈ [mOperational, mMaintenance, mMigrationFreeze]) || (decide (s.mode = mDiagnostic) && decide (op ∈ [0x0D, 0x0F, 0x13]))

/-- A ballot's lifetime: the TTL of the domain whose officers sign it. -/
def ballotTtl (s : State) (op dom : Nat) : Nat :=
  let p := if quorumOf op = some 1 then [] else s.policy dom
  leAt (if p = [] then s.policy 0 else p) 0x10 4

/-- BALLOT_OPEN (R265, R269). COMMISSION is opened by COMMISSION_BEGIN only. -/
def ballotOpenOp (s : State) (w : Who) (opener : Nat) (blk : List Octet) : State × Rep :=
  let dom := leAt blk 0 2
  let op := leAt blk 2 1
  if op = 0 ∨ ¬ ballotMode s op then (s, .no 0x43 6)
  else if blk.length ≠ 52 ∨ leAt blk 3 1 ≠ 0 ∨ dom ≥ 4096 ∨ quorumOf op = none then (s, .no 0x30 0)
  else match freeBallot s with
    | (s, none) => (s, .no 0x42 6)
    | (s, some b) => openBallot s w b op dom opener (ballotTtl s op dom) (blk.drop 4) []

/-- A ballot whose EXPIRY has come lapses before anything else acts on it (R269). -/
def expireFirst (s : State) (b : Nat) : State := if s.tamp.tick ≥ (s.ballot b).expiry then lapse s b 1 else s

/-- An officer recorded in a mask. -/
def putOfficer (mask i : Nat) : Nat := if bit mask i then mask else mask + 2 ^ i
/-- Officers in a mask. -/
def tally (mask : Nat) : Nat := ((List.range 16).filter (fun i => bit mask i)).length

/-- A signature that verifies is counted; at M the ballot carries (R266, R268). -/
def countSignature (s : State) (w : Who) (b i : Nat) (second : Bool) (m : Nat) : State :=
  let x := s.ballot b
  let x := if second then { x with dom0 := putOfficer x.dom0 i } else { x with own := putOfficer x.own i }
  let s := recordFor (s.setBallot b x) w 0x0102 x.id (ballotPayload x i (1 + b2n second))
  if x.st = 1 ∧ tally (if second then x.dom0 else x.own) ≥ m then
    let x := { x with st := 2, by0 := b2n second }
    pfEvent (recordFor (s.setBallot b x) w 0x0103 x.id (ballotPayload x 0 (1 + b2n second))) 9
  else s

/-- The officer's record for each set of a ballot that has one: set, M, material. -/
def signers (s : State) (x : Ballot) (i : Nat) : List (Bool × Nat × List Octet) :=
  if x.op = 0 then
    let n := leAt x.block 1 1
    match (officerEntries 0 n 0 (x.block.drop 8)).bind (fun l => l[i]?) with
    | some mat => [(false, n, mat)]
    | none => []
  else ((signSets s x).map (fun t => (t.1, t.2.2, officer s t.2.1 i))).filter (fun t => decide (t.2.2 ≠ []))

/-- BALLOT_SIGN (R266, R267). Where an index names an officer in two sets, the signature counts in the set whose key verifies it. -/
def ballotSignOp (s : State) (w : Who) (blk : List Octet) : State × Rep :=
  let b := leAt blk 0 1
  let i := leAt blk 1 1
  let sig := blk.drop 8
  if blk.length < 8 ∨ leAt blk 2 2 ≠ 0 ∨ sig.length ≠ leAt blk 4 4 then (s, .no 0x30 0)
  else
    let s := expireFirst s b
    let x := s.ballot b
    if b ≥ 32 ∨ (x.st ≠ 1 ∧ x.st ≠ 2) then (s, .no 0x42 2)
    else
      let l := signers s x i
      if l = [] then (s, .no 0x42 5)
      else match l.find? (fun t => officerSigned t.2.2 x.stmt sig) with
        | none => (s, .no 0x42 4)
        | some t =>
          if bit (if t.1 then x.dom0 else x.own) i then (s, .ok []) else (countSignature s w b i t.1 t.2.1, .ok [])

/-- BALLOT_CLOSE: closing an entry that is not OPEN or CARRIED changes nothing. -/
def ballotCloseOp (s : State) (b : Nat) : State × Rep := (if b < 32 then lapse s b 2 else s, .ok [])

/-- The spend of a ballot for an operation (R268): 0 and the ballot as it stood, or the cause of QUORUM_NEEDED. -/
def spendBallot (s : State) (w : Who) (id op dom opener : Nat) (blk : List Octet) : State × Except Nat Ballot :=
  match (List.range 32).find? (fun b => decide (id ≠ 0 ∧ (s.ballot b).st ≠ 0 ∧ (s.ballot b).id = id)) with
  | none => (s, .error 1)
  | some b =>
    let s := if (s.ballot b).st = 2 then expireFirst s b else s
    let x := s.ballot b
    if x.st = 4 ∨ (x.st = 1 ∧ s.tamp.tick ≥ x.expiry) then (s, .error 2)
    else if x.st ≠ 2 then (s, .error 1)
    else if x.op ≠ op ∨ x.dom ≠ dom ∨ x.dig ≠ sha384 blk ∨ x.opener ≠ opener then (s, .error 3)
    else
      let s := recordFor (s.setBallot b { x with st := 3 }) w 0x0104 x.id (ballotPayload x 0 (1 + x.by0))
      -- a takeover makes the taker lead in the same cycle; every other ballot lapses (R277)
      (if op = 0x13 then changeLead s opener 3 w.m (some b) else s, .ok x)

/-! ### Policy records -/

/-- Is a quorum's shape legal (Table 11.1)? -/
def shapeOk (m n ttl : Nat) : Bool := decide (2 ≤ n ∧ n ≤ 16 ∧ 2 ≤ m ∧ m ≤ n ∧ 60 ≤ ttl ∧ ttl ≤ 86400)

/-- A policy record's material (Table 11.1), with STATE ACTIVE and POLICY_SEQ 1. -/
def policyMat (dom flags m n quota ttl : Nat) : List Octet :=
  leOctets 2 dom ++ [1] ++ leOctets 1 flags ++ leOctets 1 m ++ leOctets 1 n ++ leOctets 2 (2 ^ n - 1) ++ leOctets 4 quota ++ leOctets 4 0 ++
    leOctets 4 ttl ++ leOctets 8 1 ++ [0, 0, 0, 0]

/-- Device records created one after another; none where one finds no records or no quota. -/
def createDevices : List (Nat × List Octet) → State → State × Option Nat
  | [], s => (s, none)
  | e :: l, s =>
    match createObj s (deviceObj e.1 e.2) with
    | (s, .ok _) => createDevices l s
    | (s, .error c) => (s, some c)

/-- Has POLICY_SEQ stuck (R262)? -/
def policyStuck (s : State) (d : Nat) : Bool := decide (leAt (s.policy d) 0x14 8 ≥ 2 ^ 64 - 1)

/-- A change of a domain's policy: POLICY_SEQ rises, the domain's ballots lapse (Table 11.6), the record of the transition is made, and
replicas hear of it (R406). The completion waits for the commit (R281). -/
def policyChange (s : State) (w : Who) (d : Nat) (f : List Octet → List Octet) : State × Rep :=
  match policyRec s d with
  | none => (s, .no 0x43 5)
  | some r =>
    let old := (s.obj r).mat
    let seq := min (leAt old 0x14 8 + 1) (2 ^ 64 - 1)
    let new := setOctets (f old) 0x14 (leOctets 8 seq)
    let s := putDevice s r new
    let s := if seq = 2 ^ 64 - 1 ∧ leAt old 0x14 8 < seq then recordFor s w 0x0210 5 (leOctets 2 d) else s
    let s := recordFor (lapseDomain s d) w 0x0120 d (octAt old 2 1 ++ octAt new 2 1 ++ leOctets 8 seq)
    (mcAllowedRefresh (plxRecords s d), .fin 0 0 [] s.vault.dirty)

/-! ### Commissioning (R270, Table 11.7) -/

/-- May the device be commissioned by this lead? -/
def commissionable (s : State) (opener : Nat) : Bool :=
  decide (opener ≤ 2) && (decide (s.mode = mUncommissioned) || (decide (s.mode = mZeroized) && !s.otp.noRecomm && decide (s.otp.comm < 32)))

/-- The parameters of a commissioning block, where it is well-formed: M, N, MC_LEAD, TTL, officer material. -/
def commissionBlock (blk : List Octet) : Option (Nat × Nat × Nat × Nat × List (List Octet)) :=
  let m := leAt blk 0 1
  let n := leAt blk 1 1
  let mc := leAt blk 2 1
  let ttl := leAt blk 4 4
  if blk.length < 8 ∨ leAt blk 3 1 ≠ 0 ∨ mc > 1 ∨ ¬ shapeOk m n ttl then none
  else (officerEntries 0 n 0 (blk.drop 8)).map (fun l => (m, n, mc, ttl, l))

/-- COMMISSION_BEGIN (step 1). -/
def commissionBeginOp (s : State) (w : Who) (opener : Nat) (blk : List Octet) : State × Rep :=
  if ¬ commissionable s opener then (s, .no 0x43 6)
  else match commissionBlock blk with
    | none => (s, .no 0x30 0)
    | some (_, _, _, ttl, _) => openBallot s w 0 0 0 opener ttl (sha384 blk) blk

/-- Step 3: counter, storage root, vault key, vault, DOM_0 records, IMPORT_SEQ, FIXED; the configuration locks (R388). -/
def commission (s : State) (w : Who) (m n mc ttl : Nat) (officers : List (List Octet)) : State × Rep :=
  let s := { s with otp := { s.otp with comm := min 32 (s.otp.comm + 1) }, jnl := { s.jnl with lost := false } }
  let (root, s) := s.freeOctets 32
  let (vk, s) := drawRandom s 32
  let s := s.setTamp (fun t => { t with root := some root, origin := decide (s.mode = mZeroized), bank0 := ([], 0), bank1 := ([], 0) })
  let s := emptyVault s vk
  let s := (s.setVault (fun v => { v with impSeq := 1, impMark := 257, seq := 0 })).wr Reg.KS_STAT_VAULT 2
  let s := (createDevices ((bPolicy, policyMat 0 (4 * mc) m n 1441792 ttl) :: officers.map (fun o => (bOfficer, o))) s).1
  let s := setFixed (vaultCounts s) standaloneFixed
  let s := tampRefresh (s.flag Reg.TAMP_STAT_CFG_LOCKED true)
  let s := ledgerPut s 9 0x31 (leOctets 1 s.otp.comm ++ (configDigest s).take 12)
  let s := recordFor s w 0x0120 0 (leOctets 1 0 ++ leOctets 1 1 ++ leOctets 8 1)
  (plxRefresh s, .fin 0 0 [] s.vault.dirty)

/-- COMMISSION_FINISH (step 3), after its ballot; it completes with step 4. -/
def commissionFinishOp (s : State) (w : Who) (opener : Nat) (blk : List Octet) : State × Rep :=
  if ¬ commissionable s opener then (s, .no 0x43 6)
  else match commissionBlock blk with
    | none => (s, .no 0x30 0)
    | some (m, n, mc, ttl, l) => commission s w m n mc ttl l

/-! ### Domains (Table 11.8) -/

/-- QUOTA of every domain but DOM_0. -/
def quotaSum (s : State) : Nat :=
  ((s.vault.recs.filter (fun e => decide (mapState (s.vmap e.1) = 1 ∧ leAt e.2 1 1 = bPolicy))).map (fun e =>
    let m := (s.obj e.1).mat
    if leAt m 0 2 = 0 then 0 else leAt m 8 4)).sum

/-- Signatures of a trailer, each with its length; none where the trailer is malformed. -/
def trailerSigs : Nat → List Octet → Option (List (List Octet))
  | 0, o => if o = [] then some [] else none
  | n + 1, o =>
    let len := leAt o 0 4
    if o.length < 4 + len then none else (trailerSigs n (o.drop (4 + len))).map (fun l => octAt o 4 len :: l)

/-- DOMAIN_CREATE. -/
def domainCreateOp (s : State) (w : Who) (x : Ballot) (blk trailer : List Octet) : State × Rep :=
  let d := leAt blk 0 2
  let m := leAt blk 2 1
  let n := leAt blk 3 1
  let ttl := leAt blk 4 4
  let quota := leAt blk 8 4
  if blk.length < 16 ∨ leAt blk 12 4 ≠ 0 ∨ d ≥ 4096 then (s, .no 0x30 0)
  else match officerEntries d n 0 (blk.drop 16), trailerSigs n trailer with
    | some offs, some sigs =>
      if d = 0 ∨ s.domState d ≠ 0 ∨ ¬ shapeOk m n ttl ∨ ¬ (offs.zip sigs).all (fun e => officerSigned e.1 x.stmt e.2) then (s, .no 0x43 5)
      else if quotaSum s + quota > 15335424 then (s, .no 0x43 2)
      else match createDevices ((bPolicy, policyMat d 0 m n quota ttl) :: offs.map (fun o => (bOfficer, o))) s with
        | (_, some c) => (s, .no 0x43 c)
        | (s, none) =>
          let s := recordFor s w 0x0120 d (leOctets 1 0 ++ leOctets 1 1 ++ leOctets 8 1)
          (s, .fin 0 0 [] s.vault.dirty)
    | _, _ => (s, .no 0x30 0)

/-- The 8-octet block of DOMAIN_DESTROY, DOMAIN_SUSPEND, DOMAIN_RESUME. -/
def domainBlockBad (blk : List Octet) : Bool := decide (blk.length ≠ 8 ∨ leAt blk 2 6 ≠ 0 ∨ leAt blk 0 2 ≥ 4096)

/-- DOMAIN_DESTROY: DESTROYING at once; the completion waits for the ABSENT state's commit (R281). -/
def domainDestroyOp (s : State) (w : Who) (blk : List Octet) : State × Rep :=
  let d := leAt blk 0 2
  if domainBlockBad blk then (s, .no 0x30 0)
  else if d = 0 ∨ s.domState d = 0 ∨ s.domState d = 3 then (s, .no 0x43 5)
  else if s.role d = 2 then (s, .no 0x43 18)
  else
    let s := plxUpdate s d [5]
    match policyChange s w d (fun m => setOctets m 2 [3]) with
    | (s, .fin 0 _ _ _) => (s, .fin 0 0 [] [waitDomain d])
    | r => r

/-- STATE and FLAGS of a policy record after its suspension bits change. -/
def putSuspension (m : List Octet) (flags : Nat) : List Octet :=
  setOctets m 2 (leOctets 1 (if flags % 4 = 0 then 1 else 2) ++ leOctets 1 flags)

/-- A bit of a number set or cleared. -/
def putBit (v i : Nat) (b : Bool) : Nat := if bit v i = b then v else if b then v + 2 ^ i else v - 2 ^ i

/-- DOMAIN_SUSPEND: the bit of the set that carried the ballot; a replica's quorum may apply it (R406). -/
def domainSuspendOp (s : State) (w : Who) (x : Ballot) (blk : List Octet) : State × Rep :=
  let d := leAt blk 0 2
  if domainBlockBad blk then (s, .no 0x30 0)
  else if d = 0 ∨ (s.domState d ≠ 1 ∧ s.domState d ≠ 2) ∨ policyStuck s d then (s, .no 0x43 5)
  else policyChange s w d (fun m => putSuspension m (putBit (leAt m 3 1) x.by0 true))

/-- DOMAIN_RESUME: the bit of the set that carried the ballot clears. -/
def domainResumeOp (s : State) (w : Who) (x : Ballot) (blk : List Octet) : State × Rep :=
  let d := leAt blk 0 2
  if domainBlockBad blk then (s, .no 0x30 0)
  else if d = 0 ∨ s.domState d ≠ 2 ∨ policyStuck s d then (s, .no 0x43 5)
  else if s.role d = 2 then (s, .no 0x43 18)
  else policyChange s w d (fun m => putSuspension m (putBit (leAt m 3 1) x.by0 false))

/-- The officers of a domain as a mask. -/
def officerMask (s : State) (d : Nat) : Nat := ((List.range 16).map (fun i => if (officerRec s d i).isSome then 2 ^ i else 0)).sum

/-- An officer's record removed. -/
def dropOfficer (s : State) (d i : Nat) : State := (officerRec s d i).elim s (fun r => destroyObj s r)

/-- OFFICER_CHANGE (Table 13.10): 1 add, 2 remove, 3 replace, 4 set M, 5 set TTL. -/
def officerChangeOp (s : State) (w : Who) (x : Ballot) (blk trailer : List Octet) : State × Rep :=
  let d := leAt blk 0 2
  let act := leAt blk 2 1
  let i := leAt blk 3 1
  let v := leAt blk 4 4
  let entries := officerEntries d 1 i (blk.drop 8)
  let new := entries.getD []
  let keyed := decide (act = 1 ∨ act = 3)
  if blk.length < 8 ∨ d ≥ 4096 ∨ act = 0 ∨ 5 < act ∨ (keyed ∧ entries = none) ∨ (¬ keyed ∧ blk.length ≠ 8) then (s, .no 0x30 0)
  else if (s.domState d ≠ 1 ∧ s.domState d ≠ 2) ∨ policyStuck s d then (s, .no 0x43 5)
  else if s.role d = 2 then (s, .no 0x43 18)
  else
    let has := (officerRec s d i).isSome
    let sigOk : Bool := match trailerSigs 1 trailer with
      | some [g] => officerSigned (nth [] new 0) x.stmt g
      | _ => false
    let m := if act = 4 then v else leAt (s.policy d) 4 1
    let ttl := if act = 5 then v else leAt (s.policy d) 0x10 4
    let n := leAt (s.policy d) 5 1 + b2n (act = 1) - b2n (act = 2)
    if i > 15 ∨ (act = 1 ∧ has) ∨ ((act = 2 ∨ act = 3) ∧ ¬ has) ∨ (keyed ∧ ¬ sigOk) ∨ ¬ shapeOk m n ttl then (s, .no 0x43 5)
    else
      let s1 := if act = 2 ∨ act = 3 then dropOfficer s d i else s
      match createDevices (if keyed then new.map (fun o => (bOfficer, o)) else []) s1 with
      | (_, some c) => (s, .no 0x43 c)
      | (s, none) =>
        policyChange s w d (fun p => setOctets (setOctets p 4 (leOctets 1 m ++ leOctets 1 n ++ leOctets 2 (officerMask s d))) 0x10 (leOctets 4 ttl))

/-- FIGURE_SIGNER (R264): at most 16 records, by INDEX. -/
def figureSignerOp (s : State) (blk : List Octet) : State × Rep :=
  let act := leAt blk 0 1
  let r := blk.drop 1
  let i := leAt r 0 1
  let rec_ := findDevice s bSigner (fun m => decide (leAt m 0 1 = i))
  if blk.length ≠ 2722 ∨ act = 0 ∨ 2 < act ∨ leAt r 1 1 ≠ 0 ∨ leAt r 6 26 ≠ 0 then (s, .no 0x30 0)
  else if act = 2 then
    match rec_ with
    | none => (s, .no 0x43 5)
    | some h => let s := destroyObj s h; (s, .fin 0 0 [] s.vault.dirty)
  else if i > 15 ∨ rec_.isSome ∨ leAt r 2 2 < 0x8000 ∨ leAt r 4 2 < leAt r 2 2 then (s, .no 0x43 5)
  else match createDevices [(bSigner, r)] s with
    | (_, some c) => (s, .no 0x43 c)
    | (s, none) => (s, .fin 0 0 [] s.vault.dirty)

/-- DEVICE_POLICY: MC_LEAD set or cleared; a request of NO_RECOMMISSION blows the fuse at once (R271). -/
def devicePolicyOp (s : State) (w : Who) (blk : List Octet) : State × Rep :=
  let mc := leAt blk 0 1
  let nr := leAt blk 1 1
  if blk.length ≠ 8 ∨ mc > 1 ∨ nr > 1 ∨ leAt blk 2 6 ≠ 0 then (s, .no 0x30 0)
  else if s.domState 0 = 0 ∨ policyStuck s 0 then (s, .no 0x43 5)
  else
    let s := if nr = 1 then { s with otp := { s.otp with noRecomm := true } } else s
    policyChange s w 0 (fun m =>
      let f := putBit (leAt m 3 1) 2 (decide (mc = 1))
      setOctets m 3 (leOctets 1 (if nr = 1 then putBit f 3 true else f)))

end Sys2Proof.Machine
end

