-- ==== Sys2Proof/Machine/Funcs.lean ====
section
/-! DEFINITION. The life of a function (spec/13): pools and configuration (R322, R137), freeze, thaw and destruction (R323, R324), Migration
Freeze (R325), tickets, save and restore (R326 to R328), streaming marks (R152), the division of the VF pool (R306). -/
namespace Sys2Proof.Machine

/-- What a completion waits for while the card has yet to become live (R322). -/
def waitCard : Nat := 50000

/-- A record of a function's transition (type 0x0701; layout of log 10): port and event (1 created, 2 changed, 3 destroyed, 4 frozen,
5 thawed, 6 saved, 7 restored). -/
def funcRecord (s : State) (w : Who) (f ev : Nat) : State := recordFor s w 0x0701 f (leOctets 1 (portOf s f) ++ leOctets 1 ev)

/-! ### Configuration (Table 13.14) -/

/-- The cell claims of a list of 12-octet entries: column and positions. -/
def cellClaims (n : Nat) (o : List Octet) : List (Nat × Nat) := (List.range n).map (fun i => (leAt o (12 * i) 2, leAt o (12 * i + 4) 8))
/-- Are claims well-formed: a column of the card, reserved octets 0? -/
def claimsOk (n : Nat) (o : List Octet) : Bool :=
  (List.range n).all (fun i => decide (leAt o (12 * i) 2 < 304 ∧ leAt o (12 * i + 2) 2 = 0))

/-- Is a configuration's fixed part well-formed, for a function number? -/
def configShape (o : List Octet) : Bool :=
  let nd := leAt o 0xD 1
  let nf := leAt o 0xE 1
  decide (leAt o 2 1 ≤ 1 ∧ leAt o 3 1 = 0 ∧ nd ≤ 8 ∧ nf ≤ 64 ∧ leAt o 0xF 1 = 0 ∧ leAt o 0x10 2 ≤ 2048 ∧ leAt o 0x12 14 = 0 ∧ leAt o 0xA 1 ≤ 64) &&
    (List.range 8).all (fun i => decide (i < nd) || decide (leAt o (0x20 + 2 * i) 2 = 0)) &&
    (List.range 64).all (fun i => decide (i < nf) || decide (leAt o (0x30 + 2 * i) 2 = 0xFFFF))

/-- The domains that a configuration lists. -/
def listedDomains (o : List Octet) : List Nat := (List.range (min 8 (leAt o 0xD 1))).map (fun i => leAt o (0x20 + 2 * i) 2)

/-- The functions that hold grants, but one. -/
def grantHolders (s : State) (f : Nat) : List Nat :=
  ((s.funcs.filter (fun e => decide (e.1 < pfA ∧ e.2.st ≠ 0))).map Prod.fst ++ (if s.rst.split then [pfA, pfB] else [pfA])).filter
    (fun g => decide (g ≠ f))

/-- What a function has enabled: the queues above a count, vectors above a count, push slots. -/
def enabledBeyond (s : State) (f queues vectors slots : Nat) : Bool :=
  (List.range 256).any (fun q => s.on (Reg.Q_CTL_ENABLE (qx f q)) && (decide (q ≥ queues) || decide (s.rd (Reg.Q_CTL_VECTOR (qx f q)) ≥ vectors))) ||
    decide (slotsTaken s f > slots)

/-- Can the pools of Table 13.13 supply a grant? -/
def poolsSupply (s : State) (f queues vectors slots : Nat) : Bool :=
  let others := grantHolders s f
  let total := fun (r : Nat → Fld) => (others.map (fun g => s.rd (r g))).sum
  let vf := decide (f < pfA)
  decide (queues ≤ (if vf then 32 else 256) ∧ vectors ≤ (if vf then 33 else 257) ∧ slots ≤ (if vf then 512 else 2048)) &&
    decide (total Reg.FUNC_CAP_QUEUES + queues ≤ 16384) && decide (total Reg.FUNC_CAP_VECTORS + vectors ≤ 16384) &&
    decide (total Reg.FUNC_CAP_PUSH_SLOTS + slots ≤ 16384)

/-- The owner code of a cell of the shadow card (R110). -/
def shadowOwner (s : State) (c p : Nat) : Nat := s.rd (Reg.CARD_SHADOW c p) % 4096

/-- Does a list of claims name a cell? -/
def claimed (cells : List (Nat × Nat)) (c p : Nat) : Bool := cells.any (fun e => decide (e.1 = c) && bit e.2 p)

/-- Is every cell claimed free, or this function's? -/
def cellsFree (s : State) (f : Nat) (cells : List (Nat × Nat)) : Bool :=
  cells.all (fun e => (List.range 64).all (fun p => !bit e.2 p || decide (shadowOwner s e.1 p = 0xFFF ∨ shadowOwner s e.1 p = f)))

/-- The functions that own an LG column of a reel once the claims stand. -/
def reelOwners (s : State) (f r : Nat) (cells : List (Nat × Nat)) : List Nat :=
  ((List.range 256).map (fun i =>
    let c := 4 * r + i / 64
    let o := shadowOwner s c (i % 64)
    if claimed cells c (i % 64) then f else if o = f then 0xFFF else o)).dedup.filter (fun o => decide (o < 2050))

/-- Does the configuration keep R137? -/
def rsvOk (s : State) (f rsv : Nat) (cells : List (Nat × Nat)) : Bool :=
  (List.range 32).all (fun r =>
    let l := reelOwners s f r cells
    decide (f ∉ l) || decide ((l.map (fun g => if g = f then rsv else min 64 (s.rd (Reg.ADM_PAGES_RSV g)))).sum ≤ 64))

/-- Why a grant is refused (R322): 0 where it is not. -/
def grantCause (s : State) (f : Nat) (cfg : List Octet) (cells : List (Nat × Nat)) : Nat :=
  let q := leAt cfg 4 2
  let v := leAt cfg 6 2
  let p := leAt cfg 8 2
  if ¬ poolsSupply s f q v p ∨ enabledBeyond s f q v p then 8
  else if ¬ cellsFree s f cells then 9
  else if ¬ rsvOk s f (leAt cfg 0xA 1) cells then 11
  else if (listedDomains cfg).any (fun d => decide (d = 0 ∨ s.domState d ≠ 1)) then 12
  else 0

/-- A function's cells on the shadow card: those it held and does not claim again become free, those it claims are its own; COMMIT is
requested (R111). -/
def claimCells (s : State) (f : Nat) (cells : List (Nat × Nat)) : State :=
  let each := fun (s : State) (l : List (Nat × Nat)) (g : State → Nat → Nat → State) =>
    l.foldl (fun s e => (List.range 64).foldl (fun s p => if bit e.2 p then g s e.1 p else s) s) s
  let s := each s (s.fn f).cells (fun s c p =>
    if shadowOwner s c p = f ∧ ¬ claimed cells c p then s.wr (Reg.CARD_SHADOW c p) 0xFFF else s)
  (each s cells (fun s c p => s.wr (Reg.CARD_SHADOW c p) f)).flag Reg.FLOOR_CTL_COMMIT true

/-- Grants and admission parameters (Table 5.6) from a configuration. -/
def putGrants (s : State) (f : Nat) (cfg : List Octet) : State :=
  let s := ((s.wr (Reg.FUNC_CAP_QUEUES f) (leAt cfg 4 2)).wr (Reg.FUNC_CAP_VECTORS f) (leAt cfg 6 2)).wr (Reg.FUNC_CAP_PUSH_SLOTS f) (leAt cfg 8 2)
  let s := s.wr (Reg.FUNC_CAP_STREAM_PERMIT f) (leAt cfg 2 1)
  ((s.wr (Reg.ADM_PAGES_RSV f) (leAt cfg 0xA 1)).wr (Reg.ADM_WIN_DMA_WEIGHT f) (leAt cfg 0xB 1)).wr (Reg.ADM_WIN_STAGE_WIN f) (leAt cfg 0xC 1)

/-- A function configured. A created one is ACTIVE with a context key from the DRBG. -/
def configure (s : State) (f : Nat) (cfg : List Octet) (cells : List (Nat × Nat)) (create : Bool) : State :=
  let s := putGrants (claimCells s f cells) f cfg
  let (key, s) := if create then drawRandom s 32 else ((s.fn f).ctxKey, s)
  let x := s.fn f
  s.setFn f { x with st := if f < pfA then 1 else x.st, cfg := fitOctets 0xB0 cfg, cells := cells, ctxKey := key }

/-- FUNC_CREATE and FUNC_CHANGE. -/
def funcConfigOp (s : State) (w : Who) (create : Bool) (blk : List Octet) : State × Rep :=
  let f := leAt blk 0 2
  let n := leAt blk 0x10 2
  let cells := cellClaims n (blk.drop 0xB0)
  if blk.length ≠ 0xB0 + 12 * n ∨ ¬ configShape blk ∨ ¬ claimsOk n (blk.drop 0xB0) then (s, .no 0x30 0)
  else if f ≥ 2050 ∨ (create ∧ (f ≥ pfA ∨ s.fnState f ≠ 0)) ∨ (¬ create ∧ s.fnState f ≠ 1) ∨ (s.fn f).freezing ∨
      (portOf s f = 1 ∧ ¬ s.rst.split) then (s, .no 0x43 10)
  else
    let c := grantCause s f blk cells
    if c ≠ 0 then (s, .no 0x43 c)
    else (funcRecord (configure s f blk cells create) w f (if create then 1 else 2), .fin 0 0 [] [waitCard])

/-! ### Freeze, thaw, destroy (Table 13.15) -/

/-- Commands that have not been placed go back to their queue, their resources returned (Table 5.4). -/
def returnCmds (s : State) (p : Cmd → Bool) : State :=
  (s.cmds.filter (fun c => p c && decide (c.ph = CmdPhase.ingress ∨ c.ph = CmdPhase.ready))).foldl (fun s c =>
    (releaseAll s c).onCmd c.uid (fun (c : Cmd) => { Cmd.fresh c.uid c.func c.queue c.raw with inv := c.inv, replayed := c.replayed })) s

/-- A freeze is requested: it takes hold when nothing placed is left (R134). -/
def freezeFn (s : State) (f : Nat) : State :=
  let s := returnCmds (s.setFn f { s.fn f with freezing := true }) (fun c => decide (c.func = f))
  freezeCheck s f

/-- A frozen function becomes ACTIVE; its returned commands stand at the heads of their queues. -/
def thawFn (s : State) (f : Nat) : State :=
  let was := s.on (Reg.FUNC_STAT_FROZEN f)
  let s := s.setFn f { s.fn f with st := 1, freezing := false }
  let s := (s.flag (Reg.FUNC_STAT_FROZEN f) false).flag (Reg.ADM_STAT_FROZEN f) false
  if was then fnEvent s f 1 else s

/-- A VF that exists, from SHORT. -/
def vfArg (s : State) (short : List Octet) : Option Nat :=
  let f := leAt short 0 2
  if f < pfA ∧ s.fnState f ≠ 0 then some f else none

/-- VF_FREEZE: a second one is refused (R324). -/
def vfFreezeOp (s : State) (w : Who) (short : List Octet) : State × Rep :=
  match vfArg s short with
  | some f =>
    if s.fnState f ≠ 1 ∨ (s.fn f).freezing then (s, .no 0x43 10)
    else (freezeFn (funcRecord s w f 4) f, .ok [])
  | none => (s, .no 0x43 10)

/-- VF_THAW. -/
def vfThawOp (s : State) (w : Who) (short : List Octet) : State × Rep :=
  match vfArg s short with
  | some f => if s.fnState f ≠ 2 then (s, .no 0x43 10) else (thawFn (funcRecord s w f 5) f, .ok [])
  | none => (s, .no 0x43 10)

/-- VF_DESTROY: work discarded as an FLR does, context, grants and cells returned; it completes when the card is live. -/
def vfDestroyOp (s : State) (w : Who) (short : List Octet) : State × Rep :=
  match vfArg s short with
  | none => (s, .no 0x43 10)
  | some f =>
    let s := funcRecord s w f 3
    let s := claimCells (functionReset s f) f []
    let s := putGrants s f (List.replicate 0xB0 0)
    let s := ((s.flag (Reg.FUNC_STAT_FROZEN f) false).flag (Reg.FUNC_STAT_SAVED f) false).flag (Reg.ADM_STAT_FROZEN f) false
    (s.setFn f FuncSt.absent, .fin 0 0 [] [waitCard])

/-! ### Migration Freeze (R325) -/

/-- The VFs that exist. -/
def State.vfs (s : State) : List Nat := (s.funcs.filter (fun e => decide (e.1 < pfA ∧ e.2.st ≠ 0))).map Prod.fst

/-- MIGRATION_FREEZE: from Operational (row 13 of Table 19.7) every VF freezes; RUN commands of the PFs go back to their queues. -/
def migrationFreezeOp (s : State) (w : Who) (blk : List Octet) : State × Rep :=
  if blk ≠ fitOctets 16 Config.deviceSerial then (s, .no 0x30 0)
  else if s.mode ≠ mOperational then (s, .no 0x43 6)
  else
    let s := setMode s mMigrationFreeze 13
    let s := s.vfs.foldl (fun s f => if s.fnState f = 1 ∧ ¬ (s.fn f).freezing then freezeFn (funcRecord s w f 4) f else s) s
    (returnCmds s (fun c => decide (pfA ≤ c.func ∧ c.opc = 1)), .ok [])

/-- MIGRATION_THAW: every VF that is not SAVED thaws (row 14). -/
def migrationThawOp (s : State) (w : Who) : State × Rep :=
  if s.mode ≠ mMigrationFreeze then (s, .no 0x43 6)
  else
    let s := setMode s mOperational 14
    (s.vfs.foldl (fun s f => if s.fnState f = 2 ∨ (s.fn f).freezing then thawFn (funcRecord s w f 5) f else s) s, .ok [])

/-! ### Moving a VF (R326 to R328) -/

/-- MIG_TICKET: a ticket from the DRBG and a statement over it. -/
def migTicketOp (s : State) (f : Nat) : State × Rep :=
  if s.tickets.length ≥ 8 then (s, .no 0x43 23)
  else
    let (t, s1) := drawRandom s 32
    match attestFor s1 (portOf s f) t [] with
    | (s2, .fin 0 r o h) => ({ s2 with tickets := s2.tickets ++ [t] }, .fin 0 r (t ++ o) h)
    | (_, r) => (s, r)

/-- The octets of a queue's state (Table 13.18). -/
def queueOctets (s : State) (x : Nat) : List Octet :=
  let y := s.q x
  leOctets 4 (s.word (Reg.Q_CTL_ENABLE x).addr) ++ leOctets 4 (s.word (Reg.Q_MOD_TIME x).addr) ++
    leOctets 8 (s.rd (Reg.SQ_BASE_LO x) + 2 ^ 32 * s.rd (Reg.SQ_BASE_HI x)) ++ leOctets 8 (s.rd (Reg.CQ_BASE_LO x) + 2 ^ 32 * s.rd (Reg.CQ_BASE_HI x)) ++
    leOctets 2 y.sqHead ++ leOctets 2 y.cqTail ++ leOctets 1 (b2n y.phase) ++ [0, 0, 0]

/-- The clear state record (Table 13.18). -/
def vfStateRecord (s : State) (f : Nat) : List Octet :=
  let x := s.fn f
  let nq := s.rd (Reg.FUNC_CAP_QUEUES f)
  let held := x.held ++ (s.cmds.filter (fun c => decide (c.func = f ∧ c.ph = CmdPhase.queued))).map (fun c => (c.queue, c.raw))
  [0x43, 0x4B, 0x4D, 0x53, 1, 0] ++ leOctets 2 nq ++ leOctets 8 x.seq ++ leOctets 2 held.length ++ leOctets 2 x.ctx.length ++ List.replicate 12 0 ++
    setOctets (fitOctets 0xB0 x.cfg) 0x10 [0, 0] ++ (List.range nq).flatMap (fun q => queueOctets s (qx f q)) ++
    (List.range 16).flatMap (fun i => leOctets 8 (nth 0 x.streams i)) ++ fitOctets 32 x.ctxKey ++
    held.flatMap (fun e => leOctets 2 e.1 ++ List.replicate 6 0 ++ fitOctets 256 e.2) ++
    x.ctx.flatMap (fun e => leOctets 2 e.1 ++ leOctets 1 e.2.1 ++ List.replicate 5 0 ++ fitOctets 256 e.2.2)

/-- The migration blob (R327) for a target's statement and its transport keys. -/
def migrationBlob (s : State) (f : Nat) (st : List Octet) (peer : List Octet × List Octet) : List Octet × State :=
  let rec_ := vfStateRecord s f
  let head := [0x43, 0x4B, 0x4D, 0x47, 1, 0] ++ leOctets 2 ((s.fn f).orig.getD f) ++ fitOctets 16 Config.deviceSerial ++ stmtSerial st ++ stmtNonce st ++
    leOctets 4 rec_.length ++ [0, 0, 0, 0]
  let (t, s) := sealTransfer s peer head rec_
  let (g, s) := signBoth s (head ++ t)
  (head ++ t ++ g, s)

/-- VF_SAVE: only once the freeze has taken hold. A statement that does not qualify refuses the save with KEY_ATTR (DESIGN CHOICE, log 27). -/
def vfSaveOp (s : State) (w : Who) (short blk : List Octet) : State × Rep :=
  match vfArg s short with
  | none => (s, .no 0x43 10)
  | some f =>
    if s.fnState f ≠ 2 then (s, .no 0x43 10)
    else match transportOf blk with
      | none => (s, .no 0x20 0)
      | some peer =>
        let (b, s) := migrationBlob s f blk peer
        let x := s.fn f
        let s := s.setFn f { x with st := 3, ctx := [], ctxKey := [], streams := [], seq := 0, held := [] }
        let s := { s with cmds := s.cmds.filter (fun (c : Cmd) => !decide (c.func = f ∧ c.ph = CmdPhase.queued)) }
        (funcRecord (s.flag (Reg.FUNC_STAT_SAVED f) true) w f 6, .ok b)

/-- The contents of a migration blob for this device under a pending ticket, or KEY_ATTR (R328). -/
def openMigration (s : State) (b : List Octet) : Option (List Octet) :=
  let len := leAt b 0x48 4
  let wl := 8 * ((len + 7) / 8) + 8
  let total := 0x6D1 + wl
  if octAt b 0 6 ≠ [0x43, 0x4B, 0x4D, 0x47, 1, 0] ∨ b.length ≠ total + 4723 ∨ octAt b 0x18 16 ≠ fitOctets 16 Config.deviceSerial ∨
      octAt b 0x28 32 ∉ s.tickets ∨ leAt b 0x4C 4 ≠ 0 ∨ ¬ signedBy (octAt b 8 16) b total then none
  else
    let r := openTransfer s (octAt b 0 0x50) (octAt b 0x50 1568) (octAt b 0x670 97) (octAt b 0x6D1 wl)
    r.bind (fun o =>
      let nq := leAt o 6 2
      if octAt o 0 6 = [0x43, 0x4B, 0x4D, 0x53, 1, 0] ∧ o.length = len ∧
          len = 0xD0 + 32 * nq + 160 + 264 * leAt o 0x10 2 + 264 * leAt o 0x12 2 then some o else none)

/-- A restored function: what the record holds, every queue disabled. -/
def restoreFn (s : State) (f orig : Nat) (o : List Octet) : State :=
  let nq := leAt o 6 2
  let nh := leAt o 0x10 2
  let nc := leAt o 0x12 2
  let a := 0xD0 + 32 * nq
  let h := a + 160
  let c := h + 264 * nh
  let x := s.fn f
  let s := s.setFn f { x with
    seq := leAt o 8 8
    streams := ((List.range 16).map (fun i => leAt o (a + 8 * i) 8)).filter (fun v => decide (v ≠ 0))
    ctxKey := octAt o (a + 128) 32
    held := (List.range nh).map (fun i => (leAt o (h + 264 * i) 2, fitOctets (rawLen (octAt o (h + 264 * i + 8) 256)) (octAt o (h + 264 * i + 8) 256)))
    ctx := (List.range nc).foldl (fun t i =>
      let e := c + 264 * i
      tput t (leAt o e 2 % 256) (leAt o (e + 2) 1, octAt o (e + 8) (if leAt o (e + 2) 1 = 1 then 96 else 256))) []
    orig := some orig }
  (List.range nq).foldl (fun s q =>
    let w := 0xD0 + 32 * q
    let x := qx f q
    let s := (putQctl s x (leAt o w 4)).wr (Reg.Q_CTL_STREAM x) (leAt o w 4 / 2 ^ (Reg.Q_CTL_STREAM x).lo)
    let s := (s.wr (Reg.SQ_BASE_LO x) (leAt o (w + 8) 4)).wr (Reg.SQ_BASE_HI x) (leAt o (w + 12) 4)
    (s.wr (Reg.CQ_BASE_LO x) (leAt o (w + 16) 4)).wr (Reg.CQ_BASE_HI x) (leAt o (w + 20) 4)) s

/-- VF_RESTORE (Table 13.19): the ticket is consumed by the restore that succeeds. -/
def vfRestoreOp (s : State) (w : Who) (blk : List Octet) : State × Rep :=
  let f := leAt blk 0 2
  let n := leAt blk 2 2
  let len := leAt blk 4 4
  let claims := octAt blk 8 (12 * n)
  let b := blk.drop (8 + 12 * n)
  if blk.length ≠ 8 + 12 * n + len ∨ n > 2048 ∨ ¬ claimsOk n claims then (s, .no 0x30 0)
  else match openMigration s b with
    | none => (s, .no 0x20 0)
    | some o =>
      let cfg := setOctets (setOctets (octAt o 0x20 0xB0) 0 (leOctets 2 f)) 0x10 (leOctets 2 n)
      let cells := cellClaims n claims
      if f ≥ pfA ∨ s.fnState f ≠ 0 ∨ (portOf s f = 1 ∧ ¬ s.rst.split) then (s, .no 0x43 10)
      else
        let c := grantCause s f cfg cells
        if c ≠ 0 then (s, .no 0x43 c)
        else
          let s := configure { s with tickets := s.tickets.filter (fun t => decide (t ≠ octAt b 0x28 32)) } f cfg cells false
          (funcRecord (restoreFn s f (leAt b 6 2) o) w f 7, .fin 0 0 [] [waitCard])

/-! ### Streaming marks and the VF pool -/

/-- The queues that are marked as streaming. -/
def marked (s : State) : Nat :=
  ((grantHolders s 4096).map (fun f => ((List.range 256).filter (fun q => s.on (Reg.Q_CTL_STREAM (qx f q)))).length)).sum

/-- QUEUE_MARK (R152); each marking, and each refusal beyond the limit, is journaled. -/
def queueMarkOp (s : State) (w : Who) (short : List Octet) : State × Rep :=
  let f := leAt short 0 2
  let q := leAt short 2 2
  let m := leAt short 4 1
  let rec_ := fun (s : State) k => recordFor s w 0x0306 q (leOctets 2 f ++ leOctets 1 k)
  if m > 1 then (s, .no 0x30 0)
  else if f ≥ 2050 ∨ s.fnState f = 0 ∨ q ≥ s.rd (Reg.FUNC_CAP_QUEUES f) then (s, .no 0x43 10)
  else if m = 1 ∧ ¬ s.on (Reg.Q_CTL_STREAM (qx f q)) ∧ ¬ s.on (Reg.FUNC_CAP_STREAM_PERMIT f) then (rec_ s 2, .no 0x43 10)
  else if m = 1 ∧ ¬ s.on (Reg.Q_CTL_STREAM (qx f q)) ∧ marked s ≥ 64 then (rec_ s 2, .no 0x43 8)
  else (rec_ (s.flag (Reg.Q_CTL_STREAM (qx f q)) (decide (m = 1))) m, .ok [])

/-- PORT_VF_ALLOC (R306). -/
def portVfAllocOp (s : State) (short : List Octet) : State × Rep :=
  let v := leAt short 0 2
  if v > 2048 then (s, .no 0x30 0)
  else if s.portA.vfEnable ∨ s.portB.vfEnable ∨ s.vfs ≠ [] ∨ (¬ s.rst.split ∧ v ≠ 2048) then (s, .no 0x43 10)
  else ((s.wr (Reg.PORT_VF_A_VFS 0) v).wr (Reg.PORT_VF_A_VFS 1) v, .ok [])

/-- A ticket lapses 600 s after its making (R326). -/
def ticketLapse (s : State) (i : Nat) : State := { s with tickets := s.tickets.eraseIdx i }

def execMigTicketLapse (i : Fin 8) (s : State) : Out := done (ticketLapse s i)

end Sys2Proof.Machine
end

