-- ==== Sys2Proof/Machine/Meas.lean ====
section
/-! DEFINITION. The boot tap (R177, R178) and the measurement registers (R179 to R182). -/
namespace Sys2Proof.Machine

/-- MEAS_i extended: SHA-384(old ‖ d), with its record of two parts (R180; layout of log 10): the register and the request set, d. -/
def measExtend (s : State) (set i src : Nat) (world : Bool) (d : List Octet) : State :=
  let d := fitOctets 48 d
  let v := sha384 (s.measReg i ++ d)
  let s := { s with meas := { s.meas with regs := tset (List.replicate 48 0) s.meas.regs i v } }
  let s := jrecG s 0x0401 src (i + 256 * set) (octAt d 0 32) false world false
  jrecG s 0x0401 src (i + 256 * set) (octAt d 32 16) true world false

/-- An extension that secure firmware makes within the command that calls for it (Table 7.9). -/
def measNow (s : State) (i : Nat) (d : List Octet) : State := measExtend s 0 i 0 true d

/-- The octets of MEASX_DATA of a request set. -/
def measxData (s : State) (t : Nat) : List Octet := unpackWords ((List.range 24).map (fun w => s.rd (Reg.MEASX_DATA t w)))

/-- A request refused for its index: done at once, nothing changes (R179, R182). -/
def measRefuse (s : State) (t : Nat) : State := (s.wr (Reg.MEASX_STAT_ERR t) 1).flag (Reg.MEASX_STAT_DONE t) true

/-- MEASX_CMD.GO of a request set whose range is `lo` to `hi`; dropped while GO reads 1 (R180). -/
def measRequest (s : State) (t lo hi index : Nat) : State :=
  if s.on (Reg.MEASX_CMD_GO t) then s
  else
    let s := s.wr (Reg.MEASX_CMD_INDEX t) index
    if index < lo ∨ hi < index then measRefuse s t
    else
      let s := s.flag (Reg.MEASX_CMD_GO t) true
      { s with meas := { s.meas with queue := s.meas.queue ++ [⟨t, index, measxData s t⟩] } }

/-- A request of a controller or of a host window; only the lead PF's window extends (R182). -/
def measCommand (s : State) (x : MeasBy) (index : Nat) : State :=
  match x with
  | .sc c => measRequest s c 1 15 index
  | .host m => if m = .mc ∨ s.lead ≠ m.lead ∨ ¬ s.hostUp then dropFollower s m else measRequest s 2 16 31 index

/-- The requester of a set as a journal source with its world (Table 12.1). -/
def measSource (s : State) (t : Nat) : Nat × Bool :=
  if t ≤ 1 then (t, true) else if t = 2 then (if s.lead = 2 then 0x71 else 0x70, false) else (0x90, true)

/-- The block serves its next request: the extension is applied whole, GO reads 0 and DONE sets (R180). -/
def measServe (s : State) : State :=
  match s.meas.queue with
  | [] => s
  | r :: rest =>
    let s := { s with meas := { s.meas with queue := rest } }
    let src := measSource s r.set
    let s := measExtend s r.set r.index src.1 src.2 r.d
    if r.set = 3 then s.flag Reg.BOOT_TAP_CTL_CLOSE false
    else ((s.flag (Reg.MEASX_CMD_GO r.set) false).wr (Reg.MEASX_STAT_ERR r.set) 0).flag (Reg.MEASX_STAT_DONE r.set) true

/-! ### The boot tap -/

/-- BOOT_TAP_CTL.ARM: DU_63 starts a SHA-384 and the tap opens; a locked tap refuses under R344. -/
def tapArm (s : State) : State :=
  if s.on Reg.BOOT_TAP_STAT_LOCKED then lockViolation s 0 true true 0x300D0000
  else if s.mode ≠ mSecureBoot ∨ s.on Reg.BOOT_TAP_CTL_CLOSE then s
  else
    let s := (s.setDu 63 (duFresh 3)).flag Reg.BOOT_TAP_STAT_ARMED true
    s.wr2 Reg.BOOT_TAP_OCT_L Reg.BOOT_TAP_OCT_H 0

/-- The octets that the path writes to SRAM while the tap is armed enter DU_63 in order (R177). -/
def tapOctets (s : State) (place : Nat) (image : List Octet) : State :=
  let s := s.sramPut place image
  s.wr2 Reg.BOOT_TAP_OCT_L Reg.BOOT_TAP_OCT_H (s.rd2 Reg.BOOT_TAP_OCT_L Reg.BOOT_TAP_OCT_H + image.length)

/-- BOOT_TAP_CTL.CLOSE after an image has gone to SRAM: DFIN, the copy in BOOT_TAP_DIG, and the extension of MEAS_0 asked for. The device
stays in CLOSE until the extension is made. -/
def tapClose (s : State) (place : Nat) (image : List Octet) : State :=
  if s.on Reg.BOOT_TAP_STAT_LOCKED then lockViolation s 0 true true 0x300D0000
  else if ¬ s.on Reg.BOOT_TAP_STAT_ARMED ∨ s.mode ≠ mSecureBoot then s
  else
    let s := tapOctets s place image
    let d := sha384 image
    let u := s.du 63
    let s := s.setDu 63 { u with dig := d, len := image.length, final := true, absorbing := false }
    let s := ((List.range 24).zip (packWords d)).foldl (fun s e => s.wr (Reg.BOOT_TAP_DIG e.1) e.2.toNat) s
    let s := (s.flag Reg.BOOT_TAP_STAT_ARMED false).flag Reg.BOOT_TAP_CTL_CLOSE true
    { s with meas := { s.meas with queue := s.meas.queue ++ [⟨3, 0, d⟩] } }

/-- The tap locks at the transition out of Secure Boot, and DU_63 is cleared (R178). -/
def tapLock (s : State) : State :=
  (s.setDu 63 DigestUnit.zero).flag Reg.BOOT_TAP_STAT_LOCKED true

def execBootTapArm (s : State) : Out := done (tapArm s)
def execBootTapClose (place : DWord) (image : List Octet) (s : State) : Out := done (tapClose s place.toNat image)
def execMeasxGo (x : MeasBy) (index : Fin 32) (s : State) : Out := done (measCommand s x index)
def execMeasExtension (s : State) : Out := done (measServe s)

end Sys2Proof.Machine
end

