-- ==== Sys2Proof/Machine/Flags.lean ====
section
/-! DEFINITION. What the arithmetic and logic instructions compute (R39 to R45, R28): results with the flags of Table 2.14, as pure
functions of words and pairs. A flag that is `none` keeps its value. -/
namespace Sys2Proof.Machine

/-- The flags a result leaves. -/
structure FlagRes where
  z : Bool
  n : Bool
  c : Option Bool
  v : Option Bool
  deriving DecidableEq, Repr

/-- What an instruction writes: a word, a pair, or nothing; with its flags, if it writes flags. -/
inductive AluRes
  | word (v : Word) (f : FlagRes)
  | pair (v : DWord) (f : Option FlagRes)
  | flags (f : FlagRes)
  deriving DecidableEq, Repr

/-- Z and N of a value of width `w`. -/
def zn {w : Nat} (x : BitVec w) (c v : Option Bool) : FlagRes := ⟨decide (x = 0), x.msb, c, v⟩

/-- Sum with carry in: carry out and signed overflow (R40). -/
def addFlags {w : Nat} (a b : BitVec w) (cin : Bool) : BitVec w × FlagRes :=
  let r := a + b + (if cin then 1#w else 0#w)
  (r, zn r (some (decide (2 ^ w ≤ a.toNat + b.toNat + cin.toNat)))
    (some (decide (r.toInt ≠ a.toInt + b.toInt + (cin.toNat : Int)))))

/-- Difference with borrow in: borrow and signed overflow (R40, Table 2.14). -/
def subFlags {w : Nat} (a b : BitVec w) (bin : Bool) : BitVec w × FlagRes :=
  let r := a - b - (if bin then 1#w else 0#w)
  (r, zn r (some (decide (a.toNat < b.toNat + bin.toNat)))
    (some (decide (r.toInt ≠ a.toInt - b.toInt - (bin.toNat : Int)))))

/-- A word result with its flags. -/
def AluRes.ofW (x : Word × FlagRes) : AluRes := .word x.1 x.2
/-- A pair result with its flags. -/
def AluRes.ofP (x : DWord × FlagRes) : AluRes := .pair x.1 (some x.2)

/-- Logical results leave C and V (Table 2.14). -/
def logicRes (r : Word) : AluRes := .word r (zn r none none)

/-- The five shift and rotate operations. -/
inductive ShiftOp | shl | shr | sar | rol | ror
  deriving DecidableEq, Repr

/-- A bit of a word, by the spec's bit(a, i). -/
def bitAt (a : Word) (i : Nat) : Bool := a.getLsbD i

/-- Shifts by an amount of 5 bits (R41) and rotates by that amount modulo 18 (R42). -/
def shiftRes (op : ShiftOp) (a : Word) (k : Nat) : Word × Bool :=
  match op with
  | .shl => if k = 0 then (a, false) else if k ≤ 18 then (a <<< k, bitAt a (18 - k)) else (0, false)
  | .shr => if k = 0 then (a, false) else if k ≤ 18 then (a >>> k, bitAt a (k - 1)) else (0, false)
  | .sar =>
    if k = 0 then (a, false)
    else if k ≤ 18 then (a.sshiftRight k, bitAt a (k - 1))
    else (if bitAt a 17 then BitVec.allOnes 18 else 0, bitAt a 17)
  | .rol => let e := k % 18; let r := a.rotateLeft e; (r, if e = 0 then false else bitAt r 0)
  | .ror => let e := k % 18; let r := a.rotateRight e; (r, if e = 0 then false else bitAt r 17)

/-- A shift or rotate with its flags; V is cleared. -/
def shiftAlu (op : ShiftOp) (a : Word) (k : Nat) : AluRes :=
  let r := shiftRes op a (k % 32)
  .word r.1 (zn r.1 (some r.2) (some false))

/-- The exact 36-bit product (R43). -/
def mulRes (signed : Bool) (a b : Word) : AluRes :=
  let p : DWord := if signed then BitVec.ofInt 36 (a.toInt * b.toInt) else BitVec.ofNat 36 (a.toNat * b.toNat)
  .pair p (some (zn p (some false) (some false)))

/-- Quotient and remainder (R44), for a divisor that is not zero, and those of R45 for one that is. -/
def divRes (signed : Bool) (a b : Word) : Word × Word :=
  if b = 0 then (BitVec.allOnes 18, a)
  else if signed then (BitVec.ofInt 18 (a.toInt.tdiv b.toInt), BitVec.ofInt 18 (a.toInt.tmod b.toInt))
  else (BitVec.ofNat 18 (a.toNat / b.toNat), BitVec.ofNat 18 (a.toNat % b.toNat))

/-- A division's pair and flags: quotient in the even register, remainder in the odd one; V for -131,072 by -1 only. -/
def divAlu (signed : Bool) (a b : Word) : AluRes :=
  let r := divRes signed a b
  .pair (dword r.2 r.1) (some (zn r.1 (some false)
    (some (signed && decide (a = 0x20000#18) && decide (b = BitVec.allOnes 18)))))

/-- The number of leading zero bits, 0 to 18. -/
def clz (a : Word) : Nat := ((List.range 18).reverse.takeWhile (fun i => !a.getLsbD i)).length

/-- An octet with its parity bit (R28). -/
def nonetP (o : BitVec 8) : Nonet := BitVec.ofBool ((List.range 8).foldl (fun p i => p != o.getLsbD i) false) ++ o

/-- PACKO. -/
def packo (a b : Word) : Word := nonetP (b.extractLsb' 0 8) ++ nonetP (a.extractLsb' 0 8)

/-- A condition of BF (Table 2.13) on FLAGS. -/
def condHolds (f : Flags) (cond : Nat) : Bool :=
  match cond with
  | 0 => f.z
  | 1 => !f.z
  | 2 => f.c
  | 3 => !f.c
  | 4 => f.n
  | 5 => !f.n
  | 6 => f.v
  | 7 => !f.v
  | 8 => !f.c && !f.z
  | 9 => f.c || f.z
  | 10 => f.n == f.v
  | 11 => f.n != f.v
  | 12 => !f.z && (f.n == f.v)
  | 13 => f.z || (f.n != f.v)
  | 14 => f.dz
  | _ => true

/-- FLAGS with an instruction's flags written. -/
def Flags.put (f : Flags) (r : FlagRes) : Flags :=
  { f with z := r.z, n := r.n, c := r.c.getD f.c, v := r.v.getD f.v }

/-- FLAGS as a word (Table 2.4). -/
def Flags.toWord (f : Flags) : Word :=
  BitVec.ofNat 18 (f.z.toNat + 2 * f.n.toNat + 4 * f.c.toNat + 8 * f.v.toNat + 16 * f.dz.toNat + 32 * f.pe.toNat)

/-- FLAGS from a word. -/
def Flags.ofWord (w : Word) : Flags :=
  ⟨w.getLsbD 0, w.getLsbD 1, w.getLsbD 2, w.getLsbD 3, w.getLsbD 4, w.getLsbD 5⟩

end Sys2Proof.Machine
end

