-- ==== Sys2Proof/Machine/Legal.lean ====
section
/-! DEFINITION. Which patterns of 36 bits are instructions (R32, R34, R37, R38, R52; Tables 2.9 to 2.13). -/
namespace Sys2Proof.Machine

/-- A field that names a pair holds an even number (R32). -/
def evenReg (r : Nat) : Bool := r % 2 = 0

/-- The numbers of Tables 2.3, 3.3, 3.6 and 3.9 that are not reserved (R34). -/
def cregExists (n : Nat) : Bool :=
  decide (n ∈ [0, 1, 2, 4, 5, 6] ∨ (0x10 ≤ n ∧ n ≤ 0x15) ∨ (0x19 ≤ n ∧ n ≤ 0x1D) ∨ (0x20 ≤ n ∧ n ≤ 0x2C) ∨ (0x30 ≤ n ∧ n ≤ 0x36))

/-! ### Illegal encodings (R38, R52) -/

/-- The operand rules of BMOV (R52). -/
def bmovOk (rd ra rb : Nat) : Bool :=
  evenReg rd && evenReg ra && decide (rd ≠ 0 ∧ ra ≠ 0 ∧ rd ≠ ra ∧ rb ≠ rd ∧ rb ≠ rd + 1 ∧ rb ≠ ra ∧ rb ≠ ra + 1)
/-- The operand rules of BZERO (R52). -/
def bzeroOk (rd rb : Nat) : Bool := evenReg rd && decide (rd ≠ 0 ∧ rb ≠ rd ∧ rb ≠ rd + 1)

/-- The operand rules of the functions of major 0x01 (Table 2.11). -/
def aluLegal (func rd ra rb : Nat) : Bool :=
  if func ∈ [0x00, 0x01, 0x02, 0x03, 0x08, 0x09, 0x0A, 0x0B, 0x10, 0x11, 0x12, 0x13, 0x14, 0x18, 0x19, 0x1A, 0x1B, 0x1C, 0x31] then true
  else if func ∈ [0x04, 0x30] then decide (rb = 0)
  else if func = 0x06 then decide (rd = 0)
  else if func ∈ [0x20, 0x21, 0x24, 0x25] then evenReg rd
  else if func = 0x28 then evenReg rd && evenReg ra && decide (rb = 0)
  else if func ∈ [0x29, 0x2A] then evenReg rd && evenReg ra && evenReg rb
  else false

/-- The field rules of the functions of major 0x20 (Table 2.12). ERET at DEPTH 0 is left to the instruction (R79). -/
def sysLegal (sfunc rd ra rb code : Nat) : Bool :=
  match sfunc with
  | 0x00 => decide (ra = 0 ∧ rb = 0) && cregExists code
  | 0x01 => decide (rd = 0 ∧ rb = 0) && cregExists code
  | 0x02 => decide (rd = 0 ∧ ra = 0 ∧ rb = 0)
  | 0x03 => decide (rd = 0 ∧ ra = 0 ∧ rb = 0 ∧ code = 0)
  | 0x04 => decide (rd = 0 ∧ ra = 0 ∧ rb = 0 ∧ code = 0)
  | 0x05 => decide (rd = 0 ∧ ra = 0 ∧ rb = 0 ∧ code = 0)
  | 0x06 => decide (rd = 0 ∧ ra = 0 ∧ rb = 0 ∧ code = 0)
  | 0x07 => decide (rd = 0 ∧ ra = 0 ∧ rb = 0)
  | 0x08 => decide (code = 0) && bmovOk rd ra rb
  | 0x09 => decide (code = 0 ∧ ra = 0) && bzeroOk rd rb
  | 0x0A => decide (rd = 0 ∧ ra = 0 ∧ rb = 0)
  | _ => false

/-- Is a pattern of 36 bits an instruction that a controller executes (R37, R38, Tables 2.9 to 2.13)? -/
def legalWord (w : DWord) : Bool :=
  let n := w.toNat
  let major := n / 2 ^ 30
  let rd := n / 2 ^ 25 % 32
  let ra := n / 2 ^ 20 % 32
  let rb := n / 2 ^ 15 % 32
  let low := n % 2 ^ 8
  let func := n / 2 ^ 8 % 64
  let b14 := n / 2 ^ 14 % 2
  let hi2 := n / 2 ^ 18 % 4
  match major with
  | 0x01 => decide (b14 = 0 ∧ low = 0) && aluLegal func rd ra rb
  | 0x02 => decide (hi2 = 0)
  | 0x03 => decide (hi2 = 0)
  | 0x04 => decide (hi2 = 0)
  | 0x05 => decide (hi2 = 0)
  | 0x06 => decide (hi2 = 0 ∧ rd = 0)
  | 0x07 => decide (hi2 = 0) && evenReg rd && evenReg ra
  | 0x08 => decide (hi2 = 0) && evenReg ra
  | 0x09 => decide (hi2 = 0) && evenReg ra
  | 0x0A => decide (hi2 = 0) && evenReg ra && evenReg rd
  | 0x0B => decide (hi2 = 0) && evenReg ra && evenReg rd
  | 0x0C => decide (hi2 % 2 = 0) && evenReg ra
  | 0x0D => decide (hi2 % 2 = 0) && evenReg ra
  | 0x10 => decide (hi2 = 0)
  | 0x11 => decide (hi2 = 0)
  | 0x12 => decide (hi2 = 0)
  | 0x13 => decide (hi2 = 0)
  | 0x14 => decide (hi2 = 0)
  | 0x15 => decide (hi2 = 0)
  | 0x16 => decide (hi2 = 0 ∧ rd = 0 ∧ ra < 16)
  | 0x18 => true
  | 0x19 => true
  | 0x1A => decide (b14 = 0 ∧ low = 0 ∧ rd = 0 ∧ rb = 0 ∧ func < 2) && evenReg ra
  | 0x1C => decide (n % 2 ^ 12 ≠ 0) && (decide (n / 2 ^ 28 % 2 = 1) || decide (n / 2 ^ 12 % 2 ^ 11 = 0))
  | 0x20 => decide (b14 = 0) && sysLegal func rd ra rb low
  | _ => false

end Sys2Proof.Machine
end

