-- ==== Sys2Proof/Machine/Loops.lean ====
section
/-! DEFINITION. The hardware loops (R64 to R66, R478; Table 3.2), for controllers and for slot 0 of a figure step. -/
namespace Sys2Proof.Machine

/-- The loop procedure of R66 for one level, `by_` words an instruction: the level afterwards, and where control goes. -/
def loopLevel (l : LoopLevel) (pc by_ : DWord) : LoopLevel × Option DWord × Bool :=
  if l.act ∧ pc = l.fin then
    if 1 < l.cnt.toNat then ({ l with cnt := l.cnt - 1 }, some l.sta, true)
    else ({ l with cnt := 0, act := false }, some (l.fin + by_), false)
  else (l, none, false)

/-- The loop procedure of R66 after the instruction at `pc`: level 1, then level 0 unless level 1 repeats. -/
def loopNext (l0 l1 : LoopLevel) (pc by_ : DWord) : LoopLevel × LoopLevel × Option DWord :=
  let r1 := loopLevel l1 pc by_
  if r1.2.2 then (l0, r1.1, r1.2.1)
  else
    let r0 := loopLevel l0 pc by_
    (r0.1, r1.1, r0.2.1.orElse (fun _ => r1.2.1))

/-- A loop level started at the instruction at `pc`, `by_` words an instruction; a count of 0 leaves it inactive (R64). -/
def startLoop (l : LoopLevel) (pc by_ : DWord) (n : Word) (len : Nat) : LoopLevel :=
  let sta := pc + by_
  let fin := sta + by_ * BitVec.ofNat 36 (len - 1)
  { l with sta := sta, fin := fin, cnt := if n = 0 then l.cnt else n, act := decide (n ≠ 0) }

/-- The Loop exception that LOOP raises for its level (causes 1 to 3 of Table 3.2). -/
def loopCause (l0 l1 : LoopLevel) (lvl : Nat) (pc by_ : DWord) (len : Nat) : Nat :=
  let fin := pc + by_ + by_ * BitVec.ofNat 36 (len - 1)
  if (if lvl = 0 then l0.act else l1.act) then 1
  else if lvl = 0 ∧ l1.act then 2
  else if lvl = 1 ∧ l0.act ∧ ¬ (fin + by_ ≤ l0.fin) then 3
  else 0

end Sys2Proof.Machine
end

