-- ==== Sys2Proof/Machine/Verify.lean ====
section
/-! DEFINITION. The structural verifier's codes 0x08 to 0x16 (spec/04, R109, Table 4.5): what a slot may hold (R89, R95, Table 4.3, R190, R191), what
an operation may name, and the expansion of the schedule for P = 1 and P = 2 with the rules R98 to R103, R478, R482. -/
namespace Sys2Proof.Machine

/-- The declarations of an image (Table 4.4). -/
def figHeader (o : List Octet) : FigHdr where
  fid := leAt o 6 2
  version := leAt o 8 4
  steps := leAt o 0xC 2
  auth := bit (leAt o 0xE 2) 0
  stream := bit (leAt o 0xE 2) 1
  repeatable := bit (leAt o 0xE 2) 2
  bodyFirst := leAt o 0x10 2
  bodyLast := leAt o 0x12 2
  pMax := leAt o 0x14 2
  pReg := leAt o 0x16 1
  repeatMax := leAt o 0x17 1
  nReels := leAt o 0x19 1
  nKeys := leAt o 0x1A 1
  nPages := leAt o 0x1B 1
  rndWords := leAt o 0x1C 2
  nParams := leAt o 0x1E 2
  cycPro := leAt o 0x20 4
  cycBody := leAt o 0x24 4
  cycEpi := leAt o 0x28 4
  keyDecl := (List.range 8).map (fun i => (leAt o (0x30 + 4 * i) 2, leAt o (0x32 + 4 * i) 2))
  units := (List.range (min 32 (leAt o 0x18 1))).map (fun i => (leAt o (0x50 + 4 * i) 1, leAt o (0x51 + 4 * i) 1))
  digest := octAt o (0xD0 + 18 * leAt o 0xC 2) 48

/-- The steps of an image, in order (R106). -/
def figSteps (o : List Octet) : List StepWord := (List.range (leAt o 0xC 2)).map (fun i => BitVec.ofNat 144 (leAt o (0xD0 + 18 * i) 18))

/-- Slot `k` of a step (R88). -/
def slotWord (w : StepWord) (k : Nat) : Nat := w.toNat / 2 ^ (36 * k) % 2 ^ 36

/-! ### Fields of formats A, E and L -/

def opMajor (n : Nat) : Nat := n / 2 ^ 30
def opFunc (n : Nat) : Nat := n / 2 ^ 25 % 32
def opUnit (n : Nat) : Nat := n / 2 ^ 20 % 32
def opMask (n : Nat) : Nat := n / 2 ^ 12 % 256
def opX (n : Nat) : Nat := n % 4096
/-- A bit field `[lo + w - 1 : lo]`. -/
def fieldOf (n lo w : Nat) : Nat := n / 2 ^ lo % 2 ^ w
/-- The no-operation and idle encoding. -/
def nopWord : Nat := 0x40000000
/-- The lanes that a mask selects. -/
def maskLanes (m : Nat) : List Nat := (List.range 8).filter (fun i => bit m i)
/-- One lane. -/
def oneLane (m : Nat) : Bool := decide ((maskLanes m).length = 1)
/-- One lane, or two adjacent lanes. -/
def laneOrPair (m : Nat) : Bool := oneLane m || (List.range 7).any (fun i => decide (m = 3 * 2 ^ i))
/-- No bit of `n` outside `mask`. -/
def within (n mask : Nat) : Bool := decide (n &&& mask = n)

/-! ### What a slot may hold (code 0x08) -/

/-- The fields of the number-unit commands that are used (R190, Table 8.2): d, a, b, the bits of opt. -/
def nuFields (func opt : Nat) : Option (Bool × Bool × Bool × Nat) :=
  match func with
  | 0x00 | 0x01 | 0x03 | 0x0B | 0x14 | 0x15 | 0x16 | 0x17 => some (true, true, true, 0)
  | 0x02 => some (true, true, false, 1)
  | 0x04 | 0x05 => some (true, true, false, 0)
  | 0x06 | 0x0A => some (true, true, true, 255)
  | 0x07 | 0x08 | 0x10 => some (false, true, false, 1)
  | 0x09 => some (true, true, true, 15)
  | 0x11 | 0x12 => some (true, true, false, 1)
  | 0x13 | 0x18 => some (true, true, true, 1)
  | 0x19 | 0x1A => some (true, true, false, 31)
  | 0x1B | 0x1C => some (true, true, bit opt 5, 63)
  | 0x1D => some (true, true, decide (opt % 4 = 2), 31)
  | 0x1E => some (true, true, false, 7)
  | 0x1F => some (true, true, true, 31)
  | _ => none

/-- A number-unit command with no unused field set. -/
def nuCommandLegal (n : Nat) : Bool :=
  let opt := fieldOf n 0 8
  match nuFields (opFunc n) opt with
  | none => false
  | some (d, a, b, o) =>
    (d || decide (fieldOf n 16 4 = 0)) && (a || decide (fieldOf n 12 4 = 0)) && (b || decide (fieldOf n 8 4 = 0)) && within opt o

/-- A number-unit transfer with no unused field set (Table 8.1). -/
def nuTransferLegal (n : Nat) : Bool :=
  let f := n % 2 ^ 20
  match opFunc n with
  | 0x00 | 0x04 | 0x07 => within f 0xF001F
  | 0x01 | 0x06 => within f 0x1F
  | 0x02 | 0x03 => true
  | 0x05 => within f 0xF01F
  | _ => false

/-- An engine operation with no unused field set, no register run past f31, and no reserved code (R95, R161, Table 4.3). -/
def engineLegal (n : Nat) : Bool :=
  let m := opMask n
  let x := opX n
  match opMajor n, opFunc n with
  | 0x30, 0x00 => decide (m = 0) && within x 31
  | 0x30, 0x01 => within x 3
  | 0x30, 0x02 => within x 2
  | 0x30, 0x10 => laneOrPair m && within x 7
  | 0x30, f => decide (f < 0x10 ∧ x = 0)
  | 0x31, 0x00 | 0x31, 0x01 | 0x31, 0x02 => oneLane m && decide (x = 0)
  | 0x31, 0x03 => decide (m = 0 ∧ x ≤ 24)
  | 0x31, 0x04 => oneLane m && within x 2
  | 0x31, 0x05 => oneLane m && within x 31
  | 0x31, 0x06 => decide (m = 0 ∧ x = 0)
  | 0x32, 0x00 => decide (m = 0 ∧ x ≤ 24)
  | 0x32, 0x01 => decide (m = 0 ∧ x = 0)
  | 0x34, 0x00 => decide (m = 0 ∧ x < 16) && algValid x
  | 0x34, 0x01 => decide (m = 0 ∧ x < 512)
  | 0x34, 0x02 | 0x34, 0x03 => decide (m = 0 ∧ x = 0)
  | 0x34, 0x04 => decide (m = 0 ∧ (x < 32 ∨ x = 0x800))
  | 0x34, 0x05 => decide (m = 0 ∧ x < 16)
  | 0x34, 0x06 | 0x34, 0x07 | 0x34, 0x08 => decide (m = 0 ∧ x < 32)
  | 0x36, _ => nuCommandLegal n
  | 0x37, _ => nuTransferLegal n
  | 0x38, 0x00 => within x 7
  | 0x38, 0x01 | 0x38, 0x02 => decide (m = 0) && within x 7
  | 0x38, 0x03 => decide (m = 0)
  | 0x39, 0x00 => decide (opUnit n = 0 ∧ m = 0) && within x 31
  | 0x39, 0x01 => decide (m = 0) && within x 0xFF8
  | 0x3A, 0x00 => decide (opUnit n = 0 ∧ m = 0) && within x 31
  | 0x3A, 0x01 => decide (opUnit n = 0 ∧ m < 8) && within x 31
  | 0x3A, 0x02 => decide (m = 0) && within x 63
  | _, _ => false

/-- Is the word of slot 0 one of the END family (Table 4.1)? Its code. -/
def endCode (n : Nat) : Option Nat :=
  if opMajor n = 0x20 ∧ fieldOf n 8 6 = 0x10 then some (n % 256) else none

/-- What slot 0 accepts (R89). -/
def slot0Legal (n : Nat) : Bool :=
  let mj := opMajor n
  match endCode n with
  | some c => decide (c ≤ 2 ∧ fieldOf n 14 1 = 0 ∧ fieldOf n 15 5 = 0 ∧ opFunc n = 0 ∧ (c = 0 → opUnit n = 0))
  | none =>
    legalWord (BitVec.ofNat 36 n) &&
      ((decide (mj = 1) && decide (fieldOf n 8 6 ≠ 0x24 ∧ fieldOf n 8 6 ≠ 0x25)) || decide (2 ≤ mj ∧ mj ≤ 0xB) ||
        (decide (mj = 0x1C) && decide (fieldOf n 28 1 = 1)))

/-- Does a step hold an encoding that its slots do not accept? -/
def stepIllegal (w : StepWord) : Bool :=
  !slot0Legal (slotWord w 0) || [1, 2, 3].any (fun k => !(decide (slotWord w k = nopWord) || engineLegal (slotWord w k)))

/-! ### What an operation may name (code 0x09) -/

/-- The type of logical unit that field u names, and the lane group that X names, if any (Table 4.3). -/
def unitsNamed (n : Nat) : List (Nat × Nat) :=
  let u := opUnit n
  let x := opX n % 32
  match opMajor n, opFunc n with
  | 0x30, _ | 0x31, _ | 0x38, 0x00 | 0x38, 0x01 | 0x3A, 0x02 => [(uLG, u)]
  | 0x32, _ | 0x38, 0x02 => [(uXT, u)]
  | 0x34, 0x01 | 0x34, 0x06 | 0x34, 0x07 | 0x34, 0x08 => [(uDU, u), (uLG, x)]
  | 0x34, 0x04 => if opX n = 0x800 then [(uDU, u)] else [(uDU, u), (uLG, x)]
  | 0x34, _ => [(uDU, u)]
  | 0x36, _ | 0x37, _ | 0x38, 0x03 | 0x39, 0x01 => [(uNU, u)]
  | _, _ => []

/-- The key operand that an operation names and the classes of KEY_DECL that serve it; a KLANE is served by either direction's class (R141). -/
def keyNamed (n : Nat) : Option (Nat × List Nat) :=
  let k := opX n % 8
  match opMajor n, opFunc n with
  | 0x30, 0x10 => some (k, [6])
  | 0x34, 0x05 => some (k, [4])
  | 0x38, 0x00 => some (k, [0, 1])
  | 0x38, 0x01 => some (k, [2])
  | 0x38, 0x02 => some (k, [3])
  | 0x38, 0x03 => some (k, [5])
  | _, _ => none

/-- Does an operation name a unit of the wrong type or a key operand that its declaration does not admit? -/
def opUndeclared (h : FigHdr) (n : Nat) : Bool :=
  (unitsNamed n).any (fun u => decide ((nth (0, 0) h.units u.2).1 ≠ u.1)) ||
    (match keyNamed n with
      | none => false
      | some (k, cls) =>
        let c := (nth (0, 0) h.keyDecl k).1
        (decide (h.nKeys ≤ k) && !bit c 6) || (decide (k < h.nKeys) && bit c 6) || !cls.any (fun j => bit c j))

/-- The engine operations of a step. -/
def engineOps (w : StepWord) : List Nat := ([1, 2, 3].map (slotWord w)).filter (fun n => decide (n ≠ nopWord))

/-! ### The expansion -/

/-- The resources of Table 4.3's Busy column, by logical unit. -/
inductive VRes
  | lane (lg i : Nat) | ghash (lg : Nat) | hold (lg : Nat) | key | xt (u : Nat) | du (u : Nat) | nu (u : Nat)
  deriving DecidableEq, Repr

/-- The destinations of R100, by logical unit: sequencer registers, a lane's registers, a group's, the instance counter base, a block of a
logical reel's ring, what the completion takes, a key operand; `other` for results that busy times already keep apart. -/
inductive VDest
  | freg (r : Nat) | bin (lg i : Nat) | bout (lg i : Nat) | ctr (lg i : Nat) | lkey (lg i : Nat) | gh (lg : Nat) | gy (lg : Nat) | hp (lg : Nat)
  | base | block (reel n : Nat) | fixity | auth | res (i : Nat) | kop (k : Nat) | other
  deriving DecidableEq, Repr

/-- What a landing does to the values that the verifier follows: a register, FLAGS, a hold pointer; none where it is no constant. -/
inductive VVal
  | reg (r : Nat) (v : Option Word) | flg (f : Option FlagRes) | hp (lg : Nat) (n : Option Nat)
  deriving DecidableEq, Repr

/-- What the verifier follows of a run: cycle, step, loop levels, iterations of the body left, the cycle at which the current iteration began,
registers, FLAGS and hold pointers where they are constants, the DUs' algorithms (R482: none before any DINIT or DREST, some none while
unresolved), the NUs' LEN and lattice width, values and results due, busy intervals, random words and AUTHs, the first body cycle, the cycle after
the body, t_END, AUTH issued in the body, the codes met. -/
structure VRun where
  cyc : Nat
  step : Nat
  lp0 : LoopLevel
  lp1 : LoopLevel
  left : Nat
  iter : Option Nat
  regs : List (Option Word)
  flags : Option Flags
  hps : List (Option Nat)
  algs : List (Option (Option Nat))
  lens : List (Option Nat)
  widths : List Nat
  vals : List (Nat × VVal)
  lands : List (Nat × VDest)
  busy : List (VRes × Nat × Nat)
  rnd : Nat
  auths : Nat
  t0 : Option Nat
  t1 : Option Nat
  tEnd : Option Nat
  codes : List Nat
  deriving DecidableEq, Repr

/-- What an operation issued now does: intervals it occupies (first and last cycle from now), landings, values that land, what its unit
tracks, random words and AUTHs, the codes it meets. -/
structure VFx where
  busy : List (VRes × Nat × Nat)
  lands : List (Nat × VDest)
  vals : List (Nat × VVal)
  alg : Option (Nat × Option Nat)
  len : Option (Nat × Option Nat)
  width : Option (Nat × Nat)
  rnd : Nat
  auths : Nat
  codes : List Nat

/-- An operation with no effect on what the verifier follows. -/
def VFx.none : VFx := ⟨[], [], [], Option.none, Option.none, Option.none, 0, 0, []⟩

/-- A run's first cycle: everything is zero by R94 but the parameters and P (R103, Table 4.4). -/
def VRun.start (h : FigHdr) (p : Nat) : VRun where
  cyc := 0
  step := 0
  lp0 := ⟨false, 0, 0, 0⟩
  lp1 := ⟨false, 0, 0, 0⟩
  left := p
  iter := none
  regs := (List.range 32).map (fun r =>
    if (16 ≤ r ∧ r < 16 + h.nParams) ∨ (h.bodyFirst ≠ 0xFFFF ∧ r = h.pReg) then none else some 0)
  flags := some ⟨false, false, false, false, false, false⟩
  hps := List.replicate 32 (some 0)
  algs := List.replicate 32 none
  lens := List.replicate 32 (some 0)
  widths := List.replicate 32 1
  vals := []
  lands := []
  busy := []
  rnd := 0
  auths := 0
  t0 := none
  t1 := none
  tEnd := none
  codes := []

/-- A register as a constant; f0 reads as zero. -/
def VRun.reg (v : VRun) (r : Nat) : Option Word := if r = 0 then some 0 else nth none v.regs r

/-- Blocks of a logical reel's ring from a pointer that is a constant (R102). -/
def ringBlocks (h : FigHdr) (lg : Nat) (hp : Option Nat) (n : Nat) : List VDest :=
  match hp with
  | none => [.other]
  | some b => (List.range n).map (fun i => .block (nth (0, 0) h.units lg).2 ((b + i) % (256 * max 1 h.nPages)))

/-- A hold pointer advanced. -/
def vAdvance (h : FigHdr) (hp : Option Nat) (n : Nat) : Option Nat := hp.map (fun b => (b + n) % (256 * max 1 h.nPages))

/-- The latency of a number-unit command in FAB cycles (Table 8.2, R193). -/
def nuLatency (func opt n w : Nat) : Nat :=
  let b0 := bit opt 0
  let l := if b0 then 8 else 7
  match func with
  | 0x00 | 0x01 | 0x09 => latAdd n
  | 0x02 => latNorm n b0
  | 0x03 => 2 * numMul n
  | 0x04 => 2 * numSqr n
  | 0x05 => latInv n
  | 0x06 => latExp n (64 * (opt + 1))
  | 0x07 => latSet n b0
  | 0x08 => latChk n
  | 0x0A => latScan (n * (opt % 4 + 1)) (opt / 4 + 1)
  | 0x0B => latEq n
  | 0x10 | 0x1E => 48
  | 0x11 => 2 * numNtt l w
  | 0x12 => 2 * (numNtt l w + (if w = 2 then 20 else 8))
  | 0x13 => 2 * (if b0 then 48 else if w = 2 then 72 else 40)
  | 0x14 | 0x15 => 72
  | 0x1B | 0x1C => 2 * (6 + cdiv (256 * (opt % 32)) 288)
  | 0x1D => if opt % 4 = 2 then 120 else 2 * (8 + 8 * (opt / 4 % 8 + 1))
  | 0x1F => 4108
  | _ => 80

/-- An operation that keeps its number unit busy for its latency. -/
def nuFx (u lat : Nat) : VFx := { VFx.none with busy := [(.nu u, 0, lat - 1)], lands := [(lat, .other)] }

/-- A result for a register; f0 takes none (R87). -/
def regFx (x : VFx) (lat r : Nat) (v : Option Word) : VFx :=
  if r = 0 then { x with lands := x.lands ++ [(lat, .other)] }
  else { x with lands := x.lands ++ [(lat, .freg r)], vals := x.vals ++ [(lat, .reg r v)] }

/-- Transfers of a number unit (Table 8.1). LEN is followed where the register is a constant; the ring is that of logical reel 0. -/
def transferFx (h : FigHdr) (v : VRun) (n : Nat) : VFx :=
  let u := opUnit n
  let r := fieldOf n 0 5
  let c := fieldOf n 3 8 + 1
  match opFunc n with
  | 0x01 => { nuFx u 2 with len := some (u, (v.reg r).map (fun x => if 1024 < x.toNat % 2048 then 0 else x.toNat % 2048)) }
  | 0x02 => nuFx u (4 + 2 * c)
  | 0x03 =>
    { nuFx u (4 + 2 * c) with lands := (match v.reg (fieldOf n 11 5) with
        | none => [(4 + 2 * c, VDest.other)]
        | some x => (List.range c).map (fun i => (4 + 2 * c, VDest.block 0 ((x.toNat % 2 ^ 14 + i) % (256 * max 1 h.nPages))))) }
  | 0x05 => regFx { VFx.none with busy := [(.nu u, 0, 3)] } 4 r none
  | 0x06 => regFx { VFx.none with busy := [(.nu u, 0, 1)] } 2 r none
  | _ => nuFx u 2

/-- Operations of a digest unit under the algorithm that the verifier knows, or the longest case (R482). -/
def digestFx (h : FigHdr) (v : VRun) (n : Nat) : VFx :=
  let u := opUnit n
  let f := opFunc n
  let alg := nth none v.algs u
  let lat := match alg with
    | some (some g) => dLat g
    | _ => 82
  let fin := match alg with
    | some (some g) => if isSha2 g then 2 * dLat g else dLat g
    | _ => 164
  let blocks := match alg with
    | some (some g) => cdiv (dOut g) 16
    | _ => 4
  let unit := fun (k : Nat) => [(VRes.du u, 0, k)]
  let hp := nth none v.hps (opX n % 32)
  let x := match f with
    | 0x00 => { VFx.none with busy := unit 1, lands := [(2, VDest.other)], alg := some (u, some (opX n)) }
    | 0x01 => { VFx.none with busy := unit 0, lands := [(1, VDest.other)] }
    | 0x02 => { VFx.none with busy := unit (lat - 1), lands := [(lat, VDest.other)] }
    | 0x03 => { VFx.none with busy := unit (fin - 1), lands := [(fin, VDest.other)] }
    | 0x04 =>
      if opX n = 0x800 then { VFx.none with busy := unit 0, lands := [(4, VDest.fixity)] }
      else { VFx.none with
        busy := unit 0 ++ [(VRes.hold (opX n), 0, 0)]
        lands := (ringBlocks h (opX n) hp blocks).map (fun d => (4, d)) }
    | 0x05 => { VFx.none with busy := unit 13 ++ [(VRes.key, 0, 7)], lands := [(14, VDest.other)] }
    | 0x06 => { VFx.none with
        busy := unit 15 ++ [(VRes.hold (opX n), 0, 7)]
        lands := (ringBlocks h (opX n) hp 16).map (fun d => (16, d)) }
    | 0x07 => { VFx.none with busy := unit 15 ++ [(VRes.hold (opX n), 0, 7)], lands := [(16, VDest.other)], alg := some (u, none) }
    | _ => { VFx.none with busy := unit 0, lands := [(1, VDest.other)] }
  if alg = none ∧ f ≠ 0 ∧ f ≠ 7 ∧ f ≠ 8 then { x with codes := [0x09] } else x

/-- Operations of major 0x30. -/
def laneFx (h : FigHdr) (v : VRun) (n : Nat) : VFx :=
  let g := opUnit n
  let ls := maskLanes (opMask n)
  let p := ls.length
  let hp := nth none v.hps g
  let adv := fun (lat k : Nat) => if bit (opX n) 1 then ([(lat, VDest.hp g)], [(lat, VVal.hp g (vAdvance h hp k))]) else ([], [])
  let hold := fun (k : Nat) => if k = 0 then [] else [(VRes.hold g, 0, k - 1)]
  match opFunc n with
  | 0x00 =>
    let q := (v.reg (opX n)).map (fun x => x.toNat % 2 ^ 14)
    { VFx.none with
      lands := [(1, .hp g)]
      vals := [(1, .hp g (q.map (fun b => b % (256 * max 1 h.nPages))))]
      codes := if q.any (fun b => decide (h.nPages ≤ b / 256)) then [0x13] else [] }
  | 0x01 =>
    let a := adv (3 + p) p
    { VFx.none with busy := hold p, lands := (3 + p, .other) :: ls.map (fun i => (3 + p, VDest.bin g i)) ++ a.1, vals := a.2 }
  | 0x02 =>
    let a := adv (3 + p) p
    { VFx.none with busy := hold p, lands := (ringBlocks h g hp p).map (fun d => (3 + p, d)) ++ a.1, vals := a.2 }
  | 0x07 => { VFx.none with lands := (1, .base) :: ls.map (fun i => (1, VDest.ctr g i)) }
  | 0x08 => { VFx.none with lands := ls.map (fun i => (1, VDest.bout g i)) }
  | 0x09 => { VFx.none with lands := ls.map (fun i => (1, VDest.bin g i)) }
  | 0x0E => { VFx.none with busy := hold (2 * p), lands := (ringBlocks h g hp (2 * p)).map (fun d => (3 + 2 * p, d)) }
  | 0x0F => { VFx.none with
      busy := hold (2 * p)
      lands := ls.flatMap (fun i => [(3 + 2 * p, VDest.ctr g i), (3 + 2 * p, VDest.bout g i)]) }
  | 0x10 => { VFx.none with busy := [(.key, 0, 1)], lands := [(6, .kop (opX n % 8))] }
  | f =>
    let c := if f = 0x05 ∨ f = 0x0C then ls.map (fun i => (360, VDest.ctr g i)) else []
    { VFx.none with busy := ls.map (fun i => (VRes.lane g i, 0, 359)), lands := ls.map (fun i => (360, VDest.bout g i)) ++ c }

/-- Operations of major 0x31. -/
def ghashFx (h : FigHdr) (v : VRun) (n : Nat) : VFx :=
  let g := opUnit n
  let hp := nth none v.hps g
  match opFunc n with
  | 0x00 => { VFx.none with lands := [(2, .gh g)] }
  | 0x04 =>
    let a := if bit (opX n) 1 then ([(4, VDest.hp g)], [(4, VVal.hp g (vAdvance h hp 1))]) else ([], [])
    { VFx.none with busy := [(.hold g, 0, 0)], lands := (ringBlocks h g hp 1).map (fun d => (4, d)) ++ a.1, vals := a.2 }
  | 0x05 => regFx VFx.none 4 (opX n) none
  | 0x06 => { VFx.none with lands := [(1, .gy g)] }
  | _ => { VFx.none with busy := [(.ghash g, 0, 7)], lands := [(8, .gy g)] }

/-- What an engine operation of slots 1 to 3 does, by Table 4.3, Table 8.1 and Table 8.2. A LEN that is no constant counts as 1,024. -/
def engineFx (h : FigHdr) (v : VRun) (n : Nat) : VFx :=
  let u := opUnit n
  let x := opX n
  match opMajor n, opFunc n with
  | 0x30, _ => laneFx h v n
  | 0x31, _ => ghashFx h v n
  | 0x32, 0x00 => { VFx.none with busy := [(.xt u, 0, 359)], lands := [(360, .other)] }
  | 0x32, _ => { VFx.none with busy := [(.xt u, 0, 1)], lands := [(2, .other)] }
  | 0x34, _ => digestFx h v n
  | 0x36, f =>
    let w := nth 1 v.widths u
    let fx := nuFx u (nuLatency f (n % 256) ((nth none v.lens u).getD 1024) w)
    if f = 0x10 then { fx with width := some (u, if bit n 0 then 2 else 1) } else fx
  | 0x37, _ => transferFx h v n
  | 0x38, 0x00 => { VFx.none with busy := [(.key, 0, 1)], lands := (8, .other) :: (maskLanes (opMask n)).map (fun i => (8, VDest.lkey u i)) }
  | 0x38, 0x01 => { VFx.none with busy := [(.key, 0, 1)], lands := [(8, .gh u)] }
  | 0x38, 0x02 => { VFx.none with busy := [(.key, 0, 1), (.xt u, 0, 0)], lands := [(8, .other)] }
  | 0x38, _ =>
    let c := cdiv (cdiv (nth (0, 0) h.keyDecl (x % 8)).2 16) 8
    { VFx.none with
      busy := [(.nu u, 0, 0)] ++ (if c = 0 then [] else [(.key, 0, c - 1), (.nu u, 6, 5 + 2 * c)])
      lands := [(6 + 2 * c, .other)] }
  | 0x39, 0x00 => regFx { VFx.none with rnd := 1 } 2 x none
  | 0x39, _ => { VFx.none with busy := [(.nu u, 0, 0), (.nu u, 2, 3)], lands := [(4, .other)], rnd := 8 }
  | 0x3A, 0x00 => { VFx.none with lands := [(1, .auth)], auths := 1 }
  | 0x3A, 0x01 => { VFx.none with lands := [(1, .res (opMask n))] }
  | _, _ => { VFx.none with lands := [(1, .other)] }

/-- Must the operation issue at an even cycle (R98)? -/
def evenOnly (n : Nat) : Bool :=
  match opMajor n, opFunc n with
  | 0x36, _ | 0x37, _ | 0x38, 0x03 | 0x39, 0x01 => true
  | _, _ => false

/-- The result of a slot-0 arithmetic instruction, with the words it reads (R39 to R43); none for the other instructions. -/
def slot0Alu (n : Nat) (r : Nat → Word) (p : Nat → DWord) (f : Flags) : Option (AluRes × List Nat) :=
  let ra := opUnit n
  let rb := fieldOf n 15 5
  let imm := BitVec.ofNat 18 n
  let two := [ra, rb]
  match opMajor n with
  | 0x01 =>
    match fieldOf n 8 6 with
    | 0x00 => some (.ofW (addFlags (r ra) (r rb) false), two)
    | 0x01 => some (.ofW (addFlags (r ra) (r rb) f.c), two)
    | 0x02 => some (.ofW (subFlags (r ra) (r rb) false), two)
    | 0x03 => some (.ofW (subFlags (r ra) (r rb) f.c), two)
    | 0x04 => some (.ofW (subFlags 0 (r ra) false), [ra])
    | 0x06 => some (.flags (subFlags (r ra) (r rb) false).2, two)
    | 0x08 => some (logicRes (r ra &&& r rb), two)
    | 0x09 => some (logicRes (r ra ||| r rb), two)
    | 0x0A => some (logicRes (r ra ^^^ r rb), two)
    | 0x0B => some (logicRes (r ra &&& ~~~ r rb), two)
    | 0x10 => some (shiftAlu .shl (r ra) (r rb).toNat, two)
    | 0x11 => some (shiftAlu .shr (r ra) (r rb).toNat, two)
    | 0x12 => some (shiftAlu .sar (r ra) (r rb).toNat, two)
    | 0x13 => some (shiftAlu .rol (r ra) (r rb).toNat, two)
    | 0x14 => some (shiftAlu .ror (r ra) (r rb).toNat, two)
    | 0x18 => some (shiftAlu .shl (r ra) rb, [ra])
    | 0x19 => some (shiftAlu .shr (r ra) rb, [ra])
    | 0x1A => some (shiftAlu .sar (r ra) rb, [ra])
    | 0x1B => some (shiftAlu .rol (r ra) rb, [ra])
    | 0x1C => some (shiftAlu .ror (r ra) rb, [ra])
    | 0x20 => some (mulRes true (r ra) (r rb), two)
    | 0x21 => some (mulRes false (r ra) (r rb), two)
    | 0x28 => some (.pair (p ra) (some (zn (p ra) none none)), [ra, ra + 1])
    | 0x29 => some (.ofP (addFlags (p ra) (p rb) false), [ra, ra + 1, rb, rb + 1])
    | 0x2A => some (.ofP (subFlags (p ra) (p rb) false), [ra, ra + 1, rb, rb + 1])
    | 0x30 => some (logicRes (BitVec.ofNat 18 (clz (r ra))), [ra])
    | 0x31 => some (logicRes (packo (r ra) (r rb)), two)
    | _ => none
  | 0x02 => some (.ofW (addFlags (r ra) imm false), [ra])
  | 0x03 => some (logicRes (r ra &&& imm), [ra])
  | 0x04 => some (logicRes (r ra ||| imm), [ra])
  | 0x05 => some (logicRes (r ra ^^^ imm), [ra])
  | 0x06 => some (.flags (subFlags (r ra) imm false).2, [ra])
  | 0x07 => some (.pair (p ra + imm.signExtend 36) none, [ra, ra + 1])
  | _ => none

/-- The landing of a pair; d0 keeps only its high word (R32). -/
def pairFx (x : VFx) (lat r : Nat) (v : Option DWord) : VFx :=
  regFx (regFx x lat r (v.map loW)) lat (r + 1) (v.map hiW)

/-- Arithmetic in slot 0: its registers and FLAGS, constants where every word it reads is one. -/
def aluFx (v : VRun) (n : Nat) : VFx :=
  let w := fun r => (v.reg r).getD 0
  let fl := v.flags.getD ⟨false, false, false, false, false, false⟩
  let carry := decide (opMajor n = 1 ∧ (fieldOf n 8 6 = 1 ∨ fieldOf n 8 6 = 3))
  let lat := if opMajor n = 1 ∧ (fieldOf n 8 6 = 0x20 ∨ fieldOf n 8 6 = 0x21) then 3 else 1
  let rd := opFunc n
  match slot0Alu n w (fun r => dword (w (r + 1)) (w r)) fl with
  | none => VFx.none
  | some (res, srcs) =>
    let known := srcs.all (fun r => (v.reg r).isSome) && (!carry || v.flags.isSome)
    let flg := fun (x : VFx) (f : FlagRes) => { x with vals := x.vals ++ [(lat, VVal.flg (if known then some f else none))] }
    match res with
    | .word y f => flg (regFx VFx.none lat rd (if known then some y else none)) f
    | .pair y (some f) => flg (pairFx VFx.none lat rd (if known then some y else none)) f
    | .pair y none => pairFx VFx.none lat rd (if known then some y else none)
    | .flags f => flg VFx.none f

/-- A local access (R90): its landing, and code 0x16 where the effective address is a constant that R90 refuses. -/
def localFx (v : VRun) (n : Nat) : VFx :=
  let mj := opMajor n
  let ra := opUnit n
  let rt := opFunc n
  let dbl := decide (mj = 0xA ∨ mj = 0xB)
  let x := if mj = 8 then regFx VFx.none 2 rt none
    else if mj = 0xA then pairFx VFx.none 2 rt none
    else { VFx.none with lands := [(1, .other)] }
  match v.reg ra, v.reg (ra + 1) with
  | some l, some hw =>
    let ea := (dword hw l + (BitVec.ofNat 18 n).signExtend 36).toNat
    if 1024 ≤ ea ∨ (dbl ∧ ea % 2 = 1) then { x with codes := [0x16] } else x
  | _, _ => x

/-- What slot 0 does; LOOP and END are the sequencer's own. -/
def slot0Fx (v : VRun) (n : Nat) : VFx :=
  if n = nopWord then VFx.none
  else if 8 ≤ opMajor n ∧ opMajor n ≤ 0xB then localFx v n
  else if opMajor n ≤ 7 then aluFx v n
  else VFx.none

/-- A value lands. -/
def VRun.put (v : VRun) : VVal → VRun
  | .reg r x => { v with regs := v.regs.set r x }
  | .flg f => { v with flags := match f, v.flags with
      | some f, some g => some (g.put f)
      | some ⟨z, n, some c, some o⟩, none => some ⟨z, n, c, o, false, false⟩
      | _, _ => none }
  | .hp g n => { v with hps := v.hps.set g n }

/-- The values due land (R91); what has passed is forgotten. -/
def VRun.land (v : VRun) : VRun :=
  let due := v.vals.filter (fun e => decide (e.1 ≤ v.cyc))
  let v := due.foldl (fun v e => v.put e.2) { v with vals := v.vals.filter (fun e => decide (v.cyc < e.1)) }
  { v with lands := v.lands.filter (fun e => decide (v.cyc ≤ e.1)), busy := v.busy.filter (fun e => decide (v.cyc ≤ e.2.2)) }

/-- Does a resource interval meet one that is held? -/
def busyClash (held : List (VRes × Nat × Nat)) (b : VRes × Nat × Nat) : Bool :=
  held.any (fun e => decide (e.1 = b.1 ∧ e.2.1 ≤ b.2.2 ∧ b.2.1 ≤ e.2.2))

/-- An operation is issued: codes 0x0A, 0x0B and 0x0F, and what it leaves due. -/
def VRun.issue (h : FigHdr) (v : VRun) (x : VFx) : VRun :=
  let busy := x.busy.map (fun b => (b.1, v.cyc + b.2.1, v.cyc + b.2.2))
  let lands := x.lands.map (fun l => (v.cyc + l.1, l.2))
  let spill := v.iter.any (fun t => lands.any (fun l => decide (t + h.cycBody < l.1)))
  let clash := lands.any (fun l => decide (l.2 ≠ VDest.other) && v.lands.any (fun e => decide (e = l)))
  let codes := x.codes ++ (if busy.any (busyClash v.busy) then [0x0A] else []) ++ (if clash then [0x0B] else []) ++ (if spill then [0x0F] else []) ++
    (if x.auths ≠ 0 ∧ h.auth ∧ v.iter.isSome then [0x14] else [])
  { v with
    busy := v.busy ++ busy
    lands := v.lands ++ lands
    vals := v.vals ++ x.vals.map (fun e => (v.cyc + e.1, e.2))
    algs := x.alg.elim v.algs (fun e => v.algs.set e.1 (some e.2))
    lens := x.len.elim v.lens (fun e => v.lens.set e.1 e.2)
    widths := x.width.elim v.widths (fun e => v.widths.set e.1 e.2)
    rnd := v.rnd + x.rnd
    auths := v.auths + x.auths
    codes := v.codes ++ codes }

/-- LOOP of a step (R64, R65, R478): code 0x0D for a cause of Table 3.2, the new loop state, the next step. -/
def VRun.loop (v : VRun) (n : Nat) : VRun × Nat :=
  let lvl := fieldOf n 29 1
  let cnt := BitVec.ofNat 18 (fieldOf n 12 16)
  let len := fieldOf n 0 12
  let pc := BitVec.ofNat 36 v.step
  let atEnd := fun (l : LoopLevel) => l.act && decide (pc = l.fin ∨ pc + 1 = l.fin)
  let bad := decide (loopCause v.lp0 v.lp1 lvl pc 1 len ≠ 0) || atEnd v.lp0 || atEnd v.lp1
  let l := startLoop (if lvl = 0 then v.lp0 else v.lp1) pc 1 cnt len
  ({ v with
      lp0 := if lvl = 0 then l else v.lp0
      lp1 := if lvl = 0 then v.lp1 else l
      codes := if bad then v.codes ++ [0x0D] else v.codes },
    if cnt = 0 then v.step + len + 1 else v.step + 1)

/-- The step after a step that is no LOOP: the loop hardware (R66), then the body (R103). -/
def VRun.after (h : FigHdr) (v : VRun) : VRun × Nat :=
  let r := loopNext v.lp0 v.lp1 (BitVec.ofNat 36 v.step) 1
  let nxt := (r.2.2.map BitVec.toNat).getD (v.step + 1)
  let v := { v with lp0 := r.1, lp1 := r.2.1 }
  if v.iter.isSome ∧ v.step = h.bodyLast ∧ nxt = v.step + 1 then
    if 1 < v.left then ({ v with left := v.left - 1, iter := some (v.cyc + 1) }, h.bodyFirst)
    else ({ v with iter := none, t1 := some (v.cyc + 1) }, nxt)
  else (v, nxt)

/-- One cycle of the expansion: the step issues, and the run ends or goes on. -/
def VRun.cycle (h : FigHdr) (steps : List StepWord) (v : VRun) : VRun :=
  let v := v.land
  let v := if v.iter = none ∧ v.step = h.bodyFirst ∧ h.bodyFirst ≠ 0xFFFF ∧ v.t1 = none then
      { v with iter := some v.cyc, t0 := some v.cyc } else v
  let w := nth 0 steps v.step
  let n := slotWord w 0
  let fx := slot0Fx v n :: (engineOps w).map (engineFx h v)
  let odd := decide (v.cyc % 2 = 1) && (engineOps w).any evenOnly
  let v := fx.foldl (VRun.issue h) v
  let v := if odd then { v with codes := v.codes ++ [0x0C] } else v
  if (endCode n).isSome then
    { v with tEnd := some v.cyc, codes := if v.lands.any (fun l => decide (v.cyc < l.1)) then v.codes ++ [0x10] else v.codes }
  else
    let (v, nxt) := if opMajor n = 0x1C then v.loop n else v.after h
    { v with cyc := v.cyc + 1, step := nxt }

/-- The expansion of a run: it ends at its END-family step, past the last step (0x10), or beyond the limit of cycles (0x0D). -/
def expandRun (h : FigHdr) (steps : List StepWord) : Nat → VRun → VRun
  | 0, v => { v with codes := v.codes ++ [0x0D] }
  | k + 1, v =>
    if v.tEnd.isSome then v
    else if h.steps ≤ v.step then { v with codes := v.codes ++ [0x10] }
    else expandRun h steps k (v.cycle h steps)

/-- The codes of an expansion that are judged at its end: CYC_PRO, CYC_BODY and CYC_EPI (0x0E), AUTH (0x14). -/
def runCodes (h : FigHdr) (p : Nat) (v : VRun) : List Nat :=
  let start := if h.bodyFirst = 0xFFFF then 0 else h.cycPro + p * h.cycBody
  let form := (decide (h.bodyFirst ≠ 0xFFFF) && decide (v.t0 ≠ some h.cycPro ∨ v.t1 ≠ some start)) || v.tEnd.any (fun t => decide (t ≠ start + h.cycEpi))
  v.codes ++ (if form then [0x0E] else []) ++ (if h.auth ∧ v.auths ≠ 1 then [0x14] else [])

/-! ### Codes judged over the steps -/

/-- The part of the figure that a step lies in: prologue, body, epilogue (R103). -/
def figPart (h : FigHdr) (i : Nat) : Nat := if h.bodyFirst = 0xFFFF ∨ i < h.bodyFirst then 0 else if i ≤ h.bodyLast then 1 else 2

/-- The bodies of the LOOPs, first and last step. -/
def loopBodies (steps : List StepWord) : List (Nat × Nat) :=
  ((List.range steps.length).zip steps).filterMap (fun e =>
    let n := slotWord e.2 0
    if opMajor n = 0x1C then some (e.1 + 1, e.1 + fieldOf n 0 12) else none)

/-- An operation on hold pages. -/
def holdOp (n : Nat) : Bool :=
  match opMajor n, opFunc n with
  | 0x30, f => decide (f ∈ [0x00, 0x01, 0x02, 0x0E, 0x0F])
  | 0x31, 0x04 | 0x34, 0x06 | 0x34, 0x07 | 0x37, 0x02 | 0x37, 0x03 | 0x3A, 0x02 => true
  | 0x34, 0x04 => decide (opX n ≠ 0x800)
  | _, _ => false

/-- The codes 0x09, 0x0D, 0x0E, 0x10, 0x13 and 0x15 that the steps alone show. -/
def stepCodes (h : FigHdr) (steps : List StepWord) : List Nat :=
  let ops := steps.flatMap engineOps
  let loops := loopBodies steps
  let ends := ((List.range steps.length).zip steps).filterMap (fun e => (endCode (slotWord e.2 0)).map (fun c => (e.1, c)))
  (if ops.any (opUndeclared h) then [0x09] else []) ++
    (if loops.any (fun l => decide (steps.length ≤ l.2 ∨ figPart h (l.1 - 1) ≠ figPart h l.2)) then [0x0D] else []) ++
    (if (h.bodyFirst ≠ 0xFFFF ∧ (h.bodyLast < h.bodyFirst ∨ h.steps ≤ h.bodyLast ∨ h.cycBody % 360 ≠ 0)) ∨
        (h.bodyFirst = 0xFFFF ∧ (h.cycPro ≠ 0 ∨ h.cycBody ≠ 0)) then [0x0E] else []) ++
    (if ends.any (fun e => decide (e.2 = 1 ∧ h.repeatable = false) || (decide (h.bodyFirst ≠ 0xFFFF) && decide (figPart h e.1 = 1)) ||
        loops.any (fun l => decide (l.1 ≤ e.1 ∧ e.1 ≤ l.2))) then [0x10] else []) ++
    (if ops.any (fun n => (decide (h.nPages = 0) && holdOp n) || decide (opMajor n = 0x3A ∧ opFunc n = 2 ∧ h.nPages ≤ opX n)) then [0x13] else []) ++
    (if h.stream = false ∧ ops.any (fun n => decide (opMajor n = 0x3A ∧ opFunc n = 2)) then [0x15] else [])

/-- RANDOM (0x12): a run reads more than RND_WORDS; the words that one iteration of the body reads are the difference of the two expansions. -/
def randomOver (h : FigHdr) (one two : VRun) : Bool := decide (h.rndWords < one.rnd + (h.pMax - 1) * (two.rnd - one.rnd))

/-- The first code of Table 4.5 from 0x08 to 0x16 that an image meets, but for SPAN (0x11); 0 for none. -/
def scheduleCode (o : List Octet) : Nat :=
  let h := figHeader o
  let steps := figSteps o
  if steps.any stepIllegal then 0x08
  else
    let one := expandRun h steps (2 ^ 22 + 1) (VRun.start h 1)
    let two := if h.bodyFirst = 0xFFFF then one else expandRun h steps (2 ^ 23 + 1) (VRun.start h 2)
    let codes := stepCodes h steps ++ runCodes h 1 one ++ (if h.bodyFirst = 0xFFFF then [] else runCodes h 2 two) ++
      (if randomOver h one two then [0x12] else [])
    (codes.foldl (fun (m : Option Nat) c => some (m.elim c (fun x => min x c))) none).getD 0

end Sys2Proof.Machine
end

