-- ==== Sys2Proof/Machine/Residency.lean ====
section
/-! DEFINITION. Figure images and residency (spec/04, R105 to R109): the header, the structural verifier, pinning, unpinning, the loader. -/
namespace Sys2Proof.Machine

/-! ### The image (Table 4.4) -/

/-- Does the header declare a body (R103)? -/
def FigHdr.body (h : FigHdr) : Bool := decide (h.bodyFirst ≠ 0xFFFF)

/-- The span in measures for P (spec/04, the span formula). -/
def FigHdr.spanOf (h : FigHdr) (p : Nat) : Nat := max 1 ((h.cycPro + h.cycEpi + 359) / 360 + p * h.cycBody / 360)

/-- SIGNER, 8 octets. -/
def figSigner (o : List Octet) : Nat := leAt o (0xD0 + 18 * leAt o 0xC 2 + 48) 8

/-! ### The verifier (Table 4.5) -/

/-- Code 0x06: a header field. -/
def headerBad (o : List Octet) : Bool :=
  let h := figHeader o
  let body := decide (h.bodyFirst ≠ 0xFFFF ∧ h.bodyLast ≠ 0xFFFF)
  let unitBad := fun (i : Nat) =>
    let e := octAt o (0x50 + 4 * i) 4
    let ty := leAt e 0 1
    decide (leAt e 2 2 ≠ 0) || (decide (ty = 0) && decide (leAt e 1 1 ≠ 0)) || (decide (ty = 3 ∨ ty = 4) && decide (leAt e 1 1 ≠ 0xFF))
  decide (leAt o 0xE 2 ≥ 8 ∨ leAt o 0x2C 4 ≠ 0 ∨ figSigner o ≥ 2 ^ 48 ∨ (h.bodyFirst = 0xFFFF) ≠ (h.bodyLast = 0xFFFF) ∨
    h.pMax = 0 ∨ leAt o 0x18 1 = 0 ∨ 32 < leAt o 0x18 1 ∨ 32 < h.nReels ∨ 8 < h.nKeys ∨ 64 < h.nPages ∨ 4096 < h.rndWords ∨ 16 < h.nParams ∨
    (h.repeatMax ≠ 0 ∧ ¬ h.repeatable)) ||
  (if body then decide (h.pReg < 16 ∨ 31 < h.pReg ∨ h.pReg < 16 + h.nParams)
    else decide (h.pMax ≠ 1 ∨ h.pReg ≠ 0)) ||
  (List.range 8).any (fun i => decide (leAt o (0x30 + 4 * i) 2 ≥ 128)) || (List.range 32).any unitBad

/-- Code 0x07: a unit declaration. -/
def declBad (o : List Octet) : Bool :=
  let h := figHeader o
  let ty := fun i => leAt o (0x50 + 4 * i) 1
  let all := (List.range 32).map (fun i => (leAt o (0x50 + 4 * i) 1, leAt o (0x51 + 4 * i) 1))
  let count := fun t r => (all.filter (fun u => decide (u = (t, r)))).length
  all.any (fun u => decide (4 < u.1 ∨ ((u.1 = 1 ∨ u.1 = 2) ∧ h.nReels ≤ u.2))) ||
    (List.range 32).any (fun r => decide (4 < count 1 r ∨ 1 < count 2 r ∨ (0 < count 2 r ∧ count 1 r = 0))) ||
    (List.range 32).any (fun i => decide (leAt o 0x18 1 ≤ i ∧ ty i ≠ 0))

/-- Do both signatures verify under the key that FIGURE_ID's range and SIGNER allow (R107, R264)? -/
def figSigned (s : State) (o : List Octet) : Bool :=
  let h := figHeader o
  let e := 0xD0 + 18 * h.steps + 56
  let both := fun a b => Config.verify 1 a h.digest (octAt o e 4627) && Config.verify 2 b h.digest (octAt o (e + 4627) 96)
  let k := figSigner o % 2 ^ 48
  if h.fid < 0x8000 then decide (k = 0) && both (Config.raeshKey 5) (Config.raeshKey 6)
  else
    let r := hRec k
    let m := (s.obj r).mat
    decide (k ≠ 0 ∧ hDom k = 0 ∧ mapState (s.vmap r) = 1 ∧ mapGen (s.vmap r) = hGen k ∧ leAt (s.vrec r) 1 1 = bSigner ∧
      leAt m 2 2 ≤ h.fid ∧ h.fid ≤ leAt m 4 2) && both (octAt m 32 2592) (octAt m 2624 97)

/-- The header of the figure in force for a FIGURE_ID. -/
def State.figHdr (s : State) (fid : Nat) : Option FigHdr := s.floor.figs.find? (fun h => decide (h.fid = fid))

/-- Has a residency entry of a figure VALID or QUAR set (R107)? -/
def State.resident (s : State) (fid : Nat) : Bool :=
  resPairs.any (fun e => decide (s.rd (Reg.RES_FIGURE e.1 e.2) = fid) && (s.on (Reg.RES_VALID e.1 e.2) || s.on (Reg.RES_QUAR e.1 e.2)))

/-- The code of the first failing condition of Table 4.5 but the last, 0 for none. -/
def figureCode (s : State) (o : List Octet) : Nat :=
  let h := figHeader o
  let sc := scheduleCode o
  if octAt o 0 6 ≠ [0x43, 0x4B, 0x46, 0x47, 1, 0] then 1
  else if h.steps = 0 ∨ 8192 < h.steps ∨ o.length ≠ 4987 + 18 * h.steps then 2
  else if sha384 (o.take (0xD0 + 18 * h.steps)) ≠ h.digest then 3
  else if ¬ figSigned s o then 4
  else if s.resident h.fid ∧ (s.figHdr h.fid).any (fun x => decide (h.version < x.version)) then 5
  else if headerBad o then 6
  else if declBad o then 7
  else if sc ≠ 0 ∧ sc < 0x11 then sc
  else if h.spanOf h.pMax > 1048576 then 0x11
  else sc

/-! ### Figure memory -/

/-- The figure of a load: 2^16 is added to its number when the loader is done, and 2^17 where it was a reload in place. -/
def loadFid (l : Nat × List Nat × List StepWord) : Nat := l.1 % 2 ^ 16

/-- Does an entry cover figure memory: VALID, QUAR, or being loaded? -/
def entryUsed (s : State) (q e : Nat) : Bool :=
  s.on (Reg.RES_VALID q e) || s.on (Reg.RES_QUAR q e) ||
    s.floor.loads.any (fun l => decide (loadFid l = s.rd (Reg.RES_FIGURE q e) ∧ q ∈ l.2.1))

/-- Steps taken by a FIGURE_ID, the largest of its headers. -/
def stepsOf (s : State) (fid : Nat) : Nat := ((s.floor.figs.filter (fun h => decide (h.fid = fid))).map FigHdr.steps).foldl max 0

/-- The parts of figure memory in use: those of entries, and the steps that a placed instance runs (R107). -/
def memoryUsed (s : State) (q : Nat) : List (Nat × Nat) :=
  (((List.range 16).filter (fun e => entryUsed s q e)).map (fun e => (s.rd (Reg.RES_BASE q e), stepsOf s (s.rd (Reg.RES_FIGURE q e))))) ++
    (s.seq q).inst.elim [] (fun i => [(i.base0, i.hdr.steps)])

/-- A free entry and the lowest free run of steps of a sequencer. -/
def findRoom (s : State) (q n : Nat) : Option (Nat × Nat) :=
  let used := memoryUsed s q
  match (List.range 16).find? (fun e => !entryUsed s q e),
      (0 :: used.map (fun u => u.1 + u.2)).filter (fun b => decide (b + n ≤ 8192) && used.all (fun u => decide (b + n ≤ u.1 ∨ u.1 + u.2 ≤ b))) with
  | some e, b :: l => some (e, l.foldl min b)
  | _, _ => none

/-- Entries and memory set aside on every sequencer of a list; none where one has no room. -/
def reserveRoom (fid n : Nat) : List Nat → State → Option State
  | [], s => some s
  | q :: l, s =>
    match findRoom s q n with
    | none => none
    | some (e, b) =>
      reserveRoom fid n l ((((s.wr (Reg.RES_FIGURE q e) fid).wr (Reg.RES_BASE q e) b).flag (Reg.RES_VALID q e) false).flag (Reg.RES_QUAR q e) false)

/-! ### Pinning (R107) -/

/-- What a pin's completion waits for: its entries to become valid. -/
def waitFigure (fid : Nat) : Nat := 60000 + fid

/-- The sequencers of a 64-bit map. -/
def seqSet (m : Nat) : List Nat := (List.range 64).filter (fun q => bit m q)

/-- A record that a figure is made resident (1), or unpinned (2) (layout of log 10: VERSION, set, DIGEST). -/
def figureRecord (s : State) (w : Who) (h : FigHdr) (set : Nat) : State :=
  recordFor s w 0x0301 h.fid (leOctets 4 h.version ++ leOctets 8 set ++ h.digest.take 16)

/-- Does a sequencer hold this very image already? -/
def holdsImage (s : State) (h : FigHdr) (q : Nat) : Bool :=
  decide ((s.figHdr h.fid).map FigHdr.digest = some h.digest) &&
    (List.range 16).any (fun e => s.on (Reg.RES_VALID q e) && decide (s.rd (Reg.RES_FIGURE q e) = h.fid))

/-- FIGURE_PIN: the code in RESULT0, with its record; an accepted image is measured (Table 7.9) and loaded into every sequencer of the set that
does not hold it. -/
def figurePinOp (s : State) (w : Who) (blk : List Octet) : State × Rep :=
  let set := leAt blk 0 8
  let o := blk.drop 8
  let h := figHeader o
  let refuse := fun (s : State) c => (recordFor s w 0x0302 c (leOctets 2 h.fid ++ leOctets 4 h.version), Rep.fin 0 c [] [])
  if blk.length < 8 ∨ set = 0 then (s, .no 0x30 0)
  else
    let c := figureCode s o
    if c ≠ 0 then refuse s c
    else
      let dest := (seqSet set).filter (fun q => !holdsImage s h q)
      match reserveRoom h.fid h.steps dest s with
      | none => refuse s 0x17
      | some s =>
        let s := figureRecord (measNow s (if h.fid < 0x8000 then 4 else 5) h.digest) w h set
        if dest = [] then (s, .ok [])
        else
          let new := if (s.figHdr h.fid).map FigHdr.digest = some h.digest then [] else [h]
          ({ s with floor := { s.floor with figs := s.floor.figs ++ new, loads := s.floor.loads ++ [(h.fid, dest, figSteps o)] } },
            .fin 0 0 [] [waitFigure h.fid])

/-- FIGURE_UNPIN: the entries become invalid at the next boundary (R108). -/
def figureUnpinOp (s : State) (w : Who) (short : List Octet) : State × Rep :=
  let fid := leAt short 0 2
  let set := leAt short 2 8
  let s := { s with floor := { s.floor with unpin := s.floor.unpin ++ (seqSet set).map (fun q => 65536 * q + fid) } }
  ((s.figHdr fid).elim s (fun h => figureRecord s w h set), .ok [])

/-- The entry of a sequencer that a load of a figure fills. -/
def loadingEntry (s : State) (fid q : Nat) : Option Nat :=
  (List.range 16).find? (fun e => decide (s.rd (Reg.RES_FIGURE q e) = fid) && !s.on (Reg.RES_VALID q e) && !s.on (Reg.RES_QUAR q e))

/-- The loader has written the last step of the oldest load, which is of this figure. A reload in place writes the same steps. -/
def loadDone (s : State) (fid : Nat) : State :=
  match s.floor.loads.find? (fun l => decide (l.1 < 2 ^ 16)) with
  | none => s
  | some l =>
    if l.1 ≠ fid then s
    else
      let s := l.2.1.foldl (fun s q =>
        match loadingEntry s fid q with
        | none => s
        | some e =>
          let b := s.rd (Reg.RES_BASE q e)
          let x := s.seq q
          s.setSeq q { x with fmem := ((List.range l.2.2.length).zip l.2.2).foldl (fun m st => tset 0 m (b + st.1) st.2) x.fmem }) s
      let i := s.floor.loads.idxOf l
      { s with floor := { s.floor with loads := s.floor.loads.set i (l.1 + 2 ^ 16 + (if l.2.2 = [] then 2 ^ 17 else 0), l.2.1, []) } }

/-! ### What a measure boundary does to residency -/

/-- An entry cleared. -/
def clearEntry (s : State) (q e : Nat) : State :=
  (((s.flag (Reg.RES_VALID q e) false).flag (Reg.RES_QUAR q e) false).wr (Reg.RES_FIGURE q e) 0).wr (Reg.RES_BASE q e) 0

/-- The held commands that wait for something complete. -/
def endWaiting (s : State) (w : Nat) : State :=
  ((s.cmds.filter (fun (c : Cmd) => decide (c.ph = CmdPhase.held ∧ w ∈ c.wait))).map (fun (c : Cmd) => c.uid)).foldl (fun s u => endCmd s u id) s

/-- The entries of a load that is done become valid. An image that replaces another one, and a new pin of a quarantined figure, end the other
entries of the figure. -/
def loadValid (s : State) (l : Nat × List Nat × List StepWord) : State :=
  let fid := loadFid l
  let pinned := decide (l.1 < 2 ^ 17)
  let replaces := decide (2 ≤ (s.floor.figs.filter (fun h => decide (h.fid = fid))).length)
  let s := resPairs.foldl (fun (s : State) (e : Nat × Nat) =>
    if s.rd (Reg.RES_FIGURE e.1 e.2) = fid ∧ ((pinned ∧ s.on (Reg.RES_QUAR e.1 e.2)) ∨ (replaces ∧ s.on (Reg.RES_VALID e.1 e.2))) then clearEntry s e.1 e.2
    else s) s
  let s := l.2.1.foldl (fun s q => (loadingEntry s fid q).elim s (fun e => s.flag (Reg.RES_VALID q e) true)) s
  let s := { s with floor := { s.floor with figs := if replaces then s.floor.figs.eraseP (fun h => decide (h.fid = fid)) else s.floor.figs } }
  endWaiting s (waitFigure fid)

/-- Loads and unpinnings take effect; headers of figures that are neither resident nor being loaded are forgotten. -/
def residencyBoundary (s : State) : State :=
  let s := (s.floor.loads.filter (fun l => decide (2 ^ 16 ≤ l.1))).foldl loadValid s
  let s := { s with floor := { s.floor with loads := s.floor.loads.filter (fun l => decide (l.1 < 2 ^ 16)) } }
  let s := s.floor.unpin.foldl (fun s u => (List.range 16).foldl (fun s e =>
    if s.rd (Reg.RES_FIGURE (u / 65536) e) = u % 65536 ∧ (s.on (Reg.RES_VALID (u / 65536) e) ∨ s.on (Reg.RES_QUAR (u / 65536) e)) then
      clearEntry s (u / 65536) e else s) s) s
  { s with floor := { s.floor with
    unpin := []
    figs := s.floor.figs.filter (fun h => s.resident h.fid || s.floor.loads.any (fun l => decide (loadFid l = h.fid))) } }

/-- Has a function a sequencer column at some card position on which a figure is valid (order 4 of Table 5.2)? -/
def figurePlaceable (s : State) (f fid : Nat) : Bool :=
  resPairs.any (fun e => s.on (Reg.RES_VALID e.1 e.2) && decide (s.rd (Reg.RES_FIGURE e.1 e.2) = fid) && ownsColumn s f (240 + e.1))

def execFigureLoadDone (fid : BitVec 16) (s : State) : Out := done (loadDone s fid.toNat)

end Sys2Proof.Machine
end

