-- ==== Sys2Proof/Machine/Admission.lean ====
section
/-! DEFINITION. Ingress (spec/05, R119 to R127): the checks of Table 5.2 in their order, key operands (Table 10.10), KPUT slots, staging, random
words. `Cmd.order` is the last order passed: 5 while key operands are taken, 50 once the charge of usage is made and that of INV is due. -/
namespace Sys2Proof.Machine

/-! ### Parts of a RUN (R315) -/

/-- FLAGS.OBJ and FLAGS.INLINE_IN. -/
def Cmd.obj (c : Cmd) : Bool := bit c.flags 1
def Cmd.inlined (c : Cmd) : Bool := bit c.flags 2
/-- Where the inline input stands. -/
def Cmd.inlineAt (c : Cmd) : Nat := 64 + 4 * c.nparam + 6 * (c.nkey - 2) + 16 * b2n c.obj
/-- Octets of the command with what its extension holds. -/
def Cmd.rawUsed (c : Cmd) : Nat := c.inlineAt + (if c.inlined then c.inLen else 0)
/-- The parameter words. -/
def Cmd.params (c : Cmd) : List Nat := (List.range c.nparam).map (fun i => c.param i % 2 ^ 18)

/-- Octets of a figure's page ring (R124). -/
def FigHdr.ring (h : FigHdr) : Nat := h.nPages * max 1 h.nReels * 4096

/-! ### Orders 1 to 4 -/

/-- Order 1: the device mode; the status and result word 0 of its refusal. -/
def tenantRefusal (s : State) : Option (Nat × Nat) :=
  if s.mode = mZeroized then some (0x7E, 0)
  else if s.mode = mFault then some (0x7F, 0)
  else if s.mode = mMigrationFreeze then some (0x60, 0)
  else if s.mode = mUncommissioned ∨ s.mode = mDiagnostic ∨ s.mode = mDebug then some (0x43, 22)
  else none

/-- Order 3: the function's permitted figures (R319). -/
def permitted (s : State) (f fid : Nat) : Bool :=
  let cfg := (s.fn f).cfg
  (List.range (min 64 (leAt cfg 0xE 1))).any (fun i => decide (leAt cfg (0x30 + 2 * i) 2 = fid))

/-! ### Order 5 -/

/-- Library figures of Table 6.10 and Table 7.3 whose P counts measures of 32 blocks, or of 16 (R481). -/
def wideFigures : List Nat := [0x0110, 0x0120, 0x0121, 0x0140, 0x0150, 0x0151, 0x0160]
def narrowFigures : List Nat := [0x0118, 0x0128, 0x0129]
/-- Library figures that seal or open by GCM with a derived key; they carry fixity (Table 7.3). -/
def fixityFigures : List Nat := [0x0110, 0x0118, 0x0120, 0x0128, 0x0121, 0x0129]
def narrowOf (fid : Nat) : Bool := decide (fid ∈ narrowFigures)

/-- A library figure's largest data (Table 6.10, R481); the held-release limit is also that of 0x0128 (DEDUCED, R125). -/
def dataLimit (fid : Nat) : Option Nat :=
  if fid = 0x0101 then some 64
  else if fid ∈ [0x0110, 0x0121, 0x0140, 0x0150, 0x0151, 0x0160] then some 33553920
  else if fid ∈ [0x0118, 0x0129] then some 16776960
  else if fid ∈ [0x0120, 0x0128] then some 262128
  else if fid = 0x0130 then some 33554432
  else if fid = 0x0170 then some 65536
  else if fid ∈ [0x0180, 0x0181, 0x0182, 0x0183] then some 4096
  else none

/-- Does a library figure accept a direction (R149)? -/
def directionOk (fid : Nat) (dir : Bool) : Bool :=
  if fid ∈ [0x0101, 0x0110, 0x0118, 0x0150, 0x0170, 0x0180, 0x0182] then !dir
  else if fid ∈ [0x0120, 0x0121, 0x0128, 0x0129, 0x0151, 0x0160, 0x0181, 0x0183] then dir
  else true

/-- Is the octet count one that a library figure of Table 6.10 or 7.3 takes (R148, R481)? -/
def dataOk (fid p n : Nat) : Bool :=
  (dataLimit fid).all (fun m => decide (n ≤ m)) &&
    (if fid ∈ [0x0101, 0x0130] ∨ fid ∈ wideFigures ∨ fid ∈ narrowFigures then decide (n % 16 = 0) else true) &&
    (if fid ∈ wideFigures then decide (p = (n + 511) / 512) else if fid ∈ narrowFigures then decide (p = (n + 255) / 256) else true) &&
    (if fid ∈ [0x0180, 0x0181] then decide (16 ≤ n ∧ n % 8 = 0) else if fid ∈ [0x0182, 0x0183] then decide (1 ≤ n) else true)

/-- The context entry of a function. -/
def State.ctxOf (s : State) (f e : Nat) : Nat × List Octet := tget (0, []) (s.fn f).ctx e

/-- ALG, FORM, PHASE, CTX of a fixity control word (Table 7.2). -/
def fixAlg (w : Nat) : Nat := w % 16
def fixForm (w : Nat) : Nat := w / 16 % 4
def fixPhase (w : Nat) : Nat := w / 64 % 4
def fixCtx (w : Nat) : Nat := w / 256 % 256

/-- Is a fixity control word accepted for a segment (R169, Tables 7.3 and 7.4: the multiple is that of 16 and R)? -/
def fixityOk (s : State) (f fid w n : Nat) : Bool :=
  let alg := fixAlg w
  let hashed := n + 16 * b2n (fixForm w = 1)
  decide (w < 2 ^ 16 ∧ fixForm w ≤ 1 ∧ (alg = 0 ∨ alg ∈ [3, 4, 5, 8, 9, 10, 11, 12, 13, 14] ∨ (alg ∈ [1, 2] ∧ narrowOf fid))) &&
    (decide (fixPhase w ≠ 1 ∧ fixPhase w ≠ 2 ∨ alg = 0) || decide (hashed % Nat.lcm 16 (dRate alg) = 0)) &&
    (decide (fixPhase w < 2) || decide ((s.ctxOf f (fixCtx w)).1 = 2 ∧ leAt (s.ctxOf f (fixCtx w)).2 5 1 = alg))

/-- The lengths of a library figure that reserves the words it returns (R216). -/
def rngShape (c : Cmd) : Bool :=
  decide (c.nkey = 0 ∧ c.nparam = 0 ∧ c.inLen = 0 ∧ leAt c.raw 0x30 16 = 0 ∧ c.p = 1 ∧ c.outLen % 2 = 0 ∧ 2 ≤ c.outLen ∧ c.outLen ≤ 8192)

/-- What a library figure's own rules ask at order 5. -/
def libraryOk (s : State) (c : Cmd) : Bool :=
  let fid := c.figure
  if fid = 0x0040 ∨ fid = 0x0041 then rngShape c
  else
    let n := Config.dataLength fid c.params c.inLen
    directionOk fid c.dir && dataOk fid c.p n && decide (c.outLen = Config.outputLength fid c.params c.inLen) &&
      Config.lengthsAgree fid c.p c.params c.inLen && (decide (fid ∉ fixityFigures) || fixityOk s c.func fid (c.param 0) n)

/-- Does a figure take an object identifier (R315)? An owner figure declares none (DEDUCED). -/
def takesObj (fid : Nat) : Bool := decide (fid ∈ fixityFigures) || (decide (fid < 0x8000) && Config.takesObject fid)

/-- Order 5 of Table 5.2. -/
def shapeOkRun (s : State) (c : Cmd) (h : FigHdr) : Bool :=
  decide (c.flags / 8 % 8 = 0 ∧ 1 ≤ c.p ∧ c.p ≤ h.pMax ∧ c.nparam = h.nParams ∧ c.nkey = h.nKeys) &&
    decide ((1 ≤ c.nkey ∨ c.key0 = 0) ∧ (2 ≤ c.nkey ∨ c.handle 1 = 0)) &&
    (List.range c.nparam).all (fun i => decide (c.param i < 2 ^ 18)) &&
    decide (c.rawUsed ≤ c.raw.length) && (c.raw.drop c.rawUsed).all (fun o => decide (o = 0)) &&
    (c.obj == takesObj c.figure) &&
    (h.stream || decide (c.inLen ≤ h.ring ∧ c.outLen ≤ h.ring)) &&
    (decide (0x8000 ≤ c.figure) || libraryOk s c)

/-! ### Key slots (R240, R243) -/

/-- Slots that material takes (Table 10.6): both halves of an XTS key stand apart. -/
def slotsFor (binding bits : Nat) : Nat := if binding = 3 then 2 else max 1 ((matLen binding bits + 63) / 64)

/-- Owner slots in use, by first slot. -/
def ownerSlots (s : State) : List (Nat × KSlot) := s.cache.filter (fun e => decide (e.1 < 8000))

/-- Does a run of slots meet a key's slots? -/
def slotsMeet (start n : Nat) (e : Nat × KSlot) : Bool := decide (e.1 < start + n ∧ start < e.1 + e.2.n)

/-- The lowest free run. -/
def freeSlots (s : State) (n : Nat) : Option Nat :=
  let l := ownerSlots s
  let ok := (0 :: l.map (fun e => e.1 + e.2.n)).filter (fun a => decide (a + n ≤ 8000) && l.all (fun e => !slotsMeet a n e))
  match ok with
  | [] => none
  | a :: rest => some (rest.foldl min a)

/-- The run to evict: no key of it pinned, its most recently bound key bound least recently, the lowest such run. -/
def evictSlots (s : State) (n : Nat) : Option Nat :=
  let l := ownerSlots s
  let score := fun a => ((l.filter (slotsMeet a n)).map (fun e => e.2.lastUse)).foldl max 0
  let ok := (List.range (8001 - n)).filter (fun a => (l.filter (slotsMeet a n)).all (fun e => decide (e.2.pins = 0)))
  match ok with
  | [] => none
  | a :: rest => some (rest.foldl (fun b x => if score x < score b then x else b) a)

/-- A run of slots, keys in it evicted; none where pins leave none. -/
def findSlots (s : State) (n : Nat) : Option (Nat × State) :=
  match freeSlots s n with
  | some a => some (a, s)
  | none => (evictSlots s n).map (fun a => (a, { s with cache := s.cache.filter (fun e => decide (8000 ≤ e.1) || !slotsMeet a n e) }))

/-- A key bound later than every other. -/
def useClock (s : State) : Nat := 1 + ((ownerSlots s).map (fun e => e.2.lastUse)).foldl max 0

/-- A slot bound or pinned by a command. -/
def pinSlot (s : State) (n : Nat) : State :=
  let k := s.slot n
  pinCount (s.setSlot n { k with pins := k.pins + 1, lastUse := useClock s })

/-- The slot that holds a handle's key. -/
def cachedSlot (s : State) (h : Nat) : Option Nat := (s.cache.find? (fun e => decide (e.2.used ∧ e.2.handle = h ∧ h ≠ 0))).map Prod.fst

/-! ### Order 6: one key operand (Table 10.10) -/

/-- What a command in Ingress waits for: its vault fetch, or a run of slots. -/
def waitLoad : Nat := 80000
def waitSlots : Nat := 80001

/-- R232 for an operand and its slot. -/
def operandOk (c : Cmd) (h : FigHdr) (i : Nat) (k : KSlot) (sameDom : Bool) : Bool :=
  let d := nth (0, 0) h.keyDecl i
  let owner := decide (0x8000 ≤ h.fid)
  ((List.range 6).all (fun b => !bit d.1 b || classAdmits h.fid b c.dir k)) && decide (d.2 = 0 ∨ d.2 = k.bits) &&
    (owner || Config.accepts h.fid i k.binding) && decide (k.binding ≠ 8) &&
    (!owner || !(decide (k.binding ∈ [6, 7, 0x15]) || bit d.1 5) || bit k.flags 0) && sameDom

/-- The binding whose row of Table 6.8 operand 0 takes (R234). -/
def counterBinding (s : State) (hd : Nat) (k : KSlot) : Nat := if bit k.attr aDerive then (s.obj (hRec hd)).cBinding else k.binding

/-- IVC of a RUN (R314). -/
def ivcOk (c : Cmd) (cb : Nat) : Bool :=
  if c.dir ∧ cb = 1 then (c.ivc.drop 12).all (fun o => decide (o = 0))
  else if c.dir ∧ cb = 2 then true
  else c.ivc.all (fun o => decide (o = 0))

/-- Does a run reach the end of a counter of 128 bits (Table 6.9, order 6)? -/
def counterEnds (c : Cmd) (cb : Nat) : Bool :=
  if c.figure = 0x0140 ∧ c.dir ∧ cb = 2 then
    decide (ofBe c.ivc + (Config.dataLength c.figure c.params c.inLen + 15) / 16 > 2 ^ 128)
  else if c.figure = 0x0150 ∨ c.figure = 0x0151 then
    let x := Config.xtsUnits c.params
    decide (x.1 + x.2 > 2 ^ 128)
  else false

/-- The counter base of an instance with its width (Table 6.8): the charged invocation value, or the host's. -/
def counterBase (s : State) (c : Cmd) (cb inv : Nat) : Nat × Nat :=
  if cb = 1 then
    (if c.dir then ofBe (c.ivc.take 12) * 2 ^ 32 + 1 else s.fixed * 2 ^ 96 + inv * 2 ^ 32 + 1, 32)
  else if cb = 2 then (if c.dir then ofBe c.ivc else s.fixed * 2 ^ 96 + inv * 2 ^ 32, 128)
  else (0, 128)

/-- How one operand's steps end. -/
inductive OperandEnd
  | bound (n : Nat)
  | fails (status r0 : Nat)
  | waits
  deriving DecidableEq, Repr

/-- Step 7: the key of a HEAD record loaded into slots. -/
def loadSlots (s : State) (hd r : Nat) : Option (Nat × State) :=
  let o := s.obj r
  let n := slotsFor o.binding o.bits
  (findSlots s n).map (fun x => (x.1, x.2.setSlot x.1 ⟨true, n, hd, o.mat, o.bits, o.binding, o.attr, o.flags, 0, 0⟩))

/-- Steps 1 to 7: the operand's slot. `fetched`: the vault fetch of a miss has completed. -/
def findKey (s : State) (c : Cmd) (hd : Nat) (fetched : Bool) : State × OperandEnd :=
  if s.domState (hDom hd) ≠ 1 then (s, .fails 0x43 4)
  else if s.rd Reg.KS_STAT_VAULT ≠ 2 then (s, .fails 0x43 3)
  else match cachedSlot s hd with
    | some n => (s, .bound n)
    | none =>
      if ¬ fetched ∧ c.wait ≠ [waitSlots] then
        let s := if c.wait = [waitLoad] then s
          else
            let v := s.rd2 Reg.KS_MISS_L Reg.KS_MISS_H + 1
            if v < 2 ^ 36 then s.wr2 Reg.KS_MISS_L Reg.KS_MISS_H v else (s.wr2 Reg.KS_MISS_L Reg.KS_MISS_H 0).flag Reg.KS_STAT_MSO true
        (s.onCmd c.uid (fun c => { c with wait := [waitLoad] }), .waits)
      else match openObj s hd false with
        | (s, .error e) => (s, .fails e.1 e.2)
        | (s, .ok r) =>
          match loadSlots s hd r with
          | none => (s.onCmd c.uid (fun c => { c with wait := [waitSlots] }), .waits)
          | some (n, s) => (s, .bound n)

/-- Does an earlier command wait for a lease of the same key (R239)? -/
def leaseBefore (s : State) (c : Cmd) (hd : Nat) : Bool :=
  (s.cmds.takeWhile (fun (x : Cmd) => decide (x.uid ≠ c.uid))).any (fun x => x.lease && decide (x.opc = 1 ∧ x.ph = CmdPhase.ingress ∧ x.handle x.keys.length = hd))

/-- A charge waits for its lease: the commit of its record's page. -/
def waitLease (s : State) (uid r order : Nat) : State :=
  s.onCmd uid (fun c => { c with lease := true, wait := [recPage r], order := order })

/-- Steps 9 and 10: the charges. -/
def chargeKey (s : State) (c : Cmd) (i hd cb : Nat) : State × OperandEnd :=
  let r := hRec hd
  let u := if c.order = 50 then (s, Charge.made 0) else chargeUsage s r
  match u with
  | (s, .refused st) => (s, .fails st 0)
  | (s, .waits) => (waitLease s c.uid r 5, .waits)
  | (s, .made _) =>
    if i = 0 ∧ ¬ c.dir ∧ (cb = 1 ∨ cb = 2) then
      match chargeInv s r with
      | (s, .refused st) => (s, .fails st 0)
      | (s, .waits) => (waitLease s c.uid r 50, .waits)
      | (s, .made v) => (s.onCmd c.uid (fun c => { c with inv := some v }), .bound v)
    else (s, .bound 0)

/-- Operand i of a command, from step 1 to step 10. -/
def operandStep (s : State) (c : Cmd) (h : FigHdr) (i : Nat) (fetched : Bool) : State × OperandEnd :=
  let hd := c.handle i
  match findKey s c hd fetched with
  | (s, .bound n) =>
    let k := s.slot n
    let cb := counterBinding s hd k
    let sameDom := decide (h.fid ≠ 0x0061) || decide (hDom (Config.attestSubject c.raw) = hDom c.key0)
    if ¬ operandOk c h i k sameDom then (s, .fails 0x20 0)
    else if i = 0 ∧ ¬ ivcOk c cb then (s, .fails 0x30 0)
    else if i = 0 ∧ counterEnds c cb then (s, .fails 0x12 0)
    else if leaseBefore s c hd then (s, .waits)
    else match chargeKey s c i hd cb with
      | (s, .bound v) =>
        let b := counterBase s c cb v
        let s := pinSlot s n
        (s.onCmd c.uid (fun c => { c with
          keys := c.keys ++ [some n], lease := false, wait := [], order := 5
          base := if i = 0 then b.1 else c.base, baseWidth := if i = 0 then b.2 else c.baseWidth }), .bound n)
      | r => r
  | r => r

/-- The operands left, in ascending number; after the last, order 6 is passed. -/
def operandSteps (h : FigHdr) : Nat → Bool → Nat → State → State
  | 0, _, _, s => s
  | fuel + 1, fetched, uid, s =>
    match s.cmd uid with
    | none => s
    | some c =>
      if c.order ≠ 5 ∧ c.order ≠ 50 then s
      else if c.keys.length ≥ h.nKeys then
        if h.nKeys = 0 ∧ ¬ ivcOk c 0 then refuseCmd s uid 0x30 0 else s.onCmd uid (fun c => { c with order := 6, wait := [] })
      else match operandStep s c h c.keys.length fetched with
        | (s, .bound _) => operandSteps h fuel false uid s
        | (s, .fails st r0) => refuseCmd s uid st r0
        | (s, .waits) => s

/-! ### Order 7: KPUT targets (R235) -/

/-- The KPUT targets of a figure. -/
def kputTargets (h : FigHdr) : List Nat := (List.range 8).filter (fun k => decide (h.nKeys ≤ k) && bit (nth (0, 0) h.keyDecl k).1 6)

/-- What the targets take: binding, attributes and length of the child of the lowest operand that derives, or of operand 0. -/
def kputTemplate (s : State) (c : Cmd) : Nat × Nat × Nat :=
  let slots := (List.range c.keys.length).filterMap (fun i => (nth none c.keys i).map (fun n => (c.handle i, s.slot n)))
  match slots.find? (fun e => bit e.2.attr aDerive), slots with
  | some e, _ => let o := s.obj (hRec e.1); (o.cBinding, o.cAttr, o.cBits)
  | none, e :: _ => (e.2.binding, e.2.attr, e.2.bits)
  | none, [] => (0, 0, 0)

/-- Empty slots pinned for n targets; none where pins leave too few. -/
def pinTargets (tp : Nat × Nat × Nat) : Nat → State → Option (List Nat × State)
  | 0, s => some ([], s)
  | n + 1, s =>
    match findSlots s 1 with
    | none => none
    | some (a, s) =>
      (pinTargets tp n (pinSlot (s.setSlot a ⟨true, 1, 0, [], tp.2.2, tp.1, tp.2.1, 0, 0, 0⟩) a)).map (fun x => (a :: x.1, x.2))

/-- Order 7; a figure without pages, and a replay that keeps its pages, has no grant to wait for. -/
def takeTargets (s : State) (uid : Nat) (h : FigHdr) : State :=
  match s.cmd uid with
  | none => s
  | some c =>
    if c.order ≠ 6 then s
    else match pinTargets (kputTemplate s c) (kputTargets h).length s with
      | none => s
      | some (l, s) => s.onCmd uid (fun c => { c with kput := l, order := if h.nPages = 0 ∨ c.pages ≠ [] then 8 else 7 })

/-! ### Order 9: staging (R124) -/

/-- The physical page of ring page i in the order of R124. -/
def ringPage (pages : List (List Nat)) (i : Nat) : Option Nat :=
  let n := max 1 pages.length
  let ring := nth [] pages (i % n)
  if ring = [] then none else ring[i / n % ring.length]?

/-- A ring block, counted in the order of R124: physical page and block. -/
def ringBlock (pages : List (List Nat)) (b : Nat) : Option Nat := (ringPage pages (b / 256)).map (fun p => 256 * p + b % 256)

/-- A page filled whole: octets, then zeros. -/
def fillOnePage (s : State) (p : Nat) (o : List Octet) : State :=
  let s := (List.range 256).foldl (fun s b => s.setHold (256 * p + b) (blockOf (octAt o (16 * b) 16))) s
  s.setPage p { s.page p with phase := .staged }

/-- The pages of a ring, in the order of R124. -/
def ringPages (pages : List (List Nat)) : List Nat :=
  (List.range (pages.flatten.length)).filterMap (ringPage pages)

/-- Every granted page filled with input and then zeros. -/
def fillRing (s : State) (pages : List (List Nat)) (o : List Octet) : State :=
  let l := ringPages pages
  ((List.range l.length).zip l).foldl (fun s e => fillOnePage s e.2 (octAt o (4096 * e.1) 4096)) s

/-- Octets over ring blocks from a block on. -/
def putRing (s : State) (pages : List (List Nat)) (b : Nat) (o : List Octet) : State :=
  ((List.range ((o.length + 15) / 16))).foldl (fun s i =>
    (ringBlock pages (b + i)).elim s (fun a => s.setHold a (blockOf (octAt o (16 * i) 16)))) s

/-- The ring block of a fixity figure's digest state record. -/
def fixityBlock (fid : Nat) : Nat := Config.fixityPlace fid / 16

/-- Does a command continue a saved digest (PHASE MIDDLE or LAST with an algorithm)? -/
def resumesDigest (c : Cmd) : Bool := decide (c.figure ∈ fixityFigures ∧ fixAlg (c.param 0) ≠ 0 ∧ 2 ≤ fixPhase (c.param 0))

/-- The ring staged; a saved digest state stands where the image reads it. -/
def stageRing (s : State) (c : Cmd) (h : FigHdr) (o : List Octet) : State :=
  let o := o.take h.ring
  let s := fillRing s c.pages o
  let s := if resumesDigest c then putRing s c.pages (fixityBlock c.figure) (fitOctets 256 (s.ctxOf c.func (fixCtx (c.param 0))).2) else s
  s.onCmd c.uid (fun c => { c with order := 9, inp := o, staged := o.length })

/-- Staging that needs no read of host memory: no input, input in the command, or a replay's kept input. -/
def stageNow (s : State) (uid : Nat) (h : FigHdr) : State :=
  match s.cmd uid with
  | none => s
  | some c =>
    if c.order ≠ 8 then s
    else if c.replayed ∧ c.pages ≠ [] ∧ c.inp ≠ [] then stageRing s c h c.inp
    else if c.inLen = 0 then stageRing s c h []
    else if c.inlined then stageRing s c h (octAt c.raw c.inlineAt c.inLen)
    else s

/-! ### Order 10: random words (R127, R215, R216) -/

/-- The words to reserve, and the class of the request. -/
def wordsFor (c : Cmd) (h : FigHdr) : Nat × Nat :=
  if c.figure = 0x0040 ∨ c.figure = 0x0041 then (c.outLen / 2, 4)
  else (h.rndWords * (h.repeatMax + 1), if 0x8000 ≤ c.figure then 4 else 3)

/-- Order 10: the reservation is made. -/
def reserveWords (s : State) (uid : Nat) (h : FigHdr) : State :=
  match s.cmd uid with
  | none => s
  | some c =>
    if c.order ≠ 9 then s
    else
      let w := wordsFor c h
      if w.1 = 0 then s.onCmd uid (fun c => { c with order := 10 })
      else if s.drbg.isNone ∨ (w.2 = 4 ∧ s.on Reg.RNG_STAT_RAW_OPEN) then refuseCmd s uid 0x70 0
      else serveEntropy 16 ((s.onCmd uid (fun c => { c with order := 10, rnd := [], rndWant := w.1 })).setEnt (fun e => { e with
        reqs := e.reqs ++ [⟨w.2, uid, w.1, decide (c.figure = 0x0041)⟩] }))

/-! ### The orders together -/

/-- A command goes as far as its prerequisites allow. -/
def advance (s : State) (uid : Nat) (fetched : Bool) : State :=
  match (s.cmd uid).bind (fun c => s.figHdr c.figure) with
  | none => s
  | some h => reserveWords (stageNow (takeTargets (operandSteps h 9 fetched uid s) uid h) uid h) uid h

/-- Orders 1 to 5. -/
def firstOrders (s : State) (c : Cmd) : State :=
  match tenantRefusal s with
  | some e => refuseCmd s c.uid e.1 e.2
  | none =>
    if frozenFn s c.func then refuseCmd s c.uid 0x60 0
    else if ¬ permitted s c.func c.figure then refuseCmd s c.uid 0x40 0
    else if ¬ figurePlaceable s c.func c.figure then refuseCmd s c.uid 1 0
    else match s.figHdr c.figure with
      | none => refuseCmd s c.uid 1 0
      | some h =>
        if ¬ shapeOkRun s c h then refuseCmd s c.uid 0x30 0
        else advance (s.onCmd c.uid (fun c => { c with order := 5 })) c.uid false

/-- The oldest command of a queue and CID that satisfies a test. -/
def findCmd (s : State) (r : CmdRef) (p : Cmd → Bool) : Option Cmd :=
  s.cmds.find? (fun c => decide (c.func = r.f ∧ c.queue = r.q ∧ c.cid = r.cid.toNat) && p c)

/-- RUN: ingress takes the command through Table 5.2. -/
def runIngress (s : State) (r : CmdRef) : State :=
  (findCmd s r (fun c => decide (c.opc = 1 ∧ c.ph = CmdPhase.ingress ∧ c.order = 0))).elim s (firstOrders s)

/-- A vault fetch is done: order 6 goes on from step 3. -/
def loadArrived (s : State) (r : CmdRef) : State :=
  (findCmd s r (fun c => decide (c.opc = 1 ∧ c.ph = CmdPhase.ingress ∧ c.wait = [waitLoad]))).elim s (fun c =>
    advance (s.onCmd c.uid (fun c => { c with wait := [] })) c.uid true)

/-- Input has arrived: the ring before placement, then one page after another that has been drained (R124, R125). -/
def stageArrived (s : State) (r : CmdRef) (data : List Octet) : State :=
  match findCmd s r (fun c => decide (c.opc = 1) && (decide (c.ph = CmdPhase.ingress ∧ c.order = 8) ||
      (decide (c.ph = CmdPhase.placed) && c.refill.any (fun p => decide ((s.page p).phase = .drained))))) with
  | none => s
  | some c =>
    match s.figHdr c.figure with
    | none => s
    | some h =>
      if c.ph = CmdPhase.ingress then reserveWords (stageRing s c h (fitOctets (min c.inLen h.ring) data)) c.uid h
      else match c.refill.find? (fun p => decide ((s.page p).phase = .drained)) with
        | none => s
        | some p =>
          let n := min 4096 (c.inLen - c.staged)
          (fillOnePage s p (fitOctets n data)).onCmd c.uid (fun c => { c with refill := c.refill.erase p, staged := c.staged + n })

/-- The octets of a hold page. -/
def pageHeld (s : State) (p : Nat) : List Octet := (List.range 256).flatMap (fun b => octetsOf (s.hold (256 * p + b)))

/-- Is any page of a command's instance retired by a double-bit error? -/
def pagesBad (s : State) (c : Cmd) : Bool := c.pages.flatten.any (fun p => (s.page p).retired)

/-- A released page has been drained (R125): its octets belong to the output. -/
def drainDone (s : State) (r : CmdRef) : State :=
  match findCmd s r (fun c => decide (c.ph = CmdPhase.placed) && c.refill.any (fun p => decide ((s.page p).phase = .released))) with
  | none => s
  | some c =>
    match c.refill.find? (fun p => decide ((s.page p).phase = .released)) with
    | none => s
    | some p =>
      if pagesBad s c then s
      else
        let o := (pageHeld s p).take (c.outLen - c.out.length)
        let s := (s.setPage p { s.page p with phase := .drained }).onCmd c.uid (fun c => { c with
          out := c.out ++ o, drained := c.drained + 1, outw := c.out.length + o.length })
        { s with floor := { s.floor with seqs := s.floor.seqs.map (fun e =>
          match e.2.inst with
          | some i => if i.uid = c.uid then (e.1, { e.2 with inst := some { i with drained := true } }) else e
          | none => e) } }

def execRun (r : CmdRef) (s : State) : Out := done (runIngress s r)
def execKeyCacheLoadDone (r : CmdRef) (s : State) : Out := done (loadArrived s r)
def execStagingDmaDone (r : CmdRef) (data : List Octet) (s : State) : Out := done (stageArrived s r data)
def execPageDrainDone (r : CmdRef) (s : State) : Out := done (drainDone s r)

end Sys2Proof.Machine
end

