-- ==== Sys2Proof/Machine/Boundary.lean ====
section
/-! DEFINITION. The measure boundary (R92): ends, stops and repeats, release and clearing, completions, replays, the live card, residency, page
grants, placement, PRESSURE. -/
namespace Sys2Proof.Machine

/-! ### Release (R94) -/

/-- The registers of a column's unit cleared; the randomness buffers of lanes are no owner state (R146). -/
def clearColumn (s : State) (col : Nat) : State :=
  if col < 128 then
    (List.range 8).foldl (fun s j => s.setLane (8 * col + j) { Lane.zero with rnd := (s.lane (8 * col + j)).rnd }) (s.setGroup col Group.zero)
  else if col < 160 then s.setXt (col - 128) XtUnit.zero
  else if col < 224 then s.setDu (col - 160) DigestUnit.zero
  else if col < 240 then s.setNu (col - 224) NumUnit.zero
  else s

/-- An instance leaves its sequencer: units, sequencer and KPUT slots are cleared. -/
def releaseUnits (s : State) (q : Nat) (i : Inst) : State :=
  let s := i.cols.foldl clearColumn s
  let s := i.kput.foldl (fun s n => s.setSlot n { s.slot n with mat := [] }) s
  s.setSeq q { Seq.zero with fmem := (s.seq q).fmem }

/-! ### Completion of a run (R130) -/

/-- The status of a run that ended. -/
def endStatus (i : Inst) : Nat :=
  if i.earlyRead then 0x7F
  else if i.rejected ∨ i.digErr then 0x30
  else if i.hdr.auth ∧ i.auth = some false then (if i.drained then 0x11 else 0x10)
  else 0

/-- The octets of a command's output in the order of R124, from the first page not yet drained. -/
def restOfOutput (s : State) (c : Cmd) : List Octet :=
  let n := c.outLen - c.out.length
  ((List.range ((n + 4095) / 4096)).flatMap (fun k => (ringPage c.pages (c.drained + k)).elim [] (pageHeld s))).take n

/-- The output of an RNG figure: bits [15:0] of each reserved word, the high octet first (R216). -/
def rngOutput (c : Cmd) : List Octet := (c.rnd.flatMap (fun w => beOctets 2 (w.toNat % 65536))).take c.outLen

/-- The digest state of a fixity figure: FIRST and MIDDLE store the record that the run left in its ring, LAST clears the entry (Table 7.2). -/
def storeContext (s : State) (c : Cmd) : State :=
  let w := c.param 0
  if c.figure ∉ fixityFigures ∨ fixAlg w = 0 ∨ fixPhase w = 0 then s
  else
    let x := s.fn c.func
    if fixPhase w = 3 then s.setFn c.func { x with ctx := tdel x.ctx (fixCtx w) }
    else
      let o := (List.range 16).flatMap (fun k => (ringBlock c.pages (fixityBlock c.figure + k)).elim [] (fun a => octetsOf (s.hold a)))
      s.setFn c.func { x with ctx := tput x.ctx (fixCtx w) (2, o) }

/-- Hold pages cleared before they return to the pool. -/
def wipePages (s : State) (pages : List (List Nat)) : State :=
  pages.flatten.foldl (fun s p => (List.range 256).foldl (fun s b => s.setHold (256 * p + b) 0) s) s

/-- A command's completion is formed: output, result words and fixity field belong to OK and ABORT_LATE; any other status keeps only what has
been drained (R130, R316, Table 6.11). -/
def formCompletion (s : State) (c : Cmd) (i : Inst) (status : Nat) : State :=
  if status = 0 ∨ status = 2 then
    let out := if c.figure = 0x0040 ∨ c.figure = 0x0041 then rngOutput c else c.out ++ restOfOutput s c
    let s := storeContext s c
    endCmd (dropReqs (releasePages s c.uid) c.uid) c.uid (fun c => { c with
      status := status, res := i.res, fix := i.fixity, out := out, outw := out.length })
  else
    let s := if i.hdr.auth then wipePages s c.pages else s
    endCmd (dropReqs (releasePages s c.uid) c.uid) c.uid (fun c => { c with status := status, res := [], outw := c.out.length })

/-! ### Replay (R135) -/

/-- May a stopped instance be replayed: once, with no page drained and its input still whole in its pages? -/
def canReplay (s : State) (c : Cmd) (i : Inst) : Bool :=
  !c.replayed && !i.drained && decide (c.refill = [] ∧ i.released = []) &&
    decide ((((ringPages c.pages).flatMap (pageHeld s)).take c.inp.length) = c.inp ∧ c.staged = c.inp.length ∧ c.inp.length = min c.inLen i.hdr.ring)

/-- The command returns to order 5 with its pages; charges and words are made anew. -/
def replay (s : State) (c : Cmd) : State :=
  (releasePins (dropReqs s c.uid) c).onCmd c.uid (fun c => { c with
    ph := .ingress, order := 5, keys := [], kput := [], inv := none, rnd := [], rndWant := 0, replayed := true, reels := c.reels })

/-! ### One sequencer at a boundary -/

/-- How a sequencer's instance leaves it at this boundary. -/
inductive Leaving
  | ends (status : Nat)
  | replays
  | removed
  deriving DecidableEq, Repr

/-- Does an instance end, stop or leave; none where it runs on or repeats (Tables 5.3, 5.4)? -/
def leaving (s : State) (c : Option Cmd) (i : Inst) : Option Leaving :=
  let aborted := c.any (fun c => c.abortAt.isSome)
  let last := i.ended.isSome && !i.again
  match i.stop with
  | some .flr => some .removed
  | some .keyAttr => some (.ends 0x20)
  | some .fault => some (.ends 0x7F)
  | some .abort => some (.ends 1)
  | some .replayable => if !aborted && c.any (fun c => canReplay s c i) then some .replays else some (.ends 0x7F)
  | none =>
    match i.bstop with
    | some .replayable => if !aborted && c.any (fun c => canReplay s c i) then some .replays else some (.ends 0x7F)
    | some _ => some (.ends 0x7F)
    | none =>
      if last then
        let st := endStatus i
        some (.ends (if aborted ∧ st = 0 then 2 else st))
      else if aborted then some (.ends 1)
      else none

/-- An abort that waits for this target completes: result word 0 is 1 where the target was stopped by it, else 2 (Table 5.3). -/
def resolveAborts (s : State) (uid r0 : Nat) : State :=
  (s.cmds.filter (fun (a : Cmd) => decide (a.opc = 2 ∧ a.ph = CmdPhase.ingress ∧ a.inv = some uid))).foldl (fun s a =>
    endCmd s a.uid (fun a => { a with status := 0, res := [(0, BitVec.ofNat 18 r0)] })) s

/-- Pages released before this boundary whose drain starts now (R125). -/
def startDrains (s : State) (q : Nat) (i : Inst) (l : List Nat) : State :=
  match s.cmd i.uid with
  | none => s
  | some c =>
    if l = [] ∨ (i.hdr.auth ∧ ¬ s.on (Reg.Q_CTL_STREAM (qx c.func c.queue)) ∧ i.auth ≠ some true) then s
    else
      (s.onCmd c.uid (fun c => { c with refill := c.refill ++ l })).onInst q (fun i => { i with
        released := i.released.filter (fun p => !decide (p ∈ l)) })

/-- The boundary for one sequencer: results land, its instance ends, stops, repeats or runs on. -/
def boundarySeq (m : Nat) (s : State) (q : Nat) : State :=
  match (s.seq q).inst with
  | none => s
  | some i0 =>
    let t := 360 * ((m + 2 ^ 36 - i0.start) % 2 ^ 36)
    let s := landDue s q (t - 1)
    let rel := ((s.seq q).inst.map Inst.released).getD []
    let s := landDue s q t
    match (s.seq q).inst with
    | none => s
    | some i =>
      let c := s.cmd i.uid
      match leaving s c i with
      | none =>
        if i.again then
          (s.setSeq q { s.seq q with body := if i.hdr.body then i.p else 0 }).onInst q (fun i => { i with run := i.run + 1, start := m, cyc := 0, step := 0, ended := none, again := false, flight := [] })
        else startDrains s q i rel
      | some l =>
        let s := releaseUnits s q i
        match c, l with
        | none, _ => s
        | some c, .removed => releaseAll { s with cmds := s.cmds.filter (fun (x : Cmd) => decide (x.uid ≠ c.uid)) } c
        | some c, .replays => replay s c
        | some c, .ends st => resolveAborts (formCompletion s c i st) c.uid (if st = 1 then 1 else 2)

/-- Every instance removed without a completion (R21, R445). -/
def stopFloor (s : State) : State :=
  (List.range 64).foldl (fun s q =>
    match (s.seq q).inst with
    | none => s
    | some i =>
      let s := releaseUnits s q i
      match s.cmd i.uid with
      | none => s
      | some c => releaseAll { s with cmds := s.cmds.filter (fun (x : Cmd) => decide (x.uid ≠ c.uid)) } c) s

/-! ### The live card (R111) -/

/-- LEND_SPAN in effect: the register has no live copy, so it stands in a hidden field. -/
def liveSpan : Fld := ⟨0x30000000 + 2 ^ 45, 2, 6, 4, .ro, .warm⟩

/-- The live card takes the shadow card: entries of the shadow window stand 2^16 words further on in the live one. -/
def liveCard (t : Tab Nat) : Tab Nat :=
  let at_ := fun a => a * 256
  t.filter (fun e => decide (e.1 < at_ 0x30020000)) ++
    (t.filter (fun e => decide (at_ 0x30010000 ≤ e.1 ∧ e.1 < at_ 0x30014C00))).map (fun e => (e.1 + at_ 0x10000, e.2)) ++
    t.filter (fun e => decide (at_ 0x30024C00 ≤ e.1))

/-- COMMIT takes effect; the configurations that wait for it complete (R322). -/
def commitCard (s : State) : State :=
  if ¬ s.on Reg.FLOOR_CTL_COMMIT then s
  else
    let s := { s with regs := liveCard s.regs }
    let s := (s.flag Reg.FLOOR_STAT_LIVE_LEND (s.on Reg.FLOOR_CTL_LENDING)).wr liveSpan (s.rd Reg.FLOOR_CTL_LEND_SPAN)
    endWaiting (s.flag Reg.FLOOR_CTL_COMMIT false) waitCard

/-! ### Commands whose figure is gone (R108) -/

/-- Commands past order 4 and not placed complete with ABORTED once no valid entry of their figure remains for their function. -/
def dropUnpinned (s : State) : State :=
  (s.cmds.filter (fun (c : Cmd) => decide (c.opc = 1 ∧ (c.ph = CmdPhase.ready ∨ (c.ph = CmdPhase.ingress ∧ c.order ≠ 0))) &&
      !figurePlaceable s c.func c.figure)).foldl (fun s c => refuseCmd s c.uid 1 0) s

/-- FIXED of a joiner takes its value once the roster's records are committed (R400). -/
def applyFixed (s : State) : State :=
  let pages := (s.vault.recs.filter (fun e => decide (leAt e.2 1 1 = bRoster))).map (fun e => recPage e.1)
  match s.plx.fixedNext with
  | some v =>
    if pages.any (fun p => decide (p ∈ s.vault.dirty) || s.vault.commit.any (fun c => decide (p ∈ c.pages))) then s
    else plxRefresh (((setFixed (s.setPlx (fun p => { p with fixedNext := none })) v).flag Reg.PLX_CMD_GO false).wr Reg.PLX_CMD_STATUS 0)
  | none => s

/-! ### Page grants (R122, R123, R137) -/

/-- Functions in the admission order of a boundary. -/
def admissionOrder (m : Nat) (l : List Nat) : List Nat :=
  let start := m % 2050
  (l.filter (fun f => decide (start ≤ f))) ++ l.filter (fun f => decide (f < start))

/-- Does a function own an LG column of a reel? -/
def ownsReel (s : State) (f r : Nat) : Bool := (List.range 4).any (fun k => ownsColumn s f (4 * r + k))

/-- The functions that hold grants, ascending. -/
def allFunctions (s : State) : List Nat := grantHolders s 4096

/-- The reservations of a reel in effect: ascending, until 64 pages are given (R137). -/
def reservations (s : State) (r : Nat) : List (Nat × Nat) :=
  ((((allFunctions s).filter (fun f => ownsReel s f r)).foldl (fun (acc : List (Nat × Nat) × Nat) f =>
    let n := min (min 64 (s.rd (Reg.ADM_PAGES_RSV f))) acc.2
    (acc.1 ++ [(f, n)], acc.2 - n)) ([], 64))).1

/-- Pages of a reel that commands hold: a function's from its reservation, and those from the shared pool. -/
def heldRsv (s : State) (r f : Nat) : Nat :=
  ((List.range 64).filter (fun k => let p := s.page (64 * r + k); p.owner.isSome && p.fromRsv && decide (p.func = f))).length
def heldShared (s : State) (r : Nat) : Nat := ((List.range 64).filter (fun k => let p := s.page (64 * r + k); p.owner.isSome && !p.fromRsv)).length

/-- Pages of a function's reservation and of the shared pool that can be granted in a reel; retired pages reduce the pool. -/
def grantable (s : State) (f r : Nat) : Nat × Nat :=
  let rsv := reservations s r
  let mine := ((rsv.find? (fun e => decide (e.1 = f))).map Prod.snd).getD 0
  let retired := ((List.range 64).filter (fun k => (s.page (64 * r + k)).retired)).length
  let pool := 64 - retired - ((rsv.map (fun e => max e.2 (heldRsv s r e.1))).sum)
  (mine - heldRsv s r f, pool - heldShared s r)

/-- The free pages of a reel, ascending. -/
def freePages (s : State) (r : Nat) : List Nat :=
  ((List.range 64).map (fun k => 64 * r + k)).filter (fun p => (s.page p).owner.isNone && !(s.page p).retired)

/-- Can n pages of a reel be granted to a function? -/
def canGrant (s : State) (f r n : Nat) : Bool :=
  let g := grantable s f r
  decide (n ≤ g.1 + g.2 ∧ n ≤ (freePages s r).length)

/-- n pages of a reel granted to a command. -/
def grantPages (s : State) (uid f r n : Nat) : List Nat × State :=
  let own := min n (grantable s f r).1
  let l := (freePages s r).take n
  (l, ((List.range n).zip l).foldl (fun (s : State) (e : Nat × Nat) => s.setPage e.2 ⟨some uid, f, decide (e.1 < own), .staged, false⟩) s)

/-- Does a function own the LG and XT columns that a logical reel declares, in a reel? -/
def ownsDeclared (s : State) (f : Nat) (h : FigHdr) (l r : Nat) : Bool :=
  let want := fun t => (h.units.filter (fun u => decide (u = (t, l)))).length
  decide (want uLG ≤ ((List.range 4).filter (fun k => ownsColumn s f (4 * r + k))).length ∧
    want uXT ≤ b2n (ownsColumn s f (128 + r)))

/-- The physical reels of logical reels 0 to n - 1: each the lowest that serves and is not taken. -/
def chooseReels (ok : Nat → Nat → Bool) : Nat → Option (List Nat)
  | 0 => some []
  | n + 1 => (chooseReels ok n).bind (fun l =>
      ((List.range 32).find? (fun r => decide (r ∉ l) && ok n r)).map (fun r => l ++ [r]))

/-- A command's grant, all or nothing. -/
def tryGrant (s : State) (c : Cmd) (h : FigHdr) : Option State :=
  let n := h.nPages
  if h.nReels = 0 then
    ((List.range 32).find? (fun r => canGrant s c.func r n)).map (fun r =>
      let (l, s) := grantPages s c.uid c.func r n
      s.onCmd c.uid (fun c => { c with reels := [], pages := [l], order := 8 }))
  else
    (chooseReels (fun l r => ownsDeclared s c.func h l r && canGrant s c.func r n) h.nReels).map (fun reels =>
      let (pages, s) := reels.foldl (fun (acc : List (List Nat) × State) r =>
        let (l, s) := grantPages acc.2 c.uid c.func r n
        (acc.1 ++ [l], s)) ([], s)
      s.onCmd c.uid (fun c => { c with reels := reels, pages := pages, order := 8 }))

/-- The requests of one queue, in submission order: the first that loses holds back the rest, or completes with NO_BUFFER where the queue is
fail-fast. -/
def grantQueue (ff : Bool) : List Cmd → State → State
  | [], s => s
  | c :: l, s =>
    match s.figHdr c.figure with
    | none => grantQueue ff l s
    | some h =>
      match tryGrant s c h with
      | some s => grantQueue ff l (advance s c.uid false)
      | none => if ff then grantQueue ff l (refuseCmd s c.uid 3 0) else s

/-- The queues in which a function has commands in a phase, ascending. -/
def queuesWith (s : State) (f : Nat) (p : Cmd → Bool) : List Nat :=
  (List.range 256).filter (fun q => s.cmds.any (fun c => decide (c.func = f ∧ c.queue = q) && p c))

/-- Every grant of a boundary. -/
def grants (m : Nat) (s : State) : State :=
  let asks := fun (c : Cmd) => decide (c.opc = 1 ∧ c.ph = CmdPhase.ingress ∧ c.order = 7)
  (admissionOrder m (allFunctions s)).foldl (fun s f => (queuesWith s f asks).foldl (fun s q =>
    grantQueue (s.on (Reg.Q_CTL_FAILFAST (qx f q))) (s.cmds.filter (fun c => decide (c.func = f ∧ c.queue = q) && asks c)) s) s) s

/-! ### Placement (R112, R113, R128) -/

/-- The card positions of a span that starts at a measure. -/
def positions (m d : Nat) : List Nat := (List.range (min 64 d)).map (fun k => (m + k) % 64)

/-- Does a function own a column at every position of a span? -/
def ownsAt (s : State) (f col : Nat) (ps : List Nat) : Bool := ps.all (fun p => decide (s.rd (Reg.CARD_LIVE col p) % 4096 = f))

/-- Is a column of another function offered at every position of a span? -/
def lentAt (s : State) (f col : Nat) (ps : List Nat) : Bool :=
  ps.all (fun p => let e := s.rd (Reg.CARD_LIVE col p); bit e 12 && decide (e % 4096 ≠ f ∧ e % 4096 < 2050))

/-- The columns that instances hold. -/
def heldColumns (s : State) : List Nat :=
  s.floor.seqs.flatMap (fun e => match e.2.inst with
    | some i => i.cols
    | none => [])

/-- The columns of a declared unit's type, within the reel of its logical reel where one is fixed. -/
def unitColumns (ty : Nat) (reel : Option Nat) : List Nat :=
  if ty = uLG then (match reel with
    | some r => (List.range 4).map (fun k => 4 * r + k)
    | none => List.range 128)
  else if ty = uXT then (match reel with
    | some r => [128 + r]
    | none => (List.range 32).map (fun r => 128 + r))
  else if ty = uDU then (List.range 64).map (fun k => 160 + k)
  else if ty = uNU then (List.range 16).map (fun k => 224 + k)
  else []

/-- The reel of a column, for units that lie in one. -/
def columnReel (ty col : Nat) : Option Nat := if ty = uLG then some (col / 4) else if ty = uXT then some (col - 128) else none

/-- Columns for declared units in entry order: the lowest binding, each unit on a lent column only when none of the function's own is free.
`map` holds the reel fixed for each logical reel. -/
def bindUnits (own lent : Nat → Bool) : List (Nat × Nat) → List (Nat × Nat) → List Nat → Option (List Nat)
  | [], _, _ => some []
  | (ty, l) :: rest, map, used =>
    if ty = 0 then (bindUnits own lent rest map used).map (fun cs => 304 :: cs)
    else
      let fixed := (map.find? (fun e => decide (e.1 = l))).map Prod.snd
      let free := (unitColumns ty fixed).filter (fun c => decide (c ∉ used) &&
        (fixed.isSome || (columnReel ty c).all (fun r => map.all (fun e => decide (e.2 ≠ r)))))
      let mine := free.filter own
      (if mine = [] then free.filter lent else mine).findSome? (fun c =>
        let map := if fixed.isSome then map else (columnReel ty c).elim map (fun r => (l, r) :: map)
        (bindUnits own lent rest map (c :: used)).map (fun cs => c :: cs))

/-- The entry of a sequencer that holds a figure valid. -/
def validEntry (s : State) (q fid : Nat) : Option Nat :=
  (List.range 16).find? (fun e => s.on (Reg.RES_VALID q e) && decide (s.rd (Reg.RES_FIGURE q e) = fid))

/-- The sequencer and columns that a command can have. -/
def findCells (m : Nat) (s : State) (c : Cmd) (h : FigHdr) : Option (Nat × List Nat) :=
  let d := h.spanOf c.p
  let ps := positions m d
  let held := heldColumns s
  let lend := s.on Reg.FLOOR_STAT_LIVE_LEND && decide (d ≤ max 1 (s.rd liveSpan))
  match (List.range 64).find? (fun q => (s.seq q).inst.isNone && (validEntry s q h.fid).isSome && ownsAt s c.func (240 + q) ps) with
  | none => none
  | some q =>
    (bindUnits (fun k => ownsAt s c.func k ps) (fun k => lend && lentAt s c.func k ps) h.units ((List.range c.reels.length).zip c.reels) held).map
      (fun cols => (q, cols))

/-- The physical reel of each logical reel of a binding. -/
def boundReels (h : FigHdr) (cols : List Nat) : List Nat :=
  (List.range h.nReels).map (fun l =>
    (((List.range h.units.length).filterMap (fun k =>
      let u := nth (0, 0) h.units k
      if u.2 = l then columnReel u.1 (nth 0 cols k) else none)).head?).getD 32)

/-- Key operands and KPUT targets by operand number. -/
def boundKeys (c : Cmd) (h : FigHdr) : List (Option Nat) :=
  let targets := kputTargets h
  (List.range 8).map (fun k => if k < h.nKeys then nth none c.keys k else if k ∈ targets then c.kput[targets.idxOf k]? else none)

/-- An instance placed (R112): its parameters stand in f16 upwards and P in f(P_REG) (R103, R105). -/
def place (m : Nat) (s : State) (c : Cmd) (h : FigHdr) (q : Nat) (cols : List Nat) : State :=
  let e := ((validEntry s q h.fid).map (fun e => s.rd (Reg.RES_BASE q e))).getD 0
  let i : Inst := ⟨c.uid, h, c.func, c.dir, c.p, 0, m, 0, 0, h.spanOf c.p, cols, if c.reels = [] then boundReels h cols else c.reels,
    boundKeys c h, c.kput, c.pages, c.rnd, c.base, c.baseSpent, c.baseWidth, none, none, [], none, [], false, none, false, false, none, false, false,
    none, c.replayed, [], e⟩
  let x := { Seq.zero with fmem := (s.seq q).fmem, inst := some i }
  let x := (List.range c.nparam).foldl (fun (x : Seq) k => x.setReg (16 + k) (BitVec.ofNat 18 (c.param k))) x
  let x := if h.body then { x.setReg h.pReg (BitVec.ofNat 18 c.p) with body := c.p } else x
  (s.setSeq q x).onCmd c.uid (fun c => { c with ph := .placed })

/-- The ready commands of one queue, in submission order: the first that cannot be placed holds back the rest. -/
def placeQueue (m : Nat) : List Cmd → State → State
  | [], s => s
  | c :: l, s =>
    match s.figHdr c.figure with
    | none => s
    | some h =>
      match findCells m s c h with
      | some (q, cols) => placeQueue m l (place m s c h q cols)
      | none => s

/-- Prerequisites met: Ready at this boundary. -/
def makeReady (s : State) : State :=
  { s with cmds := s.cmds.map (fun (c : Cmd) =>
    if c.opc = 1 ∧ c.ph = CmdPhase.ingress ∧ c.order = 10 ∧ c.rndWant ≤ c.rnd.length then { c with ph := .ready } else c) }

/-- Every placement of a boundary. -/
def placements (m : Nat) (s : State) : State :=
  let ready := fun (c : Cmd) => decide (c.ph = CmdPhase.ready)
  (admissionOrder m (allFunctions s)).foldl (fun s f => (queuesWith s f ready).foldl (fun s q =>
    placeQueue m (s.cmds.filter (fun c => decide (c.func = f ∧ c.queue = q) && ready c)) s) s) s

/-- Commands in Ingress that wait for a lease, for slots or for a shared load try again, in the order they arrived. -/
def retryIngress (s : State) : State :=
  (s.cmds.filter (fun (c : Cmd) => decide (c.opc = 1 ∧ c.ph = CmdPhase.ingress ∧ c.order ≠ 0 ∧ c.order ≠ 7 ∧
      (c.lease = false ∨ c.wait = [leaseReady])))).foldl (fun s c => advance s c.uid false) s

/-! ### PRESSURE (R133), the count, expanders -/

/-- One function's PRESSURE. -/
def pressureOf (s : State) (f : Nat) : State :=
  let n := (s.cmds.filter (fun c => decide (c.func = f ∧ (c.ph = CmdPhase.queued ∨ c.ph = CmdPhase.ingress)))).length
  let d := ((List.range 256).map (fun q => if s.on (Reg.Q_CTL_ENABLE (qx f q)) then s.depth (qx f q) else 0)).sum
  let put := fun (s : State) b => fnEvent ((s.flag (Reg.FUNC_STAT_PRESSURE f) b).flag (Reg.ADM_STAT_PRESSURE f) b) f 0
  let x := s.fn f
  if s.on (Reg.FUNC_STAT_PRESSURE f) then (if 8 * n < d then put (s.setFn f { x with press := 0 }) false else s)
  else if 2 * n > d then
    if x.press + 1 ≥ 1024 then put (s.setFn f { x with press := 0 }) true else s.setFn f { x with press := x.press + 1 }
  else if x.press = 0 then s else s.setFn f { x with press := 0 }

/-- The measure count: a statistics counter of 36 bits (Table 4.9). -/
def countMeasure (s : State) : State :=
  let m := s.mcount + 1
  if m < 2 ^ 36 then s.wr2 Reg.MCOUNT_L Reg.MCOUNT_H m else (s.wr2 Reg.MCOUNT_L Reg.MCOUNT_H 0).flag Reg.FLOOR_STAT_MCO true

/-- Every seeded expander completes 30 permutations a measure (R146). -/
def turnExpanders (s : State) : State :=
  { s with floor := { s.floor with expanders := s.floor.expanders.map (fun e => (e.1, if e.2.st = [] then e.2 else { e.2 with perms := e.2.perms + 30 })) } }

/-- Faults older than the window leave the lanes' counts (R159). -/
def pruneFaults (s : State) : State :=
  let now := s.mcount
  s.floor.faultAt.foldl (fun (s : State) (e : Nat × List Nat) =>
    let l := e.2.filter (fun t => decide (now < t + s.faultWindow))
    if l.length = e.2.length then s
    else
      let s := { s with floor := { s.floor with faultAt := tset [] s.floor.faultAt e.1 l } }
      setFwin s (e.1 / 32) (e.1 % 32) l.length) s

/-- Does the floor run: out of reset (end of Secure Boot), its clocks on? -/
def floorRuns (s : State) : Bool := decide (s.mode ≠ mBatteryHold ∧ s.mode ≠ mFuseLoad ∧ s.mode ≠ mSecureBoot ∧ s.mode ≠ mSleep)

/-- Cycles from the END of a sequencer's run to the boundary at measure `m`, 0 where it has none, and the command's number. -/
def runEnd (m : Nat) (s : State) (q : Nat) : Nat × Nat :=
  match (s.seq q).inst with
  | some i => (i.ended.elim 0 (fun t => 360 * ((m + 2 ^ 36 - i.start) % 2 ^ 36) - t), i.uid)
  | none => (0, 0)

/-- Did a run end before another one, or in the same cycle and was it submitted first (R131)? -/
def endedFirst (a b : Nat × Nat) : Bool := decide (b.1 < a.1 ∨ (b.1 = a.1 ∧ a.2 ≤ b.2))

/-- An element put into a list ordered by `le`. -/
def insertBy {α : Type} (le : α → α → Bool) (x : α) : List α → List α
  | [] => [x]
  | y :: l => if le x y then x :: y :: l else y :: insertBy le x l

/-- The sequencers that hold an instance, in the order in which their runs ended (R131). -/
def endOrder (m : Nat) (s : State) : List Nat :=
  (s.floor.seqs.map Prod.fst).foldr (insertBy (fun a b => endedFirst (runEnd m s a) (runEnd m s b))) []

/-- MEASURE_BOUNDARY. -/
def boundary (s : State) : State :=
  if ¬ floorRuns s then s
  else
    let s := pruneFaults (turnExpanders (countMeasure s))
    let m := s.mcount
    if s.halting then
      -- entry into Fault or a warm reset: the floor stops at this boundary
      let s := stopFloor s
      { s with halting := s.rst.warmReq.isSome }
    else
      let s := (endOrder m s).foldl (boundarySeq m) s
      let s := applyFixed (dropUnpinned (residencyBoundary (commitCard s)))
      if (tenantRefusal s).isSome then s
      else (allFunctions s).foldl pressureOf (placements m (makeReady (grants m (retryIngress s))))

def execMeasureBoundary (s : State) : Out := done (boundary s)

end Sys2Proof.Machine
end

