-- ==== Sys2Proof/Machine/Admin.lean ====
section
/-! DEFINITION. The commands other than RUN (Table 13.10): the checks of R470 in their order, then each operation, then its completion. -/
namespace Sys2Proof.Machine

/-! ### Step 1: what the spoof checks need of the argument block (Table 13.11, order 5) -/

/-- A function as an opener of ballots: 1 PF A, 2 PF B, 0 for a VF, which opens none (R265). -/
def openerCode (f : Nat) : Nat := if f < pfA then 0 else f - pfA + 1

/-- The status that a block's own octets give, 0 where they pass. -/
def blockSpoof (s : State) (c : Cmd) (blk : List Octet) : Nat :=
  let lead := isLead s c.func
  let own := fun d => decide (d ≠ 0 ∧ d ∈ ownedDomains s c.func)
  let ok := fun (b : Bool) => if b then 0 else 0x40
  if c.opc = 0x30 then (if lead ∨ leAt blk 2 1 = 0x13 then 0 else 0x41)
  else if c.opc = 0x31 then (if lead ∨ (s.ballot (leAt blk 0 1)).op = 0x13 then 0 else 0x41)
  else if c.opc = 0x10 then ok (own (leAt blk 0 2))
  else if c.opc = 0x14 then ok (own (hDom (leAt blk 0 8)))
  else if c.opc = 0x15 then ok (own (hDom (leAt blk 0 8)) && (decide (leAt blk 8 1 ≠ 2) || own (hDom (leAt blk 16 8))))
  else if c.opc = 0x16 then ok (own (leAt blk 0 2) && (decide (leAt blk 8 8 = 0) || own (hDom (leAt blk 8 8))))
  else if c.opc = 0x20 then
    let n := leAt blk 32 2
    if n > 64 then 0x30
    else ok (decide (pfA ≤ c.func) || (List.range n).all (fun i => own (leAt blk (36 + 2 * i) 2)))
  else 0

/-! ### Step 2: the mode (Table 1.8; log 29) -/

/-- Commands that serve commissioning, attestation, the journal's drain and what these need. -/
def bootOps : List Nat := [0x02, 0x20, 0x21, 0x22, 0x30, 0x31, 0x32, 0x33, 0x34, 0x43, 0x58, 0x59, 0x61, 0x6B]
def keyOps : List Nat := [0x10, 0x11, 0x12, 0x13, 0x14, 0x15, 0x16]
def vaultOps : List Nat := [0x3E, 0x50, 0x51, 0x52]

/-- The refusal of a command in the current mode. -/
def modeRefusal (s : State) (c : Cmd) (blk : List Octet) : Option (Nat × Nat) :=
  let o := c.opc
  if s.mode = mFault then (if o ∈ [0x20, 0x21, 0x22] then none else some (0x7F, 0))
  else if s.mode = mZeroized then
    if o ∈ bootOps ∨ ((o = 0x50 ∨ o = 0x51) ∧ s.tamp.root.isSome) then
      (if o ∈ [0x33, 0x34] ∧ ¬ commissionable s (openerCode c.func) then some (0x43, 6) else none)
    else if o ∈ keyOps ∨ o ∈ vaultOps then some (0x7E, 0) else some (0x43, 6)
  else if s.mode = mUncommissioned then
    if o ∈ bootOps ∨ o ∈ keyOps ∨ o ∈ vaultOps then
      (if o ∈ [0x33, 0x34] ∧ ¬ commissionable s (openerCode c.func) then some (0x43, 6) else none)
    else some (0x43, 6)
  else if s.mode = mDiagnostic ∨ s.mode = mDebug then
    let drain := o ∈ [0x02, 0x21, 0x3C] ∨ (o = 0x30 ∧ leAt blk 2 1 = 0x13) ∨ (o = 0x31 ∧ (s.ballot (leAt blk 0 1)).op = 0x13)
    if c.func < pfA ∨ (¬ isLead s c.func ∧ ¬ drain) then some (0x43, 22)
    else if o ∈ [0x33, 0x34] then some (0x43, 6) else none
  else if s.mode = mMigrationFreeze ∧ o ∈ [0x10, 0x11, 0x12, 0x14, 0x16] then some (0x60, 0)
  else if o ∈ [0x33, 0x34] then some (0x43, 6)
  else none

/-! ### Step 3: reserved fields (R314) -/

/-- Opcodes that a ballot may stand for (Table 13.10). -/
def quorumOps : List Nat :=
  [0x10, 0x11, 0x14, 0x15, 0x16, 0x34, 0x35, 0x36, 0x37, 0x38, 0x39, 0x3A, 0x3B, 0x3C, 0x3D, 0x3E, 0x3F, 0x40, 0x42, 0x43, 0x44, 0x46]

/-- Octets of SHORT that an opcode uses. -/
def shortUsed (o : Nat) : Nat :=
  if o ∈ [0x02, 0x45] then 4
  else if o = 0x21 ∨ o = 0x59 then 10
  else if o = 0x22 then 8
  else if o = 0x32 ∨ o = 0x6B then 1
  else if o ∈ [0x62, 0x63, 0x64, 0x66, 0x6A] then 2
  else if o = 0x68 then 5
  else if o ∈ quorumOps then 4
  else 0

/-- A reserved field that is not zero. -/
def reservedBad (c : Cmd) : Bool :=
  decide (c.flags / 8 % 8 ≠ 0 ∨ c.figure ≠ 0 ∨ c.p ≠ 0 ∨ c.nparam ≠ 0 ∨ (c.ballotId ≠ 0 ∧ c.opc ∉ quorumOps)) ||
    (c.short.drop (shortUsed c.opc)).any (fun o => decide (o ≠ 0))

/-! ### Step 4: the journal level (R293) -/

/-- Operations whose own records are of Reserve types, or that make none. -/
def journalExempt (s : State) (c : Cmd) (blk : List Octet) : Bool :=
  decide (c.opc ∈ [0x02, 0x13, 0x20, 0x21, 0x22, 0x32, 0x3C, 0x3D, 0x41, 0x45, 0x50, 0x51, 0x52, 0x65, 0x6A, 0x6B]) ||
    (decide (c.opc = 0x30) && decide (leAt blk 2 1 ∈ [0x0D, 0x13])) ||
    (decide (c.opc = 0x31) && decide ((s.ballot (leAt blk 0 1)).op ∈ [0x0D, 0x13]))

/-- Steps 1 to 4: the refusal, none where they pass. -/
def adminRefusal (s : State) (c : Cmd) (blk : List Octet) : Option (Nat × Nat) :=
  let sp := blockSpoof s c blk
  if sp ≠ 0 then some (sp, 0)
  else match modeRefusal s c blk with
    | some e => some e
    | none =>
      if reservedBad c then some (0x30, 0)
      else if s.journalFull ∧ ¬ journalExempt s c blk then some (0x44, 0)
      else none

/-! ### Step 5: the ballot (R268, Table 11.5) -/

/-- Has the key of a handle QUORUM_DESTROY? -/
def quorumDestroy (s : State) (h : Nat) : Bool :=
  let e := s.vmap (hRec h)
  decide (mapState e = 1 ∧ mapGen e = hGen h) && bit (s.obj (hRec h)).flags 1

/-- The OP and DOMAIN of the ballot that a command spends; none where it spends none. -/
def ballotNeed (s : State) (c : Cmd) (blk : List Octet) : Option (Nat × Nat) :=
  let given := decide (c.ballotId ≠ 0)
  let dom := leAt blk 0 2
  let kd := hDom c.key0
  match c.opc with
  | 0x10 => if given || bit (leAt blk 3 1) 0 then some (7, dom) else none
  | 0x11 => if given || bit (leAt blk 0 1) 0 then some (7, kd) else none
  | 0x14 => if given || quorumDestroy s c.key0 then some (8, kd) else none
  | 0x15 => some (6, hDom (leAt blk 0 8))
  | 0x16 => if given || unsignedTransfer (blk.drop 16) then some (9, dom) else none
  | 0x34 => some (0, 0)
  | 0x35 => some (1, dom)
  | 0x36 => some (2, dom)
  | 0x37 => some (3, dom)
  | 0x38 => some (4, dom)
  | 0x39 => some (5, dom)
  | 0x3A => some (0xB, 0)
  | 0x3B => some (0x12, 0)
  | 0x3C => some (0x13, 0)
  | 0x3D => some (0xD, 0)
  | 0x3E => some (0x11, 0)
  | 0x3F => some (0x14, 0)
  | 0x40 => some (0xA, dom)
  | 0x42 => some (0xC, 0)
  | 0x43 => if leAt blk 0 1 ≠ 2 ∧ s.mode ≠ mUncommissioned ∧ s.mode ≠ mZeroized then some (0xE, 0) else none
  | 0x44 => some (0xF, 0)
  | 0x46 => some (0x10, 0)
  | _ => none

/-! ### The command around its operation -/

/-- A command completes with what its operation answered: success that a commit must cover is held (R246); output is cut to OUT_LEN (log 34);
JSEQ names the last record made. -/
def answerCmd (s : State) (c : Cmd) (seq0 : Nat) (st r0 : Nat) (out : List Octet) (hold : List Nat) : State :=
  let out := if st = 0 then out.take c.outLen else []
  let put := fun (c : Cmd) => { c with
    status := st, res := [(0, BitVec.ofNat 18 r0)], out := out, outw := out.length, jseq := if s.jnl.seq = seq0 then c.jseq else s.jnl.seq }
  if st = 0 ∧ hold ≠ [] then s.onCmd c.uid (fun c => { put c with ph := .held, wait := hold })
  else endCmd s c.uid put

/-- An operation that has to wait stays in Ingress; one that waits for a lease keeps its place (R239). -/
def holdIngress (s : State) (c : Cmd) : State :=
  s.onCmd c.uid (fun c => if c.opc = 0x52 then { c with order := 1 } else { c with order := 1, lease := true, wait := [waitTable] })

/-- An operation of a command: state, command, master, argument block, trailer, the ballot it has spent. -/
abbrev AdminOp := State → Cmd → Who → List Octet → List Octet → Option Ballot → State × Rep

/-- Step 6 and the completion. -/
def operate (s : State) (c : Cmd) (blk trailer : List Octet) (x : Option Ballot) (op : AdminOp) (seq0 : Nat) : State :=
  match op s c (s.who c.func) blk trailer x with
  | (s, .wait) => holdIngress s c
  | (s, .fin st r0 out hold) => answerCmd s c seq0 st r0 out hold

/-- A command is refused with its status; NOT_LEAD sets the follower's NL (R275). -/
def refuseAdmin (s : State) (c : Cmd) (st r0 : Nat) : State :=
  let s := if st = 0x41 ∧ pfA ≤ c.func then s.flag (Reg.LEAD_STAT_NL (c.func - pfA)) true else s
  refuseCmd s c.uid st r0

/-- The checks of R470, then the operation. Order 1 marks a command that has passed them and waited. -/
def adminChecked (s : State) (c : Cmd) (blk trailer : List Octet) (op : AdminOp) : State :=
  let seq0 := s.jnl.seq
  if c.order = 1 then operate s c blk trailer none op seq0
  else match adminRefusal s c blk with
    | some e => refuseAdmin s c e.1 e.2
    | none =>
      match ballotNeed s c blk with
      | none => if c.opc = 0x43 ∧ c.ballotId ≠ 0 then refuseAdmin s c 0x30 0 else operate s c blk trailer none op seq0
      | some n =>
        match spendBallot s (s.who c.func) c.ballotId n.1 n.2 (openerCode c.func) blk with
        | (s, .error e) => answerCmd s c seq0 0x42 e [] []
        | (s, .ok x) => operate s c blk trailer (some x) op seq0

/-- The oldest command of a reference with an opcode, in Ingress and free to go on. -/
def adminCmd (s : State) (r : CmdRef) (opc : Nat) : Option Cmd :=
  findCmd s r (fun c => decide (c.opc = opc ∧ c.ph = CmdPhase.ingress ∧ c.inv = none ∧ (c.lease = false ∨ c.wait = [leaseReady])))

/-- A command other than RUN. The block has IN_LEN octets, the trailer TRAILER_LEN. -/
def adminRun (s : State) (r : CmdRef) (opc : Nat) (blk trailer : List Octet) (op : AdminOp) : State :=
  match adminCmd s r opc with
  | none => s
  | some c =>
    adminChecked (s.onCmd c.uid (fun c => { c with lease := false, wait := [] })) c (fitOctets c.inLen blk)
      (fitOctets (leAt c.short 0 4) trailer) op

/-! ### ABORT (Table 5.3) -/

/-- A placed target is settled at the next boundary, and the abort with it; any other outcome is known at once. -/
def abortOp (s : State) (r : CmdRef) : State :=
  match adminCmd s r 2 with
  | none => s
  | some c =>
    match adminRefusal s c [] with
    | some e => refuseAdmin s c e.1 e.2
    | none =>
      let ends := fun (s : State) r0 => endCmd s c.uid (fun c => { c with status := 0, res := [(0, BitVec.ofNat 18 r0)] })
      match s.cmds.find? (fun (t : Cmd) => decide (t.func = c.func ∧ t.queue = leAt c.short 0 2 ∧ t.cid = leAt c.short 2 2 ∧ t.uid ≠ c.uid)) with
      | none => ends s 0
      | some t =>
        if t.ph = CmdPhase.queued ∨ t.ph = CmdPhase.ingress ∨ t.ph = CmdPhase.ready then ends (refuseCmd s t.uid 1 0) 1
        else if t.ph = CmdPhase.placed then
          (s.onCmd t.uid (fun t => { t with abortAt := some 0 })).onCmd c.uid (fun c => { c with inv := some t.uid })
        else ends s 0

/-! ### Key objects and the quadrille (R406) -/

/-- The handle that an operation's output names. -/
def repHandle : Rep → Option Nat
  | .fin 0 _ out _ => some (leAt out 0 8)
  | _ => none

/-- A new or arrived object reaches the replicas; a replica's own keys do not change (R404). -/
def newKey (d : Nat) (s : State) (f : State → State × Rep) : State × Rep :=
  if s.role d = 2 then (s, .no 0x43 18)
  else
    let r := f s
    ((repHandle r.2).elim r.1 (plxKey r.1), r.2)

/-- A change of a key reaches the replicas where it succeeds. -/
def changeKey (h : Nat) (tell : State → Nat → State) (s : State) (f : State → State × Rep) : State × Rep :=
  if s.role (hDom h) = 2 then (s, .no 0x43 18)
  else
    let r := f s
    ((repHandle r.2).elim r.1 (fun _ => tell r.1 h), r.2)

/-! ### The journal (R291, R294) -/

/-- JOURNAL_READ: the records held from a SEQ, to the last one made. -/
def journalReadOp (s : State) (c : Cmd) : State × Rep :=
  let a := leAt c.short 0 8
  let n := leAt c.short 8 2
  let oldest := if s.jnl.flushed < s.jnl.cap then 1 else s.jnl.flushed - s.jnl.cap + 1
  if n = 0 ∨ n > 1024 then (s, .no 0x30 0)
  else if a > s.jnl.seq then (s, .ok [])
  else if a < oldest then (s, .no 0x30 0)
  else
    let all := s.jnl.mem.map Prod.snd ++ s.jnl.buf
    let l := ((List.range n).filterMap (fun i => all.find? (fun r => decide (r.seq = a + i)))).take (c.outLen / 64)
    (s, .fin 0 l.length (l.flatMap JRec.octets) [])

/-- JOURNAL_ACK. -/
def journalAckOp (s : State) (c : Cmd) : State × Rep :=
  let v := leAt c.short 0 8
  if v ≤ s.jnl.acked ∨ s.jnl.flushed < v then (s, .no 0x30 0)
  else (jlevelUpdate (s.setJnl (fun j => { j with acked := v })), .ok [])

/-- JOURNAL_CLEAR. -/
def journalClearOp (s : State) (c : Cmd) (w : Who) (blk : List Octet) : State × Rep :=
  let v := leAt blk 0 8
  let rebind := leAt blk 8 1
  if blk.length ≠ 16 ∨ rebind > 1 ∨ leAt blk 9 7 ≠ 0 ∨ v ≤ s.jnl.acked ∨ s.jnl.flushed < v then (s, .no 0x30 0)
  else
    let was := s.jnl.acked
    let s := s.setJnl (fun j => { j with acked := v, hdrOk := j.hdrOk || decide (rebind = 1) })
    let s := if rebind = 1 then s.flag Reg.JNL_STAT_UNAVAIL false else s
    (recordFor s w 0x0005 c.ballotId (leOctets 8 was ++ leOctets 8 v ++ leOctets 8 s.jnl.flushed), .ok [])

/-! ### Attestation (R299) -/

/-- ATTEST. -/
def attestOp (s : State) (c : Cmd) (blk : List Octet) : State × Rep :=
  let n := leAt blk 32 2
  if blk.length ≠ 36 + 2 * n ∨ leAt blk 34 2 ≠ 0 then (s, .no 0x30 0)
  else attestFor s (portOf s c.func) (octAt blk 0 32) ((List.range n).map (fun i => leAt blk (36 + 2 * i) 2))

/-! ### Lead, vault, firmware -/

/-- LEAD_TAKEOVER: the lead changed as the ballot was spent (R277); a block that names another taker is refused. -/
def takeoverOp (s : State) (c : Cmd) (blk : List Octet) : State × Rep :=
  if blk.length ≠ 8 ∨ leAt blk 1 7 ≠ 0 ∨ leAt blk 0 1 ≠ openerCode c.func then (s, .no 0x30 0) else (s, .ok [])

/-- VAULT_RESET (R260). -/
def vaultResetOp (s : State) (c : Cmd) (w : Who) (blk : List Octet) : State × Rep :=
  if blk ≠ fitOctets 16 Config.deviceSerial then (s, .no 0x30 0)
  else
    let s := recordFor (mcAllowedRefresh (resetVault s)) w 0x0213 c.ballotId []
    (plxRefresh s, .fin 0 0 [] s.vault.dirty)

/-- VAULT_LOAD: the registers that show membership follow a vault that is loaded. -/
def vaultLoadOp (s : State) (blk : List Octet) : State × Rep :=
  let r := loadOp s blk
  (if s.rd Reg.KS_STAT_VAULT ≠ 2 ∧ r.1.rd Reg.KS_STAT_VAULT = 2 then plxRefresh r.1 else r.1, r.2)

/-- FIRMWARE_STAGE (R418). -/
def firmwareStageOp (s : State) (c : Cmd) (w : Who) (blk : List Octet) : State × Rep :=
  if blk.length < 16 ∨ leAt blk 0 1 > 7 ∨ leAt blk 1 3 ≠ 0 ∨ leAt blk 12 4 ≠ 0 then (s, .no 0x30 0)
  else
    let r := stageBlock s (openerCode c.func) w.m blk
    (r.1, .no r.2.1 r.2.2)

/-- FIRMWARE_ACTIVATE (R419). -/
def firmwareActivateOp (s : State) (w : Who) (blk : List Octet) : State × Rep :=
  let slot := leAt blk 16 1
  let adv := leAt blk 17 1
  let img := s.slotImage slot
  let fails := fun (c : Nat) => (s.wr Reg.FW_STAT_STAGE_CODE c, Rep.no 0x30 c)
  if blk.length ≠ 72 ∨ blk.take 16 ≠ fitOctets 16 Config.deviceSerial ∨ leAt blk 18 2 ≠ 0 ∨ slot > 1 ∨ adv > 1 then (s, .no 0x30 0)
  else if s.mgmt.stage.any (fun x => decide (x.slot = slot)) then (s, .no 0x43 21)
  else
    let code := imageCode s img
    if code ≠ 0 then fails code
    else if leAt img 8 4 ≠ leAt blk 20 4 ∨ octAt img 0x50 48 ≠ octAt blk 24 48 then fails 9
    else if slot = s.rd Reg.FW_STAT_ACTIVE_SLOT then fails 10
    else
      let s := putBootBlock (s.wr Reg.FW_STAT_STAGE_CODE 0) (bootBlock s).2.1 slot (adv + 2 * b2n (bit (bootBlock s).2.2.2 1))
      let s := measNow s 8 (octAt blk 24 48)
      (recordFor s w 0x0901 slot (leOctets 4 (leAt blk 20 4)), .ok [])

/-! ### DEBUG_AUTHORISE (R347 to R350) -/

/-- Officer entries from the front of a string, and what follows them. -/
def splitEntries : Nat → List Octet → Option (List Octet × List Octet)
  | 0, o => some ([], o)
  | n + 1, o =>
    let len := 32 + leAt o 2 2
    if o.length < len then none else (splitEntries n (o.drop len)).map (fun r => (o.take len ++ r.1, r.2))

/-- Indexed signatures that fill a string. -/
def indexedSigs : Nat → List Octet → Option (List (Nat × List Octet))
  | 0, o => if o = [] then some [] else none
  | n + 1, o =>
    let len := leAt o 4 4
    if o.length < 8 + len ∨ leAt o 1 3 ≠ 0 then none
    else (indexedSigs n (o.drop (8 + len))).map (fun l => (leAt o 0 1, octAt o 8 len) :: l)

/-- Do the officers of a level-2 certificate counter-sign it? -/
def counterSigned (cert trailer : List Octet) : Bool :=
  let m := leAt cert 0x3C 1
  let n := leAt cert 0x3D 1
  if 2 ≤ m ∧ m ≤ n ∧ n ≤ 16 then
    match splitEntries n trailer with
    | none => false
    | some (entries, rest) =>
      match officerEntries 0 n 0 entries, indexedSigs m rest with
      | some mats, some sigs =>
        decide (sha384 entries = octAt cert 0x40 48) && decide ((sigs.map Prod.fst).dedup.length = m) &&
          sigs.all (fun e => decide (e.1 < n) && officerSigned (nth [] mats e.1) (cert.take 128) e.2)
      | _, _ => false
  else false

/-- Check 13 of R349. -/
def certificateOk (s : State) (keys cert trailer : List Octet) : Bool :=
  let lvl := leAt cert 6 1
  let dur := beAt cert 0x38 4
  decide (sha384 keys = Config.debugKeyDigest) && Config.verify 1 (keys.take 2592) (cert.take 128) (octAt cert 0x80 4627) &&
    Config.verify 2 (keys.drop 2592) (cert.take 128) (octAt cert 0x1293 96) &&
    decide (octAt cert 0 4 = [0x43, 0x4B, 0x44, 0x43] ∧ beAt cert 4 2 = 1 ∧ leAt cert 7 1 < 8 ∧ octAt cert 8 16 = fitOctets 16 Config.deviceSerial ∧
      octAt cert 0x18 32 = s.dbg.nonce ∧ 1 ≤ dur ∧ dur ≤ 86400 ∧ leAt cert 0x3E 2 = 0 ∧ leAt cert 0x70 16 = 0) &&
    (if lvl = 2 then counterSigned cert trailer else decide (leAt cert 0x3C 2 = 0 ∧ leAt cert 0x40 48 = 0))

/-- Check 14: the level in the current mode (Table 14.12). -/
def levelAccepted (s : State) (lvl : Nat) : Bool :=
  decide ((lvl = 1 ∧ s.mode = mOperational) ∨ (lvl = 2 ∧ (s.mode = mUncommissioned ∨ s.mode = mZeroized)))

/-- A session opens. -/
def openDebug (s : State) (w : Who) (cert : List Octet) : State :=
  let lvl := leAt cert 6 1
  let dur := beAt cert 0x38 4
  let dig := sha384 cert
  let s := recordFor (measNow s 7 dig) w 0x0602 lvl (dig.take 16)
  let s := ((s.flag Reg.DBG_STAT_ACTIVE true).wr Reg.DBG_STAT_LEVEL lvl).wr Reg.DBG_STAT_TARGETS (leAt cert 7 1)
  let s := { s with dbg := { s.dbg with ticks := 32768 * dur, cert := dig, fromMode := s.mode } }.wr Reg.DBG_LEFT (min dur 0x3FFFF)
  if lvl = 2 then setMode s mDebug 9 else s

/-- DBG_NONCE takes a fresh value. -/
def renewNonce (s : State) : State :=
  let r := drawRandom s 32
  { r.2 with dbg := { r.2.dbg with nonce := r.1 } }

/-- DEBUG_AUTHORISE. -/
def debugOp (s : State) (w : Who) (blk trailer : List Octet) : State × Rep :=
  let act := leAt blk 0 1
  if blk.length < 8 ∨ leAt blk 1 7 ≠ 0 ∨ (act ≠ 1 ∧ act ≠ 2) ∨ (act = 2 ∧ blk.length ≠ 8) then
    (if act = 1 then renewNonce s else s, .no 0x30 0)
  else if act = 2 then (endDebugNow s, .ok [])
  else if blk.length ≠ 7548 then (renewNonce s, .no 0x30 0)
  else
    let keys := octAt blk 8 2689
    let cert := blk.drop 2697
    if ¬ certificateOk s keys cert trailer then (renewNonce s, .no 0x43 13)
    else if ¬ levelAccepted s (leAt cert 6 1) then (renewNonce s, .no 0x43 14)
    else if s.on Reg.DBG_STAT_ACTIVE then (renewNonce s, .no 0x43 15)
    else (renewNonce (openDebug s w cert), .ok [])

/-! ### Raw entropy (R217, R218) -/

/-- RAW_ENTROPY: RAW_PERMIT. -/
def rawEntropyOp (s : State) (blk : List Octet) : State × Rep :=
  if blk ≠ fitOctets 16 Config.deviceSerial then (s, .no 0x30 0) else (s.flag Reg.RNG_STAT_RAW_PERMIT true, .ok [])

/-- RAW_READ: the capture buffer from an offset. -/
def rawReadOp (s : State) (c : Cmd) : State × Rep :=
  let off := leAt c.short 0 4
  let n := 128 * (s.rd Reg.RAW_CTL_COUNT + 1)
  let base := 2 * (s.rd2 Reg.RAW_BASE_L Reg.RAW_BASE_H / 64 * 64 - 0x400000000)
  (s, .ok (s.dramOctets (base + off) (min c.outLen (n - off))))

/-- Is a figure of the host-random class (R215)? -/
def hostRandom (s : State) (fid : Nat) : Bool :=
  decide (fid = 0x0040 ∨ fid = 0x0041) || (decide (0x8000 ≤ fid) && (s.figHdr fid).any (fun h => decide (h.rndWords ≠ 0)))

/-- RAW_CTL.GO: raw access opens and the capture starts; a retired source sets ABORT at once (Table 9.9). -/
def rawGo (s : State) (sc : Nat) (restart : Bool) (n : Fin 8) (count : Nat) : State :=
  if ¬ s.on Reg.RNG_STAT_RAW_PERMIT then lockViolation s sc true true 0x30140050
  else if s.mode ≠ mDiagnostic ∨ s.on Reg.RAW_CTL_GO then s
  else
    let s := ((s.flag Reg.RAW_CTL_MODE restart).wr Reg.RAW_CTL_SOURCE n).wr Reg.RAW_CTL_COUNT count
    let s := (s.flag Reg.RAW_STAT_ABORT false).flag Reg.RAW_STAT_HEALTH false
    if s.rd (Reg.SRC_STAT_STATE n) = srcRetired then s.flag Reg.RAW_STAT_ABORT true
    else
      let s := (s.cmds.filter (fun (c : Cmd) => decide (c.opc = 1 ∧ c.ph = CmdPhase.ingress) && hostRandom s c.figure)).foldl
        (fun s c => refuseCmd s c.uid 0x70 0) s
      let s := if s.on Reg.RNG_STAT_RAW_OPEN ∧ s.ent.rawSrc ≠ n ∧ s.rd (Reg.SRC_STAT_STATE s.ent.rawSrc) = srcRaw then srcRestart s s.ent.rawSrc else s
      let opened := s.on Reg.RNG_STAT_RAW_OPEN
      let s := ((s.wr (Reg.SRC_STAT_STATE n) srcRaw).flag Reg.RNG_STAT_RAW_OPEN true).setEnt (fun e => { e with
        rawSrc := n, rawRestart := restart, run := tdel e.run n })
      let s := (s.flag Reg.RAW_CTL_GO true).flag Reg.RAW_STAT_BUSY true
      if opened then s else entRecord s n 4 (b2n restart) false

/-! ### The maintenance block (R389, R390) -/

/-- Entry i of the block: configuration word and value. -/
def windowEntry (blk : List Octet) (i : Nat) : Nat × Nat := (leAt blk (0x20 + 8 * i) 2, leAt blk (0x24 + 8 * i) 4)

/-- CELL_WINDOW. -/
def cellWindowOp (s : State) (blk : List Octet) : State × Rep :=
  let act := leAt blk 0x10 1
  let cells := leAt blk 0x11 1
  let n := leAt blk 0x12 2
  let dur := leAt blk 0x14 4
  let entries := (List.range n).map (windowEntry blk)
  if blk.take 16 ≠ fitOctets 16 Config.deviceSerial ∨ blk.length ≠ 0x20 + 8 * n ∨ leAt blk 0x18 8 ≠ 0 ∨ act = 0 ∨ 3 < act ∨
      (if act = 1 then ¬ (1 ≤ cells ∧ cells ≤ 3) ∨ ¬ (60 ≤ dur ∧ dur ≤ 7200) else cells ≠ 0 ∨ dur ≠ 0) ∨
      (if act = 2 then ¬ (1 ≤ n ∧ n ≤ 64) else n ≠ 0) ∨
      (List.range n).any (fun i => decide (leAt blk (0x22 + 8 * i) 2 ≠ 0 ∨ (windowEntry blk i).2 ≥ 2 ^ 18)) then (s, .no 0x30 0)
  else if act = 1 then
    if s.mode ≠ mOperational ∨ s.on Reg.TAMP_STAT_WINDOW then (s, .no 0x43 16) else (openWindow s cells dur, .ok [])
  else if act = 2 then
    if entries.any (fun e => !(isConfigWord e.1 && configOk e.1 e.2)) then (s, .no 0x43 17)
    else
      let s := entries.foldl (fun s e => configPut s e.1 e.2) s
      (ledgerPut s 8 0x30 ((configDigest s).take 16), .ok [])
  else (zeroize s 0x30, .ok [])

/-! ### WARM_RESET (R427, R444) -/

/-- The lead's warm-reset command: it yields no completion. -/
def warmResetCmd (s : State) (r : CmdRef) : State :=
  match adminCmd s r 0x6B with
  | none => s
  | some c =>
    match adminRefusal s c [] with
    | some e => refuseAdmin s c e.1 e.2
    | none =>
      let t := leAt c.short 0 1
      if t > 1 then refuseAdmin s c 0x30 0
      else
        let s := startWarm (s.wr Reg.RST_BOOT_TARGET t) 2 8 (portMaster (portOf s c.func))
        { s with cmds := s.cmds.filter (fun (x : Cmd) => decide (x.uid ≠ c.uid)) }

/-! ### The commands -/

def execAbort (r : CmdRef) (s : State) : Out := done (abortOp s r)
def execKeyGenerate (r : CmdRef) (blk : List Octet) (s : State) : Out :=
  done (adminRun s r 0x10 blk [] (fun s _ w b _ _ => newKey (leAt b 0 2) s (fun s => generateOp s w b)))
def execKeyDerive (r : CmdRef) (blk : List Octet) (s : State) : Out :=
  done (adminRun s r 0x11 blk [] (fun s c w b _ _ => newKey (hDom c.key0) s (fun s => deriveOp s w c.key0 b)))
def execKeyRestrict (r : CmdRef) (blk : List Octet) (s : State) : Out :=
  done (adminRun s r 0x12 blk [] (fun s c w b _ _ => changeKey c.key0 plxKeyLess s (fun s => restrictOp s w c.key0 b)))
def execKeyInfo (r : CmdRef) (s : State) : Out := done (adminRun s r 0x13 [] [] (fun s c _ _ _ _ => infoOp s c.key0))
def execKeyDestroy (r : CmdRef) (blk : List Octet) (s : State) : Out :=
  done (adminRun s r 0x14 blk [] (fun s c w b _ _ => changeKey c.key0 plxKeyGone s (fun s => destroyOp s w c.key0 b)))
def execKeyExport (r : CmdRef) (blk : List Octet) (s : State) : Out := done (adminRun s r 0x15 blk [] (fun s _ w b _ _ => exportOp s w b))
def execKeyImport (r : CmdRef) (blk : List Octet) (s : State) : Out :=
  done (adminRun s r 0x16 blk [] (fun s _ w b _ _ => newKey (leAt b 0 2) s (fun s => importOp s w b)))
def execAttest (r : CmdRef) (blk : List Octet) (s : State) : Out := done (adminRun s r 0x20 blk [] (fun s c _ b _ _ => attestOp s c b))
def execJournalRead (r : CmdRef) (s : State) : Out := done (adminRun s r 0x21 [] [] (fun s c _ _ _ _ => journalReadOp s c))
def execJournalAck (r : CmdRef) (s : State) : Out := done (adminRun s r 0x22 [] [] (fun s c _ _ _ _ => journalAckOp s c))
def execBallotOpen (r : CmdRef) (blk : List Octet) (s : State) : Out :=
  done (adminRun s r 0x30 blk [] (fun s c w b _ _ => ballotOpenOp s w (openerCode c.func) b))
def execBallotSign (r : CmdRef) (blk : List Octet) (s : State) : Out := done (adminRun s r 0x31 blk [] (fun s _ w b _ _ => ballotSignOp s w b))
def execBallotClose (r : CmdRef) (s : State) : Out := done (adminRun s r 0x32 [] [] (fun s c _ _ _ _ => ballotCloseOp s (leAt c.short 0 1)))
def execCommissionBegin (r : CmdRef) (blk : List Octet) (s : State) : Out :=
  done (adminRun s r 0x33 blk [] (fun s c w b _ _ => commissionBeginOp s w (openerCode c.func) b))
def execCommissionFinish (r : CmdRef) (blk : List Octet) (s : State) : Out :=
  done (adminRun s r 0x34 blk [] (fun s c w b _ _ => commissionFinishOp s w (openerCode c.func) b))
def execDomainCreate (r : CmdRef) (blk trailer : List Octet) (s : State) : Out :=
  done (adminRun s r 0x35 blk trailer (fun s _ w b t x => domainCreateOp s w (x.getD Ballot.free) b t))
def execDomainDestroy (r : CmdRef) (blk : List Octet) (s : State) : Out := done (adminRun s r 0x36 blk [] (fun s _ w b _ _ => domainDestroyOp s w b))
def execDomainSuspend (r : CmdRef) (blk : List Octet) (s : State) : Out :=
  done (adminRun s r 0x37 blk [] (fun s _ w b _ x => domainSuspendOp s w (x.getD Ballot.free) b))
def execDomainResume (r : CmdRef) (blk : List Octet) (s : State) : Out :=
  done (adminRun s r 0x38 blk [] (fun s _ w b _ x => domainResumeOp s w (x.getD Ballot.free) b))
def execOfficerChange (r : CmdRef) (blk trailer : List Octet) (s : State) : Out :=
  done (adminRun s r 0x39 blk trailer (fun s _ w b t x => officerChangeOp s w (x.getD Ballot.free) b t))
def execFigureSigner (r : CmdRef) (blk : List Octet) (s : State) : Out := done (adminRun s r 0x3A blk [] (fun s _ _ b _ _ => figureSignerOp s b))
def execDevicePolicy (r : CmdRef) (blk : List Octet) (s : State) : Out := done (adminRun s r 0x3B blk [] (fun s _ w b _ _ => devicePolicyOp s w b))
def execLeadTakeover (r : CmdRef) (blk : List Octet) (s : State) : Out := done (adminRun s r 0x3C blk [] (fun s c _ b _ _ => takeoverOp s c b))
def execJournalClear (r : CmdRef) (blk : List Octet) (s : State) : Out := done (adminRun s r 0x3D blk [] (fun s c w b _ _ => journalClearOp s c w b))
def execVaultReset (r : CmdRef) (blk : List Octet) (s : State) : Out := done (adminRun s r 0x3E blk [] (fun s c w b _ _ => vaultResetOp s c w b))
def execMigrationFreeze (r : CmdRef) (blk : List Octet) (s : State) : Out := done (adminRun s r 0x3F blk [] (fun s _ w b _ _ => migrationFreezeOp s w b))
def execReplication (r : CmdRef) (blk : List Octet) (s : State) : Out := done (adminRun s r 0x40 blk [] (fun s _ _ b _ _ => replicationOp s b))
def execFirmwareStage (r : CmdRef) (blk : List Octet) (s : State) : Out := done (adminRun s r 0x41 blk [] (fun s c w b _ _ => firmwareStageOp s c w b))
def execFirmwareActivate (r : CmdRef) (blk : List Octet) (s : State) : Out := done (adminRun s r 0x42 blk [] (fun s _ w b _ _ => firmwareActivateOp s w b))
def execDebugAuthorise (r : CmdRef) (blk trailer : List Octet) (s : State) : Out :=
  done (adminRun s r 0x43 blk trailer (fun s _ w b t _ => debugOp s w b t))
def execRawEntropy (r : CmdRef) (blk : List Octet) (s : State) : Out := done (adminRun s r 0x44 blk [] (fun s _ _ b _ _ => rawEntropyOp s b))
def execRawRead (r : CmdRef) (s : State) : Out := done (adminRun s r 0x45 [] [] (fun s c _ _ _ _ => rawReadOp s c))
def execCellWindow (r : CmdRef) (blk : List Octet) (s : State) : Out := done (adminRun s r 0x46 blk [] (fun s _ _ b _ _ => cellWindowOp s b))
def execVaultCommit (r : CmdRef) (s : State) : Out := done (adminRun s r 0x50 [] [] (fun s c _ _ _ _ => commitOp s c.outLen))
def execVaultStored (r : CmdRef) (s : State) : Out := done (adminRun s r 0x51 [] [] (fun s _ w _ _ _ => storedOp s w))
def execVaultLoad (r : CmdRef) (blk : List Octet) (s : State) : Out := done (adminRun s r 0x52 blk [] (fun s _ _ b _ _ => vaultLoadOp s b))
def execFigurePin (r : CmdRef) (blk : List Octet) (s : State) : Out := done (adminRun s r 0x58 blk [] (fun s _ w b _ _ => figurePinOp s w b))
def execFigureUnpin (r : CmdRef) (s : State) : Out := done (adminRun s r 0x59 [] [] (fun s c w _ _ _ => figureUnpinOp s w c.short))
def execFuncCreate (r : CmdRef) (blk : List Octet) (s : State) : Out := done (adminRun s r 0x60 blk [] (fun s _ w b _ _ => funcConfigOp s w true b))
def execFuncChange (r : CmdRef) (blk : List Octet) (s : State) : Out := done (adminRun s r 0x61 blk [] (fun s _ w b _ _ => funcConfigOp s w false b))
def execVfDestroy (r : CmdRef) (s : State) : Out := done (adminRun s r 0x62 [] [] (fun s c w _ _ _ => vfDestroyOp s w c.short))
def execVfFreeze (r : CmdRef) (s : State) : Out := done (adminRun s r 0x63 [] [] (fun s c w _ _ _ => vfFreezeOp s w c.short))
def execVfThaw (r : CmdRef) (s : State) : Out := done (adminRun s r 0x64 [] [] (fun s c w _ _ _ => vfThawOp s w c.short))
def execMigTicket (r : CmdRef) (s : State) : Out := done (adminRun s r 0x65 [] [] (fun s c _ _ _ _ => migTicketOp s c.func))
def execVfSave (r : CmdRef) (blk : List Octet) (s : State) : Out := done (adminRun s r 0x66 blk [] (fun s c w b _ _ => vfSaveOp s w c.short b))
def execVfRestore (r : CmdRef) (blk : List Octet) (s : State) : Out := done (adminRun s r 0x67 blk [] (fun s _ w b _ _ => vfRestoreOp s w b))
def execQueueMark (r : CmdRef) (s : State) : Out := done (adminRun s r 0x68 [] [] (fun s c w _ _ _ => queueMarkOp s w c.short))
def execMigrationThaw (r : CmdRef) (s : State) : Out := done (adminRun s r 0x69 [] [] (fun s _ w _ _ _ => migrationThawOp s w))
def execPortVfAlloc (r : CmdRef) (s : State) : Out := done (adminRun s r 0x6A [] [] (fun s c _ _ _ _ => portVfAllocOp s c.short))
def execWarmReset (r : CmdRef) (s : State) : Out := done (warmResetCmd s r)
def execRawCtlGo (sc : Fin 2) (restart : Bool) (source : Fin 8) (count : Fin 1024) (s : State) : Out := done (rawGo s sc restart source count)

end Sys2Proof.Machine
end

