-- ==== Sys2Proof/Machine/Modes.lean ====
section
/-! DEFINITION. Reset sources and their reach, Fuse Load, the release of controllers, the end of Secure Boot, modes, power-fail, block resets,
the watchdog, Sleep (spec/19). -/
namespace Sys2Proof.Machine

/-! ### What secure firmware republishes (R436) -/

/-- Is this key of the register store one that firmware republishes: shadow card, admission parameters, ADM_STAT.FROZEN, the card's lending? -/
def republished (k : Nat) : Bool :=
  let a := k / 256
  decide (0x30010000 ≤ a ∧ a < 0x30020000) ||
    (decide (0x30040000 ≤ a ∧ a < 0x30040000 + 4 * 2050) && (decide (a % 4 ≤ 1) || decide (a % 4 = 2 ∧ k / 8 % 32 = 1))) ||
    decide (k = Reg.FLOOR_CTL_LENDING.key ∨ k = Reg.FLOOR_CTL_LEND_SPAN.key)

/-- The residency registers of entries that hold a valid figure. -/
def residentRegs (s : State) : List (Nat × Nat) :=
  (resPairs.flatMap (fun qe =>
    if s.on (Reg.RES_VALID qe.1 qe.2) then
      [((Reg.RES_VALID qe.1 qe.2).key, 1), ((Reg.RES_FIGURE qe.1 qe.2).key, s.rd (Reg.RES_FIGURE qe.1 qe.2)),
       ((Reg.RES_BASE qe.1 qe.2).key, s.rd (Reg.RES_BASE qe.1 qe.2))]
    else [])).filter (fun e => decide (e.2 ≠ 0))

/-- The copy in secure DRAM; one that no Secure Boot has yet used stands. -/
def floorCopy (s : State) : Option FwCopy :=
  if s.rst.copy.isSome then s.rst.copy
  else
    let figs := s.floor.figs.filter (fun h => s.resident h.fid)
    some ⟨s.regs.filter (fun e => republished e.1) ++ residentRegs s, figs,
      (s.floor.seqs.map (fun e => (e.1, e.2.fmem))).filter (fun e => decide (e.2 ≠ []))⟩

/-- Secure firmware republishes card, admission parameters and figures before Secure Boot ends. -/
def republish (s : State) : State :=
  match s.rst.copy with
  | none => s
  | some ⟨regs, figs, mems⟩ =>
    let s := { s with
      regs := regs.foldl (fun t e => tput t e.1 e.2) s.regs
      floor := { s.floor with figs := figs }
      rst := { s.rst with copy := none } }
    let s := mems.foldl (fun (s : State) (e : Nat × Tab StepWord) => s.setSeq e.1 { s.seq e.1 with fmem := e.2 }) s
    commitCard (s.flag Reg.FLOOR_CTL_COMMIT true)

/-! ### Reaches (R428, Table 19.2) -/

/-- The floor as a reset of the main domain leaves it; retired hold pages and the lanes' faults outlast a warm reset. -/
def floorReset (s : State) (warm : Bool) : Floor :=
  if warm then { Floor.reset with pages := (s.floor.pages.filter (fun e => e.2.retired)).map (fun e => (e.1, { HoldPage.free with retired := true })),
                                  faultAt := s.floor.faultAt }
  else Floor.reset

/-- Every held lock token is freed with BROKEN set (R279); the records of a POR's breaks are lost with the buffer. -/
def brokenTokens (s : State) : List Nat := (List.range 16).filter (fun n => decide (s.rd (Reg.TOKEN_HOLDER n) ≠ 0xFF) || s.on (Reg.TOKEN_BROKEN n))

/-- A reset of reach POR takes hold: what outlasts it is the tamper domain, OTP, journal memory and head, the flash, and the quadrille's tables
as contents of the vault image (log 33). A supply POR alone clears FUSE_STAT.INTERRUPTS (R430). -/
def porReset (s : State) (supply : Bool) : State :=
  let from_ := if s.rst.por then s.rst.fromMode else s.mode
  let broken := brokenTokens s
  let stops := s.rd Reg.FUSE_STAT_INTERRUPTS
  let s := closeWindow s 4 0x3F
  let t : State := { State.reset with
    pending := s.pending, free := s.free, regs := resetRegs .por s.regs, nextUid := s.nextUid, vectors := s.vectors, sent := s.sent
    jnl := { s.jnl with buf := [] }
    tamp := s.tamp, otp := s.otp
    plx := { s.plx with keys := [], lru := [], pairing := [], paths := [], msgs := [], got := [], join := none, joiners := [], heardAt := none,
                        checked := [], nonces := [] }
    mgmt := { Mgmt.reset with hlog := s.mgmt.hlog, hseq := s.mgmt.hseq, slotA := s.mgmt.slotA, slotB := s.mgmt.slotB, bcb0 := s.mgmt.bcb0,
                              bcb1 := s.mgmt.bcb1, mcData := s.mgmt.mcData }
    portA := { Port.reset with perst := s.portA.perst }
    portB := { Port.reset with perst := s.portB.perst }
    rst := { RstSt.reset with now := s.rst.now, union := s.rst.union, por := true, split := s.rst.split, fromMode := if supply then mBatteryHold else from_ }
    dbg := { DbgSt.reset with ir := s.dbg.ir, cells := s.dbg.cells } }
  let t := broken.foldl (fun t n => t.flag (Reg.TOKEN_BROKEN n) true) t
  let t := if supply then t else t.wr Reg.FUSE_STAT_INTERRUPTS stops
  t.wr Reg.MODE_STAT_MODE (if supply then mBatteryHold else mFuseLoad)

/-- What ends before a warm reset takes hold: lead, ballots, tokens, debug session, raw access, window, an open commit. -/
def warmEnds (s : State) : State :=
  let s := if s.lead = 0 then s else changeLead s 0 1 0xE4 none
  let s := breakTokens (lapseAll s 6 (fun _ _ => false)) (fun _ => true)
  let s := if s.on Reg.DBG_STAT_ACTIVE then clearDebug (jrec s 0x0602 0xE7 (s.rd Reg.DBG_STAT_LEVEL) (s.dbg.cert.take 16)) else s
  abandonCommit (closeWindow (rawClose s) 4 0x3F)

/-- A warm reset takes hold (Table 19.2, column WARM): its flush is done, and the mode becomes Secure Boot (rows 5, 10 and 21). -/
def warmReach (s : State) : State :=
  let old := s.mode
  let s := flushDone (startFlush (warmEnds s))
  let copy := floorCopy s
  let t := { s with
    regs := resetRegs .warm s.regs
    sc0 := Ctl.reset true, sc1 := Ctl.reset true, mc := Ctl.reset false
    floor := floorReset s true, cache := [], drbg := none, halting := false
    mem := { s.mem with sram := [] }
    irq := .reset, viol := [], capHeld := [], holds := [], winLow := [], meas := .reset
    ent := { s.ent with fifo := [], reqs := [], due := false, rawHold := false }
    ks := ⟨[], [], 0⟩, ballots := [], ballotId := 1, cmds := [], queues := [], msix := [], flrs := [], tickets := []
    funcs := s.funcs.map (fun e => (e.1, { e.2 with freezing := false, lastQ := 0, press := 0 }))
    portA := { s.portA with spdm := .reset }, portB := { s.portB with spdm := .reset }, spdmM := .reset
    plx := { s.plx with keys := [], lru := [], pairing := [], join := none, joiners := [] }
    mgmt := { s.mgmt with stage := none, flashOp := 0, ethIn := [], mctpIn := [], eid := 0 }
    rst := { s.rst with warmReq := none, warmOn := true, copy := copy }
    dbg := { DbgSt.reset with ir := s.dbg.ir, cells := s.dbg.cells }
    blockRst := none }
  setMode t mSecureBoot (if old = mFault then 21 else if old = mDebug then 10 else 5)

/-! ### Sources (R427, R429) -/

/-- Fuse Load stopped by a reset that does not reach it: the next release starts it again (R430). -/
def stopLoad (s : State) : State :=
  if s.mode ≠ mFuseLoad ∨ s.rst.por ∨ s.rst.loadStop then s
  else ({ s with rst := { s.rst with loadStop := true } }).wr Reg.FUSE_STAT_INTERRUPTS (min 0xFFFF (s.rd Reg.FUSE_STAT_INTERRUPTS + 1))

/-- Fuse Load begins at the release of a reset of reach POR; the tamper domain counts the session and reports its own loss (R370, R371,
R377, R385). -/
def startLoad (s : State) : State :=
  let s := { s.wr Reg.MODE_STAT_MODE mFuseLoad with rst := { s.rst with loadStop := false, fuseAgain := false } }
  if ¬ s.rst.por then s
  else
    let lost := s.tamp.lost
    let s := { s with
      rst := { s.rst with por := false }
      tamp := { s.tamp with session := stick 32 (s.tamp.session + 1), main := true, anchored := false, meshDue := true, lost := false, zeroEntry := false } }
    if lost then tampRefresh (ledgerPut s 0x0A 0x3F []) else s

/-- A source is released; the last release starts the exit from a reset of reach POR (R429). A warm reset's exit is WARM_RESET_RELEASE. -/
def releaseSource (s : State) (b : Nat) : State :=
  let s := { s with rst := { s.rst with now := clearBit s.rst.now b } }
  if s.rst.now = 0 ∧ (s.rst.por ∨ s.rst.loadStop) then startLoad s else s

/-- RESET_N (R427): POR reach at once, without the journal's flush. In Fuse Load it stops the load. -/
def resetPin (s : State) : State :=
  let load := s.mode = mFuseLoad ∧ ¬ s.rst.por
  let s := noteSource s 3 true
  let s := if load then stopLoad s else s
  if s.rst.por then s else porReset s false

/-- A main supply falls (R427; row 1 of Table 19.7): Battery Hold. -/
def supplyFalls (s : State) : State := porReset (noteSource s 2 true) true

/-- WARM_N (R427). -/
def warmPin (s : State) : State :=
  if s.mode = mBatteryHold ∨ s.rst.por ∨ s.mode = mFuseLoad then stopLoad (noteSource s 7 true)
  else
    let s := startWarm s 1 7 0xE4
    { s with rst := { s.rst with now := setBit s.rst.now 7 } }

/-- PERST, hot reset or link-down of a port (R330): a source of its own; in Sleep a wake event, in Fuse Load a stop. -/
def portSource (s : State) (p : Nat) (held : Bool) : State :=
  if p = 1 ∧ ¬ s.rst.split then s
  else
    let s := noteSource s (5 + p) held
    let s := if s.mode = mFuseLoad then stopLoad s else wake s 2
    let s := portReset s p
    if held then s.setPort p { s.port p with perst := true } else
      if s.rst.now = 0 ∧ s.rst.loadStop ∧ ¬ s.rst.por then startLoad s else s

/-- PERST released. -/
def perstReleased (s : State) (p : Nat) : State := releaseSource (s.setPort p { s.port p with perst := false }) (5 + p)

/-! ### Fuse Load (R430, R431) -/

/-- Fault out of Fuse Load (row 4). -/
def fuseFault (s : State) (cause : Nat) : State := (setMode s mFault 4).wr Reg.MODE_STAT_FAULT_CAUSE cause

/-- Fuse Load ends. The journal resumes before its first record, which is that of row 2 (DEDUCED, log 40); a shadow that fails is loaded once
more; straps are applied; the noise sources are released. -/
def loadEnds (s : State) (shadowOk split : Bool) (strap : Nat) : State :=
  if s.mode ≠ mFuseLoad ∨ s.rst.por ∨ s.rst.loadStop then s
  else if ¬ shadowOk ∧ ¬ s.rst.fuseAgain then { s with rst := { s.rst with fuseAgain := true } }
  else
    let s := journalResume (s.setTamp (fun t => { t with masked := false }))
    let s := setMode (s.wr Reg.MODE_STAT_MODE s.rst.fromMode) mFuseLoad 2
    if ¬ shadowOk then fuseFault { s with rst := { s.rst with otpBad := true } } 1
    else
      let s := (List.range 8).foldl (fun s n => if s.rd (Reg.SRC_STAT_STATE n) = 0 then s.wr (Reg.SRC_STAT_STATE n) 1 else s) s
      let s := { s with rst := { s.rst with split := split } }
      if strap > 4 then fuseFault s 2
      else
        let s := s.wr Reg.MEM_CFG_STRAP strap
        let s := s.wr2 Reg.MEM_USABLE_L Reg.MEM_USABLE_H s.usable
        setModeWith s mSecureBoot 3 (s.rd Reg.FUSE_STAT_INTERRUPTS)

/-! ### Warm reset (R436) -/

/-- The reset takes hold once its flush is done; a power-fail flush goes first (R429). -/
def warmApply (s : State) : State :=
  if s.rst.warmReq.isNone ∨ s.rst.pfFlush ∨ s.rst.por then s else warmReach s

/-- The exit (Table 19.4): page-table reload, then SC_0 leaves reset, when the last source has been released. -/
def warmRelease (s : State) : State :=
  if ¬ s.rst.warmOn ∨ s.rst.now ≠ 0 ∨ s.rst.por then s
  else potReload { s with rst := { s.rst with warmOn := false }, sc0 := { Ctl.reset true with running := true } }

/-! ### The end of Secure Boot (R420, R443, R445) -/

/-- The boot ROM's choice (R420): the slot it tries first, after its write to the boot control block. -/
def firstSlot (s : State) : Nat × State :=
  let (_, active, try_, fl) := bootBlock s
  if try_ = 0xFF then (active, s)
  else if bit fl 2 then (active, putBootBlock s active 0xFF (clearBit fl 2))
  else (try_, putBootBlock s active try_ (setBit fl 2))

/-- Secure firmware confirms the slot that booted, after its self-tests (R420). -/
def confirmSlot (s : State) (booted : Nat) (fallback : Bool) : State :=
  let (_, active, try_, fl) := bootBlock s
  let s :=
    if booted = try_ then putBootBlock s try_ 0xFF (2 * b2n (bit fl 0))
    else if fallback ∧ try_ ≠ 0xFF then putBootBlock s active 0xFF (clearBit fl 2)
    else s
  let (_, active, try_, fl) := bootBlock s
  if bit fl 1 ∧ booted = active then
    let svn := leAt (s.slotImage booted) 8 4
    let s := s.wr Reg.FW_STAT_ARB (min 128 (max (s.rd Reg.FW_STAT_ARB) svn))
    jrec (putBootBlock s active try_ (clearBit fl 1)) 0x0901 0xE4 booted (leOctets 4 svn)
  else s

/-- R443: a storage root without COMMISSIONED is overwritten and the mode is its origin (R271, DEDUCED, log 41). -/
def bootMode (s : State) : Nat × State :=
  match s.tamp.root with
  | some _ =>
    if s.on Reg.TAMP_STAT_COMMISSIONED then (mOperational, s)
    else
      let m := if s.tamp.origin then mZeroized else mUncommissioned
      (m, tampRefresh ((s.setTamp (fun t => { t with root := none, origin := false, bank0 := ([], 0), bank1 := ([], 0) })).flag
        Reg.TAMP_STAT_CFG_LOCKED false))
  | none => (if s.otp.comm > 0 then mZeroized else mUncommissioned, s)

/-- Secure Boot ends: slot choice, the boot tap locked, firmware's republication, the floor released, the mode by R443; a cause of Fault
that persists brings Fault back (R445). -/
def bootEnds (s : State) (slot : Option Bool) (testPass : Bool) : State :=
  if s.mode ≠ mSecureBoot ∨ ¬ s.sc0.running ∨ s.rst.warmReq.isSome then s
  else
    let (first, s) := firstSlot s
    match slot with
    | none => enterFault s 4
    | some b =>
      let booted := b2n b
      let fallback := decide (booted ≠ first)
      let s := (s.wr Reg.FW_STAT_ACTIVE_SLOT booted).flag Reg.FW_STAT_FALLBACK fallback
      let s := if testPass then confirmSlot s booted fallback else s
      let (_, _, try_, fl) := bootBlock s
      let s := (s.flag Reg.FW_STAT_TRY_PENDING (decide (try_ ≠ 0xFF))).flag Reg.FW_STAT_ADV_PEND (bit fl 1)
      let s := republish (tapLock s)
      if s.rd Reg.JNL_STAT_LEVEL = 2 ∨ s.jnl.seq ≥ 2 ^ 64 - 1 then enterFault s 8
      else if s.rd Reg.RNG_STAT_HEALTHY < 3 then enterFault s 6
      else
        let (m, s) := bootMode s
        let m := if s.on Reg.RST_BOOT_TARGET then mDiagnostic else m
        plxRefresh (mcAllowedRefresh (setMode ((tampRefresh s).flag Reg.RST_BOOT_TARGET false) m 6))

/-! ### Zeroized (R382) -/

/-- The main domain learns of a zeroization (rows 17, 18 and 20): only what row 17 names survives; the floor is released again, the sealed
fill begins again from page 0 (R367). In Secure Boot and Fault the mode follows by R443. -/
def zeroizedEntry (s : State) : State :=
  if ¬ s.tamp.zeroEntry then s
  else
    let s := (wake s 5).setTamp (fun t => { t with zeroEntry := false })
    if s.mode ∉ [mOperational, mMaintenance, mMigrationFreeze, mDiagnostic, mDebug] then s
    else
      let s := faultDebug (lapseAllFault (disableQueues s))
      let s := { s with
        cmds := [], floor := floorReset s true, funcs := [], tickets := []
        regs := s.regs.filter (fun e => !(decide (0x30010000 ≤ e.1 / 256 ∧ e.1 / 256 < 0x30050000) ||
          decide (0x20000000000 ≤ e.1 / 256 ∧ e.1 / 256 < 0x20000000000 + 0x100000 * pfA)))
        mem := { s.mem with dram := [], ver := [], poison := [], bad := [], chainBad := [] }
        ks := ⟨[], [], 0⟩, halting := s.rst.warmReq.isSome }
      let s := ((s.wr2 Reg.MEM_FILL_L Reg.MEM_FILL_H 0).flag Reg.MEM_STAT_FILL_DONE false).flag Reg.KS_STAT_DIRTY false
      setMode s mZeroized 17

/-! ### Power-fail (R287, R437) -/

/-- PWR_FAIL_N falls: the tamper domain masks GLITCH and CLK_MAIN (R386), the window closes, the controllers are held, placement stops, the
POWER_FAIL record is the session's last. -/
def powerFails (s : State) : State :=
  if s.mode = mBatteryHold ∨ s.rst.pfFlush ∨ s.rst.pfHold then s
  else
    let s := closeWindow ((wake s 6).setTamp (fun t => { t with masked := true })) 4 0x3F
    let s := if s.rst.por ∨ s.mode = mFuseLoad then s
      else jrecG s 0x0006 0xE4 s.jnl.buf.length [] false Config.noMasterWorld true
    { s with
      rst := { s.rst with pfFlush := true }, halting := true
      sc0 := { s.sc0 with running := false }, sc1 := { s.sc1 with running := false }, mc := { s.mc with running := false } }

/-- After the flush the device holds itself in reset with the reach of POR. -/
def powerHold (s : State) : State :=
  if ¬ s.rst.pfFlush then s
  else
    let s := noteSource (flushDone s) 4 true
    let s := if s.rst.por then s else porReset s false
    { s with rst := { s.rst with pfFlush := false, pfHold := true } }

/-- PWR_FAIL_N rises with the supplies in range: the start of a rising RESET_N; a rise during the flush is met after it. -/
def powerReturns (s : State) : State :=
  let s := powerHold s
  if s.rst.pfHold then releaseSource { s with rst := { s.rst with pfHold := false } } 4 else s

/-! ### Block resets (R432, R433) -/

/-- The card columns of a block: type 0 reel, 1 DU, 2 NU, 3 FS; none where the index names no block. -/
def blockColumns (ty i : Nat) : List Nat :=
  if ty = 0 then (if i < 32 then [4 * i, 4 * i + 1, 4 * i + 2, 4 * i + 3, 128 + i] else [])
  else if ty = 1 then [160 + i]
  else if ty = 2 then (if i < 16 then [224 + i] else [])
  else [240 + i]

/-- Is a hold page in a reset reel? -/
def inReel (ty i p : Nat) : Bool := decide (ty = 0 ∧ p / 64 = i)

/-- The instances that hold the block are stopped from this cycle (Table 5.4); one with a page in a reset reel is not replayed (R135). -/
def stopHolders (s : State) (ty i : Nat) : State :=
  let cols := blockColumns ty i
  { s with floor := { s.floor with seqs := s.floor.seqs.map (fun e =>
      match e.2.inst with
      | none => e
      | some x =>
        let pages := x.pages.flatten.any (inReel ty i)
        if x.stop.isNone ∧ (x.cols.any (fun c => decide (c ∈ cols)) ∨ (ty = 3 ∧ e.1 = i) ∨ pages) then
          (e.1, { e.2 with inst := some { x with stop := some (if pages then .fault else .replayable) } })
        else e) } }

/-- Grants in a reset reel are withdrawn and the commands return to order 8 of Table 5.2. -/
def withdrawGrants (s : State) (ty i : Nat) : State :=
  (s.cmds.filter (fun (c : Cmd) => decide (c.ph = CmdPhase.ingress ∨ c.ph = CmdPhase.ready) && c.pages.flatten.any (inReel ty i))).foldl
    (fun s c => (dropReqs (releasePages s c.uid) c.uid).onCmd c.uid (fun c => { c with
      ph := .ingress, order := 7, pages := [], reels := [], staged := 0, rnd := [], rndWant := 0 })) s

/-- The block's registers and memories are cleared as R94 clears a released unit; a reel's hold buffer and spare lane too, and its mask
expander waits for a fresh seed. -/
def clearBlock (s : State) (ty i : Nat) : State :=
  let s := (blockColumns ty i).foldl clearColumn s
  if ty = 0 then
    let s := (List.range 32).foldl (fun s j => s.setLane (32 * i + j) Lane.zero) s
    let s := (s.setLane (1024 + i) Lane.zero).setExpander i Expander.zero
    { s with floor := { s.floor with hold := s.floor.hold.filter (fun e => !decide (e.1 / 16384 = i)) } }
  else if ty = 3 then s.setSeq i { Seq.zero with fmem := (s.seq i).fmem, inst := (s.seq i).inst }
  else s

/-- BLOCK_RST with GO. -/
def blockStart (s : State) (ty i : Nat) : State :=
  if s.on Reg.BLOCK_RST_GO then s
  else
    let s := (s.wr Reg.BLOCK_RST_TYPE ty).wr Reg.BLOCK_RST_INDEX i
    let cols := blockColumns ty i
    if cols = [] ∨ inReset s ∨ (ty = 1 ∧ i = 63 ∧ (s.mode = mSecureBoot ∨ s.on Reg.BOOT_TAP_STAT_ARMED)) then
      s.flag Reg.BLOCK_RST_STAT_ERR true
    else
      let s := { (s.flag Reg.BLOCK_RST_STAT_ERR false).flag Reg.BLOCK_RST_GO true with blockRst := some (ty, i) }
      let s := clearBlock (withdrawGrants (stopHolders s ty i) ty i) ty i
      let s := if ty = 1 then s.flag (Reg.DU_STAT_OOS i) true else if ty = 2 then s.flag (Reg.NU_STAT_OOS i) true else s
      let s := jrec (latchFault s) 0x0305 0xE4 (nth 0 cols 0) (leOctets 1 4)
      cols.foldl retireColumn s

/-- The wrapper opens. -/
def blockDone (s : State) : State :=
  match s.blockRst with
  | none => s
  | some (ty, i) =>
    let s := clearBlock s ty i
    { (s.flag Reg.BLOCK_RST_GO false).flag Reg.BLOCK_RST_STAT_DONE true with blockRst := none }

/-! ### Watchdog, doorbells, Sleep -/

/-- The SC watchdog's timeout in PTP cycles. -/
def scTimeout (s : State) : Nat := s.rd Reg.SC_WDOG_MS * 500000

/-- The last kick is forgotten (R473). -/
def scKick (s : State) : State := { s with irq := { s.irq with wdogHalf := false, scWdog := 0 } }

/-- Half the timeout has passed since the last kick: line 15 pends. -/
def scHalf (s : State) : State :=
  if s.rd Reg.SC_WDOG_MS = 0 ∨ ¬ s.sc0.running then s
  else { s with irq := { s.irq with wdogHalf := true, scWdog := max s.irq.scWdog (scTimeout s / 2) } }

/-- The SC watchdog expires (Table 19.1): a warm reset with ARG 3. -/
def scExpires (s : State) : State :=
  if s.rd Reg.SC_WDOG_MS = 0 ∨ inReset s ∨ s.mode = mBatteryHold then s else startWarm (scKick s) 3 9 0xE4

/-- SC_1 is released (R434). -/
def releaseSc1 (s : State) : State :=
  if s.on Reg.RST_CTL_SC1_RUN ∨ ¬ s.sc0.running then s
  else { s.flag Reg.RST_CTL_SC1_RUN true with sc1 := { Ctl.reset true with running := true } }

/-- INT_DOOR rings other controllers (R474). -/
def ringDoors (s : State) (v : Nat) : State :=
  let s := if bit v 0 then s.flag (Reg.INT_LATCH_DOOR 0) true else s
  let s := if bit v 1 then s.flag (Reg.INT_LATCH_DOOR 1) true else s
  if bit v 2 then mcLatch s 3 else s

/-- The conditions of R447. -/
def sleepReady (s : State) : Bool :=
  s.on Reg.SLEEP_CFG_EN && decide (s.mode = mOperational) && decide (s.cmds = []) && s.mgmt.stage.isNone && s.vault.commit.isNone &&
    !s.on Reg.RNG_STAT_RAW_OPEN && decide (2 ≤ s.ent.fifo.length) && s.portA.l1 && (s.portB.l1 || !s.rst.split) && !inReset s && !s.rst.pfFlush

/-- Sleep (R446, row 15): the journal is flushed, the noise sources go Off but for retired ones. -/
def fallAsleep (s : State) : State :=
  if ¬ sleepReady s then s
  else
    let s := setMode (s.count Reg.SLEEP_COUNT Reg.SLEEP_STAT_SCO) mSleep 15
    let s := flushDone (startFlush s)
    (List.range 8).foldl (fun s n =>
      if s.rd (Reg.SRC_STAT_STATE n) = srcRetired then s
      else (s.wr (Reg.SRC_STAT_STATE n) srcOff).setEnt (fun e => { e with run := tdel e.run n })) s

/-! ### The commands -/

def execVfFlr (f : Fin 2048) (s : State) : Out := done (flrVf (wake s 2) f)
def execPfFlr (p : Fin 2) (s : State) : Out := done (flrPf (wake s 2) p)
def execPerstAssert (p : Fin 2) (s : State) : Out := done (portSource s p true)
def execPerstRelease (p : Fin 2) (s : State) : Out := done (perstReleased s p)
def execHotReset (p : Fin 2) (s : State) : Out := done (portSource s p false)
def execLinkDown (p : Fin 2) (s : State) : Out := done (portSource s p false)
def execRstCtlWarm (s : State) : Out :=
  done (if inReset s ∨ s.mode = mBatteryHold then s else startWarm (s.flag Reg.RST_CTL_WARM true) 4 10 0xE4)
/-- R445, cause 10: secure firmware asks for Fault. -/
def execRstCtlFault (s : State) : Out := done (enterFault (s.flag Reg.RST_CTL_FAULT true) 10)
def execSc1Run (s : State) : Out := done (releaseSc1 s)
def execScWdogKick (s : State) : Out := done (scKick s)
def execScWdogHalf (s : State) : Out := done (scHalf s)
def execScWdogExpiry (s : State) : Out := done (scExpires s)
def execBlockRstGo (ty : Fin 4) (i : Fin 64) (s : State) : Out := done (blockStart s ty i)
def execBlockResetDone (s : State) : Out := done (blockDone s)
def execWakeReq (s : State) : Out := done (wake s 4)
def execIntDoor (ring : BitVec 3) (s : State) : Out := done (ringDoors s ring.toNat)
def execSleepEntry (s : State) : Out := done (fallAsleep s)
def execSleepWake (ev : Fin 7) (s : State) : Out := done (if ev.val = 0 then s else wake s ev)
def execSupplyPor (s : State) : Out := done (supplyFalls s)
def execResetNAssert (s : State) : Out := done (resetPin s)
def execWarmNAssert (s : State) : Out := done (warmPin s)
def execResetSourceRelease (b : Fin 11) (s : State) : Out := done (releaseSource s b)
def execFuseLoadDone (shadowOk split : Bool) (strap : Fin 8) (s : State) : Out := done (loadEnds s shadowOk split strap)
def execSecureBootEnd (slot : Option Bool) (testPass : Bool) (s : State) : Out := done (bootEnds s slot testPass)
def execWarmResetApply (s : State) : Out := done (warmApply s)
def execWarmResetRelease (s : State) : Out := done (warmRelease s)
def execPwrFailFall (s : State) : Out := done (powerFails s)
def execPowerFailHold (s : State) : Out := done (powerHold s)
def execPwrFailRise (s : State) : Out := done (powerReturns s)
def execMainZeroizedEntry (s : State) : Out := done (zeroizedEntry s)

end Sys2Proof.Machine
end

