-- ==== Sys2Proof/Machine/Operands.lean ====
section
/-! DEFINITION. The controllers as the instructions of spec/02 and spec/03 see them: registers and pairs (R31, R32), the world's own state (R70),
control registers (Tables 2.3 to 2.8, 3.3, 3.6, 3.9), interrupt lines (Table 22.5), effective addresses (R27, R49), illegal encodings (R38). -/
namespace Sys2Proof

/-- A controller's number: CORE.CTLID, and its master ID (Tables 2.6 and 14.1). -/
def CtlId.num : CtlId → Nat
  | .sc0 => 0 | .sc1 => 1 | .mc => 2

end Sys2Proof

namespace Sys2Proof.Machine

/-! ### Controllers and their registers -/

def State.ctl (s : State) : CtlId → Ctl
  | .sc0 => s.sc0 | .sc1 => s.sc1 | .mc => s.mc
def State.setCtl (s : State) (c : CtlId) (k : Ctl) : State :=
  match c with
  | .sc0 => { s with sc0 := k }
  | .sc1 => { s with sc1 := k }
  | .mc => { s with mc := k }

/-- A general register; g0 reads as zero (R31). -/
def Ctl.reg (k : Ctl) (r : Nat) : Word := if r = 0 then 0 else nth 0 k.g.toList r
/-- A general register written; writes to g0 are discarded (R31). -/
def Ctl.setReg (k : Ctl) (r : Nat) (v : Word) : Ctl :=
  if h : 0 < r ∧ r < 32 then { k with g := k.g.set r v h.2 } else k
/-- A register pair (R32): d0 holds g1 above zero. -/
def Ctl.pair (k : Ctl) (r : Nat) : DWord := dword (k.reg (r + 1)) (k.reg r)
/-- A register pair written (R32). -/
def Ctl.setPair (k : Ctl) (r : Nat) (v : DWord) : Ctl := (k.setReg r (loW v)).setReg (r + 1) (hiW v)

/-- The current world's own state (R70). -/
def Ctl.cur (k : Ctl) : WorldCtx := if k.secure then k.secu else k.norm
/-- The current world's own state changed. -/
def Ctl.onCur (k : Ctl) (f : WorldCtx → WorldCtx) : Ctl := if k.secure then { k with secu := f k.secu } else { k with norm := f k.norm }

/-- The effective address of a word or double-word access (R27, R36). -/
def Ctl.ea (k : Ctl) (rbase : Nat) (off : Word) : DWord := k.pair rbase + off.signExtend 36
/-- The octet address of LDO and STO, modulo 2^37 (R49): word address and nonet. -/
def Ctl.octetEa (k : Ctl) (rbase : Nat) (off : Word) : DWord × Nat :=
  let o : BitVec 37 := (k.pair rbase).zeroExtend 37 + (k.pair rbase).zeroExtend 37 + off.signExtend 37
  (o.extractLsb' 1 36, o.toNat % 2)
/-- The target of a branch or jump at `pc` (R36). -/
def branchTarget {w : Nat} (pc : DWord) (disp : BitVec w) : DWord := pc + 2 * disp.signExtend 36

/-! ### Interrupt lines (Table 22.5) -/

/-- A line of the secure pair. -/
def scLine (s : State) (c n : Nat) : Bool :=
  match n with
  | 0 => s.on Reg.TAMP_STAT_ALARM
  | 1 => s.on Reg.FLOOR_STAT_CMF
  | 2 => s.on (Reg.INT_LATCH_FLT c)
  | 3 => (List.range 32).any (fun r => s.on (Reg.LANE_RESULT_DONE r)) || (List.range 64).any (fun u => s.on (Reg.DU_RESULT_DONE u)) ||
      (List.range 16).any (fun u => s.on (Reg.NU_RESULT_DONE u)) || s.on Reg.BLOCK_RST_STAT_DONE
  | 4 => decide (s.viol ≠ [])
  | 5 => s.on Reg.MEM_STAT_UE || s.on Reg.MEM_STAT_POISON_EVT || s.on Reg.MEM_STAT_CTR_FAIL || s.on Reg.MEM_STAT_VSTUCK
  | 6 => s.on (Reg.INT_LATCH_ENT c)
  | 7 => s.on Reg.KS_OP_STAT_DONE || s.on Reg.KS_STAT_LEASE_WAIT
  | 8 => s.on Reg.JNL_STAT_LEVEL_CHG || s.on Reg.JREC_STAT_DONE
  | 9 => s.cmds.any (fun (x : Cmd) => decide (x.ph = CmdPhase.ingress ∧ leAt x.raw 0 1 ≠ 1 ∧ leAt x.raw 0 1 ≠ 2))
  | 11 => s.on Reg.MC_STAT_WDOG || s.on Reg.MC_STAT_HALTED || s.on Reg.MGT_STAT_MON_CRIT
  | 12 => s.on Reg.CELL_CMD_STAT_DONE || s.on (Reg.MEASX_STAT_DONE c) || s.on Reg.MEM_LW_STAT_DONE
  | 13 => s.on (Reg.INT_LATCH_MODE c)
  | 14 => s.on (Reg.INT_LATCH_DOOR c)
  | 15 => s.irq.wdogHalf
  | _ => false

/-- A line of the MC. -/
def mcLine (s : State) (n : Nat) : Bool :=
  let l := s.rd Reg.MC_INT_LATCH
  match n with
  | 0 => bit l 0
  | 1 => s.on Reg.GPIO_STAT_CONFLICT
  | 2 => bit l 1
  | 3 => s.irq.ethFrame
  | 4 => s.irq.mctpMsg
  | 5 => bit l 2
  | 6 => bit l 3
  | 7 => bit l 3
  | _ => false

/-- Is a line of a controller pending? -/
def linePending (s : State) (c : CtlId) (n : Nat) : Bool := if c = .mc then mcLine s n else scLine s c.num n

/-- Is a line routed to the secure world (IROUTE)? The MC has only the normal world. -/
def routedSecure (c : CtlId) (k : Ctl) (n : Nat) : Bool := decide (c ≠ .mc) && k.iroute.getLsbD n

/-- The pending lines routed to a world. -/
def pendingLines (s : State) (c : CtlId) (secure : Bool) : List Nat :=
  (List.range 16).filter (fun n => linePending s c n && (routedSecure c (s.ctl c) n == secure))

/-- The pending lines routed to a world with their IMASK bit set there. -/
def enabledLines (s : State) (c : CtlId) (secure : Bool) : List Nat :=
  let m := (if secure then (s.ctl c).secu else (s.ctl c).norm).imask
  (pendingLines s c secure).filter (fun n => m.getLsbD n)

/-- Does WAIT end (R82)? -/
def waitEnds (s : State) (c : CtlId) : Bool :=
  let k := s.ctl c
  decide (enabledLines s c k.secure ≠ []) || (k.secure && decide (enabledLines s c false ≠ []))

/-! ### Control registers -/

/-- Does MFC or MTC raise Privilege (Table 3.4, R34)? -/
def cregPrivilege (c : CtlId) (k : Ctl) (n : Nat) (isWrite : Bool) : Bool :=
  if 0x30 ≤ n then decide (c = .mc) || !(k.secure && k.priv)
  else if 0x20 ≤ n then !k.priv
  else isWrite && decide (n = 1 ∨ n = 6) && !k.priv

/-- The top frame: frame DEPTH − 1, or frame 0 (R76). -/
def WorldCtx.top (w : WorldCtx) : Frame := if w.depth = 2 then w.f1 else w.f0
/-- The top frame changed. -/
def WorldCtx.onTop (w : WorldCtx) (f : Frame → Frame) : WorldCtx := if w.depth = 2 then { w with f1 := f w.f1 } else { w with f0 := f w.f0 }

/-- FSTAT (Table 3.9). -/
def Frame.stat (f : Frame) : Word :=
  BitVec.ofNat 18 (b2n f.pie + 2 * b2n f.plevel + 4 * b2n f.dsx + 8 * b2n f.shadow + 16 * b2n f.shpos)
/-- A frame with FSTAT written. -/
def Frame.setStat (f : Frame) (v : Word) : Frame :=
  { f with pie := v.getLsbD 0, plevel := v.getLsbD 1, dsx := v.getLsbD 2, shadow := v.getLsbD 3, shpos := v.getLsbD 4 }

/-- A double word with its low word written, `low` bits of which read as zero. -/
def putLow (d : DWord) (v : Word) (low : Nat) : DWord := dword (hiW d) (BitVec.ofNat 18 (v.toNat / 2 ^ low * 2 ^ low))
/-- A double word with its high word written. -/
def putHigh (d : DWord) (v : Word) : DWord := dword v (loW d)

/-- The control register that MFC finds in a world of a controller (Tables 2.4 to 2.8, 3.3, 3.6, 3.9). -/
def cregRead (s : State) (c : CtlId) (secure : Bool) (n : Nat) : Word :=
  let k := s.ctl c
  let w := if secure then k.secu else k.norm
  match n with
  | 0x00 => w.flags.toWord
  | 0x01 => BitVec.ofNat 18 (b2n w.dzt + 2 * b2n w.pet)
  | 0x02 => BitVec.ofNat 18 (c.num + 4 * b2n k.secure + 8 * b2n k.priv + 0x100)
  | 0x04 => loW k.cyc
  | 0x05 => k.cycHold.getD (hiW k.cyc)
  | 0x06 => BitVec.ofNat 18 (b2n k.cyo)
  | 0x10 => BitVec.ofNat 18 (b2n w.lp0.act + 2 * b2n w.lp1.act)
  | 0x11 => w.lp0.cnt
  | 0x12 => loW w.lp0.sta
  | 0x13 => hiW w.lp0.sta
  | 0x14 => loW w.lp0.fin
  | 0x15 => hiW w.lp0.fin
  | 0x19 => w.lp1.cnt
  | 0x1A => loW w.lp1.sta
  | 0x1B => hiW w.lp1.sta
  | 0x1C => loW w.lp1.fin
  | 0x1D => hiW w.lp1.fin
  | 0x20 => BitVec.ofNat 18 (b2n w.ie + 2 * w.depth)
  | 0x21 => BitVec.ofNat 18 (w.top.vec.toNat + 32 * w.top.code.toNat)
  | 0x22 => loW w.top.epc
  | 0x23 => hiW w.top.epc
  | 0x24 => loW w.top.eaddr
  | 0x25 => hiW w.top.eaddr
  | 0x26 => loW w.vbase
  | 0x27 => hiW w.vbase
  | 0x28 => BitVec.ofNat 18 ((pendingLines s c secure).map (fun i => 2 ^ i)).sum
  | 0x29 => w.imask.zeroExtend 18
  | 0x2A => w.escr0
  | 0x2B => w.escr1
  | 0x2C => w.top.stat
  | 0x30 => BitVec.ofNat 18 (b2n k.gvalid + 2 * b2n k.grlevel + 4 * b2n k.ghwentry)
  | 0x31 => loW k.gpc
  | 0x32 => hiW k.gpc
  | 0x33 => k.gcode.zeroExtend 18
  | 0x34 => loW k.monbase
  | 0x35 => hiW k.monbase
  | 0x36 => k.iroute.zeroExtend 18
  | _ => 0

/-- What reading CYC_L and CYC_H does to the holding register (R35). -/
def cregAfterRead (k : Ctl) (n : Nat) : Ctl :=
  if n = 4 then { k with cycHold := some (hiW k.cyc) } else if n = 5 then { k with cycHold := none } else k

/-- A register of a world's own state written (Tables 2.4, 2.5, 3.3, 3.9); RO fields keep their value (R34). -/
def WorldCtx.cregWrite (w : WorldCtx) (n : Nat) (v : Word) : WorldCtx :=
  match n with
  | 0x00 => { w with flags := Flags.ofWord v }
  | 0x01 => { w with dzt := v.getLsbD 0, pet := v.getLsbD 1 }
  | 0x10 => { w with lp0 := { w.lp0 with act := v.getLsbD 0 }, lp1 := { w.lp1 with act := v.getLsbD 1 } }
  | 0x11 => { w with lp0 := { w.lp0 with cnt := v } }
  | 0x12 => { w with lp0 := { w.lp0 with sta := putLow w.lp0.sta v 1 } }
  | 0x13 => { w with lp0 := { w.lp0 with sta := putHigh w.lp0.sta v } }
  | 0x14 => { w with lp0 := { w.lp0 with fin := putLow w.lp0.fin v 1 } }
  | 0x15 => { w with lp0 := { w.lp0 with fin := putHigh w.lp0.fin v } }
  | 0x19 => { w with lp1 := { w.lp1 with cnt := v } }
  | 0x1A => { w with lp1 := { w.lp1 with sta := putLow w.lp1.sta v 1 } }
  | 0x1B => { w with lp1 := { w.lp1 with sta := putHigh w.lp1.sta v } }
  | 0x1C => { w with lp1 := { w.lp1 with fin := putLow w.lp1.fin v 1 } }
  | 0x1D => { w with lp1 := { w.lp1 with fin := putHigh w.lp1.fin v } }
  | 0x20 => { w with ie := v.getLsbD 0, depth := min 2 (v.toNat / 2 % 4) }
  | 0x22 => w.onTop (fun f => { f with epc := putLow f.epc v 1 })
  | 0x23 => w.onTop (fun f => { f with epc := putHigh f.epc v })
  | 0x26 => { w with vbase := putLow w.vbase v 9 }
  | 0x27 => { w with vbase := putHigh w.vbase v }
  | 0x29 => { w with imask := v.truncate 16 }
  | 0x2A => { w with escr0 := v }
  | 0x2B => { w with escr1 := v }
  | 0x2C => w.onTop (fun f => f.setStat v)
  | _ => w

/-- The control register that MTC writes, in a world of the controller. -/
def Ctl.cregWrite (k : Ctl) (secure : Bool) (n : Nat) (v : Word) : Ctl :=
  match n with
  | 0x06 => if v.getLsbD 0 then { k with cyo := false } else k
  | 0x30 => { k with gvalid := v.getLsbD 0, grlevel := v.getLsbD 1, ghwentry := v.getLsbD 2 }
  | 0x31 => { k with gpc := putLow k.gpc v 1 }
  | 0x32 => { k with gpc := putHigh k.gpc v }
  | 0x34 => { k with monbase := putLow k.monbase v 10 }
  | 0x35 => { k with monbase := putHigh k.monbase v }
  | 0x36 => { k with iroute := v.truncate 16 }
  | _ => if secure then { k with secu := k.secu.cregWrite n v } else { k with norm := k.norm.cregWrite n v }

end Sys2Proof.Machine
end

