-- ==== Sys2Proof/Machine/Ctl.lean ====
section
/-! DEFINITION. What every instruction of a controller shares (spec/03): its issue with the fetch check and the priorities of Table 3.7,
completion with loops (R66), delay slots (R59 to R61) and shadows (R72), exceptions (R74 to R77, R83), interrupts (R80, R81), and memory as the
controllers and the debug master load and store it, but for device registers (R46 to R51, R334). -/
namespace Sys2Proof.Machine

def State.onCtl (s : State) (c : CtlId) (f : Ctl → Ctl) : State := s.setCtl c (f (s.ctl c))

/-- Cycles of the controller's clock pass (R35). -/
def Ctl.tick (k : Ctl) (n : Nat) : Ctl :=
  { k with cyc := k.cyc + BitVec.ofNat 36 n, cyo := k.cyo || decide (2 ^ 36 ≤ k.cyc.toNat + n) }

/-! ### Exceptions -/

/-- The restart address of an exception, and whether the faulting instruction is a delay slot (Table 3.8). -/
def Ctl.restart (k : Ctl) : DWord × Bool :=
  match k.branch with
  | some b => (b.owner, true)
  | none => (k.pc, false)

/-- A frame filled and the transfer to the vector (R75, R76), in the current world, whose DEPTH is below 2. -/
def Ctl.enter (k : Ctl) (epc : DWord) (dsx sh shpos : Bool) (vec code eaddr : Nat) : Ctl :=
  let w := k.cur
  let f : Frame := ⟨epc, BitVec.ofNat 8 code, BitVec.ofNat 5 vec, BitVec.ofNat 36 eaddr, shpos, sh, dsx, k.priv, w.ie⟩
  let k := k.onCur (fun w => { (if w.depth = 0 then { w with f0 := f } else { w with f1 := f }) with depth := w.depth + 1, ie := false })
  { k with priv := true, pc := w.vbase + BitVec.ofNat 36 (16 * vec), branch := none, shadow := 0, waiting := false }

/-- A hardware entry into the monitor (R81, R83): GATE's entry with HWENTRY set. -/
def Ctl.monitorEntry (k : Ctl) (gpc : DWord) (code shadow : Nat) : Ctl :=
  { k with
    gvalid := true, grlevel := k.priv, ghwentry := true, gpc := gpc, gcode := BitVec.ofNat 8 code
    secure := true, priv := true, pc := k.monbase + BitVec.ofNat 36 (4 * code), branch := none, shadow := shadow, waiting := false }

/-- The MC halts at a double exception (R83, R411): MC_STAT.HALTED with a health log record. -/
def mcHalts (s : State) : State :=
  let s := s.onCtl .mc (fun k => { k with halted := true })
  hlogAdd ((s.flag Reg.MC_STAT_HALTED true).flag Reg.MGT_STAT_MC_HALTED true) 5 0xFF []

/-- An exception on the instruction at the controller's pc (R74 to R77); at DEPTH 2 it is a double exception (R83). -/
def takeExc (s : State) (c : CtlId) (vec code eaddr : Nat) : State :=
  let k := s.ctl c
  if k.cur.depth < 2 then
    let r := k.restart
    s.setCtl c ((k.enter r.1 r.2 (decide (k.shadow ≠ 0)) (decide (k.shadow = 1)) vec code eaddr).tick 6)
  else if c = .mc then mcHalts s
  else if k.secure then enterFault s 7
  else s.setCtl c ((k.monitorEntry k.pc 0xFE 0).tick 6)

/-! ### Completion -/

/-- The instruction at pc completes: a delay slot commits its branch (R61), the loop hardware acts (R66), and one instruction of a shadow is
done (R72). A single step of the debug port ends. -/
def Ctl.complete (k : Ctl) (cycles : Nat) : Ctl :=
  let w := k.cur
  let r := loopNext w.lp0 w.lp1 k.pc 2
  let dest := match k.branch with
    | some b => b.dest
    | none => k.pc + 2
  let k := match k.branch with
    | some b => if b.link then k.setPair 30 (b.owner + 4) else k
    | none => k
  let k := k.onCur (fun w => { w with lp0 := r.1, lp1 := r.2.1 })
  { k.tick cycles with pc := r.2.2.getD dest, branch := none, shadow := k.shadow - 1, halted := k.halted || k.step, step := false }

/-- A branch or jump at pc is decided: its delay slot is next (R59). -/
def Ctl.branchTo (k : Ctl) (dest : DWord) (link : Bool) (cycles : Nat) : Ctl :=
  { k.tick cycles with branch := some ⟨k.pc, dest, link⟩, pc := k.pc + 2, shadow := k.shadow - 1, halted := k.halted || k.step, step := false }

/-- An instruction that moves control itself, without a delay slot; `shadow` is the shadow it leaves, if it makes one. -/
def Ctl.goTo (k : Ctl) (dest : DWord) (shadow : Option Nat) (cycles : Nat) : Ctl :=
  { k.tick cycles with pc := dest, shadow := shadow.getD (k.shadow - 1), halted := k.halted || k.step, step := false }

/-! ### Issue -/

/-- How an instruction's own operation ends: it completes, it decides a delayed branch, it moves control, it stays where it is with part of its
work done (R55), or it raises an exception. -/
inductive Ran
  | ok (s : State)
  | delayed (s : State) (dest : DWord) (link : Bool)
  | goes (s : State) (dest : DWord) (shadow : Option Nat)
  | stays (s : State)
  | raises (s : State) (vec code eaddr : Nat)
  deriving DecidableEq, Repr

/-- What an instruction's encoding and place decide before it acts: its cycles (Table 2.20, Table 3.1), whether it is illegal, whether it lacks the
level or world, whether it is of R63's list, the loop exception it would raise (Table 3.2, 0 for none). -/
structure Issue where
  cycles : Nat
  illegal : Bool
  privilege : Bool
  transfer : Bool
  loopCause : Nat
  deriving DecidableEq, Repr

/-- An instruction without conditions of its own. -/
def Issue.plain (cycles : Nat) (illegal : Bool) : Issue := ⟨cycles, illegal, false, false, 0⟩
/-- An instruction of R63's list. -/
def Issue.jump (cycles : Nat) (illegal : Bool) : Issue := ⟨cycles, illegal, false, true, 0⟩

/-- Does the controller execute? It runs, is not halted unless stepped, and waits no longer (R82, R351). -/
def canRun (s : State) (c : CtlId) : Bool :=
  let k := s.ctl c
  k.running && (!k.halted || k.step) && (!k.waiting || waitEnds s c)

/-- A controller's transaction (Table 14.1). -/
def ctlAccess (s : State) (c : CtlId) (kind : Kind) (addr : DWord) (nonet : Nat) : Access :=
  ⟨c.num, (s.ctl c).secure, (s.ctl c).priv, 0xFFF, kind, addr.toNat, nonet⟩

/-- The fetch of the instruction at pc: refused by the fabric, or failed in DRAM (R47, R361, Table 3.7). -/
def fetchCheck (s : State) (c : CtlId) : State × Option (Nat × Nat) :=
  let a := ctlAccess s c .fetch (s.ctl c).pc 0
  match checkAccess s a with
  | some r => (reportRefusal s a r, some (2, r.code 0))
  | none =>
    if targetOf a.m a.addr = 7 then
      let (s, e) := lineCheck s (lineOf (2 * (a.addr - 0x400000000))) a.m
      (s, if e.isSome then some (1, 0) else none)
    else (s, none)

/-- Cause 4 of Table 3.2: a control transfer at LEND or LEND − 2 of an active level. -/
def atLoopEnd (k : Ctl) : Bool :=
  let w := k.cur
  (w.lp0.act && decide (k.pc = w.lp0.fin ∨ k.pc = w.lp0.fin - 2)) || (w.lp1.act && decide (k.pc = w.lp1.fin ∨ k.pc = w.lp1.fin - 2))

/-- The exception that stands before the operation, by the priorities of Table 3.7. -/
def issueFault (k : Ctl) (i : Issue) : Option (Nat × Nat) :=
  if i.illegal then some (4, 0)
  else if i.privilege then some (5, 0)
  else if i.transfer ∧ k.branch.isSome then some (6, 0)
  else if i.loopCause ≠ 0 then some (7, i.loopCause)
  else if i.transfer ∧ atLoopEnd k then some (7, 4)
  else none

/-- An instruction ends as its operation says. -/
def ctlEnds (c : CtlId) (cycles : Nat) : Ran → State
  | .ok s => s.onCtl c (fun k => k.complete cycles)
  | .delayed s dest link => s.onCtl c (fun k => k.branchTo dest link cycles)
  | .goes s dest sh => s.onCtl c (fun k => k.goTo dest sh cycles)
  | .stays s => s.onCtl c (fun k => k.tick cycles)
  | .raises s vec code eaddr => takeExc s c vec code eaddr

/-- An instruction is executed at the controller's pc. -/
def ctlIssue (s : State) (c : CtlId) (i : Issue) (op : State → Ran) : State :=
  if ¬ canRun s c then s
  else
    let s := s.onCtl c (fun k => { k with waiting := false })
    match fetchCheck s c with
    | (s, some e) => takeExc s c e.1 e.2 (s.ctl c).pc.toNat
    | (s, none) =>
      match issueFault (s.ctl c) i with
      | some e => takeExc s c e.1 e.2 0
      | none => ctlEnds c i.cycles (op s)

/-! ### Interrupts -/

/-- A boundary that R72 and R78 permit. -/
def atBoundary (k : Ctl) : Bool := k.running && !k.halted && k.branch.isNone && decide (k.shadow = 0)

/-- The pending, enabled line of highest priority is taken (R80). -/
def interruptTaken (s : State) (c : CtlId) : State :=
  let k := s.ctl c
  match enabledLines s c k.secure with
  | [] => s
  | n :: _ =>
    if atBoundary k && k.cur.ie && decide (k.cur.depth < 2) then
      s.setCtl c ((k.enter k.pc false false false 0xF n 0).tick 6)
    else s

/-- The entry for a secure interrupt in the normal world (R81). -/
def secureEntry (s : State) (c : CtlId) : State :=
  let k := s.ctl c
  if c ≠ .mc ∧ ¬ k.secure ∧ atBoundary k ∧ enabledLines s c true ≠ [] then
    s.setCtl c ((k.monitorEntry k.pc 0xFF 2).tick 6)
  else s

/-- The cycle count passes its end (R35). -/
def cycleWrap (s : State) (c : CtlId) : State := if (s.ctl c).running then s.onCtl c (fun k => { k with cyc := 0, cyo := true }) else s

/-! ### Memory (R334) -/

/-- A word of memory that is not a device register, after its check: the word, or a Bus Error (Table 15.5). -/
def memWord (s : State) (m addr : Nat) : State × Option Word :=
  match targetOf m addr with
  | 1 => (s, some (wordOf (Config.romNonet (2 * addr + 1)) (Config.romNonet (2 * addr))))
  | 5 =>
    let i := 2 * (addr - 0x4000000)
    (s, some (wordOf (nonetOf (s.jbufOctet (i + 1))) (nonetOf (s.jbufOctet i))))
  | 7 =>
    let o := 2 * (addr - 0x400000000)
    match lineCheck s (lineOf o) m with
    | (s, some _) => (s, none)
    | (s, none) => (s, some (wordOf (nonetOf (tget 0 s.mem.dram (o + 1))) (nonetOf (tget 0 s.mem.dram o))))
  | _ => (s, some (s.sramWord addr))

/-- Nonets written to memory that is not a device register: DRAM drops their parity bits (R334) and takes them as one partial write. False on a
Bus Error. The nonets are given by their number, twice the word address and up. -/
def memStore (s : State) (m addr : Nat) (l : List (Nat × Nonet)) : State × Bool :=
  if targetOf m addr = 7 then
    let line := lineOf (2 * (addr - 0x400000000))
    let (s, e) := linePartialWrite s line m (l.map (fun x => (x.1 - 2 * 0x400000000, x.2.extractLsb' 0 8)))
    (s, e.isNone)
  else (l.foldl (fun (s : State) (x : Nat × Nonet) => s.setNonet (x.1 / 2) x.1 x.2) s, true)

/-- The two nonets of a word at an address. -/
def wordNonets (addr : Nat) (w : Word) : List (Nat × Nonet) := [(2 * addr, nonetIn w 0), (2 * addr + 1, nonetIn w 1)]

def execInterruptTaken (c : CtlId) (s : State) : Out := done (interruptTaken s c)
def execSecureInterruptEntry (c : CtlId) (s : State) : Out := done (secureEntry s c)
def execCycleCountWrap (c : CtlId) (s : State) : Out := done (cycleWrap s c)

end Sys2Proof.Machine
end

