-- ==== Sys2Proof/Machine/Alu.lean ====
section
/-! DEFINITION. Arithmetic, logic and address instructions (R39 to R45, Tables 2.10 and 2.11) on a controller and in slot 0 of a figure step
(R89 to R91, Table 4.2), and LOOP in both places (R64, R65, R478). -/
namespace Sys2Proof.Machine

/-! ### Slot 0 of a step -/

/-- What completes with the slot-0 instruction of a step (R66 as R478 reads it, R103): the loop hardware's changes, valid for the next step, and
the body-loop counter after the body's last step, where no loop goes back. -/
def slotEnds (s : State) (a : At) (i : Inst) : State :=
  let q := s.seq a.fs
  let r := loopNext q.lp0 q.lp1 (BitVec.ofNat 36 a.step) 1
  let s := if r.1 = q.lp0 then s else launch s a [(1, .loop 0 r.1)]
  let s := if r.2.1 = q.lp1 then s else launch s a [(1, .loop 1 r.2.1)]
  if i.hdr.body ∧ a.step.val = i.hdr.bodyLast ∧ r.2.2.all (fun n => decide (n.toNat = a.step.val + 1)) then s.setSeq a.fs { s.seq a.fs with body := q.body - 1 } else s

/-- A slot-0 instruction issues: its results, or a refused access of the local data memory (R90). -/
def slot0 (s : State) (a : At) (f : Seq → Option (List (Nat × LandEff))) : State :=
  issue s a (fun s i =>
    match f (s.seq a.fs) with
    | none => monitor s a 2
    | some l => slotEnds (launch s a l) a i)

/-- The flags of a result as they land. -/
def FlagRes.land (f : FlagRes) : LandEff := .flags f.z f.n f.c f.v

/-- A result's landings in a sequencer, `lat` cycles on. -/
def AluRes.lands (rd : Fin 32) (lat : Nat) : AluRes → List (Nat × LandEff)
  | .word v f => [(lat, .freg rd v), (lat, f.land)]
  | .pair v (some f) => [(lat, .fpair rd v), (lat, f.land)]
  | .pair v none => [(lat, .fpair rd v)]
  | .flags f => [(lat, f.land)]

/-- A controller with a result written (R39). -/
def Ctl.result (k : Ctl) (rd : Nat) : AluRes → Ctl
  | .word v f => (k.setReg rd v).onCur (fun w => { w with flags := w.flags.put f })
  | .pair v (some f) => (k.setPair rd v).onCur (fun w => { w with flags := w.flags.put f })
  | .pair v none => k.setPair rd v
  | .flags f => k.onCur (fun w => { w with flags := w.flags.put f })

/-- An arithmetic instruction in either place: `f` computes from registers, pairs and FLAGS. -/
def aluOp (x : Site) (lat : Nat) (legal : Bool) (rd : Fin 32) (f : (Nat → Word) → (Nat → DWord) → Flags → AluRes) (s : State) : State :=
  match x with
  | .ctl c => ctlIssue s c (.plain 1 (!legal)) (fun s =>
      let k := s.ctl c
      .ok (s.setCtl c (k.result rd (f k.reg k.pair k.cur.flags))))
  | .fig a => if legal then slot0 s a (fun q => some ((f q.reg q.pair q.flags).lands rd lat)) else s

/-- The idle encoding of slot 0 (R89). -/
def idleSlot (a : At) (s : State) : State := slot0 s a (fun _ => some [])

def execAdd (x : Site) (rd ra rb : Fin 32) (s : State) : Out :=
  done (match x with
    | .fig a => if rd = 0 ∧ ra = 0 ∧ rb = 0 then idleSlot a s
        else aluOp x 1 true rd (fun r _ _ => .ofW (addFlags (r ra) (r rb) false)) s
    | .ctl _ => aluOp x 1 true rd (fun r _ _ => .ofW (addFlags (r ra) (r rb) false)) s)
def execAdc (x : Site) (rd ra rb : Fin 32) (s : State) : Out := done (aluOp x 1 true rd (fun r _ f => .ofW (addFlags (r ra) (r rb) f.c)) s)
def execSub (x : Site) (rd ra rb : Fin 32) (s : State) : Out := done (aluOp x 1 true rd (fun r _ _ => .ofW (subFlags (r ra) (r rb) false)) s)
def execSbc (x : Site) (rd ra rb : Fin 32) (s : State) : Out := done (aluOp x 1 true rd (fun r _ f => .ofW (subFlags (r ra) (r rb) f.c)) s)
def execNeg (x : Site) (rd ra : Fin 32) (s : State) : Out := done (aluOp x 1 true rd (fun r _ _ => .ofW (subFlags 0 (r ra) false)) s)
def execCmp (x : Site) (ra rb : Fin 32) (s : State) : Out := done (aluOp x 1 true 0 (fun r _ _ => .flags (subFlags (r ra) (r rb) false).2) s)
def execAnd (x : Site) (rd ra rb : Fin 32) (s : State) : Out := done (aluOp x 1 true rd (fun r _ _ => logicRes (r ra &&& r rb)) s)
def execOr (x : Site) (rd ra rb : Fin 32) (s : State) : Out := done (aluOp x 1 true rd (fun r _ _ => logicRes (r ra ||| r rb)) s)
def execXor (x : Site) (rd ra rb : Fin 32) (s : State) : Out := done (aluOp x 1 true rd (fun r _ _ => logicRes (r ra ^^^ r rb)) s)
def execAndn (x : Site) (rd ra rb : Fin 32) (s : State) : Out := done (aluOp x 1 true rd (fun r _ _ => logicRes (r ra &&& ~~~ r rb)) s)
def execShl (x : Site) (rd ra rb : Fin 32) (s : State) : Out := done (aluOp x 1 true rd (fun r _ _ => shiftAlu .shl (r ra) (r rb).toNat) s)
def execShr (x : Site) (rd ra rb : Fin 32) (s : State) : Out := done (aluOp x 1 true rd (fun r _ _ => shiftAlu .shr (r ra) (r rb).toNat) s)
def execSar (x : Site) (rd ra rb : Fin 32) (s : State) : Out := done (aluOp x 1 true rd (fun r _ _ => shiftAlu .sar (r ra) (r rb).toNat) s)
def execRol (x : Site) (rd ra rb : Fin 32) (s : State) : Out := done (aluOp x 1 true rd (fun r _ _ => shiftAlu .rol (r ra) (r rb).toNat) s)
def execRor (x : Site) (rd ra rb : Fin 32) (s : State) : Out := done (aluOp x 1 true rd (fun r _ _ => shiftAlu .ror (r ra) (r rb).toNat) s)
def execShli (x : Site) (rd ra amount : Fin 32) (s : State) : Out := done (aluOp x 1 true rd (fun r _ _ => shiftAlu .shl (r ra) amount) s)
def execShri (x : Site) (rd ra amount : Fin 32) (s : State) : Out := done (aluOp x 1 true rd (fun r _ _ => shiftAlu .shr (r ra) amount) s)
def execSari (x : Site) (rd ra amount : Fin 32) (s : State) : Out := done (aluOp x 1 true rd (fun r _ _ => shiftAlu .sar (r ra) amount) s)
def execRoli (x : Site) (rd ra amount : Fin 32) (s : State) : Out := done (aluOp x 1 true rd (fun r _ _ => shiftAlu .rol (r ra) amount) s)
def execRori (x : Site) (rd ra amount : Fin 32) (s : State) : Out := done (aluOp x 1 true rd (fun r _ _ => shiftAlu .ror (r ra) amount) s)
def execMul (x : Site) (rd ra rb : Fin 32) (s : State) : Out := done (aluOp x 3 (evenReg rd) rd (fun r _ _ => mulRes true (r ra) (r rb)) s)
def execMulu (x : Site) (rd ra rb : Fin 32) (s : State) : Out := done (aluOp x 3 (evenReg rd) rd (fun r _ _ => mulRes false (r ra) (r rb)) s)
def execMovd (x : Site) (rd ra : Fin 32) (s : State) : Out :=
  done (aluOp x 1 (evenReg rd && evenReg ra) rd (fun _ p _ => .pair (p ra) (some (zn (p ra) none none))) s)
def execAddd (x : Site) (rd ra rb : Fin 32) (s : State) : Out :=
  done (aluOp x 1 (evenReg rd && evenReg ra && evenReg rb) rd (fun _ p _ => .ofP (addFlags (p ra) (p rb) false)) s)
def execSubd (x : Site) (rd ra rb : Fin 32) (s : State) : Out :=
  done (aluOp x 1 (evenReg rd && evenReg ra && evenReg rb) rd (fun _ p _ => .ofP (subFlags (p ra) (p rb) false)) s)
def execClz (x : Site) (rd ra : Fin 32) (s : State) : Out := done (aluOp x 1 true rd (fun r _ _ => logicRes (BitVec.ofNat 18 (clz (r ra)))) s)
def execPacko (x : Site) (rd ra rb : Fin 32) (s : State) : Out := done (aluOp x 1 true rd (fun r _ _ => logicRes (packo (r ra) (r rb))) s)
def execAddi (x : Site) (rd ra : Fin 32) (imm : Word) (s : State) : Out := done (aluOp x 1 true rd (fun r _ _ => .ofW (addFlags (r ra) imm false)) s)
def execAndi (x : Site) (rd ra : Fin 32) (imm : Word) (s : State) : Out := done (aluOp x 1 true rd (fun r _ _ => logicRes (r ra &&& imm)) s)
def execOri (x : Site) (rd ra : Fin 32) (imm : Word) (s : State) : Out := done (aluOp x 1 true rd (fun r _ _ => logicRes (r ra ||| imm)) s)
def execXori (x : Site) (rd ra : Fin 32) (imm : Word) (s : State) : Out := done (aluOp x 1 true rd (fun r _ _ => logicRes (r ra ^^^ imm)) s)
def execCmpi (x : Site) (ra : Fin 32) (imm : Word) (s : State) : Out := done (aluOp x 1 true 0 (fun r _ _ => .flags (subFlags (r ra) imm false).2) s)
/-- LEA: pair plus sign-extended immediate, no flags (Table 2.10). -/
def execLea (x : Site) (rd ra : Fin 32) (imm : Word) (s : State) : Out :=
  done (aluOp x 1 (evenReg rd && evenReg ra) rd (fun _ p _ => .pair (p ra + imm.signExtend 36) none) s)

/-- DIV and DIVU (R44, R45): a zero divisor sets DZ, and with DZT raises Divide by Zero, writing nothing else. -/
def divOp (c : CtlId) (signed : Bool) (rd ra rb : Fin 32) (s : State) : State :=
  ctlIssue s c (.plain 20 (!evenReg rd)) (fun s =>
    let k := s.ctl c
    let a := k.reg ra
    let b := k.reg rb
    let k := if b = 0 then k.onCur (fun w => { w with flags := { w.flags with dz := true } }) else k
    if b = 0 ∧ k.cur.dzt then .raises (s.setCtl c k) 0xC 0 0 else .ok (s.setCtl c (k.result rd (divAlu signed a b))))

def execDiv (c : CtlId) (rd ra rb : Fin 32) (s : State) : Out := done (divOp c true rd ra rb s)
def execDivu (c : CtlId) (rd ra rb : Fin 32) (s : State) : Out := done (divOp c false rd ra rb s)

/-! ### LOOP -/

/-- The count of LOOP as a controller reads it. -/
def Ctl.loopCount (k : Ctl) : LoopCount → Word
  | .imm n => n.zeroExtend 18
  | .reg r => k.reg r

/-- LOOP (R64, R65). In slot 0 only an immediate count is accepted (R89), and R65's causes are the verifier's (R478). -/
def execLoop (x : Site) (lvl : Fin 2) (count : LoopCount) (len : BitVec 12) (s : State) : Out :=
  done (match x with
    | .ctl c =>
      let k := s.ctl c
      let w := k.cur
      ctlIssue s c ⟨1, decide (len = 0), false, true, loopCause w.lp0 w.lp1 lvl k.pc 2 len.toNat⟩ (fun s =>
        let k := s.ctl c
        let n := k.loopCount count
        let l := startLoop (if lvl = 0 then k.cur.lp0 else k.cur.lp1) k.pc 2 n len.toNat
        let s := s.setCtl c (k.onCur (fun w => if lvl = 0 then { w with lp0 := l } else { w with lp1 := l }))
        .goes s (if n = 0 then l.fin + 2 else l.sta) none)
    | .fig a =>
      match count with
      | .reg _ => s
      | .imm n =>
        if len = 0 then s
        else slot0 s a (fun q =>
          some [(1, .loop lvl (startLoop (if lvl = 0 then q.lp0 else q.lp1) (BitVec.ofNat 36 a.step) 1 (n.zeroExtend 18) len.toNat))]))

end Sys2Proof.Machine
end

