-- ==== Sys2Proof/Machine/Branch.lean ====
section
/-! DEFINITION. Branches, jumps and the system functions of a controller (R59 to R63, R71, R79, R82, Tables 2.10, 2.12, 2.13, 3.1, 3.5),
and illegal encodings (R38). -/
namespace Sys2Proof.Machine

/-- A compare-and-branch (R59): the decision from ra and rb before the delay slot. -/
def compareBranch (c : CtlId) (ra rb : Fin 32) (disp : Word) (cond : Word → Word → Bool) (s : State) : State :=
  ctlIssue s c (.jump 1 false) (fun s =>
    let k := s.ctl c
    .delayed s (if cond (k.reg ra) (k.reg rb) then branchTarget k.pc disp else k.pc + 4) false)

/-- JR and CALLR (R60, R62): an odd target raises Alignment at the jump. -/
def jumpPair (c : CtlId) (ra : Fin 32) (link : Bool) (s : State) : State :=
  ctlIssue s c (.jump 2 (!evenReg ra)) (fun s =>
    let t := (s.ctl c).pair ra
    if t.toNat % 2 = 1 then .raises s 9 1 t.toNat else .delayed s t link)

/-- GATE (Table 3.5, R72): entry to the monitor, return from it, or refusal. -/
def gateOp (s : State) (c : CtlId) (code : BitVec 8) : Ran :=
  let k := s.ctl c
  let refused : Ran := .raises s 8 code.toNat 0
  if k.shadow ≠ 0 ∨ c = .mc then refused
  else if k.secure then
    if k.priv ∧ k.gvalid then .goes (s.setCtl c { k with secure := false, priv := k.grlevel, gvalid := false }) k.gpc (some 2)
    else refused
  else if code.toNat ≥ 0xFE then refused
  else
    .goes (s.setCtl c { k with
      gvalid := true, grlevel := k.priv, ghwentry := false, gpc := k.pc + 2, gcode := code, secure := true, priv := true })
      (k.monbase + 4 * code.zeroExtend 36) (some 2)

/-- ERET from the top frame (R73, R79). -/
def eretOp (s : State) (c : CtlId) : Ran :=
  let k := s.ctl c
  let f := k.cur.top
  let k := k.onCur (fun w => { w.onTop (fun f => f.setStat 0) with depth := w.depth - 1, ie := f.pie })
  .goes (s.setCtl c { k with priv := f.plevel }) f.epc (if f.shadow then some (2 - b2n f.shpos) else none)

/-- Does a level-2 debug session hold a controller (R351)? -/
def debugHolds (s : State) (c : CtlId) : Bool :=
  s.on Reg.DBG_STAT_ACTIVE && decide (s.rd Reg.DBG_STAT_LEVEL = 2) && bit (s.rd Reg.DBG_STAT_TARGETS) c.num

/-- BRK (R351, Table 3.7): a held controller halts. -/
def brkOp (s : State) (c : CtlId) (code : BitVec 8) : Ran :=
  if debugHolds s c then .ok (s.onCtl c (fun k => { k with halted := true })) else .raises s 0xE code.toNat 0

def execBeq (c : CtlId) (ra rb : Fin 32) (disp : Word) (s : State) : Out := done (compareBranch c ra rb disp (fun a b => a == b) s)
def execBne (c : CtlId) (ra rb : Fin 32) (disp : Word) (s : State) : Out := done (compareBranch c ra rb disp (fun a b => a != b) s)
def execBlt (c : CtlId) (ra rb : Fin 32) (disp : Word) (s : State) : Out := done (compareBranch c ra rb disp (fun a b => a.slt b) s)
def execBge (c : CtlId) (ra rb : Fin 32) (disp : Word) (s : State) : Out := done (compareBranch c ra rb disp (fun a b => !a.slt b) s)
def execBltu (c : CtlId) (ra rb : Fin 32) (disp : Word) (s : State) : Out := done (compareBranch c ra rb disp (fun a b => a.ult b) s)
def execBgeu (c : CtlId) (ra rb : Fin 32) (disp : Word) (s : State) : Out := done (compareBranch c ra rb disp (fun a b => !a.ult b) s)

/-- BF (R59, Table 2.13). -/
def execBf (c : CtlId) (cond : Fin 16) (disp : Word) (s : State) : Out :=
  done (ctlIssue s c (.jump 1 false) (fun s =>
    let k := s.ctl c
    .delayed s (if condHolds k.cur.flags cond then branchTarget k.pc disp else k.pc + 4) false))

def execJmp (c : CtlId) (disp : BitVec 30) (s : State) : Out :=
  done (ctlIssue s c (.jump 1 false) (fun s => .delayed s (branchTarget (s.ctl c).pc disp) false))
def execCall (c : CtlId) (disp : BitVec 30) (s : State) : Out :=
  done (ctlIssue s c (.jump 1 false) (fun s => .delayed s (branchTarget (s.ctl c).pc disp) true))
def execJr (c : CtlId) (ra : Fin 32) (s : State) : Out := done (jumpPair c ra false s)
def execCallr (c : CtlId) (ra : Fin 32) (s : State) : Out := done (jumpPair c ra true s)

/-- MFC (R34, R35, Table 3.4). -/
def execMfc (c : CtlId) (rd : Fin 32) (code : BitVec 8) (s : State) : Out :=
  let n := code.toNat
  done (ctlIssue s c ⟨1, !cregExists n, cregPrivilege c (s.ctl c) n false, false, 0⟩ (fun s =>
    let k := s.ctl c
    .ok (s.setCtl c ((cregAfterRead k n).setReg rd (cregRead s c k.secure n)))))

/-- MTC (R34, R68, Table 3.4); 4 cycles to a loop register (Table 3.1). -/
def execMtc (c : CtlId) (ra : Fin 32) (code : BitVec 8) (s : State) : Out :=
  let n := code.toNat
  done (ctlIssue s c ⟨if n / 16 = 1 then 4 else 1, !cregExists n, cregPrivilege c (s.ctl c) n true, false, 0⟩ (fun s =>
    .ok (s.onCtl c (fun k => k.cregWrite k.secure n (k.reg ra)))))

/-- GATE (R71, R72): 6 cycles (Table 3.1). -/
def execGate (c : CtlId) (code : BitVec 8) (s : State) : Out := done (ctlIssue s c (.jump 6 false) (fun s => gateOp s c code))
/-- ERET (R79): illegal at DEPTH 0, privileged, 4 cycles. -/
def execEret (c : CtlId) (s : State) : Out :=
  done (ctlIssue s c ⟨4, decide ((s.ctl c).cur.depth = 0), !(s.ctl c).priv, true, 0⟩ (fun s => eretOp s c))
/-- SYNC.I (R86): every store of the model has been accepted when it completes, and every fetch sees it. -/
def execSyncI (c : CtlId) (s : State) : Out := done (ctlIssue s c (.plain 4 false) .ok)
/-- FENCE (R48): every access of the model has completed before the next. -/
def execFence (c : CtlId) (s : State) : Out := done (ctlIssue s c (.plain 1 false) .ok)
/-- WAIT (R82): the controller waits unless a line ends the wait already. -/
def execWait (c : CtlId) (s : State) : Out :=
  done (ctlIssue s c ⟨1, false, !(s.ctl c).priv, true, 0⟩ (fun s => .ok (s.onCtl c (fun k => { k with waiting := !waitEnds s c }))))
def execBrk (c : CtlId) (code : BitVec 8) (s : State) : Out := done (ctlIssue s c (.jump 1 false) (fun s => brkOp s c code))
/-- SYSCALL (R75): Privilege at privileged level (Table 3.4). -/
def execSyscall (c : CtlId) (code : BitVec 8) (s : State) : Out :=
  done (ctlIssue s c ⟨1, false, (s.ctl c).priv, true, 0⟩ (fun s => .raises s 0xD code.toNat 0))

/-- An illegal encoding is fetched (R38); a pattern that is an instruction is not this command. -/
def execIllegalInstruction (c : CtlId) (w : DWord) (s : State) : Out :=
  done (if legalWord w then s else ctlIssue s c (.plain 1 true) .ok)

end Sys2Proof.Machine
end

