-- ==== Sys2Proof/Machine/BusRead.lean ====
section
/-! DEFINITION. Reading device registers: words of the secure and the normal world, the windows of PF BAR 0 and of VF BAR 0, the MC's view of
them, with the latching of wide counters (R35, R180, R410, Tables 7.10, 7.11, 9.9, 10.18, 11.9 to 11.12, 12.9, 12.10, 13.3 to 13.6, 14.14, 14.16,
15.7, 16.12, 17.8, 18.9, 18.12, 19.11, 22.6). -/
namespace Sys2Proof.Machine

/-- A reader's number, under which it latches: the controllers 0 to 2, PF A 3, PF B 4, VF f 5 + f, the debug master 4095. -/
def readerOf (m : Nat) : Nat := if m ≤ 2 then m else 4095

/-! ### Latching (R35) -/

/-- The words of a value, `bits` wide. -/
def wordsOf (bits n v : Nat) : List Nat := (List.range n).map (fun i => v / 2 ^ (bits * i) % 2 ^ bits)

/-- Word `i` of a wide register at `base` read by `r`: word 0 latches the rest; another word returns its latched copy once, or is live. -/
def readWide (s : State) (r base i : Nat) (ws : List Nat) : Nat × State :=
  if i = 0 then
    (nth 0 ws 0, { s with holds := (List.range ws.length).foldl (fun t j =>
      if j = 0 then t else tset 0 t ((base + j) * 4096 + r) (nth 0 ws j + 1)) s.holds })
  else
    let k := (base + i) * 4096 + r
    match tget 0 s.holds k with
    | 0 => (nth 0 ws i, s)
    | v + 1 => (v, { s with holds := tset 0 s.holds k 0 })

/-- A measurement register as a reader sees it: word 0 latches the whole (R180). -/
def readMeas (s : State) (r i : Nat) (first : Bool) : List Octet × State :=
  let k := 4096 * i + r
  if first then
    let v := s.measReg i
    (v, { s with meas := { s.meas with latch := tset [] s.meas.latch k v } })
  else
    let v := tget [] s.meas.latch k
    (if v = [] then s.measReg i else v, s)

/-- TIME as a number: nanoseconds, seconds above them (Tables 18.9, 18.12). -/
def State.timeValue (s : State) (bits : Nat) : Nat := s.mgmt.ns + 2 ^ bits * s.mgmt.secs

/-! ### Words of the secure and the normal world -/

/-- The wide registers of the controllers' space: first address, words, value. -/
def wideWords (s : State) : List (Nat × Nat × Nat) :=
  [(0x30000002, 2, s.rd2 Reg.MCOUNT_L Reg.MCOUNT_H), (0x30140040, 2, s.rd2 Reg.DRBG_RSD_L Reg.DRBG_RSD_H),
   (0x30180004, 2, s.rd2 Reg.KS_MISS_L Reg.KS_MISS_H), (0x301C0004, 4, s.jnl.seq), (0x301C0008, 4, s.jnl.flushed),
   (0x301C000C, 4, s.jnl.acked), (0x30280002, 3, s.tamp.tick), (0x31000010, 5, s.timeValue 36)]

/-- A word of the tamper domain that its fields do not hold (Table 16.12). -/
def tamperWord (s : State) (k : Nat) : Option Nat :=
  if k = 6 then some (s.tamp.overflow % 2 ^ 18)
  else if k = 7 then some (s.tamp.overflow / 2 ^ 18)
  else if k = 8 then some (s.tamp.session % 2 ^ 18)
  else if k = 9 then some (s.tamp.session / 2 ^ 18)
  else if (0x19 ≤ k ∧ k < 0x21) ∨ (0x29 ≤ k ∧ k < 0x31) then
    let r := s.cell (if k < 0x21 then 0 else 1)
    let j := if k < 0x21 then k - 0x19 else k - 0x29
    some (if j < 4 then r.serial / 2 ^ (18 * j) % 2 ^ 18
      else if j < 6 then r.used / 2 ^ (18 * (j - 4)) % 2 ^ 18
      else r.rated / 2 ^ (18 * (j - 6)) % 2 ^ 18)
  else if 0x200 ≤ k ∧ k < 0x1200 then
    some (nth 0 (packWords (nth [] s.tamp.ledger ((k - 0x200) / 16))) ((k - 0x200) % 16)).toNat
  else none

/-- A word without latching that the register fields do not hold. -/
def derivedWord (s : State) (r a : Nat) : Option Nat :=
  if a = 0x300D0010 ∨ a = 0x300D0011 ∨ (0x300D0020 ≤ a ∧ a < 0x300D0038) then some (s.word (a + (if r = 1 then 1 else 0) * 2 ^ 36))
  else if a = 0x301C0001 then some s.jnl.buf.length
  else if 0x30200008 ≤ a ∧ a ≤ 0x3020000C then some (nth 0 (nth [] s.viol 0) (a - 0x30200008))
  else if a = 0x30200022 then some (match s.rd Reg.MEM_CFG_STRAP with | 0 => 8 | 1 => 16 | 2 => 24 | _ => 32)
  else if a = 0x30240004 then some (s.usable % 2 ^ 18)
  else if a = 0x30240005 then some (s.usable / 2 ^ 18)
  else if a = 0x30300000 then some (s.rst.union / 4 % 2 ^ 9 * 4)
  else if 0x30280000 ≤ a ∧ a < 0x30281200 then tamperWord s (a - 0x30280000)
  else none

/-- A word of the controllers' device registers read by reader `r`, but for the MC's window of PF BAR 0 (R475: a word that no register covers
reads as zero). -/
def readDevice (s : State) (r a : Nat) : Nat × State :=
  if 0x300D0100 ≤ a ∧ a < 0x300D0500 then
    let w := a % 32
    if w < 24 then
      let (v, s) := readMeas s r ((a + 0x300) % 0x400 / 32) (decide (w = 0))
      ((nth 0 (packWords v) w).toNat, s)
    else (0, s)
  else
    match (wideWords s).find? (fun (e : Nat × Nat × Nat) => decide (e.1 ≤ a ∧ a < e.1 + e.2.1)) with
    | some e => readWide s r e.1 (a - e.1) (wordsOf 18 e.2.1 e.2.2)
    | none => ((derivedWord s r a).getD (s.word a), s)

/-! ### The windows of PF BAR 0 from 0x0002_0000 -/

/-- The wide registers of the host windows: offset of the first word, words, value. -/
def wideWindows (s : State) : List (Nat × Nat × Nat) :=
  [(0x40008, 2, s.jnl.seq), (0x40010, 2, s.jnl.flushed), (0x40018, 2, s.jnl.acked), (0x60010, 3, s.timeValue 32)]

/-- A ballot entry's four words (Table 11.12). -/
def ballotWord (s : State) (b k : Nat) : Nat :=
  let x := s.ballot b
  if k = 0 then x.st * 2 ^ 29 + (tally x.own + tally x.dom0) % 32 * 2 ^ 24 + x.op * 2 ^ 16 + x.dom
  else if k = 1 then x.id
  else if k = 2 then x.dom0 * 2 ^ 16 + x.own
  else if x.st = 1 ∨ x.st = 2 then (x.expiry - s.tamp.tick) / 32768 else 0

/-- The requester's master ID in the token registers, by its copy of the requester-specific fields (0 PF A, 1 PF B, 2 the MC, from 3 the secure
controllers and the debug master). -/
def windowMaster (q : Nat) : Nat := if q = 0 then 0x70 else if q = 1 then 0x71 else if q = 2 then 2 else if q = 3 then 0 else if q = 4 then 1 else 0x80

/-- A window register without latching, by offset, for requester copy `q`. -/
def windowWord (s : State) (q off : Nat) : Nat :=
  let base := 2 ^ 40 + off
  if 0x20800 ≤ off ∧ off < 0x20830 then leAt (measxData s 2) (off - 0x20800) 4
  else if off = 0x20830 then b2n (s.on (Reg.MEASX_CMD_GO 2)) * 2 ^ 31 + s.rd (Reg.MEASX_CMD_INDEX 2)
  else if off = 0x20834 then s.word (0x300D0011 + 2 * 2 ^ 36)
  else if off = 0x30000 then
    (if q < 3 then s.word (base + q * 2 ^ 36) else 0) + s.word (base + 1) + 8 * b2n (decide (q < 3 ∧ s.lead = q + 1))
  else if 0x30100 ≤ off ∧ off < 0x30140 then
    s.word base + 256 * b2n (decide (s.rd (Reg.TOKEN_HOLDER ((off - 0x30100) / 4)) = windowMaster q))
  else if 0x30200 ≤ off ∧ off < 0x30400 then ballotWord s ((off - 0x30200) / 16) (off / 4 % 4)
  else if off = 0x40000 then s.word 0x301C0000 % 64
  else if off = 0x40020 then s.jnl.cap
  else if off = 0x40024 then s.jfree
  else if off = 0x80020 then s.word 0x30200030
  else if off = 0x80024 then s.rd Reg.DBG_LEFT
  else if off = 0x80028 then s.rd Reg.VIOL_COUNT
  else if 0x80000 ≤ off ∧ off < 0x80020 then leAt s.dbg.nonce (off - 0x80000) 4
  else s.word base

/-- A window register read by reader `r` with requester copy `q`. -/
def readWindow (s : State) (r q off : Nat) : Nat × State :=
  if 0x20000 ≤ off ∧ off < 0x20800 then
    let k := off % 0x40 / 4
    if k < 12 then
      let (v, s) := readMeas s r ((off - 0x20000) / 0x40) (decide (k = 0))
      (leAt v (4 * k) 4, s)
    else (0, s)
  else if 0x50000 ≤ off ∧ off < 0x54800 then readDevice s r (0x30280000 + (off - 0x50000) / 4)
  else
    match (wideWindows s).find? (fun (e : Nat × Nat × Nat) => decide (e.1 ≤ off ∧ off < e.1 + 4 * e.2.1)) with
    | some e => readWide s r (2 ^ 40 + e.1) ((off - e.1) / 4) (wordsOf 32 e.2.1 e.2.2)
    | none => (windowWord s q off, s)

/-- A word of the MC's management window (R410): the low word shows bits [17:0] and latches bits [31:18] for the word after it. -/
def readAlias (s : State) (r q a : Nat) : Nat × State :=
  let off := 2 * (a % 0x80000) / 4 * 4
  if a % 2 = 0 then
    let (v, s) := readWindow s r q off
    (v % 2 ^ 18, { s with holds := tset 0 s.holds ((a + 1) * 4096 + r) (v / 2 ^ 18 + 1) })
  else
    match tget 0 s.holds (a * 4096 + r) with
    | 0 => ((readWindow s r q off).1 / 2 ^ 18, s)
    | v + 1 => (v, { s with holds := tset 0 s.holds (a * 4096 + r) 0 })

/-- Does the MC's window map an address? -/
def isAlias (a : Nat) : Bool := decide (0x31810000 ≤ a ∧ a < 0x31848000)

/-- The copy of requester-specific fields that a master of the controllers' space has in the MC's window. -/
def aliasCopy (m : Nat) : Nat := if m = 2 then 2 else if m = 0 then 3 else if m = 1 then 4 else 5

/-- A device word read by a master of the fabric, after its check. -/
def devRead (s : State) (m a : Nat) : Nat × State :=
  if isAlias a then readAlias s (readerOf m) (aliasCopy m) a else readDevice s (readerOf m) a

/-! ### The host's windows -/

/-- The octets of a function's configuration block (Table 13.14). -/
def functionConfig (s : State) (f : Nat) : List Octet :=
  fitOctets 0xB0 (s.fn f).cfg ++ (s.fn f).cells.flatMap (fun (e : Nat × Nat) => leOctets 2 e.1 ++ [0, 0] ++ leOctets 8 e.2)

/-- Function state codes and configuration octets (Table 13.3): octet 0, and octets 0x10 on. -/
def functionTable (s : State) (off : Nat) : Nat :=
  let f := off / 256
  let k := off % 256
  if f ≥ 2050 then 0 else if k = 0 then s.fnState f else if 0x10 ≤ k then leAt (functionConfig s f) (k - 0x10) 4 else 0

/-- A function register (Table 13.4). -/
def functionReg (s : State) (f off : Nat) : Nat :=
  let w := s.word (2 ^ 41 + 2 ^ 20 * f + off)
  if off = 0 then w / 2 ^ 13 * 2 ^ 13 + portOf s f * 2 ^ 12 + f
  else if off = 0x14 then s.mode
  else w

/-- What is left of the pools of Table 13.13 (Table 13.5). -/
def poolFree (s : State) (vectors : Bool) : Nat :=
  let l := grantHolders s 4096
  let left := fun (r : Nat → Fld) => 16384 - (l.map (fun g => s.rd (r g))).sum
  if vectors then
    left Reg.FUNC_CAP_VECTORS + 2 ^ 16 * (2048 - (s.funcs.filter (fun e => decide (e.1 < pfA ∧ e.2.st ≠ 0))).length)
  else left Reg.FUNC_CAP_QUEUES + 2 ^ 16 * left Reg.FUNC_CAP_PUSH_SLOTS

/-- A register of PF BAR 0 read by the port's PF (Table 13.3). -/
def pfRead (s : State) (p off : Nat) : Nat × State :=
  let f := pfA + p
  if off < 0x18 then (functionReg s f off, s)
  else if off = 0x1004 then
    let v := s.word (2 ^ 40 + off + p * 2 ^ 36)
    (v, if s.on (Reg.FLR_REPORT_VALID p) then s else s.flag (Reg.FLR_REPORT_OVF p) false)
  else if off = 0x1000 then (s.word (2 ^ 40 + off + p * 2 ^ 36), s)
  else if off = 0x1008 then (poolFree s false, s)
  else if off = 0x100C then (poolFree s true, s)
  else if 0x4000 ≤ off ∧ off < 0x6000 then (s.word (2 ^ 42 + 32 * qx f ((off - 0x4000) / 32) + off % 32), s)
  else if 0x20000 ≤ off ∧ off < 0x90000 then readWindow s (3 + p) p off
  else if 0x100000 ≤ off ∧ off < 0x100000 + 256 * 2050 then (functionTable s (off - 0x100000), s)
  else (0, s)

/-- A register of VF BAR 0 (Table 13.2). -/
def vfRead (s : State) (f off : Nat) : Nat :=
  if off < 0x18 then functionReg s f off
  else if 0x400 ≤ off ∧ off < 0x800 then s.word (2 ^ 42 + 32 * qx f ((off - 0x400) / 32) + off % 32)
  else 0

end Sys2Proof.Machine
end

