-- ==== Sys2Proof/Machine/Spdm.lean ====
section
/-! DEFINITION. The SPDM responder on the DOE mailboxes and over MCTP, secured sessions, IDE keys, DOE Discovery (R300, R301, R305). Message
layouts are those of DSP0274, DSP0277 and the IDE_KM protocol, which the spec names (PRESUMED, log 42). -/
namespace Sys2Proof.Machine

/-! ### Channels: 0 and 1 the DOE mailboxes of ports A and B, 2 MCTP -/

/-- The connection of a channel. -/
def State.spdm (s : State) (ch : Nat) : Spdm := if ch = 2 then s.spdmM else (s.port ch).spdm
def State.setSpdm (s : State) (ch : Nat) (x : Spdm) : State :=
  if ch = 2 then { s with spdmM := x } else s.setPort ch { s.port ch with spdm := x }

/-- An answer goes out on its channel; over MCTP with message type 0x05. -/
def spdmSend (s : State) (ch : Nat) (o : List Octet) : State :=
  if ch = 2 then mctpSend s (5 :: o) else { s with sent := s.sent ++ [.doe ch o] }

/-- Is the responder there: secure firmware serves, the port is up, or the MC relays (R301)? -/
def spdmServed (s : State) (ch : Nat) : Bool :=
  s.hostUp && (if ch = 2 then s.mc.running else (decide (ch = 0) || s.rst.split) && !(s.port ch).perst && (s.port ch).link)

/-- ERROR with a code of DSP0274. -/
def spdmError (s : State) (ch code : Nat) : State := spdmSend s ch ([0x13, 0x7F] ++ leOctets 1 code ++ [0])

/-- An exchange that enters the connection's transcript. -/
def spdmAnswer (s : State) (ch : Nat) (req rsp : List Octet) : State :=
  let x := s.spdm ch
  spdmSend (s.setSpdm ch { x with transcript := x.transcript ++ req ++ rsp }) ch rsp

/-- Version 1.3 and the step reached, or the error that answers. -/
def spdmCheck (s : State) (ch step : Nat) (msg : List Octet) (f : State → State) : State :=
  if ¬ spdmServed s ch then s
  else
    let s := wake s 1
    if leAt msg 0 1 ≠ 0x13 then spdmError s ch 0x41
    else if (s.spdm ch).step < step then spdmError s ch 4
    else f s

/-- The certificate chain of slot 0 in the requests' format. -/
def spdmChain : List Octet := Config.factoryChain

/-- A signature by the identity ECDSA key; in Fault it is deterministic (R298). -/
def spdmSign (s : State) (o : List Octet) : List Octet × State :=
  let fault := decide (s.mode = mFault)
  (fitOctets 96 (Config.sign 2 o (if fault then 0 else s.free + 1)), { s with free := s.free + b2n (!fault) })

/-! ### Negotiation -/

/-- GET_VERSION: a new connection; version 1.3 is offered. -/
def spdmVersion (s : State) (ch : Nat) (msg : List Octet) : State :=
  if ¬ spdmServed s ch then s
  else
    let s := wake s 1
    let s := s.setSpdm ch { Spdm.reset with step := 1, ide := (s.spdm ch).ide }
    spdmAnswer s ch msg [0x10, 4, 0, 0, 0, 1, 0, 0x13]

/-- GET_CAPABILITIES. -/
def spdmCapabilities (s : State) (ch : Nat) (msg : List Octet) : State :=
  spdmCheck s ch 1 msg (fun s =>
    let s := s.setSpdm ch { s.spdm ch with step := max 2 (s.spdm ch).step }
    spdmAnswer s ch msg ([0x13, 0x61, 0, 0] ++ fitOctets 16 Config.spdmCapabilities))

/-- The algorithm structures that answer those of a request: DHE secp384r1, AEAD AES-256-GCM, the SPDM key schedule. -/
def spdmStructs : Nat → List Octet → List Octet
  | 0, _ => []
  | n + 1, o =>
    let ty := leAt o 0 1
    let own := if ty = 2 then 0x10 else if ty = 3 then 2 else if ty = 5 then 1 else 0
    leOctets 1 ty ++ [0x20] ++ leOctets 2 (if leAt o 2 2 / own % 2 = 1 ∧ own ≠ 0 then own else 0) ++ spdmStructs n (o.drop 4)

/-- NEGOTIATE_ALGORITHMS: ECDSA P-384 and SHA-384 only (R300). -/
def spdmAlgorithms (s : State) (ch : Nat) (msg : List Octet) : State :=
  spdmCheck s ch 2 msg (fun s =>
    if ¬ bit (leAt msg 8 4) 7 ∨ ¬ bit (leAt msg 12 4) 1 then spdmError s ch 1
    else
      let n := leAt msg 2 1
      let st := spdmStructs n (msg.drop 32)
      let s := s.setSpdm ch { s.spdm ch with step := 3 }
      spdmAnswer s ch msg ([0x13, 0x63] ++ leOctets 1 n ++ [0] ++ leOctets 2 (36 + st.length) ++ [1, 0] ++ leOctets 4 4 ++ leOctets 4 0x80 ++
        leOctets 4 2 ++ List.replicate 16 0 ++ st))

/-! ### Certificates and measurements -/

/-- GET_DIGESTS: slot 0 alone is filled. -/
def spdmDigests (s : State) (ch : Nat) (msg : List Octet) : State :=
  spdmCheck s ch 3 msg (fun s => spdmAnswer s ch msg ([0x13, 1, 1, 1] ++ sha384 spdmChain))

/-- GET_CERTIFICATE: a portion of slot 0's chain. -/
def spdmCertificate (s : State) (ch : Nat) (msg : List Octet) : State :=
  spdmCheck s ch 3 msg (fun s =>
    let off := leAt msg 4 2
    let part := (spdmChain.drop off).take (leAt msg 6 2)
    if leAt msg 2 1 % 16 ≠ 0 ∨ off ≥ spdmChain.length then spdmError s ch 1
    else spdmAnswer s ch msg ([0x13, 2, 0, 0] ++ leOctets 2 part.length ++ leOctets 2 (spdmChain.length - off - part.length) ++ part))

/-- A DMTF measurement block: index, value type, value. -/
def dmtfBlock (i ty : Nat) (v : List Octet) : List Octet :=
  leOctets 1 i ++ [1] ++ leOctets 2 (3 + v.length) ++ leOctets 1 ty ++ leOctets 2 v.length ++ v

/-- The block of index i from 1 to 32: MEAS_(i - 1) in digest representation with the value types of R300. -/
def spdmMeasure (s : State) (i : Nat) : List Octet :=
  let r := i - 1
  dmtfBlock i (if r = 3 then 2 else if r ≤ 15 then 1 else 3) (s.measReg r)

/-- Index 0xFD: the whole statement with DOM_0 listed, as a raw bit stream. -/
def spdmStatement (s : State) (ch : Nat) (nonce : List Octet) : State × Option (List Octet) :=
  match attestFor s (if ch = 2 then 0 else ch) nonce [0] with
  | (s, .fin 0 _ out _) => (s, some (dmtfBlock 0xFD 0x84 out))
  | (s, _) => (s, none)

/-- A measurement summary: the hash over the digest blocks, where one is asked for. -/
def spdmSummary (s : State) (kind : Nat) : List Octet :=
  if kind = 0 then [] else sha384 ((List.range 32).flatMap (fun i => spdmMeasure s (i + 1)))

/-- CHALLENGE of slot 0. -/
def spdmChallenge (s : State) (ch : Nat) (msg : List Octet) : State :=
  spdmCheck s ch 3 msg (fun s =>
    if leAt msg 2 1 ≠ 0 then spdmError s ch 1
    else if s.rst.otpBad then spdmError s ch 5
    else
      let (nonce, s) := drawRandom s 32
      let rsp := [0x13, 3, 0, 1] ++ sha384 spdmChain ++ nonce ++ spdmSummary s (leAt msg 3 1) ++ [0, 0] ++ octAt msg 36 8
      let (sig, s) := spdmSign s (sha384 ((s.spdm ch).transcript ++ msg ++ rsp))
      let s := s.setSpdm ch { s.spdm ch with transcript := [] }
      spdmSend s ch (rsp ++ sig))

/-- The measurement blocks of an operation: none, one index, all. -/
def spdmBlocks (s : State) (ch op : Nat) (nonce : List Octet) : State × Option (List (List Octet)) :=
  let all := (List.range 32).map (fun i => spdmMeasure s (i + 1))
  if op = 0 then (s, some [])
  else if 1 ≤ op ∧ op ≤ 32 then (s, some [spdmMeasure s op])
  else if op = 0xFD ∨ op = 0xFF then
    let (s, b) := spdmStatement s ch nonce
    (s, b.map (fun b => if op = 0xFF then all ++ [b] else [b]))
  else (s, none)

/-- GET_MEASUREMENTS. -/
def spdmMeasurements (s : State) (ch : Nat) (msg : List Octet) : State :=
  spdmCheck s ch 3 msg (fun s =>
    let signed := bit (leAt msg 2 1) 0
    let op := leAt msg 3 1
    let (spare, s) := if signed then ([], s) else s.freeOctets 32
    let asked := if signed then octAt msg 4 32 else spare
    match spdmBlocks s ch op asked with
    | (s, none) => spdmError s ch (if op = 0xFD ∨ op = 0xFF then 5 else 1)
    | (s, some b) =>
      if signed ∧ s.rst.otpBad then spdmError s ch 5
      else
        let (nonce, s) := drawRandom s 32
        let rsp := [0x13, 0x60] ++ leOctets 1 (if op = 0 then 33 else 0) ++ [0] ++ leOctets 1 b.length ++ leOctets 3 b.flatten.length ++ b.flatten ++
          nonce ++ [0, 0] ++ octAt msg (if signed then 37 else 4) 8
        if signed then
          let (sig, s) := spdmSign s (sha384 ((s.spdm ch).transcript ++ msg ++ rsp))
          spdmSend (s.setSpdm ch { s.spdm ch with transcript := [] }) ch (rsp ++ sig)
        else spdmAnswer s ch msg rsp)

/-! ### Secured sessions (R305) -/

/-- An expansion of DSP0277's key schedule. -/
def spdmExpand (secret : List Octet) (label : String) (ctx : List Octet) : List Octet :=
  (hmac384 secret (leOctets 2 48 ++ ascii "spdm1.3 " ++ ascii label ++ ctx ++ [1])).take 48

/-- KEY_EXCHANGE with DHE secp384r1: the handshake secret and the session's number. -/
def spdmKeyExchange (s : State) (ch : Nat) (msg : List Octet) : State :=
  spdmCheck s ch 3 msg (fun s =>
    if leAt msg 3 1 ≠ 0 then spdmError s ch 1
    else if (s.spdm ch).sess ≠ 0 then spdmError s ch 0xA
    else if s.rst.otpBad then spdmError s ch 5
    else
      let (rnd, s) := drawRandom s 32
      let (own, s) := drawRandom s 2
      let (pub, z) := Config.encapsulate 4 (octAt msg 40 96) s.free
      let s := { s with free := s.free + 1 }
      let head := [0x13, 0x64, 0, 0] ++ own ++ [0, 0] ++ rnd ++ fitOctets 96 pub ++ spdmSummary s (leAt msg 2 1) ++ [0, 0]
      let th := (s.spdm ch).transcript ++ sha384 spdmChain ++ msg ++ head
      let (sig, s) := spdmSign s (sha384 th)
      let hs := hmac384 (List.replicate 48 0) z
      let mac := hmac384 (spdmExpand (spdmExpand hs "rsp hs data" (sha384 (th ++ sig))) "finished" []) (sha384 (th ++ sig))
      let x := { s.spdm ch with sess := 1, sid := leAt msg 4 2 + 65536 * leAt own 0 2, secret := hs, transcript := th ++ sig ++ mac, updates := 0 }
      spdmSend (s.setSpdm ch x) ch (head ++ sig ++ mac))

/-- FINISH: the requester's proof closes the handshake; a wrong one ends it. -/
def spdmFinish (s : State) (ch : Nat) (msg : List Octet) : State :=
  spdmCheck s ch 3 msg (fun s =>
    let x := s.spdm ch
    if x.sess ≠ 1 then spdmError s ch 4
    else
      let th := x.transcript ++ msg.take 4
      let key := spdmExpand (spdmExpand x.secret "req hs data" (sha384 x.transcript)) "finished" []
      if octAt msg 4 48 ≠ hmac384 key (sha384 th) then
        spdmError (s.setSpdm ch { x with sess := 0, secret := [], sid := 0 }) ch 6
      else
        let rsp := [0x13, 0x65, 0, 0]
        let master := hmac384 (spdmExpand x.secret "derived" []) (List.replicate 48 0)
        spdmSend (s.setSpdm ch { x with sess := 2, secret := master, transcript := th ++ octAt msg 4 48 ++ rsp }) ch rsp)

/-- A message that only an established session carries. -/
def spdmInSession (s : State) (ch : Nat) (msg : List Octet) (f : State → Spdm → State) : State :=
  spdmCheck s ch 3 msg (fun s => if (s.spdm ch).sess ≠ 2 then spdmError s ch 0xB else f s (s.spdm ch))

/-- END_SESSION. -/
def spdmEnd (s : State) (ch : Nat) (msg : List Octet) : State :=
  spdmInSession s ch msg (fun s x => spdmSend (s.setSpdm ch { x with sess := 0, secret := [], sid := 0, updates := 0 }) ch [0x13, 0x6C, 0, 0])

/-- KEY_UPDATE: operations 1 and 2 step the session's keys, 3 verifies. -/
def spdmKeyUpdate (s : State) (ch : Nat) (msg : List Octet) : State :=
  spdmInSession s ch msg (fun s x =>
    let op := leAt msg 2 1
    let ack := [0x13, 0x69] ++ octAt msg 2 2
    if op = 1 ∨ op = 2 then
      spdmSend (s.setSpdm ch { x with secret := spdmExpand x.secret "traffic upd" [], updates := x.updates + 1 }) ch ack
    else if op = 3 then spdmSend s ch ack
    else spdmError s ch 1)

/-- HEARTBEAT. -/
def spdmHeartbeat (s : State) (ch : Nat) (msg : List Octet) : State := spdmInSession s ch msg (fun s _ => spdmSend s ch [0x13, 0x68, 0, 0])

/-- The place of an IDE key: stream, and octet 5 of the message, which holds key set, direction and sub-stream. -/
def ideKey (msg : List Octet) : Nat := 256 * leAt msg 3 1 + leAt msg 5 1

/-- IDE_KM in a secured session: QUERY, KEY_PROG, K_SET_GO, K_SET_STOP. -/
def ideKmMessage (s : State) (ch : Nat) (msg : List Octet) : State :=
  if ¬ spdmServed s ch then s
  else
    let s := wake s 1
    let x := s.spdm ch
    if x.sess ≠ 2 then spdmError s ch 0xB
    else
      let ack := fun (code : Octet) (st : Octet) => [code, 0, 0] ++ octAt msg 3 1 ++ [st] ++ octAt msg 5 2
      let obj := leAt msg 0 1
      if obj = 0 then spdmSend s ch ([1, 0] ++ octAt msg 2 1 ++ fitOctets 8 Config.ideCapabilities)
      else if obj = 2 then
        if msg.length ≠ 47 then spdmSend s ch (ack 3 1)
        else spdmSend (s.setSpdm ch { x with ide := tput x.ide (ideKey msg) (octAt msg 7 40) }) ch (ack 3 0)
      else if obj = 4 ∨ obj = 5 then
        spdmSend (if obj = 5 then s.setSpdm ch { x with ide := tdel x.ide (ideKey msg) } else s) ch (ack 6 0)
      else s

/-! ### DOE Discovery -/

/-- DOE Discovery of the mailbox's protocols: Discovery, CMA/SPDM, Secured CMA/SPDM. -/
def doeDiscover (s : State) (p index : Nat) : State :=
  if ¬ spdmServed s p then s
  else
    let s := wake s 1
    spdmSend s p (if index < 3 then [1, 0] ++ leOctets 1 index ++ leOctets 1 ((index + 1) % 3) else [0xFF, 0xFF, 0, 0])

/-- A message relayed over MCTP: the requests of R300, the others unsupported. -/
def spdmRelay (s : State) (msg : List Octet) : State :=
  let code := leAt msg 1 1
  if code = 0x84 then spdmVersion s 2 msg
  else if code = 0xE1 then spdmCapabilities s 2 msg
  else if code = 0xE3 then spdmAlgorithms s 2 msg
  else if code = 0x81 then spdmDigests s 2 msg
  else if code = 0x82 then spdmCertificate s 2 msg
  else if code = 0x83 then spdmChallenge s 2 msg
  else if code = 0xE0 then spdmMeasurements s 2 msg
  else if spdmServed s 2 then spdmError s 2 7 else s

def execGetVersion (p : Fin 2) (msg : List Octet) (s : State) : Out := done (spdmVersion s p msg)
def execGetCapabilities (p : Fin 2) (msg : List Octet) (s : State) : Out := done (spdmCapabilities s p msg)
def execNegotiateAlgorithms (p : Fin 2) (msg : List Octet) (s : State) : Out := done (spdmAlgorithms s p msg)
def execGetDigests (p : Fin 2) (msg : List Octet) (s : State) : Out := done (spdmDigests s p msg)
def execGetCertificate (p : Fin 2) (msg : List Octet) (s : State) : Out := done (spdmCertificate s p msg)
def execChallenge (p : Fin 2) (msg : List Octet) (s : State) : Out := done (spdmChallenge s p msg)
def execGetMeasurements (p : Fin 2) (msg : List Octet) (s : State) : Out := done (spdmMeasurements s p msg)
def execKeyExchange (p : Fin 2) (msg : List Octet) (s : State) : Out := done (spdmKeyExchange s p msg)
def execFinish (p : Fin 2) (msg : List Octet) (s : State) : Out := done (spdmFinish s p msg)
def execCloseSession (p : Fin 2) (msg : List Octet) (s : State) : Out := done (spdmEnd s p msg)
def execKeyUpdate (p : Fin 2) (msg : List Octet) (s : State) : Out := done (spdmKeyUpdate s p msg)
def execHeartbeat (p : Fin 2) (msg : List Octet) (s : State) : Out := done (spdmHeartbeat s p msg)
def execIdeKm (p : Fin 2) (msg : List Octet) (s : State) : Out := done (ideKmMessage s p msg)
def execDoeDiscovery (p : Fin 2) (index : BitVec 8) (s : State) : Out := done (doeDiscover s p index.toNat)
def execMctpSpdmRelay (msg : List Octet) (s : State) : Out := done (spdmRelay s msg)

end Sys2Proof.Machine
end

