-- ==== Sys2Proof/Machine/BusWrite.lean ====
section
/-! DEFINITION. Writing device registers: words of the secure and the normal world, the windows of PF BAR 0 and VF BAR 0, the MC's view of
them, with the registers whose write starts something (R10, R275, R303, R309, R311, R336, R344, R388, R410, R411, R418, R422, R434, R474), and
the commands REGISTER_WRITE and LATCHED_READ. -/
namespace Sys2Proof.Machine

/-- Who writes: master ID, world bit, privilege bit. -/
structure Writer where
  m : Nat
  world : Bool
  priv : Bool
  deriving DecidableEq, Repr

/-- The secure controller that a writer counts as where a register set is chosen by master ID (R180). -/
def Writer.sc (w : Writer) : Nat := if w.m = 1 then 1 else 0

/-- A write of a word whose fields have no effect of their own; a changed WL field is a lock violation (R344). -/
def plainWrite (s : State) (w : Writer) (a v : Nat) : State :=
  let bad := s.lockedChange a v
  let s := s.wrWord a v
  if bad then lockViolation s w.m w.world w.priv a else s

/-! ### Secure registers that act -/

/-- DU_CMD and NU_CMD: the reserved action ignores GO. -/
def unitWrite (s : State) (r : UnitRegs) (v : Nat) : State :=
  if bit v 7 ∧ v / 32 % 4 ≠ 3 then unitStart s r (v / 32 % 4) else s.wr r.action (v / 32)

/-- BOOT_TAP_CTL (R177, R178). A store to CLOSE finds no octet passed since ARM: octets pass the boot path within BOOT_TAP_CLOSE. -/
def tapWrite (s : State) (w : Writer) (v : Nat) : State :=
  if s.on Reg.BOOT_TAP_STAT_LOCKED then lockViolation s w.m w.world w.priv 0x300D0000
  else
    let s := if bit v 0 then tapArm s else s
    if bit v 1 then tapClose s 0x1000000 [] else s

/-- A word of the secure MEASX registers, in the set of the writer (R180). -/
def measxWrite (s : State) (w : Writer) (a v : Nat) : State :=
  if a = 0x300D0010 then
    if s.on (Reg.MEASX_CMD_GO w.sc) then s
    else if bit v 17 then measRequest s w.sc 1 15 (v % 32)
    else s.wr (Reg.MEASX_CMD_INDEX w.sc) v
  else s.wrWord (a + w.sc * 2 ^ 36) v

/-- RAW_CTL (R217, R219). -/
def rawWrite (s : State) (w : Writer) (v : Nat) : State :=
  if ¬ s.on Reg.RNG_STAT_RAW_PERMIT then lockViolation s w.m w.world w.priv 0x30140050
  else
    let s := if bit v 16 then rawClose s else s
    if bit v 17 then rawGo s w.sc (bit v 15) (Fin.ofNat 8 (v / 2 ^ 10)) (v % 2 ^ 10)
    else ((s.flag Reg.RAW_CTL_MODE (bit v 15)).wr Reg.RAW_CTL_SOURCE (v / 2 ^ 10)).wr Reg.RAW_CTL_COUNT v

/-- KS_OP_CMD (Table 10.18): dropped while GO reads 1; a reserved operation ignores GO. -/
def ksWrite (s : State) (w : Writer) (v : Nat) : State :=
  if s.on Reg.KS_OP_CMD_GO then s
  else if bit v 17 ∧ 1 ≤ v % 16 ∧ v % 16 ≤ 10 then
    ksStart s w.sc (v % 16) (BitVec.ofNat 36 (s.rd2 Reg.KS_OP_ARG_L Reg.KS_OP_ARG_H))
  else s.wr Reg.KS_OP_CMD_OP v

/-- CELL_CMD of the secure world (Table 16.12), dropped while an action runs. -/
def cellWrite (s : State) (v : Nat) : State :=
  let c := v / 2 ^ 14 % 2
  let act := v / 2 ^ 15 % 4
  if s.on Reg.CELL_CMD_GO then s
  else if ¬ bit v 17 then (s.wr Reg.CELL_CMD_ACTION act).wr Reg.CELL_CMD_CELL c
  else if act = 2 then cellAccept s c
  else if act = 3 then cellReject s c
  else cellStart s c act

/-- A tamper domain word written by the secure world: the lead's flags are not its own (R275); configuration words are written while they
are unlocked (R388). -/
def tamperWrite (s : State) (w : Writer) (k v : Nat) : State :=
  let a := 0x30280000 + k
  if k = 1 then s.wr Reg.TAMP_CTL_ACK_INDEX v
  else if k = 0x38 then cellWrite s v
  else if isConfigWord k then
    if s.on Reg.TAMP_STAT_CFG_LOCKED then lockViolation s w.m w.world w.priv a else if configOk k v then configPut s k v else s
  else plainWrite s w a v

/-- RST_CTL (Table 19.11): SC_1's release, then Fault, then the warm reset. -/
def rstWrite (s : State) (v : Nat) : State :=
  let s := if bit v 15 then releaseSc1 s else s
  let s := if bit v 16 then enterFault (s.flag Reg.RST_CTL_FAULT true) 10 else s
  if bit v 17 ∧ ¬ inReset s ∧ s.mode ≠ mBatteryHold then startWarm (s.flag Reg.RST_CTL_WARM true) 4 10 0xE4 else s

/-- BLOCK_RST (R432), dropped while GO reads 1. -/
def blockWrite (s : State) (v : Nat) : State :=
  if s.on Reg.BLOCK_RST_GO then s
  else if bit v 17 then blockStart s (v / 64 % 4) (v % 64)
  else (s.wr Reg.BLOCK_RST_TYPE (v / 64)).wr Reg.BLOCK_RST_INDEX v

/-- A word of the secure device registers written. -/
def secureWrite (s : State) (w : Writer) (a v : Nat) : State :=
  if 0x300C0000 ≤ a ∧ a < 0x300C0200 ∧ a % 8 = 1 then unitWrite s (duRegs ((a - 0x300C0000) / 8)) v
  else if a = 0x300D0000 then tapWrite s w v
  else if 0x300D0010 ≤ a ∧ a < 0x300D0040 then measxWrite s w a v
  else if 0x30100000 ≤ a ∧ a < 0x30100080 ∧ a % 8 = 1 then unitWrite s (nuRegs ((a - 0x30100000) / 8)) v
  else if a = 0x30140000 then (if bit v 0 then askReseed s else s)
  else if 0x30140010 ≤ a ∧ a < 0x30140030 ∧ a % 4 = 0 then
    let s := s.wrWord a (v % 2 ^ 8)
    if bit v 8 then srcRetire s ((a - 0x30140010) / 4) else s
  else if a = 0x30140050 then rawWrite s w v
  else if a = 0x30140052 then s.wr Reg.RAW_BASE_L (v / 64 * 64)
  else if a = 0x30180010 then ksWrite s w v
  else if a = 0x30180012 then s.wr Reg.KS_OP_ARG_L (v / 16 * 16)
  else if a = 0x301C0010 then
    if bit v 17 then submitRecord s w.sc (bit v 16) (bit v 15) else s.wrWord a v
  else if a = 0x30200002 then (if bit v 0 then popViolation s else s)
  else if a = 0x30200020 then
    let s := s.wrWord a (v / 2 * 2)
    if bit v 0 then potSync s else s
  else if a = 0x30200021 then potBackWrite s w.m v
  else if 0x30201000 ≤ a ∧ a < 0x302010C0 then regionWrite s w.m ((a - 0x30201000) / 64) (a % 64 / 4) (a % 4) v
  else if a = 0x30240002 ∨ a = 0x30240003 then vaultBaseWrite s w.m (decide (a = 0x30240003)) v
  else if 0x30240010 ≤ a ∧ a < 0x30240040 ∧ s.on Reg.MEM_LW_CMD_GO then s
  else if a = 0x30240010 then s.wr Reg.MEM_LW_ADDR_L (v / 32 * 32)
  else if a = 0x30240012 then (if bit v 17 then lineWindow s w.m w.world w.priv else s)
  else if 0x30280000 ≤ a ∧ a < 0x30290000 then tamperWrite s w (a - 0x30280000) v
  else if a = 0x302C0000 then
    let s := if bit v 1 then mcRestart s else s
    if bit v 0 then mcRelease s else s
  else if a = 0x30300002 then rstWrite s v
  else if a = 0x30300005 then scKick s
  else if a = 0x30300008 then blockWrite s v
  else if a = 0x30300011 then
    let s := s.wrWord a (v % 2 ^ 17)
    if bit v 17 then wake s 4 else s
  else if a = 0x30340004 then ringDoors s (v % 8)
  else if 0x30800000 ≤ a ∧ a < 0x30880000 then potWrite s w.m (a - 0x30800000) v
  else plainWrite s w a v

/-! ### Registers of the normal world -/

/-- A word of the MC's registers written (Table 18.9). -/
def mcWrite (s : State) (w : Writer) (a v : Nat) : State :=
  if a = 0x31000000 then { s with irq := { s.irq with mcWdog := 0 } }
  else if a = 0x31000001 then lockWrite s (bit v 0)
  else if a = 0x31000003 then rateWrite s v
  else if a = 0x31000008 then stepWrite s v
  else if a = 0x3100000D then setWrite s v
  else if a = 0x31000025 then gpioConflict (s.wrWord a v)
  else if a = 0x31000060 then (if bit v 17 then hlogCommand s else s)
  else if a = 0x31000070 then (if bit v 17 then stageCommand s else s)
  else plainWrite s w a v

/-! ### The windows of PF BAR 0 from 0x0002_0000 -/

/-- An administrative register is written: only the lead's write stands (R275). -/
def leadWrite (s : State) (m : Requester) (f : State → State) : State :=
  if s.lead = m.lead ∧ s.hostUp then f s else dropFollower s m

/-- A token register written: RELEASE, then ACQUIRE (R278). -/
def tokenWrite (s : State) (n id v : Nat) : State :=
  let s := if bit v 17 then releaseToken s n id else s
  if bit v 16 then acquireToken s n id else s

/-- TAMP_CTL written by a host or the MC (R380, R389). -/
def tampCtlWrite (s : State) (m : Requester) (v : Nat) : State :=
  leadWrite s m (fun s =>
    let s := s.wr Reg.TAMP_CTL_ACK_INDEX v
    let s := if bit v 17 then alarmAck s m (v % 2 ^ 9) else s
    if bit v 16 then winClose s m else s)

/-- Octets of a 32-bit register put into the words of MEASX_DATA of the host's set (Table 7.11). -/
def measxHostData (s : State) (k v : Nat) : State :=
  let ws := packWords (leOctets 4 v)
  (s.wr (Reg.MEASX_DATA 2 (2 * k)) (nth 0 ws 0).toNat).wr (Reg.MEASX_DATA 2 (2 * k + 1)) (nth 0 ws 1).toNat

/-- PLX_CMD (R409). -/
def plxWrite (s : State) (m : Requester) (v : Nat) : State :=
  let act := v / 2 ^ 28 % 8
  if ¬ bit v 31 ∨ act = 0 ∨ 4 < act then
    leadWrite s m (fun s => if s.on Reg.PLX_CMD_GO then s else s.wr Reg.PLX_CMD_ACTION act)
  else plxCommand s m act (if act = 1 then joinStart else if act = 2 then admitOp else if act = 3 then refuseOp else leaveOp)

/-- A word of the tamper window written by a host or the MC: words marked secure are dropped under R344. -/
def tampWindowWrite (s : State) (m : Requester) (off v : Nat) : State :=
  let k := off % 0x10000 / 4
  if k = 1 then tampCtlWrite s m v
  else if isConfigWord k then configWrite s m k v
  else if k = 0x38 ∨ (0x80 ≤ k ∧ k < 0x90) then leadWrite s m (fun s => hostLock s m.master off s.mc.priv)
  else if k = 0 ∨ k = 0x39 then leadWrite s m (fun s => s.wrWord (0x30280000 + k) v)
  else s

/-- A window register written by a requester. Registers without a writable field take nothing. -/
def windowWrite (s : State) (m : Requester) (off v : Nat) : State :=
  let a := 2 ^ 40 + off
  if 0x20800 ≤ off ∧ off < 0x20830 then
    if m = .mc then dropFollower s m else leadWrite s m (fun s => measxHostData s ((off - 0x20800) / 4) v)
  else if off = 0x20830 then
    if bit v 31 then measCommand s (.host m) (v % 32)
    else if m = .mc then dropFollower s m
    else leadWrite s m (fun s => if s.on (Reg.MEASX_CMD_GO 2) then s else s.wr (Reg.MEASX_CMD_INDEX 2) v)
  else if off = 0x20834 then
    if m = .mc then dropFollower s m else leadWrite s m (fun s => s.wrWord (0x300D0011 + 2 * 2 ^ 36) v)
  else if off = 0x30000 then s.wrWord (a + m.idx * 2 ^ 36) v
  else if off = 0x30004 then
    let s := if bit v 1 then releaseRole s m else s
    if bit v 0 then claimLead s m else s
  else if 0x30100 ≤ off ∧ off < 0x30140 then tokenWrite s ((off - 0x30100) / 4) m.master v
  else if 0x50000 ≤ off ∧ off < 0x60000 then tampWindowWrite s m off v
  else if off = 0x60000 then leadWrite s m (fun s => s.wrWord a v)
  else if off = 0x60060 then
    leadWrite s m (fun s =>
      let s := s.flag Reg.MGT_CFG_MC_STAGE (bit v 1)
      if bit v 0 then hlogWipe s m else s)
  else if off = 0x70020 then plxWrite s m v
  else if off = 0x70000 ∨ (0x70024 ≤ off ∧ off < 0x70040) ∨ (0x70100 ≤ off ∧ off < 0x70140 ∧ off % 16 = 0) then
    leadWrite s m (fun s => s.wrWord a v)
  else s

/-- A word of the MC's management window written (R410): the low word is held, and acts with the high word. The secure controllers reach the
lock tokens there (R278) and nothing else. -/
def aliasWrite (s : State) (w : Writer) (a v : Nat) : State :=
  let off := 2 * (a % 0x80000) / 4 * 4
  let k := off * 8 + aliasCopy w.m
  if a % 2 = 0 then { s with winLow := tset 0 s.winLow k (v + 1) }
  else
    let full := tget 0 s.winLow k - 1 + 2 ^ 18 * (v % 2 ^ 14)
    let s := { s with winLow := tset 0 s.winLow k 0 }
    if w.m = 2 then windowWrite s .mc off full
    else if w.m ≤ 1 ∧ 0x30100 ≤ off ∧ off < 0x30140 then tokenWrite s ((off - 0x30100) / 4) w.m full
    else s

/-- A device word written by a master of the fabric, after its check. -/
def devWrite (s : State) (w : Writer) (a v : Nat) : State :=
  if isAlias a then aliasWrite s w a v
  else if a < 0x31000000 then secureWrite s w a v
  else mcWrite s w a v

/-! ### The host's windows -/

/-- A function register written (Table 13.4). -/
def functionWrite (s : State) (f off v : Nat) : State := s.wrWord (2 ^ 41 + 2 ^ 20 * f + off) v

/-- A word of a queue entry written (R309): while the queue is enabled a field other than ENABLE is dropped. -/
def queueWrite (s : State) (f q off v : Nat) : State :=
  if off = 0 then qctlWrite s f q v
  else if off = 4 then s.wrWord (2 ^ 42 + 32 * qx f q + 4) v
  else if off = 0x1C then s
  else if s.on (Reg.Q_CTL_ENABLE (qx f q)) then accErr (qRefuse s (qx f q) 7) f
  else s.wrWord (2 ^ 42 + 32 * qx f q + off) v

/-- A register of PF BAR 0 written by the port's PF (Table 13.3). -/
def pfWrite (s : State) (p off v : Nat) : State :=
  let m : Requester := if p = 0 then .pfA else .pfB
  if off < 0x18 then functionWrite s (pfA + p) off v
  else if off = 0x1004 then (if bit v 31 ∧ s.on (Reg.FLR_REPORT_VALID p) then popReport s p else s)
  else if 0x4000 ≤ off ∧ off < 0x6000 then queueWrite s (pfA + p) ((off - 0x4000) / 32) (off % 32) v
  else if 0x20000 ≤ off ∧ off < 0x90000 then windowWrite s m off v
  else s

/-- A register of VF BAR 0 written: function registers, queue table, doorbells; a push of 4 octets has no admissible shape (R311). -/
def vfWrite (s : State) (f off v : Nat) : State :=
  if off < 0x18 then functionWrite s f off v
  else if 0x400 ≤ off ∧ off < 0x800 then queueWrite s f ((off - 0x400) / 32) (off % 32) v
  else if 0x1000 ≤ off ∧ off < 0x1100 then
    let q := (off - 0x1000) / 8
    if off % 8 = 0 then sqTailWrite s f q v else cqHeadWrite s f q v
  else if 0x2000 ≤ off then pushCmd s f ((off - 0x2000) / 256) (off % 256) true false (leOctets 4 v)
  else s

/-! ### The commands -/

/-- The access of REGISTER_WRITE and LATCHED_READ by a controller, in its world and level. -/
def wordAccess (s : State) (c : CtlId) (kind : Kind) (a : DWord) : Access := ctlAccess s c kind a 0

/-- REGISTER_WRITE (R10). A controller's write is checked like any other; a host's goes to a window that answers, aligned (R8). -/
def registerWrite (s : State) (x : RegAt) (v : BitVec 32) : State :=
  match x with
  | .word c a =>
    let acc := wordAccess s c .write a
    if targetOf c.num a.toNat ≠ 6 then s
    else
      match checkAccess s acc with
      | some r => reportRefusal s acc r
      | none => devWrite s ⟨c.num, (s.ctl c).secure, (s.ctl c).priv⟩ a.toNat (v.toNat % 2 ^ 18)
  | .pf p off =>
    if ¬ reachable s (pfA + p) then s
    else if off.toNat % 4 ≠ 0 then accErr s (pfA + p)
    else pfWrite s p off.toNat v.toNat
  | .vf f off =>
    if ¬ reachable s f then s
    else if off.toNat % 4 ≠ 0 then accErr s f
    else vfWrite s f off.toNat v.toNat

/-- LATCHED_READ (R35): the read's effect on what later reads return. -/
def latchedRead (s : State) (x : RegAt) : State :=
  match x with
  | .word c a =>
    let acc := wordAccess s c .read a
    if targetOf c.num a.toNat ≠ 6 then s
    else
      match checkAccess s acc with
      | some r => reportRefusal s acc r
      | none => (devRead s c.num a.toNat).2
  | .pf p off =>
    if ¬ reachable s (pfA + p) then s
    else if off.toNat % 4 ≠ 0 then accErr s (pfA + p)
    else (pfRead s p off.toNat).2
  | .vf f off => if reachable s f ∧ off.toNat % 4 ≠ 0 then accErr s f else s

def execRegisterSet (x : RegAt) (v : BitVec 32) (s : State) : Out := done (registerWrite s x v)
def execLatchedRead (x : RegAt) (s : State) : Out := done (latchedRead s x)

end Sys2Proof.Machine
end

