-- ==== Sys2Proof/Machine/CtlMem.lean ====
section
/-! DEFINITION. Loads, stores, octet accesses and block operations of the controllers (R46 to R56, Tables 2.18 to 2.20, 3.7), and slot-0 accesses
to a sequencer's local data memory (R90, Table 4.2). -/
namespace Sys2Proof.Machine

/-! ### One access of a controller or of the debug master -/

/-- A word loaded: checked, then read. A failure is a vector and a code (Table 3.7). -/
def busLoad (s : State) (acc : Access) : State × Except (Nat × Nat) Word :=
  match checkAccess s acc with
  | some r => (reportRefusal s acc r, .error (3, r.code acc.nonet))
  | none =>
    if targetOf acc.m acc.addr = 6 then
      let (v, s) := devRead s acc.m acc.addr
      (s, .ok (BitVec.ofNat 18 v))
    else
      match memWord s acc.m acc.addr with
      | (s, some w) => (s, .ok w)
      | (s, none) => (s, .error (1, 1))

/-- A device register as an octet store finds it: only fields that keep what is written to them (R51). -/
def keptBits (s : State) (a : Nat) : Word :=
  BitVec.ofNat 18 (((fieldsAt a).map (fun f => if f.acc = .rw ∨ f.acc = .wl then s.rd f * 2 ^ f.lo else 0)).sum)

/-- A word stored whole, after its check was passed. -/
def putWord (s : State) (acc : Access) (addr : Nat) (w : Word) : State × Option (Nat × Nat) :=
  if targetOf acc.m addr = 6 then (devWrite s ⟨acc.m, acc.world, acc.priv⟩ addr w.toNat, none)
  else
    match memStore s acc.m addr (wordNonets addr w) with
    | (s, true) => (s, none)
    | (s, false) => (s, some (1, 1))

/-- A word stored: checked, then written. -/
def busStore (s : State) (acc : Access) (w : Word) : State × Option (Nat × Nat) :=
  match checkAccess s acc with
  | some r => (reportRefusal s acc r, some (3, r.code acc.nonet))
  | none => putWord s acc acc.addr w

/-- A double word loaded: one check, both words. -/
def busLoadPair (s : State) (acc : Access) : State × Except (Nat × Nat) DWord :=
  match busLoad s acc with
  | (s, .error e) => (s, .error e)
  | (s, .ok lo) =>
    match busLoad s { acc with addr := acc.addr + 1 } with
    | (s, .error e) => (s, .error e)
    | (s, .ok hi) => (s, .ok (dword hi lo))

/-- A double word stored: one check; memory takes both words in one access (R47, R86). -/
def busStorePair (s : State) (acc : Access) (v : DWord) : State × Option (Nat × Nat) :=
  match checkAccess s acc with
  | some r => (reportRefusal s acc r, some (3, r.code acc.nonet))
  | none =>
    if targetOf acc.m acc.addr = 6 then
      let s := devWrite s ⟨acc.m, acc.world, acc.priv⟩ acc.addr (loW v).toNat
      (devWrite s ⟨acc.m, acc.world, acc.priv⟩ (acc.addr + 1) (hiW v).toNat, none)
    else
      match memStore s acc.m acc.addr (wordNonets acc.addr (loW v) ++ wordNonets (acc.addr + 1) (hiW v)) with
      | (s, true) => (s, none)
      | (s, false) => (s, some (1, 1))

/-- A nonet stored (R51): the other nonet keeps its value. -/
def busStoreNonet (s : State) (acc : Access) (n : Nonet) : State × Option (Nat × Nat) :=
  match checkAccess s acc with
  | some r => (reportRefusal s acc r, some (3, r.code acc.nonet))
  | none =>
    if targetOf acc.m acc.addr = 6 then
      let old := keptBits s acc.addr
      let w := if acc.nonet = 0 then wordOf (nonetIn old 1) n else wordOf n (nonetIn old 0)
      (devWrite s ⟨acc.m, acc.world, acc.priv⟩ acc.addr w.toNat, none)
    else
      match memStore s acc.m acc.addr [(2 * acc.addr + acc.nonet, n)] with
      | (s, true) => (s, none)
      | (s, false) => (s, some (1, 1))

/-- Cycles of an access (Table 2.20): the targets outside on-chip SRAM set their own time. -/
def accessTime (s : State) (c : CtlId) (addr : DWord) : Nat :=
  let t := targetOf c.num addr.toNat
  if t = 6 ∨ t = 7 then Config.accessCycles (s.ctl c).cyc.toNat else 1

/-! ### Loads and stores of the controllers -/

/-- A load of a controller; `f` puts the value into registers. -/
def ctlLoad {α : Type} (s : State) (c : CtlId) (legal : Bool) (addr : DWord) (aligned : Bool)
    (load : State → Access → State × Except (Nat × Nat) α) (f : Ctl → α → Ctl) : State :=
  ctlIssue s c (.plain (accessTime s c addr) (!legal)) (fun s =>
    if !aligned then .raises s 9 0 addr.toNat
    else
      match load s (ctlAccess s c .read addr 0) with
      | (s, .error e) => .raises s e.1 e.2 addr.toNat
      | (s, .ok v) => .ok (s.onCtl c (fun k => f k v)))

/-- A store of a controller. -/
def ctlStore (s : State) (c : CtlId) (legal : Bool) (addr : DWord) (nonet : Nat) (aligned : Bool)
    (store : State → Access → State × Option (Nat × Nat)) : State :=
  ctlIssue s c (.plain (accessTime s c addr) (!legal)) (fun s =>
    if !aligned then .raises s 9 0 addr.toNat
    else
      match store s (ctlAccess s c .write addr nonet) with
      | (s, some e) => .raises s e.1 e.2 addr.toNat
      | (s, none) => .ok s)

/-! ### The local data memory of a sequencer (R90) -/

/-- The local address of a slot-0 access of `n` words; none where the monitor refuses it. -/
def localAddr (q : Seq) (rbase : Fin 32) (off : Word) (n : Nat) : Option Nat :=
  let ea := (q.pair rbase + off.signExtend 36).toNat
  if ea ≥ 1024 ∨ (n = 2 ∧ ea % 2 = 1) then none else some ea

/-- LD (R46, R90). -/
def execLd (x : Site) (rt rbase : Fin 32) (off : Word) (s : State) : Out :=
  done (match x with
    | .ctl c => ctlLoad s c (evenReg rbase) ((s.ctl c).ea rbase off) true busLoad (fun k v => k.setReg rt v)
    | .fig a =>
      if evenReg rbase then slot0 s a (fun q => (localAddr q rbase off 1).map (fun ea => [(2, .freg rt (tget 0 q.loc ea))])) else s)

/-- ST (R46, R90). -/
def execSt (x : Site) (rt rbase : Fin 32) (off : Word) (s : State) : Out :=
  done (match x with
    | .ctl c => ctlStore s c (evenReg rbase) ((s.ctl c).ea rbase off) 0 true (fun s acc => busStore s acc ((s.ctl c).reg rt))
    | .fig a =>
      if evenReg rbase then slot0 s a (fun q => (localAddr q rbase off 1).map (fun ea => [(1, .loc ea (q.reg rt))])) else s)

/-- LDD (R46, R90). -/
def execLdd (x : Site) (rt rbase : Fin 32) (off : Word) (s : State) : Out :=
  let legal := evenReg rbase && evenReg rt
  done (match x with
    | .ctl c =>
      let ea := (s.ctl c).ea rbase off
      ctlLoad s c legal ea (decide (ea.toNat % 2 = 0)) busLoadPair (fun k v => k.setPair rt v)
    | .fig a =>
      if legal then
        slot0 s a (fun q => (localAddr q rbase off 2).map (fun ea => [(2, .fpair rt (dword (tget 0 q.loc (ea + 1)) (tget 0 q.loc ea)))]))
      else s)

/-- STD (R46, R90). -/
def execStd (x : Site) (rt rbase : Fin 32) (off : Word) (s : State) : Out :=
  let legal := evenReg rbase && evenReg rt
  done (match x with
    | .ctl c =>
      let ea := (s.ctl c).ea rbase off
      ctlStore s c legal ea 0 (decide (ea.toNat % 2 = 0)) (fun s acc => busStorePair s acc ((s.ctl c).pair rt))
    | .fig a =>
      if legal then
        slot0 s a (fun q => (localAddr q rbase off 2).map (fun ea => [(1, .loc ea (loW (q.pair rt))), (1, .loc (ea + 1) (hiW (q.pair rt)))]))
      else s)

/-- LDO (R49, R50): the octet with its parity checked, or the whole nonet. -/
def execLdo (c : CtlId) (rt rbase : Fin 32) (n : Bool) (off : Word) (s : State) : Out :=
  let o := (s.ctl c).octetEa rbase off
  done (ctlIssue s c (.plain (accessTime s c o.1) (!evenReg rbase)) (fun s =>
    match busLoad s (ctlAccess s c .read o.1 o.2) with
    | (s, .error e) => .raises s e.1 e.2 o.1.toNat
    | (s, .ok w) =>
      let x := nonetIn w o.2
      let k := s.ctl c
      if n then .ok (s.setCtl c (k.setReg rt (x.zeroExtend 18)))
      else if nonetOk x then .ok (s.setCtl c (k.setReg rt ((x.extractLsb' 0 8).zeroExtend 18)))
      else if k.cur.pet then .raises s 0xB o.2 o.1.toNat
      else
        .ok (s.setCtl c ((k.setReg rt ((x.extractLsb' 0 8).zeroExtend 18)).onCur (fun w => { w with flags := { w.flags with pe := true } })))))

/-- STO (R49, R51): parity generated, or the nonet as given. -/
def execSto (c : CtlId) (rt rbase : Fin 32) (n : Bool) (off : Word) (s : State) : Out :=
  let o := (s.ctl c).octetEa rbase off
  done (ctlStore s c (evenReg rbase) o.1 o.2 true (fun s acc =>
    let v := (s.ctl c).reg rt
    busStoreNonet s acc (if n then v.extractLsb' 0 9 else nonetOf (v.extractLsb' 0 8))))

/-! ### Block move and block zero (R52 to R56) -/

/-- After a word: destination, source and count change together (R54). -/
def Ctl.blockStep (k : Ctl) (rd ra rb : Nat) (zero : Bool) : Ctl :=
  let k := (k.setPair rd (k.pair rd + 1)).setReg rb (k.reg rb - 1)
  if zero then k else k.setPair ra (k.pair ra + 1)

/-- At most `n` words of a block: it completes, an interrupt ends it after a word, or the access of a word fails. -/
def blockWords (c : CtlId) (rd ra rb : Nat) (zero : Bool) : Nat → State → Ran
  | 0, s => if (s.ctl c).reg rb = 0 then .ok s else .stays s
  | n + 1, s =>
    let k := s.ctl c
    if k.reg rb = 0 then .ok s
    else
      let src := k.pair ra
      let dst := k.pair rd
      match (if zero then (s, .ok 0) else busLoad s (ctlAccess s c .read src 0) : State × Except (Nat × Nat) Word) with
      | (s, .error e) => .raises s e.1 e.2 src.toNat
      | (s, .ok w) =>
        match busStore s (ctlAccess s c .write dst 0) w with
        | (s, some e) => .raises s e.1 e.2 dst.toNat
        | (s, none) => blockWords c rd ra rb zero n (s.onCtl c (fun k => k.blockStep rd ra rb zero))

/-- BMOV and BZERO: an interrupt comes after `upTo` words, if the block is longer. -/
def moveBlock (s : State) (c : CtlId) (legal zero : Bool) (rd ra rb upTo : Nat) : State :=
  let k := s.ctl c
  let n := (k.reg rb).toNat
  let chip := fun (a : DWord) => decide (targetOf c.num a.toNat ≠ 6 ∧ targetOf c.num a.toNat ≠ 7)
  let cycles := if chip (k.pair rd) && (zero || chip (k.pair ra)) then (if zero then 3 else 4) + min (max 1 upTo) n
    else Config.accessCycles k.cyc.toNat
  ctlIssue s c (.jump cycles (!legal)) (fun s => if n > 4096 then .raises s 0xA 0 0 else blockWords c rd ra rb zero (max 1 upTo) s)

def execBmov (c : CtlId) (rd ra rb : Fin 32) (upTo : Nat) (s : State) : Out := done (moveBlock s c (bmovOk rd ra rb) false rd ra rb upTo)
def execBzero (c : CtlId) (rd rb : Fin 32) (upTo : Nat) (s : State) : Out := done (moveBlock s c (bzeroOk rd rb) true rd 0 rb upTo)

end Sys2Proof.Machine
end

