-- ==== Sys2Proof/Machine/Debug.lean ====
section
/-! DEFINITION. The JTAG port (R460, R461, Table 20.9) and the debug master 0x80 (R347, R351, Table 14.12). -/
namespace Sys2Proof.Machine

/-- The TAP's instruction. -/
def setIr (s : State) (i : JtagIr) : State := { s with dbg := { s.dbg with ir := i } }

/-- Modes in which boundary scan takes effect (R461). -/
def scanMode (s : State) : Bool := decide (s.mode = mUncommissioned ∨ s.mode = mZeroized ∨ s.mode = mFault)

/-- An instruction that drives balls: elsewhere it acts as BYPASS (R461). -/
def scanIr (s : State) (i : JtagIr) : State := setIr s (if scanMode s then i else .bypass)

/-- SAMPLE/PRELOAD: samples, and outside the modes of R461 does not update. -/
def preload (s : State) (cells : List Bool) : State :=
  let s := setIr s .samplePreload
  if scanMode s then { s with dbg := { s.dbg with cells := cells } } else s

/-- DEBUG_PORT: BYPASS without an active session (R351). -/
def selectPort (s : State) : State := setIr s (if s.on Reg.DBG_STAT_ACTIVE then .debugPort else .bypass)

/-- Does the debug port serve a request at a level (R347)? -/
def portServes (s : State) (level : Nat) : Bool :=
  s.on Reg.DBG_STAT_ACTIVE && decide (s.rd Reg.DBG_STAT_LEVEL = level) && decide (s.dbg.ir = .debugPort)

/-- Does the port command a controller? -/
def portCommands (s : State) (c : CtlId) : Bool := portServes s 2 && debugHolds s c && (s.ctl c).running

/-- The MC halted by a double exception stays halted until MC_CTL.RESET (R411). -/
def stuckHalt (s : State) (c : CtlId) : Bool := decide (c = .mc) && s.on Reg.MC_STAT_HALTED

/-- A transaction of the debug master: level 1 normal world, level 2 secure world, privileged (Table 14.12). -/
def debugAcc (kind : Kind) (level2 : Bool) (addr : DWord) : Access := ⟨0x80, level2, true, 0xFFF, kind, addr.toNat, 0⟩

/-- An access at level 2: every fabric target, every register of a target controller. -/
def invasive (s : State) (isStore : Bool) (t : DebugTarget) (v : Word) : State :=
  match t with
  | .word addr =>
    if isStore then (busStore s (debugAcc .write true addr) v).1 else (busLoad s (debugAcc .read true addr)).1
  | .greg c r => if isStore ∧ debugHolds s c then s.onCtl c (fun k => k.setReg r v) else s
  | .creg c secure n =>
    if isStore ∧ debugHolds s c ∧ cregExists n.toNat ∧ (c ≠ .mc ∨ (¬ secure ∧ n.toNat < 0x30)) then
      s.onCtl c (fun k => k.cregWrite secure n.toNat v)
    else s

/-- An access at level 1: reads only (Table 14.12); a sample of a register changes nothing. -/
def watch (s : State) (isStore : Bool) (t : DebugTarget) : State :=
  match t with
  | .word addr => if isStore then s else (busLoad s (debugAcc .read false addr)).1
  | .greg _ _ => s
  | .creg _ _ _ => s

/-- What a register sample of level 1 shows: zero while the target runs in the secure world, or is no target (Table 14.12). -/
def sampleReg (s : State) (c : CtlId) (r : Nat) : Word :=
  if bit (s.rd Reg.DBG_STAT_TARGETS) c.num ∧ ¬ (s.ctl c).secure then (s.ctl c).reg r else 0

/-- DEBUG_ACCESS. -/
def debugTransaction (s : State) (isStore : Bool) (t : DebugTarget) (v : Word) : State :=
  if portServes s 2 then invasive s isStore t v else if portServes s 1 then watch s isStore t else s

def execJtagIdcode (s : State) : Out := done (setIr s .idcode)
def execJtagSamplePreload (cells : List Bool) (s : State) : Out := done (preload s cells)
def execJtagExtest (s : State) : Out := done (scanIr s .extest)
def execJtagClamp (s : State) : Out := done (scanIr s .clamp)
def execJtagHighz (s : State) : Out := done (scanIr s .highz)
def execJtagNonceRead (s : State) : Out := done (setIr s .nonceRead)
def execJtagDebugPort (s : State) : Out := done (selectPort s)
def execJtagBypass (s : State) : Out := done (setIr s .bypass)
/-- A halt by the debug port (R351). -/
def execDebugHalt (c : CtlId) (s : State) : Out := done (if portCommands s c then s.onCtl c (fun k => { k with halted := true }) else s)
/-- One instruction of a halted controller may run. -/
def execDebugSingleStep (c : CtlId) (s : State) : Out :=
  done (if portCommands s c ∧ (s.ctl c).halted ∧ ¬ stuckHalt s c then s.onCtl c (fun k => { k with step := true }) else s)
/-- A halted controller runs on. -/
def execDebugResume (c : CtlId) (s : State) : Out :=
  done (if portCommands s c ∧ ¬ stuckHalt s c then s.onCtl c (fun k => { k with halted := false, step := false }) else s)
def execDebugAccess (isStore : Bool) (target : DebugTarget) (v : Word) (s : State) : Out := done (debugTransaction s isStore target v)

end Sys2Proof.Machine
end

