-- ==== Sys2Proof/Machine/Dispatch.lean ====
section
/-! DEFINITION. One arm per command: a direct call of its meaning. -/
namespace Sys2Proof.Machine

def exec (i : Instr) (s : State) : Host.Outcome State Fault Refusal :=
  match i with
  | .add x rd ra rb => Sys2Proof.Machine.execAdd x rd ra rb s
  | .adc x rd ra rb => Sys2Proof.Machine.execAdc x rd ra rb s
  | .sub x rd ra rb => Sys2Proof.Machine.execSub x rd ra rb s
  | .sbc x rd ra rb => Sys2Proof.Machine.execSbc x rd ra rb s
  | .neg x rd ra => Sys2Proof.Machine.execNeg x rd ra s
  | .cmp x ra rb => Sys2Proof.Machine.execCmp x ra rb s
  | .and x rd ra rb => Sys2Proof.Machine.execAnd x rd ra rb s
  | .or x rd ra rb => Sys2Proof.Machine.execOr x rd ra rb s
  | .xor x rd ra rb => Sys2Proof.Machine.execXor x rd ra rb s
  | .andn x rd ra rb => Sys2Proof.Machine.execAndn x rd ra rb s
  | .shl x rd ra rb => Sys2Proof.Machine.execShl x rd ra rb s
  | .shr x rd ra rb => Sys2Proof.Machine.execShr x rd ra rb s
  | .sar x rd ra rb => Sys2Proof.Machine.execSar x rd ra rb s
  | .rol x rd ra rb => Sys2Proof.Machine.execRol x rd ra rb s
  | .ror x rd ra rb => Sys2Proof.Machine.execRor x rd ra rb s
  | .shli x rd ra amount => Sys2Proof.Machine.execShli x rd ra amount s
  | .shri x rd ra amount => Sys2Proof.Machine.execShri x rd ra amount s
  | .sari x rd ra amount => Sys2Proof.Machine.execSari x rd ra amount s
  | .roli x rd ra amount => Sys2Proof.Machine.execRoli x rd ra amount s
  | .rori x rd ra amount => Sys2Proof.Machine.execRori x rd ra amount s
  | .mul x rd ra rb => Sys2Proof.Machine.execMul x rd ra rb s
  | .mulu x rd ra rb => Sys2Proof.Machine.execMulu x rd ra rb s
  | .div c rd ra rb => Sys2Proof.Machine.execDiv c rd ra rb s
  | .divu c rd ra rb => Sys2Proof.Machine.execDivu c rd ra rb s
  | .movd x rd ra => Sys2Proof.Machine.execMovd x rd ra s
  | .addd x rd ra rb => Sys2Proof.Machine.execAddd x rd ra rb s
  | .subd x rd ra rb => Sys2Proof.Machine.execSubd x rd ra rb s
  | .clz x rd ra => Sys2Proof.Machine.execClz x rd ra s
  | .packo x rd ra rb => Sys2Proof.Machine.execPacko x rd ra rb s
  | .addi x rd ra imm => Sys2Proof.Machine.execAddi x rd ra imm s
  | .andi x rd ra imm => Sys2Proof.Machine.execAndi x rd ra imm s
  | .ori x rd ra imm => Sys2Proof.Machine.execOri x rd ra imm s
  | .xori x rd ra imm => Sys2Proof.Machine.execXori x rd ra imm s
  | .cmpi x ra imm => Sys2Proof.Machine.execCmpi x ra imm s
  | .lea x rd ra imm => Sys2Proof.Machine.execLea x rd ra imm s
  | .ld x rt rbase off => Sys2Proof.Machine.execLd x rt rbase off s
  | .st x rt rbase off => Sys2Proof.Machine.execSt x rt rbase off s
  | .ldd x rt rbase off => Sys2Proof.Machine.execLdd x rt rbase off s
  | .std x rt rbase off => Sys2Proof.Machine.execStd x rt rbase off s
  | .ldo c rt rbase n off => Sys2Proof.Machine.execLdo c rt rbase n off s
  | .sto c rt rbase n off => Sys2Proof.Machine.execSto c rt rbase n off s
  | .beq c ra rb disp => Sys2Proof.Machine.execBeq c ra rb disp s
  | .bne c ra rb disp => Sys2Proof.Machine.execBne c ra rb disp s
  | .blt c ra rb disp => Sys2Proof.Machine.execBlt c ra rb disp s
  | .bge c ra rb disp => Sys2Proof.Machine.execBge c ra rb disp s
  | .bltu c ra rb disp => Sys2Proof.Machine.execBltu c ra rb disp s
  | .bgeu c ra rb disp => Sys2Proof.Machine.execBgeu c ra rb disp s
  | .bf c cond disp => Sys2Proof.Machine.execBf c cond disp s
  | .jmp c disp => Sys2Proof.Machine.execJmp c disp s
  | .call c disp => Sys2Proof.Machine.execCall c disp s
  | .jr c ra => Sys2Proof.Machine.execJr c ra s
  | .callr c ra => Sys2Proof.Machine.execCallr c ra s
  | .loop x lvl count len => Sys2Proof.Machine.execLoop x lvl count len s
  | .mfc c rd code => Sys2Proof.Machine.execMfc c rd code s
  | .mtc c ra code => Sys2Proof.Machine.execMtc c ra code s
  | .gate c code => Sys2Proof.Machine.execGate c code s
  | .eret c => Sys2Proof.Machine.execEret c s
  | .syncI c => Sys2Proof.Machine.execSyncI c s
  | .fence c => Sys2Proof.Machine.execFence c s
  | .wait c => Sys2Proof.Machine.execWait c s
  | .brk c code => Sys2Proof.Machine.execBrk c code s
  | .bmov c rd ra rb upTo => Sys2Proof.Machine.execBmov c rd ra rb upTo s
  | .bzero c rd rb upTo => Sys2Proof.Machine.execBzero c rd rb upTo s
  | .syscall c code => Sys2Proof.Machine.execSyscall c code s
  | .interruptTaken c => Sys2Proof.Machine.execInterruptTaken c s
  | .secureInterruptEntry c => Sys2Proof.Machine.execSecureInterruptEntry c s
  | .endRun a => Sys2Proof.Machine.execEndRun a s
  | .endRepeat a ra => Sys2Proof.Machine.execEndRepeat a ra s
  | .endReject a ra => Sys2Proof.Machine.execEndReject a ra s
  | .hset a u r => Sys2Proof.Machine.execHset a u r s
  | .hld a u m tap adv => Sys2Proof.Machine.execHld a u m tap adv s
  | .hst a u m adv => Sys2Proof.Machine.execHst a u m adv s
  | .aese a u m => Sys2Proof.Machine.execAese a u m s
  | .aesd a u m => Sys2Proof.Machine.execAesd a u m s
  | .ctre a u m => Sys2Proof.Machine.execCtre a u m s
  | .ctrk a u m => Sys2Proof.Machine.execCtrk a u m s
  | .ctri a u m => Sys2Proof.Machine.execCtri a u m s
  | .xorb a u m => Sys2Proof.Machine.execXorb a u m s
  | .movb a u m => Sys2Proof.Machine.execMovb a u m s
  | .xtse a u m => Sys2Proof.Machine.execXtse a u m s
  | .xtsd a u m => Sys2Proof.Machine.execXtsd a u m s
  | .cbcd a u m => Sys2Proof.Machine.execCbcd a u m s
  | .cmacb a u m => Sys2Proof.Machine.execCmacb a u m s
  | .csave a u m => Sys2Proof.Machine.execCsave a u m s
  | .crest a u m => Sys2Proof.Machine.execCrest a u m s
  | .kput a u m k => Sys2Proof.Machine.execKput a u m k s
  | .ghk a u lane => Sys2Proof.Machine.execGhk a u lane s
  | .gha a u lane => Sys2Proof.Machine.execGha a u lane s
  | .ghb a u lane => Sys2Proof.Machine.execGhb a u lane s
  | .ghl a u r => Sys2Proof.Machine.execGhl a u r s
  | .gtag a u lane adv => Sys2Proof.Machine.execGtag a u lane adv s
  | .gcmp a u lane r => Sys2Proof.Machine.execGcmp a u lane r s
  | .gclr a u => Sys2Proof.Machine.execGclr a u s
  | .twi a u r => Sys2Proof.Machine.execTwi a u r s
  | .twn a u => Sys2Proof.Machine.execTwn a u s
  | .dinit a u alg => Sys2Proof.Machine.execDinit a u alg s
  | .dabs a u lg lane bout => Sys2Proof.Machine.execDabs a u lg lane bout s
  | .dcomp a u => Sys2Proof.Machine.execDcomp a u s
  | .dfin a u => Sys2Proof.Machine.execDfin a u s
  | .dout a u lg => Sys2Proof.Machine.execDout a u lg s
  | .dpad a u k opad => Sys2Proof.Machine.execDpad a u k opad s
  | .dsave a u lg => Sys2Proof.Machine.execDsave a u lg s
  | .drest a u lg => Sys2Proof.Machine.execDrest a u lg s
  | .dtap a u lg => Sys2Proof.Machine.execDtap a u lg s
  | .ladd x u d a b => Sys2Proof.Machine.execLadd x u d a b s
  | .lsub x u d a b => Sys2Proof.Machine.execLsub x u d a b s
  | .mnorm x u d a double => Sys2Proof.Machine.execMnorm x u d a double s
  | .mmul x u d a b => Sys2Proof.Machine.execMmul x u d a b s
  | .msqr x u d a => Sys2Proof.Machine.execMsqr x u d a s
  | .minv x u d a => Sys2Proof.Machine.execMinv x u d a s
  | .mexp x u d a b opt => Sys2Proof.Machine.execMexp x u d a b opt s
  | .mset x u a given => Sys2Proof.Machine.execMset x u a given s
  | .mchk x u a nonzero => Sys2Proof.Machine.execMchk x u a nonzero s
  | .msel x u d a b sel => Sys2Proof.Machine.execMsel x u d a b sel s
  | .mscan x u d a b opt => Sys2Proof.Machine.execMscan x u d a b opt s
  | .meq x u d a b => Sys2Proof.Machine.execMeq x u d a b s
  | .lset x u a wide => Sys2Proof.Machine.execLset x u a wide s
  | .ntt x u d a eight => Sys2Proof.Machine.execNtt x u d a eight s
  | .intt x u d a eight => Sys2Proof.Machine.execIntt x u d a eight s
  | .pmul x u d a b base => Sys2Proof.Machine.execPmul x u d a b base s
  | .padd x u d a b => Sys2Proof.Machine.execPadd x u d a b s
  | .psub x u d a b => Sys2Proof.Machine.execPsub x u d a b s
  | .pnorm x u d a b => Sys2Proof.Machine.execPnorm x u d a b s
  | .psplit x u d a b => Sys2Proof.Machine.execPsplit x u d a b s
  | .phint x u d a b use => Sys2Proof.Machine.execPhint x u d a b use s
  | .pcomp x u d a w => Sys2Proof.Machine.execPcomp x u d a w s
  | .pdecomp x u d a w => Sys2Proof.Machine.execPdecomp x u d a w s
  | .pack x u d a b w minus => Sys2Proof.Machine.execPack x u d a b w minus s
  | .unpack x u d a b w minus => Sys2Proof.Machine.execUnpack x u d a b w minus s
  | .prej x u d a b mode c => Sys2Proof.Machine.execPrej x u d a b mode c s
  | .pcbd x u d a eta => Sys2Proof.Machine.execPcbd x u d a eta s
  | .pconv x u d a b w => Sys2Proof.Machine.execPconv x u d a b w s
  | .nseta x u d r => Sys2Proof.Machine.execNseta x u d r s
  | .nsetl x u r => Sys2Proof.Machine.execNsetl x u r s
  | .nldh x u d r c form => Sys2Proof.Machine.execNldh x u d r c form s
  | .nsth x u d r c form => Sys2Proof.Machine.execNsth x u d r c form s
  | .nldf x u d r => Sys2Proof.Machine.execNldf x u d r s
  | .nstf x u a r => Sys2Proof.Machine.execNstf x u a r s
  | .nstat x u r => Sys2Proof.Machine.execNstat x u r s
  | .ninc x u d r => Sys2Proof.Machine.execNinc x u d r s
  | .klane a u m k => Sys2Proof.Machine.execKlane a u m k s
  | .kgh a u k => Sys2Proof.Machine.execKgh a u k s
  | .kxt a u k => Sys2Proof.Machine.execKxt a u k s
  | .knu a u k base => Sys2Proof.Machine.execKnu a u k base s
  | .rndf a r => Sys2Proof.Machine.execRndf a r s
  | .rndn a u base => Sys2Proof.Machine.execRndn a u base s
  | .auth a r => Sys2Proof.Machine.execAuth a r s
  | .res a n r => Sys2Proof.Machine.execRes a n r s
  | .hrel a u page => Sys2Proof.Machine.execHrel a u page s
  | .resultLanding fs => Sys2Proof.Machine.execResultLanding fs s
  | .measureBoundary => Sys2Proof.Machine.execMeasureBoundary s
  | .sqTail f q v => Sys2Proof.Machine.execSqTail f q v s
  | .cqHead f q v => Sys2Proof.Machine.execCqHead f q v s
  | .pushWrite f q off oneTlp ide data => Sys2Proof.Machine.execPushWrite f q off oneTlp ide data s
  | .commandFetch f q ide data => Sys2Proof.Machine.execCommandFetch f q ide data s
  | .ingressAdmit f => Sys2Proof.Machine.execIngressAdmit f s
  | .keyCacheLoadDone r => Sys2Proof.Machine.execKeyCacheLoadDone r s
  | .stagingDmaDone r data => Sys2Proof.Machine.execStagingDmaDone r data s
  | .pageDrainDone r => Sys2Proof.Machine.execPageDrainDone r s
  | .completionWrite f q => Sys2Proof.Machine.execCompletionWrite f q s
  | .msixModerationTimer f q => Sys2Proof.Machine.execMsixModerationTimer f q s
  | .run r => Sys2Proof.Machine.execRun r s
  | .abort r => Sys2Proof.Machine.execAbort r s
  | .keyGenerate r blk => Sys2Proof.Machine.execKeyGenerate r blk s
  | .keyDerive r blk => Sys2Proof.Machine.execKeyDerive r blk s
  | .keyRestrict r blk => Sys2Proof.Machine.execKeyRestrict r blk s
  | .keyInfo r => Sys2Proof.Machine.execKeyInfo r s
  | .keyDestroy r blk => Sys2Proof.Machine.execKeyDestroy r blk s
  | .keyExport r blk => Sys2Proof.Machine.execKeyExport r blk s
  | .keyImport r blk => Sys2Proof.Machine.execKeyImport r blk s
  | .attest r blk => Sys2Proof.Machine.execAttest r blk s
  | .journalRead r => Sys2Proof.Machine.execJournalRead r s
  | .journalAck r => Sys2Proof.Machine.execJournalAck r s
  | .ballotOpen r blk => Sys2Proof.Machine.execBallotOpen r blk s
  | .ballotSign r blk => Sys2Proof.Machine.execBallotSign r blk s
  | .ballotClose r => Sys2Proof.Machine.execBallotClose r s
  | .commissionBegin r blk => Sys2Proof.Machine.execCommissionBegin r blk s
  | .commissionFinish r blk => Sys2Proof.Machine.execCommissionFinish r blk s
  | .domainCreate r blk trailer => Sys2Proof.Machine.execDomainCreate r blk trailer s
  | .domainDestroy r blk => Sys2Proof.Machine.execDomainDestroy r blk s
  | .domainSuspend r blk => Sys2Proof.Machine.execDomainSuspend r blk s
  | .domainResume r blk => Sys2Proof.Machine.execDomainResume r blk s
  | .officerChange r blk trailer => Sys2Proof.Machine.execOfficerChange r blk trailer s
  | .figureSigner r blk => Sys2Proof.Machine.execFigureSigner r blk s
  | .devicePolicy r blk => Sys2Proof.Machine.execDevicePolicy r blk s
  | .leadTakeover r blk => Sys2Proof.Machine.execLeadTakeover r blk s
  | .journalClear r blk => Sys2Proof.Machine.execJournalClear r blk s
  | .vaultReset r blk => Sys2Proof.Machine.execVaultReset r blk s
  | .migrationFreeze r blk => Sys2Proof.Machine.execMigrationFreeze r blk s
  | .replication r blk => Sys2Proof.Machine.execReplication r blk s
  | .firmwareStage r blk => Sys2Proof.Machine.execFirmwareStage r blk s
  | .firmwareActivate r blk => Sys2Proof.Machine.execFirmwareActivate r blk s
  | .debugAuthorise r blk trailer => Sys2Proof.Machine.execDebugAuthorise r blk trailer s
  | .rawEntropy r blk => Sys2Proof.Machine.execRawEntropy r blk s
  | .rawRead r => Sys2Proof.Machine.execRawRead r s
  | .cellWindow r blk => Sys2Proof.Machine.execCellWindow r blk s
  | .vaultCommit r => Sys2Proof.Machine.execVaultCommit r s
  | .vaultStored r => Sys2Proof.Machine.execVaultStored r s
  | .vaultLoad r blk => Sys2Proof.Machine.execVaultLoad r blk s
  | .figurePin r blk => Sys2Proof.Machine.execFigurePin r blk s
  | .figureUnpin r => Sys2Proof.Machine.execFigureUnpin r s
  | .funcCreate r blk => Sys2Proof.Machine.execFuncCreate r blk s
  | .funcChange r blk => Sys2Proof.Machine.execFuncChange r blk s
  | .vfDestroy r => Sys2Proof.Machine.execVfDestroy r s
  | .vfFreeze r => Sys2Proof.Machine.execVfFreeze r s
  | .vfThaw r => Sys2Proof.Machine.execVfThaw r s
  | .migTicket r => Sys2Proof.Machine.execMigTicket r s
  | .vfSave r blk => Sys2Proof.Machine.execVfSave r blk s
  | .vfRestore r blk => Sys2Proof.Machine.execVfRestore r blk s
  | .queueMark r => Sys2Proof.Machine.execQueueMark r s
  | .migrationThaw r => Sys2Proof.Machine.execMigrationThaw r s
  | .portVfAlloc r => Sys2Proof.Machine.execPortVfAlloc r s
  | .warmReset r => Sys2Proof.Machine.execWarmReset r s
  | .queueEnable f q v => Sys2Proof.Machine.execQueueEnable f q v s
  | .queueDisable f q v => Sys2Proof.Machine.execQueueDisable f q v s
  | .flrReportPop p => Sys2Proof.Machine.execFlrReportPop p s
  | .hostMisalignedAccess f => Sys2Proof.Machine.execHostMisalignedAccess f s
  | .registerSet x v => Sys2Proof.Machine.execRegisterSet x v s
  | .latchedRead x => Sys2Proof.Machine.execLatchedRead x s
  | .vfFlr f => Sys2Proof.Machine.execVfFlr f s
  | .pfFlr p => Sys2Proof.Machine.execPfFlr p s
  | .perstAssert p => Sys2Proof.Machine.execPerstAssert p s
  | .perstRelease p => Sys2Proof.Machine.execPerstRelease p s
  | .hotReset p => Sys2Proof.Machine.execHotReset p s
  | .linkDown p => Sys2Proof.Machine.execLinkDown p s
  | .getVersion p msg => Sys2Proof.Machine.execGetVersion p msg s
  | .getCapabilities p msg => Sys2Proof.Machine.execGetCapabilities p msg s
  | .negotiateAlgorithms p msg => Sys2Proof.Machine.execNegotiateAlgorithms p msg s
  | .getDigests p msg => Sys2Proof.Machine.execGetDigests p msg s
  | .getCertificate p msg => Sys2Proof.Machine.execGetCertificate p msg s
  | .challenge p msg => Sys2Proof.Machine.execChallenge p msg s
  | .getMeasurements p msg => Sys2Proof.Machine.execGetMeasurements p msg s
  | .keyExchange p msg => Sys2Proof.Machine.execKeyExchange p msg s
  | .finish p msg => Sys2Proof.Machine.execFinish p msg s
  | .closeSession p msg => Sys2Proof.Machine.execCloseSession p msg s
  | .keyUpdate p msg => Sys2Proof.Machine.execKeyUpdate p msg s
  | .heartbeat p msg => Sys2Proof.Machine.execHeartbeat p msg s
  | .ideKm p msg => Sys2Proof.Machine.execIdeKm p msg s
  | .doeDiscovery p index => Sys2Proof.Machine.execDoeDiscovery p index s
  | .mctpSpdmRelay msg => Sys2Proof.Machine.execMctpSpdmRelay msg s
  | .mctpControl msg => Sys2Proof.Machine.execMctpControl msg s
  | .pldmPlatformMonitoring msg => Sys2Proof.Machine.execPldmPlatformMonitoring msg s
  | .requestFirmwareData data => Sys2Proof.Machine.execRequestFirmwareData data s
  | .activateFirmware msg => Sys2Proof.Machine.execActivateFirmware msg s
  | .ptpEventMessage msg => Sys2Proof.Machine.execPtpEventMessage msg s
  | .floorCommit => Sys2Proof.Machine.execFloorCommit s
  | .laneGroupTest reel lane => Sys2Proof.Machine.execLaneGroupTest reel lane s
  | .laneReinstate reel lane => Sys2Proof.Machine.execLaneReinstate reel lane s
  | .laneRetire reel lane => Sys2Proof.Machine.execLaneRetire reel lane s
  | .spareTest reel => Sys2Proof.Machine.execSpareTest reel s
  | .laneActionDone reel pass => Sys2Proof.Machine.execLaneActionDone reel pass s
  | .duTest u => Sys2Proof.Machine.execDuTest u s
  | .duReinstate u => Sys2Proof.Machine.execDuReinstate u s
  | .duRetire u => Sys2Proof.Machine.execDuRetire u s
  | .duActionDone u pass => Sys2Proof.Machine.execDuActionDone u pass s
  | .nuTest u => Sys2Proof.Machine.execNuTest u s
  | .nuReinstate u => Sys2Proof.Machine.execNuReinstate u s
  | .nuRetire u => Sys2Proof.Machine.execNuRetire u s
  | .nuActionDone u pass => Sys2Proof.Machine.execNuActionDone u pass s
  | .bootTapArm => Sys2Proof.Machine.execBootTapArm s
  | .bootTapClose place image => Sys2Proof.Machine.execBootTapClose place image s
  | .measxGo x index => Sys2Proof.Machine.execMeasxGo x index s
  | .measExtension => Sys2Proof.Machine.execMeasExtension s
  | .reseed => Sys2Proof.Machine.execReseed s
  | .retire n => Sys2Proof.Machine.execRetire n s
  | .rawCtlGo sc restart source count => Sys2Proof.Machine.execRawCtlGo sc restart source count s
  | .rawCtlClose sc => Sys2Proof.Machine.execRawCtlClose sc s
  | .rawCaptureEnd samples => Sys2Proof.Machine.execRawCaptureEnd samples s
  | .entropyBlockComplete n samples => Sys2Proof.Machine.execEntropyBlockComplete n samples s
  | .startupTestEnd n samples => Sys2Proof.Machine.execStartupTestEnd n samples s
  | .conditionedOutputReady => Sys2Proof.Machine.execConditionedOutputReady s
  | .drbgGenerateServe => Sys2Proof.Machine.execDrbgGenerateServe s
  | .drbgReseedServe => Sys2Proof.Machine.execDrbgReseedServe s
  | .drbgInstantiate testPass => Sys2Proof.Machine.execDrbgInstantiate testPass s
  | .expanderReseed reel => Sys2Proof.Machine.execExpanderReseed reel s
  | .expanderStale reel => Sys2Proof.Machine.execExpanderStale reel s
  | .ksOpGenerate sc arg => Sys2Proof.Machine.execKsOpGenerate sc arg s
  | .ksOpDerive sc arg => Sys2Proof.Machine.execKsOpDerive sc arg s
  | .ksOpRestrict sc arg => Sys2Proof.Machine.execKsOpRestrict sc arg s
  | .ksOpInfo sc arg => Sys2Proof.Machine.execKsOpInfo sc arg s
  | .ksOpDestroy sc arg => Sys2Proof.Machine.execKsOpDestroy sc arg s
  | .ksOpExport sc arg => Sys2Proof.Machine.execKsOpExport sc arg s
  | .ksOpImport sc arg => Sys2Proof.Machine.execKsOpImport sc arg s
  | .ksOpCommit sc arg => Sys2Proof.Machine.execKsOpCommit sc arg s
  | .ksOpLoad sc arg => Sys2Proof.Machine.execKsOpLoad sc arg s
  | .ksOpVaultReset sc arg => Sys2Proof.Machine.execKsOpVaultReset sc arg s
  | .domainDestructionStep d => Sys2Proof.Machine.execDomainDestructionStep d s
  | .jrecSubmit sc cont reserve => Sys2Proof.Machine.execJrecSubmit sc cont reserve s
  | .journalAgeTimer => Sys2Proof.Machine.execJournalAgeTimer s
  | .journalFlushDone => Sys2Proof.Machine.execJournalFlushDone s
  | .potEntryWrite sc p v => Sys2Proof.Machine.execPotEntryWrite sc p v s
  | .potSyncSet => Sys2Proof.Machine.execPotSyncSet s
  | .potBackSet sc v => Sys2Proof.Machine.execPotBackSet sc v s
  | .regionSet sc k r off v => Sys2Proof.Machine.execRegionSet sc k r off v s
  | .violPop => Sys2Proof.Machine.execViolPop s
  | .memVaultBaseSet sc high v => Sys2Proof.Machine.execMemVaultBaseSet sc high v s
  | .lineWrite sc => Sys2Proof.Machine.execLineWrite sc s
  | .ddrTrainingDone pass => Sys2Proof.Machine.execDdrTrainingDone pass s
  | .dramZqCalibration => Sys2Proof.Machine.execDramZqCalibration s
  | .sealedFillPage => Sys2Proof.Machine.execSealedFillPage s
  | .vaultFillDone => Sys2Proof.Machine.execVaultFillDone s
  | .patrolScrub line errs => Sys2Proof.Machine.execPatrolScrub line errs s
  | .alarmAck m index => Sys2Proof.Machine.execAlarmAck m index s
  | .winClose m => Sys2Proof.Machine.execWinClose m s
  | .windowDurationExpiry => Sys2Proof.Machine.execWindowDurationExpiry s
  | .cellReadSerial c => Sys2Proof.Machine.execCellReadSerial c s
  | .cellChallenge c => Sys2Proof.Machine.execCellChallenge c s
  | .cellAccept c => Sys2Proof.Machine.execCellAccept c s
  | .cellReject c => Sys2Proof.Machine.execCellReject c s
  | .cellCmdDone answer => Sys2Proof.Machine.execCellCmdDone answer s
  | .tamperConfigSet m k v => Sys2Proof.Machine.execTamperConfigSet m k v s
  | .tamperSample r => Sys2Proof.Machine.execTamperSample r s
  | .vbatCritTrip => Sys2Proof.Machine.execVbatCritTrip s
  | .cellIdentityCheck c serial => Sys2Proof.Machine.execCellIdentityCheck c serial s
  | .cellHour c => Sys2Proof.Machine.execCellHour c s
  | .tickStuck => Sys2Proof.Machine.execTickStuck s
  | .mainZeroizedEntry => Sys2Proof.Machine.execMainZeroizedEntry s
  | .tamperPowerSwitch toMain => Sys2Proof.Machine.execTamperPowerSwitch toMain s
  | .tamperDomainLoss => Sys2Proof.Machine.execTamperDomainLoss s
  | .claim m => Sys2Proof.Machine.execClaim m s
  | .releaseLead m => Sys2Proof.Machine.execReleaseLead m s
  | .acquire n t => Sys2Proof.Machine.execAcquire n t s
  | .tokenRelease n t => Sys2Proof.Machine.execTokenRelease n t s
  | .ballotExpiry b => Sys2Proof.Machine.execBallotExpiry b s
  | .migTicketLapse n => Sys2Proof.Machine.execMigTicketLapse n s
  | .stagingSessionTimeout => Sys2Proof.Machine.execStagingSessionTimeout s
  | .debugSessionExpiry => Sys2Proof.Machine.execDebugSessionExpiry s
  | .jtagIdcode => Sys2Proof.Machine.execJtagIdcode s
  | .jtagSamplePreload cells => Sys2Proof.Machine.execJtagSamplePreload cells s
  | .jtagExtest => Sys2Proof.Machine.execJtagExtest s
  | .jtagClamp => Sys2Proof.Machine.execJtagClamp s
  | .jtagHighz => Sys2Proof.Machine.execJtagHighz s
  | .jtagNonceRead => Sys2Proof.Machine.execJtagNonceRead s
  | .jtagDebugPort => Sys2Proof.Machine.execJtagDebugPort s
  | .jtagBypass => Sys2Proof.Machine.execJtagBypass s
  | .debugHalt c => Sys2Proof.Machine.execDebugHalt c s
  | .debugSingleStep c => Sys2Proof.Machine.execDebugSingleStep c s
  | .debugResume c => Sys2Proof.Machine.execDebugResume c s
  | .debugAccess isStore target v => Sys2Proof.Machine.execDebugAccess isStore target v s
  | .hello port frame => Sys2Proof.Machine.execHello port frame s
  | .joinMessage port frames => Sys2Proof.Machine.execJoinMessage port frames s
  | .pair port frames => Sys2Proof.Machine.execPair port frames s
  | .roster port frames => Sys2Proof.Machine.execRoster port frames s
  | .ack port frames => Sys2Proof.Machine.execAck port frames s
  | .statement port frames => Sys2Proof.Machine.execStatement port frames s
  | .replica port frames => Sys2Proof.Machine.execReplica port frames s
  | .resync port frames => Sys2Proof.Machine.execResync port frames s
  | .helloTimer => Sys2Proof.Machine.execHelloTimer s
  | .pathTimeout member port => Sys2Proof.Machine.execPathTimeout member port s
  | .messageRetryTimer id => Sys2Proof.Machine.execMessageRetryTimer id s
  | .pcsLockLoss port => Sys2Proof.Machine.execPcsLockLoss port s
  | .linkRekeyTimer member => Sys2Proof.Machine.execLinkRekeyTimer member s
  | .plxJoin m => Sys2Proof.Machine.execPlxJoin m s
  | .admitJoiner m => Sys2Proof.Machine.execAdmitJoiner m s
  | .refuseJoiner m => Sys2Proof.Machine.execRefuseJoiner m s
  | .leave m => Sys2Proof.Machine.execLeave m s
  | .joinCallerTimeout => Sys2Proof.Machine.execJoinCallerTimeout s
  | .joinAdmitTimeout => Sys2Proof.Machine.execJoinAdmitTimeout s
  | .mcRun => Sys2Proof.Machine.execMcRun s
  | .mcReset => Sys2Proof.Machine.execMcReset s
  | .mcWdogExpiry => Sys2Proof.Machine.execMcWdogExpiry s
  | .wdogKick => Sys2Proof.Machine.execWdogKick s
  | .monitorSample k v => Sys2Proof.Machine.execMonitorSample k v s
  | .hlogAppend => Sys2Proof.Machine.execHlogAppend s
  | .hlogErase m => Sys2Proof.Machine.execHlogErase m s
  | .stageCmdGo => Sys2Proof.Machine.execStageCmdGo s
  | .timeRateSet v => Sys2Proof.Machine.execTimeRateSet v s
  | .timeStep v => Sys2Proof.Machine.execTimeStep v s
  | .timeSet v => Sys2Proof.Machine.execTimeSet v s
  | .timeLockSet lock => Sys2Proof.Machine.execTimeLockSet lock s
  | .holdoverTimer => Sys2Proof.Machine.execHoldoverTimer s
  | .freerunTimer => Sys2Proof.Machine.execFreerunTimer s
  | .ppsInEdge => Sys2Proof.Machine.execPpsInEdge s
  | .ppsInLost => Sys2Proof.Machine.execPpsInLost s
  | .ppsOutPulse => Sys2Proof.Machine.execPpsOutPulse s
  | .rstCtlWarm => Sys2Proof.Machine.execRstCtlWarm s
  | .rstCtlFault => Sys2Proof.Machine.execRstCtlFault s
  | .sc1Run => Sys2Proof.Machine.execSc1Run s
  | .scWdogKick => Sys2Proof.Machine.execScWdogKick s
  | .scWdogHalf => Sys2Proof.Machine.execScWdogHalf s
  | .scWdogExpiry => Sys2Proof.Machine.execScWdogExpiry s
  | .blockRstGo ty n => Sys2Proof.Machine.execBlockRstGo ty n s
  | .blockResetDone => Sys2Proof.Machine.execBlockResetDone s
  | .wakeReq => Sys2Proof.Machine.execWakeReq s
  | .intDoor ring => Sys2Proof.Machine.execIntDoor ring s
  | .sleepEntry => Sys2Proof.Machine.execSleepEntry s
  | .sleepWake ev => Sys2Proof.Machine.execSleepWake ev s
  | .supplyPor => Sys2Proof.Machine.execSupplyPor s
  | .resetNAssert => Sys2Proof.Machine.execResetNAssert s
  | .warmNAssert => Sys2Proof.Machine.execWarmNAssert s
  | .resetSourceRelease bit => Sys2Proof.Machine.execResetSourceRelease bit s
  | .fuseLoadDone shadowOk split strap => Sys2Proof.Machine.execFuseLoadDone shadowOk split strap s
  | .secureBootEnd slot testPass => Sys2Proof.Machine.execSecureBootEnd slot testPass s
  | .warmResetApply => Sys2Proof.Machine.execWarmResetApply s
  | .warmResetRelease => Sys2Proof.Machine.execWarmResetRelease s
  | .pwrFailFall => Sys2Proof.Machine.execPwrFailFall s
  | .powerFailHold => Sys2Proof.Machine.execPowerFailHold s
  | .pwrFailRise => Sys2Proof.Machine.execPwrFailRise s
  | .figureLoadDone fid => Sys2Proof.Machine.execFigureLoadDone fid s
  | .illegalInstruction c w => Sys2Proof.Machine.execIllegalInstruction c w s
  | .cycleCountWrap c => Sys2Proof.Machine.execCycleCountWrap c s
  | .maskExpanderAllotment reel lane => Sys2Proof.Machine.execMaskExpanderAllotment reel lane s
  | .pcsLockAcquired port => Sys2Proof.Machine.execPcsLockAcquired port s
  | .pelouxFrameDiscard port => Sys2Proof.Machine.execPelouxFrameDiscard port s
  | .linkUp p => Sys2Proof.Machine.execLinkUp p s
  | .l1Entry p => Sys2Proof.Machine.execL1Entry p s
  | .configSpaceSet w => Sys2Proof.Machine.execConfigSpaceSet w s
  | .mgmtEthernetFrame frame => Sys2Proof.Machine.execMgmtEthernetFrame frame s
  | .flashDone => Sys2Proof.Machine.execFlashDone s
  | .ksOpDone => Sys2Proof.Machine.execKsOpDone s

end Sys2Proof.Machine
end

