-- ==== Sys2Proof/Safety.lean ====
section
/-! DEFINITION. What statements use: when a command completes, where a controller's instruction leaves the controller, when an
operation of a figure acts, and what is well-formed. -/
namespace Sys2Proof
open Machine

/-- A command completes: its meaning answers a next state. -/
def Completes (i : Instr) (s : State) : Prop := ∃ t, exec i s = .next t

/-! ### Controllers -/

/-- The state after the fetch of the instruction at a controller's pc: a wait has ended, and the fetch may have counted a corrected
error of DRAM or reported its refusal. -/
def fetched (s : State) (c : CtlId) : State := (fetchCheck (s.onCtl c (fun k => { k with waiting := false })) c).1

/-- The access exception of that fetch, as vector and code (Table 3.7). -/
def fetchFault (s : State) (c : CtlId) : Option (Nat × Nat) := (fetchCheck (s.onCtl c (fun k => { k with waiting := false })) c).2

/-- A controller executes the instruction at its pc: it runs, is not halted unless stepped, waits no longer, and the fetch passes. -/
def Executes (s : State) (c : CtlId) : Prop := canRun s c = true ∧ fetchFault s c = none

/-- Where control goes once the instruction at pc has completed: the loop hardware (R66), then a branch whose delay slot this was (R61), then the
next instruction. -/
def nextPc (k : Ctl) : DWord :=
  ((loopNext k.cur.lp0 k.cur.lp1 k.pc 2).2.2).getD (match k.branch with | some b => b.dest | none => k.pc + 2)

/-- General registers after an instruction whose own results are `g`: the link of a call whose delay slot it was lands in d30 (R60, R61). -/
def withLink (k : Ctl) (g : Nat → Word) (r : Nat) : Word :=
  match k.branch with
  | some b => if b.link ∧ r = 30 then loW (b.owner + 4) else if b.link ∧ r = 31 then hiW (b.owner + 4) else g r
  | none => g r

/-- Registers with one written; g0 stays zero (R31). -/
def oneReg (k : Ctl) (rd : Nat) (v : Word) (r : Nat) : Word := if r = rd ∧ r ≠ 0 then v else k.reg r

/-- Registers with a pair written; d0 takes only its high word (R32). -/
def onePair (k : Ctl) (rd : Nat) (v : DWord) (r : Nat) : Word :=
  if r = rd + 1 then hiW v else if r = rd ∧ r ≠ 0 then loW v else k.reg r

/-- Controller `c` of `s`, where the fetch is done, completes an instruction of so many cycles, and `t` is the state: `g` are its general
registers, the current world's flags are `fl`, its loops are as the loop hardware leaves them, and nothing else of `b` has changed, `b` being the
state that the instruction's accesses leave. -/
structure Finished (b s t : State) (c : CtlId) (cycles : Nat) (g : Nat → Word) (fl : Flags) : Prop where
  general : ∀ r, (t.ctl c).reg r = withLink (s.ctl c) g r
  pc : (t.ctl c).pc = nextPc (s.ctl c)
  world : (t.ctl c).cur = { (s.ctl c).cur with
    flags := fl
    lp0 := (loopNext (s.ctl c).cur.lp0 (s.ctl c).cur.lp1 (s.ctl c).pc 2).1
    lp1 := (loopNext (s.ctl c).cur.lp0 (s.ctl c).cur.lp1 (s.ctl c).pc 2).2.1 }
  other : if (s.ctl c).secure then (t.ctl c).norm = (s.ctl c).norm else (t.ctl c).secu = (s.ctl c).secu
  rest : t = b.setCtl c { s.ctl c with
    g := (t.ctl c).g, pc := (t.ctl c).pc, norm := (t.ctl c).norm, secu := (t.ctl c).secu, waiting := false, branch := none
    cyc := (s.ctl c).cyc + BitVec.ofNat 36 cycles
    cyo := (s.ctl c).cyo || decide (2 ^ 36 ≤ (s.ctl c).cyc.toNat + cycles)
    shadow := (s.ctl c).shadow - 1
    halted := (s.ctl c).halted || (s.ctl c).step
    step := false }

/-- The frame that an exception fills (R76, Table 3.8): `b` is the pending branch of a delay slot. -/
def savedFrame (k : Ctl) (vec code eaddr : Nat) : Frame where
  epc := match k.branch with | some b => b.owner | none => k.pc
  code := BitVec.ofNat 8 code
  vec := BitVec.ofNat 5 vec
  eaddr := BitVec.ofNat 36 eaddr
  shpos := decide (k.shadow = 1)
  shadow := decide (k.shadow ≠ 0)
  dsx := k.branch.isSome
  plevel := k.priv
  pie := k.cur.ie

/-- Controller `c` takes an exception at DEPTH below 2 and `t` is the state (R75, R76): `k` is the controller as the instruction left it, `b` the
state. -/
structure Trapped (b : State) (k : Ctl) (t : State) (c : CtlId) (vec code eaddr : Nat) : Prop where
  pc : (t.ctl c).pc = k.cur.vbase + BitVec.ofNat 36 (16 * vec)
  world : (t.ctl c).cur = { k.cur with
    depth := k.cur.depth + 1
    ie := false
    f0 := if k.cur.depth = 0 then savedFrame k vec code eaddr else k.cur.f0
    f1 := if k.cur.depth = 0 then k.cur.f1 else savedFrame k vec code eaddr }
  other : if k.secure then (t.ctl c).norm = k.norm else (t.ctl c).secu = k.secu
  rest : t = b.setCtl c { k with
    pc := (t.ctl c).pc, norm := (t.ctl c).norm, secu := (t.ctl c).secu, priv := true, branch := none, shadow := 0, waiting := false
    cyc := k.cyc + 6
    cyo := k.cyo || decide (2 ^ 36 ≤ k.cyc.toNat + 6) }

/-- The instruction at pc decides a delayed branch and `t` is the state: its delay slot is next (R59, R61). -/
def Delayed (b s t : State) (c : CtlId) (cycles : Nat) (dest : DWord) (link : Bool) : Prop :=
  t = b.setCtl c { s.ctl c with
    waiting := false
    cyc := (s.ctl c).cyc + BitVec.ofNat 36 cycles
    cyo := (s.ctl c).cyo || decide (2 ^ 36 ≤ (s.ctl c).cyc.toNat + cycles)
    branch := some ⟨(s.ctl c).pc, dest, link⟩
    pc := (s.ctl c).pc + 2
    shadow := (s.ctl c).shadow - 1
    halted := (s.ctl c).halted || (s.ctl c).step
    step := false }

/-- Control moves at once and `t` is the state; `k` is the controller as the instruction's own effect leaves it. -/
def Moved (b : State) (k : Ctl) (t : State) (c : CtlId) (cycles : Nat) (dest : DWord) (shadow : Nat) : Prop :=
  t = b.setCtl c { k with
    waiting := false
    cyc := k.cyc + BitVec.ofNat 36 cycles
    cyo := k.cyo || decide (2 ^ 36 ≤ k.cyc.toNat + cycles)
    pc := dest
    shadow := shadow
    halted := k.halted || k.step
    step := false }

/-- Command `i` completes on controller `c`: registers `g` and flags `fl`, nothing else changed (see `Finished`). -/
def Finishes (i : Instr) (s : State) (c : CtlId) (cycles : Nat) (g : Nat → Word) (fl : Flags) : Prop :=
  ∃ t, exec i s = .next t ∧ Finished (fetched s c) s t c cycles g fl

/-- Command `i` takes an exception on controller `c`, `k` being the controller as the instruction left it (see `Trapped`). -/
def Traps (i : Instr) (s : State) (c : CtlId) (k : Ctl) (vec code eaddr : Nat) : Prop :=
  ∃ t, exec i s = .next t ∧ Trapped (fetched s c) k t c vec code eaddr

/-- Command `i` decides a delayed branch on controller `c` (see `Delayed`). -/
def Delays (i : Instr) (s : State) (c : CtlId) (cycles : Nat) (dest : DWord) (link : Bool) : Prop :=
  ∃ t, exec i s = .next t ∧ Delayed (fetched s c) s t c cycles dest link

/-- Command `i` moves control at once on controller `c`, `k` being the controller as its effect leaves it (see `Moved`). -/
def Moves (i : Instr) (s : State) (c : CtlId) (k : Ctl) (cycles : Nat) (dest : DWord) (shadow : Nat) : Prop :=
  ∃ t, exec i s = .next t ∧ Moved (fetched s c) k t c cycles dest shadow

/-- A shift or rotate of `a` by `k` gives `v` with last bit `co`, each bit by the words of R41 and R42. -/
def Shifted (op : ShiftOp) (a : Word) (k : Nat) (v : Word) (co : Bool) : Prop :=
  match op with
  | .shl => (∀ i < 18, v.getLsbD i = (decide (k ≤ i) && a.getLsbD (i - k))) ∧ co = (decide (1 ≤ k ∧ k ≤ 18) && a.getLsbD (18 - k))
  | .shr => (∀ i < 18, v.getLsbD i = a.getLsbD (i + k)) ∧ co = (decide (1 ≤ k ∧ k ≤ 18) && a.getLsbD (k - 1))
  | .sar => (∀ i < 18, v.getLsbD i = a.getLsbD (min 17 (i + k))) ∧ co = (decide (1 ≤ k) && a.getLsbD (min 17 (k - 1)))
  | .rol => (∀ i < 18, v.getLsbD ((i + k % 18) % 18) = a.getLsbD i) ∧ co = (decide (k % 18 ≠ 0) && v.getLsbD 0)
  | .ror => (∀ i < 18, v.getLsbD ((i + 18 - k % 18) % 18) = a.getLsbD i) ∧ co = (decide (k % 18 ≠ 0) && v.getLsbD 17)

/-- A control transfer of R63's list may execute at pc: not in a delay slot, and not where cause 4 of Table 3.2 forbids it. -/
def MayTransfer (k : Ctl) : Prop := k.branch = none ∧ atLoopEnd k = false

/-! ### Memory as the controllers see it -/

/-- On-chip SRAM: the CTL, MC or mailbox SRAM (Table 14.8's targets 2, 3 and 4). -/
def onChip (c : CtlId) (a : DWord) : Prop := targetOf c.num a.toNat = 2 ∨ targetOf c.num a.toNat = 3 ∨ targetOf c.num a.toNat = 4

/-- The fabric lets the controller's access pass (R47, R339, R340). -/
def passes (s : State) (c : CtlId) (kind : Kind) (a : DWord) (nonet : Nat) : Prop :=
  checkAccess s ⟨c.num, (s.ctl c).secure, (s.ctl c).priv, 0xFFF, kind, a.toNat, nonet⟩ = none

/-- The effective address of a word access (R36). -/
def eaOf (k : Ctl) (rbase : Nat) (off : Word) : DWord := BitVec.ofInt 36 ((k.pair rbase).toNat + off.toInt)

/-- The octet address of LDO and STO, 37 bits (R49). -/
def octetOf (k : Ctl) (rbase : Nat) (off : Word) : BitVec 37 := BitVec.ofInt 37 (2 * (k.pair rbase).toNat + off.toInt)

/-- The words that BMOV (or BZERO, which loads none) writes, one after the other in ascending order (R54). -/
def blockOfWords (zero : Bool) (dst src : DWord) : Nat → State → State
  | 0, s => s
  | n + 1, s => blockOfWords zero (dst + 1) (src + 1) n (s.setSramWord dst.toNat (if zero then 0 else s.sramWord src.toNat))

/-! ### Figures -/

/-- The state in which the operations of a figure's step act: what is due at the step's cycle has landed (R91), and the instance stands at that cycle
and step. -/
def arrived (s : State) (a : At) : State := (landDue s a.fs a.cyc).onInst a.fs (fun i => { i with cyc := a.cyc, step := a.step })

/-- An operation of the step at `a` acts, on instance `i`: the sequencer runs an instance that has neither ended nor been stopped and has not passed that
cycle, and the step was read without a parity error. -/
structure Issues (s : State) (a : At) (i : Inst) : Prop where
  live : ∃ j, (s.seq a.fs).inst = some j ∧ j.ended = none ∧ j.stop = none ∧ j.cyc ≤ a.cyc
  sound : a.parity = false
  now : ((arrived s a).seq a.fs).inst = some i

/-- An operation of the step at `a` acts on unit `n` of class `ty`, which the instance holds as its logical unit `u` (R93), and no fault is detected in it. -/
structure IssuesOn (s : State) (a : At) (ty u : Nat) (i : Inst) (n : Nat) : Prop extends Issues s a i where
  held : ∃ col, boundCol i ty u a.cyc = some col ∧ colUnit ty col = n
  clean : a.faults = []

/-- Command `op` only puts results in flight: each lands so many cycles after the step's own. -/
def Launches (op : Instr) (s : State) (a : At) (l : List (Nat × LandEff)) : Prop := exec op s = .next (launch (arrived s a) a l)

/-- A slot-0 instruction puts its results in flight, and completes as R66, R103 and R478 say. -/
def SlotZero (op : Instr) (s : State) (a : At) (i : Inst) (l : List (Nat × LandEff)) : Prop :=
  exec op s = .next (slotEnds (launch (arrived s a) a l) a i)

/-- Every selected lane's block: its result lands in BOUT 360 cycles on, the lane has taken its allotment, and no lane but those has changed (R96). -/
structure BlocksRun (op : Instr) (s : State) (a : At) (lanes : List Nat) (result : Nat → Lane → LaneKey → Block) : Prop where
  runs : ∃ t i, exec op s = .next t ∧ (t.seq a.fs).inst = some i ∧
    (∀ e n, lanes[e]? = some n → ∃ k, ((arrived s a).lane n).key = some k ∧
      ⟨a.cyc + 360, a.cyc, .bout n (result e ((arrived s a).lane n) k)⟩ ∈ i.flight ∧
      t.lane n = { (arrived s a).lane n with rnd := ((arrived s a).lane n).rnd.drop 1 }) ∧
    (∀ n, n ∉ lanes → t.lane n = (arrived s a).lane n) ∧
    (∀ fs, fs ≠ a.fs.val → t.seq fs = (arrived s a).seq fs) ∧
    t = { arrived s a with floor := { (arrived s a).floor with seqs := t.floor.seqs, lanes := t.floor.lanes } }

/-- The AES key of a lane: K1 of an XTS key is its first half (R141). -/
def laneAes (k : LaneKey) : List Octet := if k.binding = 3 then k.mat.take (k.mat.length / 2) else k.mat

/-! ### Commands other than RUN -/

/-- The state in which the checks of R470 act on command `c`. -/
def taken (s : State) (c : Cmd) : State := s.onCmd c.uid (fun k => { k with lease := false, wait := [] })

/-- Command `c` of an opcode, named by `r`, with a whole argument block, passes steps 1 to 5 of R470: its operation acts on `b`, after the ballot `x`
it has spent, if it needs one. -/
structure Passes (s : State) (r : CmdRef) (opc : Nat) (blk : List Octet) (c : Cmd) (b : State) (x : Option Ballot) : Prop where
  found : adminCmd s r opc = some c
  first : c.order ≠ 1
  whole : blk.length = c.inLen
  steps : adminRefusal (taken s c) c blk = none
  ballot : match ballotNeed (taken s c) c blk with
    | none => b = taken s c ∧ x = none ∧ (c.opc = 0x43 → c.ballotId = 0)
    | some n => ∃ y, spendBallot (taken s c) ((taken s c).who c.func) c.ballotId n.1 n.2 (openerCode c.func) blk = (b, .ok y) ∧ x = some y

/-- Command `i` answers `c` with success: result word 0, output, and the vault pages (or other ends) that the completion waits for; `b` is the state that the
operation leaves. -/
def Answers (i : Instr) (s : State) (c : Cmd) (b : State) (r0 : Nat) (out : List Octet) (hold : List Nat) : Prop :=
  exec i s = .next (answerCmd b c s.jnl.seq 0 r0 out hold)

/-- The key object that a KEY_GENERATE block describes (R318): nothing of its child template stands unless it derives. -/
def templateOf (blk : List Octet) : Obj :=
  ⟨leAt blk 2 1, leAt blk 4 2, leAt blk 0 2, leAt blk 3 1, leAt blk 6 2, if bit (leAt blk 6 2) aDerive then leAt blk 8 1 else 0,
    leAt blk 0xA 2, leAt blk 0xC 2, leAt blk 0x10 5, 0, 0, 0, 0, 0, []⟩

/-- The journal records of a created object (Table 12.3): its own type, and 0x0207 where OWNER_FIGURES is set. -/
def creationRecords (s : State) (w : Who) (typ kind : Nat) (peer : List Octet) (h : Nat) (o : Obj) : State :=
  let s := recordFor s w typ 0 (keyPayload h o kind peer)
  if bit o.flags 0 then recordFor s w 0x0207 0 (keyPayload h o kind peer) else s

end Sys2Proof
end

