-- ==== Sys2Proof/Certificates/Slice0/Obligations.lean ====
section
/-! DEFINITION. The statements for the provers: what each command does, from the rules of spec/, group by group; invariants of
every step at the end. -/
open Sys2Proof Sys2Proof.Machine

/-! ### The queue -/

/-- The block takes the command at the front of its queue and runs its meaning on the state with the rest of the queue; on an empty queue
it idles (log 2). -/
def Obligations.FrontCommandRuns : Prop :=
  ∀ (s : State), (∀ (c : Instr) (rest : List Instr), s.pending = c :: rest → step s = exec c { s with pending := rest }) ∧
    (s.pending = [] → step s = .next (idle s))

/-! ### Controllers (spec/02, spec/03) -/

/-- AND, OR, XOR, ANDN, ANDI, ORI, XORI, CLZ and PACKO on a controller (Tables 2.11 and 2.14): the result, Z and N of it, C and V unchanged.
The shifts and rotates on a controller, by register and by immediate (R41, R42): every bit of the result, C, and V cleared. -/
def Obligations.LogicAndShifts : Prop :=
  (
  ∀ (s : State) (c : CtlId), Executes s c →
    let k := s.ctl c
    let r := k.reg
    let fl := fun (v : Word) => ({ k.cur.flags with z := decide (v = 0), n := v.getLsbD 17 } : Flags)
    ∀ (rd ra rb : Fin 32) (imm : Word),
      Finishes (.and (.ctl c) rd ra rb) s c 1 (oneReg k rd (r ra &&& r rb)) (fl (r ra &&& r rb)) ∧
      Finishes (.or (.ctl c) rd ra rb) s c 1 (oneReg k rd (r ra ||| r rb)) (fl (r ra ||| r rb)) ∧
      Finishes (.xor (.ctl c) rd ra rb) s c 1 (oneReg k rd (r ra ^^^ r rb)) (fl (r ra ^^^ r rb)) ∧
      Finishes (.andn (.ctl c) rd ra rb) s c 1 (oneReg k rd (r ra &&& ~~~ r rb)) (fl (r ra &&& ~~~ r rb)) ∧
      Finishes (.andi (.ctl c) rd ra imm) s c 1 (oneReg k rd (r ra &&& imm)) (fl (r ra &&& imm)) ∧
      Finishes (.ori (.ctl c) rd ra imm) s c 1 (oneReg k rd (r ra ||| imm)) (fl (r ra ||| imm)) ∧
      Finishes (.xori (.ctl c) rd ra imm) s c 1 (oneReg k rd (r ra ^^^ imm)) (fl (r ra ^^^ imm)) ∧
      (∃ v : Word, Finishes (.clz (.ctl c) rd ra) s c 1 (oneReg k rd v) (fl v) ∧
        (r ra = 0 → v = 18) ∧ (r ra ≠ 0 → v.toNat < 18 ∧ 2 ^ (17 - v.toNat) ≤ (r ra).toNat ∧ (r ra).toNat < 2 ^ (18 - v.toNat))) ∧
      (∃ v : Word, Finishes (.packo (.ctl c) rd ra rb) s c 1 (oneReg k rd v) (fl v) ∧
        v.extractLsb' 0 8 = (r ra).extractLsb' 0 8 ∧ v.extractLsb' 9 8 = (r rb).extractLsb' 0 8 ∧
        nonetOk (v.extractLsb' 0 9) = true ∧ nonetOk (v.extractLsb' 9 9) = true)
  ) ∧ (
  ∀ (s : State) (c : CtlId), Executes s c → ∀ (rd ra rb : Fin 32),
    let k := s.ctl c
    let fl := fun (v : Word) (co : Bool) => ({ k.cur.flags with z := decide (v = 0), n := v.getLsbD 17, c := co, v := false } : Flags)
    let n := (k.reg rb).toNat % 32
    (∃ v co, Shifted .shl (k.reg ra) n v co ∧ Finishes (.shl (.ctl c) rd ra rb) s c 1 (oneReg k rd v) (fl v co)) ∧
    (∃ v co, Shifted .shr (k.reg ra) n v co ∧ Finishes (.shr (.ctl c) rd ra rb) s c 1 (oneReg k rd v) (fl v co)) ∧
    (∃ v co, Shifted .sar (k.reg ra) n v co ∧ Finishes (.sar (.ctl c) rd ra rb) s c 1 (oneReg k rd v) (fl v co)) ∧
    (∃ v co, Shifted .rol (k.reg ra) n v co ∧ Finishes (.rol (.ctl c) rd ra rb) s c 1 (oneReg k rd v) (fl v co)) ∧
    (∃ v co, Shifted .ror (k.reg ra) n v co ∧ Finishes (.ror (.ctl c) rd ra rb) s c 1 (oneReg k rd v) (fl v co)) ∧
    (∃ v co, Shifted .shl (k.reg ra) rb v co ∧ Finishes (.shli (.ctl c) rd ra rb) s c 1 (oneReg k rd v) (fl v co)) ∧
    (∃ v co, Shifted .shr (k.reg ra) rb v co ∧ Finishes (.shri (.ctl c) rd ra rb) s c 1 (oneReg k rd v) (fl v co)) ∧
    (∃ v co, Shifted .sar (k.reg ra) rb v co ∧ Finishes (.sari (.ctl c) rd ra rb) s c 1 (oneReg k rd v) (fl v co)) ∧
    (∃ v co, Shifted .rol (k.reg ra) rb v co ∧ Finishes (.roli (.ctl c) rd ra rb) s c 1 (oneReg k rd v) (fl v co)) ∧
    (∃ v co, Shifted .ror (k.reg ra) rb v co ∧ Finishes (.rori (.ctl c) rd ra rb) s c 1 (oneReg k rd v) (fl v co))
  )

/-- ADD, ADC, ADDI, SUB, SBC, NEG, CMP and CMPI on a controller (R39, R40, Table 2.14): result, flags, and nothing else.
MUL, MULU, MOVD, ADDD, SUBD and LEA on a controller, with even pair fields (R26, R32, R40, R43, Table 2.14). -/
def Obligations.SumsAndPairs : Prop :=
  (
  ∀ (s : State) (c : CtlId), Executes s c →
    let k := s.ctl c
    let r := k.reg
    let f := k.cur.flags
    let ci := f.c.toNat
    let sum := fun (a b : Word) (n : Nat) => BitVec.ofNat 18 (a.toNat + b.toNat + n)
    let sumFlags := fun (a b : Word) (n : Nat) => ({ f with
      z := decide (sum a b n = 0), n := (sum a b n).msb, c := decide (2 ^ 18 ≤ a.toNat + b.toNat + n)
      v := decide ((sum a b n).toInt ≠ a.toInt + b.toInt + n) } : Flags)
    let diff := fun (a b : Word) (n : Nat) => BitVec.ofInt 18 ((a.toNat : Int) - b.toNat - n)
    let diffFlags := fun (a b : Word) (n : Nat) => ({ f with
      z := decide (diff a b n = 0), n := (diff a b n).msb, c := decide (a.toNat < b.toNat + n)
      v := decide ((diff a b n).toInt ≠ a.toInt - b.toInt - n) } : Flags)
    ∀ (rd ra rb : Fin 32) (imm : Word),
      Finishes (.add (.ctl c) rd ra rb) s c 1 (oneReg k rd (sum (r ra) (r rb) 0)) (sumFlags (r ra) (r rb) 0) ∧
      Finishes (.adc (.ctl c) rd ra rb) s c 1 (oneReg k rd (sum (r ra) (r rb) ci)) (sumFlags (r ra) (r rb) ci) ∧
      Finishes (.addi (.ctl c) rd ra imm) s c 1 (oneReg k rd (sum (r ra) imm 0)) (sumFlags (r ra) imm 0) ∧
      Finishes (.sub (.ctl c) rd ra rb) s c 1 (oneReg k rd (diff (r ra) (r rb) 0)) (diffFlags (r ra) (r rb) 0) ∧
      Finishes (.sbc (.ctl c) rd ra rb) s c 1 (oneReg k rd (diff (r ra) (r rb) ci)) (diffFlags (r ra) (r rb) ci) ∧
      Finishes (.neg (.ctl c) rd ra) s c 1 (oneReg k rd (diff 0 (r ra) 0)) (diffFlags 0 (r ra) 0) ∧
      Finishes (.cmp (.ctl c) ra rb) s c 1 r (diffFlags (r ra) (r rb) 0) ∧
      Finishes (.cmpi (.ctl c) ra imm) s c 1 r (diffFlags (r ra) imm 0)
  ) ∧ (
  ∀ (s : State) (c : CtlId), Executes s c → ∀ (rd ra rb : Fin 32), rd.val % 2 = 0 →
    let k := s.ctl c
    let r := k.reg
    let p := k.pair
    let f := k.cur.flags
    let zn := fun (v : DWord) (co vo : Bool) => ({ f with z := decide (v = 0), n := v.getLsbD 35, c := co, v := vo } : Flags)
    (∃ v : DWord, v.toInt = (r ra).toInt * (r rb).toInt ∧
      Finishes (.mul (.ctl c) rd ra rb) s c 1 (onePair k rd v) (zn v false false)) ∧
    (∃ v : DWord, v.toNat = (r ra).toNat * (r rb).toNat ∧
      Finishes (.mulu (.ctl c) rd ra rb) s c 1 (onePair k rd v) (zn v false false)) ∧
    (ra.val % 2 = 0 →
      Finishes (.movd (.ctl c) rd ra) s c 1 (onePair k rd (p ra)) (zn (p ra) f.c f.v) ∧
      (∀ imm : Word, Finishes (.lea (.ctl c) rd ra imm) s c 1 (onePair k rd (BitVec.ofInt 36 ((p ra).toNat + imm.toInt))) f) ∧
      (rb.val % 2 = 0 →
        Finishes (.addd (.ctl c) rd ra rb) s c 1 (onePair k rd (p ra + p rb))
          (zn (p ra + p rb) (decide (2 ^ 36 ≤ (p ra).toNat + (p rb).toNat)) (decide ((p ra + p rb).toInt ≠ (p ra).toInt + (p rb).toInt))) ∧
        Finishes (.subd (.ctl c) rd ra rb) s c 1 (onePair k rd (p ra - p rb))
          (zn (p ra - p rb) (decide ((p ra).toNat < (p rb).toNat)) (decide ((p ra - p rb).toInt ≠ (p ra).toInt - (p rb).toInt)))))
  )

/-- DIV and DIVU of a divisor that is not zero, into an even pair (R44): quotient and remainder by their defining equation, and the flags.
DIV and DIVU by zero (R45): DZ is set; with DZT clear quotient 0x3_FFFF and the dividend as remainder, with DZT set the Divide by Zero
exception, where DEPTH is below 2. -/
def Obligations.Division : Prop :=
  (
  ∀ (s : State) (c : CtlId), Executes s c → ∀ (rd ra rb : Fin 32), rd.val % 2 = 0 → (s.ctl c).reg rb ≠ 0 →
    let k := s.ctl c
    let a := k.reg ra
    let b := k.reg rb
    let fl := fun (q : Word) (vo : Bool) => ({ k.cur.flags with z := decide (q = 0), n := q.getLsbD 17, c := false, v := vo } : Flags)
    (∃ q m : Word, q.toNat * b.toNat + m.toNat = a.toNat ∧ m.toNat < b.toNat ∧
      Finishes (.divu c rd ra rb) s c 20 (onePair k rd (dword m q)) (fl q false)) ∧
    (a = 0x20000#18 ∧ b = 0x3FFFF#18 → Finishes (.div c rd ra rb) s c 20 (onePair k rd (dword 0 0x20000#18)) (fl 0x20000#18 true)) ∧
    (¬ (a = 0x20000#18 ∧ b = 0x3FFFF#18) → ∃ q m : Word,
      q.toInt * b.toInt + m.toInt = a.toInt ∧ m.toInt.natAbs < b.toInt.natAbs ∧ (m = 0 ∨ m.msb = a.msb) ∧
      Finishes (.div c rd ra rb) s c 20 (onePair k rd (dword m q)) (fl q false))
  ) ∧ (
  ∀ (s : State) (c : CtlId), Executes s c → ∀ (rd ra rb : Fin 32), rd.val % 2 = 0 → (s.ctl c).reg rb = 0 →
    let k := s.ctl c
    let f := k.cur.flags
    ∀ i, i = .div c rd ra rb ∨ i = .divu c rd ra rb →
      (k.cur.dzt = false → Finishes i s c 20 (onePair k rd (dword (k.reg ra) 0x3FFFF#18))
          { f with z := false, n := true, c := false, v := false, dz := true }) ∧
      (k.cur.dzt = true → k.cur.depth < 2 → Traps i s c (k.onCur (fun w => { w with flags := { f with dz := true } })) 0xC 0 0)
  )

/-- BEQ to BGEU, BF, JMP, CALL, JR and CALLR (R36, R59, R60): the decision is made before the delay slot, which is next. -/
def Obligations.ControllerBranches : Prop :=
  ∀ (s : State) (c : CtlId), Executes s c → MayTransfer (s.ctl c) →
    let k := s.ctl c
    let r := k.reg
    (∀ (ra rb : Fin 32) (disp : Word),
      let pick := fun (taken : Bool) => if taken then k.pc + BitVec.ofInt 36 (2 * disp.toInt) else k.pc + 4
      Delays (.beq c ra rb disp) s c 1 (pick (decide (r ra = r rb))) false ∧
      Delays (.bne c ra rb disp) s c 1 (pick (decide (r ra ≠ r rb))) false ∧
      Delays (.blt c ra rb disp) s c 1 (pick (decide ((r ra).toInt < (r rb).toInt))) false ∧
      Delays (.bge c ra rb disp) s c 1 (pick (decide ((r rb).toInt ≤ (r ra).toInt))) false ∧
      Delays (.bltu c ra rb disp) s c 1 (pick (decide ((r ra).toNat < (r rb).toNat))) false ∧
      Delays (.bgeu c ra rb disp) s c 1 (pick (decide ((r rb).toNat ≤ (r ra).toNat))) false ∧
      (∀ cond : Fin 16, Delays (.bf c cond disp) s c 1 (pick (condHolds k.cur.flags cond)) false)) ∧
    (∀ (disp : BitVec 30),
      Delays (.jmp c disp) s c 1 (k.pc + BitVec.ofInt 36 (2 * disp.toInt)) false ∧ Delays (.call c disp) s c 1 (k.pc + BitVec.ofInt 36 (2 * disp.toInt)) true) ∧
    (∀ (ra : Fin 32), ra.val % 2 = 0 →
      ((k.pair ra).toNat % 2 = 0 → Delays (.jr c ra) s c 2 (k.pair ra) false ∧ Delays (.callr c ra) s c 2 (k.pair ra) true) ∧
      ((k.pair ra).toNat % 2 = 1 → k.cur.depth < 2 → ∀ i, i = .jr c ra ∨ i = .callr c ra →
        Traps i s c k 9 1 (k.pair ra).toNat))

/-- Each of the encodings that R32, R34 or R52 makes illegal takes the Illegal Instruction exception at pc, where DEPTH is below 2 (R38, R75, R76),
and so does a fetched pattern that is no instruction; the names are of the operands' places.
An instruction of R63's list in a delay slot, legal and permitted, raises Delay Slot and does not execute: EPC is the branch, with DSX. -/
def Obligations.IllegalFormsAndSlots : Prop :=
  (
  ∀ (s : State) (c : CtlId), Executes s c → (s.ctl c).cur.depth < 2 →
    let k := s.ctl c
    (∀ (w : DWord), legalWord w = false → Traps (.illegalInstruction c w) s c k 4 0 0) ∧
    (∀ (i : Instr) (o e r : Fin 32) (imm : Word) (n : Bool), o.val % 2 = 1 → i ∈ ([.mul (.ctl c) o e r, .mulu (.ctl c) o e r,
        .div c o e r, .divu c o e r, .movd (.ctl c) o e, .movd (.ctl c) e o, .addd (.ctl c) o e r, .addd (.ctl c) e o r, .addd (.ctl c) e r o,
        .subd (.ctl c) o e r, .subd (.ctl c) e o r, .subd (.ctl c) e r o, .lea (.ctl c) o e imm, .lea (.ctl c) e o imm,
        .jr c o, .callr c o, .ld (.ctl c) r o imm, .st (.ctl c) r o imm, .ldd (.ctl c) o e imm, .ldd (.ctl c) e o imm,
        .std (.ctl c) o e imm, .std (.ctl c) e o imm, .ldo c r o n imm, .sto c r o n imm] : List Instr) → Traps i s c k 4 0 0) ∧
    (∀ (r : Fin 32) (code : BitVec 8), cregExists code.toNat = false →
      Traps (.mfc c r code) s c k 4 0 0 ∧ Traps (.mtc c r code) s c k 4 0 0) ∧
    (∀ (rd ra rb : Fin 32) (n : Nat), (bmovOk rd ra rb = false → Traps (.bmov c rd ra rb n) s c k 4 0 0) ∧
      (bzeroOk rd rb = false → Traps (.bzero c rd rb n) s c k 4 0 0)) ∧
    (∀ (lvl : Fin 2) (count : LoopCount), Traps (.loop (.ctl c) lvl count 0) s c k 4 0 0) ∧
    (k.cur.depth = 0 → Traps (.eret c) s c k 4 0 0)
  ) ∧ (
  ∀ (s : State) (c : CtlId) (b : BranchPend), Executes s c → (s.ctl c).cur.depth < 2 → (s.ctl c).branch = some b →
    let k := s.ctl c
    (∀ (ra rb : Fin 32) (disp : Word), Traps (.beq c ra rb disp) s c k 6 0 0 ∧ Traps (.bne c ra rb disp) s c k 6 0 0 ∧ Traps (.blt c ra rb disp) s c k 6 0 0 ∧
      Traps (.bge c ra rb disp) s c k 6 0 0 ∧ Traps (.bltu c ra rb disp) s c k 6 0 0 ∧ Traps (.bgeu c ra rb disp) s c k 6 0 0 ∧ (∀ cond, Traps (.bf c cond disp) s c k 6 0 0)) ∧
    (∀ disp, Traps (.jmp c disp) s c k 6 0 0 ∧ Traps (.call c disp) s c k 6 0 0) ∧
    (∀ ra : Fin 32, ra.val % 2 = 0 → Traps (.jr c ra) s c k 6 0 0 ∧ Traps (.callr c ra) s c k 6 0 0) ∧
    (∀ lvl count len, len ≠ 0 → Traps (.loop (.ctl c) lvl count len) s c k 6 0 0) ∧
    (∀ code, Traps (.gate c code) s c k 6 0 0 ∧ Traps (.brk c code) s c k 6 0 0) ∧
    ((s.ctl c).priv = true → (0 < (s.ctl c).cur.depth → Traps (.eret c) s c k 6 0 0) ∧ Traps (.wait c) s c k 6 0 0) ∧
    ((s.ctl c).priv = false → ∀ code, Traps (.syscall c code) s c k 6 0 0) ∧
    (∀ (rd ra rb : Fin 32) (n : Nat), (bmovOk rd ra rb = true → Traps (.bmov c rd ra rb n) s c k 6 0 0) ∧ (bzeroOk rd rb = true → Traps (.bzero c rd rb n) s c k 6 0 0))
  )

/-- LOOP on a controller (R64), where none of the cases of R65 holds and the length is not 0.
The loop hardware after the instruction at `pc` (R66): a level whose LEND is not there or that is inactive stays; a count above 1 goes back, and
level 0 is then not examined; otherwise the level ends and control goes on. -/
def Obligations.Loops : Prop :=
  (
  ∀ (s : State) (c : CtlId), Executes s c → MayTransfer (s.ctl c) → ∀ (lvl : Fin 2) (count : LoopCount) (len : BitVec 12),
    let k := s.ctl c
    let n := (match count with | .imm n => n.zeroExtend 18 | .reg r => k.reg r : Word)
    let sta := k.pc + 2
    let fin := sta + 2 * BitVec.ofNat 36 (len.toNat - 1)
    let old := if lvl = 0 then k.cur.lp0 else k.cur.lp1
    let new : LoopLevel := { act := decide (n ≠ 0), cnt := if n = 0 then old.cnt else n, sta := sta, fin := fin }
    len ≠ 0 → old.act = false → (lvl = 0 → k.cur.lp1.act = false) → (lvl = 1 → k.cur.lp0.act = true → fin + 2 ≤ k.cur.lp0.fin) →
      ∃ t, exec (.loop (.ctl c) lvl count len) s = .next t ∧
        Moved (fetched s c) (k.onCur (fun w => if lvl = 0 then { w with lp0 := new } else { w with lp1 := new })) t c 1
          (if n = 0 then fin + 2 else sta) (k.shadow - 1)
  ) ∧ (
  ∀ (l0 l1 : LoopLevel) (pc : DWord),
    let here := fun (l : LoopLevel) => l.act = true ∧ pc = l.fin
    let ended := fun (l : LoopLevel) => ({ l with cnt := 0, act := false } : LoopLevel)
    (¬ here l0 → ¬ here l1 → loopNext l0 l1 pc 2 = (l0, l1, none)) ∧
    (here l1 → 1 < l1.cnt.toNat → loopNext l0 l1 pc 2 = (l0, { l1 with cnt := l1.cnt - 1 }, some l1.sta)) ∧
    (here l1 → l1.cnt.toNat ≤ 1 → ¬ here l0 → loopNext l0 l1 pc 2 = (l0, ended l1, some (pc + 2))) ∧
    (here l0 → 1 < l0.cnt.toNat → (here l1 → l1.cnt.toNat ≤ 1) →
      loopNext l0 l1 pc 2 = ({ l0 with cnt := l0.cnt - 1 }, if l1.act ∧ pc = l1.fin then ended l1 else l1, some l0.sta)) ∧
    (here l0 → l0.cnt.toNat ≤ 1 → (here l1 → l1.cnt.toNat ≤ 1) →
      loopNext l0 l1 pc 2 = (ended l0, if l1.act ∧ pc = l1.fin then ended l1 else l1, some (pc + 2)))
  )

/-- MFC and MTC (R34, R35, Table 3.4): a register that exists, where Table 3.4 permits it, is read into rd or written from ra; CYC_L leaves its copy and CYC_H
takes it; where it does not permit it, the Privilege exception changes nothing.
GATE on SC_0 or SC_1 outside a shadow (R71): entry from the normal world, return from the secure world, and where Table 3.5 says so the
Gate Refused exception in the current world. -/
def Obligations.ControlAndGates : Prop :=
  (
  ∀ (s : State) (c : CtlId), Executes s c → ∀ (r : Fin 32) (code : BitVec 8), cregExists code.toNat = true →
    let k := s.ctl c
    let n := code.toNat
    let system := decide (0x20 ≤ n)
    let world := decide (0x30 ≤ n)
    let barred := (world && (decide (c = .mc) || !k.secure)) || (system && !k.priv)
    let b := fetched s c
    (barred = false → ∃ t, exec (.mfc c r code) s = .next t ∧
      (∀ x, (t.ctl c).reg x = withLink k (oneReg k r (cregRead b c k.secure n)) x) ∧
      (t.ctl c).cycHold = (if n = 4 then some (hiW k.cyc) else if n = 5 then none else k.cycHold) ∧
      (t.ctl c).cur.flags = k.cur.flags ∧ (t.ctl c).pc = nextPc k ∧ t = b.setCtl c (t.ctl c)) ∧
    (barred = false → ((n = 1 ∨ n = 6) → k.priv = true) → ∃ t, exec (.mtc c r code) s = .next t ∧
      t = b.setCtl c (({ k with waiting := false }.cregWrite k.secure n (k.reg r)).complete (if n / 16 = 1 then 4 else 1))) ∧
    (k.cur.depth < 2 →
      (barred = true → Traps (.mfc c r code) s c k 5 0 0) ∧
      (barred = true ∨ ((n = 1 ∨ n = 6) ∧ k.priv = false) → Traps (.mtc c r code) s c k 5 0 0))
  ) ∧ (
  ∀ (s : State) (c : CtlId), Executes s c → MayTransfer (s.ctl c) → ∀ (code : BitVec 8),
    let k := s.ctl c
    let open_ := c ≠ .mc ∧ k.shadow = 0
    (open_ → k.secure = false → code.toNat ≤ 0xFD → ∃ t, exec (.gate c code) s = .next t ∧
      Moved (fetched s c) { k with gvalid := true, grlevel := k.priv, ghwentry := false, gpc := k.pc + 2, gcode := code, secure := true, priv := true }
        t c 6 (k.monbase + BitVec.ofNat 36 (4 * code.toNat)) 2) ∧
    (open_ → k.secure = true → k.priv = true → k.gvalid = true → ∃ t, exec (.gate c code) s = .next t ∧
      Moved (fetched s c) { k with secure := false, priv := k.grlevel, gvalid := false } t c 6 k.gpc 2) ∧
    (k.cur.depth < 2 →
      ¬ open_ ∨ (k.secure = false ∧ 0xFE ≤ code.toNat) ∨ (k.secure = true ∧ (k.priv = false ∨ k.gvalid = false)) →
      Traps (.gate c code) s c k 8 code.toNat 0)
  )

/-- ERET, SYSCALL, BRK, WAIT, FENCE and SYNC.I (R48, R73, R75, R79, R82, R86, Table 3.4, Table 3.7). -/
def Obligations.SystemInstructions : Prop :=
  ∀ (s : State) (c : CtlId), Executes s c →
    let k := s.ctl c
    let b := fetched s c
    let f := k.cur.top
    (∃ t, exec (.fence c) s = .next t ∧ Finished b s t c 1 k.reg k.cur.flags) ∧
    (∃ t, exec (.syncI c) s = .next t ∧ Finished b s t c 4 k.reg k.cur.flags) ∧
    (MayTransfer k →
      (k.priv = true → 0 < k.cur.depth → ∃ t, exec (.eret c) s = .next t ∧
        Moved b ({ k with priv := f.plevel }.onCur (fun w =>
            { w.onTop (fun f => { f with pie := false, plevel := false, dsx := false, shadow := false, shpos := false }) with
              depth := w.depth - 1, ie := f.pie })) t c 4 f.epc
          (if f.shadow then (if f.shpos then 1 else 2) else k.shadow - 1)) ∧
      (k.priv = true → ∃ t, exec (.wait c) s = .next t ∧
        (t.ctl c).waiting = !waitEnds b c ∧
        Finished b s (t.onCtl c (fun k => { k with waiting := false })) c 1 k.reg k.cur.flags) ∧
      (∀ code : BitVec 8, k.cur.depth < 2 →
        (k.priv = false → Traps (.syscall c code) s c k 0xD code.toNat 0) ∧
        (debugHolds b c = false → Traps (.brk c code) s c k 0xE code.toNat 0)) ∧
      (∀ code : BitVec 8, debugHolds b c = true → ∃ t, exec (.brk c code) s = .next t ∧ (t.ctl c).halted = true ∧ (t.ctl c).pc = nextPc k ∧
        (t.ctl c).g = k.g ∧ t = b.setCtl c (t.ctl c))) ∧
    (k.cur.depth < 2 →
      (k.priv = true → ∀ code, Traps (.syscall c code) s c k 5 0 0) ∧
      (k.priv = false → (0 < k.cur.depth → Traps (.eret c) s c k 5 0 0) ∧
        Traps (.wait c) s c k 5 0 0))

/-- An interrupt is taken at a boundary for the pending, enabled line of least number routed to the current world (R80), with EPC the next instruction;
the hardware entry for a secure interrupt in the normal world is GATE's with GCODE 0xFF (R81); the cycle count wraps and sets CYO (R35).
An exception at DEPTH 2 (R83), shown on SYSCALL at user level: Fault in the secure world, the monitor's hardware entry in the normal world of SC_0
or SC_1, a halt of the MC; no frame is written. -/
def Obligations.InterruptsAndDoubles : Prop :=
  (
  ∀ (s : State) (c : CtlId),
    let k := s.ctl c
    (atBoundary k = true → k.cur.ie = true → k.cur.depth < 2 → ∀ (n : Nat) (rest : List Nat), enabledLines s c k.secure = n :: rest →
      ∃ t, exec (.interruptTaken c) s = .next t ∧ (∀ m ∈ rest, n < m) ∧
        t = s.setCtl c (t.ctl c) ∧ (t.ctl c).pc = k.cur.vbase + 240 ∧ (t.ctl c).priv = true ∧ (t.ctl c).secure = k.secure ∧
        (t.ctl c).cur.depth = k.cur.depth + 1 ∧ (t.ctl c).cur.ie = false ∧ (t.ctl c).g = k.g ∧ (t.ctl c).cur.flags = k.cur.flags ∧
        (t.ctl c).cur.top = ⟨k.pc, BitVec.ofNat 8 n, 15, 0, false, false, false, k.priv, true⟩) ∧
    (atBoundary k = true → k.secure = false → c ≠ .mc → enabledLines s c true ≠ [] →
      ∃ t, exec (.secureInterruptEntry c) s = .next t ∧ t = s.setCtl c (t.ctl c) ∧
        (t.ctl c).pc = k.monbase + 1020 ∧ (t.ctl c).secure = true ∧ (t.ctl c).priv = true ∧ (t.ctl c).gvalid = true ∧
        (t.ctl c).grlevel = k.priv ∧ (t.ctl c).ghwentry = true ∧ (t.ctl c).gpc = k.pc ∧ (t.ctl c).gcode = 0xFF ∧
        (t.ctl c).norm = k.norm ∧ (t.ctl c).secu = k.secu ∧ (t.ctl c).g = k.g) ∧
    (k.running = true → exec (.cycleCountWrap c) s = .next (s.setCtl c { k with cyc := 0, cyo := true }))
  ) ∧ (
  ∀ (s : State) (c : CtlId) (code : BitVec 8), Executes s c → MayTransfer (s.ctl c) → (s.ctl c).priv = false → (s.ctl c).cur.depth = 2 →
    let k := s.ctl c
    ∃ t, exec (.syscall c code) s = .next t ∧
      (c ≠ .mc → k.secure = true → t = enterFault (fetched s c) 7) ∧
      (c ≠ .mc → k.secure = false → t = (fetched s c).setCtl c (t.ctl c) ∧ (t.ctl c).secure = true ∧ (t.ctl c).priv = true ∧
        (t.ctl c).gvalid = true ∧ (t.ctl c).ghwentry = true ∧ (t.ctl c).gcode = 0xFE ∧ (t.ctl c).gpc = k.pc ∧ (t.ctl c).grlevel = k.priv ∧
        (t.ctl c).pc = k.monbase + 1016 ∧ (t.ctl c).norm = k.norm ∧ (t.ctl c).secu = k.secu) ∧
      (c = .mc → (t.ctl c).halted = true ∧ (t.ctl c).cur = k.cur ∧ (t.ctl c).pc = k.pc ∧ t.on Reg.MC_STAT_HALTED = true)
  )

/-- LD and LDD from on-chip SRAM (R31, R46): the word, or the two words at an even address, and no change of memory.
LDO from on-chip SRAM (R49, R50): the nonet, or the octet with its parity checked. -/
def Obligations.Loads : Prop :=
  (
  ∀ (s : State) (c : CtlId), Executes s c → ∀ (rt rbase : Fin 32) (off : Word), rbase.val % 2 = 0 →
    let k := s.ctl c
    let b := fetched s c
    let a := eaOf k rbase off
    onChip c a → passes b c .read a 0 →
      Finishes (.ld (.ctl c) rt rbase off) s c 1 (oneReg k rt (b.sramWord a.toNat)) k.cur.flags ∧
      (rt.val % 2 = 0 → a.toNat % 2 = 0 → passes b c .read (a + 1) 0 → onChip c (a + 1) →
        Finishes (.ldd (.ctl c) rt rbase off) s c 1 (onePair k rt (dword (b.sramWord (a + 1).toNat) (b.sramWord a.toNat))) k.cur.flags) ∧
      (rt.val % 2 = 0 → a.toNat % 2 = 1 → k.cur.depth < 2 →
        Traps (.ldd (.ctl c) rt rbase off) s c k 9 0 a.toNat ∧ Traps (.std (.ctl c) rt rbase off) s c k 9 0 a.toNat)
  ) ∧ (
  ∀ (s : State) (c : CtlId), Executes s c → ∀ (rt rbase : Fin 32) (off : Word), rbase.val % 2 = 0 →
    let k := s.ctl c
    let b := fetched s c
    let o := octetOf k rbase off
    let a : DWord := o.extractLsb' 1 36
    let x := nonetIn (b.sramWord a.toNat) (o.toNat % 2)
    onChip c a → passes b c .read a (o.toNat % 2) →
      Finishes (.ldo c rt rbase true off) s c 1 (oneReg k rt (x.zeroExtend 18)) k.cur.flags ∧
      (nonetOk x = true → Finishes (.ldo c rt rbase false off) s c 1 (oneReg k rt ((x.extractLsb' 0 8).zeroExtend 18)) k.cur.flags) ∧
      (nonetOk x = false → k.cur.pet = false →
        Finishes (.ldo c rt rbase false off) s c 1 (oneReg k rt ((x.extractLsb' 0 8).zeroExtend 18)) { k.cur.flags with pe := true }) ∧
      (nonetOk x = false → k.cur.pet = true → k.cur.depth < 2 →
        Traps (.ldo c rt rbase false off) s c k 0xB (o.toNat % 2) a.toNat)
  )

/-- ST, STD and STO to on-chip SRAM (R46, R49, R51): the nonets stored, every other nonet and everything else as before.
BMOV and BZERO between on-chip SRAMs (R52 to R55): `upTo` words, at least one, or all of them; memory takes the words in ascending order, the pairs
and the count name the work that remains, and control goes on only when none does; a count of 0 does nothing, one above 4,096 raises Operand Range. -/
def Obligations.StoresAndMoves : Prop :=
  (
  ∀ (s : State) (c : CtlId), Executes s c → ∀ (rt rbase : Fin 32) (off : Word), rbase.val % 2 = 0 →
    let k := s.ctl c
    let b := fetched s c
    let a := eaOf k rbase off
    let x := sramIndex a.toNat
    let stored := fun (i : Instr) (put : Nat → Nonet) => ∃ t, exec i s = .next t ∧
      (∀ n, tget 0 t.mem.sram n = put n) ∧ t.mem = { b.mem with sram := t.mem.sram } ∧
      Finished { b with mem := t.mem } s t c 1 k.reg k.cur.flags
    let was := fun n => tget 0 b.mem.sram n
    (onChip c a → passes b c .write a 0 →
      stored (.st (.ctl c) rt rbase off) (fun n =>
        if n = x then nonetIn (k.reg rt) 0 else if n = x + 1 then nonetIn (k.reg rt) 1 else was n) ∧
      (rt.val % 2 = 0 → a.toNat % 2 = 0 → onChip c (a + 1) →
        stored (.std (.ctl c) rt rbase off) (fun n =>
          let y := sramIndex (a.toNat + 1)
          if n = y + 1 then nonetIn (hiW (k.pair rt)) 1 else if n = y then nonetIn (hiW (k.pair rt)) 0
          else if n = x + 1 then nonetIn (loW (k.pair rt)) 1 else if n = x then nonetIn (loW (k.pair rt)) 0 else was n))) ∧
    (let o := octetOf k rbase off
     let w : DWord := o.extractLsb' 1 36
     onChip c w → passes b c .write w (o.toNat % 2) →
      stored (.sto c rt rbase true off) (fun n => if n = sramIndex w.toNat + o.toNat % 2 then (k.reg rt).extractLsb' 0 9 else was n) ∧
      stored (.sto c rt rbase false off) (fun n =>
        if n = sramIndex w.toNat + o.toNat % 2 then nonetOf ((k.reg rt).extractLsb' 0 8) else was n))
  ) ∧ (
  ∀ (s : State) (c : CtlId), Executes s c → MayTransfer (s.ctl c) → ∀ (rd ra rb : Fin 32) (upTo : Nat),
    let k := s.ctl c
    let b := fetched s c
    let n := (k.reg rb).toNat
    let m := min (max 1 upTo) n
    let dst := k.pair rd
    let src := k.pair ra
    (4096 < n → k.cur.depth < 2 →
      (bmovOk rd ra rb = true → Traps (.bmov c rd ra rb upTo) s c k 0xA 0 0) ∧ (bzeroOk rd rb = true → Traps (.bzero c rd rb upTo) s c k 0xA 0 0)) ∧
    (n ≤ 4096 → bmovOk rd ra rb = true →
      (∀ j < m, onChip c (src + BitVec.ofNat 36 j) ∧ passes b c .read (src + BitVec.ofNat 36 j) 0 ∧
        onChip c (dst + BitVec.ofNat 36 j) ∧ passes b c .write (dst + BitVec.ofNat 36 j) 0) →
      ∃ t, exec (.bmov c rd ra rb upTo) s = .next t ∧
        t.mem = (blockOfWords false dst src m b).mem ∧ t = { b with mem := t.mem }.setCtl c (t.ctl c) ∧
        (t.ctl c).pair rd = dst + BitVec.ofNat 36 m ∧ (t.ctl c).pair ra = src + BitVec.ofNat 36 m ∧ ((t.ctl c).reg rb).toNat = n - m ∧
        (∀ r, r ≠ rd → r ≠ rd + 1 → r ≠ ra → r ≠ ra + 1 → r ≠ rb → (t.ctl c).reg r = k.reg r) ∧
        (t.ctl c).cur.flags = k.cur.flags ∧ (t.ctl c).pc = (if m = n then nextPc k else k.pc)) ∧
    (n ≤ 4096 → bzeroOk rd rb = true →
      (∀ j < m, onChip c (dst + BitVec.ofNat 36 j) ∧ passes b c .write (dst + BitVec.ofNat 36 j) 0) →
      ∃ t, exec (.bzero c rd rb upTo) s = .next t ∧
        t.mem = (blockOfWords true dst 0 m b).mem ∧ t = { b with mem := t.mem }.setCtl c (t.ctl c) ∧
        (t.ctl c).pair rd = dst + BitVec.ofNat 36 m ∧ ((t.ctl c).reg rb).toNat = n - m ∧
        (∀ r, r ≠ rd → r ≠ rd + 1 → r ≠ rb → (t.ctl c).reg r = k.reg r) ∧
        (t.ctl c).cur.flags = k.cur.flags ∧ (t.ctl c).pc = (if m = n then nextPc k else k.pc))
  )

/-- Every load and store of a controller, whatever its target (R47, Table 3.7): the bus answers for the state that the fetch leaves, a value goes to its
registers, and a failure is the exception it names with the address in EADDR; a refused access changes no memory. -/
def Obligations.BusAccesses : Prop :=
  ∀ (s : State) (c : CtlId), Executes s c → ∀ (rt rbase : Fin 32) (off : Word), rbase.val % 2 = 0 →
    let k := s.ctl c
    let b := fetched s c
    let a := eaOf k rbase off
    let rd : Access := ⟨c.num, k.secure, k.priv, 0xFFF, .read, a.toNat, 0⟩
    let wr : Access := ⟨c.num, k.secure, k.priv, 0xFFF, .write, a.toNat, 0⟩
    (∀ (u : State) (w : Word), busLoad b rd = (u, .ok w) → ∃ t, exec (.ld (.ctl c) rt rbase off) s = .next t ∧
      t = u.onCtl c (fun x => (x.setReg rt w).complete (accessTime s c a))) ∧
    (∀ (u : State) (e : Nat × Nat), busLoad b rd = (u, .error e) → exec (.ld (.ctl c) rt rbase off) s = .next (takeExc u c e.1 e.2 a.toNat)) ∧
    (∀ (u : State), busStore b wr (k.reg rt) = (u, none) →
      exec (.st (.ctl c) rt rbase off) s = .next (u.onCtl c (fun x => x.complete (accessTime s c a)))) ∧
    (∀ (u : State) (e : Nat × Nat), busStore b wr (k.reg rt) = (u, some e) →
      exec (.st (.ctl c) rt rbase off) s = .next (takeExc u c e.1 e.2 a.toNat)) ∧
    (∀ r, k.cur.depth < 2 → checkAccess b wr = some r → ∃ t, exec (.st (.ctl c) rt rbase off) s = .next t ∧
      Trapped (reportRefusal b wr r) k t c 3 (r.code 0) a.toNat ∧ t.mem = b.mem) ∧
    (∀ r, k.cur.depth < 2 → checkAccess b rd = some r → ∃ t, exec (.ld (.ctl c) rt rbase off) s = .next t ∧
      Trapped (reportRefusal b rd r) k t c 3 (r.code 0) a.toNat ∧ t.mem = b.mem)

/-! ### Figures on the floor (spec/04 to spec/08) -/

/-- The arithmetic, logic and address instructions in slot 0 (R25, R89, R91, Table 4.2): result and flags of the controllers' instruction, from the sequencer's
registers, landing at the latency of the table; the all-zero encoding writes nothing.
LOOP and the accesses to local data memory in slot 0 (R64, R89, R90): a load lands 2 cycles on, a store 1; an address of 1,024 or more, or an odd one for two words,
is the contract monitor's cause 2; and what a slot-0 instruction completes at no active LEND, in no body, is nothing more. -/
def Obligations.SlotZeroInstructions : Prop :=
  (
  ∀ (s : State) (a : At) (i : Inst), Issues s a i →
    let q := (arrived s a).seq a.fs
    let r := q.reg
    let p := q.pair
    let w := fun (rd : Fin 32) (v : Word × FlagRes) => [(1, LandEff.freg rd v.1), (1, LandEff.flags v.2.z v.2.n v.2.c v.2.v)]
    let d := fun (rd : Fin 32) (n : Nat) (v : DWord × FlagRes) => [(n, LandEff.fpair rd v.1), (n, LandEff.flags v.2.z v.2.n v.2.c v.2.v)]
    let lg := fun (v : Word) => (v, zn v none none)
    let sh := fun (op : ShiftOp) (x : Word) (k : Nat) => ((shiftRes op x k).1, zn (shiftRes op x k).1 (some (shiftRes op x k).2) (some false))
    SlotZero (.add (.fig a) 0 0 0) s a i [] ∧
    ∀ (rd ra rb : Fin 32) (imm : Word),
      (¬ (rd = 0 ∧ ra = 0 ∧ rb = 0) → SlotZero (.add (.fig a) rd ra rb) s a i (w rd (addFlags (r ra) (r rb) false))) ∧
      SlotZero (.adc (.fig a) rd ra rb) s a i (w rd (addFlags (r ra) (r rb) q.flags.c)) ∧
      SlotZero (.sub (.fig a) rd ra rb) s a i (w rd (subFlags (r ra) (r rb) false)) ∧
      SlotZero (.sbc (.fig a) rd ra rb) s a i (w rd (subFlags (r ra) (r rb) q.flags.c)) ∧
      SlotZero (.neg (.fig a) rd ra) s a i (w rd (subFlags 0 (r ra) false)) ∧
      SlotZero (.addi (.fig a) rd ra imm) s a i (w rd (addFlags (r ra) imm false)) ∧
      SlotZero (.cmp (.fig a) ra rb) s a i ((w 0 (subFlags (r ra) (r rb) false)).drop 1) ∧
      SlotZero (.cmpi (.fig a) ra imm) s a i ((w 0 (subFlags (r ra) imm false)).drop 1) ∧
      SlotZero (.and (.fig a) rd ra rb) s a i (w rd (lg (r ra &&& r rb))) ∧ SlotZero (.or (.fig a) rd ra rb) s a i (w rd (lg (r ra ||| r rb))) ∧
      SlotZero (.xor (.fig a) rd ra rb) s a i (w rd (lg (r ra ^^^ r rb))) ∧ SlotZero (.andn (.fig a) rd ra rb) s a i (w rd (lg (r ra &&& ~~~ r rb))) ∧
      SlotZero (.andi (.fig a) rd ra imm) s a i (w rd (lg (r ra &&& imm))) ∧ SlotZero (.ori (.fig a) rd ra imm) s a i (w rd (lg (r ra ||| imm))) ∧
      SlotZero (.xori (.fig a) rd ra imm) s a i (w rd (lg (r ra ^^^ imm))) ∧
      SlotZero (.clz (.fig a) rd ra) s a i (w rd (lg (BitVec.ofNat 18 (clz (r ra))))) ∧
      SlotZero (.packo (.fig a) rd ra rb) s a i (w rd (lg (packo (r ra) (r rb)))) ∧
      (let n := (r rb).toNat % 32
       SlotZero (.shl (.fig a) rd ra rb) s a i (w rd (sh .shl (r ra) n)) ∧ SlotZero (.shr (.fig a) rd ra rb) s a i (w rd (sh .shr (r ra) n)) ∧
       SlotZero (.sar (.fig a) rd ra rb) s a i (w rd (sh .sar (r ra) n)) ∧ SlotZero (.rol (.fig a) rd ra rb) s a i (w rd (sh .rol (r ra) n)) ∧
       SlotZero (.ror (.fig a) rd ra rb) s a i (w rd (sh .ror (r ra) n))) ∧
      SlotZero (.shli (.fig a) rd ra rb) s a i (w rd (sh .shl (r ra) rb)) ∧ SlotZero (.shri (.fig a) rd ra rb) s a i (w rd (sh .shr (r ra) rb)) ∧
      SlotZero (.sari (.fig a) rd ra rb) s a i (w rd (sh .sar (r ra) rb)) ∧ SlotZero (.roli (.fig a) rd ra rb) s a i (w rd (sh .rol (r ra) rb)) ∧
      SlotZero (.rori (.fig a) rd ra rb) s a i (w rd (sh .ror (r ra) rb)) ∧
      (rd.val % 2 = 0 →
        (∃ v : DWord, v.toInt = (r ra).toInt * (r rb).toInt ∧ SlotZero (.mul (.fig a) rd ra rb) s a i (d rd 3 (v, zn v (some false) (some false)))) ∧
        (∃ v : DWord, v.toNat = (r ra).toNat * (r rb).toNat ∧ SlotZero (.mulu (.fig a) rd ra rb) s a i (d rd 3 (v, zn v (some false) (some false)))) ∧
        (ra.val % 2 = 0 → SlotZero (.movd (.fig a) rd ra) s a i (d rd 1 (p ra, zn (p ra) none none)) ∧
          SlotZero (.lea (.fig a) rd ra imm) s a i [(1, .fpair rd (p ra + imm.signExtend 36))] ∧
          (rb.val % 2 = 0 → SlotZero (.addd (.fig a) rd ra rb) s a i (d rd 1 (addFlags (p ra) (p rb) false)) ∧
            SlotZero (.subd (.fig a) rd ra rb) s a i (d rd 1 (subFlags (p ra) (p rb) false)))))
  ) ∧ (
  ∀ (s : State) (a : At) (i : Inst), Issues s a i → ∀ (rt rb : Fin 32) (off : Word), rb.val % 2 = 0 →
    let q := (arrived s a).seq a.fs
    let ea := (q.pair rb + off.signExtend 36).toNat
    (ea < 1024 → SlotZero (.ld (.fig a) rt rb off) s a i [(2, .freg rt (tget 0 q.loc ea))] ∧
      SlotZero (.st (.fig a) rt rb off) s a i [(1, .loc ea (q.reg rt))] ∧
      (rt.val % 2 = 0 → ea % 2 = 0 →
        SlotZero (.ldd (.fig a) rt rb off) s a i [(2, .fpair rt (dword (tget 0 q.loc (ea + 1)) (tget 0 q.loc ea)))] ∧
        SlotZero (.std (.fig a) rt rb off) s a i [(1, .loc ea (loW (q.pair rt))), (1, .loc (ea + 1) (hiW (q.pair rt)))])) ∧
    (1024 ≤ ea → exec (.ld (.fig a) rt rb off) s = .next (monitor (arrived s a) a 2) ∧
      exec (.st (.fig a) rt rb off) s = .next (monitor (arrived s a) a 2)) ∧
    (rt.val % 2 = 0 → 1024 ≤ ea ∨ ea % 2 = 1 → exec (.ldd (.fig a) rt rb off) s = .next (monitor (arrived s a) a 2) ∧
      exec (.std (.fig a) rt rb off) s = .next (monitor (arrived s a) a 2)) ∧
    (∀ (lvl : Fin 2) (n : BitVec 16) (len : BitVec 12), len ≠ 0 →
      let old := if lvl = 0 then q.lp0 else q.lp1
      let sta := BitVec.ofNat 36 (a.step.val + 1)
      SlotZero (.loop (.fig a) lvl (.imm n) len) s a i [(1, .loop lvl
        { act := decide (n ≠ 0), cnt := if n = 0 then old.cnt else n.zeroExtend 18, sta := sta, fin := sta + BitVec.ofNat 36 (len.toNat - 1) })]) ∧
    (q.lp0.act = false → q.lp1.act = false → ¬ (i.hdr.body ∧ a.step.val = i.hdr.bodyLast) →
      ∀ l, slotEnds (launch (arrived s a) a l) a i = launch (arrived s a) a l)
  )

/-- A result in flight lands with all of its cycle (R91), and lands where it says: one result of each kind, alone in flight.
The floor's operations put results in flight and change nothing else until they land (R91): launching adds the new results to those in flight, in no other
sequencer, and touches no unit. -/
def Obligations.ResultsAndLaunches : Prop :=
  (
  ∀ (s : State) (fs : Fin 64) (i : Inst) (l : Landing), (s.seq fs).inst = some i → i.flight = [l] →
    ∃ t j, exec (.resultLanding fs) s = .next t ∧ (t.seq fs).inst = some j ∧ j.flight = [] ∧ j.cyc = max i.cyc l.cyc ∧
      (∀ r v, l.eff = .freg r v → ∀ x, (t.seq fs).reg x = if x = r.val ∧ x ≠ 0 then v else (s.seq fs).reg x) ∧
      (∀ a v, l.eff = .loc a v → ∀ x, tget 0 (t.seq fs).loc x = if x = a then v else tget 0 (s.seq fs).loc x) ∧
      (∀ g v, l.eff = .hp g v → ∀ x, t.group x = if x = g then { s.group g with hp := v } else s.group x) ∧
      (∀ n b, l.eff = .bin n b → ∀ x, t.lane x = if x = n then { s.lane n with bin := b } else s.lane x) ∧
      (∀ n b, l.eff = .bout n b → ∀ x, t.lane x = if x = n then { s.lane n with bout := b } else s.lane x) ∧
      (∀ n b e, l.eff = .ctr n b e → ∀ x, t.lane x = if x = n then { s.lane n with ctr := b, spent := e } else s.lane x) ∧
      (∀ n k, l.eff = .key n k → ∀ x, t.lane x = if x = n then { s.lane n with key := some k } else s.lane x) ∧
      (∀ g b, l.eff = .gy g b → ∀ x, t.group x = if x = g then { s.group g with y := b } else s.group x) ∧
      (∀ g b, l.eff = .gh g b → ∀ x, t.group x = if x = g then { s.group g with h := b } else s.group x) ∧
      (∀ n b e, l.eff = .tweak n b e → ∀ x, t.xt x = if x = n then { s.xt n with tweak := b, expo := e } else s.xt x) ∧
      (∀ n b, l.eff = .hold n b → ∀ x, t.hold x = if x = n then b else s.hold x) ∧
      (∀ n u, l.eff = .duNew n u → ∀ x, t.du x = if x = n then u else s.du x) ∧
      (∀ n d v, l.eff = .nuA n d v → ∀ x, t.nu x = if x = n then { s.nu n with a := (s.nu n).a.set d v } else s.nu x) ∧
      (∀ n, l.eff = .nuRej n → ∀ x, t.nu x = if x = n then { s.nu n with rej := true } else s.nu x) ∧
      (∀ ok, l.eff = .auth ok → j.auth = some ok) ∧
      (∀ k v, l.eff = .res k v → ∀ x, tget 0 j.res x = if x = k.val then v else tget 0 i.res x)
  ) ∧ (
  ∀ (s : State) (a : At) (l : List (Nat × LandEff)) (i : Inst), (s.seq a.fs).inst = some i →
    ∃ fl, launch s a l = s.setSeq a.fs { s.seq a.fs with inst := some { i with flight := fl } } ∧
      (∀ x ∈ fl, x ∈ i.flight ∨ ∃ e ∈ l, x = ⟨a.cyc + e.1, a.cyc, e.2⟩) ∧
      (∀ e ∈ l, (∀ z n c v, e.2 ≠ .flags z n c v) → (⟨a.cyc + e.1, a.cyc, e.2⟩ : Landing) ∈ fl) ∧
      (∀ x ∈ i.flight, (∀ z n c v, x.eff ≠ .flags z n c v) → x ∈ fl)
  )

/-- HSET, HLD, HST, XORB, MOVB, CTRI, KPUT and HREL (R97, R102, R125, R149, R150): what each puts in flight, for a lane group that the instance holds.
CSAVE and CREST (R152, log of the order): the two chaining blocks of each selected lane go to, and come from, the hold pointer. -/
def Obligations.LaneMoves : Prop :=
  (
  ∀ (s : State) (a : At) (u : Fin 32) (i : Inst) (g : Nat), IssuesOn s a uLG u i g →
    let b := arrived s a
    let hp := (b.group g).hp
    let reel := reelOf i u
    (∀ r : Fin 32, Launches (.hset a u r) s a [(1, .hp g (((b.seq a.fs).reg r).truncate 14))]) ∧
    (∀ m : BitVec 8, let ls := lanesOf g m
      Launches (.xorb a u m) s a (ls.map (fun n => (1, .bout n ((b.lane n).bout ^^^ (b.lane n).bin)))) ∧
      Launches (.movb a u m) s a (ls.map (fun n => (1, .bin n (b.lane n).bout))) ∧
      ((∀ n ∈ ls, ∀ k, (b.lane n).key = some k → k.binding = 1 ∨ k.binding = 2) → i.baseSpent = false →
        i.base % 2 ^ i.baseWidth + ls.length ≤ 2 ^ i.baseWidth →
        ∃ t j, exec (.ctri a u m) s = .next t ∧ (t.seq a.fs).inst = some j ∧
          (∀ e n, ls[e]? = some n → (⟨a.cyc + 1, a.cyc, .ctr n (BitVec.ofNat 128 (ctrAdd i.baseWidth i.base e)) false⟩ : Landing) ∈ j.flight) ∧
          (⟨a.cyc + 1, a.cyc, .base (ctrAdd i.baseWidth i.base ls.length)
            (decide (i.base % 2 ^ i.baseWidth + ls.length = 2 ^ i.baseWidth))⟩ : Landing) ∈ j.flight) ∧
      (∀ (k : Fin 8) (n : Nat), nth none i.keys k = some n →
        Launches (.kput a u m k) s a [(6, .slotKey n (ls.flatMap (fun l => octetsOf (b.lane l).bout)))])) ∧
    (∀ m : BitVec 8, let ls := lanesOf g m
      let p := ls.length
      (∀ e < p, ∃ pg bl, ringPlace i reel (hp.toNat + e) = some (pg, bl) ∧ (b.page pg).phase = .staged) →
        ∃ t j, exec (.hld a u m false true) s = .next t ∧ (t.seq a.fs).inst = some j ∧
          (⟨a.cyc + 3 + p, a.cyc, .hp g (advanceHp i hp p)⟩ : Landing) ∈ j.flight ∧
          (∀ e n pg bl, ls[e]? = some n → ringPlace i reel (hp.toNat + e) = some (pg, bl) →
            (⟨a.cyc + 3 + p, a.cyc, .bin n (b.hold (pg * 256 + bl))⟩ : Landing) ∈ j.flight)) ∧
    (∀ m : BitVec 8, let ls := lanesOf g m
      let p := ls.length
      (∀ e < p, ∃ pg bl, ringPlace i reel (hp.toNat + e) = some (pg, bl) ∧ (b.page pg).phase ≠ .released) →
        ∃ t j, exec (.hst a u m true) s = .next t ∧ (t.seq a.fs).inst = some j ∧
          (⟨a.cyc + 3 + p, a.cyc, .hp g (advanceHp i hp p)⟩ : Landing) ∈ j.flight ∧
          (∀ e n pg bl, ls[e]? = some n → ringPlace i reel (hp.toNat + e) = some (pg, bl) →
            (⟨a.cyc + 3 + p, a.cyc, .hold (pg * 256 + bl) (b.lane n).bout⟩ : Landing) ∈ j.flight)) ∧
    (∀ (page : Fin 64) (pg : Nat), (ringOf i reel)[page.val]? = some pg → Launches (.hrel a u page) s a [(1, .hrel pg)])
  ) ∧ (
  ∀ (s : State) (a : At) (u : Fin 32) (m : BitVec 8) (i : Inst) (g : Nat), IssuesOn s a uLG u i g →
    let b := arrived s a
    let hp := (b.group g).hp.toNat
    let reel := reelOf i u
    let ls := lanesOf g m
    let L := 3 + 2 * ls.length
    ((∀ e < 2 * ls.length, ∃ pg bl, ringPlace i reel (hp + e) = some (pg, bl) ∧ (b.page pg).phase ≠ .released) →
      ∃ t j, exec (.csave a u m) s = .next t ∧ (t.seq a.fs).inst = some j ∧
        ∀ e n, ls[e]? = some n → ∀ p0 b0 p1 b1, ringPlace i reel (hp + 2 * e) = some (p0, b0) → ringPlace i reel (hp + 2 * e + 1) = some (p1, b1) →
          (⟨a.cyc + L, a.cyc, .hold (p0 * 256 + b0) (if Config.csaveCtrFirst then (b.lane n).ctr else (b.lane n).bout)⟩ : Landing) ∈ j.flight ∧
          (⟨a.cyc + L, a.cyc, .hold (p1 * 256 + b1) (if Config.csaveCtrFirst then (b.lane n).bout else (b.lane n).ctr)⟩ : Landing) ∈ j.flight) ∧
    ((∀ e < 2 * ls.length, ∃ pg bl, ringPlace i reel (hp + e) = some (pg, bl) ∧ (b.page pg).phase = .staged) →
      ∃ t j, exec (.crest a u m) s = .next t ∧ (t.seq a.fs).inst = some j ∧
        ∀ e n, ls[e]? = some n → ∀ p0 b0 p1 b1, ringPlace i reel (hp + 2 * e) = some (p0, b0) → ringPlace i reel (hp + 2 * e + 1) = some (p1, b1) →
          (⟨a.cyc + L, a.cyc, .ctr n (b.hold (if Config.csaveCtrFirst then p0 * 256 + b0 else p1 * 256 + b1)) false⟩ : Landing) ∈ j.flight ∧
          (⟨a.cyc + L, a.cyc, .bout n (b.hold (if Config.csaveCtrFirst then p1 * 256 + b1 else p0 * 256 + b0))⟩ : Landing) ∈ j.flight)
  )

/-- The block operations on lanes whose keys admit them (R96, R140 to R142, R150, Table 6.5), with no fault detected: the block of each selected lane. -/
def Obligations.BlockOperations : Prop :=
  ∀ (s : State) (a : At) (u : Fin 32) (m : BitVec 8) (i : Inst) (g : Nat), IssuesOn s a uLG u i g →
    let b := arrived s a
    let ls := lanesOf g m
    let x := (xtOfReel i g).getD 32
    let tw := fun e => xtsPow e (b.xt x).tweak
    let ready := fun (o : BlockKind) => ∀ n ∈ ls, laneRefusal o (b.lane n) = 0
    (ready .aese → BlocksRun (.aese a u m) s a ls (fun _ l k => aesEnc (laneAes k) l.bin)) ∧
    (ready .aesd → BlocksRun (.aesd a u m) s a ls (fun _ l k => aesDec (laneAes k) l.bin)) ∧
    (ready .ctre → BlocksRun (.ctre a u m) s a ls (fun _ l k => aesEnc (laneAes k) l.ctr ^^^ l.bin)) ∧
    (ready .ctrk → BlocksRun (.ctrk a u m) s a ls (fun _ l k => aesEnc (laneAes k) l.ctr)) ∧
    (ready .cbcd → BlocksRun (.cbcd a u m) s a ls (fun _ l k => aesDec (laneAes k) l.bin ^^^ l.ctr)) ∧
    (ready .cmacb → BlocksRun (.cmacb a u m) s a ls (fun _ l k => aesEnc (laneAes k) (l.bin ^^^ l.bout))) ∧
    ((b.xt x).expo + ls.length ≤ 2 ^ 20 →
      (ready .xtse → BlocksRun (.xtse a u m) s a ls (fun e l k => aesEnc (laneAes k) (l.bin ^^^ tw e) ^^^ tw e)) ∧
      (ready .xtsd → BlocksRun (.xtsd a u m) s a ls (fun e l k => aesDec (laneAes k) (l.bin ^^^ tw e) ^^^ tw e)))

/-- GHASH (R96, Table 4.3): GHK, GHA, GHB, GHL, GTAG, GCMP and GCLR.
Tweak units (R142, R150): TWI takes the tweak of a data-unit number above the instance's last one, TWN multiplies it by alpha; without K2, or with a number that does not
rise, they are refused. -/
def Obligations.GhashAndTweaks : Prop :=
  (
  ∀ (s : State) (a : At) (u : Fin 32) (i : Inst) (g : Nat), IssuesOn s a uLG u i g →
    let b := arrived s a
    let y := (b.group g).y
    let h := (b.group g).h
    let hp := (b.group g).hp
    Launches (.gclr a u) s a [(1, .gy g 0)] ∧
    (∀ lane : Fin 8, let l := b.lane (8 * g + lane)
      Launches (.ghk a u lane) s a [(2, .gh g l.bout)] ∧
      Launches (.gha a u lane) s a [(8, .gy g (gfMul (y ^^^ l.bout) h))] ∧
      Launches (.ghb a u lane) s a [(8, .gy g (gfMul (y ^^^ l.bin) h))] ∧
      (∀ r : Fin 32, Launches (.gcmp a u lane r) s a [(4, .freg r (if y ^^^ l.bout = l.bin then 1 else 0))]) ∧
      (∀ pg bl, ringPlace i (reelOf i u) hp.toNat = some (pg, bl) → (b.page pg).phase ≠ .released →
        Launches (.gtag a u lane false) s a [(4, .hold (pg * 256 + bl) (y ^^^ l.bout))])) ∧
    (∀ r : Fin 25, Launches (.ghl a u r) s a [(8, .gy g (gfMul (y ^^^ blockOf (regBlock (b.seq a.fs) r)) h))])
  ) ∧ (
  ∀ (s : State) (a : At) (u : Fin 32) (i : Inst) (x : Nat), IssuesOn s a uXT u i x →
    let b := arrived s a
    ((b.xt x).expo + 1 < 2 ^ 20 → Launches (.twn a u) s a [(2, .tweak x (xtsAlpha (b.xt x).tweak) ((b.xt x).expo + 1))]) ∧
    (2 ^ 20 ≤ (b.xt x).expo + 1 → exec (.twn a u) s = .next (monitor b a 4)) ∧
    (∀ r : Fin 25,
      let n := ofBe (regBlock (b.seq a.fs) r)
      ((b.xt x).k2 = none → exec (.twi a u r) s = .next (monitor b a 3)) ∧
      (∀ k2, (b.xt x).k2 = some k2 →
        ((∃ p, i.lastUnit = some p ∧ n ≤ p) → exec (.twi a u r) s = .next (monitor b a 4)) ∧
        ((∀ p, i.lastUnit = some p → p < n) → exec (.twi a u r) s = .next (launch (b.onInst a.fs (fun i => { i with lastUnit := some n })) a
          [(360, .tweak x (aesEnc k2 (blockOf (leOctets 16 n))) 0)]))))
  )

/-- Key delivery (R141, R188, R232, R245, Table 10.7): KLANE, KGH, KXT and KNU deliver an operand that the destination's class admits 8 cycles on (KNU by its own formula), and
refuse one that holds no material (cause 3) or that the class does not admit (cause 4). -/
def Obligations.KeyDelivery : Prop :=
  ∀ (s : State) (a : At) (u : Fin 32) (k : Fin 8) (i : Inst) (n : Nat),
    let b := arrived s a
    (IssuesOn s a uLG u i n → k.val < i.hdr.nKeys →
      (operandSlot b i k = none → (∀ m, exec (.klane a u m k) s = .next (monitor b a 3)) ∧ exec (.kgh a u k) s = .next (monitor b a 3)) ∧
      (∀ p sl, operandSlot b i k = some (p, sl) →
        let inv := !bit (declClasses i k) 0 && bit (declClasses i k) 1
        let cls := if inv then 1 else 0
        (∀ m, classAdmits i.hdr.fid cls i.dir sl = true → Launches (.klane a u m k) s a ((lanesOf n m).map (fun l =>
          (8, .key l ⟨sl.mat, if sl.binding = 3 then sl.bits / 2 else sl.bits, inv, sl.binding, sl.attr⟩)))) ∧
        (∀ m, classAdmits i.hdr.fid cls i.dir sl = false → exec (.klane a u m k) s = .next (monitor b a 4)) ∧
        (classAdmits i.hdr.fid 2 i.dir sl = true → Launches (.kgh a u k) s a [(8, .gh n (aesEnc sl.mat 0))]) ∧
        (classAdmits i.hdr.fid 2 i.dir sl = false → exec (.kgh a u k) s = .next (monitor b a 4)))) ∧
    (IssuesOn s a uXT u i n → ∀ p sl, operandSlot b i k = some (p, sl) →
      (classAdmits i.hdr.fid 3 i.dir sl = true → Launches (.kxt a u k) s a [(8, .k2 n (sl.mat.drop (sl.mat.length / 2)))]) ∧
      (classAdmits i.hdr.fid 3 i.dir sl = false → exec (.kxt a u k) s = .next (monitor b a 4))) ∧
    (IssuesOn s a uNU u i n → ∀ p sl, operandSlot b i k = some (p, sl) → ∀ base : Fin 512,
      (classAdmits i.hdr.fid 5 i.dir sl = true → Launches (.knu a u k base) s a [(6 + 2 * cdiv (cdiv sl.bits 16) 8,
        nuWrite n (8 * base, limbs (cdiv sl.bits 16) (ofBe (sl.mat.take (cdiv sl.bits 8)))))]) ∧
      (classAdmits i.hdr.fid 5 i.dir sl = false → exec (.knu a u k base) s = .next (monitor b a 4)))

/-- The digest units (R162 to R168, Table 7.1): DINIT, DABS, DCOMP while absorbing, DFIN, DOUT to the fixity field, DTAP.
DPAD, DSAVE and DREST (R172, R173, R175): the key pad of an operand that the algorithm accepts; a keyed state is not saved; a record that passes the checks is taken
back, and one that does not sets the digest-state error. -/
def Obligations.Digests : Prop :=
  (
  ∀ (s : State) (a : At) (u : Fin 32) (i : Inst) (d : Nat), IssuesOn s a uDU u i d →
    let b := arrived s a
    let x := b.du d
    let r := dRate x.alg
    (∀ alg : BitVec 4, Launches (.dinit a u alg) s a [(2, .duNew d (duFresh alg.toNat))]) ∧
    (∀ (lg : Fin 32) (col : Nat), boundCol i uLG lg a.cyc = some col →
      (∀ (lane : Fin 8) (o : Bool), Launches (.dabs a u lg lane o) s a
        [(1, .duAppend d 200 (octetsOf (if o then (b.lane (8 * colUnit uLG col + lane)).bout else (b.lane (8 * colUnit uLG col + lane)).bin)) false)]) ∧
      Launches (.dtap a u lg) s a [(1, .duTap d (colUnit uLG col / 4))]) ∧
    (x.alg ≠ 15 → x.absorbing = true → exec (.dcomp a u) s = .next (launch (b.setDu d { x with buf := x.buf.drop r }) a
      [(if x.alg ≤ 2 then 66 else if x.alg ≤ 5 then 82 else 26, .duState d (dCompress x.alg x.st (fitOctets r x.buf)) [])])) ∧
    (11 ≤ x.alg → x.alg ≠ 15 → x.absorbing = false → exec (.dcomp a u) s = .next (launch b a
      [(26, .duState d (keccakF x.st) (((keccakF x.st).take r).take (2 * r - x.sq.length)))])) ∧
    (x.alg ≠ 15 → x.buf.length < r → exec (.dfin a u) s = .next (launch (b.setDu d { x with buf := [] }) a
      [((if isSha2 x.alg then 2 else 1) * dLat x.alg, .duFinal d (dFinish x) ((dFinish x).take (dOut x.alg)) (if isSha2 x.alg then [] else (dFinish x).take r))])) ∧
    (x.final = true → x.alg < 11 → exec (.dout a u none) s = .next (launch (b.setDu d x) a [(4, .fixity x.alg (fitOctets (dOut x.alg) x.dig))])) ∧
    (x.final = false → ∃ t j, exec (.dout a u none) s = .next t ∧ (t.seq a.fs).inst = some j ∧ j.earlyRead = true ∧
      (⟨a.cyc + 4, a.cyc, .fixity x.alg (List.replicate (dOut x.alg) 0)⟩ : Landing) ∈ j.flight)
  ) ∧ (
  ∀ (s : State) (a : At) (u : Fin 32) (i : Inst) (d : Nat), IssuesOn s a uDU u i d →
    let b := arrived s a
    let x := b.du d
    (∀ (k : Fin 8) (opad : Bool) p sl, operandSlot b i k = some (p, sl) → classAdmits i.hdr.fid 4 i.dir sl = true →
      (padAccepts x.alg sl.bits opad = true → Launches (.dpad a u k opad) s a
        [(14, .duAppend d 0 (padBlock x.alg (sl.mat.take (sl.bits / 8)) opad) true)]) ∧
      (padAccepts x.alg sl.bits opad = false → exec (.dpad a u k opad) s = .next (monitor b a 4))) ∧
    (∀ (lg : Fin 32) (col : Nat), boundCol i uLG lg a.cyc = some col →
      let g := colUnit uLG col
      let hp := (b.group g).hp.toNat
      (x.keyed = true → exec (.dsave a u lg) s = .next (monitor b a 4)) ∧
      (x.keyed = false → x.buf = [] → x.absorbing = true →
        exec (.dsave a u lg) s = .next (writeRings b a i (reelOf i lg) 16 hp (blocksOf (stateRecord x)))) ∧
      (∀ rec, rec = ((readRings b a i (reelOf i lg) hp 16).2.flatMap octetsOf) → recordOk rec = true →
        exec (.drest a u lg) s = .next (launch (readRings b a i (reelOf i lg) hp 16).1 a
          [(16, .duNew d { duFresh (leAt rec 5 1) with st := octAt rec 0x20 200, len := leAt rec 8 16, tap := ((readRings b a i (reelOf i lg) hp 16).1.du d).tap })])) ∧
      (∀ rec, rec = ((readRings b a i (reelOf i lg) hp 16).2.flatMap octetsOf) → recordOk rec = false →
        ∃ t j, exec (.drest a u lg) s = .next t ∧ (t.seq a.fs).inst = some j ∧ j.digErr = true))
  )

/-- The modular commands (R184, R185, R189, R192, Table 8.2) with LEN valid, a modulus context, and written operands below 4m: latency and result. -/
def Obligations.ModularCommands : Prop :=
  ∀ (s : State) (a : At) (u : Fin 32) (i : Inst) (n : Nat) (c : ModCtx), IssuesOn s a uNU u i n →
    let x := (arrived s a).nu n
    let l := x.len
    x.mctx = some c → 1 ≤ l → l ≤ 1024 → ∀ (d p q : Fin 16), x.addr d + l ≤ nuWords →
    ∀ (pw qw : List Nat), nuRead x (x.addr p) l = some pw → nuRead x (x.addr q) l = some qw → limbVal pw < 4 * c.m → limbVal qw < 4 * c.m →
      let m := c.m
      let ri := montRinv l m
      let gives := fun (op : Instr) (lat v : Nat) => ∃ ws, Launches op s a [(lat, nuWrite n (x.addr d, ws))] ∧
        ws.length = l ∧ (∀ w ∈ ws, w < 2 ^ 16) ∧ (m < 2 ^ (16 * l) → limbVal ws = v ∨ limbVal ws = v + m)
      let e4 := fun (k : Nat) => (k + 3) / 4
      0 < m →
      gives (.mmul a u d p q) (2 * (16 + (l + 15) / 16 * e4 l)) (limbVal pw * limbVal qw * ri % m) ∧
      gives (.msqr a u d p) (2 * (16 + e4 (3 * ((l + 15) / 16 * e4 l)))) (limbVal pw * limbVal pw * ri % m) ∧
      Launches (.mnorm a u d p false) s a [(2 * (10 + 4 * ((l + 31) / 32)), nuWrite n (x.addr d, limbs l (limbVal pw % m)))] ∧
      Launches (.msel a u d p q q) s a [(2 * (4 + (l + 31) / 32), nuWrite n (x.addr d, if nth 0 qw 0 % 2 = 0 then pw else qw))] ∧
      Launches (.meq a u d p q) s a [(2 * (12 + 4 * ((l + 31) / 32)), nuWrite n (x.addr d, [if limbVal pw % m = limbVal qw % m then 1 else 0]))] ∧
      ((∀ e < l, nth 0 pw e + nth 0 qw e < 2 ^ 18) →
        Launches (.ladd a u d p q) s a [(2 * (4 + (l + 31) / 32), nuWrite n (x.addr d, List.zipWith (· + ·) pw qw))]) ∧
      (∀ v, modInv (limbVal pw) m = some v → ∃ ws, Launches (.minv a u d p) s a
        [(2 * (32 + 46 * l * ((l + 31) / 32)), nuWrite n scratchZero), (2 * (32 + 46 * l * ((l + 31) / 32)), nuWrite n (x.addr d, ws))] ∧
        ws.length = l ∧ (m < 2 ^ (16 * l) → limbVal ws = v * montR l * montR l % m ∨ limbVal ws = v * montR l * montR l % m + m)) ∧
      (∀ (z : Bool), (∀ w ∈ pw, w < 2 ^ 16) → limbVal pw < m → (z = true → limbVal pw ≠ 0) → Launches (.mchk a u p z) s a [])

/-- LSUB, MEXP, MSET and MSCAN (R185, R186, R192): the rest of the modular commands, and what a rejection does: zeros in the whole destination, and REJ (R195).
The extended Euclid of the model finds the inverse exactly where there is one: what MINV, MMUL's Montgomery factor and INTT's scaling rest on (R192). -/
def Obligations.ModularUnits : Prop :=
  (
  ∀ (s : State) (a : At) (u : Fin 32) (i : Inst) (n : Nat), IssuesOn s a uNU u i n →
    let x := (arrived s a).nu n
    let l := x.len
    1 ≤ l → l ≤ 1024 → ∀ (d p q : Fin 16), x.addr d + l ≤ nuWords →
      (∀ (c : ModCtx) pw qw, x.mctx = some c → nuRead x (x.addr p) l = some pw → nuRead x (x.addr q) l = some qw → limbVal qw < 4 * c.m →
        c.m4.length = l → (∀ e < l, nth 0 qw e ≤ nth 0 pw e + nth 0 c.m4 e ∧ nth 0 pw e + nth 0 c.m4 e - nth 0 qw e < 2 ^ 18) →
        ∃ ws, Launches (.lsub a u d p q) s a [(2 * (4 + (l + 31) / 32), nuWrite n (x.addr d, ws))] ∧
          ws.length = l ∧ (∀ e < l, nth 0 ws e = nth 0 pw e + nth 0 c.m4 e - nth 0 qw e)) ∧
      (∀ (c : ModCtx) pw (opt : Fin 256) ew, x.mctx = some c → nuRead x (x.addr p) l = some pw → limbVal pw < 4 * c.m →
        nuRead x (x.addr q) (4 * (opt.val + 1)) = some ew →
        ∃ t j ws, exec (.mexp a u d p q opt) s = .next t ∧ (t.seq a.fs).inst = some j ∧
          (⟨a.cyc + latExp l (64 * (opt.val + 1)), a.cyc, nuWrite n (x.addr d, ws)⟩ : Landing) ∈ j.flight ∧ ws.length = l ∧
          (c.m < 2 ^ (16 * l) → 0 < c.m → limbVal ws % c.m =
            modPow c.m (64 * (opt.val + 1)) (limbVal pw * montRinv l c.m % c.m) (limbVal ew) 1 * montR l % c.m)) ∧
      (∀ pw, nuRead x (x.addr p) l = some pw → limbVal pw % 2 = 1 → 3 ≤ limbVal pw → nth 0 pw (l - 1) ≠ 0 →
        ∃ t j mp m4, exec (.mset a u p false) s = .next t ∧ (t.seq a.fs).inst = some j ∧
          (⟨a.cyc + 2 * (64 + 32 * l * ((l + 31) / 32)), a.cyc,
            .nuMod n ⟨limbVal pw, mp, montR l * montR l % limbVal pw, m4⟩⟩ : Landing) ∈ j.flight ∧ m4.length = l ∧ limbVal m4 = 4 * limbVal pw) ∧
      (∀ pw r2 m4 mp, nuRead x (x.addr p) l = some pw → limbVal pw % 2 = 1 → 3 ≤ limbVal pw → nth 0 pw (l - 1) ≠ 0 →
        nuRead x (x.addr p + l) l = some r2 → nuRead x (x.addr p + 2 * l) l = some m4 → nuRead x (x.addr p + 3 * l) 1 = some [mp] →
        Launches (.mset a u p true) s a [(2 * (8 + 2 * ((l + 31) / 32)), nuWrite n scratchZero),
          (2 * (8 + 2 * ((l + 31) / 32)), .nuMod n ⟨limbVal pw, mp, limbVal r2, m4⟩)]) ∧
      (∀ pw, nuRead x (x.addr p) l = some pw → limbVal pw % 2 = 0 ∨ limbVal pw < 3 ∨ nth 0 pw (l - 1) = 0 → ∀ g,
        Launches (.mset a u p g) s a [(latSet l g, .nuRej n)]) ∧
      (∀ (opt : Fin 256) tw jw, let w := l * (opt.val % 4 + 1)
        nuRead x (x.addr p) ((opt.val / 4 + 1) * w) = some tw → nuRead x (x.addr q) 1 = some jw → x.addr d + w ≤ nuWords →
        (nth 0 jw 0 < opt.val / 4 + 1 → Launches (.mscan a u d p q opt) s a
          [(2 * (4 + (opt.val / 4 + 1) * ((w + 63) / 64)), nuWrite n (x.addr d, (tw.drop (nth 0 jw 0 * w)).take w))]) ∧
        (opt.val / 4 + 1 ≤ nth 0 jw 0 → Launches (.mscan a u d p q opt) s a
          [(2 * (4 + (opt.val / 4 + 1) * ((w + 63) / 64)), nuWrite n (x.addr d, List.replicate w 0)),
           (2 * (4 + (opt.val / 4 + 1) * ((w + 63) / 64)), .nuRej n)])) ∧
      (x.mctx = none → Launches (.mmul a u d p q) s a
        [(2 * (16 + (l + 15) / 16 * ((l + 3) / 4)), nuWrite n (x.addr d, List.replicate l 0)), (2 * (16 + (l + 15) / 16 * ((l + 3) / 4)), .nuRej n)])
  ) ∧ (
  ∀ (a m : Nat), 2 ≤ m →
    (∀ x, modInv a m = some x → x < m ∧ a * x % m = 1) ∧ (Nat.gcd a m = 1 → ∃ x, modInv a m = some x)
  )

/-- Exponentiation by the bits of the exponent is exponentiation (R192, MEXP). -/
def Obligations.ModularPower : Prop :=
  ∀ (m k x e r : Nat), 0 < m → e < 2 ^ k → r < m → modPow m k x e r = r * x ^ e % m

/-- The lattice commands (R193, Table 8.2) under a context of the unit's width, on written operands: latency and result.
UNPACK, PREJ, PCBD, PCONV and LSET (R193): the lattice commands that read octets, fields, shares or a context. -/
def Obligations.Lattice : Prop :=
  (
  ∀ (s : State) (a : At) (u : Fin 32) (i : Inst) (n : Nat) (c : LatCtx), IssuesOn s a uNU u i n →
    let x := (arrived s a).nu n
    x.lctx = some c → c.w = x.w → 0 < c.q → ∀ (d p q : Fin 16), x.addr d + 256 * c.w ≤ nuWords →
    ∀ (f g : List Nat), polyAt x c (x.addr p) = some f → polyAt x c (x.addr q) = some g →
      let poly := fun (op : Instr) (lat : Nat) (r : List Nat) =>
        Launches op s a [(2 * lat, nuWrite n (x.addr d, coeffWords c.w (r.map (· % c.q))))]
      let two := decide (c.w = 2)
      poly (.padd a u d p q) 36 (List.zipWith (· + ·) f g) ∧
      poly (.psub a u d p q) 36 (List.zipWith (fun v w => v + (c.q - w % c.q)) f g) ∧
      poly (.pmul a u d p q false) (if two then 72 else 40) (List.zipWith (· * ·) f g) ∧
      (c.w = 1 → poly (.pmul a u d p q true) 48 (baseMul c.q c.tw f g)) ∧
      (∀ e : Bool, let l := if e then 8 else 7
        poly (.ntt a u d p e) (8 + l * (if two then 36 else 20)) (nttRun c.q c.tw l 128 1 f) ∧
        poly (.intt a u d p e) (8 + l * (if two then 36 else 20) + (if two then 20 else 8))
          ((inttRun c.q c.tw l (if e then 1 else 2) (2 ^ l - 1) f).map (fun v => v * (modInv (2 ^ l) c.q).getD 0))) ∧
      poly (.phint a u d p q true) 40 (List.zipWith (fun h r => useHint c.q c.g2 h r) f g) ∧
      poly (.phint a u d p q false) 40 (List.zipWith (fun h r => if (decompose c.q c.g2 r).1 = (decompose c.q c.g2 (r + h)).1 then 0 else 1) f g) ∧
      (∀ w : Fin 32, 1 ≤ w.val → w.val ≤ 12 →
        poly (.pcomp a u d p w) 40 (f.map (compressC c.q w)) ∧ poly (.pdecomp a u d p w) 40 (f.map (decompressC c.q w))) ∧
      (x.addr q + 256 * c.w ≤ nuWords → Launches (.psplit a u d p q) s a
        [(80, nuWrite n (x.addr d, coeffWords c.w (f.map (fun v => (decompose c.q c.g2 v).1)))),
         (80, nuWrite n (x.addr q, coeffWords c.w (f.map (fun v => (decompose c.q c.g2 v).2))))]) ∧
      (∀ b, nuRead x (x.addr q) 1 = some [b] → Launches (.pnorm a u d p q) s a
        [(80, nuWrite n (x.addr d, [if ∃ v ∈ f, b ≤ centred c.q v then 1 else 0]))]) ∧
      (∀ w : Fin 32, 1 ≤ w.val → w.val ≤ 24 → x.addr d + 16 * w.val ≤ nuWords → Launches (.pack a u d p q w false) s a
        [(2 * (6 + cdiv (256 * w.val) 288), nuWrite n (x.addr d, limbs (16 * w.val) (fieldsVal w f)))] ∧
        ∀ b, nuRead x (x.addr q) 1 = some [b] → Launches (.pack a u d p q w true) s a
          [(2 * (6 + cdiv (256 * w.val) 288), nuWrite n (x.addr d, limbs (16 * w.val) (fieldsVal w (f.map (fun v => (b + (c.q - v % c.q)) % c.q)))))])
  ) ∧ (
  ∀ (s : State) (a : At) (u : Fin 32) (i : Inst) (n : Nat), IssuesOn s a uNU u i n →
    let x := (arrived s a).nu n
    (∀ (p : Fin 16) (wide : Bool), let w := if wide then 2 else 1
      (∀ c, latticeCtx x (x.addr p) w = some c → c.w = w ∧ c.q % 2 = 1 ∧ 3 ≤ c.q ∧ c.q < 2 ^ (12 * w) ∧
        Launches (.lset a u p wide) s a [(48, .nuWidth n w), (48, .nuLat n c)]) ∧
      (latticeCtx x (x.addr p) w = none → Launches (.lset a u p wide) s a [(48, .nuWidth n w), (48, .nuRej n)])) ∧
    (∀ (c : LatCtx), x.lctx = some c → c.w = x.w → 0 < c.q → ∀ (d p q : Fin 16), x.addr d + 256 * c.w ≤ nuWords →
      let poly := fun (op : Instr) (lat : Nat) (r : List Nat) =>
        Launches op s a [(2 * lat, nuWrite n (x.addr d, coeffWords c.w (r.map (· % c.q))))]
      (∀ (w : Fin 32) ws, 1 ≤ w.val → w.val ≤ 24 → nuRead x (x.addr p) (16 * w.val) = some ws →
        poly (.unpack a u d p q w false) (6 + cdiv (256 * w.val) 288)
          ((List.range 256).map (fun j => limbVal (ws.map (· % 2 ^ 16)) / 2 ^ (w.val * j) % 2 ^ w.val)) ∧
        ∀ b, nuRead x (x.addr q) 1 = some [b] → poly (.unpack a u d p q w true) (6 + cdiv (256 * w.val) 288)
          ((List.range 256).map (fun j => b + (c.q - limbVal (ws.map (· % 2 ^ 16)) / 2 ^ (w.val * j) % 2 ^ w.val % c.q)))) ∧
      (∀ (mode : Fin 4) (cc : Fin 8) o, mode.val ≤ 1 → nuRead x (x.addr p) (168 * (cc.val + 1)) = some o →
        (256 ≤ (rejCandidates c.q mode o).length → poly (.prej a u d p q mode cc) (8 + 8 * (cc.val + 1)) ((rejCandidates c.q mode o).take 256)) ∧
        ((rejCandidates c.q mode o).length < 256 → Launches (.prej a u d p q mode cc) s a
          [(2 * (8 + 8 * (cc.val + 1)), nuWrite n (x.addr d, List.replicate (256 * c.w) 0)), (2 * (8 + 8 * (cc.val + 1)), .nuRej n)])) ∧
      (∀ (eta : Fin 8) o, 1 ≤ eta.val → eta.val ≤ 4 → nuRead x (x.addr p) (64 * eta.val) = some o →
        poly (.pcbd a u d p eta) 24 ((List.range 256).map (fun j =>
          let ones := fun off => ((List.range eta.val).filter (fun k => bit (ofLe (o.map (fun b => BitVec.ofNat 8 b))) (2 * j * eta.val + off + k))).length
          ones 0 + (c.q - ones eta.val)))) ∧
      (∀ (cc : Fin 8) o tau r, nuRead x (x.addr p) (168 * (cc.val + 1)) = some o → nuRead x (x.addr q) 1 = some [tau] → tau ≤ 256 →
        ballRun c.q (o.drop 8) tau (ofLe ((o.take 8).map (fun b => BitVec.ofNat 8 b))) (List.replicate 256 0) = some r →
        poly (.prej a u d p q 2 cc) 60 r) ∧
      (∀ (w : Fin 32) f r, (nuRead x (x.addr p) (768 * c.w)).map (coeffs c.w) = some f → nuRead x (x.addr q) 768 = some r →
        x.addr d + 768 * c.w ≤ nuWords → ∃ r0 r1 r2 : List Nat,
          Launches (.pconv a u d p q w) s a [(4108, nuWrite n (x.addr d, coeffWords c.w (r0 ++ r1 ++ r2)))] ∧
          r0.length = 256 ∧ r1.length = 256 ∧ r2.length = 256 ∧ ∀ j < 256,
            nth 0 r0 j ^^^ nth 0 r1 j ^^^ nth 0 r2 j = compressC c.q w ((nth 0 f j + nth 0 f (256 + j) + nth 0 f (512 + j)) % c.q)))
  )

/-- The transfers of a number unit (R188 to R191, Table 8.1) and RNDN. -/
def Obligations.NumberTransfers : Prop :=
  ∀ (s : State) (a : At) (u : Fin 32) (i : Inst) (n : Nat), IssuesOn s a uNU u i n →
    let b := arrived s a
    let x := b.nu n
    let reg := (b.seq a.fs).reg
    (∀ (d : Fin 16) (r : Fin 32),
      Launches (.nseta a u d r) s a [(2, .nuA n d ((reg r).truncate 16))] ∧
      Launches (.ninc a u d r) s a [(2, .nuA n d (x.a[d] + (reg r).truncate 16))] ∧
      Launches (.nstat a u r) s a [(2, .freg r (BitVec.ofNat 18 (b2n x.rej + 2 * b2n x.mctx.isSome + 4 * b2n x.lctx.isSome)))] ∧
      (x.addr d < nuWords → Launches (.nldf a u d r) s a [(2, nuWrite n (x.addr d, [(reg r).toNat]))]) ∧
      (∀ w, nuRead x (x.addr d) 1 = some [w] → Launches (.nstf a u d r) s a [(4, .freg r (BitVec.ofNat 18 w))]) ∧
      (nuRead x (x.addr d) 1 = none → Launches (.nstf a u d r) s a [(4, .freg r 0), (4, .nuRej n)]) ∧
      (let v := (reg r).toNat % 2048
       (1 ≤ v ∧ v ≤ 1024 → Launches (.nsetl a u r) s a [(2, .nuLen n v)]) ∧
       (v = 0 ∨ 1024 < v → Launches (.nsetl a u r) s a [(2, .nuLen n 0), (2, .nuRej n)])) ∧
      (∀ (c : Fin 256) (form : Fin 8), form.val ≤ 2 →
        let hp := (reg r).toNat % 2 ^ 14
        let rd := readRings b a i 0 hp (c.val + 1)
        (∀ ws, formWords form rd.2 = some ws → x.addr d + ws.length ≤ nuWords →
          exec (.nldh a u d r c form) s = .next (launch rd.1 a [(4 + 2 * (c.val + 1), nuWrite n (x.addr d, ws))])) ∧
        (∀ ws, nuRead x (x.addr d) (formLen form (c.val + 1)) = some ws →
          exec (.nsth a u d r c form) s = .next (writeRings b a i 0 (4 + 2 * (c.val + 1)) hp (blocksOf (formOctets form ws)))))) ∧
    (∀ base : Fin 512, exec (.rndn a u base) s = .next (launch (b.onInst a.fs (fun i => { i with rnd := i.rnd.drop 8 })) a
      [(4, nuWrite n (8 * base, (List.range 8).map (fun j => (nth 0 i.rnd j).toNat % 2 ^ 16)))]))

/-- RNDF, AUTH and RES, and the END family (R89, R93, R104, R196): the run ends at its step's cycle with the span that covers it. -/
def Obligations.RunsEnd : Prop :=
  ∀ (s : State) (a : At) (i : Inst), Issues s a i →
    let b := arrived s a
    let reg := (b.seq a.fs).reg
    let ends := fun (op : Instr) (again rejected : Bool) => exec op s = .next (b.onInst a.fs (fun j => { j with
      ended := some a.cyc, span := max 1 ((a.cyc + 359) / 360), again := again && !instRej b i, rejected := rejected || instRej b i }))
    (∀ r : Fin 32, exec (.rndf a r) s = .next (launch (b.onInst a.fs (fun i => { i with rnd := i.rnd.drop 1 })) a [(2, .freg r (nth 0 i.rnd 0))])) ∧
    (∀ r : Fin 32, Launches (.auth a r) s a [(1, .auth ((reg r).getLsbD 0))]) ∧
    (∀ (k : Fin 8) (r : Fin 32), Launches (.res a k r) s a [(1, .res k (reg r))]) ∧
    ends (.endRun a) false false ∧
    (∀ r : Fin 32, ends (.endReject a r) false (decide (reg r ≠ 0)) ∧
      ends (.endRepeat a r) (decide (reg r ≠ 0 ∧ i.run < i.hdr.repeatMax)) (decide (reg r ≠ 0 ∧ i.hdr.repeatMax ≤ i.run)))

/-- A lane that holds no key for a block operation is the contract monitor's cause 3, and one whose key cannot serve it, or a tweak beyond alpha to the power 2^20, cause 4 (R141, R142,
R150, Table 4.11).
A cell that the instance does not hold is the contract monitor's cause 1 (R115, Table 4.11), for a lane group, tweak unit, digest unit or number unit: the instance is stopped,
replayable, and CMF shows it. -/
def Obligations.RefusedAndUnheld : Prop :=
  (
  ∀ (s : State) (a : At) (u : Fin 32) (m : BitVec 8) (i : Inst) (g : Nat), IssuesOn s a uLG u i g →
    let b := arrived s a
    let ls := lanesOf g m
    ∀ (op : Instr) (o : BlockKind), (op, o) ∈ ([(.aese a u m, .aese), (.aesd a u m, .aesd), (.ctre a u m, .ctre), (.ctrk a u m, .ctrk),
        (.cbcd a u m, .cbcd), (.cmacb a u m, .cmacb), (.xtse a u m, .xtse), (.xtsd a u m, .xtsd)] : List (Instr × BlockKind)) →
      ((∃ n ∈ ls, (b.lane n).key = none) → exec op s = .next (monitor b a 3)) ∧
      ((∀ n ∈ ls, (b.lane n).key ≠ none) →
        (∃ n ∈ ls, ∃ k, (b.lane n).key = some k ∧ (k.inv ≠ o.inverse ∨ bindingAdmits o k = false ∨
          ((b.lane n).spent = true ∧ (o = .ctre ∨ o = .ctrk)))) → exec op s = .next (monitor b a 4))
  ) ∧ (
  ∀ (s : State) (a : At) (u : Fin 32) (i : Inst), Issues s a i → ∀ (op : Instr) (ty : Nat),
    (op, ty) ∈ ([(.xorb a u 1, uLG), (.movb a u 1, uLG), (.gclr a u, uLG), (.twn a u, uXT), (.dcomp a u, uDU), (.nstat a u 1, uNU)] : List (Instr × Nat)) →
    boundCol i ty u a.cyc = none →
    ∃ t j, exec op s = .next t ∧ (t.seq a.fs).inst = some j ∧ j.stop = some .replayable ∧ t.on Reg.FLOOR_STAT_CMF = true ∧
      (∀ l ∈ j.flight, l.issued ≠ a.cyc)
  )

/-- FLOOR_COMMIT, and the actions on lanes, digest units and number units (R111, R159, R160, R176, R200, Tables 6.16, 7.7 and 8.6): what is asked for, and what finishing does.
The mask expanders (R145 to R147): an allotment enters its lane's buffers, of which there are two; a seed that has arrived is absorbed; 2^22 permutations without one take the
reel's lane groups and tweak unit out of service. -/
def Obligations.UnitsAndExpanders : Prop :=
  (
  ∀ (s : State),
    (∃ t, exec .floorCommit s = .next t ∧ t = s.flag Reg.FLOOR_CTL_COMMIT true ∧ t.on Reg.FLOOR_CTL_COMMIT = true) ∧
    (∀ (reel lane : Fin 32), ∀ op act, (op, act) ∈ ([(.laneGroupTest reel lane, 0), (.laneReinstate reel lane, 1), (.laneRetire reel lane, 2)] : List (Instr × Nat)) →
      ∃ t, exec op s = .next t ∧ t.on (Reg.LANE_CMD_GO reel) = true ∧ t.rd (Reg.LANE_CMD_LANE reel) = lane ∧ t.rd (Reg.LANE_CMD_ACTION reel) = act ∧
        t = { s with regs := t.regs }) ∧
    (∀ reel : Fin 32, ∃ t, exec (.spareTest reel) s = .next t ∧ t.on (Reg.LANE_CMD_GO reel) = true ∧ t.rd (Reg.LANE_CMD_ACTION reel) = 3 ∧
      t = { s with regs := t.regs }) ∧
    (∀ (reel : Fin 32) (pass : Bool), s.on (Reg.LANE_CMD_GO reel) = true → ∃ t, exec (.laneActionDone reel pass) s = .next t ∧
      t.on (Reg.LANE_CMD_GO reel) = false ∧ t.on (Reg.LANE_RESULT_DONE reel) = true ∧
      (s.rd (Reg.LANE_CMD_ACTION reel) = 3 → t.on (Reg.LANE_RESULT_PASS reel) = pass ∧ t.on (Reg.REEL_STAT_SPARE_OOS reel) = !pass)) ∧
    (∀ u : Fin 64, ∀ op act, (op, act) ∈ ([(.duTest u, 0), (.duReinstate u, 1), (.duRetire u, 2)] : List (Instr × Nat)) →
      ∃ t, exec op s = .next t ∧ t.on (Reg.DU_CMD_GO u) = true ∧ t.rd (Reg.DU_CMD_ACTION u) = act ∧ t = { s with regs := t.regs }) ∧
    (∀ (u : Fin 64) (ok : Bool), s.on (Reg.DU_CMD_GO u) = true → ∃ t, exec (.duActionDone u ok) s = .next t ∧
      t.on (Reg.DU_CMD_GO u) = false ∧ t.on (Reg.DU_RESULT_DONE u) = true ∧
      (s.rd (Reg.DU_CMD_ACTION u) = 2 ∨ ok = false → t.on (Reg.DU_STAT_OOS u) = true ∧ t.on Reg.FLOOR_CTL_COMMIT = true) ∧
      (s.rd (Reg.DU_CMD_ACTION u) = 1 → ok = true → t.on (Reg.DU_STAT_OOS u) = false)) ∧
    (∀ u : Fin 16, ∀ op act, (op, act) ∈ ([(.nuTest u, 0), (.nuReinstate u, 1), (.nuRetire u, 2)] : List (Instr × Nat)) →
      ∃ t, exec op s = .next t ∧ t.on (Reg.NU_CMD_GO u) = true ∧ t.rd (Reg.NU_CMD_ACTION u) = act ∧ t = { s with regs := t.regs }) ∧
    (∀ (u : Fin 16) (ok : Bool), s.on (Reg.NU_CMD_GO u) = true → ∃ t, exec (.nuActionDone u ok) s = .next t ∧
      t.on (Reg.NU_CMD_GO u) = false ∧ t.on (Reg.NU_RESULT_DONE u) = true ∧
      (s.rd (Reg.NU_CMD_ACTION u) = 2 ∨ ok = false → t.on (Reg.NU_STAT_OOS u) = true ∧ t.on Reg.FLOOR_CTL_COMMIT = true) ∧
      (s.rd (Reg.NU_CMD_ACTION u) = 1 → ok = true → t.on (Reg.NU_STAT_OOS u) = false))
  ) ∧ (
  ∀ (s : State) (reel lane : Fin 32),
    (∃ t al, exec (.maskExpanderAllotment reel lane) s = .next t ∧
      (t.lane (32 * reel + lane)).rnd = (if 2 ≤ (s.lane (32 * reel + lane)).rnd.length then (s.lane (32 * reel + lane)).rnd.drop 1 else (s.lane (32 * reel + lane)).rnd) ++ [al] ∧
      (∀ n, n ≠ 32 * reel.val + lane.val → t.lane n = s.lane n)) ∧
    (∀ sd, (s.expander reel).seed = some sd → ∃ t, exec (.expanderReseed reel) s = .next t ∧ (t.expander reel).seed = none ∧
      (t.expander reel).perms = 0 ∧ t.on (Reg.REEL_STAT_MX_STALE reel) = false) ∧
    (2 ^ 22 ≤ (s.expander reel).perms → ∃ t, exec (.expanderStale reel) s = .next t ∧ t.on (Reg.REEL_STAT_MX_STALE reel) = true ∧
      t.on Reg.FLOOR_CTL_COMMIT = true ∧ (∀ c ∈ [4 * reel.val, 4 * reel.val + 1, 4 * reel.val + 2, 4 * reel.val + 3, 128 + reel.val], ∀ p < 64, t.rd (Reg.CARD_SHADOW c p) = 0xFFE))
  )

/-! ### The host interface (spec/13) -/

/-- Tails, heads, and fetches of a ring queue (R311): a tail within the ring and not behind the last one is taken and another one dropped with ACC_ERR; a head that
releases only entries written is taken; the next command at the head is fetched whole while an entry of the completion ring is free, and waits Queued.
Push windows (R312): one write of a whole command at the window's first octet enters the queue while an entry is free; with none free PUSH_OVF sets with its event;
any other write is dropped with ACC_ERR.
Queue entries (R309): a write that enables a queue which nothing forbids takes its fields, starts both rings at 0 and sets ACTIVE; one that enables a queue beyond the
function's, or a depth or vector out of range, changes only CFG_CAUSE; an idle enabled queue is disabled and one that holds commands is not; an interrupt is sent once
Q_MOD.TIME has passed; an access that is not aligned is dropped with ACC_ERR. -/
def Obligations.Queues : Prop :=
  (
  ∀ (s : State) (f : Fin 2050) (q : Fin 256), reachable s f = true → s.on (Reg.Q_CTL_ENABLE (qx f q)) = true →
    let x := qx f q
    let y := s.q x
    let d := s.depth x
    (∀ v : BitVec 32, v.toNat < 4096 →
      (s.on (Reg.Q_CTL_PUSH x) = false → v.toNat < d → ringFwd d y.sqHead y.sqTail ≤ ringFwd d y.sqHead v.toNat →
        exec (.sqTail f q v) s = .next (s.setQ x { y with sqTail := v.toNat })) ∧
      (s.on (Reg.Q_CTL_PUSH x) = true ∨ d ≤ v.toNat ∨ ringFwd d y.sqHead v.toNat < ringFwd d y.sqHead y.sqTail →
        exec (.sqTail f q v) s = .next (accErr s f)) ∧
      (v.toNat < d → ringFwd d y.cqHead v.toNat + (s.heldOf f q).length ≤ y.inUse →
        exec (.cqHead f q v) s = .next (s.setQ x { y with cqHead := v.toNat, inUse := y.inUse - ringFwd d y.cqHead v.toNat })) ∧
      (d ≤ v.toNat → exec (.cqHead f q v) s = .next (accErr s f))) ∧
    (∀ (ide : Bool) (data : List Octet), s.on (Reg.Q_CTL_PUSH x) = false → f.val ∉ s.d3 → s.halting = false → y.inUse < d →
      let n := 1 + leAt data 1 1 / 64
      let h := (y.sqHead + n) % d
      let b := (s.setQ x { y with sqHead := h }).wr (Reg.Q_SQHEAD x) h
      let c := Cmd.fresh s.nextUid f q (fitOctets (64 * n) data)
      n ≤ ringFwd d y.sqHead y.sqTail → spoofStatus b c ide = 0 → frozenFn s f = false →
      exec (.commandFetch f q ide data) s = .next { b.setQ x { y with sqHead := h, inUse := y.inUse + 1 } with
        cmds := s.cmds ++ [c], nextUid := s.nextUid + 1 })
  ) ∧ (
  ∀ (s : State) (f : Fin 2050) (q : Fin 256) (ide : Bool) (data : List Octet), reachable s f = true → s.on (Reg.Q_CTL_ENABLE (qx f q)) = true →
    s.on (Reg.Q_CTL_PUSH (qx f q)) = true →
    let x := qx f q
    let y := s.q x
    let c := Cmd.fresh s.nextUid f q data
    (data.length = 64 * (1 + leAt data 1 1 / 64) →
      (y.inUse < s.depth x → spoofStatus s c ide = 0 → frozenFn s f = false → exec (.pushWrite f q 0 true ide data) s = .next { s with
        queues := tset QueueSt.fresh s.queues x { y with inUse := y.inUse + 1 }, cmds := s.cmds ++ [c], nextUid := s.nextUid + 1 }) ∧
      (y.inUse < s.depth x → ∀ st, spoofStatus s c ide = st → st ≠ 0 → st ≠ 0x41 → exec (.pushWrite f q 0 true ide data) s = .next { s with
        queues := tset QueueSt.fresh s.queues x { y with inUse := y.inUse + 1 }, nextUid := s.nextUid + 1
        cmds := s.cmds ++ [{ c with ph := CmdPhase.completing, status := st }] }) ∧
      (s.depth x ≤ y.inUse → exec (.pushWrite f q 0 true ide data) s = .next (fnEvent (s.flag (Reg.Q_STAT_PUSH_OVF x) true) f 2))) ∧
    (∀ (off : BitVec 8) (one : Bool), off ≠ 0 ∨ one = false ∨ data.length ≠ 64 * (1 + leAt data 1 1 / 64) →
      exec (.pushWrite f q off one ide data) s = .next (accErr s f))
  ) ∧ (
  ∀ (s : State) (f : Fin 2050) (q : Fin 256) (v : BitVec 32), reachable s f = true →
    let x := qx f q
    let en := v.toNat / 2 * 2 + 1
    let ld := v.toNat / 256 % 16
    let vec := v.toNat / 65536 % 512
    (s.on (Reg.Q_CTL_ENABLE x) = false →
      (s.rd (Reg.FUNC_CAP_QUEUES f) ≤ q → exec (.queueEnable f q v) s = .next (s.wr (Reg.Q_STAT_CFG_CAUSE x) 1)) ∧
      (q < s.rd (Reg.FUNC_CAP_QUEUES f) → v.toNat / 2 % 2 = 0 → ld < 4 ∨ 12 < ld → exec (.queueEnable f q v) s = .next (s.wr (Reg.Q_STAT_CFG_CAUSE x) 2)) ∧
      (q < s.rd (Reg.FUNC_CAP_QUEUES f) → v.toNat / 2 % 2 = 0 → 4 ≤ ld → ld ≤ 12 → s.rd (Reg.FUNC_CAP_VECTORS f) ≤ vec →
        exec (.queueEnable f q v) s = .next (s.wr (Reg.Q_STAT_CFG_CAUSE x) 3)) ∧
      (q < s.rd (Reg.FUNC_CAP_QUEUES f) → v.toNat / 2 % 2 = 0 → 4 ≤ ld → ld ≤ 12 → vec < s.rd (Reg.FUNC_CAP_VECTORS f) →
        s.rd (Reg.CQ_BASE_LO x) % 64 = 0 → s.rd (Reg.SQ_BASE_LO x) % 64 = 0 → (s.fn f).held = [] →
        exec (.queueEnable f q v) s = .next (((((((((s.wr (Reg.Q_CTL_VECTOR x) (en / 65536)).wr (Reg.Q_CTL_LDEPTH x) (en / 256)).wr (Reg.Q_CTL_FAILFAST x)
          (en / 4)).wr (Reg.Q_CTL_PUSH x) (en / 2)).flag (Reg.Q_CTL_ENABLE x) true).flag (Reg.Q_STAT_ACTIVE x) true).setQ x QueueSt.fresh).wr
          (Reg.Q_SQHEAD x) 0).setFn f (s.fn f))) ∧
      exec (.queueDisable f q v) s = .next ((((s.wr (Reg.Q_CTL_VECTOR x) (v.toNat / 2 * 2 / 65536)).wr (Reg.Q_CTL_LDEPTH x) (v.toNat / 2 * 2 / 256)).wr
        (Reg.Q_CTL_FAILFAST x) (v.toNat / 2 * 2 / 4)).wr (Reg.Q_CTL_PUSH x) (v.toNat / 2 * 2 / 2))) ∧
    (s.on (Reg.Q_CTL_ENABLE x) = true →
      (s.heldOf f q = [] → exec (.queueDisable f q v) s = .next ((s.flag (Reg.Q_CTL_ENABLE x) false).flag (Reg.Q_STAT_ACTIVE x) false)) ∧
      (s.heldOf f q ≠ [] → exec (.queueDisable f q v) s = .next (accErr (s.wr (Reg.Q_STAT_CFG_CAUSE x) 6) f))) ∧
    ((s.q x).since ≠ 0 → s.rd (Reg.Q_MOD_TIME x) ≠ 0 → exec (.msixModerationTimer f q) s =
      .next (raiseVector (s.setQ x { s.q x with since := 0 }) f (s.rd (Reg.Q_CTL_VECTOR x)))) ∧
    exec (.hostMisalignedAccess f) s = .next (accErr s f)
  )

/-- Transfers of a command's data (R124, R125): its ring is staged with the input and zeros; a drained page takes the next input; a released page's octets go to the output;
a completed vault fetch lets the key operand go on.
One place of a function's staging window takes the oldest Queued command of the next queue that has any (R480); and the completion at the front of a queue is written with
its phase bit, the tail moves on, and what the command held returns (R130, R313). -/
def Obligations.StagingAndCompletion : Prop :=
  (
  ∀ (s : State) (r : CmdRef) (c : Cmd) (h : FigHdr) (data : List Octet), s.cmd c.uid = some c → s.figHdr c.figure = some h →
    (findCmd s r (fun k => decide (k.opc = 1) && (decide (k.ph = CmdPhase.ingress ∧ k.order = 8) ||
        (decide (k.ph = CmdPhase.placed) && k.refill.any (fun p => decide ((s.page p).phase = .drained))))) = some c →
      (c.ph = CmdPhase.ingress → resumesDigest c = false → (wordsFor c h).1 = 0 →
        let o := fitOctets (min c.inLen h.ring) data
        exec (.stagingDmaDone r data) s = .next ((fillRing s c.pages o).onCmd c.uid (fun k => { k with order := 10, inp := o, staged := o.length }))) ∧
      (c.ph = CmdPhase.placed → ∀ p, c.refill.find? (fun p => decide ((s.page p).phase = .drained)) = some p →
        let n := min 4096 (c.inLen - c.staged)
        exec (.stagingDmaDone r data) s = .next ((fillOnePage s p (fitOctets n data)).onCmd c.uid (fun k => { k with
          refill := k.refill.erase p, staged := k.staged + n })))) ∧
    (findCmd s r (fun k => decide (k.ph = CmdPhase.placed) && k.refill.any (fun p => decide ((s.page p).phase = .released))) = some c →
      ∀ p, c.refill.find? (fun p => decide ((s.page p).phase = .released)) = some p → pagesBad s c = false →
      let o := (pageHeld s p).take (c.outLen - c.out.length)
      ∃ t, exec (.pageDrainDone r) s = .next t ∧ (t.page p) = { s.page p with phase := .drained } ∧
        t.cmd c.uid = some { c with out := c.out ++ o, drained := c.drained + 1, outw := c.out.length + o.length } ∧
        (∀ q, (t.seq q).inst = (s.seq q).inst.map (fun i => if i.uid = c.uid then { i with drained := true } else i))) ∧
    (findCmd s r (fun k => decide (k.opc = 1 ∧ k.ph = CmdPhase.ingress ∧ k.wait = [waitLoad])) = some c →
      exec (.keyCacheLoadDone r) s = .next (advance (s.onCmd c.uid (fun k => { k with wait := [] })) c.uid true))
  ) ∧ (
  ∀ (s : State) (f : Fin 2050) (q : Fin 256) (c : Cmd),
    (nextQueue s f = some q.val → s.cmds.find? (fun e => decide (e.func = f.val ∧ e.queue = q.val ∧ e.ph = CmdPhase.queued)) = some c →
      (s.fn f).freezing = false → s.halting = false →
      (s.cmds.filter (fun e => decide (e.func = f.val) && e.inWindow)).length < max 1 (s.rd (Reg.ADM_WIN_STAGE_WIN f)) →
      exec (.ingressAdmit f) s = .next ((s.onCmd c.uid (fun e => { e with ph := CmdPhase.ingress })).setFn f { s.fn f with lastQ := q.val })) ∧
    (let x := qx f q
     let y := s.q x
     s.cmds.find? (fun e => decide (e.func = f.val ∧ e.queue = q.val ∧ e.ph = CmdPhase.completing)) = some c → f.val ∉ s.d3 →
      s.on (Reg.Q_CTL_ENABLE x) = true → (s.fn f).freezing = false → s.rd (Reg.Q_MOD_TIME x) = 0 →
      exec (.completionWrite f q) s = .next (raiseQueue (releaseAll { s with
        sent := s.sent ++ [Sent.completion f q y.cqTail (completionEntry s c y.phase) (resultSlot c) c.out]
        queues := tset QueueSt.fresh s.queues x
          { y with cqTail := (y.cqTail + 1) % s.depth x, phase := y.phase != decide (s.depth x ≤ y.cqTail + 1), since := y.since + 1 }
        cmds := s.cmds.filter (fun e => decide (e.uid ≠ c.uid)) } c) f x))
  )

/-- Ports (R304, R306, R321, R329, R330, Table 13.1): a report leaves the FIFO at its head; links, power states and VF enables change as the host sets them; an FLR of a VF with nothing at hand
clears its registers, queues and MSI-X table, reports 0 discarded commands and makes no record; PERST and hot reset break the port's tokens, end its lead, its SPDM sessions, its IDE keys and its
FLR reports, and take the link down. -/
def Obligations.PortsAndFunctionResets : Prop :=
  ∀ (s : State) (p : Fin 2) (f : Fin 2050),
    (∀ e l, tget [] s.flrs p = e :: l → exec (.flrReportPop p) s = .next (showReport { s with flrs := tset [] s.flrs p l } p)) ∧
    ((s.port p).perst = false → (p = 0 ∨ s.rst.split = true) → s.rst.por = false →
      exec (.linkUp p) s = .next (s.setPort p { s.port p with link := true, l1 := false })) ∧
    ((s.port p).link = true → exec (.l1Entry p) s = .next (s.setPort p { s.port p with l1 := true })) ∧
    (∀ on : Bool, s.fnState (pfOf p) ≠ 0 → exec (.configSpaceSet (.vfEnable p on)) s = .next (s.setPort p { s.port p with vfEnable := on })) ∧
    (∀ d3 : Bool, ∃ l, exec (.configSpaceSet (.power f d3)) s = .next { s with d3 := l } ∧ ∀ g, g ∈ l ↔ (if g = f.val then d3 = true else g ∈ s.d3)) ∧
    (∀ f : Fin 2048, s.mode ≠ mSleep → s.fnState f ≠ 0 → s.cmds.filter (fun c => decide (c.func = f.val)) = [] → (s.fn f).held = [] →
      let z := { s with
        regs := flrRegs f s.regs
        queues := s.queues.filter (fun e => !decide (256 * f.val ≤ e.1 ∧ e.1 < 256 * (f.val + 1)))
        msix := s.msix.filter (fun e => !decide (512 * f.val ≤ e.1 ∧ e.1 < 512 * (f.val + 1))) }.setFn f (s.fn f)
      exec (.vfFlr f) s = .next (pushReport z (portOf z f) f 0)) ∧
    (∀ i ∈ [Instr.perstAssert p, Instr.hotReset p, Instr.linkDown p], (p = 0 ∨ s.rst.split = true) → ∃ t, exec i s = .next t ∧
      (t.port p).link = false ∧ (t.port p).vfEnable = false ∧ (t.port p).spdm = Spdm.reset ∧ tget [] t.flrs p = [] ∧
      (∀ c ∈ t.cmds, c.func = pfOf p → c.ph = CmdPhase.placed)) ∧
    (s.mode ≠ mSleep → s.fnState (pfOf p) ≠ 0 → vfsOf s p = [] → exec (.pfFlr p) s = .next (functionReset (pfLapses s p) (pfOf p)) ∧
      ((pfLapses s p).port p).vfEnable = false) ∧
    (s.rst.por = false → s.rst.loadStop = false → exec (.perstRelease p) s = .next { s.setPort p { s.port p with perst := false } with
      rst := { s.rst with now := clearBit s.rst.now (5 + p) } })

/-! ### Commands on their way to and from the floor (spec/05, R119 to R135) -/

/-- The measure boundary (R92, R130, R131, R111, R128): it happens while the floor runs; the measure count rises modulo 2^36; entry into Fault or a warm reset stops the floor; else
runs end in their order, the live card, residency, grants, placement and PRESSURE follow. A run that ended forms its completion with its status, and one that replays its body starts again. -/
def Obligations.MeasureBoundary : Prop :=
  ∀ s : State,
    (s.mcount < 2 ^ 36 → (countMeasure s).mcount = (s.mcount + 1) % 2 ^ 36) ∧
    (floorRuns s = false → exec .measureBoundary s = .next s) ∧
    (floorRuns s = true →
      let b := pruneFaults (turnExpanders (countMeasure s))
      (b.halting = true → exec .measureBoundary s = .next { stopFloor b with halting := (stopFloor b).rst.warmReq.isSome }) ∧
      (b.halting = false →
        let d := applyFixed (dropUnpinned (residencyBoundary (commitCard ((endOrder b.mcount b).foldl (boundarySeq b.mcount) b))))
        ((tenantRefusal d).isSome = true → exec .measureBoundary s = .next d) ∧
        (tenantRefusal d = none → ∃ e, e = placements b.mcount (makeReady (grants b.mcount (retryIngress d))) ∧
          exec .measureBoundary s = .next ((allFunctions d).foldl pressureOf e)))) ∧
    (∀ (m q : Nat) (i : Inst) (c : Cmd), (s.seq q).inst = some i → i.flight = [] → s.cmd i.uid = some c → i.stop = none → i.bstop = none →
      let t := 360 * ((m + 2 ^ 36 - i.start) % 2 ^ 36)
      landDue (landDue s q (t - 1)) q t = s →
      (i.ended.isSome = true → i.again = false → c.abortAt = none →
        boundarySeq m s q = resolveAborts (formCompletion (releaseUnits s q i) c i (endStatus i)) c.uid (if endStatus i = 1 then 1 else 2) ∧
        ((releaseUnits s q i).seq q).inst = none) ∧
      (c.abortAt.isSome = true → (i.ended = none ∨ i.again = true) →
        boundarySeq m s q = resolveAborts (formCompletion (releaseUnits s q i) c i 1) c.uid 1) ∧
      (i.ended.isSome = true → i.again = true → c.abortAt = none →
        ((boundarySeq m s q).seq q).inst = some { i with run := i.run + 1, start := m, cyc := 0, step := 0, ended := none, again := false, flight := [] })) ∧
    (∀ (fid : BitVec 16) (dest : List Nat) (steps : List StepWord), s.floor.loads.find? (fun l => decide (l.1 < 2 ^ 16)) = some (fid.toNat, dest, steps) →
      ∃ t, exec (.figureLoadDone fid) s = .next t ∧ (∀ q ∈ dest, ∀ e, loadingEntry s fid.toNat q = some e →
        ∀ k < steps.length, tget 0 (t.seq q).fmem (s.rd (Reg.RES_BASE q e) + k) = nth 0 steps k) ∧ t.cmds = s.cmds ∧ t.regs = s.regs)

/-- RUN (Table 5.2): the status of the first order that refuses; a command that needs no key, page, input or random word is ready for placement at once; one with a key
operand that hits the cache charges its use, pins the key's slot and takes the counter base (R233, R236, Table 10.10).
ABORT (Table 5.3): a target not found or already ended answers 0; one that has not been placed ends with ABORTED and answers 1; a placed one is settled at its boundary. -/
def Obligations.RunsAdmitted : Prop :=
  (
  ∀ (s : State) (r : CmdRef) (c : Cmd), s.cmd c.uid = some c → findCmd s r (fun k => decide (k.opc = 1 ∧ k.ph = CmdPhase.ingress ∧ k.order = 0)) = some c →
    let refused := fun (st r0 : Nat) => exec (.run r) s = .next (refuseCmd s c.uid st r0)
    (s.mode = mZeroized → refused 0x7E 0) ∧ (s.mode = mFault → refused 0x7F 0) ∧ (s.mode = mMigrationFreeze → refused 0x60 0) ∧
    (s.mode = mUncommissioned ∨ s.mode = mDiagnostic ∨ s.mode = mDebug → refused 0x43 22) ∧
    (tenantRefusal s = none → frozenFn s c.func = true → refused 0x60 0) ∧
    (tenantRefusal s = none → frozenFn s c.func = false → permitted s c.func c.figure = false → refused 0x40 0) ∧
    (tenantRefusal s = none → frozenFn s c.func = false → permitted s c.func c.figure = true → figurePlaceable s c.func c.figure = false → refused 1 0) ∧
    (∀ h, tenantRefusal s = none → frozenFn s c.func = false → permitted s c.func c.figure = true → figurePlaceable s c.func c.figure = true →
      s.figHdr c.figure = some h →
      (shapeOkRun s c h = false → refused 0x30 0) ∧
      (shapeOkRun s c h = true → h.nPages = 0 → kputTargets h = [] → c.inLen = 0 → c.pages = [] → c.keys = [] → resumesDigest c = false → (wordsFor c h).1 = 0 →
        (h.nKeys = 0 → (∀ o ∈ c.ivc, o = 0) → exec (.run r) s = .next (s.onCmd c.uid (fun k => { k with
          order := 10, wait := [], kput := [], inp := [], staged := 0 }))) ∧
        (∀ n, let hd := c.handle 0
          let o := s.obj (hRec hd)
          let k := s.slot n
          let cb := counterBinding s hd k
          h.nKeys = 1 → h.fid ≠ 0x0061 → s.domState (hDom hd) = 1 → s.rd Reg.KS_STAT_VAULT = 2 → cachedSlot s hd = some n → operandOk c h 0 k true = true →
          ivcOk c cb = true → counterEnds c cb = false → leaseBefore s c hd = false → (o.limit = 0 ∨ (o.count < o.limit ∧ o.count < o.countMark)) →
          o.count + 1 < 2 ^ 40 - 1 → (c.dir = true ∨ (cb ≠ 1 ∧ cb ≠ 2)) →
          exec (.run r) s = .next ((pinSlot (putObj s (hRec hd) { o with count := o.count + 1 }) n).onCmd c.uid (fun e => { e with
            keys := [some n], lease := false, wait := [], order := 10, kput := [], inp := [], staged := 0
            base := (counterBase s c cb 0).1, baseWidth := (counterBase s c cb 0).2 })))))
  ) ∧ (
  ∀ (s : State) (r : CmdRef) (c : Cmd), adminCmd s r 2 = some c → adminRefusal s c [] = none →
    let target := s.cmds.find? (fun t => decide (t.func = c.func ∧ t.queue = leAt c.short 0 2 ∧ t.cid = leAt c.short 2 2 ∧ t.uid ≠ c.uid))
    let ends := fun (b : State) (n : Nat) => exec (.abort r) s = .next (endCmd b c.uid (fun k => { k with status := 0, res := [(0, BitVec.ofNat 18 n)] }))
    (target = none → ends s 0) ∧
    (∀ t, target = some t →
      (t.ph = CmdPhase.queued ∨ t.ph = CmdPhase.ingress ∨ t.ph = CmdPhase.ready → ends (refuseCmd s t.uid 1 0) 1) ∧
      (t.ph = CmdPhase.completing ∨ t.ph = CmdPhase.held → ends s 0) ∧
      (t.ph = CmdPhase.placed → exec (.abort r) s = .next ((s.onCmd t.uid (fun k => { k with abortAt := some 0 })).onCmd c.uid (fun k => { k with
        inv := some t.uid }))))
  )

/-! ### Keys (spec/10) -/

/-- A key object takes the lowest free run of records; its handle carries a generation one above the record's last (R226, R228). KEY_GENERATE draws its material from the DRBG, or makes a
key pair; KEY_DERIVE takes its parent's child template and a value of IMPORT_SEQ; both wait for the commit of the pages they changed (R246 to R248).
KEY_RESTRICT, KEY_INFO, KEY_DESTROY (R249, R250, Table 10.12): attributes and limit only shrink; KEY_INFO shows the HEAD record's first 64 octets with KEY_CHECK zero; a destroyed key's record is
DESTROYED with its generation. Each drops the key from the cache where it changes it, makes its record, and tells the replicas. -/
def Obligations.Keys : Prop :=
  (
  ∀ (s : State) (r : CmdRef) (blk : List Octet) (c : Cmd) (b : State) (x : Option Ballot),
    let w := b.who c.func
    (∀ (k : Obj) (f : Nat), findRun b k.nRec = some f → quotaFull b k.dom k.nRec = false → mapGen (b.vmap f) < 0xFFF →
      (createObj b k).2 = .ok (handleOf k.dom f (mapGen (b.vmap f) + 1)) ∧ (createObj b k).1.vmap f = mapEntry 1 (mapGen (b.vmap f) + 1)) ∧
    (∀ (k : Obj), findRun b k.nRec = none → createObj b k = (b, .error 1)) ∧
    (Passes s r 0x10 blk c b x → blk.length = 32 →
      let o := templateOf blk
      let n := matLen o.binding o.bits
      o.flags ≤ 3 → o.dom < 4096 → leAt blk 9 1 = 0 → leAt blk 0xE 2 = 0 → leAt blk 0x15 11 = 0 → b.role o.dom ≠ 2 → b.domState o.dom = 1 →
      b.rd Reg.KS_STAT_VAULT = 2 → o.admitted = true → b.drbg.isSome = true → creatable b { o with mat := List.replicate n 0 } = 0 →
      (o.binding < 0x20 →
        let p := drawRandom b (16 * ((o.bits + 127) / 128))
        let k := { o with mat := p.1.take n }.started p.2 none
        ∀ h d, createObj p.2 k = (d, .ok h) →
          let e := creationRecords d w 0x0201 0 [] h k
          Answers (.keyGenerate r blk) s c (plxKey e (leAt (leOctets 8 h) 0 8)) 0 (leOctets 8 h) (changedPages e k.dom (hRec h) k.nRec)) ∧
      (0x20 ≤ o.binding →
        let p := b.freeOctets 64
        let m := fitOctets n (Config.keyMaterial o.binding o.bits p.1)
        let k := { o with mat := m }.started p.2 none
        let pub := Config.publicKey o.binding m
        ∀ h d, createObj p.2 k = (d, .ok h) →
          let e := creationRecords d w 0x0201 0 [] h k
          Answers (.keyGenerate r blk) s c (plxKey e (leAt (leOctets 8 h ++ pub) 0 8)) 0 (leOctets 8 h ++ pub) (changedPages e k.dom (hRec h) k.nRec))) ∧
    (Passes s r 0x11 blk c b x → leAt blk 0 1 ≤ 3 → leAt blk 1 1 = 0 → leAt blk 2 2 ≤ 64 → blk.length = 4 + leAt blk 2 2 → b.role (hDom c.key0) ≠ 2 →
      ∀ b0 parent, openObj b c.key0 false = (b0, .ok parent) →
      let p := b0.obj parent
      let k : Obj := ⟨p.cBinding, p.cBits, p.dom, leAt blk 0 1, p.cAttr, if bit p.cAttr aDerive then p.cBinding else 0, p.cAttr, p.cBits, 0, 0, 0, 0, 0, 0,
        deriveMat p (octAt blk 4 (leAt blk 2 2))⟩
      bit p.attr aDerive = true → k.admitted = true → creatable b0 k = 0 →
      ∀ b1 v, takeImport b0 (importBlocked b0) = (b1, .made v) →
      let o := k.started b1 (some v)
      ∀ h d, createObj b1 o = (d, .ok h) →
        let e := creationRecords d w 0x0202 0 [] h o
        Answers (.keyDerive r blk) s c (plxKey e (leAt (leOctets 8 h) 0 8)) 0 (leOctets 8 h) (changedPages e o.dom (hRec h) o.nRec))
  ) ∧ (
  ∀ (s : State) (r : CmdRef) (blk : List Octet) (c : Cmd) (b : State) (x : Option Ballot) (b0 : State) (f : Nat),
    let w := b.who c.func
    let h := c.key0
    let o := b0.obj f
    (Passes s r 0x12 blk c b x → blk.length = 12 → leAt blk 9 3 = 0 → b.role (hDom h) ≠ 2 → openObj b h false = (b0, .ok f) →
      let lim := leAt blk 4 5
      attrWithin (leAt blk 0 2) o.attr = true → attrWithin (leAt blk 2 2) o.cAttr = true → (lim = 0 ∨ (o.limit ≠ 0 ∧ lim ≤ o.limit)) →
      let o' := { o with attr := leAt blk 0 2, cAttr := leAt blk 2 2, limit := if lim = 0 then o.limit else lim }
      Answers (.keyRestrict r blk) s c (plxKeyLess (recordFor (putObj (dropCached b0 h) f o') w 0x0203 0 (keyPayload h o' 0 [])) h) 0 [] (objPages f o.nRec)) ∧
    (Passes s r 0x13 [] c b x → openObj b h true = (b0, .ok f) → Answers (.keyInfo r) s c b0 0 (o.header ++ List.replicate 8 0) []) ∧
    (Passes s r 0x14 blk c b x → blk.length = 8 → leAt blk 0 8 = h → b.role (hDom h) ≠ 2 → openObj b h false = (b0, .ok f) →
      let e := recordFor (destroyObj b0 f) w 0x0204 0 (keyPayload h o 0 [])
      Answers (.keyDestroy r blk) s c (plxKeyGone e h) 0 [] (changedPages e o.dom f o.nRec)) ∧
    (∀ n : Nat, n = max 1 (leAt (b0.vrec f) 6 1) → (∀ i < n, mapGen (b0.vmap (f + i)) < 0xFFF) →
      (destroyObj b0 f).vmap f = mapEntry 3 (mapGen (b0.vmap f)))
  )

/-- KEY_EXPORT and KEY_IMPORT (R251 to R255), and ATTEST (R295, R298). -/
def Obligations.KeyTransferAndAttest : Prop :=
  ∀ (s : State) (r : CmdRef) (blk : List Octet) (c : Cmd) (b : State) (x : Option Ballot),
    let w := b.who c.func
    (Passes s r 0x15 blk c b x → leAt blk 9 7 = 0 → ∀ b0 f, openObj b (leAt blk 0 8) false = (b0, .ok f) →
      let o := b0.obj f
      bit o.attr aExport = true →
      (24 ≤ blk.length → leAt blk 8 1 = 1 → leAt blk 16 8 = 0 → ∀ peer, transportOf (blk.drop 24) = some peer → Config.freshNonce (stmtNonce (blk.drop 24)) = true →
        let p := transferBlob b0 o.dom (stmtSerial (blk.drop 24)) peer o.portable
        Answers (.keyExport r blk) s c (recordFor p.2 w 0x0205 0 (keyPayload (leAt blk 0 8) o 1 (stmtSerial (blk.drop 24)))) 0 p.1 []) ∧
      (blk.length = 24 → leAt blk 8 1 = 2 → ∀ b1 g, openObj b0 (leAt blk 16 8) false = (b1, .ok g) →
        let k := b1.obj g
        k.binding = 8 → bit k.attr aWrap = true → k.dom = o.dom →
        Answers (.keyExport r blk) s c (recordFor b1 w 0x0205 0 (keyPayload (leAt blk 0 8) o 2 [])) 0 (ownerBlob o.dom (leAt blk 16 8) k.mat o.portable) [])) ∧
    (Passes s r 0x16 blk c b x → 16 ≤ blk.length → leAt blk 2 6 = 0 →
      let dom := leAt blk 0 2
      let t := blk.drop 16
      dom < 4096 → b.role dom ≠ 2 → b.domState dom = 1 → b.rd Reg.KS_STAT_VAULT = 2 →
      (octAt t 0 4 = [0x43, 0x4B, 0x58, 0x46] → leAt t 6 2 = dom → leAt t 8 16 ≠ 0 → ∀ k, (openTransferBlob b t).bind (fun p => unpackObj p dom) = some k →
        k.admitted = true → creatable b k = 0 → ∀ b1 v, takeImport b (importBlocked b) = (b1, .made v) →
        let o := k.started b1 (some v)
        ∀ h d, createObj b1 o = (d, .ok h) →
          let e := creationRecords d w 0x0206 1 (octAt t 8 16) h o
          Answers (.keyImport r blk) s c (plxKey e (leAt (leOctets 8 h) 0 8)) 0 (leOctets 8 h) (changedPages e o.dom (hRec h) o.nRec)) ∧
      (octAt t 0 6 = [0x43, 0x4B, 0x4F, 0x57, 1, 0] → leAt t 6 2 = dom → t.length = 32 + leAt t 16 4 → ∀ b0 g, openObj b (leAt blk 8 8) false = (b0, .ok g) →
        let k := b0.obj g
        k.binding = 8 → bit k.attr aUnwrap = true → ∀ u, (kwpUnwrap k.mat (t.drop 32)).bind (fun p => unpackObj p dom) = some u → u.admitted = true →
        let u' := { u with attr := (BitVec.ofNat 16 u.attr &&& BitVec.ofNat 16 k.cAttr).toNat }
        u'.admitted = true → creatable b0 u' = 0 → ∀ b1 v, takeImport b0 (importBlocked b0) = (b1, .made v) →
        let o := u'.started b1 (some v)
        ∀ h d, createObj b1 o = (d, .ok h) →
          let e := creationRecords d w 0x0206 2 [] h o
          Answers (.keyImport r blk) s c (plxKey e (leAt (leOctets 8 h) 0 8)) 0 (leOctets 8 h) (changedPages e o.dom (hRec h) o.nRec))) ∧
    (Passes s r 0x20 blk c b x → blk.length = 36 + 2 * leAt blk 32 2 → leAt blk 34 2 = 0 → b.rst.otpBad = false →
      (b.mode = mFault ∨ canAttest b (pfOf (portOf b c.func)) = true) →
      let y := statement b (octAt blk 0 32) ((List.range (leAt blk 32 2)).map (fun i => leAt blk (36 + 2 * i) 2))
      Answers (.attest r blk) s c y.2 0 y.1 [])

/-! ### Quorum, domains, officers (spec/11) -/

/-- Ballots (R265 to R269, Table 11.4): opening takes the lowest free entry, with a fresh nonce, an expiry of TTL and the next identifier, and answers the statement; a signature that verifies is
counted once, and the one that completes M carries the ballot with its record and event; closing lapses it. COMMISSION_BEGIN opens entry 0 over its block's digest (Table 11.7).
What a ballot is spent for (Tables 11.5, 11.7, 11.8, 13.10; R262 to R264, R270, R271, R277, R280, R281): domains are created, suspended, resumed and begin to be destroyed; officers change; figure signers are
recorded; commissioning burns its counter; DEVICE_POLICY blows the fuse at once when asked. A policy change raises POLICY_SEQ, lapses the domain's ballots and is recorded. -/
def Obligations.BallotsAndCustody : Prop :=
  (
  ∀ (s : State) (r : CmdRef) (blk : List Octet) (c : Cmd) (b : State) (x : Option Ballot),
    let w := b.who c.func
    let opener := openerCode c.func
    let opened := fun (i : Instr) (b : State) (e op dom ttl : Nat) (dig held : List Octet) =>
      let p := drawRandom b 32
      let st := ascii "CK720BAL" ++ fitOctets 16 Config.deviceSerial ++ beOctets 2 dom ++ beOctets 1 op ++ beOctets 1 opener ++ beOctets 4 b.ballotId ++
        beOctets 8 (p.2.jnl.seq + 1) ++ fitOctets 48 dig ++ p.1 ++ beOctets 8 (p.2.tamp.tick + ttl * 32768)
      let y : Ballot := ⟨1, op, dom, opener, b.ballotId, fitOctets 48 dig, st, p.2.tamp.tick + ttl * 32768, 0, 0, 0, held⟩
      Answers i s c (({ recordFor p.2 w 0x0101 b.ballotId (ballotPayload y 0 0) with ballotId := b.ballotId % (2 ^ 32 - 1) + 1 }).setBallot e y) e st []
    (Passes s r 0x30 blk c b x → blk.length = 52 → leAt blk 3 1 = 0 → leAt blk 0 2 < 4096 → leAt blk 2 1 ≠ 0 → quorumOf (leAt blk 2 1) ≠ none →
      ballotMode b (leAt blk 2 1) = true → ∀ b1 e, freeBallot b = (b1, some e) →
      opened (.ballotOpen r blk) b1 e (leAt blk 2 1) (leAt blk 0 2) (ballotTtl b1 (leAt blk 2 1) (leAt blk 0 2)) (blk.drop 4) []) ∧
    (Passes s r 0x31 blk c b x → 8 ≤ blk.length → leAt blk 2 2 = 0 → leAt blk 4 4 = blk.length - 8 → leAt blk 0 1 < 32 →
      let e := leAt blk 0 1
      let i := leAt blk 1 1
      let y := b.ballot e
      b.tamp.tick < y.expiry → y.st = 1 ∨ y.st = 2 →
      (∀ t, (signers b y i).find? (fun t => officerSigned t.2.2 y.stmt (blk.drop 8)) = some t →
        let mine := if t.1 then y.dom0 else y.own
        let z := if t.1 then { y with dom0 := putOfficer y.dom0 i } else { y with own := putOfficer y.own i }
        let counted := recordFor (b.setBallot e z) w 0x0102 y.id (ballotPayload z i (1 + b2n t.1))
        (bit mine i = true → Answers (.ballotSign r blk) s c b 0 [] []) ∧
        (bit mine i = false → y.st = 2 ∨ tally (putOfficer mine i) < t.2.1 → Answers (.ballotSign r blk) s c counted 0 [] []) ∧
        (bit mine i = false → y.st = 1 → t.2.1 ≤ tally (putOfficer mine i) →
          let v := { z with st := 2, by0 := b2n t.1 }
          Answers (.ballotSign r blk) s c (pfEvent (recordFor (counted.setBallot e v) w 0x0103 y.id (ballotPayload v 0 (1 + b2n t.1))) 9) 0 [] []))) ∧
    (Passes s r 0x32 [] c b x → leAt c.short 0 1 < 32 → Answers (.ballotClose r) s c (lapse b (leAt c.short 0 1) 2) 0 [] []) ∧
    (Passes s r 0x33 blk c b x → commissionable b opener = true → ∀ m n mc ttl l, commissionBlock blk = some (m, n, mc, ttl, l) →
      opened (.commissionBegin r blk) b 0 0 0 ttl (sha384 blk) blk) ∧
    (∀ e, let y := b.ballot e
      (y.st = 1 ∨ y.st = 2 → lapse b e 2 = pfEvent (jrec (b.setBallot e { y with st := 4 }) 0x0105 0xE4 y.id (ballotPayload y 0 2)) 9) ∧
      (y.st ≠ 1 → y.st ≠ 2 → lapse b e 2 = b))
  ) ∧ (
  ∀ (s : State) (r : CmdRef) (blk trailer : List Octet) (c : Cmd) (b : State) (x : Option Ballot),
    let w := b.who c.func
    let opener := openerCode c.func
    let y := x.getD Ballot.free
    let d := leAt blk 0 2
    let tr := fitOctets (leAt c.short 0 4) trailer
    let changes := fun (i : Instr) (b : State) (d : Nat) (f : List Octet → List Octet) =>
      ∃ hold, (policyChange b w d f).2 = .fin 0 0 [] hold ∧ Answers i s c (policyChange b w d f).1 0 [] hold
    (∀ rec f, policyRec b d = some rec → leAt (b.obj rec).mat 0x14 8 + 1 < 2 ^ 64 - 1 →
      let old := (b.obj rec).mat
      let new := setOctets (f old) 0x14 (leOctets 8 (leAt old 0x14 8 + 1))
      (policyChange b w d f).1 = mcAllowedRefresh (plxRecords (recordFor (lapseDomain (putDevice b rec new) d) w 0x0120 d
        (octAt old 2 1 ++ octAt new 2 1 ++ leOctets 8 (leAt old 0x14 8 + 1))) d)) ∧
    (Passes s r 0x34 blk c b x → commissionable b opener = true → ∀ m n mc ttl l, commissionBlock blk = some (m, n, mc, ttl, l) →
      let t := (commission b w m n mc ttl l).1
      Answers (.commissionFinish r blk) s c t 0 [] t.vault.dirty ∧ t.otp.comm = min 32 (b.otp.comm + 1) ∧ t.otp.noRecomm = b.otp.noRecomm) ∧
    (Passes s r 0x35 blk c b x → 16 ≤ blk.length → leAt blk 12 4 = 0 → d ≠ 0 → d < 4096 → b.domState d = 0 →
      let m := leAt blk 2 1
      let n := leAt blk 3 1
      shapeOk m n (leAt blk 4 4) = true → quotaSum b + leAt blk 8 4 ≤ 15335424 →
      ∀ offs sigs, officerEntries d n 0 (blk.drop 16) = some offs → trailerSigs n tr = some sigs → (∀ e ∈ offs.zip sigs, officerSigned e.1 y.stmt e.2 = true) →
      ∀ b1, createDevices ((bPolicy, policyMat d 0 m n (leAt blk 8 4) (leAt blk 4 4)) :: offs.map (fun o => (bOfficer, o))) b = (b1, none) →
        let t := recordFor b1 w 0x0120 d (leOctets 1 0 ++ leOctets 1 1 ++ leOctets 8 1)
        Answers (.domainCreate r blk trailer) s c t 0 [] t.vault.dirty) ∧
    (Passes s r 0x36 blk c b x → blk.length = 8 → leAt blk 2 6 = 0 → d ≠ 0 → d < 4096 → b.domState d ≠ 0 → b.domState d ≠ 3 → b.role d ≠ 2 →
      (policyRec (plxUpdate b d [5]) d).isSome = true →
      Answers (.domainDestroy r blk) s c (policyChange (plxUpdate b d [5]) w d (fun m => setOctets m 2 [3])).1 0 [] [waitDomain d]) ∧
    ((policyRec b d).isSome = true → blk.length = 8 → leAt blk 2 6 = 0 → d ≠ 0 → d < 4096 → policyStuck b d = false →
      (Passes s r 0x37 blk c b x → b.domState d = 1 ∨ b.domState d = 2 →
        changes (.domainSuspend r blk) b d (fun m => putSuspension m (putBit (leAt m 3 1) y.by0 true))) ∧
      (Passes s r 0x38 blk c b x → b.domState d = 2 → b.role d ≠ 2 →
        changes (.domainResume r blk) b d (fun m => putSuspension m (putBit (leAt m 3 1) y.by0 false)))) ∧
    (Passes s r 0x39 blk c b x → d < 4096 → b.domState d = 1 ∨ b.domState d = 2 → policyStuck b d = false → b.role d ≠ 2 →
      let act := leAt blk 2 1
      let i := leAt blk 3 1
      let m := if act = 4 then leAt blk 4 4 else leAt (b.policy d) 4 1
      let ttl := if act = 5 then leAt blk 4 4 else leAt (b.policy d) 0x10 4
      let n := leAt (b.policy d) 5 1
      let put := fun (t : State) (n : Nat) (p : List Octet) =>
        setOctets (setOctets p 4 (leOctets 1 m ++ leOctets 1 n ++ leOctets 2 (officerMask t d))) 0x10 (leOctets 4 ttl)
      i < 16 →
      (act = 4 ∨ act = 5 → blk.length = 8 → shapeOk m n ttl = true → (policyRec b d).isSome = true → changes (.officerChange r blk trailer) b d (put b n)) ∧
      (act = 2 → blk.length = 8 → (officerRec b d i).isSome = true → shapeOk m (n - 1) ttl = true →
        let b1 := dropOfficer b d i
        (policyRec b1 d).isSome = true → changes (.officerChange r blk trailer) b1 d (put b1 (n - 1))) ∧
      (act = 1 ∨ act = 3 → ∀ o g, 8 ≤ blk.length → officerEntries d 1 i (blk.drop 8) = some [o] → trailerSigs 1 tr = some [g] → officerSigned o y.stmt g = true →
        (officerRec b d i).isSome = decide (act = 3) → shapeOk m (n + b2n (act = 1)) ttl = true →
        ∀ b1, createDevices [(bOfficer, o)] (if act = 3 then dropOfficer b d i else b) = (b1, none) → (policyRec b1 d).isSome = true →
        changes (.officerChange r blk trailer) b1 d (put b1 (n + b2n (act = 1))))) ∧
    (Passes s r 0x3A blk c b x → blk.length = 2722 → leAt (blk.drop 1) 1 1 = 0 → leAt (blk.drop 1) 6 26 = 0 →
      let mat := blk.drop 1
      let has := findDevice b bSigner (fun m => decide (leAt m 0 1 = leAt mat 0 1))
      (leAt blk 0 1 = 2 → ∀ h, has = some h → Answers (.figureSigner r blk) s c (destroyObj b h) 0 [] (destroyObj b h).vault.dirty) ∧
      (leAt blk 0 1 = 1 → leAt mat 0 1 ≤ 15 → has = none → 0x8000 ≤ leAt mat 2 2 → leAt mat 2 2 ≤ leAt mat 4 2 →
        ∀ b1, createDevices [(bSigner, mat)] b = (b1, none) → Answers (.figureSigner r blk) s c b1 0 [] b1.vault.dirty)) ∧
    (Passes s r 0x3B blk c b x → blk.length = 8 → leAt blk 0 1 ≤ 1 → leAt blk 2 6 = 0 → b.domState 0 ≠ 0 → policyStuck b 0 = false → (policyRec b 0).isSome = true →
      (leAt blk 1 1 = 0 → changes (.devicePolicy r blk) b 0 (fun m => setOctets m 3 (leOctets 1 (putBit (leAt m 3 1) 2 (decide (leAt blk 0 1 = 1)))))) ∧
      (leAt blk 1 1 = 1 → changes (.devicePolicy r blk) { b with otp := { b.otp with noRecomm := true } } 0
        (fun m => setOctets m 3 (leOctets 1 (putBit (putBit (leAt m 3 1) 2 (decide (leAt blk 0 1 = 1))) 3 true))))) ∧
    (Passes s r 0x3C blk c b x → blk.length = 8 → leAt blk 1 7 = 0 → leAt blk 0 1 = opener → Answers (.leadTakeover r blk) s c b 0 [] []) ∧
    (Passes s r 0x40 blk c b x → blk.length = 16 → leAt blk 2 1 = 2 → leAt blk 3 1 = 0 → leAt blk 4 2 = 0 → leAt blk 6 10 = 0 → d ≠ 0 → d < 4096 → b.role d ≠ 2 →
      let t := setRole ((plxUpdate b d [5]).setPlx (fun p => { p with sets := tdel p.sets d })) d 0 0
      Answers (.replication r blk) s c t 0 [] t.vault.dirty)
  )

/-! ### The journal, firmware, debug, raw entropy, cells and the vault (spec/09, 10, 12, 14, 16, 18) -/

/-- JOURNAL_READ, JOURNAL_ACK, JOURNAL_CLEAR (R291, R294); RAW_ENTROPY, RAW_READ, RAW_CTL.GO (R217, R218); CELL_WINDOW (R389, R390); WARM_RESET (R427, R444): it completes nothing and requests the reset. -/
def Obligations.JournalRawAndCells : Prop :=
  ∀ (s : State) (r : CmdRef) (blk : List Octet) (c : Cmd) (b : State) (x : Option Ballot),
    let w := b.who c.func
    (Passes s r 0x21 [] c b x → 1 ≤ leAt c.short 8 2 → leAt c.short 8 2 ≤ 1024 → leAt c.short 0 8 ≤ b.jnl.seq →
      (if b.jnl.flushed < b.jnl.cap then 1 else b.jnl.flushed - b.jnl.cap + 1) ≤ leAt c.short 0 8 →
      let all := b.jnl.mem.map Prod.snd ++ b.jnl.buf
      let l := ((List.range (leAt c.short 8 2)).filterMap (fun i => all.find? (fun e => decide (e.seq = leAt c.short 0 8 + i)))).take (c.outLen / 64)
      Answers (.journalRead r) s c b l.length (l.flatMap JRec.octets) []) ∧
    (Passes s r 0x22 [] c b x → b.jnl.acked < leAt c.short 0 8 → leAt c.short 0 8 ≤ b.jnl.flushed →
      Answers (.journalAck r) s c (jlevelUpdate (b.setJnl (fun j => { j with acked := leAt c.short 0 8 }))) 0 [] []) ∧
    (Passes s r 0x3D blk c b x → blk.length = 16 → leAt blk 9 7 = 0 → b.jnl.acked < leAt blk 0 8 → leAt blk 0 8 ≤ b.jnl.flushed →
      let pay := leOctets 8 b.jnl.acked ++ leOctets 8 (leAt blk 0 8) ++ leOctets 8 b.jnl.flushed
      (leAt blk 8 1 = 0 → ∃ t, t = b.setJnl (fun j => { j with acked := leAt blk 0 8, hdrOk := j.hdrOk || false }) ∧
        Answers (.journalClear r blk) s c (recordFor t w 0x0005 c.ballotId pay) 0 [] []) ∧
      (leAt blk 8 1 = 1 → ∃ t, t = b.setJnl (fun j => { j with acked := leAt blk 0 8, hdrOk := true }) ∧
        Answers (.journalClear r blk) s c (recordFor (t.flag Reg.JNL_STAT_UNAVAIL false) w 0x0005 c.ballotId pay) 0 [] [])) ∧
    (Passes s r 0x44 blk c b x → blk = fitOctets 16 Config.deviceSerial → Answers (.rawEntropy r blk) s c (b.flag Reg.RNG_STAT_RAW_PERMIT true) 0 [] []) ∧
    (Passes s r 0x45 [] c b x →
      let n := 128 * (b.rd Reg.RAW_CTL_COUNT + 1)
      let base := 2 * (b.rd2 Reg.RAW_BASE_L Reg.RAW_BASE_H / 64 * 64 - 0x400000000)
      Answers (.rawRead r) s c b 0 (b.dramOctets (base + leAt c.short 0 4) (min c.outLen (n - leAt c.short 0 4))) []) ∧
    (∀ (sc : Fin 2) (restart : Bool) (src : Fin 8) (count : Fin 1024),
      (s.on Reg.RNG_STAT_RAW_PERMIT = false → exec (.rawCtlGo sc restart src count) s = .next (lockViolation s sc true true 0x30140050)) ∧
      (s.on Reg.RNG_STAT_RAW_PERMIT = true → s.mode = mDiagnostic → s.on Reg.RAW_CTL_GO = false → s.rd (Reg.SRC_STAT_STATE src) ≠ srcRetired → ∃ t,
        exec (.rawCtlGo sc restart src count) s = .next t ∧ t.ent.rawSrc = src ∧ t.ent.rawRestart = restart ∧
        (∀ k ∈ t.cmds, k.opc = 1 → k.ph = CmdPhase.ingress → hostRandom s k.figure = false))) ∧
    (Passes s r 0x46 blk c b x → blk.take 16 = fitOctets 16 Config.deviceSerial → leAt blk 0x18 8 = 0 →
      (leAt blk 0x10 1 = 1 → blk.length = 0x20 → leAt blk 0x12 2 = 0 → 1 ≤ leAt blk 0x11 1 → leAt blk 0x11 1 ≤ 3 → 60 ≤ leAt blk 0x14 4 → leAt blk 0x14 4 ≤ 7200 →
        b.mode = mOperational → b.on Reg.TAMP_STAT_WINDOW = false →
        Answers (.cellWindow r blk) s c (openWindow b (leAt blk 0x11 1) (leAt blk 0x14 4)) 0 [] []) ∧
      (leAt blk 0x10 1 = 2 → leAt blk 0x11 1 = 0 → leAt blk 0x14 4 = 0 → 1 ≤ leAt blk 0x12 2 → leAt blk 0x12 2 ≤ 64 → blk.length = 0x20 + 8 * leAt blk 0x12 2 →
        (∀ i < leAt blk 0x12 2, leAt blk (0x22 + 8 * i) 2 = 0 ∧ (windowEntry blk i).2 < 2 ^ 18 ∧
          isConfigWord (windowEntry blk i).1 = true ∧ configOk (windowEntry blk i).1 (windowEntry blk i).2 = true) →
        let t := ((List.range (leAt blk 0x12 2)).map (windowEntry blk)).foldl (fun s e => configPut s e.1 e.2) b
        Answers (.cellWindow r blk) s c (ledgerPut t 8 0x30 ((configDigest t).take 16)) 0 [] []) ∧
      (leAt blk 0x10 1 = 3 → leAt blk 0x11 1 = 0 → leAt blk 0x14 4 = 0 → leAt blk 0x12 2 = 0 → blk.length = 0x20 →
        Answers (.cellWindow r blk) s c (zeroize b 0x30) 0 [] [])) ∧
    (adminCmd s r 0x6B = some c → adminRefusal s c [] = none → leAt c.short 0 1 ≤ 1 →
      ∃ t, t = startWarm (s.wr Reg.RST_BOOT_TARGET (leAt c.short 0 1)) 2 8 (portMaster (portOf s c.func)) ∧
        exec (.warmReset r) s = .next { t with cmds := t.cmds.filter (fun k => decide (k.uid ≠ c.uid)) })

/-- The vault image (R256 to R261): VAULT_COMMIT emits page blobs and then the version table; VAULT_STORED makes the commit effective, and the first one ends commissioning; VAULT_LOAD takes the table and
then each page it lists; VAULT_RESET starts an empty vault. FIRMWARE_STAGE and FIRMWARE_ACTIVATE (R418, R419); DEBUG_AUTHORISE (R347 to R350). -/
def Obligations.VaultFirmwareAndDebug : Prop :=
  ∀ (s : State) (r : CmdRef) (blk trailer : List Octet) (c : Cmd) (b : State) (x : Option Ballot),
    let w := b.who c.func
    (Passes s r 0x50 [] c b x → b.rd Reg.KS_STAT_VAULT = 2 → ∀ root vk, b.tamp.root = some root → b.vault.key = some vk →
      ∀ b1 k, (b.vault.commit.isSome = true ∧ b1 = b) ∨ (b.vault.commit = none ∧ openCommit b = some b1) → b1.vault.commit = some k →
      let p := emitPages vk k.left c.outLen b1
      ∀ k', p.2.vault.commit = some k' →
      (k'.left = [] → k'.table = none → tableBlobLen ≤ c.outLen - p.1.length →
        let t := tableBlob p.2 root vk k'.seq
        Answers (.vaultCommit r) s c (p.2.setVault (fun v => { v with commit := some { k' with table := some t } })) 0 (p.1 ++ t) []) ∧
      (k'.left ≠ [] ∨ k'.table.isSome = true ∨ c.outLen - p.1.length < tableBlobLen →
        Answers (.vaultCommit r) s c p.2 (k'.left.length + b2n k'.table.isNone) p.1 [])) ∧
    (Passes s r 0x51 [] c b x → ∀ pages t seq, b.vault.commit = some ⟨pages, [], some t, seq⟩ →
      let b1 := ((putImageRoot b (sha384 t) seq).setVault (fun v => { v with commit := none, seq := seq })).flag Reg.KS_STAT_COMMIT_BUSY false
      let b2 := releaseWaits (recordFor ((b1.flag Reg.KS_STAT_DIRTY (decide (b1.vault.dirty ≠ []))).wr Reg.KS_STAT_VAULT 2) w 0x0211 0 (leOctets 8 seq))
      (b2.on Reg.TAMP_STAT_COMMISSIONED = true → Answers (.vaultStored r) s c b2 0 [] []) ∧
      (b2.on Reg.TAMP_STAT_COMMISSIONED = false → Answers (.vaultStored r) s c
        (mcAllowedRefresh (setMode (b2.flag Reg.TAMP_STAT_COMMISSIONED true) mOperational 8)) 0 [] [])) ∧
    (Passes s r 0x52 blk c b x → ∀ root, b.tamp.root = some root → b.rd Reg.KS_STAT_VAULT ≠ 2 →
      (octAt blk 0 4 = [0x43, 0x4B, 0x56, 0x54] → blk.length = tableBlobLen →
        (sha384 blk ≠ b.imageRoot.1 ∨ leAt blk 8 8 ≠ b.imageRoot.2 →
          ∀ t, t = jrec (b.wr Reg.KS_STAT_VAULT 1) 0x0212 0xE3 0xFFFFFFFF (leOctets 1 1) → t.rd Reg.KS_STAT_VAULT ≠ 2 →
          exec (.vaultLoad r blk) s = .next (answerCmd t c s.jnl.seq 0x50 0 [] [])) ∧
        (sha384 blk = b.imageRoot.1 → leAt blk 8 8 = b.imageRoot.2 → ∀ vk t, kwpUnwrap (vaultKek root) (octAt blk 0x10 40) = some vk →
          gcmOpen (imageKey vk) (beOctets 4 0xFFFFFFFF ++ beOctets 8 (leAt blk 8 8)) (octAt blk 0 0x40) (octAt blk 0x40 266248) (octAt blk 0x41048 16) = some t →
          let ver := ((List.range imagePages).map (fun p => (p, leAt t (8 + 8 * p) 8))).filter (fun e => decide (e.2 ≠ 0))
          Answers (.vaultLoad r blk) s c (vaultCounts (((emptyVault b vk).setVault (fun v => { v with
            ver := ver, seq := leAt blk 8 8, impSeq := leAt t 4 4, impMark := leAt t 4 4, await := ver.map Prod.fst, tableOk := true })).wr Reg.KS_STAT_VAULT 1)) 0 [] [])) ∧
      (octAt blk 0 6 = [0x43, 0x4B, 0x56, 0x50, 1, 0] → blk.length = pageBlobLen → b.vault.tableOk = true → b.on Reg.MEM_STAT_VAULT_READY = true →
        leAt blk 8 4 < imagePages → leAt blk 0x10 8 = b.pageVer (leAt blk 8 4) → ∀ vk o, b.vault.key = some vk →
        gcmOpen (imageKey vk) (beOctets 4 (leAt blk 8 4) ++ beOctets 8 (b.pageVer (leAt blk 8 4))) (octAt blk 0 0x20) (octAt blk 0x20 65536)
          (octAt blk 0x10020 16) = some o →
        let t := (loadPage b (leAt blk 8 4) o).setVault (fun v => { v with await := v.await.erase (leAt blk 8 4) })
        t.vault.await ≠ [] → t.rd Reg.KS_STAT_VAULT ≠ 2 → Answers (.vaultLoad r blk) s c t 0 [] [])) ∧
    (Passes s r 0x3E blk c b x → blk = fitOctets 16 Config.deviceSerial →
      let t := recordFor (mcAllowedRefresh (resetVault b)) w 0x0213 c.ballotId []
      Answers (.vaultReset r blk) s c (plxRefresh t) 0 [] t.vault.dirty) ∧
    (Passes s r 0x41 blk c b x → 16 ≤ blk.length → leAt blk 0 1 ≤ 7 → leAt blk 1 3 = 0 → leAt blk 12 4 = 0 → ∀ t, stageBlock b (openerCode c.func) w.m blk = (t, 0, 0) →
      Answers (.firmwareStage r blk) s c t 0 [] []) ∧
    (∀ (owner src slot : Nat), slot = 1 - s.rd Reg.FW_STAT_ACTIVE_SLOT → leAt blk 0 1 = 1 → leAt blk 4 4 = 0 → leAt blk 8 4 ≤ 16777216 → s.journalFull = false →
      (bootBlock s).2.2.1 = 0xFF → s.mgmt.stage = none →
      ∃ t, stageBlock s owner src blk = (t, 0, 0) ∧ t.mgmt.stage = some ⟨owner, slot, leAt blk 8 4, (blk.drop 16).length⟩ ∧ t.slotImage slot = blk.drop 16) ∧
    (Passes s r 0x42 blk c b x → blk.length = 72 → blk.take 16 = fitOctets 16 Config.deviceSerial → leAt blk 18 2 = 0 → leAt blk 16 1 ≤ 1 → leAt blk 17 1 ≤ 1 →
      b.mgmt.stage = none →
      let slot := leAt blk 16 1
      let img := b.slotImage slot
      imageCode b img = 0 → leAt img 8 4 = leAt blk 20 4 → octAt img 0x50 48 = octAt blk 24 48 → slot ≠ b.rd Reg.FW_STAT_ACTIVE_SLOT →
      let t := putBootBlock (b.wr Reg.FW_STAT_STAGE_CODE 0) (bootBlock b).2.1 slot
        (leAt blk 17 1 + 2 * b2n (bit (bootBlock b).2.2.2 1))
      Answers (.firmwareActivate r blk) s c (recordFor (measNow t 8 (octAt blk 24 48)) w 0x0901 slot (leOctets 4 (leAt blk 20 4))) 0 [] []) ∧
    (Passes s r 0x43 blk c b x → leAt blk 1 7 = 0 →
      (leAt blk 0 1 = 2 → blk.length = 8 → Answers (.debugAuthorise r blk trailer) s c (endDebugNow b) 0 [] []) ∧
      (leAt blk 0 1 = 1 → blk.length = 7548 → certificateOk b (octAt blk 8 2689) (blk.drop 2697) (fitOctets (leAt c.short 0 4) trailer) = true →
        levelAccepted b (leAt (blk.drop 2697) 6 1) = true → b.on Reg.DBG_STAT_ACTIVE = false →
        Answers (.debugAuthorise r blk trailer) s c (renewNonce (openDebug b w (blk.drop 2697))) 0 [] []))

/-! ### Functions and figures (spec/04, spec/13) -/

/-- FUNC_CREATE, FUNC_CHANGE, VF_DESTROY, VF_FREEZE, VF_THAW, MIGRATION_FREEZE and MIGRATION_THAW, MIG_TICKET, VF_SAVE, VF_RESTORE, QUEUE_MARK, PORT_VF_ALLOC (R322 to R328, R152, R306; Tables 13.13 to
13.19), each where nothing forbids it; configurations wait for the live card. FIGURE_PIN and FIGURE_UNPIN (R107, R108). -/
def Obligations.FunctionsAndFigures : Prop :=
  ∀ (s : State) (r : CmdRef) (blk : List Octet) (c : Cmd) (b : State) (x : Option Ballot),
    let w := b.who c.func
    let sf := leAt c.short 0 2
    let g := leAt blk 0 2
    (∀ create : Bool, Passes s r (if create then 0x60 else 0x61) blk c b x →
      let n := leAt blk 0x10 2
      let cells := cellClaims n (blk.drop 0xB0)
      blk.length = 0xB0 + 12 * n → configShape blk = true → claimsOk n (blk.drop 0xB0) = true → g < 2050 → (b.fn g).freezing = false →
      (create = true → g < pfA ∧ b.fnState g = 0) → (create = false → b.fnState g = 1) → (portOf b g = 0 ∨ b.rst.split = true) → grantCause b g blk cells = 0 →
      Answers (if create then .funcCreate r blk else .funcChange r blk) s c (funcRecord (configure b g blk cells create) w g (if create then 1 else 2)) 0 [] [waitCard]) ∧
    (∀ create : Bool, let t := configure b g blk [] create
      g < pfA → (t.fn g).st = 1 ∧ (t.fn g).cfg = fitOctets 0xB0 blk ∧ (t.fn g).cells = [] ∧
        (∀ f, f ≠ g → t.fn f = b.fn f)) ∧
    (sf < pfA →
      (Passes s r 0x62 [] c b x → b.fnState sf ≠ 0 → ∃ t, Answers (.vfDestroy r) s c t 0 [] [waitCard] ∧ t.fn sf = FuncSt.absent ∧
        t.on (Reg.FUNC_STAT_FROZEN sf) = false) ∧
      (Passes s r 0x63 [] c b x → b.fnState sf = 1 → (b.fn sf).freezing = false → Answers (.vfFreeze r) s c (freezeFn (funcRecord b w sf 4) sf) 0 [] []) ∧
      (Passes s r 0x64 [] c b x → b.fnState sf = 2 → Answers (.vfThaw r) s c (thawFn (funcRecord b w sf 5) sf) 0 [] [] ∧
        ((thawFn (funcRecord b w sf 5) sf).fn sf).st = 1 ∧ ((thawFn (funcRecord b w sf 5) sf).fn sf).freezing = false) ∧
      (Passes s r 0x66 blk c b x → b.fnState sf = 2 → ∀ peer, transportOf blk = some peer →
        let p := migrationBlob b sf blk peer
        let t := p.2.setFn sf { p.2.fn sf with st := 3, ctx := [], ctxKey := [], streams := [], seq := 0, held := [] }
        Answers (.vfSave r blk) s c (funcRecord ({ t with cmds := t.cmds.filter (fun k => !decide (k.func = sf ∧ k.ph = CmdPhase.queued)) }.flag
          (Reg.FUNC_STAT_SAVED sf) true) w sf 6) 0 p.1 [])) ∧
    (Passes s r 0x3F blk c b x → blk = fitOctets 16 Config.deviceSerial → b.mode = mOperational →
      let t := setMode b mMigrationFreeze 13
      Answers (.migrationFreeze r blk) s c (returnCmds (t.vfs.foldl (fun s f => if s.fnState f = 1 ∧ ¬ (s.fn f).freezing then freezeFn (funcRecord s w f 4) f else s) t)
        (fun k => decide (pfA ≤ k.func ∧ k.opc = 1))) 0 [] []) ∧
    (Passes s r 0x69 [] c b x → b.mode = mMigrationFreeze →
      let t := setMode b mOperational 14
      Answers (.migrationThaw r) s c (t.vfs.foldl (fun s f => if s.fnState f = 2 ∨ (s.fn f).freezing then thawFn (funcRecord s w f 5) f else s) t) 0 [] []) ∧
    (Passes s r 0x65 [] c b x → b.tickets.length < 8 →
      (drawRandom b 32).2.rst.otpBad = false → ((drawRandom b 32).2.mode = mFault ∨ canAttest (drawRandom b 32).2 (pfOf (portOf b c.func)) = true) →
      let p := drawRandom b 32
      let y := statement p.2 p.1 []
      Answers (.migTicket r) s c { y.2 with tickets := y.2.tickets ++ [p.1] } 0 (p.1 ++ y.1) []) ∧
    (Passes s r 0x67 blk c b x →
      let n := leAt blk 2 2
      let claims := octAt blk 8 (12 * n)
      let m := blk.drop (8 + 12 * n)
      blk.length = 8 + 12 * n + leAt blk 4 4 → n ≤ 2048 → claimsOk n claims = true → ∀ o, openMigration b m = some o →
      let cfg := setOctets (setOctets (octAt o 0x20 0xB0) 0 (leOctets 2 g)) 0x10 (leOctets 2 n)
      g < pfA → b.fnState g = 0 → (portOf b g = 0 ∨ b.rst.split = true) → grantCause b g cfg (cellClaims n claims) = 0 →
      let t := configure { b with tickets := b.tickets.filter (fun t => decide (t ≠ octAt m 0x28 32)) } g cfg (cellClaims n claims) false
      Answers (.vfRestore r blk) s c (funcRecord (restoreFn t g (leAt m 6 2) o) w g 7) 0 [] [waitCard]) ∧
    (Passes s r 0x68 [] c b x →
      let q := leAt c.short 2 2
      sf < 2050 → b.fnState sf ≠ 0 → q < b.rd (Reg.FUNC_CAP_QUEUES sf) →
      (leAt c.short 4 1 = 1 → b.on (Reg.FUNC_CAP_STREAM_PERMIT sf) = true → marked b < 64 →
        Answers (.queueMark r) s c (recordFor (b.flag (Reg.Q_CTL_STREAM (qx sf q)) true) w 0x0306 q (leOctets 2 sf ++ leOctets 1 1)) 0 [] []) ∧
      (leAt c.short 4 1 = 0 → Answers (.queueMark r) s c (recordFor (b.flag (Reg.Q_CTL_STREAM (qx sf q)) false) w 0x0306 q (leOctets 2 sf ++ leOctets 1 0)) 0 [] [])) ∧
    (Passes s r 0x6A [] c b x → b.portA.vfEnable = false → b.portB.vfEnable = false → b.vfs = [] → (sf = 2048 ∨ (sf ≤ 2048 ∧ b.rst.split = true)) →
      Answers (.portVfAlloc r) s c ((b.wr (Reg.PORT_VF_A_VFS 0) sf).wr (Reg.PORT_VF_A_VFS 1) sf) 0 [] []) ∧
    (Passes s r 0x58 blk c b x → 8 ≤ blk.length → leAt blk 0 8 ≠ 0 →
      let o := blk.drop 8
      let h := figHeader o
      let dest := (seqSet (leAt blk 0 8)).filter (fun q => !holdsImage b h q)
      (figureCode b o ≠ 0 → Answers (.figurePin r blk) s c (recordFor b w 0x0302 (figureCode b o) (leOctets 2 h.fid ++ leOctets 4 h.version)) (figureCode b o) [] []) ∧
      (figureCode b o = 0 → reserveRoom h.fid h.steps dest b = none →
        Answers (.figurePin r blk) s c (recordFor b w 0x0302 0x17 (leOctets 2 h.fid ++ leOctets 4 h.version)) 0x17 [] []) ∧
      (figureCode b o = 0 → dest = [] →
        Answers (.figurePin r blk) s c (figureRecord (measNow b (if h.fid < 0x8000 then 4 else 5) h.digest) w h (leAt blk 0 8)) 0 [] []) ∧
      (figureCode b o = 0 → dest ≠ [] → ∀ b1, reserveRoom h.fid h.steps dest b = some b1 →
        let t := figureRecord (measNow b1 (if h.fid < 0x8000 then 4 else 5) h.digest) w h (leAt blk 0 8)
        let new := if (t.figHdr h.fid).map FigHdr.digest = some h.digest then [] else [h]
        Answers (.figurePin r blk) s c { t with floor := { t.floor with figs := t.floor.figs ++ new, loads := t.floor.loads ++ [(h.fid, dest, figSteps o)] } } 0 []
          [waitFigure h.fid])) ∧
    (Passes s r 0x59 [] c b x →
      let t := { b with floor := { b.floor with unpin := b.floor.unpin ++ (seqSet (leAt c.short 2 8)).map (fun q => 65536 * q + sf) } }
      (t.figHdr sf = none → Answers (.figureUnpin r) s c t 0 [] []) ∧
      (∀ h, t.figHdr sf = some h → Answers (.figureUnpin r) s c (figureRecord t w h (leAt c.short 2 8)) 0 [] [])) ∧
    (∀ i : Fin 8, exec (.migTicketLapse i) s = .next { s with tickets := s.tickets.eraseIdx i })

/-! ### Entropy and random bits (spec/09); the key store's port (Table 10.18); the journal's flush (spec/12) -/

/-- Noise sources and their tests (R203 to R209, R217 to R219): a running source's block that passes clears CONSEC and is accepted, one that fails counts and restarts or, at the third in a row, retires the
source; a start-up test that passes starts it; a capture that ends reports DONE; closing raw access empties the FIFO; a conditioned output is the leftmost 256 bits of SHA-384 of a block.
The DRBG (R210 to R216): RESEED makes one due; a due reseed takes two outputs, clears REQS and counts; a request of the highest class is served with words of 18 bits, expanders' seeds first; instantiation
after its known-answer test, and the fatal alarm where that fails. -/
def Obligations.Entropy : Prop :=
  (
  ∀ (s : State) (n : Fin 8) (o : List Octet),
    let blockTests := rctRun (tget (false, 0) s.ent.run n) (samplesMsb (fitOctets 256 o))
    let startTests := rctRun (false, 0) (samplesMsb (fitOctets 512 o))
    let apt := fun (k : Nat) => aptFails (samplesMsb (fitOctets k o))
    (s.rd (Reg.SRC_STAT_STATE n) = srcRunning → blockTests.2 = false → apt 256 = false → exec (.entropyBlockComplete n o) s =
      .next ((s.wr (Reg.SRC_STAT_CONSEC n) 0).setEnt (fun e => { e with
        run := tset (false, 0) e.run n blockTests.1, acc := if e.fifo.length ≥ 16 then e.acc else e.acc ++ [(n.val, fitOctets 256 o)] }))) ∧
    (s.rd (Reg.SRC_STAT_STATE n) = srcRunning → blockTests.2 = true ∨ apt 256 = true →
      exec (.entropyBlockComplete n o) s = .next (srcFail s n blockTests.2 (apt 256))) ∧
    (s.rd (Reg.SRC_STAT_STATE n) ≠ srcRunning → exec (.entropyBlockComplete n o) s = .next s) ∧
    (s.rd (Reg.SRC_STAT_STATE n) = srcStartUp → startTests.2 = false → apt 512 = false → exec (.startupTestEnd n o) s = .next (s.wr (Reg.SRC_STAT_STATE n) srcRunning)) ∧
    (s.rd (Reg.SRC_STAT_STATE n) = srcStartUp → startTests.2 = true ∨ apt 512 = true →
      exec (.startupTestEnd n o) s = .next (srcFail s n startTests.2 (apt 512))) ∧
    (∀ apt : Bool, let b := if apt then (s.count (Reg.SRC_RCTF n) (Reg.SRC_STAT_FFO n)).count (Reg.SRC_APTF n) (Reg.SRC_STAT_FFO n) else s.count (Reg.SRC_RCTF n) (Reg.SRC_STAT_FFO n)
      srcFail s n true apt = if 3 ≤ b.rd (Reg.SRC_STAT_CONSEC n) + 1 then srcRetire (b.wr (Reg.SRC_STAT_CONSEC n) (b.rd (Reg.SRC_STAT_CONSEC n) + 1)) n
        else srcRestart (b.wr (Reg.SRC_STAT_CONSEC n) (b.rd (Reg.SRC_STAT_CONSEC n) + 1)) n) ∧
    (s.rd (Reg.SRC_STAT_STATE n) = srcRetired → exec (.retire n) s = .next s) ∧
    (s.rd (Reg.SRC_STAT_STATE n) ≠ srcRetired → s.on Reg.RAW_STAT_BUSY = false → exec (.retire n) s =
      .next (evalHealthy (latchEntropy (entRecord ((s.wr (Reg.SRC_STAT_STATE n) srcRetired).flag (Reg.SRC_CTL_RETIRE n) true) n 1 0 true)))) ∧
    (s.on Reg.RAW_STAT_BUSY = true → ∃ t, exec (.rawCaptureEnd o) s = .next t ∧ t.on Reg.RAW_STAT_BUSY = false ∧ t.on Reg.RAW_CTL_GO = false ∧ t.on Reg.RAW_STAT_DONE = true) ∧
    (∀ sc : Fin 2, (s.on Reg.RNG_STAT_RAW_PERMIT = true → exec (.rawCtlClose sc) s = .next (jlevelUpdate (rawShut s)) ∧
        (s.on Reg.RNG_STAT_RAW_OPEN = true → (rawShut s).ent.fifo = [] ∧ (rawShut s).on Reg.RNG_STAT_RAW_OPEN = false)) ∧
      (s.on Reg.RNG_STAT_RAW_PERMIT = false → exec (.rawCtlClose sc) s = .next (lockViolation s sc true true 0x30140050))) ∧
    (∀ b, nextBlock s.ent = some b → s.ent.fifo.length < 16 → (s.ent.reqs.find? (fun r => r.ent)) = none → exec .conditionedOutputReady s =
      .next (s.setEnt (fun e => { e with acc := e.acc.erase b, served := b.1, fifo := e.fifo ++ [(sha384 b.2).take 32] })))
  ) ∧ (
  ∀ (s : State),
    (s.drbg.isSome = true → exec .reseed s = .next (((s.setEnt (fun e => { e with due := true })).flag Reg.RNG_CTL_RESEED true).wr Reg.RNG_STAT_DRBG 2)) ∧
    (s.drbg = none → exec .reseed s = .next ((s.setEnt (fun e => { e with due := true })).flag Reg.RNG_CTL_RESEED true)) ∧
    (∀ d a b rest, s.drbg = some d → s.ent.fifo = a :: b :: rest → reseedDue s = true → ∃ t, exec .drbgReseedServe s = .next t ∧
      t.drbg = some (drbgReseed d a b) ∧ t.ent.fifo = rest ∧ t.ent.due = false ∧ t.rd Reg.DRBG_REQS = 0 ∧ t.rd Reg.RNG_STAT_DRBG = 1 ∧ t.on Reg.RNG_CTL_RESEED = false ∧
      (s.rd2 Reg.DRBG_RSD_L Reg.DRBG_RSD_H + 1 < 2 ^ 36 → t.rd2 Reg.DRBG_RSD_L Reg.DRBG_RSD_H = s.rd2 Reg.DRBG_RSD_L Reg.DRBG_RSD_H + 1)) ∧
    (s.drbg = none ∨ s.ent.fifo.length < 2 ∨ reseedDue s = false → exec .drbgReseedServe s = .next s) ∧
    (∀ d, s.drbg = some d → reseedDue s = false →
      (∀ r, seedWanted s = some r → ∃ t, exec .drbgGenerateServe s = .next t ∧ t.drbg = some (drbgGenerate d 32).2 ∧
        (tget Expander.zero t.floor.expanders r).seed = some (drbgGenerate d 32).1 ∧ t.rd Reg.DRBG_REQS = (s.rd Reg.DRBG_REQS + 1) % 2 ^ Reg.DRBG_REQS.wid) ∧
      (∀ r, seedWanted s = none → nextReq s = some r →
        let g := drbgGenerate d (16 * min 64 ((r.words + 6) / 7))
        exec .drbgGenerateServe s = .next (takeWords (({ s with drbg := some g.2 }).wr Reg.DRBG_REQS (s.rd Reg.DRBG_REQS + 1)) r (drbgWords g.1))) ∧
      (seedWanted s = none → nextReq s = none → exec .drbgGenerateServe s = .next s)) ∧
    (s.rd Reg.RNG_STAT_DRBG = 0 →
      exec (.drbgInstantiate false) s = .next (fatalAlarm (latchEntropy (entRecord s 0 3 0 true))) ∧
      (s.ent.fifo.length < 2 → exec (.drbgInstantiate true) s = .next s) ∧
      (∀ a b rest, s.ent.fifo = a :: b :: rest →
        let u := { s with drbg := some (drbgInit a b (fitOctets 16 Config.deviceSerial ++ beOctets 6 s.tamp.tick)) }
        let z := entRecord (((u.setEnt (fun e => { e with fifo := rest, due := false })).wr Reg.RNG_STAT_DRBG 1).wr Reg.DRBG_REQS 0) 0 2 0 false
        z.tamp.meshDue = false →
        let n := drawRandom (z.setTamp (fun t => { t with mesh := z.tamp.mesh, meshDue := false })) 32
        exec (.drbgInstantiate true) s = .next { n.2 with dbg := { n.2.dbg with nonce := n.1 } })) ∧
    (s.rd Reg.RNG_STAT_DRBG ≠ 0 → ∀ pass, exec (.drbgInstantiate pass) s = .next s) ∧
    (fatalAlarm s).drbg = none ∧ (∀ r w, (takeWords s r w).ent.fifo = s.ent.fifo)
  )

/-- The key store's port: an operation starts where GO is clear and reads its argument from DRAM; one that cannot be read reports status 0x7F; GO set drops a second start; the end shows STATUS and DONE and clears GO once
no commit is awaited (R246, Table 10.18). A step of a domain's destruction takes its lowest object, and after the last one's commit the domain is ABSENT (R280, R281). The journal's timers and flush, and JREC_CMD (R286, R303). -/
def Obligations.KeyStorePortAndJournal : Prop :=
  ∀ (s : State) (sc : Fin 2) (arg : DWord),
    (∀ e ∈ [(Instr.ksOpGenerate sc arg, 1), (.ksOpDerive sc arg, 2), (.ksOpRestrict sc arg, 3), (.ksOpInfo sc arg, 4), (.ksOpDestroy sc arg, 5), (.ksOpExport sc arg, 6),
        (.ksOpImport sc arg, 7), (.ksOpCommit sc arg, 8), (.ksOpLoad sc arg, 9), (.ksOpVaultReset sc arg, 10)],
      (s.on Reg.KS_OP_CMD_GO = true → exec e.1 s = .next s) ∧
      (s.on Reg.KS_OP_CMD_GO = false →
        let t := ((s.wr2 Reg.KS_OP_ARG_L Reg.KS_OP_ARG_H (arg.toNat / 16 * 16)).wr Reg.KS_OP_CMD_OP e.2).flag Reg.KS_OP_CMD_GO true
        let a := t.rd2 Reg.KS_OP_ARG_L Reg.KS_OP_ARG_H
        a = arg.toNat / 16 * 16 ∧
        (targetOf 3 a = 7 → checkAccess t ⟨3, true, true, 0xFFF, .read, a, 0⟩ = none →
          (∀ u st r0 out hold, ksOperation t ⟨sc, true⟩ e.2 (ksArgument t).1 (ksArgument t).2 = (u, .fin st r0 out hold) →
            exec e.1 s = .next { u with ks := ⟨out, if st = 0 then hold else [], st⟩ }) ∧
          (∀ u, ksOperation t ⟨sc, true⟩ e.2 (ksArgument t).1 (ksArgument t).2 = (u, .wait) →
            exec e.1 s = .next { u with ks := ⟨[], if e.2 = 9 then [] else [waitTable], 256⟩ })) ∧
        (targetOf 3 a ≠ 7 → ∃ u, exec e.1 s = .next u ∧ u.ks = ⟨[], [], 0x7F⟩))) ∧
    (let op := s.rd Reg.KS_OP_CMD_OP
     (s.on Reg.KS_OP_CMD_GO = true → s.ks.wait = [] → (op ∈ [1, 2, 3, 5, 7] → s.vault.commit = none) → s.ks.status ≠ 256 →
      exec .ksOpDone s = .next (((s.wr Reg.KS_OP_STAT_STATUS s.ks.status).flag Reg.KS_OP_STAT_DONE true).flag Reg.KS_OP_CMD_GO false)) ∧
     (s.on Reg.KS_OP_CMD_GO = false ∨ s.ks.wait ≠ [] → exec .ksOpDone s = .next s)) ∧
    (∀ d : Fin 4096,
      (s.domState d = 3 → ∀ r, lowestOf s d = some r → exec (.domainDestructionStep d) s = .next (destroyObj s r)) ∧
      (s.domState d = 3 → lowestOf s d = none → s.vault.dirty = [] → s.vault.commit = none → exec (.domainDestructionStep d) s = .next (domainAbsent s d)) ∧
      (s.domState d ≠ 3 → exec (.domainDestructionStep d) s = .next s)) ∧
    (exec .journalAgeTimer s = .next (if s.jnl.buf = [] then s else s.flag Reg.JNL_STAT_FLUSHING true)) ∧
    (s.on Reg.JNL_STAT_FLUSHING = true → s.on Reg.JNL_STAT_UNAVAIL = false → s.jnl.buf.length ≤ s.jfree →
      ∃ t, exec .journalFlushDone s = .next (jlevelUpdate t) ∧ t.jnl.buf = [] ∧ t.on Reg.JNL_STAT_FLUSHING = false ∧
        (∀ e, s.jnl.buf.getLast? = some e → t.jnl.flushed = e.seq) ∧
        t.jnl.chainFlushed = s.jnl.buf.foldl (fun c e => sha384 (c ++ e.octets)) s.chainFlushed ∧ t.jnl.acked = s.jnl.acked) ∧
    (∀ (cont reserve : Bool),
      let b := (s.flag Reg.JREC_CMD_CONT cont).flag Reg.JREC_CMD_RESERVE reserve
      let o := unpackWords ((List.range 19).map (fun w => b.rd (Reg.JREC_DATA w)))
      (reserve = false → b.journalFull = true → exec (.jrecSubmit sc cont reserve) s = .next ((b.flag Reg.JREC_STAT_REFUSED true).flag Reg.JREC_STAT_DONE true)) ∧
      (reserve = true ∨ b.journalFull = false → exec (.jrecSubmit sc cont reserve) s =
        .next (((jrecG b (leAt o 0 2) sc (leAt o 2 4) (octAt o 6 32) cont true false).flag Reg.JREC_STAT_REFUSED false).flag Reg.JREC_STAT_DONE true)))

/-! ### The tamper domain, the lead and lock tokens (spec/11, 16) -/

/-- Readings of the tamper sensors and zeroization (R371, R376, R379, R381 to R384, R391): a condition counts up to the sensor's filter and a clear sample restarts it; the sensor that asserts is logged, raises
the alarm or zeroizes; a zeroization destroys what Table 16.6 lists, once; an entry goes to the ledger's end while it has room. -/
def Obligations.SensorsAndZeroization : Prop :=
  ∀ (s : State),
    (∀ n a, tget Sensor.clean s.tamp.sens 0x20 = ⟨n, a⟩ →
      (exec (.tamperSample [.shield false]) s = .next (s.setTamp (fun t => { t with sens := tdel t.sens 0x20 }))) ∧
      (n = 0 → a = false → exec (.tamperSample [.shield true]) s = .next (s.setTamp (fun t => { t with sens := tset Sensor.clean t.sens 0x20 ⟨1, false⟩ }))) ∧
      (n = 1 → a = false → exec (.tamperSample [.shield true]) s =
        .next (zeroize (s.setTamp (fun t => { t with sens := tset Sensor.clean t.sens 0x20 ⟨2, true⟩ })) 0x20)) ∧
      (n = 2 → a = true → exec (.tamperSample [.shield true]) s = .next (s.setTamp (fun t => { t with sens := tset Sensor.clean t.sens 0x20 ⟨2, true⟩ })))) ∧
    (∀ n, tget Sensor.clean s.tamp.sens 0x15 = ⟨n, false⟩ → sensFilter s 0x15 ≤ n + 1 → s.rd (Reg.SENS_CFG_RESPONSE 0x15) < 2 →
      let b := s.setTamp (fun t => { t with sens := tset Sensor.clean t.sens 0x15 ⟨sensFilter s 0x15, true⟩ })
      (s.rd (Reg.SENS_CFG_RESPONSE 0x15) = 0 → exec (.tamperSample [.clkTamp true]) s =
        .next ((ledgerPut b 2 0x15 (leOctets 6 s.tamp.tick)).flag Reg.TAMP_STAT_CLK_RC true)) ∧
      (s.rd (Reg.SENS_CFG_RESPONSE 0x15) = 1 → exec (.tamperSample [.clkTamp true]) s =
        .next ((tampRefresh ((ledgerPut b 3 0x15 []).flag Reg.TAMP_STAT_ALARM true)).flag Reg.TAMP_STAT_CLK_RC true))) ∧
    (s.tamp.main = true → exec .vbatCritTrip s = .next s) ∧
    (s.tamp.main = false → exec .vbatCritTrip s = .next (zeroize s 0x0C)) ∧
    (∀ src r, s.tamp.root = some r → ∃ t, t = zeroizeDestroy (ledgerPut s 4 src [0]) ∧ zeroize s src = closeWindow t 5 src ∧ t.tamp.root = none ∧ t.tamp.bank0 = ([], 0) ∧
      t.tamp.bank1 = ([], 0) ∧ t.tamp.origin = false ∧ t.on Reg.TAMP_STAT_COMMISSIONED = false ∧ t.on Reg.TAMP_STAT_CFG_LOCKED = false ∧
      t.rd Reg.TAMP_STAT_TAMPER = (if s.otp.comm > 0 then 3 else 0) ∧ (s.tamp.main = true → t.cache = [] ∧ t.vault = .none)) ∧
    (∀ src, s.tamp.root = none → zeroize s src = closeWindow (ledgerPut s 4 src [1]) 5 src) ∧
    (∀ typ src data, s.tamp.ledger.length < 256 → typ ≠ 1 → typ ≠ 2 →
      (ledgerPut s typ src data).tamp.ledger = s.tamp.ledger ++ [ledgerEntry s typ src 1 data] ∧
      (ledgerPut s typ src data).rd Reg.LEDGER_USED = s.tamp.ledger.length + 1) ∧
    (s.tamp.stuckDone = true → exec .tickStuck s = .next s) ∧
    (s.tamp.stuckDone = false → ∃ t, exec .tickStuck s = .next t ∧ t.tamp.tick = 2 ^ 48 - 1 ∧ t.tamp.stuckDone = true ∧
      (s.tamp.ledger.length < 256 → t.tamp.ledger.length = s.tamp.ledger.length + 1)) ∧
    (∀ toMain, exec (.tamperPowerSwitch toMain) s = .next (s.setTamp (fun t => { t with main := toMain }))) ∧
    (s.tamp.main = true → exec .tamperDomainLoss s = .next s) ∧
    (s.tamp.main = false → ∃ t, exec .tamperDomainLoss s = .next t ∧ t.tamp.root = none ∧ t.tamp.ledger = [] ∧ t.tamp.tick = 0 ∧ t.tamp.lost = true ∧
      t.jnl.headValid = false ∧ t.rd Reg.TAMP_STAT_TAMPER = (if s.otp.comm > 0 then 3 else 0))

/-- Cells, configuration words, the alarm and the maintenance window (R372 to R375, R378, R380, R388, R389): one bus action runs at a time; a cell accepted inside a window that names it takes its record from the
response, an identity that differs is a sensor's condition; a configuration word is written by the lead while unlocked and within its range; the alarm is acknowledged by naming its entry on main power. -/
def Obligations.CellsAndWindow : Prop :=
  ∀ (s : State) (c : Fin 2) (m : Requester),
    (s.on Reg.CELL_CMD_GO = true → exec (.cellReadSerial c) s = .next s ∧ exec (.cellChallenge c) s = .next s ∧ exec (.cellAccept c) s = .next s ∧ exec (.cellReject c) s = .next s) ∧
    (s.on Reg.CELL_CMD_GO = false →
      exec (.cellReadSerial c) s = .next (((s.wr Reg.CELL_CMD_ACTION 0).wr Reg.CELL_CMD_CELL c).flag Reg.CELL_CMD_GO true) ∧
      exec (.cellChallenge c) s = .next (((s.wr Reg.CELL_CMD_ACTION 1).wr Reg.CELL_CMD_CELL c).flag Reg.CELL_CMD_GO true) ∧
      (let b := ((((s.wr Reg.CELL_CMD_ACTION 2).wr Reg.CELL_CMD_CELL c).flag Reg.CELL_CMD_GO true).flag (Reg.CELL_STAT_AUTH_OK c) true).flag (Reg.CELL_STAT_AUTH_FAIL c) false;
        (s.on Reg.TAMP_STAT_WINDOW = false ∨ bit s.tamp.winCells c = false → exec (.cellAccept c) s = .next b) ∧
        (s.on Reg.TAMP_STAT_WINDOW = true → bit s.tamp.winCells c = true → ∃ t, exec (.cellAccept c) s = .next t ∧
          t.cell c = ⟨ofBe (octAt (cellResp b) 0 8), ofBe (octAt (cellResp b) 8 4) % 2 ^ 24, 0⟩ ∧
          (s.tamp.ledger.length < 256 → t.tamp.ledger.length = s.tamp.ledger.length + 1))) ∧
      (let b := ((((s.wr Reg.CELL_CMD_ACTION 3).wr Reg.CELL_CMD_CELL c).flag Reg.CELL_CMD_GO true).flag (Reg.CELL_STAT_AUTH_OK c) false).flag (Reg.CELL_STAT_AUTH_FAIL c) true;
        exec (.cellReject c) s = .next (takeSamples b [(0x26 + c, true)]))) ∧
    (∀ answer, (s.on Reg.CELL_CMD_GO = false → exec (.cellCmdDone answer) s = .next s) ∧
      (s.on Reg.CELL_CMD_GO = true → let b := (s.flag Reg.CELL_CMD_GO false).flag Reg.CELL_CMD_STAT_DONE true;
        (answer = none → exec (.cellCmdDone answer) s = .next (b.flag Reg.CELL_CMD_STAT_ERR (decide (s.rd Reg.CELL_CMD_ACTION < 2)))) ∧
        (∀ o, answer = some o → s.rd Reg.CELL_CMD_ACTION = 0 →
          exec (.cellCmdDone answer) s = .next (cellIdentity (b.flag Reg.CELL_CMD_STAT_ERR false) (s.rd Reg.CELL_CMD_CELL) (ofBe (octAt o 0 8)))) ∧
        (∀ o, answer = some o → s.rd Reg.CELL_CMD_ACTION = 1 → ∃ t, exec (.cellCmdDone answer) s = .next t ∧ t.on Reg.CELL_CMD_STAT_ERR = false ∧
          ∀ w < 106, some (t.rd (Reg.CELL_RESP w)) = (packWords (fitOctets 212 o))[w]?.map BitVec.toNat))) ∧
    (∀ serial, (s.on (Reg.CELL_STAT_PRESENT c) = false → exec (.cellIdentityCheck c serial) s = .next s) ∧
      (s.on (Reg.CELL_STAT_PRESENT c) = true → exec (.cellIdentityCheck c serial) s =
        .next (takeSamples s [(0x26 + c, decide (serial.toNat ≠ (s.cell c).serial))]))) ∧
    (∃ t, exec (.cellHour c) s = .next t ∧ (t.cell c).used = min ((s.cell c).used + 1) (2 ^ 24 - 1) ∧
      (t.cell c).serial = (s.cell c).serial ∧ (t.cell c).rated = (s.cell c).rated) ∧
    (∀ (k : Fin 1024) (v : Word),
      (s.lead ≠ m.lead → exec (.tamperConfigSet m k v) s = .next (dropFollower s m)) ∧
      (s.lead = m.lead → isConfigWord k = false → exec (.tamperConfigSet m k v) s = .next s) ∧
      (s.lead = m.lead → isConfigWord k = true → s.on Reg.TAMP_STAT_CFG_LOCKED = true →
        exec (.tamperConfigSet m k v) s = .next (hostLock s m.master (0x50000 + 4 * k) s.mc.priv)) ∧
      (s.lead = m.lead → isConfigWord k = true → s.on Reg.TAMP_STAT_CFG_LOCKED = false →
        exec (.tamperConfigSet m k v) s = .next (if configOk k v.toNat then configPut s k v.toNat else s))) ∧
    (∀ i : BitVec 9, (s.lead ≠ m.lead → exec (.alarmAck m i) s = .next (dropFollower s m)) ∧
      (s.lead = m.lead →
        let b := s.wr Reg.TAMP_CTL_ACK_INDEX i.toNat;
        let may := s.on Reg.TAMP_STAT_ALARM = true ∧ i.toNat = s.rd Reg.LAST_ALARM ∧ s.tamp.main = true ∧ ∀ e ∈ s.tamp.sens, e.2.asserted = true → sensResponse s e.1 ≠ 1;
        (may → exec (.alarmAck m i) s = .next (tampRefresh (ledgerPut (b.flag Reg.TAMP_STAT_ALARM false) 0xC 0x3F (leOctets 2 i.toNat)))) ∧
        (¬ may → exec (.alarmAck m i) s = .next (b.flag Reg.TAMP_STAT_ACK_REF true)))) ∧
    (s.lead ≠ m.lead → exec (.winClose m) s = .next (dropFollower s m)) ∧
    (s.lead = m.lead → exec (.winClose m) s = .next (closeWindow s 2 0x3F)) ∧
    (s.on Reg.TAMP_STAT_WINDOW = true → exec .windowDurationExpiry s = .next (closeWindow (passTicks s s.tamp.winTicks) 1 0x3F)) ∧
    (s.on Reg.TAMP_STAT_WINDOW = false → exec .windowDurationExpiry s = .next s ∧ ∀ cause src, closeWindow s cause src = s) ∧
    (∀ cause src, s.on Reg.TAMP_STAT_WINDOW = true → s.mode ≠ mMaintenance → ∃ t, t = closeWindow s cause src ∧ t.on Reg.TAMP_STAT_WINDOW = false ∧ t.rd Reg.WIN_LEFT = 0 ∧
      t.tamp.winCells = 0 ∧ ∀ k ∈ suspended s, tget Sensor.clean t.tamp.sens k = Sensor.clean)

/-- The lead, lock tokens and the ends that time brings (R269, R272 to R279, R350): CLAIM takes a free lead, RELEASE gives it up, a follower's is dropped; each change counts the epoch, records, and reports; a
token is taken when free and given back by its holder; a ballot lapses at its expiry and a debug session ends. -/
def Obligations.LeadAndTokens : Prop :=
  ∀ (s : State) (m : Requester),
    (s.hostUp = false ∨ s.reqExists m = false → exec (.claim m) s = .next s) ∧
    (s.hostUp = true → s.reqExists m = true → s.lead ≠ 0 ∨ (m = .mc ∧ s.on Reg.LEAD_STAT_MC_ALLOWED = false) →
      exec (.claim m) s = .next (s.flag (Reg.LEAD_STAT_REFUSED m.idx) true)) ∧
    (s.hostUp = true → s.reqExists m = true → s.lead = 0 → m ≠ .mc ∨ s.on Reg.LEAD_STAT_MC_ALLOWED = true →
      exec (.claim m) s = .next (changeLead s m.lead 4 m.master none)) ∧
    (s.hostUp = false → exec (.releaseLead m) s = .next s) ∧
    (s.hostUp = true → s.lead = m.lead → exec (.releaseLead m) s = .next (changeLead s 0 2 m.master none)) ∧
    (s.hostUp = true → s.lead ≠ m.lead → exec (.releaseLead m) s = .next (s.flag (Reg.LEAD_STAT_NL m.idx) true)) ∧
    (∀ new cause src keep, src < 0xE0 → s.rd Reg.LEAD_EPOCH + 1 < 2 ^ 32 → s.on Reg.DBG_STAT_ACTIVE = false → s.on Reg.TAMP_STAT_WINDOW = false →
      (∀ b < 32, (s.ballot b).st ≠ 1 ∧ (s.ballot b).st ≠ 2) → ∀ t, t = pfEvent (jrecG ((s.wr Reg.LEAD_STAT_LEAD new).wr Reg.LEAD_EPOCH (s.rd Reg.LEAD_EPOCH + 1)) 0x0110 src
        (s.rd Reg.LEAD_EPOCH + 1) (leOctets 1 s.lead ++ leOctets 1 new ++ leOctets 1 cause) false false false) 8 →
      (∀ b < 32, (t.ballot b).st ≠ 1 ∧ (t.ballot b).st ≠ 2) → t.on Reg.DBG_STAT_ACTIVE = false → t.on Reg.TAMP_STAT_WINDOW = false →
      changeLead s new cause src keep = t) ∧
    (∀ (n : Fin 16) (k : TokenMaster),
      (s.rd (Reg.TOKEN_HOLDER n) = 0xFF → ∃ t, exec (.acquire n k) s = .next t ∧ t.rd (Reg.TOKEN_HOLDER n) = tokenId k) ∧
      (s.rd (Reg.TOKEN_HOLDER n) ≠ 0xFF → exec (.acquire n k) s = .next s) ∧
      (s.rd (Reg.TOKEN_HOLDER n) = tokenId k → ∃ t, exec (.tokenRelease n k) s = .next t ∧ t.rd (Reg.TOKEN_HOLDER n) = 0xFF ∧ t.on (Reg.TOKEN_BROKEN n) = false) ∧
      (s.rd (Reg.TOKEN_HOLDER n) ≠ tokenId k → exec (.tokenRelease n k) s = .next s)) ∧
    (∀ b : Fin 32, let x := s.ballot b
      (x.st ≠ 1 → x.st ≠ 2 → exec (.ballotExpiry b) s = .next s) ∧
      (x.st = 1 ∨ x.st = 2 → exec (.ballotExpiry b) s =
        .next (pfEvent (jrec ((passTicks s (x.expiry - s.tamp.tick)).setBallot b { x with st := 4 }) 0x0105 0xE4 x.id (ballotPayload x 0 1)) 9))) ∧
    (s.on Reg.DBG_STAT_ACTIVE = false → exec .debugSessionExpiry s = .next s) ∧
    (s.on Reg.DBG_STAT_ACTIVE = true → exec .debugSessionExpiry s = .next (endDebugNow (passTicks s s.dbg.ticks))) ∧
    (s.on Reg.DBG_STAT_ACTIVE = true → s.rd Reg.DBG_STAT_LEVEL ≠ 2 →
      endDebugNow s = clearDebug (jrec s 0x0602 0xE7 (s.rd Reg.DBG_STAT_LEVEL) (s.dbg.cert.take 16)))

/-! ### Memory protection, the memory subsystem, measurement, plain registers (spec/00, 07, 14, 15) -/

/-- The page ownership table and regions (R336 to R341, R344, R345): an unlocked entry of a usable page takes its value and, once the table has a backing store, is written through; locked ones are dropped and
reported; an unlocked region register takes its fields; a report is popped from the head. -/
def Obligations.OwnershipAndRegions : Prop :=
  ∀ (s : State) (sc : Fin 2),
    (∀ (p : Fin 524288) (v : BitVec 16),
      (s.usable ≤ p → exec (.potEntryWrite sc p v) s = .next (s.flag Reg.POT_STAT_RANGE true)) ∧
      (p < s.usable → bit (s.rd (Reg.POT_ENTRY p)) 12 = true → exec (.potEntryWrite sc p v) s = .next (lockViolation s sc true true (0x30800000 + p))) ∧
      (p < s.usable → bit (s.rd (Reg.POT_ENTRY p)) 12 = false → ∃ t, exec (.potEntryWrite sc p v) s = .next t ∧ t.rd (Reg.POT_ENTRY p) = v.toNat ∧
        (s.on Reg.POT_BACK_BASE16.mark = false → t = s.wr (Reg.POT_ENTRY p) v.toNat) ∧
        (s.on Reg.POT_BACK_BASE16.mark = true → (s.mem.poison = [] ∧ s.mem.bad = [] ∧ s.mem.chainBad = []) → s.on Reg.MEM_STAT_VSTUCK = false → t.on Reg.MEM_STAT_VSTUCK = false →
          t.dramOctets (backAddr s p) 2 = leOctets 2 v.toNat))) ∧
    (∃ t, exec .potSyncSet s = .next t ∧ t.on Reg.POT_CTL_SYNC = false) ∧
    (∀ v : BitVec 15,
      (s.on Reg.POT_BACK_BASE16.mark = true → v.toNat ≠ s.rd Reg.POT_BACK_BASE16 → exec (.potBackSet sc v) s = .next (lockViolation s sc true true 0x30200021)) ∧
      (s.on Reg.POT_BACK_BASE16.mark = true → v.toNat = s.rd Reg.POT_BACK_BASE16 → exec (.potBackSet sc v) s = .next s) ∧
      (s.on Reg.POT_BACK_BASE16.mark = false → ∃ t, exec (.potBackSet sc v) s = .next t ∧ t.rd Reg.POT_BACK_BASE16 = v.toNat ∧ t.on Reg.POT_BACK_BASE16.mark = true ∧
        ∀ i < 16, t.rd (Reg.POT_ENTRY (16 * v.toNat + i)) = 2 ^ 13 + 2 ^ 12 + 2)) ∧
    (∀ (k : Fin 3) (r : Fin 16) (off : Fin 4) (v : Word), let a := 0x30201000 + 64 * k.val + 4 * r.val + off.val;
      (s.on (Reg.RGN_ATTR_LOCK k r) = true → exec (.regionSet sc k r off v) s = .next (lockViolation s sc true true a)) ∧
      (s.on (Reg.RGN_ATTR_LOCK k r) = false → s.lockedChange a v.toNat = false → exec (.regionSet sc k r off v) s = .next (s.wrWord a v.toNat))) ∧
    (∀ (k : Fin 3) (r : Fin 16) (v : Word), s.on (Reg.RGN_ATTR_LOCK k r) = false → ∃ t u, exec (.regionSet sc k r 0 v) s = .next t ∧ t.rd (Reg.RGN_BASE k r) = v.toNat % 2 ^ (Reg.RGN_BASE k r).wid ∧
      exec (.regionSet sc k r 1 v) s = .next u ∧ u.rd (Reg.RGN_LIMIT k r) = v.toNat % 2 ^ (Reg.RGN_LIMIT k r).wid) ∧
    (∃ t, exec .violPop s = .next t ∧ t.viol = s.viol.drop 1 ∧ t.rd Reg.VIOL_STAT_ENTRIES = (s.viol.length - 1) % 2 ^ Reg.VIOL_STAT_ENTRIES.wid)

/-- The memory subsystem (R353, R354, R359, R361 to R363, R366): training ends in Secure Boot, the fill counts its pages to the last, the vault's base is set where the vault fits, the line-write window writes one
line, scrub corrects up to three octets of a line and counts what it cannot correct. -/
def Obligations.MemorySubsystem : Prop :=
  ∀ (s : State) (sc : Fin 2),
    (exec .dramZqCalibration s = .next s) ∧
    (∀ pass, (s.mode ≠ mSecureBoot ∨ s.on Reg.MEM_STAT_TRAINED = true → exec (.ddrTrainingDone pass) s = .next s)) ∧
    (s.mode = mSecureBoot → s.on Reg.MEM_STAT_TRAINED = false → (∃ t, exec (.ddrTrainingDone true) s = .next t ∧ t.on Reg.MEM_STAT_TRAINED = true ∧ t.sc0.running = true ∧ t.sc0.secure = true) ∧
      exec (.ddrTrainingDone false) s = .next (enterFault s 3)) ∧
    (s.on Reg.MEM_STAT_TRAINED = false ∨ s.on Reg.MEM_STAT_FILL_DONE = true → exec .sealedFillPage s = .next s) ∧
    (s.on Reg.MEM_STAT_TRAINED = true → s.on Reg.MEM_STAT_FILL_DONE = false → s.rd2 Reg.MEM_FILL_L Reg.MEM_FILL_H < s.usable → ∃ t, exec .sealedFillPage s = .next t ∧
      t.rd2 Reg.MEM_FILL_L Reg.MEM_FILL_H = s.rd2 Reg.MEM_FILL_L Reg.MEM_FILL_H + 1 ∧
      t.on Reg.MEM_STAT_FILL_DONE = decide (s.usable ≤ s.rd2 Reg.MEM_FILL_L Reg.MEM_FILL_H + 1)) ∧
    (s.vault.key = none ∨ s.on Reg.MEM_STAT_VAULT_READY = true → exec .vaultFillDone s = .next s) ∧
    (s.vault.key ≠ none → s.on Reg.MEM_STAT_VAULT_READY = false → s.vault.tableOk = false ∨ s.vault.await ≠ [] →
      exec .vaultFillDone s = .next (s.flag Reg.MEM_STAT_VAULT_READY true)) ∧
    (∀ (high : Bool) (v : Word), let a := 0x30240002 + b2n high;
      let vb := if high then s.rd Reg.MEM_VAULT_BASE_L + 2 ^ 18 * (v.toNat % 2) else v.toNat + 2 ^ 18 * s.rd Reg.MEM_VAULT_BASE_H;
      (s.lockedChange a v.toNat = true → exec (.memVaultBaseSet sc high v) s = .next (lockViolation s sc true true a)) ∧
      (s.lockedChange a v.toNat = false → s.usable < vb + 38035 → exec (.memVaultBaseSet sc high v) s = .next (s.flag Reg.MEM_STAT_CFG_ERR true)) ∧
      (s.lockedChange a v.toNat = false → vb + 38035 ≤ s.usable → exec (.memVaultBaseSet sc high v) s = .next (s.wrWord a v.toNat))) ∧
    (let addr := s.rd2 Reg.MEM_LW_ADDR_L Reg.MEM_LW_ADDR_H / 32 * 32;
      let line := (addr - 0x400000000) / 32;
      checkAccess s ⟨sc, true, true, 0xFFF, .write, addr, 0⟩ = none → targetOf sc addr = 7 → tget 0 s.mem.ver line < 2 ^ 56 - 1 →
      ∃ t, exec (.lineWrite sc) s = .next t ∧ t.on Reg.MEM_LW_STAT_DONE = true ∧ t.on Reg.MEM_LW_STAT_ERR = false ∧
        t.dramOctets (64 * line) 64 = unpackWords ((List.range 32).map (fun w => s.rd (Reg.MEM_LW_DATA w))) ∧
        tget 0 t.mem.ver line = tget 0 s.mem.ver line + 1 ∧ tget false t.mem.poison line = false ∧
        ∀ o, o < 64 * line ∨ 64 * line + 64 ≤ o → tget 0 t.mem.dram o = tget 0 s.mem.dram o) ∧
    (let addr := s.rd2 Reg.MEM_LW_ADDR_L Reg.MEM_LW_ADDR_H / 32 * 32;
      let acc : Access := ⟨sc, true, true, 0xFFF, .write, addr, 0⟩;
      ∀ r, checkAccess s acc = some r → exec (.lineWrite sc) s =
        .next (((reportRefusal s acc r).flag Reg.MEM_LW_STAT_ERR true).flag Reg.MEM_LW_STAT_DONE true)) ∧
    (∀ (line : BitVec 29) (e : Fin 81),
      (s.rd Reg.MEM_SCRUB_PERIOD = 0 ∨ tget false s.mem.poison line.toNat = true → exec (.patrolScrub line e) s = .next s) ∧
      (s.rd Reg.MEM_SCRUB_PERIOD ≠ 0 → tget false s.mem.poison line.toNat = false → tget false s.mem.chainBad line.toNat = false →
        (e.val = 0 → tget 0 s.mem.bad line.toNat = 0 → exec (.patrolScrub line e) s = .next s) ∧
        (1 ≤ e.val → e.val ≤ 3 → ∃ t, exec (.patrolScrub line e) s = .next t ∧ tget 0 t.mem.bad line.toNat = 0 ∧ t.rd Reg.MEM_ERR_INFO_KIND = 0 ∧ t.rd Reg.MEM_ERR_INFO_MASTER = 0xFE ∧
          t.mem.dram = s.mem.dram) ∧
        (3 < e.val → ∃ t, exec (.patrolScrub line e) s = .next t ∧ t.on Reg.MEM_STAT_UE = true ∧ t.rd Reg.MEM_ERR_INFO_KIND = 1 ∧ t.mem.poison = s.mem.poison ∧
          t.mem.dram = s.mem.dram)))

/-- The boot tap and measurement (R177 to R182): an armed tap takes the image that goes to SRAM, its digest extends MEAS_0; a request set asks for one extension at a time within its range, and the block makes
it: the register becomes SHA-384 of itself and the value, with its records. -/
def Obligations.BootTapAndMeasurement : Prop :=
  ∀ (s : State),
    (s.on Reg.BOOT_TAP_STAT_LOCKED = true → exec .bootTapArm s = .next (lockViolation s 0 true true 0x300D0000) ∧
      ∀ a img, exec (.bootTapClose a img) s = .next (lockViolation s 0 true true 0x300D0000)) ∧
    (s.on Reg.BOOT_TAP_STAT_LOCKED = false → s.mode = mSecureBoot → s.on Reg.BOOT_TAP_CTL_CLOSE = false → ∃ t, exec .bootTapArm s = .next t ∧ t.on Reg.BOOT_TAP_STAT_ARMED = true ∧
      t.du 63 = duFresh 3 ∧ t.rd2 Reg.BOOT_TAP_OCT_L Reg.BOOT_TAP_OCT_H = 0) ∧
    (s.on Reg.BOOT_TAP_STAT_LOCKED = false → s.mode ≠ mSecureBoot → exec .bootTapArm s = .next s ∧ ∀ a img, exec (.bootTapClose a img) s = .next s) ∧
    (s.on Reg.BOOT_TAP_STAT_LOCKED = false → s.on Reg.BOOT_TAP_STAT_ARMED = true → s.mode = mSecureBoot → ∀ a img, ∃ t, exec (.bootTapClose a img) s = .next t ∧
      t.on Reg.BOOT_TAP_STAT_ARMED = false ∧ t.on Reg.BOOT_TAP_CTL_CLOSE = true ∧ t.meas.queue = s.meas.queue ++ [⟨3, 0, sha384 img⟩] ∧ (t.du 63).dig = sha384 img ∧
      t.mem = (s.sramPut a.toNat img).mem ∧ ((List.range 24).map (fun w => t.rd (Reg.BOOT_TAP_DIG w))) = (packWords (sha384 img)).map BitVec.toNat ∧
      t.rd2 Reg.BOOT_TAP_OCT_L Reg.BOOT_TAP_OCT_H = (s.rd2 Reg.BOOT_TAP_OCT_L Reg.BOOT_TAP_OCT_H + img.length) % 2 ^ 36) ∧
    (∀ (sc : Fin 2) (i : Fin 32),
      (s.on (Reg.MEASX_CMD_GO sc) = true → exec (.measxGo (.sc sc) i) s = .next s) ∧
      (s.on (Reg.MEASX_CMD_GO sc) = false → 1 ≤ i.val → i.val ≤ 15 → ∃ t, exec (.measxGo (.sc sc) i) s = .next t ∧ t.on (Reg.MEASX_CMD_GO sc) = true ∧
        t.meas.queue = s.meas.queue ++ [⟨sc, i, measxData s sc⟩]) ∧
      (s.on (Reg.MEASX_CMD_GO sc) = false → i.val = 0 ∨ 15 < i.val → exec (.measxGo (.sc sc) i) s =
        .next (((s.wr (Reg.MEASX_CMD_INDEX sc) i).wr (Reg.MEASX_STAT_ERR sc) 1).flag (Reg.MEASX_STAT_DONE sc) true))) ∧
    (∀ (m : Requester) (i : Fin 32),
      (m = .mc ∨ s.lead ≠ m.lead ∨ s.hostUp = false → exec (.measxGo (.host m) i) s = .next (dropFollower s m)) ∧
      (m ≠ .mc → s.lead = m.lead → s.hostUp = true → s.on (Reg.MEASX_CMD_GO 2) = false → 16 ≤ i.val → ∃ t, exec (.measxGo (.host m) i) s = .next t ∧
        t.on (Reg.MEASX_CMD_GO 2) = true ∧ t.meas.queue = s.meas.queue ++ [⟨2, i, measxData s 2⟩]) ∧
      (m ≠ .mc → s.lead = m.lead → s.hostUp = true → s.on (Reg.MEASX_CMD_GO 2) = false → i.val < 16 → ∃ t, exec (.measxGo (.host m) i) s = .next t ∧
        t.rd (Reg.MEASX_STAT_ERR 2) = 1 ∧ t.on (Reg.MEASX_STAT_DONE 2) = true ∧ t.meas = s.meas)) ∧
    (s.meas.queue = [] → exec .measExtension s = .next s) ∧
    (∀ r rest, s.meas.queue = r :: rest → ∃ t, exec .measExtension s = .next t ∧ t.meas.queue = rest ∧ t.measReg r.index = sha384 (s.measReg r.index ++ fitOctets 48 r.d) ∧
      (∀ j, j ≠ r.index → t.measReg j = s.measReg j) ∧ (r.set = 3 → t.on Reg.BOOT_TAP_CTL_CLOSE = false) ∧
      (r.set ≠ 3 → t.on (Reg.MEASX_CMD_GO r.set) = false ∧ t.rd (Reg.MEASX_STAT_ERR r.set) = 0 ∧ t.on (Reg.MEASX_STAT_DONE r.set) = true))

/-- Plain registers (R8, R10, R33, R35, R335): a controller's access passes the fabric's check or is reported; a host's reaches the window of a function that answers, aligned; a device word without a rule of its own takes its
fields by their access codes, and the low word of a wide counter latches the high. -/
def Obligations.PlainRegisters : Prop :=
  ∀ (s : State) (v : BitVec 32),
    (∀ (c : CtlId) (a : DWord), targetOf c.num a.toNat ≠ 6 → exec (.registerSet (.word c a) v) s = .next s ∧ exec (.latchedRead (.word c a)) s = .next s) ∧
    (∀ (c : CtlId) (a : DWord) (r : Refused), targetOf c.num a.toNat = 6 →
      (checkAccess s (ctlAccess s c .write a 0) = some r → exec (.registerSet (.word c a) v) s = .next (reportRefusal s (ctlAccess s c .write a 0) r)) ∧
      (checkAccess s (ctlAccess s c .read a 0) = some r → exec (.latchedRead (.word c a)) s = .next (reportRefusal s (ctlAccess s c .read a 0) r))) ∧
    (∀ (c : CtlId) (a : DWord), targetOf c.num a.toNat = 6 →
      (checkAccess s (ctlAccess s c .write a 0) = none →
        exec (.registerSet (.word c a) v) s = .next (devWrite s ⟨c.num, (s.ctl c).secure, (s.ctl c).priv⟩ a.toNat (v.toNat % 2 ^ 18))) ∧
      (checkAccess s (ctlAccess s c .read a 0) = none → exec (.latchedRead (.word c a)) s = .next (devRead s c.num a.toNat).2)) ∧
    (∀ (p : Fin 2) (off : BitVec 26),
      (reachable s (pfA + p) = false → exec (.registerSet (.pf p off) v) s = .next s ∧ exec (.latchedRead (.pf p off)) s = .next s) ∧
      (reachable s (pfA + p) = true → off.toNat % 4 ≠ 0 →
        exec (.registerSet (.pf p off) v) s = .next (accErr s (pfA + p)) ∧ exec (.latchedRead (.pf p off)) s = .next (accErr s (pfA + p))) ∧
      (reachable s (pfA + p) = true → off.toNat % 4 = 0 → exec (.registerSet (.pf p off) v) s = .next (pfWrite s p off.toNat v.toNat) ∧
        exec (.latchedRead (.pf p off)) s = .next (pfRead s p off.toNat).2)) ∧
    (∀ (f : Fin 2048) (off : BitVec 14),
      (reachable s f = false → exec (.registerSet (.vf f off) v) s = .next s ∧ exec (.latchedRead (.vf f off)) s = .next s) ∧
      (reachable s f = true → off.toNat % 4 ≠ 0 → exec (.registerSet (.vf f off) v) s = .next (accErr s f) ∧ exec (.latchedRead (.vf f off)) s = .next (accErr s f)) ∧
      (reachable s f = true → off.toNat % 4 = 0 → exec (.registerSet (.vf f off) v) s = .next (vfWrite s f off.toNat v.toNat) ∧ exec (.latchedRead (.vf f off)) s = .next s)) ∧
    (∀ (f : Fld) (x : Nat),
      (f.acc = .rw → (s.wrAcc f x).rd f = x / 2 ^ f.lo % 2 ^ f.wid) ∧
      (f.acc = .ro ∨ f.acc = .wo ∨ f.acc = .xo → s.wrAcc f x = s) ∧
      (f.acc = .w1c → ∀ i < f.wid, ((s.wrAcc f x).rd f).testBit i = ((s.rd f).testBit i && !x.testBit (f.lo + i))) ∧
      (f.acc = .w1s → ∀ i < f.wid, ((s.wrAcc f x).rd f).testBit i = ((s.rd f).testBit i || x.testBit (f.lo + i))) ∧
      (f.acc = .wl → s.on f.mark = true → s.wrAcc f x = s) ∧
      (f.acc = .wl → s.on f.mark = false → (s.wrAcc f x).rd f = x / 2 ^ f.lo % 2 ^ f.wid ∧ (s.wrAcc f x).on f.mark = true))

/-! ### The management controller, time, the debug port, SPDM (spec/13, 14, 18, 20) -/

/-- The management controller's surroundings (R411, R412, R414, R415, R418, R422): release, reset and watchdog of the MC; a monitor sample beyond a threshold sets its level, latches line 0 and logs; health-log and
staging commands run until the flash is done; sideband messages reach the MC and are answered. -/
def Obligations.Management : Prop :=
  ∀ (s : State),
    (s.on Reg.MC_STAT_RUNNING = true → exec .mcRun s = .next s) ∧
    (s.on Reg.MC_STAT_RUNNING = false → ∃ t, exec .mcRun s = .next t ∧ t.mc = { Ctl.reset false with running := true } ∧ t.on Reg.MC_STAT_RUNNING = true) ∧
    (exec .mcReset s = .next (mcResetEffects ({ s with mc := { Ctl.reset false with running := true } }.flag Reg.MC_STAT_RUNNING true))) ∧
    (s.rd Reg.MC_WDOG_MS = 0 ∨ s.on Reg.MC_STAT_RUNNING = false → exec .mcWdogExpiry s = .next s) ∧
    (s.rd Reg.MC_WDOG_MS ≠ 0 → s.on Reg.MC_STAT_RUNNING = true → exec .mcWdogExpiry s = .next (mcResetEffects
      ((({ s with mc := Ctl.reset false }.flag Reg.MC_STAT_RUNNING false).flag Reg.MC_CTL_RUN false).flag Reg.MC_STAT_WDOG true))) ∧
    (s.lead ≠ 3 → mcResetEffects s = hlogAdd (breakTokens ((s.flag Reg.MC_STAT_HALTED false).flag Reg.MGT_STAT_MC_HALTED false) (fun h => decide (h = 2))) 5 0xFF []) ∧
    (exec .wdogKick s = .next { s with irq := { s.irq with mcWdog := 0 } }) ∧
    (∀ (k : Fin 14) (v : Int), let l := monLevel s k v;
      let b := s.wr (Reg.MON_VAL_VALUE k) (v % 2 ^ 16).toNat;
      (l = s.rd (Reg.MON_VAL_LEVEL k) → exec (.monitorSample k v) s = .next b) ∧
      (l ≠ s.rd (Reg.MON_VAL_LEVEL k) → ∃ t, exec (.monitorSample k v) s = .next t ∧ t.rd (Reg.MON_VAL_LEVEL k) = l ∧ bit (t.rd Reg.MC_INT_LATCH) 0 = true ∧
        (t.on Reg.MGT_STAT_MON_CRIT = true ↔ ∃ j < 14, t.rd (Reg.MON_VAL_LEVEL j) = 2)) ∧
      (l = 2 ↔ monBeyond k v (signed18 (s.rd (Reg.MON_CRIT_THR k))) (decide (s.rd (Reg.MON_VAL_LEVEL k) = 2)) = true)) ∧
    (s.on Reg.HLOG_APPEND_GO = true → exec .hlogAppend s = .next s) ∧
    (s.on Reg.HLOG_APPEND_GO = false → let o := unpackWords ((List.range 9).map (fun w => s.rd (Reg.HLOG_DATA w)));
      exec .hlogAppend s = .next (((hlogAdd s (leAt o 0 1) (leAt o 1 1) (octAt o 2 13)).setMgmt (fun m => { m with flashOp := 1 })).flag Reg.HLOG_APPEND_GO true)) ∧
    (∀ m : Requester, (s.lead ≠ m.lead → exec (.hlogErase m) s = .next (dropFollower s m)) ∧
      (s.lead = m.lead → s.on Reg.MGT_CFG_HLOG_ERASE = false → ∃ t, exec (.hlogErase m) s = .next t ∧ t.mgmt.flashOp = 2 ∧ t.mgmt.hlog.length = 1)) ∧
    (s.on Reg.STAGE_CMD_GO = true ∨ s.on Reg.MGT_CFG_MC_STAGE = false → exec .stageCmdGo s = .next s) ∧
    (s.on Reg.STAGE_CMD_GO = false → s.on Reg.MGT_CFG_MC_STAGE = true → let a := s.rd2 Reg.STAGE_ADDR_L Reg.STAGE_ADDR_H;
      let n := min (leAt (s.sramGet a 16) 8 4 - leAt (s.sramGet a 16) 4 4) (2 * (0x3020000 - a) - 16);
      ∀ t st code, stageBlock s 3 2 (s.sramGet a (16 + n)) = (t, st, code) → exec .stageCmdGo s =
        .next ((((t.wr Reg.STAGE_CMD_STATUS st).wr Reg.STAGE_CMD_CODE code).flag Reg.STAGE_CMD_GO true).setMgmt (fun m => { m with flashOp := 3 }))) ∧
    (let b := s.setMgmt (fun m => { m with flashOp := 0 });
      (s.mgmt.flashOp = 0 → exec .flashDone s = .next b) ∧
      (s.mgmt.flashOp = 1 → exec .flashDone s = .next (mcLatch (b.flag Reg.HLOG_APPEND_GO false) 2)) ∧
      (s.mgmt.flashOp = 2 → exec .flashDone s = .next (b.flag Reg.MGT_CFG_HLOG_ERASE false)) ∧
      (s.mgmt.flashOp = 3 → exec .flashDone s = .next (mcLatch (b.flag Reg.STAGE_CMD_GO false) 2))) ∧
    (∃ t, exec .stagingSessionTimeout s = .next t ∧ t.mgmt.stage = none ∧ t.on Reg.MGT_STAT_STAGE_BUSY = false) ∧
    (∀ msg : List Octet, let inst := nth 0 msg 0 &&& 0x1F;
      (nth 0 msg 1 = 1 → ∃ t, exec (.mctpControl msg) s = .next t ∧ t.mgmt.eid = (nth 0 msg 3).toNat ∧ t.mgmt.mctpIn = s.mgmt.mctpIn ++ [msg] ∧
        t.sent = s.sent ++ [.mctp [inst, 1, 0, 0, nth 0 msg 3, 0]]) ∧
      (nth 0 msg 1 = 2 → ∃ t, exec (.mctpControl msg) s = .next t ∧ t.mgmt.eid = s.mgmt.eid ∧ t.sent = s.sent ++ [.mctp [inst, 2, 0, BitVec.ofNat 8 s.mgmt.eid, 0, 0]]) ∧
      (nth 0 msg 1 ≠ 1 → nth 0 msg 1 ≠ 2 → nth 0 msg 1 ≠ 5 → ∃ t, exec (.mctpControl msg) s = .next t ∧ t.sent = s.sent ++ [.mctp [inst, nth 0 msg 1, 5]]) ∧
      (nth 0 msg 2 = 0x11 → leAt msg 3 2 < 14 → ∃ t, exec (.pldmPlatformMonitoring msg) s = .next t ∧ t.mgmt.mctpIn = s.mgmt.mctpIn ++ [msg] ∧
        t.sent = s.sent ++ [.mctp ([inst, 2, 0x11, 0, 3, 0, 0] ++ [if s.rd (Reg.MON_VAL_LEVEL (leAt msg 3 2)) = 0 then 1 else if s.rd (Reg.MON_VAL_LEVEL (leAt msg 3 2)) = 1 then 2 else 3] ++
          [0, 0] ++ leOctets 2 (s.rd (Reg.MON_VAL_VALUE (leAt msg 3 2))))]) ∧
      (∃ t, exec (.activateFirmware msg) s = .next t ∧ t.mgmt.mctpIn = s.mgmt.mctpIn ++ [msg] ∧ t.sent = s.sent ++ [.mctp [inst, 5, nth 0 msg 2, 5]]) ∧
      (s.on Reg.MGT_CFG_MC_STAGE = false ∨ s.mc.running = false → ∃ t, exec (.requestFirmwareData msg) s = .next t ∧ t.mgmt.mctpIn = s.mgmt.mctpIn ++ [msg] ∧ t.sent = s.sent) ∧
      (s.on Reg.MGT_CFG_MC_STAGE = true → s.mc.running = true → ∀ t st code, stageBlock (mctpArrive s msg) 3 2 msg = (t, st, code) →
        exec (.requestFirmwareData msg) s = .next ((t.wr Reg.STAGE_CMD_STATUS st).wr Reg.STAGE_CMD_CODE code)) ∧
      (∃ t, exec (.ptpEventMessage msg) s = .next t ∧ t.mgmt.ethIn = s.mgmt.ethIn ++ [(msg, some (s.mgmt.secs, s.mgmt.ns))] ∧ t.irq.ethFrame = true) ∧
      (∃ t, exec (.mgmtEthernetFrame msg) s = .next t ∧ t.mgmt.ethIn = s.mgmt.ethIn ++ [(msg, none)] ∧ t.irq.ethFrame = true))

/-- Disciplined time (R385, R422 to R424): the rate is bounded, a step adds whole, a set time begins ACQUIRING; LOCK and the timers move the time state as Table 18.10 says; an edge of PPS_IN latches the
counter; PPS_OUT rises where the time is good. -/
def Obligations.DisciplinedTime : Prop :=
  ∀ (s : State) (v : Word),
    (s.on Reg.TIME_CTL_LOCK = false → exec (.timeRateSet v) s = .next ((s.wr Reg.TIME_RATE_H v.toNat).setMgmt (fun m => { m with
      rate := max (-137438953) (min 137438953 (BitVec.ofNat 36 (s.rd Reg.TIME_RATE_L + 2 ^ 18 * v.toNat)).toInt), recent := true }))) ∧
    (s.on Reg.TIME_CTL_LOCK = false → ∃ t, exec (.timeStep v) s = .next t ∧
      let w := timeWords Reg.TIME_STEP (s.wr (Reg.TIME_STEP 4) v.toNat);
      let sum : Int := (s.mgmt.secs : Int) * 1000000000 + s.mgmt.ns + (BitVec.ofNat 48 w.1).toInt * 1000000000 + w.2;
      (t.mgmt.ns : Int) = sum % 1000000000 ∧ (t.mgmt.secs : Int) = sum / 1000000000 % 2 ^ 48 ∧ t.mgmt.recent = true) ∧
    (∃ t, exec (.timeSet v) s = .next t ∧ let w := timeWords Reg.TIME_SET (s.wr (Reg.TIME_SET 4) v.toNat);
      t.rd Reg.MGT_STAT_TIME_STATE = 1 ∧ (w.2 < 1000000000 → t.mgmt.ns = w.2 ∧ t.mgmt.secs = w.1 % 2 ^ 48) ∧ t.mgmt.frac = 0) ∧
    (let st := s.rd Reg.MGT_STAT_TIME_STATE;
      (s.mgmt.recent = true → exec (.timeLockSet true) s = .next (setTimeState (s.flag Reg.TIME_CTL_LOCK true) 2)) ∧
      (s.mgmt.recent = false → exec (.timeLockSet true) s = .next (s.flag Reg.TIME_CTL_LOCK true)) ∧
      (st = 2 → exec (.timeLockSet false) s = .next (setTimeState (s.flag Reg.TIME_CTL_LOCK false) 3)) ∧
      (st = 4 → exec (.timeLockSet false) s = .next (setTimeState (s.flag Reg.TIME_CTL_LOCK false) 1)) ∧
      (st ≠ 2 → st ≠ 4 → exec (.timeLockSet false) s = .next (s.flag Reg.TIME_CTL_LOCK false)) ∧
      (st = 2 → exec .holdoverTimer s = .next (setTimeState (s.setMgmt (fun m => { m with recent := false })) 3)) ∧
      (st ≠ 2 → exec .holdoverTimer s = .next (s.setMgmt (fun m => { m with recent := false }))) ∧
      (st = 3 → exec .freerunTimer s = .next (setTimeState s 4)) ∧ (st ≠ 3 → exec .freerunTimer s = .next s) ∧
      (∀ x, x < 8 → x ≠ st → (setTimeState s x).rd Reg.MGT_STAT_TIME_STATE = x ∧ bit ((setTimeState s x).rd Reg.MC_INT_LATCH) 3 = true ∧
        (x = 2 ∨ x = 3 → (setTimeState s x).tamp.anchored = true) ∧ (x = 2 → s.tamp.anchored = false → s.tamp.ledger = [] →
          (setTimeState s x).tamp.ledger = [ledgerEntry s 1 0x31 1 (leOctets 6 s.mgmt.secs ++ leOctets 4 s.mgmt.ns ++ [0])]))) ∧
    (∃ t, exec .ppsInEdge s = .next t ∧ (t.rd (Reg.PPS_IN_TS 0) + 2 ^ 18 * t.rd (Reg.PPS_IN_TS 1) = s.mgmt.ns % 2 ^ 36 ∧
      t.rd (Reg.PPS_IN_TS 2) + 2 ^ 18 * t.rd (Reg.PPS_IN_TS 3) + 2 ^ 36 * t.rd (Reg.PPS_IN_TS 4) = s.mgmt.secs % 2 ^ 54) ∧
      t.on Reg.MGT_STAT_PPS_IN_LOST = false ∧ bit (t.rd Reg.MC_INT_LATCH) 1 = true) ∧
    (s.mgmt.ppsSeen = true → s.on Reg.MGT_STAT_PPS_IN_LOST = false → ∃ t, exec .ppsInLost s = .next t ∧ t.on Reg.MGT_STAT_PPS_IN_LOST = true) ∧
    (s.mgmt.ppsSeen = false ∨ s.on Reg.MGT_STAT_PPS_IN_LOST = true → exec .ppsInLost s = .next s) ∧
    (let good := (s.rd Reg.MGT_STAT_TIME_STATE = 2 ∨ s.rd Reg.MGT_STAT_TIME_STATE = 3) ∧ s.rd (Reg.GPIO_CFG_FUNC 5) = 3 ∧ s.on Reg.MGT_STAT_CART_ALERT = false;
      (good → exec .ppsOutPulse s = .next { s with sent := s.sent ++ [.ppsOut] }) ∧ (¬ good → exec .ppsOutPulse s = .next s))

/-- JTAG and the debug port (R347, R351, R460, R461, Table 14.12): instructions that drive balls act only in the modes of R461; the port is BYPASS without a session; a level-2 session's port halts, steps and resumes a
target controller and writes its registers; level 1 writes nothing. -/
def Obligations.JtagAndDebugPort : Prop :=
  ∀ (s : State) (c : CtlId),
    let ir := fun (i : JtagIr) => { s with dbg := { s.dbg with ir := i } };
    let scan := s.mode = mUncommissioned ∨ s.mode = mZeroized ∨ s.mode = mFault;
    let port := s.on Reg.DBG_STAT_ACTIVE = true ∧ s.rd Reg.DBG_STAT_LEVEL = 2 ∧ s.dbg.ir = .debugPort;
    (exec .jtagIdcode s = .next (ir .idcode) ∧ exec .jtagNonceRead s = .next (ir .nonceRead) ∧ exec .jtagBypass s = .next (ir .bypass)) ∧
    (scan → exec .jtagExtest s = .next (ir .extest) ∧ exec .jtagClamp s = .next (ir .clamp) ∧ exec .jtagHighz s = .next (ir .highz) ∧
      ∀ cells, exec (.jtagSamplePreload cells) s = .next { s with dbg := { s.dbg with ir := .samplePreload, cells := cells } }) ∧
    (¬ scan → exec .jtagExtest s = .next (ir .bypass) ∧ exec .jtagClamp s = .next (ir .bypass) ∧ exec .jtagHighz s = .next (ir .bypass) ∧
      ∀ cells, exec (.jtagSamplePreload cells) s = .next (ir .samplePreload)) ∧
    (s.on Reg.DBG_STAT_ACTIVE = true → exec .jtagDebugPort s = .next (ir .debugPort)) ∧
    (s.on Reg.DBG_STAT_ACTIVE = false → exec .jtagDebugPort s = .next (ir .bypass)) ∧
    (port → debugHolds s c = true → (s.ctl c).running = true →
      exec (.debugHalt c) s = .next (s.onCtl c (fun k => { k with halted := true })) ∧
      (stuckHalt s c = false → exec (.debugResume c) s = .next (s.onCtl c (fun k => { k with halted := false, step := false }))) ∧
      (stuckHalt s c = false → (s.ctl c).halted = true → exec (.debugSingleStep c) s = .next (s.onCtl c (fun k => { k with step := true })))) ∧
    (¬ port ∨ debugHolds s c = false ∨ (s.ctl c).running = false →
      exec (.debugHalt c) s = .next s ∧ exec (.debugResume c) s = .next s ∧ exec (.debugSingleStep c) s = .next s) ∧
    (∀ (isStore : Bool) (r : Fin 32) (v : Word),
      (port → debugHolds s c = true → exec (.debugAccess true (.greg c r) v) s = .next (s.onCtl c (fun k => k.setReg r v))) ∧
      (s.on Reg.DBG_STAT_ACTIVE = false → ∀ x, exec (.debugAccess isStore x v) s = .next s) ∧
      (s.on Reg.DBG_STAT_ACTIVE = true → s.rd Reg.DBG_STAT_LEVEL = 1 → s.dbg.ir = .debugPort → ∀ x, exec (.debugAccess true x v) s = .next s) ∧
      (∀ a : DWord, port → (isStore = true → exec (.debugAccess true (.word a) v) s = .next (busStore s ⟨0x80, true, true, 0xFFF, .write, a.toNat, 0⟩ v).1) ∧
        exec (.debugAccess false (.word a) v) s = .next (busLoad s ⟨0x80, true, true, 0xFFF, .read, a.toNat, 0⟩).1))

/-- The SPDM responder (R300, R301, R305): served on a port that is up, each request answers in order, an exchange enters the transcript, one out of order or of another version is an error; a signature covers and
closes the transcript; a session opens, updates and ends. Message layouts are log 42. -/
def Obligations.SpdmResponder : Prop :=
  ∀ (s : State) (p : Fin 2) (msg : List Octet),
    let b := wake s 1;
    let x := b.spdm p;
    let replies := fun (t : State) (o : List Octet) => spdmSend t p o;
    (spdmServed s p = false → ∀ i ∈ [Instr.getVersion p msg, .getCapabilities p msg, .negotiateAlgorithms p msg, .getDigests p msg, .getCertificate p msg, .challenge p msg, .getMeasurements p msg,
      .keyExchange p msg, .finish p msg, .closeSession p msg, .keyUpdate p msg, .heartbeat p msg, .ideKm p msg, .doeDiscovery p (BitVec.ofNat 8 0)], exec i s = .next s) ∧
    (spdmServed s p = true →
      (∀ index : BitVec 8, exec (.doeDiscovery p index) s =
        .next (replies b (if index.toNat < 3 then [1, 0] ++ leOctets 1 index.toNat ++ leOctets 1 ((index.toNat + 1) % 3) else [0xFF, 0xFF, 0, 0]))) ∧
      (exec (.getVersion p msg) s = .next (spdmAnswer (b.setSpdm p { Spdm.reset with step := 1, ide := x.ide }) p msg [0x10, 4, 0, 0, 0, 1, 0, 0x13])) ∧
      (leAt msg 0 1 ≠ 0x13 → exec (.getCapabilities p msg) s = .next (replies b [0x13, 0x7F, 0x41, 0]) ∧ exec (.getDigests p msg) s = .next (replies b [0x13, 0x7F, 0x41, 0])) ∧
      (leAt msg 0 1 = 0x13 → x.step = 0 → exec (.getCapabilities p msg) s = .next (replies b [0x13, 0x7F, 4, 0])) ∧
      (leAt msg 0 1 = 0x13 → x.step ≥ 1 → exec (.getCapabilities p msg) s =
        .next (spdmAnswer (b.setSpdm p { x with step := max 2 x.step }) p msg ([0x13, 0x61, 0, 0] ++ fitOctets 16 Config.spdmCapabilities))) ∧
      (leAt msg 0 1 = 0x13 → x.step ≥ 2 → bit (leAt msg 8 4) 7 = true → bit (leAt msg 12 4) 1 = true → ∃ rsp,
        exec (.negotiateAlgorithms p msg) s = .next (spdmAnswer (b.setSpdm p { x with step := 3 }) p msg rsp) ∧ leAt rsp 12 4 = 0x80 ∧ leAt rsp 16 4 = 2) ∧
      (leAt msg 0 1 = 0x13 → x.step ≥ 3 →
        (exec (.getDigests p msg) s = .next (spdmAnswer b p msg ([0x13, 1, 1, 1] ++ sha384 spdmChain))) ∧
        (leAt msg 2 1 % 16 = 0 → leAt msg 4 2 < spdmChain.length → ∃ part, part = (spdmChain.drop (leAt msg 4 2)).take (leAt msg 6 2) ∧ exec (.getCertificate p msg) s =
          .next (spdmAnswer b p msg ([0x13, 2, 0, 0] ++ leOctets 2 part.length ++ leOctets 2 (spdmChain.length - leAt msg 4 2 - part.length) ++ part))) ∧
        (leAt msg 2 1 = 0 → b.rst.otpBad = false → ∃ t sig, exec (.challenge p msg) s = .next t ∧ (t.spdm p).transcript = [] ∧ sig.length = 96 ∧
          t.sent = (drawRandom b 32).2.sent ++ [.doe p ([0x13, 3, 0, 1] ++ sha384 spdmChain ++ (drawRandom b 32).1 ++ spdmSummary b (leAt msg 3 1) ++ [0, 0] ++ octAt msg 36 8 ++ sig)]) ∧
        (bit (leAt msg 2 1) 0 = true → 1 ≤ leAt msg 3 1 → leAt msg 3 1 ≤ 32 → b.rst.otpBad = false → ∃ t sig, exec (.getMeasurements p msg) s = .next t ∧ (t.spdm p).transcript = [] ∧ sig.length = 96 ∧
          t.sent = (drawRandom b 32).2.sent ++ [.doe p ([0x13, 0x60, 0, 0, 1] ++ leOctets 3 (spdmMeasure b (leAt msg 3 1)).length ++ spdmMeasure b (leAt msg 3 1) ++ (drawRandom b 32).1 ++
            [0, 0] ++ octAt msg 37 8 ++ sig)]) ∧
        (leAt msg 3 1 = 0 → x.sess = 0 → b.rst.otpBad = false → ∃ t, exec (.keyExchange p msg) s = .next t ∧ (t.spdm p).sess = 1 ∧ (t.spdm p).step = x.step) ∧
        (x.sess ≠ 1 → exec (.finish p msg) s = .next (replies b [0x13, 0x7F, 4, 0])) ∧
        (x.sess = 1 → let th := x.transcript ++ msg.take 4;
          let good := octAt msg 4 48 = hmac384 (spdmExpand (spdmExpand x.secret "req hs data" (sha384 x.transcript)) "finished" []) (sha384 th);
          (good → exec (.finish p msg) s = .next (replies (b.setSpdm p { x with
            sess := 2, secret := hmac384 (spdmExpand x.secret "derived" []) (List.replicate 48 0), transcript := th ++ octAt msg 4 48 ++ [0x13, 0x65, 0, 0] }) [0x13, 0x65, 0, 0])) ∧
          (¬ good → exec (.finish p msg) s = .next (replies (b.setSpdm p { x with sess := 0, secret := [], sid := 0 }) [0x13, 0x7F, 6, 0]))) ∧
        (x.sess ≠ 2 → ∀ i ∈ [Instr.closeSession p msg, .keyUpdate p msg, .heartbeat p msg], exec i s = .next (replies b [0x13, 0x7F, 0xB, 0])) ∧
        (x.sess = 2 →
          (exec (.closeSession p msg) s = .next (replies (b.setSpdm p { x with sess := 0, secret := [], sid := 0, updates := 0 }) [0x13, 0x6C, 0, 0])) ∧
          (exec (.heartbeat p msg) s = .next (replies b [0x13, 0x68, 0, 0])) ∧
          (leAt msg 2 1 = 1 ∨ leAt msg 2 1 = 2 → exec (.keyUpdate p msg) s =
            .next (replies (b.setSpdm p { x with secret := spdmExpand x.secret "traffic upd" [], updates := x.updates + 1 }) ([0x13, 0x69] ++ octAt msg 2 2))))) ∧
      (x.sess = 2 → leAt msg 0 1 = 2 → msg.length = 47 → exec (.ideKm p msg) s =
        .next (replies (b.setSpdm p { x with ide := tput x.ide (ideKey msg) (octAt msg 7 40) }) ([3, 0, 0] ++ octAt msg 3 1 ++ [0] ++ octAt msg 5 2))) ∧
      (x.sess = 2 → leAt msg 0 1 = 5 → ∃ t, exec (.ideKm p msg) s = .next t ∧ (t.spdm p).ide = tdel x.ide (ideKey msg)) ∧
      (x.sess ≠ 2 → exec (.ideKm p msg) s = .next (replies b [0x13, 0x7F, 0xB, 0]))) ∧
    (spdmServed s 2 = false → exec (.mctpSpdmRelay msg) s = .next s) ∧
    (spdmServed s 2 = true → leAt msg 1 1 = 0x84 → exec (.mctpSpdmRelay msg) s =
      .next (spdmAnswer ((wake s 1).setSpdm 2 { Spdm.reset with step := 1, ide := ((wake s 1).spdm 2).ide }) 2 msg [0x10, 4, 0, 0, 0, 1, 0, 0x13])) ∧
    (spdmServed s 2 = true → leAt msg 1 1 = 0xE4 → exec (.mctpSpdmRelay msg) s = .next (mctpSend s [5, 0x13, 0x7F, 7, 0]))

/-! ### The quadrille (spec/17) -/

/-- Frames of members and what their messages do (R393 to R396, R398, R402, R404 to R406): nothing is received on a port that is down; a frame that is not of its form, in the clear where it must not be, of a key
this device does not hold, seen before or too old, is discarded and counted; a message acts once; an ACK ends its message and counts an update; updates take effect in order, and a gap is asked for. -/
def Obligations.QuadrilleMessages : Prop :=
  ∀ (s : State) (port : Fin 4) (fs : List (List Octet)),
    (portUp s port = false → ∀ i ∈ [Instr.joinMessage port fs, .pair port fs, .roster port fs, .ack port fs, .statement port fs, .replica port fs, .resync port fs, .pelouxFrameDiscard port,
      .hello port (nth [] fs 0)], exec i s = .next s) ∧
    (portUp s port = true → exec (.pelouxFrameDiscard port) s = .next (dropFrame s port)) ∧
    (portUp s port = true → ∀ f, fs = [f] →
      let bad := fun (t : Nat) => f.length < 32 ∨ beAt f 0 1 ≠ 1 ∨ beAt f 1 1 ≠ t ∨ 1400 < beAt f 0x1C 2 ∨ bit (beAt f 2 1) 0 = false;
      (bad 4 → exec (.roster port fs) s = .next (dropFrame s port)) ∧ (bad 5 → exec (.ack port fs) s = .next (dropFrame s port)) ∧
      (bad 6 → exec (.statement port fs) s = .next (dropFrame s port)) ∧ (bad 7 → exec (.replica port fs) s = .next (dropFrame s port)) ∧
      (bad 8 → exec (.resync port fs) s = .next (dropFrame s port)) ∧
      (f.length < 32 → exec (.pair port fs) s = .next (dropFrame s port) ∧ exec (.joinMessage port fs) s = .next (dropFrame s port) ∧ exec (.hello port f) s = .next (dropFrame s port)) ∧
      (let k := tget LinkKey.none s.plx.keys (beAt f 4 2);
        k.rx = [] ∨ beAt f 0x10 8 ∈ k.seen ∨ beAt f 0x10 8 + 1024 ≤ k.high → bit (beAt f 2 1) 0 = true → exec (.replica port fs) s = .next (dropFrame s port))) ∧
    (portUp s port = true → ∀ typ u b, takeFrames s port typ fs = (u, some b) →
      let m := beAt (nth [] fs 0) 4 2;
      let id := beAt (nth [] fs 0) 0x18 4;
      bit (beAt (nth [] fs 0) 2 1) 1 = false →
      ((m, id) ∈ u.plx.got → (typ = 4 → exec (.roster port fs) s = .next u) ∧ (typ = 5 → exec (.ack port fs) s = .next u) ∧ (typ = 6 → exec (.statement port fs) s = .next u) ∧
        (typ = 7 → exec (.replica port fs) s = .next u) ∧ (typ = 8 → exec (.resync port fs) s = .next u)) ∧
      ((m, id) ∉ u.plx.got → ∀ g, g = u.setPlx (fun p => { p with got := (m, id) :: p.got }) →
        (typ = 5 → (∀ x ∈ g.plx.msgs, ¬ (x.id = beAt b 0 4 ∧ x.dst = m)) → exec (.ack port fs) s = .next g) ∧
        (typ = 5 → ∀ x, g.plx.msgs.find? (fun x => decide (x.id = beAt b 0 4 ∧ x.dst = m)) = some x → x.typ = 7 → ∃ t, exec (.ack port fs) s = .next t ∧
          t.plx.msgs = g.plx.msgs.filter (fun y => decide (y.id ≠ x.id)) ∧
          let k := 4096 * beAt x.body 0 2 + m;
          tget 0 t.plx.acked k = max (tget 0 g.plx.acked k) (beAt x.body 2 8)) ∧
        (typ = 6 → beAt b 0 1 = 1 → exec (.statement port fs) s = .next (sendMsg (statement g (octAt b 1 32) []).2 m 6 ([2] ++ (statement g (octAt b 1 32) []).1) true)) ∧
        (typ = 6 → beAt b 0 1 ≠ 1 → tget [] g.plx.nonces m = [] → exec (.statement port fs) s = .next g) ∧
        (typ = 8 → entState (g.entry m) ≠ 1 → exec (.resync port fs) s = .next g) ∧
        (typ = 8 → entState (g.entry m) = 1 → exec (.resync port fs) s = .next ((g.plx.updates.filter (fun e => decide (e.1 = beAt b 0 2 ∧ beAt b 2 8 ≤ e.2.1) &&
          (decide (m ∈ g.targets (beAt b 0 2)) || decide (beAt e.2.2 0 1 ∈ [5, 7])))).foldl (fun s e => sendUpdate s (beAt b 0 2) e.2.1 e.2.2 m) g)) ∧
        (typ = 7 → let d := beAt b 0 2 % 4096;
          let n := beAt b 2 8;
          (d = 0 ∨ entState (g.entry m) ≠ 1 ∨ g.role d = 1 ∨ (g.role d = 2 ∧ (tget (0, 0) g.plx.roles d).2 ≠ m) ∨ (g.role d = 0 ∧ g.domState d ≠ 0) →
            exec (.replica port fs) s = .next g) ∧
          (d ≠ 0 → entState (g.entry m) = 1 → entState (g.entry g.plx.member) = 1 → g.role d = 2 → (tget (0, 0) g.plx.roles d).2 = m →
            (n ≤ tget 0 g.plx.dseq d → exec (.replica port fs) s = .next g) ∧
            (n = tget 0 g.plx.dseq d + 1 → g.plx.heldUp = [] → ∀ r, r = applyUpdate (g.setPlx (fun p => { p with dseq := tset 0 p.dseq d n })) d (b.drop 10) → r.1.plx.heldUp = [] →
              exec (.replica port fs) s = .next (lagRefresh r.1 d)) ∧
            (tget 0 g.plx.dseq d + 1 < n → exec (.replica port fs) s = .next (lagRefresh (sendMsg (g.setPlx (fun p => { p with heldUp := p.heldUp ++ [(d, n, b.drop 10)] })) m 8
              (beOctets 2 d ++ beOctets 8 (tget 0 g.plx.dseq d + 1)) true) d)))) ∧
        (typ = 4 → b.length < entryLen → g.plx.member = 0xFFFF → exec (.roster port fs) s = .next (plxRefresh g)) ∧
        (typ = 4 → b.length = entryLen → g.plx.member = 0xFFFF → entrySigned g.plx.qid (entSerial (g.entry m)) b = true → beAt (g.entry (beAt b 0 2)) 8 8 < beAt b 8 8 →
          exec (.roster port fs) s = .next (plxRefresh (putEntry g b))))) ∧
    (portUp s port = true → ∀ f u b, fs = [f] → takeFrame s port 1 f = (u, some b) → u.plx.join = none → let m := beAt b 16 2;
      (4096 ≤ m ∨ beAt b 18 8 ≠ u.plx.qid ∨ u.plx.member = 0xFFFF ∨ m = u.plx.member → exec (.hello port f) s = .next u) ∧
      (m < 4096 → beAt b 18 8 = u.plx.qid → u.plx.member ≠ 0xFFFF → m ≠ u.plx.member → ∀ t, t = u.setPlx (fun p => { p with paths := insNat (4 * m + port) p.paths }) →
        (beAt b 34 1 = 0 → exec (.hello port f) s = .next t) ∧ (beAt b 34 1 ≠ 0 → exec (.hello port f) s = .next (heardClaim t m (beAt b 34 1))))) ∧
    (portUp s port = true → ∀ u b root, takeFrames s port 3 fs = (u, some b) → let m := beAt (nth [] fs 0) 4 2;
      let tr := pairTranscript u m;
      (4096 ≤ m ∨ entState (u.entry m) ≠ 1 → exec (.pair port fs) s = .next u) ∧
      (m < 4096 → entState (u.entry m) = 1 → beAt b 0 1 = 2 → u.tamp.root = some root → tget [] u.plx.pairing (4096 + m) ≠ [] → tget [] u.plx.pairing m ≠ [] → b.length = 4724 →
        signedBy (entSerial (u.entry m)) (tr ++ b.drop 1) tr.length = true → ∃ v, v = u.setPlx (fun p => { p with
          keys := tset LinkKey.none p.keys m (pairKeys u root m), pairing := tdel (tdel p.pairing m) (4096 + m) }) ∧ exec (.pair port fs) s = .next (resendTo (touchKey v m) m)))

/-- Links and paths (R394, R396, R402): HELLO on every enabled port; a path or a port that goes down moves its messages; a message without an acknowledgement goes again, to the next port after the eighth time; a
key that grows old is exchanged anew.
Membership (R397, R399, R401, R409): a member's command is the lead's and one at a time; JOIN begins where a device may join; ADMIT signs an entry with the next tenure; REFUSE answers; LEAVE gives membership
up; the joiner's and the caller's time runs out. -/
def Obligations.LinksAndMembership : Prop :=
  (
  ∀ (s : State) (m : Fin 4096) (port : Fin 4),
    (∃ t, exec .helloTimer s = .next t ∧ t.sent = s.sent ++ ((List.range 4).filter (fun n => s.on (Reg.PLX_PORT_CFG_ENABLE n))).map (fun n =>
      .peloux n (plxHeader 1 0 0 s.plx.member 0xFFFF s.plx.qid 0 0 36 1 ++ helloBody s n))) ∧
    (exec (.pathTimeout m port) s = .next ((s.plx.msgs.filter (fun x => decide (x.dst = m.val ∧ x.port = port.val))).foldl moveMsg
      (s.setPlx (fun p => { p with paths := p.paths.filter (fun x => decide (x ≠ 4 * m.val + port)) })))) ∧
    (bit (s.rd Reg.PLX_STAT_LINK) port = true → s.plx.msgs = [] → ∃ t, exec (.pcsLockLoss port) s = .next t ∧ bit (t.rd Reg.PLX_STAT_LINK) port = false ∧
      (∀ q < 4, q ≠ port.val → bit (t.rd Reg.PLX_STAT_LINK) q = bit (s.rd Reg.PLX_STAT_LINK) q) ∧ (∀ x ∈ t.plx.paths, x % 4 ≠ port) ∧ portUp t port = false) ∧
    (bit (s.rd Reg.PLX_STAT_LINK) port = true → exec (.pcsLockAcquired port) s = .next s) ∧
    (bit (s.rd Reg.PLX_STAT_LINK) port = false → ∃ t, exec (.pcsLockAcquired port) s = .next t ∧ bit (t.rd Reg.PLX_STAT_LINK) port = true ∧
      ∀ q < 4, q ≠ port.val → bit (t.rd Reg.PLX_STAT_LINK) q = bit (s.rd Reg.PLX_STAT_LINK) q) ∧
    (∀ id : BitVec 32,
      ((∀ x ∈ s.plx.msgs, x.id ≠ id.toNat) → exec (.messageRetryTimer id) s = .next s) ∧
      (∀ x, s.plx.msgs = [x] → x.id = id.toNat → x.tries < 8 → exec (.messageRetryTimer id) s =
        .next (transmit (s.setPlx (fun p => { p with msgs := [{ x with tries := x.tries + 1 }] })) { x with tries := x.tries + 1 } true)) ∧
      (∀ x, s.plx.msgs = [x] → x.id = id.toNat → 8 ≤ x.tries → (∀ n, portFor s x.dst n = none) → exec (.messageRetryTimer id) s = .next (s.setPlx (fun p => { p with msgs := [] }))) ∧
      (∀ x n, s.plx.msgs = [x] → x.id = id.toNat → 8 ≤ x.tries → portFor s x.dst (x.port + 1) = some n → exec (.messageRetryTimer id) s =
        .next (transmit (s.setPlx (fun p => { p with msgs := [{ x with port := n, tries := 0 }] })) { x with port := n, tries := 0 } true))) ∧
    ((tget LinkKey.none s.plx.keys m).tx = [] → exec (.linkRekeyTimer m) s = .next s) ∧
    ((tget LinkKey.none s.plx.keys m).tx ≠ [] → exec (.linkRekeyTimer m) s = .next (startPair s m)) ∧
    (∀ n root, (tget LinkKey.none s.plx.keys m).tx ≠ [] → portFor s m 0 = some n → s.tamp.root = some root → tget [] s.plx.pairing m = [] → ∃ t body, exec (.linkRekeyTimer m) s = .next t ∧
      t.sent = s.sent ++ (segments body).mapIdx (fun i o => .peloux n (plxHeader 3 0 i s.plx.member m s.plx.qid 0 s.plx.nextId o.length (segments body).length ++ o)) ∧
      body.take 5 = [1] ++ beOctets 4 ((tget LinkKey.none s.plx.keys m).exch + 1))
  ) ∧ (
  ∀ (s : State) (m : Requester),
    (s.lead ≠ m.lead → ∀ i ∈ [Instr.plxJoin m, .admitJoiner m, .refuseJoiner m, .leave m], exec i s = .next (dropFollower s m)) ∧
    (s.lead = m.lead → s.on Reg.PLX_CMD_GO = true → ∀ i ∈ [Instr.plxJoin m, .admitJoiner m, .refuseJoiner m, .leave m], exec i s = .next s) ∧
    (s.lead = m.lead → s.on Reg.PLX_CMD_GO = false →
      let taken := fun (act : Nat) => (s.wr Reg.PLX_CMD_ACTION act).flag Reg.PLX_CMD_GO true;
      let ends := fun (t : State) (st : Nat) => (t.wr Reg.PLX_CMD_STATUS st).flag Reg.PLX_CMD_GO false;
      (s.mode ≠ mOperational ∨ s.tamp.root = none ∨ s.plx.member ≠ 0xFFFF → exec (.plxJoin m) s = .next (ends (taken 1) 2)) ∧
      (s.mode = mOperational → s.tamp.root ≠ none → s.plx.member = 0xFFFF → ∃ t, exec (.plxJoin m) s = .next t ∧
        t.plx.join = some (s.rd (Reg.PLX_ARG 1) + 2 ^ 32 * s.rd (Reg.PLX_ARG 2), s.rd (Reg.PLX_ARG 0) % 4096, (drawRandom (taken 1) 32).1, 0) ∧ t.rd Reg.PLX_STAT_MSTATE = 1) ∧
      (namedJoiner s = none → exec (.admitJoiner m) s = .next (ends (taken 2) 2) ∧ exec (.refuseJoiner m) s = .next (ends (taken 3) 2)) ∧
      (∀ j, namedJoiner s = some j → exec (.refuseJoiner m) s = .next (ends (dropJoiner (taken 3) j [4, 2]) 0)) ∧
      (∀ j, namedJoiner s = some j → beAt j 16 2 ≠ 0 → entState (s.entry (beAt j 16 2)) = 1 → exec (.admitJoiner m) s = .next (ends (dropJoiner (taken 2) j [4, 3]) 3)) ∧
      (∀ j, namedJoiner s = some j → beAt j 16 2 ≠ 0 → entState (s.entry (beAt j 16 2)) ≠ 1 → s.plx.count ≥ 16383 ∨ s.plx.epoch = 0 →
        exec (.admitJoiner m) s = .next (ends (dropJoiner (taken 2) j [4, 6]) 6)) ∧
      (∀ j, namedJoiner s = some j → beAt j 16 2 ≠ 0 → entState (s.entry (beAt j 16 2)) ≠ 1 → s.plx.count < 16383 → s.plx.epoch ≠ 0 →
        let b := (taken 2).setPlx (fun p => { p with count := p.count + 1 });
        ∀ x t, signEntry b (beAt j 16 2) 1 (s.plx.epoch * 2 ^ 14 + (s.plx.count + 1)) (j.take 16) (octAt j 84 48) (octAt j 132 48) = (x, t) →
        exec (.admitJoiner m) s = .next (ends (sendRoster (dropJoiner t j ([4, 0] ++ t.members.flatMap (fun k => fitOctets entryLen (t.entry k)))) x) 0)) ∧
      (s.plx.member = 0xFFFF → exec (.leave m) s = .next (ends (taken 4) 2)) ∧
      (s.plx.member ≠ 0xFFFF → s.plx.epoch ≠ 0 → exec (.leave m) s = .next (ends (leaveQuadrille (retireMember (taken 4) s.plx.member)) 0)) ∧
      (s.plx.member ≠ 0xFFFF → s.plx.epoch = 0 → s.plx.claims = [] → exec (.leave m) s =
        .next (ends (leaveQuadrille (signBoth (taken 4) ([5] ++ beOctets 2 s.plx.member)).2) 0))) ∧
    (∃ t, t = leaveQuadrille s ∧ t.plx.member = 0xFFFF ∧ t.plx.qid = 0 ∧ t.plx.epoch = 0 ∧ t.plx.join = none ∧ t.rd Reg.PLX_STAT_MSTATE = 0) ∧
    (∀ q n o k, s.plx.join = some (q, n, o, k) →
      (k = 0 → exec .joinCallerTimeout s = .next (joinFails s 4)) ∧ (k ≠ 0 → exec .joinCallerTimeout s = .next s) ∧
      (k ≠ 0 → s.plx.joiners = [] → exec .joinAdmitTimeout s = .next (joinFails s 5)) ∧ (k = 0 → s.plx.joiners = [] → exec .joinAdmitTimeout s = .next s)) ∧
    (s.plx.join = none → exec .joinCallerTimeout s = .next s) ∧
    (∀ j, s.plx.join = none → s.plx.joiners = [j] → beAt j 83 1 = 1 → exec .joinAdmitTimeout s = .next (pendShow (s.setPlx (fun p => { p with joiners := [] })))) ∧
    (∃ t, t = joinFails s 4 ∧ t.plx.join = none ∧ t.rd Reg.PLX_CMD_STATUS = 4 ∧ t.on Reg.PLX_CMD_GO = false)
  )

/-! ### Resets, modes, power, Sleep (spec/16, 19, 20) -/

/-- Reset sources and their reach (R10, R427 to R433, R436, R444): a warm request is taken once, its reach leaves fields of a smaller reset name at their reset values and the mode Secure Boot; a reset of reach POR
leaves OTP, the tamper domain and the journal's memory; Fuse Load begins at the last release and ends in Secure Boot or Fault; a block reset clears one block. -/
def Obligations.ResetsAndReach : Prop :=
  ∀ (s : State),
    (inReset s = true ∨ s.mode = mBatteryHold → exec .rstCtlWarm s = .next s) ∧
    (inReset s = false → s.mode ≠ mBatteryHold → exec .rstCtlWarm s = .next (startWarm (s.flag Reg.RST_CTL_WARM true) 4 10 0xE4)) ∧
    (∀ arg bitNo src, inReset s = false → s.mode ≠ mSleep → s.lead = 0 → ∃ t, t = startWarm s arg bitNo src ∧ t.rst.warmReq = some arg ∧ t.halting = true ∧ bit t.rst.union bitNo = true) ∧
    (exec .rstCtlFault s = .next (enterFault (s.flag Reg.RST_CTL_FAULT true) 10)) ∧
    (s.mode ≠ mFault → s.mode ≠ mFuseLoad → s.mode ≠ mBatteryHold → ∃ t, exec .rstCtlFault s = .next t ∧ t.mode = mFault ∧ t.rd Reg.MODE_STAT_FAULT_CAUSE = 10 ∧ t.cache = [] ∧ t.drbg = none) ∧
    (s.rst.warmReq = none ∨ s.rst.pfFlush = true ∨ s.rst.por = true → exec .warmResetApply s = .next s) ∧
    (s.rst.warmReq ≠ none → s.rst.pfFlush = false → s.rst.por = false → ∃ t, exec .warmResetApply s = .next t ∧ t.mode = mSecureBoot ∧ t.rst.warmReq = none ∧ t.rst.warmOn = true ∧
      t.sc0 = Ctl.reset true ∧ t.sc1 = Ctl.reset true ∧ t.mc = Ctl.reset false ∧ t.cmds = [] ∧ t.drbg = none ∧ t.cache = [] ∧ t.ballots = [] ∧ t.mem.sram = [] ∧ t.mem.dram = s.mem.dram ∧
      t.otp = s.otp ∧ t.pending = s.pending) ∧
    (∀ (f : Fld) (r : RCls), f.lo < 32 → f.cls.num ≠ 0 → resetReaches r f.cls = true → tget f.rst (resetRegs r s.regs) f.key = f.rst) ∧
    (∀ (f : Fld) (r : RCls), f.lo < 32 → resetReaches r f.cls = false → tget f.rst (resetRegs r s.regs) f.key = s.rd f) ∧
    (s.rst.warmOn = false ∨ s.rst.now ≠ 0 ∨ s.rst.por = true → exec .warmResetRelease s = .next s) ∧
    (s.rst.warmOn = true → s.rst.now = 0 → s.rst.por = false → s.on Reg.POT_BACK_BASE16.mark = false → ∃ t, exec .warmResetRelease s = .next t ∧ t.rst.warmOn = false ∧
      t.sc0 = { Ctl.reset true with running := true } ∧ ∀ p < 524288, t.rd (Reg.POT_ENTRY p) = 0) ∧
    (∃ t, exec .supplyPor s = .next t ∧ t.mode = mBatteryHold ∧ t.rst.por = true ∧ t.otp = s.otp ∧ t.mem = Mem.reset ∧ t.cmds = [] ∧ t.sc0 = Ctl.reset true ∧ t.pending = s.pending ∧
      t.jnl.mem = s.jnl.mem ∧ (s.on Reg.TAMP_STAT_WINDOW = false → t.tamp = s.tamp)) ∧
    (s.rst.por = false → s.mode ≠ mFuseLoad → s.on Reg.TAMP_STAT_WINDOW = false → ∃ t, exec .resetNAssert s = .next t ∧ t.mode = mFuseLoad ∧ t.rst.por = true ∧ bit t.rst.now 3 = true ∧
      t.otp = s.otp ∧ t.tamp = s.tamp ∧ t.jnl.mem = s.jnl.mem ∧ t.jnl.buf = []) ∧
    (s.rst.por = true → exec .resetNAssert s = .next (noteSource s 3 true)) ∧
    (s.mode ≠ mBatteryHold → s.mode ≠ mFuseLoad → s.rst.por = false → ∃ t, exec .warmNAssert s = .next t ∧ t.rst = { (startWarm s 1 7 0xE4).rst with now := setBit (startWarm s 1 7 0xE4).rst.now 7 }) ∧
    (s.mode = mBatteryHold ∨ s.rst.por = true → exec .warmNAssert s = .next (noteSource s 7 true)) ∧
    (∀ b : Fin 11, let u := { s with rst := { s.rst with now := clearBit s.rst.now b } };
      (u.rst.now ≠ 0 ∨ (s.rst.por = false ∧ s.rst.loadStop = false) → exec (.resetSourceRelease b) s = .next u) ∧
      (u.rst.now = 0 → s.rst.por = true → s.tamp.lost = false → ∃ t, exec (.resetSourceRelease b) s = .next t ∧ t.mode = mFuseLoad ∧ t.rst.por = false ∧
        t.tamp.session = min (s.tamp.session + 1) (2 ^ 32 - 1) ∧ t.tamp.main = true ∧ t.tamp.anchored = false)) ∧
    (∀ (ok split : Bool) (strap : Fin 8),
      (s.mode ≠ mFuseLoad ∨ s.rst.por = true ∨ s.rst.loadStop = true → exec (.fuseLoadDone ok split strap) s = .next s) ∧
      (s.mode = mFuseLoad → s.rst.por = false → s.rst.loadStop = false →
        (ok = false → s.rst.fuseAgain = false → exec (.fuseLoadDone ok split strap) s = .next { s with rst := { s.rst with fuseAgain := true } }) ∧
        (ok = false → s.rst.fuseAgain = true → ∃ t, exec (.fuseLoadDone ok split strap) s = .next t ∧ t.mode = mFault ∧ t.rd Reg.MODE_STAT_FAULT_CAUSE = 1 ∧ t.rst.otpBad = true) ∧
        (ok = true → strap.val > 4 → ∃ t, exec (.fuseLoadDone ok split strap) s = .next t ∧ t.mode = mFault ∧ t.rd Reg.MODE_STAT_FAULT_CAUSE = 2) ∧
        (ok = true → strap.val ≤ 4 → ∃ t, exec (.fuseLoadDone ok split strap) s = .next t ∧ t.mode = mSecureBoot ∧ t.rst.split = split ∧
          ∀ n < 8, s.rd (Reg.SRC_STAT_STATE n) = 0 → t.rd (Reg.SRC_STAT_STATE n) = 1))) ∧
    (∀ (ty : Fin 4) (i : Fin 64),
      (s.on Reg.BLOCK_RST_GO = true → exec (.blockRstGo ty i) s = .next s) ∧
      (s.on Reg.BLOCK_RST_GO = false → blockColumns ty i = [] ∨ inReset s = true → exec (.blockRstGo ty i) s =
        .next (((s.wr Reg.BLOCK_RST_TYPE ty).wr Reg.BLOCK_RST_INDEX i).flag Reg.BLOCK_RST_STAT_ERR true)) ∧
      (s.on Reg.BLOCK_RST_GO = false → blockColumns ty i ≠ [] → inReset s = false → ty.val ≠ 1 ∨ i.val ≠ 63 → ∃ t, exec (.blockRstGo ty i) s = .next t ∧ t.blockRst = some (ty.val, i.val) ∧
        t.on Reg.BLOCK_RST_GO = true ∧ (ty.val = 0 → i.val < 32 → ∀ j < 32, t.lane (32 * i + j) = Lane.zero) ∧ (ty.val = 1 → t.on (Reg.DU_STAT_OOS i) = true) ∧
        (ty.val = 2 → t.on (Reg.NU_STAT_OOS i) = true))) ∧
    (s.blockRst = none → exec .blockResetDone s = .next s) ∧
    (∀ ty i, s.blockRst = some (ty, i) → ∃ t, exec .blockResetDone s = .next t ∧ t.blockRst = none ∧ t.on Reg.BLOCK_RST_GO = false ∧ t.on Reg.BLOCK_RST_STAT_DONE = true)

/-- Modes, watchdogs, power-fail and Sleep (R287, R420, R434, R437, R442, R443, R446 to R448, R473, R474; rows 1 to 21 of Table 19.7): Secure Boot ends in the mode that R443 gives; a zeroization noticed leads to
Zeroized; power-fail holds the device and its flush ends in reset; Sleep is entered when all of R447 holds and ends at a wake event. -/
def Obligations.ModesPowerAndSleep : Prop :=
  ∀ (s : State),
    (∀ (slot : Option Bool) (pass : Bool),
      (s.mode ≠ mSecureBoot ∨ s.sc0.running = false ∨ s.rst.warmReq ≠ none → exec (.secureBootEnd slot pass) s = .next s) ∧
      (s.mode = mSecureBoot → s.sc0.running = true → s.rst.warmReq = none → slot = none → exec (.secureBootEnd slot pass) s = .next (enterFault (firstSlot s).2 4)) ∧
      (s.mode = mSecureBoot → s.sc0.running = true → s.rst.warmReq = none → slot = some false → (bootBlock s).2.2.1 = 0xFF → (bootBlock s).2.1 = 0 → bit (bootBlock s).2.2.2 1 = false → s.rst.copy = none →
        s.rd Reg.JNL_STAT_LEVEL ≠ 2 → s.jnl.seq < 2 ^ 64 - 1 → 3 ≤ s.rd Reg.RNG_STAT_HEALTHY → s.on Reg.RST_BOOT_TARGET = false → ∃ t, exec (.secureBootEnd slot pass) s = .next t ∧
        t.rd Reg.FW_STAT_ACTIVE_SLOT = 0 ∧ t.on Reg.FW_STAT_FALLBACK = false ∧ t.on Reg.BOOT_TAP_STAT_LOCKED = true ∧
        (s.tamp.root ≠ none → s.on Reg.TAMP_STAT_COMMISSIONED = true → t.mode = mOperational) ∧
        (s.tamp.root ≠ none → s.on Reg.TAMP_STAT_COMMISSIONED = false → t.tamp.root = none ∧ t.mode = if s.tamp.origin then mZeroized else mUncommissioned) ∧
        (s.tamp.root = none → t.mode = if s.otp.comm > 0 then mZeroized else mUncommissioned)) ∧
      (s.mode = mSecureBoot → s.sc0.running = true → s.rst.warmReq = none → slot = some false → (bootBlock s).2.2.1 = 0xFF → (bootBlock s).2.1 = 0 → bit (bootBlock s).2.2.2 1 = false → s.rst.copy = none →
        s.rd Reg.JNL_STAT_LEVEL ≠ 2 → s.jnl.seq < 2 ^ 64 - 1 → s.rd Reg.RNG_STAT_HEALTHY < 3 → ∃ t, exec (.secureBootEnd slot pass) s = .next t ∧ t.mode = mFault ∧ t.rd Reg.MODE_STAT_FAULT_CAUSE = 6)) ∧
    (s.tamp.zeroEntry = false → exec .mainZeroizedEntry s = .next s) ∧
    (s.tamp.zeroEntry = true → s.mode = mOperational → ∃ t, exec .mainZeroizedEntry s = .next t ∧ t.mode = mZeroized ∧ t.cmds = [] ∧ t.funcs = [] ∧ t.mem.dram = [] ∧ t.tamp.zeroEntry = false ∧
      t.rd2 Reg.MEM_FILL_L Reg.MEM_FILL_H = 0) ∧
    (s.sc0.running = false ∨ s.on Reg.RST_CTL_SC1_RUN = true → exec .sc1Run s = .next s) ∧
    (s.sc0.running = true → s.on Reg.RST_CTL_SC1_RUN = false → ∃ t, exec .sc1Run s = .next t ∧ t.sc1 = { Ctl.reset true with running := true } ∧ t.on Reg.RST_CTL_SC1_RUN = true) ∧
    (exec .scWdogKick s = .next { s with irq := { s.irq with wdogHalf := false, scWdog := 0 } }) ∧
    (s.rd Reg.SC_WDOG_MS = 0 ∨ s.sc0.running = false → exec .scWdogHalf s = .next s) ∧
    (s.rd Reg.SC_WDOG_MS ≠ 0 → s.sc0.running = true → ∃ t, exec .scWdogHalf s = .next t ∧ t.irq.wdogHalf = true ∧ s.rd Reg.SC_WDOG_MS * 250000 ≤ t.irq.scWdog) ∧
    (s.rd Reg.SC_WDOG_MS = 0 ∨ inReset s = true ∨ s.mode = mBatteryHold → exec .scWdogExpiry s = .next s) ∧
    (s.rd Reg.SC_WDOG_MS ≠ 0 → inReset s = false → s.mode ≠ mBatteryHold → exec .scWdogExpiry s = .next (startWarm { s with irq := { s.irq with wdogHalf := false, scWdog := 0 } } 3 9 0xE4)) ∧
    (∀ ring : BitVec 3, ∃ t, exec (.intDoor ring) s = .next t ∧ (ring.getLsbD 0 = true → t.on (Reg.INT_LATCH_DOOR 0) = true) ∧ (ring.getLsbD 1 = true → t.on (Reg.INT_LATCH_DOOR 1) = true) ∧
      (ring.getLsbD 2 = true → bit (t.rd Reg.MC_INT_LATCH) 3 = true) ∧ (ring = 0 → t = s)) ∧
    (sleepReady s = false → exec .sleepEntry s = .next s) ∧
    (sleepReady s = true → ∃ t, exec .sleepEntry s = .next t ∧ (t.mode = mSleep ∨ t.rd Reg.JNL_STAT_LEVEL = 2) ∧
      (∀ n < 8, t.rd (Reg.SRC_STAT_STATE n) = if s.rd (Reg.SRC_STAT_STATE n) = srcRetired then srcRetired else srcOff) ∧ t.cmds = []) ∧
    (∀ ev : Fin 7, (ev.val = 0 ∨ s.mode ≠ mSleep → exec (.sleepWake ev) s = .next s) ∧
      (ev.val ≠ 0 → s.mode = mSleep → ∃ t, exec (.sleepWake ev) s = .next t ∧ t.mode = mOperational ∧ t.rd Reg.SLEEP_STAT_WAKE = ev)) ∧
    (s.mode ≠ mSleep → exec .wakeReq s = .next s) ∧
    (s.mode = mSleep → ∃ t, exec .wakeReq s = .next t ∧ t.mode = mOperational ∧ t.rd Reg.SLEEP_STAT_WAKE = 4) ∧
    (s.mode = mBatteryHold ∨ s.rst.pfFlush = true ∨ s.rst.pfHold = true → exec .pwrFailFall s = .next s) ∧
    (s.mode ≠ mBatteryHold → s.rst.pfFlush = false → s.rst.pfHold = false → ∃ t, exec .pwrFailFall s = .next t ∧ t.rst.pfFlush = true ∧ t.halting = true ∧ t.tamp.masked = true ∧
      t.on Reg.TAMP_STAT_WINDOW = false ∧ t.sc0.running = false ∧ t.sc1.running = false ∧ t.mc.running = false) ∧
    (s.rst.pfFlush = false → exec .powerFailHold s = .next s) ∧
    (s.rst.pfFlush = true → s.rst.por = false → ∃ t, exec .powerFailHold s = .next t ∧ t.rst.pfFlush = false ∧ t.rst.pfHold = true ∧ t.rst.por = true ∧ bit t.rst.now 4 = true ∧ t.jnl.buf = [] ∧ t.otp = s.otp) ∧
    (s.rst.pfFlush = false → s.rst.pfHold = false → exec .pwrFailRise s = .next s) ∧
    (s.rst.pfFlush = false → s.rst.pfHold = true → exec .pwrFailRise s = .next (releaseSource { s with rst := { s.rst with pfHold := false } } 4))

/-! ### What every step keeps, and the machine right after reset -/

/-- The machine right after reset (R11, R84): every register field holds the reset value of its row; no command waits; memory is canonical and lists nothing; no instance, no key, no storage root;
no controller runs. The general registers' zeros and the contents of unwritten memory are log 1 and the log of memory. -/
def Obligations.ResetState : Prop :=
  (∀ f : Fld, State.reset.rd f = f.rst) ∧ State.reset.pending = [] ∧ State.reset.mem.wf = true ∧ State.reset.otp.comm ≤ 32 ∧
    (∀ c : CtlId, (State.reset.ctl c).running = false ∧ (State.reset.ctl c).pc = 0 ∧ (State.reset.ctl c).priv = true ∧ ∀ r < 32, (State.reset.ctl c).reg r = 0) ∧
    State.reset.sc0.secure = true ∧ State.reset.sc1.secure = true ∧ State.reset.mc.secure = false ∧
    (∀ n, (State.reset.seq n).inst = none) ∧ (∀ n, State.reset.lane n = Lane.zero) ∧ (∀ n, State.reset.xt n = XtUnit.zero) ∧ State.reset.cache = [] ∧ State.reset.drbg = none ∧
    State.reset.tamp.root = none ∧ State.reset.cmds = [] ∧ State.reset.vault = .none

/-- Every command completes, whatever the state, and leaves the queue of waiting commands alone; so a step takes exactly the command at the front. -/
def Obligations.EveryCommandCompletes : Prop :=
  (∀ (i : Instr) (s : State), ∃ t, exec i s = .next t ∧ t.pending = s.pending) ∧
    ∀ (s : State), ∃ t, step s = .next t ∧ t.pending = s.pending.drop 1

/-- Every step keeps memory in its canonical form: in SRAM, DRAM, versions, poison, error and counter marks the indexes rise strictly and nothing is listed that an unlisted index reads as. -/
def Obligations.MemoryStaysCanonical : Prop :=
  ∀ s t : State, s.mem.wf = true → step s = .next t → t.mem.wf = true

/-- OTP only grows (R271, Tables 11.7 and 16.6): no step lowers the commission count, takes it above 32 or clears NO_RECOMM; only COMMISSION_FINISH and DEVICE_POLICY change it at all. -/
def Obligations.OtpOnlyGrows : Prop :=
  (∀ s t : State, s.otp.comm ≤ 32 → step s = .next t →
    s.otp.comm ≤ t.otp.comm ∧ t.otp.comm ≤ s.otp.comm + 1 ∧ t.otp.comm ≤ 32 ∧ (s.otp.noRecomm = true → t.otp.noRecomm = true)) ∧
    ∀ (i : Instr) (s t : State), exec i s = .next t → t.otp ≠ s.otp → ∃ r, (∃ b, i = .commissionFinish r b) ∨ (∃ b, i = .devicePolicy r b)
end

