-- ==== Sys2Proof/Laws/Admin.lean ====
section
/-! SUPPORT. What a command other than RUN does once it has passed the checks of R470: its operation, then its completion. -/
namespace Sys2Proof.Machine

theorem fitOctets_self {n : Nat} {o : List Octet} (h : o.length = n) : fitOctets n o = o := by
  subst h; simp [fitOctets]

theorem adminCmd_opc {s : State} {r : CmdRef} {opc : Nat} {c : Cmd} (h : adminCmd s r opc = some c) : c.opc = opc := by
  have := List.find?_some h
  simp only [Bool.and_eq_true, decide_eq_true_eq] at this
  exact this.2.1

/-- The checks passed, the operation's answer is the command's. -/
theorem adminRun_of {s : State} {r : CmdRef} {opc : Nat} {blk : List Octet} {c : Cmd} {b : State} {x : Option Ballot} (h : Passes s r opc blk c b x)
    (op : AdminOp) (trailer : List Octet) {d : State} {r0 : Nat} {out : List Octet} {hold : List Nat}
    (ho : op b c (b.who c.func) blk (fitOctets (leAt c.short 0 4) trailer) x = (d, .fin 0 r0 out hold)) :
    adminRun s r opc blk trailer op = answerCmd d c s.jnl.seq 0 r0 out hold := by
  have hb := h.ballot
  have hs := h.steps
  have e : (s.onCmd c.uid (fun k => { k with lease := false, wait := [] })) = taken s c := rfl
  have hopc := adminCmd_opc h.found
  simp only [adminRun, h.found, fitOctets_self h.whole, e, adminChecked, h.first, if_false, hs]
  cases hn : ballotNeed (taken s c) c blk with
  | none =>
    simp only [hn] at hb ⊢
    obtain ⟨rfl, rfl, h43⟩ := hb
    by_cases hq : c.opc = 67
    · rw [if_neg (by simp [h43 hq])]; simp only [operate, ho]; rfl
    · rw [if_neg (by simp [hq])]; simp only [operate, ho]; rfl
  | some n =>
    simp only [hn] at hb ⊢
    obtain ⟨y, hy, rfl⟩ := hb
    simp only [hy, operate, ho]; rfl

end Sys2Proof.Machine
end

