-- ==== Sys2Proof/Laws/Tab.lean ====
section
/-! SUPPORT. Sparse tables: reading after writing, and the canonical form that every write keeps. -/
namespace Sys2Proof.Machine

variable {α : Type}

@[simp] theorem tget_nil (d : α) (k : Nat) : tget d [] k = d := rfl

/-- Is `k` below every index of a table? -/
def below (k : Nat) (t : Tab α) : Prop := ∀ e ∈ t, k < e.1

theorem tsorted_cons {e : Nat × α} {t : Tab α} : tsorted (e :: t) = true ↔ below e.1 t ∧ tsorted t = true := by
  induction t generalizing e with
  | nil => simp [tsorted, below]
  | cons x t ih =>
    obtain ⟨k, v⟩ := e
    obtain ⟨k', v'⟩ := x
    simp only [tsorted, Bool.and_eq_true, decide_eq_true_eq, below, List.mem_cons, forall_eq_or_imp]
    constructor
    · rintro ⟨h, hs⟩
      have hb := (ih.mp hs).1
      exact ⟨⟨h, fun e he => Nat.lt_trans h (hb e he)⟩, hs⟩
    · rintro ⟨⟨h, _⟩, hs⟩
      exact ⟨h, hs⟩

/-- Reading after listing an entry. -/
theorem tget_tput (d : α) (t : Tab α) (k j : Nat) (v : α) :
    tget d (tput t k v) j = if j = k then v else tget d t j := by
  induction t with
  | nil => simp [tput, tget]
  | cons x t ih =>
    obtain ⟨k', v'⟩ := x
    simp only [tput]
    split
    · simp [tget]
    · split
      · subst_vars
        by_cases hj : j = k' <;> simp [tget, hj]
      · by_cases hj : j = k' <;> simp [tget, hj, ih]
        omega

/-- Reading after removing what an index lists. -/
theorem tget_tdel (d : α) (t : Tab α) (k j : Nat) : tget d (tdel t k) j = if j = k then d else tget d t j := by
  induction t with
  | nil => simp [tdel]
  | cons x t ih =>
    obtain ⟨k', v'⟩ := x
    by_cases hk : k = k'
    · subst hk
      by_cases hj : j = k
      · subst hj; simpa [tdel] using ih
      · simp [tdel, tget, ih, hj]
    · by_cases hj : j = k'
      · subst hj; simp [tdel, tget, hk]; intro h; omega
      · simp [tdel, tget, hk, hj, ih]

/-- Reading after writing: the value written at its index, every other index as before. -/
@[simp] theorem tget_tset [DecidableEq α] (d : α) (t : Tab α) (k j : Nat) (v : α) :
    tget d (tset d t k v) j = if j = k then v else tget d t j := by
  unfold tset
  split
  · rename_i hv; rw [tget_tdel, hv]
  · exact tget_tput d t k j v

/-- Reading after a filter that looks at indexes only. -/
theorem tget_filter (d : α) (t : Tab α) (p : Nat → Bool) (j : Nat) :
    tget d (t.filter (fun e => p e.1)) j = if p j then tget d t j else d := by
  induction t with
  | nil => simp
  | cons x t ih =>
    obtain ⟨k', v'⟩ := x
    by_cases hk : p k' = true
    · rw [List.filter_cons_of_pos (by simpa using hk)]
      by_cases hj : j = k'
      · subst hj; simp [tget, hk]
      · simp [tget, hj, ih]
    · rw [List.filter_cons_of_neg (by simpa using hk)]
      by_cases hj : j = k'
      · subst hj; simp [ih, hk]
      · simp [tget, hj, ih]

theorem below_tdel {t : Tab α} {b : Nat} (h : below b t) (k : Nat) : below b (tdel t k) := by
  induction t with
  | nil => exact h
  | cons x t ih =>
    obtain ⟨k', v'⟩ := x
    have ht : below b t := fun e he => h e (by simp [he])
    simp only [tdel]
    split
    · exact ih ht
    · intro e he
      rcases List.mem_cons.mp he with rfl | he
      · exact h _ (by simp)
      · exact ih ht e he

theorem below_tput {t : Tab α} {b k : Nat} (h : below b t) (hk : b < k) (v : α) : below b (tput t k v) := by
  induction t with
  | nil => intro e he; simp [tput] at he; subst he; exact hk
  | cons x t ih =>
    obtain ⟨k', v'⟩ := x
    have ht : below b t := fun e he => h e (by simp [he])
    have hx : b < k' := h (k', v') (by simp)
    simp only [tput]
    split
    · intro e he
      rcases List.mem_cons.mp he with rfl | he
      · exact hk
      · exact h e he
    · split
      · intro e he
        rcases List.mem_cons.mp he with rfl | he
        · exact hk
        · exact ht e he
      · intro e he
        rcases List.mem_cons.mp he with rfl | he
        · exact hx
        · exact ih ht e he

theorem tsorted_tdel {t : Tab α} (h : tsorted t = true) (k : Nat) : tsorted (tdel t k) = true := by
  induction t with
  | nil => rfl
  | cons x t ih =>
    obtain ⟨k', v'⟩ := x
    have hc := tsorted_cons.mp h
    simp only [tdel]
    split
    · exact ih hc.2
    · exact tsorted_cons.mpr ⟨below_tdel hc.1 k, ih hc.2⟩

theorem tsorted_tput {t : Tab α} (h : tsorted t = true) (k : Nat) (v : α) : tsorted (tput t k v) = true := by
  induction t with
  | nil => rfl
  | cons x t ih =>
    obtain ⟨k', v'⟩ := x
    have hc := tsorted_cons.mp h
    simp only [tput]
    split
    · rename_i hlt
      refine tsorted_cons.mpr ⟨?_, h⟩
      intro e he
      rcases List.mem_cons.mp he with rfl | he
      · exact hlt
      · exact Nat.lt_trans hlt (hc.1 e he)
    · split
      · subst_vars; exact tsorted_cons.mpr ⟨hc.1, hc.2⟩
      · exact tsorted_cons.mpr ⟨below_tput hc.1 (by simp only; omega) v, ih hc.2⟩

theorem tsorted_tset [DecidableEq α] {d : α} {t : Tab α} (h : tsorted t = true) (k : Nat) (v : α) : tsorted (tset d t k v) = true := by
  unfold tset
  split
  · exact tsorted_tdel h k
  · exact tsorted_tput h k v

theorem mem_tdel {t : Tab α} {k : Nat} {e : Nat × α} (h : e ∈ tdel t k) : e ∈ t := by
  induction t with
  | nil => exact h
  | cons x t ih =>
    obtain ⟨k', v'⟩ := x
    simp only [tdel] at h
    split at h
    · simp [ih h]
    · rcases List.mem_cons.mp h with rfl | h
      · simp
      · simp [ih h]

theorem mem_tput {t : Tab α} {k : Nat} {v : α} {e : Nat × α} (h : e ∈ tput t k v) : e ∈ t ∨ e = (k, v) := by
  induction t with
  | nil => simp [tput] at h; exact .inr h
  | cons x t ih =>
    obtain ⟨k', v'⟩ := x
    simp only [tput] at h
    split at h
    · rcases List.mem_cons.mp h with rfl | h
      · exact .inr rfl
      · exact .inl h
    · split at h
      · rcases List.mem_cons.mp h with rfl | h
        · exact .inr rfl
        · exact .inl (by simp [h])
      · rcases List.mem_cons.mp h with rfl | h
        · exact .inl (by simp)
        · rcases ih h with h | h
          · exact .inl (by simp [h])
          · exact .inr h

variable [DecidableEq α]

theorem twf_iff {d : α} {t : Tab α} : twf d t = true ↔ tsorted t = true ∧ ∀ e ∈ t, e.2 ≠ d := by
  simp [twf, List.all_eq_true]

/-- A canonical table is sorted. -/
theorem tsorted_of_twf {d : α} {t : Tab α} (h : twf d t = true) : tsorted t = true := (twf_iff.mp h).1

@[simp] theorem twf_nil (d : α) : twf d ([] : Tab α) = true := rfl

/-- Removing an entry keeps the canonical form. -/
@[simp] theorem twf_tdel {d : α} {t : Tab α} (h : twf d t = true) (k : Nat) : twf d (tdel t k) = true := by
  rw [twf_iff] at *
  exact ⟨tsorted_tdel h.1 k, fun e he => h.2 e (mem_tdel he)⟩

/-- Writing keeps the canonical form. -/
@[simp] theorem twf_tset {d : α} {t : Tab α} (h : twf d t = true) (k : Nat) (v : α) : twf d (tset d t k v) = true := by
  rw [twf_iff] at h
  unfold tset
  split
  · exact twf_iff.mpr ⟨tsorted_tdel h.1 k, fun e he => h.2 e (mem_tdel he)⟩
  · rename_i hv
    refine twf_iff.mpr ⟨tsorted_tput h.1 k v, fun e he => ?_⟩
    rcases mem_tput he with he | rfl
    · exact h.2 e he
    · exact hv

/-- Writing many entries keeps the canonical form. -/
@[simp] theorem twf_foldl_tset {d : α} {β : Type} (g : β → Nat) (v : β → α) (l : List β) {t : Tab α} (h : twf d t = true) :
    twf d (l.foldl (fun t e => tset d t (g e) (v e)) t) = true := by
  induction l generalizing t with
  | nil => exact h
  | cons x l ih => exact ih (twf_tset h (g x) (v x))

/-- Filtering keeps the canonical form. -/
@[simp] theorem twf_filter {d : α} {t : Tab α} (h : twf d t = true) (p : Nat × α → Bool) : twf d (t.filter p) = true := by
  rw [twf_iff] at *
  refine ⟨?_, fun e he => h.2 e (List.mem_filter.mp he).1⟩
  have hs := h.1
  clear h
  induction t with
  | nil => rfl
  | cons x t ih =>
    have hc := tsorted_cons.mp hs
    by_cases hp : p x = true
    · rw [List.filter_cons_of_pos hp]
      exact tsorted_cons.mpr ⟨fun e he => hc.1 e (List.mem_filter.mp he).1, ih hc.2⟩
    · rw [List.filter_cons_of_neg hp]
      exact ih hc.2

end Sys2Proof.Machine
end

