-- ==== Sys2Proof/Laws/State.lean ====
section
/-! SUPPORT. What each update of the state leaves alone: one lemma per update, a clause per field, so that no later proof unfolds a
record update. -/
namespace Sys2Proof.Machine

variable (s : State)

/-! ### Registers -/

theorem tget_tset_ne {d d' : Nat} {t : Tab Nat} {j k : Nat} (h : j ≠ k) (v : Nat) : tget d (tset d' t k v) j = tget d t j := by
  unfold tset
  split
  · rw [tget_tdel, if_neg h]
  · rw [tget_tput, if_neg h]

/-- A field reads as it was written, modulo its width. -/
@[simp] theorem State.rd_wr (f : Fld) (v : Nat) : (s.wr f v).rd f = v % 2 ^ f.wid := by simp [State.rd, State.wr]

/-- A write of one field leaves every other. -/
theorem State.rd_wr_ne {f g : Fld} (h : g.key ≠ f.key) (v : Nat) : (s.wr f v).rd g = s.rd g := tget_tset_ne h _

/-- A flag reads as it was written. -/
@[simp] theorem State.on_flag {f : Fld} (h : f.wid ≠ 0) (b : Bool) : (s.flag f b).on f = b := by
  have : 1 < 2 ^ f.wid := Nat.one_lt_two_pow h
  cases b <;> simp [State.on, State.flag, Nat.mod_eq_of_lt this]

theorem State.rd_flag_ne {f g : Fld} (h : g.key ≠ f.key) (b : Bool) : (s.flag f b).rd g = s.rd g := State.rd_wr_ne s h _

theorem State.on_flag_ne {f g : Fld} (h : g.key ≠ f.key) (b : Bool) : (s.flag f b).on g = s.on g := by
  simp [State.on, State.rd_flag_ne s h]

theorem State.on_wr_ne {f g : Fld} (h : g.key ≠ f.key) (v : Nat) : (s.wr f v).on g = s.on g := by
  simp [State.on, State.rd_wr_ne s h]

/-! ### Frames -/

@[simp] theorem State.wr_frame (f : Fld) (v : Nat) :
    (s.wr f v).pending = s.pending ∧ (s.wr f v).free = s.free ∧ (s.wr f v).sc0 = s.sc0 ∧ (s.wr f v).sc1 = s.sc1 ∧
    (s.wr f v).mc = s.mc ∧ (s.wr f v).floor = s.floor ∧ (s.wr f v).cache = s.cache ∧ (s.wr f v).drbg = s.drbg ∧
    (s.wr f v).jnl = s.jnl ∧ (s.wr f v).vectors = s.vectors ∧ (s.wr f v).halting = s.halting ∧ (s.wr f v).mem = s.mem ∧
    (s.wr f v).irq = s.irq ∧ (s.wr f v).viol = s.viol ∧ (s.wr f v).capHeld = s.capHeld ∧ (s.wr f v).holds = s.holds ∧
    (s.wr f v).winLow = s.winLow ∧ (s.wr f v).tamp = s.tamp ∧ (s.wr f v).otp = s.otp ∧ (s.wr f v).meas = s.meas ∧
    (s.wr f v).ent = s.ent ∧ (s.wr f v).vault = s.vault ∧ (s.wr f v).ks = s.ks ∧ (s.wr f v).ballots = s.ballots ∧
    (s.wr f v).ballotId = s.ballotId ∧ (s.wr f v).cmds = s.cmds ∧ (s.wr f v).nextUid = s.nextUid ∧ (s.wr f v).queues = s.queues ∧
    (s.wr f v).funcs = s.funcs ∧ (s.wr f v).msix = s.msix ∧ (s.wr f v).d3 = s.d3 ∧ (s.wr f v).portA = s.portA ∧
    (s.wr f v).portB = s.portB ∧ (s.wr f v).spdmM = s.spdmM ∧ (s.wr f v).flrs = s.flrs ∧ (s.wr f v).tickets = s.tickets ∧
    (s.wr f v).sent = s.sent ∧ (s.wr f v).plx = s.plx ∧ (s.wr f v).mgmt = s.mgmt ∧ (s.wr f v).rst = s.rst ∧
    (s.wr f v).dbg = s.dbg ∧ (s.wr f v).blockRst = s.blockRst := by
  and_intros <;> rfl

@[simp] theorem State.flag_frame (f : Fld) (b : Bool) :
    (s.flag f b).pending = s.pending ∧ (s.flag f b).free = s.free ∧ (s.flag f b).sc0 = s.sc0 ∧ (s.flag f b).sc1 = s.sc1 ∧
    (s.flag f b).mc = s.mc ∧ (s.flag f b).floor = s.floor ∧ (s.flag f b).cache = s.cache ∧ (s.flag f b).drbg = s.drbg ∧
    (s.flag f b).jnl = s.jnl ∧ (s.flag f b).vectors = s.vectors ∧ (s.flag f b).halting = s.halting ∧ (s.flag f b).mem = s.mem ∧
    (s.flag f b).irq = s.irq ∧ (s.flag f b).viol = s.viol ∧ (s.flag f b).capHeld = s.capHeld ∧ (s.flag f b).holds = s.holds ∧
    (s.flag f b).winLow = s.winLow ∧ (s.flag f b).tamp = s.tamp ∧ (s.flag f b).otp = s.otp ∧ (s.flag f b).meas = s.meas ∧
    (s.flag f b).ent = s.ent ∧ (s.flag f b).vault = s.vault ∧ (s.flag f b).ks = s.ks ∧ (s.flag f b).ballots = s.ballots ∧
    (s.flag f b).ballotId = s.ballotId ∧ (s.flag f b).cmds = s.cmds ∧ (s.flag f b).nextUid = s.nextUid ∧ (s.flag f b).queues = s.queues ∧
    (s.flag f b).funcs = s.funcs ∧ (s.flag f b).msix = s.msix ∧ (s.flag f b).d3 = s.d3 ∧ (s.flag f b).portA = s.portA ∧
    (s.flag f b).portB = s.portB ∧ (s.flag f b).spdmM = s.spdmM ∧ (s.flag f b).flrs = s.flrs ∧ (s.flag f b).tickets = s.tickets ∧
    (s.flag f b).sent = s.sent ∧ (s.flag f b).plx = s.plx ∧ (s.flag f b).mgmt = s.mgmt ∧ (s.flag f b).rst = s.rst ∧
    (s.flag f b).dbg = s.dbg ∧ (s.flag f b).blockRst = s.blockRst := by
  and_intros <;> rfl

@[simp] theorem State.wr2_frame (l h : Fld) (v : Nat) :
    (s.wr2 l h v).pending = s.pending ∧ (s.wr2 l h v).free = s.free ∧ (s.wr2 l h v).sc0 = s.sc0 ∧ (s.wr2 l h v).sc1 = s.sc1 ∧
    (s.wr2 l h v).mc = s.mc ∧ (s.wr2 l h v).floor = s.floor ∧ (s.wr2 l h v).cache = s.cache ∧ (s.wr2 l h v).drbg = s.drbg ∧
    (s.wr2 l h v).jnl = s.jnl ∧ (s.wr2 l h v).vectors = s.vectors ∧ (s.wr2 l h v).halting = s.halting ∧ (s.wr2 l h v).mem = s.mem ∧
    (s.wr2 l h v).irq = s.irq ∧ (s.wr2 l h v).viol = s.viol ∧ (s.wr2 l h v).capHeld = s.capHeld ∧ (s.wr2 l h v).holds = s.holds ∧
    (s.wr2 l h v).winLow = s.winLow ∧ (s.wr2 l h v).tamp = s.tamp ∧ (s.wr2 l h v).otp = s.otp ∧ (s.wr2 l h v).meas = s.meas ∧
    (s.wr2 l h v).ent = s.ent ∧ (s.wr2 l h v).vault = s.vault ∧ (s.wr2 l h v).ks = s.ks ∧ (s.wr2 l h v).ballots = s.ballots ∧
    (s.wr2 l h v).ballotId = s.ballotId ∧ (s.wr2 l h v).cmds = s.cmds ∧ (s.wr2 l h v).nextUid = s.nextUid ∧ (s.wr2 l h v).queues = s.queues ∧
    (s.wr2 l h v).funcs = s.funcs ∧ (s.wr2 l h v).msix = s.msix ∧ (s.wr2 l h v).d3 = s.d3 ∧ (s.wr2 l h v).portA = s.portA ∧
    (s.wr2 l h v).portB = s.portB ∧ (s.wr2 l h v).spdmM = s.spdmM ∧ (s.wr2 l h v).flrs = s.flrs ∧ (s.wr2 l h v).tickets = s.tickets ∧
    (s.wr2 l h v).sent = s.sent ∧ (s.wr2 l h v).plx = s.plx ∧ (s.wr2 l h v).mgmt = s.mgmt ∧ (s.wr2 l h v).rst = s.rst ∧
    (s.wr2 l h v).dbg = s.dbg ∧ (s.wr2 l h v).blockRst = s.blockRst := by
  and_intros <;> rfl

@[simp] theorem State.setMem_frame (f : Mem → Mem) :
    (s.setMem f).pending = s.pending ∧ (s.setMem f).free = s.free ∧ (s.setMem f).regs = s.regs ∧ (s.setMem f).sc0 = s.sc0 ∧
    (s.setMem f).sc1 = s.sc1 ∧ (s.setMem f).mc = s.mc ∧ (s.setMem f).floor = s.floor ∧ (s.setMem f).cache = s.cache ∧
    (s.setMem f).drbg = s.drbg ∧ (s.setMem f).jnl = s.jnl ∧ (s.setMem f).vectors = s.vectors ∧ (s.setMem f).halting = s.halting ∧
    (s.setMem f).mem = f s.mem ∧ (s.setMem f).irq = s.irq ∧ (s.setMem f).viol = s.viol ∧ (s.setMem f).capHeld = s.capHeld ∧
    (s.setMem f).holds = s.holds ∧ (s.setMem f).winLow = s.winLow ∧ (s.setMem f).tamp = s.tamp ∧ (s.setMem f).otp = s.otp ∧
    (s.setMem f).meas = s.meas ∧ (s.setMem f).ent = s.ent ∧ (s.setMem f).vault = s.vault ∧ (s.setMem f).ks = s.ks ∧
    (s.setMem f).ballots = s.ballots ∧ (s.setMem f).ballotId = s.ballotId ∧ (s.setMem f).cmds = s.cmds ∧ (s.setMem f).nextUid = s.nextUid ∧
    (s.setMem f).queues = s.queues ∧ (s.setMem f).funcs = s.funcs ∧ (s.setMem f).msix = s.msix ∧ (s.setMem f).d3 = s.d3 ∧
    (s.setMem f).portA = s.portA ∧ (s.setMem f).portB = s.portB ∧ (s.setMem f).spdmM = s.spdmM ∧ (s.setMem f).flrs = s.flrs ∧
    (s.setMem f).tickets = s.tickets ∧ (s.setMem f).sent = s.sent ∧ (s.setMem f).plx = s.plx ∧ (s.setMem f).mgmt = s.mgmt ∧
    (s.setMem f).rst = s.rst ∧ (s.setMem f).dbg = s.dbg ∧ (s.setMem f).blockRst = s.blockRst ∧ (∀ g, (s.setMem f).rd g = s.rd g) ∧
    (∀ g, (s.setMem f).on g = s.on g) := by
  and_intros <;> intros <;> rfl

@[simp] theorem State.setNonet_frame (addr i : Nat) (n : Nonet) :
    (s.setNonet addr i n).pending = s.pending ∧ (s.setNonet addr i n).free = s.free ∧ (s.setNonet addr i n).regs = s.regs ∧ (s.setNonet addr i n).sc0 = s.sc0 ∧
    (s.setNonet addr i n).sc1 = s.sc1 ∧ (s.setNonet addr i n).mc = s.mc ∧ (s.setNonet addr i n).floor = s.floor ∧ (s.setNonet addr i n).cache = s.cache ∧
    (s.setNonet addr i n).drbg = s.drbg ∧ (s.setNonet addr i n).jnl = s.jnl ∧ (s.setNonet addr i n).vectors = s.vectors ∧ (s.setNonet addr i n).halting = s.halting ∧
    (s.setNonet addr i n).irq = s.irq ∧ (s.setNonet addr i n).viol = s.viol ∧ (s.setNonet addr i n).capHeld = s.capHeld ∧ (s.setNonet addr i n).holds = s.holds ∧
    (s.setNonet addr i n).winLow = s.winLow ∧ (s.setNonet addr i n).tamp = s.tamp ∧ (s.setNonet addr i n).otp = s.otp ∧ (s.setNonet addr i n).meas = s.meas ∧
    (s.setNonet addr i n).ent = s.ent ∧ (s.setNonet addr i n).vault = s.vault ∧ (s.setNonet addr i n).ks = s.ks ∧ (s.setNonet addr i n).ballots = s.ballots ∧
    (s.setNonet addr i n).ballotId = s.ballotId ∧ (s.setNonet addr i n).cmds = s.cmds ∧ (s.setNonet addr i n).nextUid = s.nextUid ∧ (s.setNonet addr i n).queues = s.queues ∧
    (s.setNonet addr i n).funcs = s.funcs ∧ (s.setNonet addr i n).msix = s.msix ∧ (s.setNonet addr i n).d3 = s.d3 ∧ (s.setNonet addr i n).portA = s.portA ∧
    (s.setNonet addr i n).portB = s.portB ∧ (s.setNonet addr i n).spdmM = s.spdmM ∧ (s.setNonet addr i n).flrs = s.flrs ∧ (s.setNonet addr i n).tickets = s.tickets ∧
    (s.setNonet addr i n).sent = s.sent ∧ (s.setNonet addr i n).plx = s.plx ∧ (s.setNonet addr i n).mgmt = s.mgmt ∧ (s.setNonet addr i n).rst = s.rst ∧
    (s.setNonet addr i n).dbg = s.dbg ∧ (s.setNonet addr i n).blockRst = s.blockRst ∧ (∀ g, (s.setNonet addr i n).rd g = s.rd g) ∧ (∀ g, (s.setNonet addr i n).on g = s.on g) := by
  and_intros <;> intros <;> rfl

@[simp] theorem State.setSramWord_frame (addr : Nat) (w : Word) :
    (s.setSramWord addr w).pending = s.pending ∧ (s.setSramWord addr w).free = s.free ∧ (s.setSramWord addr w).regs = s.regs ∧ (s.setSramWord addr w).sc0 = s.sc0 ∧
    (s.setSramWord addr w).sc1 = s.sc1 ∧ (s.setSramWord addr w).mc = s.mc ∧ (s.setSramWord addr w).floor = s.floor ∧ (s.setSramWord addr w).cache = s.cache ∧
    (s.setSramWord addr w).drbg = s.drbg ∧ (s.setSramWord addr w).jnl = s.jnl ∧ (s.setSramWord addr w).vectors = s.vectors ∧ (s.setSramWord addr w).halting = s.halting ∧
    (s.setSramWord addr w).irq = s.irq ∧ (s.setSramWord addr w).viol = s.viol ∧ (s.setSramWord addr w).capHeld = s.capHeld ∧ (s.setSramWord addr w).holds = s.holds ∧
    (s.setSramWord addr w).winLow = s.winLow ∧ (s.setSramWord addr w).tamp = s.tamp ∧ (s.setSramWord addr w).otp = s.otp ∧ (s.setSramWord addr w).meas = s.meas ∧
    (s.setSramWord addr w).ent = s.ent ∧ (s.setSramWord addr w).vault = s.vault ∧ (s.setSramWord addr w).ks = s.ks ∧ (s.setSramWord addr w).ballots = s.ballots ∧
    (s.setSramWord addr w).ballotId = s.ballotId ∧ (s.setSramWord addr w).cmds = s.cmds ∧ (s.setSramWord addr w).nextUid = s.nextUid ∧ (s.setSramWord addr w).queues = s.queues ∧
    (s.setSramWord addr w).funcs = s.funcs ∧ (s.setSramWord addr w).msix = s.msix ∧ (s.setSramWord addr w).d3 = s.d3 ∧ (s.setSramWord addr w).portA = s.portA ∧
    (s.setSramWord addr w).portB = s.portB ∧ (s.setSramWord addr w).spdmM = s.spdmM ∧ (s.setSramWord addr w).flrs = s.flrs ∧ (s.setSramWord addr w).tickets = s.tickets ∧
    (s.setSramWord addr w).sent = s.sent ∧ (s.setSramWord addr w).plx = s.plx ∧ (s.setSramWord addr w).mgmt = s.mgmt ∧ (s.setSramWord addr w).rst = s.rst ∧
    (s.setSramWord addr w).dbg = s.dbg ∧ (s.setSramWord addr w).blockRst = s.blockRst ∧ (∀ g, (s.setSramWord addr w).rd g = s.rd g) ∧ (∀ g, (s.setSramWord addr w).on g = s.on g) := by
  and_intros <;> intros <;> rfl

@[simp] theorem State.setBallot_frame (b : Nat) (x : Ballot) :
    (s.setBallot b x).pending = s.pending ∧ (s.setBallot b x).free = s.free ∧ (s.setBallot b x).regs = s.regs ∧ (s.setBallot b x).sc0 = s.sc0 ∧
    (s.setBallot b x).sc1 = s.sc1 ∧ (s.setBallot b x).mc = s.mc ∧ (s.setBallot b x).floor = s.floor ∧ (s.setBallot b x).cache = s.cache ∧
    (s.setBallot b x).drbg = s.drbg ∧ (s.setBallot b x).jnl = s.jnl ∧ (s.setBallot b x).vectors = s.vectors ∧ (s.setBallot b x).halting = s.halting ∧
    (s.setBallot b x).mem = s.mem ∧ (s.setBallot b x).irq = s.irq ∧ (s.setBallot b x).viol = s.viol ∧ (s.setBallot b x).capHeld = s.capHeld ∧
    (s.setBallot b x).holds = s.holds ∧ (s.setBallot b x).winLow = s.winLow ∧ (s.setBallot b x).tamp = s.tamp ∧ (s.setBallot b x).otp = s.otp ∧
    (s.setBallot b x).meas = s.meas ∧ (s.setBallot b x).ent = s.ent ∧ (s.setBallot b x).vault = s.vault ∧ (s.setBallot b x).ks = s.ks ∧
    (s.setBallot b x).ballots = tset Ballot.free s.ballots b x ∧ (s.setBallot b x).ballotId = s.ballotId ∧ (s.setBallot b x).cmds = s.cmds ∧ (s.setBallot b x).nextUid = s.nextUid ∧
    (s.setBallot b x).queues = s.queues ∧ (s.setBallot b x).funcs = s.funcs ∧ (s.setBallot b x).msix = s.msix ∧ (s.setBallot b x).d3 = s.d3 ∧
    (s.setBallot b x).portA = s.portA ∧ (s.setBallot b x).portB = s.portB ∧ (s.setBallot b x).spdmM = s.spdmM ∧ (s.setBallot b x).flrs = s.flrs ∧
    (s.setBallot b x).tickets = s.tickets ∧ (s.setBallot b x).sent = s.sent ∧ (s.setBallot b x).plx = s.plx ∧ (s.setBallot b x).mgmt = s.mgmt ∧
    (s.setBallot b x).rst = s.rst ∧ (s.setBallot b x).dbg = s.dbg ∧ (s.setBallot b x).blockRst = s.blockRst ∧ (∀ g, (s.setBallot b x).rd g = s.rd g) ∧
    (∀ g, (s.setBallot b x).on g = s.on g) := by
  and_intros <;> intros <;> rfl

@[simp] theorem State.setSeq_frame (i : Nat) (x : Seq) :
    (s.setSeq i x).pending = s.pending ∧ (s.setSeq i x).free = s.free ∧ (s.setSeq i x).regs = s.regs ∧ (s.setSeq i x).sc0 = s.sc0 ∧
    (s.setSeq i x).sc1 = s.sc1 ∧ (s.setSeq i x).mc = s.mc ∧ (s.setSeq i x).cache = s.cache ∧ (s.setSeq i x).drbg = s.drbg ∧
    (s.setSeq i x).jnl = s.jnl ∧ (s.setSeq i x).vectors = s.vectors ∧ (s.setSeq i x).halting = s.halting ∧ (s.setSeq i x).mem = s.mem ∧
    (s.setSeq i x).irq = s.irq ∧ (s.setSeq i x).viol = s.viol ∧ (s.setSeq i x).capHeld = s.capHeld ∧ (s.setSeq i x).holds = s.holds ∧
    (s.setSeq i x).winLow = s.winLow ∧ (s.setSeq i x).tamp = s.tamp ∧ (s.setSeq i x).otp = s.otp ∧ (s.setSeq i x).meas = s.meas ∧
    (s.setSeq i x).ent = s.ent ∧ (s.setSeq i x).vault = s.vault ∧ (s.setSeq i x).ks = s.ks ∧ (s.setSeq i x).ballots = s.ballots ∧
    (s.setSeq i x).ballotId = s.ballotId ∧ (s.setSeq i x).cmds = s.cmds ∧ (s.setSeq i x).nextUid = s.nextUid ∧ (s.setSeq i x).queues = s.queues ∧
    (s.setSeq i x).funcs = s.funcs ∧ (s.setSeq i x).msix = s.msix ∧ (s.setSeq i x).d3 = s.d3 ∧ (s.setSeq i x).portA = s.portA ∧
    (s.setSeq i x).portB = s.portB ∧ (s.setSeq i x).spdmM = s.spdmM ∧ (s.setSeq i x).flrs = s.flrs ∧ (s.setSeq i x).tickets = s.tickets ∧
    (s.setSeq i x).sent = s.sent ∧ (s.setSeq i x).plx = s.plx ∧ (s.setSeq i x).mgmt = s.mgmt ∧ (s.setSeq i x).rst = s.rst ∧
    (s.setSeq i x).dbg = s.dbg ∧ (s.setSeq i x).blockRst = s.blockRst ∧ (∀ g, (s.setSeq i x).rd g = s.rd g) ∧ (∀ g, (s.setSeq i x).on g = s.on g) := by
  and_intros <;> intros <;> rfl

@[simp] theorem State.setLane_frame (i : Nat) (x : Lane) :
    (s.setLane i x).pending = s.pending ∧ (s.setLane i x).free = s.free ∧ (s.setLane i x).regs = s.regs ∧ (s.setLane i x).sc0 = s.sc0 ∧
    (s.setLane i x).sc1 = s.sc1 ∧ (s.setLane i x).mc = s.mc ∧ (s.setLane i x).cache = s.cache ∧ (s.setLane i x).drbg = s.drbg ∧
    (s.setLane i x).jnl = s.jnl ∧ (s.setLane i x).vectors = s.vectors ∧ (s.setLane i x).halting = s.halting ∧ (s.setLane i x).mem = s.mem ∧
    (s.setLane i x).irq = s.irq ∧ (s.setLane i x).viol = s.viol ∧ (s.setLane i x).capHeld = s.capHeld ∧ (s.setLane i x).holds = s.holds ∧
    (s.setLane i x).winLow = s.winLow ∧ (s.setLane i x).tamp = s.tamp ∧ (s.setLane i x).otp = s.otp ∧ (s.setLane i x).meas = s.meas ∧
    (s.setLane i x).ent = s.ent ∧ (s.setLane i x).vault = s.vault ∧ (s.setLane i x).ks = s.ks ∧ (s.setLane i x).ballots = s.ballots ∧
    (s.setLane i x).ballotId = s.ballotId ∧ (s.setLane i x).cmds = s.cmds ∧ (s.setLane i x).nextUid = s.nextUid ∧ (s.setLane i x).queues = s.queues ∧
    (s.setLane i x).funcs = s.funcs ∧ (s.setLane i x).msix = s.msix ∧ (s.setLane i x).d3 = s.d3 ∧ (s.setLane i x).portA = s.portA ∧
    (s.setLane i x).portB = s.portB ∧ (s.setLane i x).spdmM = s.spdmM ∧ (s.setLane i x).flrs = s.flrs ∧ (s.setLane i x).tickets = s.tickets ∧
    (s.setLane i x).sent = s.sent ∧ (s.setLane i x).plx = s.plx ∧ (s.setLane i x).mgmt = s.mgmt ∧ (s.setLane i x).rst = s.rst ∧
    (s.setLane i x).dbg = s.dbg ∧ (s.setLane i x).blockRst = s.blockRst ∧ (∀ g, (s.setLane i x).rd g = s.rd g) ∧ (∀ g, (s.setLane i x).on g = s.on g) := by
  and_intros <;> intros <;> rfl

@[simp] theorem State.setGroup_frame (i : Nat) (x : Group) :
    (s.setGroup i x).pending = s.pending ∧ (s.setGroup i x).free = s.free ∧ (s.setGroup i x).regs = s.regs ∧ (s.setGroup i x).sc0 = s.sc0 ∧
    (s.setGroup i x).sc1 = s.sc1 ∧ (s.setGroup i x).mc = s.mc ∧ (s.setGroup i x).cache = s.cache ∧ (s.setGroup i x).drbg = s.drbg ∧
    (s.setGroup i x).jnl = s.jnl ∧ (s.setGroup i x).vectors = s.vectors ∧ (s.setGroup i x).halting = s.halting ∧ (s.setGroup i x).mem = s.mem ∧
    (s.setGroup i x).irq = s.irq ∧ (s.setGroup i x).viol = s.viol ∧ (s.setGroup i x).capHeld = s.capHeld ∧ (s.setGroup i x).holds = s.holds ∧
    (s.setGroup i x).winLow = s.winLow ∧ (s.setGroup i x).tamp = s.tamp ∧ (s.setGroup i x).otp = s.otp ∧ (s.setGroup i x).meas = s.meas ∧
    (s.setGroup i x).ent = s.ent ∧ (s.setGroup i x).vault = s.vault ∧ (s.setGroup i x).ks = s.ks ∧ (s.setGroup i x).ballots = s.ballots ∧
    (s.setGroup i x).ballotId = s.ballotId ∧ (s.setGroup i x).cmds = s.cmds ∧ (s.setGroup i x).nextUid = s.nextUid ∧ (s.setGroup i x).queues = s.queues ∧
    (s.setGroup i x).funcs = s.funcs ∧ (s.setGroup i x).msix = s.msix ∧ (s.setGroup i x).d3 = s.d3 ∧ (s.setGroup i x).portA = s.portA ∧
    (s.setGroup i x).portB = s.portB ∧ (s.setGroup i x).spdmM = s.spdmM ∧ (s.setGroup i x).flrs = s.flrs ∧ (s.setGroup i x).tickets = s.tickets ∧
    (s.setGroup i x).sent = s.sent ∧ (s.setGroup i x).plx = s.plx ∧ (s.setGroup i x).mgmt = s.mgmt ∧ (s.setGroup i x).rst = s.rst ∧
    (s.setGroup i x).dbg = s.dbg ∧ (s.setGroup i x).blockRst = s.blockRst ∧ (∀ g, (s.setGroup i x).rd g = s.rd g) ∧ (∀ g, (s.setGroup i x).on g = s.on g) := by
  and_intros <;> intros <;> rfl

@[simp] theorem State.setXt_frame (i : Nat) (x : XtUnit) :
    (s.setXt i x).pending = s.pending ∧ (s.setXt i x).free = s.free ∧ (s.setXt i x).regs = s.regs ∧ (s.setXt i x).sc0 = s.sc0 ∧
    (s.setXt i x).sc1 = s.sc1 ∧ (s.setXt i x).mc = s.mc ∧ (s.setXt i x).cache = s.cache ∧ (s.setXt i x).drbg = s.drbg ∧
    (s.setXt i x).jnl = s.jnl ∧ (s.setXt i x).vectors = s.vectors ∧ (s.setXt i x).halting = s.halting ∧ (s.setXt i x).mem = s.mem ∧
    (s.setXt i x).irq = s.irq ∧ (s.setXt i x).viol = s.viol ∧ (s.setXt i x).capHeld = s.capHeld ∧ (s.setXt i x).holds = s.holds ∧
    (s.setXt i x).winLow = s.winLow ∧ (s.setXt i x).tamp = s.tamp ∧ (s.setXt i x).otp = s.otp ∧ (s.setXt i x).meas = s.meas ∧
    (s.setXt i x).ent = s.ent ∧ (s.setXt i x).vault = s.vault ∧ (s.setXt i x).ks = s.ks ∧ (s.setXt i x).ballots = s.ballots ∧
    (s.setXt i x).ballotId = s.ballotId ∧ (s.setXt i x).cmds = s.cmds ∧ (s.setXt i x).nextUid = s.nextUid ∧ (s.setXt i x).queues = s.queues ∧
    (s.setXt i x).funcs = s.funcs ∧ (s.setXt i x).msix = s.msix ∧ (s.setXt i x).d3 = s.d3 ∧ (s.setXt i x).portA = s.portA ∧
    (s.setXt i x).portB = s.portB ∧ (s.setXt i x).spdmM = s.spdmM ∧ (s.setXt i x).flrs = s.flrs ∧ (s.setXt i x).tickets = s.tickets ∧
    (s.setXt i x).sent = s.sent ∧ (s.setXt i x).plx = s.plx ∧ (s.setXt i x).mgmt = s.mgmt ∧ (s.setXt i x).rst = s.rst ∧
    (s.setXt i x).dbg = s.dbg ∧ (s.setXt i x).blockRst = s.blockRst ∧ (∀ g, (s.setXt i x).rd g = s.rd g) ∧ (∀ g, (s.setXt i x).on g = s.on g) := by
  and_intros <;> intros <;> rfl

@[simp] theorem State.setDu_frame (i : Nat) (x : DigestUnit) :
    (s.setDu i x).pending = s.pending ∧ (s.setDu i x).free = s.free ∧ (s.setDu i x).regs = s.regs ∧ (s.setDu i x).sc0 = s.sc0 ∧
    (s.setDu i x).sc1 = s.sc1 ∧ (s.setDu i x).mc = s.mc ∧ (s.setDu i x).cache = s.cache ∧ (s.setDu i x).drbg = s.drbg ∧
    (s.setDu i x).jnl = s.jnl ∧ (s.setDu i x).vectors = s.vectors ∧ (s.setDu i x).halting = s.halting ∧ (s.setDu i x).mem = s.mem ∧
    (s.setDu i x).irq = s.irq ∧ (s.setDu i x).viol = s.viol ∧ (s.setDu i x).capHeld = s.capHeld ∧ (s.setDu i x).holds = s.holds ∧
    (s.setDu i x).winLow = s.winLow ∧ (s.setDu i x).tamp = s.tamp ∧ (s.setDu i x).otp = s.otp ∧ (s.setDu i x).meas = s.meas ∧
    (s.setDu i x).ent = s.ent ∧ (s.setDu i x).vault = s.vault ∧ (s.setDu i x).ks = s.ks ∧ (s.setDu i x).ballots = s.ballots ∧
    (s.setDu i x).ballotId = s.ballotId ∧ (s.setDu i x).cmds = s.cmds ∧ (s.setDu i x).nextUid = s.nextUid ∧ (s.setDu i x).queues = s.queues ∧
    (s.setDu i x).funcs = s.funcs ∧ (s.setDu i x).msix = s.msix ∧ (s.setDu i x).d3 = s.d3 ∧ (s.setDu i x).portA = s.portA ∧
    (s.setDu i x).portB = s.portB ∧ (s.setDu i x).spdmM = s.spdmM ∧ (s.setDu i x).flrs = s.flrs ∧ (s.setDu i x).tickets = s.tickets ∧
    (s.setDu i x).sent = s.sent ∧ (s.setDu i x).plx = s.plx ∧ (s.setDu i x).mgmt = s.mgmt ∧ (s.setDu i x).rst = s.rst ∧
    (s.setDu i x).dbg = s.dbg ∧ (s.setDu i x).blockRst = s.blockRst ∧ (∀ g, (s.setDu i x).rd g = s.rd g) ∧ (∀ g, (s.setDu i x).on g = s.on g) := by
  and_intros <;> intros <;> rfl

@[simp] theorem State.setNu_frame (i : Nat) (x : NumUnit) :
    (s.setNu i x).pending = s.pending ∧ (s.setNu i x).free = s.free ∧ (s.setNu i x).regs = s.regs ∧ (s.setNu i x).sc0 = s.sc0 ∧
    (s.setNu i x).sc1 = s.sc1 ∧ (s.setNu i x).mc = s.mc ∧ (s.setNu i x).cache = s.cache ∧ (s.setNu i x).drbg = s.drbg ∧
    (s.setNu i x).jnl = s.jnl ∧ (s.setNu i x).vectors = s.vectors ∧ (s.setNu i x).halting = s.halting ∧ (s.setNu i x).mem = s.mem ∧
    (s.setNu i x).irq = s.irq ∧ (s.setNu i x).viol = s.viol ∧ (s.setNu i x).capHeld = s.capHeld ∧ (s.setNu i x).holds = s.holds ∧
    (s.setNu i x).winLow = s.winLow ∧ (s.setNu i x).tamp = s.tamp ∧ (s.setNu i x).otp = s.otp ∧ (s.setNu i x).meas = s.meas ∧
    (s.setNu i x).ent = s.ent ∧ (s.setNu i x).vault = s.vault ∧ (s.setNu i x).ks = s.ks ∧ (s.setNu i x).ballots = s.ballots ∧
    (s.setNu i x).ballotId = s.ballotId ∧ (s.setNu i x).cmds = s.cmds ∧ (s.setNu i x).nextUid = s.nextUid ∧ (s.setNu i x).queues = s.queues ∧
    (s.setNu i x).funcs = s.funcs ∧ (s.setNu i x).msix = s.msix ∧ (s.setNu i x).d3 = s.d3 ∧ (s.setNu i x).portA = s.portA ∧
    (s.setNu i x).portB = s.portB ∧ (s.setNu i x).spdmM = s.spdmM ∧ (s.setNu i x).flrs = s.flrs ∧ (s.setNu i x).tickets = s.tickets ∧
    (s.setNu i x).sent = s.sent ∧ (s.setNu i x).plx = s.plx ∧ (s.setNu i x).mgmt = s.mgmt ∧ (s.setNu i x).rst = s.rst ∧
    (s.setNu i x).dbg = s.dbg ∧ (s.setNu i x).blockRst = s.blockRst ∧ (∀ g, (s.setNu i x).rd g = s.rd g) ∧ (∀ g, (s.setNu i x).on g = s.on g) := by
  and_intros <;> intros <;> rfl

@[simp] theorem State.setPage_frame (i : Nat) (x : HoldPage) :
    (s.setPage i x).pending = s.pending ∧ (s.setPage i x).free = s.free ∧ (s.setPage i x).regs = s.regs ∧ (s.setPage i x).sc0 = s.sc0 ∧
    (s.setPage i x).sc1 = s.sc1 ∧ (s.setPage i x).mc = s.mc ∧ (s.setPage i x).cache = s.cache ∧ (s.setPage i x).drbg = s.drbg ∧
    (s.setPage i x).jnl = s.jnl ∧ (s.setPage i x).vectors = s.vectors ∧ (s.setPage i x).halting = s.halting ∧ (s.setPage i x).mem = s.mem ∧
    (s.setPage i x).irq = s.irq ∧ (s.setPage i x).viol = s.viol ∧ (s.setPage i x).capHeld = s.capHeld ∧ (s.setPage i x).holds = s.holds ∧
    (s.setPage i x).winLow = s.winLow ∧ (s.setPage i x).tamp = s.tamp ∧ (s.setPage i x).otp = s.otp ∧ (s.setPage i x).meas = s.meas ∧
    (s.setPage i x).ent = s.ent ∧ (s.setPage i x).vault = s.vault ∧ (s.setPage i x).ks = s.ks ∧ (s.setPage i x).ballots = s.ballots ∧
    (s.setPage i x).ballotId = s.ballotId ∧ (s.setPage i x).cmds = s.cmds ∧ (s.setPage i x).nextUid = s.nextUid ∧ (s.setPage i x).queues = s.queues ∧
    (s.setPage i x).funcs = s.funcs ∧ (s.setPage i x).msix = s.msix ∧ (s.setPage i x).d3 = s.d3 ∧ (s.setPage i x).portA = s.portA ∧
    (s.setPage i x).portB = s.portB ∧ (s.setPage i x).spdmM = s.spdmM ∧ (s.setPage i x).flrs = s.flrs ∧ (s.setPage i x).tickets = s.tickets ∧
    (s.setPage i x).sent = s.sent ∧ (s.setPage i x).plx = s.plx ∧ (s.setPage i x).mgmt = s.mgmt ∧ (s.setPage i x).rst = s.rst ∧
    (s.setPage i x).dbg = s.dbg ∧ (s.setPage i x).blockRst = s.blockRst ∧ (∀ g, (s.setPage i x).rd g = s.rd g) ∧ (∀ g, (s.setPage i x).on g = s.on g) := by
  and_intros <;> intros <;> rfl

@[simp] theorem State.setHold_frame (i : Nat) (x : Block) :
    (s.setHold i x).pending = s.pending ∧ (s.setHold i x).free = s.free ∧ (s.setHold i x).regs = s.regs ∧ (s.setHold i x).sc0 = s.sc0 ∧
    (s.setHold i x).sc1 = s.sc1 ∧ (s.setHold i x).mc = s.mc ∧ (s.setHold i x).cache = s.cache ∧ (s.setHold i x).drbg = s.drbg ∧
    (s.setHold i x).jnl = s.jnl ∧ (s.setHold i x).vectors = s.vectors ∧ (s.setHold i x).halting = s.halting ∧ (s.setHold i x).mem = s.mem ∧
    (s.setHold i x).irq = s.irq ∧ (s.setHold i x).viol = s.viol ∧ (s.setHold i x).capHeld = s.capHeld ∧ (s.setHold i x).holds = s.holds ∧
    (s.setHold i x).winLow = s.winLow ∧ (s.setHold i x).tamp = s.tamp ∧ (s.setHold i x).otp = s.otp ∧ (s.setHold i x).meas = s.meas ∧
    (s.setHold i x).ent = s.ent ∧ (s.setHold i x).vault = s.vault ∧ (s.setHold i x).ks = s.ks ∧ (s.setHold i x).ballots = s.ballots ∧
    (s.setHold i x).ballotId = s.ballotId ∧ (s.setHold i x).cmds = s.cmds ∧ (s.setHold i x).nextUid = s.nextUid ∧ (s.setHold i x).queues = s.queues ∧
    (s.setHold i x).funcs = s.funcs ∧ (s.setHold i x).msix = s.msix ∧ (s.setHold i x).d3 = s.d3 ∧ (s.setHold i x).portA = s.portA ∧
    (s.setHold i x).portB = s.portB ∧ (s.setHold i x).spdmM = s.spdmM ∧ (s.setHold i x).flrs = s.flrs ∧ (s.setHold i x).tickets = s.tickets ∧
    (s.setHold i x).sent = s.sent ∧ (s.setHold i x).plx = s.plx ∧ (s.setHold i x).mgmt = s.mgmt ∧ (s.setHold i x).rst = s.rst ∧
    (s.setHold i x).dbg = s.dbg ∧ (s.setHold i x).blockRst = s.blockRst ∧ (∀ g, (s.setHold i x).rd g = s.rd g) ∧ (∀ g, (s.setHold i x).on g = s.on g) := by
  and_intros <;> intros <;> rfl

@[simp] theorem State.setExpander_frame (i : Nat) (x : Expander) :
    (s.setExpander i x).pending = s.pending ∧ (s.setExpander i x).free = s.free ∧ (s.setExpander i x).regs = s.regs ∧ (s.setExpander i x).sc0 = s.sc0 ∧
    (s.setExpander i x).sc1 = s.sc1 ∧ (s.setExpander i x).mc = s.mc ∧ (s.setExpander i x).cache = s.cache ∧ (s.setExpander i x).drbg = s.drbg ∧
    (s.setExpander i x).jnl = s.jnl ∧ (s.setExpander i x).vectors = s.vectors ∧ (s.setExpander i x).halting = s.halting ∧ (s.setExpander i x).mem = s.mem ∧
    (s.setExpander i x).irq = s.irq ∧ (s.setExpander i x).viol = s.viol ∧ (s.setExpander i x).capHeld = s.capHeld ∧ (s.setExpander i x).holds = s.holds ∧
    (s.setExpander i x).winLow = s.winLow ∧ (s.setExpander i x).tamp = s.tamp ∧ (s.setExpander i x).otp = s.otp ∧ (s.setExpander i x).meas = s.meas ∧
    (s.setExpander i x).ent = s.ent ∧ (s.setExpander i x).vault = s.vault ∧ (s.setExpander i x).ks = s.ks ∧ (s.setExpander i x).ballots = s.ballots ∧
    (s.setExpander i x).ballotId = s.ballotId ∧ (s.setExpander i x).cmds = s.cmds ∧ (s.setExpander i x).nextUid = s.nextUid ∧ (s.setExpander i x).queues = s.queues ∧
    (s.setExpander i x).funcs = s.funcs ∧ (s.setExpander i x).msix = s.msix ∧ (s.setExpander i x).d3 = s.d3 ∧ (s.setExpander i x).portA = s.portA ∧
    (s.setExpander i x).portB = s.portB ∧ (s.setExpander i x).spdmM = s.spdmM ∧ (s.setExpander i x).flrs = s.flrs ∧ (s.setExpander i x).tickets = s.tickets ∧
    (s.setExpander i x).sent = s.sent ∧ (s.setExpander i x).plx = s.plx ∧ (s.setExpander i x).mgmt = s.mgmt ∧ (s.setExpander i x).rst = s.rst ∧
    (s.setExpander i x).dbg = s.dbg ∧ (s.setExpander i x).blockRst = s.blockRst ∧ (∀ g, (s.setExpander i x).rd g = s.rd g) ∧ (∀ g, (s.setExpander i x).on g = s.on g) := by
  and_intros <;> intros <;> rfl

@[simp] theorem State.onInst_frame (fs : Nat) (f : Inst → Inst) :
    (s.onInst fs f).pending = s.pending ∧ (s.onInst fs f).free = s.free ∧ (s.onInst fs f).regs = s.regs ∧ (s.onInst fs f).sc0 = s.sc0 ∧
    (s.onInst fs f).sc1 = s.sc1 ∧ (s.onInst fs f).mc = s.mc ∧ (s.onInst fs f).cache = s.cache ∧ (s.onInst fs f).drbg = s.drbg ∧
    (s.onInst fs f).jnl = s.jnl ∧ (s.onInst fs f).vectors = s.vectors ∧ (s.onInst fs f).halting = s.halting ∧ (s.onInst fs f).mem = s.mem ∧
    (s.onInst fs f).irq = s.irq ∧ (s.onInst fs f).viol = s.viol ∧ (s.onInst fs f).capHeld = s.capHeld ∧ (s.onInst fs f).holds = s.holds ∧
    (s.onInst fs f).winLow = s.winLow ∧ (s.onInst fs f).tamp = s.tamp ∧ (s.onInst fs f).otp = s.otp ∧ (s.onInst fs f).meas = s.meas ∧
    (s.onInst fs f).ent = s.ent ∧ (s.onInst fs f).vault = s.vault ∧ (s.onInst fs f).ks = s.ks ∧ (s.onInst fs f).ballots = s.ballots ∧
    (s.onInst fs f).ballotId = s.ballotId ∧ (s.onInst fs f).cmds = s.cmds ∧ (s.onInst fs f).nextUid = s.nextUid ∧ (s.onInst fs f).queues = s.queues ∧
    (s.onInst fs f).funcs = s.funcs ∧ (s.onInst fs f).msix = s.msix ∧ (s.onInst fs f).d3 = s.d3 ∧ (s.onInst fs f).portA = s.portA ∧
    (s.onInst fs f).portB = s.portB ∧ (s.onInst fs f).spdmM = s.spdmM ∧ (s.onInst fs f).flrs = s.flrs ∧ (s.onInst fs f).tickets = s.tickets ∧
    (s.onInst fs f).sent = s.sent ∧ (s.onInst fs f).plx = s.plx ∧ (s.onInst fs f).mgmt = s.mgmt ∧ (s.onInst fs f).rst = s.rst ∧
    (s.onInst fs f).dbg = s.dbg ∧ (s.onInst fs f).blockRst = s.blockRst ∧ (∀ g, (s.onInst fs f).rd g = s.rd g) ∧ (∀ g, (s.onInst fs f).on g = s.on g) := by
  and_intros <;> intros <;> rfl

@[simp] theorem State.setSlot_frame (i : Nat) (x : KSlot) :
    (s.setSlot i x).pending = s.pending ∧ (s.setSlot i x).free = s.free ∧ (s.setSlot i x).regs = s.regs ∧ (s.setSlot i x).sc0 = s.sc0 ∧
    (s.setSlot i x).sc1 = s.sc1 ∧ (s.setSlot i x).mc = s.mc ∧ (s.setSlot i x).floor = s.floor ∧ (s.setSlot i x).drbg = s.drbg ∧
    (s.setSlot i x).jnl = s.jnl ∧ (s.setSlot i x).vectors = s.vectors ∧ (s.setSlot i x).halting = s.halting ∧ (s.setSlot i x).mem = s.mem ∧
    (s.setSlot i x).irq = s.irq ∧ (s.setSlot i x).viol = s.viol ∧ (s.setSlot i x).capHeld = s.capHeld ∧ (s.setSlot i x).holds = s.holds ∧
    (s.setSlot i x).winLow = s.winLow ∧ (s.setSlot i x).tamp = s.tamp ∧ (s.setSlot i x).otp = s.otp ∧ (s.setSlot i x).meas = s.meas ∧
    (s.setSlot i x).ent = s.ent ∧ (s.setSlot i x).vault = s.vault ∧ (s.setSlot i x).ks = s.ks ∧ (s.setSlot i x).ballots = s.ballots ∧
    (s.setSlot i x).ballotId = s.ballotId ∧ (s.setSlot i x).cmds = s.cmds ∧ (s.setSlot i x).nextUid = s.nextUid ∧ (s.setSlot i x).queues = s.queues ∧
    (s.setSlot i x).funcs = s.funcs ∧ (s.setSlot i x).msix = s.msix ∧ (s.setSlot i x).d3 = s.d3 ∧ (s.setSlot i x).portA = s.portA ∧
    (s.setSlot i x).portB = s.portB ∧ (s.setSlot i x).spdmM = s.spdmM ∧ (s.setSlot i x).flrs = s.flrs ∧ (s.setSlot i x).tickets = s.tickets ∧
    (s.setSlot i x).sent = s.sent ∧ (s.setSlot i x).plx = s.plx ∧ (s.setSlot i x).mgmt = s.mgmt ∧ (s.setSlot i x).rst = s.rst ∧
    (s.setSlot i x).dbg = s.dbg ∧ (s.setSlot i x).blockRst = s.blockRst ∧ (∀ g, (s.setSlot i x).rd g = s.rd g) ∧ (∀ g, (s.setSlot i x).on g = s.on g) := by
  and_intros <;> intros <;> rfl

@[simp] theorem State.setMgmt_frame (f : Mgmt → Mgmt) :
    (s.setMgmt f).pending = s.pending ∧ (s.setMgmt f).free = s.free ∧ (s.setMgmt f).regs = s.regs ∧ (s.setMgmt f).sc0 = s.sc0 ∧
    (s.setMgmt f).sc1 = s.sc1 ∧ (s.setMgmt f).mc = s.mc ∧ (s.setMgmt f).floor = s.floor ∧ (s.setMgmt f).cache = s.cache ∧
    (s.setMgmt f).drbg = s.drbg ∧ (s.setMgmt f).jnl = s.jnl ∧ (s.setMgmt f).vectors = s.vectors ∧ (s.setMgmt f).halting = s.halting ∧
    (s.setMgmt f).mem = s.mem ∧ (s.setMgmt f).irq = s.irq ∧ (s.setMgmt f).viol = s.viol ∧ (s.setMgmt f).capHeld = s.capHeld ∧
    (s.setMgmt f).holds = s.holds ∧ (s.setMgmt f).winLow = s.winLow ∧ (s.setMgmt f).tamp = s.tamp ∧ (s.setMgmt f).otp = s.otp ∧
    (s.setMgmt f).meas = s.meas ∧ (s.setMgmt f).ent = s.ent ∧ (s.setMgmt f).vault = s.vault ∧ (s.setMgmt f).ks = s.ks ∧
    (s.setMgmt f).ballots = s.ballots ∧ (s.setMgmt f).ballotId = s.ballotId ∧ (s.setMgmt f).cmds = s.cmds ∧ (s.setMgmt f).nextUid = s.nextUid ∧
    (s.setMgmt f).queues = s.queues ∧ (s.setMgmt f).funcs = s.funcs ∧ (s.setMgmt f).msix = s.msix ∧ (s.setMgmt f).d3 = s.d3 ∧
    (s.setMgmt f).portA = s.portA ∧ (s.setMgmt f).portB = s.portB ∧ (s.setMgmt f).spdmM = s.spdmM ∧ (s.setMgmt f).flrs = s.flrs ∧
    (s.setMgmt f).tickets = s.tickets ∧ (s.setMgmt f).sent = s.sent ∧ (s.setMgmt f).plx = s.plx ∧ (s.setMgmt f).mgmt = f s.mgmt ∧
    (s.setMgmt f).rst = s.rst ∧ (s.setMgmt f).dbg = s.dbg ∧ (s.setMgmt f).blockRst = s.blockRst ∧ (∀ g, (s.setMgmt f).rd g = s.rd g) ∧
    (∀ g, (s.setMgmt f).on g = s.on g) := by
  and_intros <;> intros <;> rfl

@[simp] theorem State.setSlotImage_frame (i : Nat) (o : List Octet) :
    (s.setSlotImage i o).pending = s.pending ∧ (s.setSlotImage i o).free = s.free ∧ (s.setSlotImage i o).regs = s.regs ∧ (s.setSlotImage i o).sc0 = s.sc0 ∧
    (s.setSlotImage i o).sc1 = s.sc1 ∧ (s.setSlotImage i o).mc = s.mc ∧ (s.setSlotImage i o).floor = s.floor ∧ (s.setSlotImage i o).cache = s.cache ∧
    (s.setSlotImage i o).drbg = s.drbg ∧ (s.setSlotImage i o).jnl = s.jnl ∧ (s.setSlotImage i o).vectors = s.vectors ∧ (s.setSlotImage i o).halting = s.halting ∧
    (s.setSlotImage i o).mem = s.mem ∧ (s.setSlotImage i o).irq = s.irq ∧ (s.setSlotImage i o).viol = s.viol ∧ (s.setSlotImage i o).capHeld = s.capHeld ∧
    (s.setSlotImage i o).holds = s.holds ∧ (s.setSlotImage i o).winLow = s.winLow ∧ (s.setSlotImage i o).tamp = s.tamp ∧ (s.setSlotImage i o).otp = s.otp ∧
    (s.setSlotImage i o).meas = s.meas ∧ (s.setSlotImage i o).ent = s.ent ∧ (s.setSlotImage i o).vault = s.vault ∧ (s.setSlotImage i o).ks = s.ks ∧
    (s.setSlotImage i o).ballots = s.ballots ∧ (s.setSlotImage i o).ballotId = s.ballotId ∧ (s.setSlotImage i o).cmds = s.cmds ∧ (s.setSlotImage i o).nextUid = s.nextUid ∧
    (s.setSlotImage i o).queues = s.queues ∧ (s.setSlotImage i o).funcs = s.funcs ∧ (s.setSlotImage i o).msix = s.msix ∧ (s.setSlotImage i o).d3 = s.d3 ∧
    (s.setSlotImage i o).portA = s.portA ∧ (s.setSlotImage i o).portB = s.portB ∧ (s.setSlotImage i o).spdmM = s.spdmM ∧ (s.setSlotImage i o).flrs = s.flrs ∧
    (s.setSlotImage i o).tickets = s.tickets ∧ (s.setSlotImage i o).sent = s.sent ∧ (s.setSlotImage i o).plx = s.plx ∧ (s.setSlotImage i o).rst = s.rst ∧
    (s.setSlotImage i o).dbg = s.dbg ∧ (s.setSlotImage i o).blockRst = s.blockRst ∧ (∀ g, (s.setSlotImage i o).rd g = s.rd g) ∧ (∀ g, (s.setSlotImage i o).on g = s.on g) := by
  unfold State.setSlotImage; (repeat' split) <;> (and_intros <;> intros <;> rfl)

@[simp] theorem State.setTamp_frame (f : Tamper → Tamper) :
    (s.setTamp f).pending = s.pending ∧ (s.setTamp f).free = s.free ∧ (s.setTamp f).regs = s.regs ∧ (s.setTamp f).sc0 = s.sc0 ∧
    (s.setTamp f).sc1 = s.sc1 ∧ (s.setTamp f).mc = s.mc ∧ (s.setTamp f).floor = s.floor ∧ (s.setTamp f).cache = s.cache ∧
    (s.setTamp f).drbg = s.drbg ∧ (s.setTamp f).jnl = s.jnl ∧ (s.setTamp f).vectors = s.vectors ∧ (s.setTamp f).halting = s.halting ∧
    (s.setTamp f).mem = s.mem ∧ (s.setTamp f).irq = s.irq ∧ (s.setTamp f).viol = s.viol ∧ (s.setTamp f).capHeld = s.capHeld ∧
    (s.setTamp f).holds = s.holds ∧ (s.setTamp f).winLow = s.winLow ∧ (s.setTamp f).tamp = f s.tamp ∧ (s.setTamp f).otp = s.otp ∧
    (s.setTamp f).meas = s.meas ∧ (s.setTamp f).ent = s.ent ∧ (s.setTamp f).vault = s.vault ∧ (s.setTamp f).ks = s.ks ∧
    (s.setTamp f).ballots = s.ballots ∧ (s.setTamp f).ballotId = s.ballotId ∧ (s.setTamp f).cmds = s.cmds ∧ (s.setTamp f).nextUid = s.nextUid ∧
    (s.setTamp f).queues = s.queues ∧ (s.setTamp f).funcs = s.funcs ∧ (s.setTamp f).msix = s.msix ∧ (s.setTamp f).d3 = s.d3 ∧
    (s.setTamp f).portA = s.portA ∧ (s.setTamp f).portB = s.portB ∧ (s.setTamp f).spdmM = s.spdmM ∧ (s.setTamp f).flrs = s.flrs ∧
    (s.setTamp f).tickets = s.tickets ∧ (s.setTamp f).sent = s.sent ∧ (s.setTamp f).plx = s.plx ∧ (s.setTamp f).mgmt = s.mgmt ∧
    (s.setTamp f).rst = s.rst ∧ (s.setTamp f).dbg = s.dbg ∧ (s.setTamp f).blockRst = s.blockRst ∧ (∀ g, (s.setTamp f).rd g = s.rd g) ∧
    (∀ g, (s.setTamp f).on g = s.on g) := by
  and_intros <;> intros <;> rfl

@[simp] theorem State.setCell_frame (c : Nat) (r : CellRec) :
    (s.setCell c r).pending = s.pending ∧ (s.setCell c r).free = s.free ∧ (s.setCell c r).regs = s.regs ∧ (s.setCell c r).sc0 = s.sc0 ∧
    (s.setCell c r).sc1 = s.sc1 ∧ (s.setCell c r).mc = s.mc ∧ (s.setCell c r).floor = s.floor ∧ (s.setCell c r).cache = s.cache ∧
    (s.setCell c r).drbg = s.drbg ∧ (s.setCell c r).jnl = s.jnl ∧ (s.setCell c r).vectors = s.vectors ∧ (s.setCell c r).halting = s.halting ∧
    (s.setCell c r).mem = s.mem ∧ (s.setCell c r).irq = s.irq ∧ (s.setCell c r).viol = s.viol ∧ (s.setCell c r).capHeld = s.capHeld ∧
    (s.setCell c r).holds = s.holds ∧ (s.setCell c r).winLow = s.winLow ∧ (s.setCell c r).otp = s.otp ∧ (s.setCell c r).meas = s.meas ∧
    (s.setCell c r).ent = s.ent ∧ (s.setCell c r).vault = s.vault ∧ (s.setCell c r).ks = s.ks ∧ (s.setCell c r).ballots = s.ballots ∧
    (s.setCell c r).ballotId = s.ballotId ∧ (s.setCell c r).cmds = s.cmds ∧ (s.setCell c r).nextUid = s.nextUid ∧ (s.setCell c r).queues = s.queues ∧
    (s.setCell c r).funcs = s.funcs ∧ (s.setCell c r).msix = s.msix ∧ (s.setCell c r).d3 = s.d3 ∧ (s.setCell c r).portA = s.portA ∧
    (s.setCell c r).portB = s.portB ∧ (s.setCell c r).spdmM = s.spdmM ∧ (s.setCell c r).flrs = s.flrs ∧ (s.setCell c r).tickets = s.tickets ∧
    (s.setCell c r).sent = s.sent ∧ (s.setCell c r).plx = s.plx ∧ (s.setCell c r).mgmt = s.mgmt ∧ (s.setCell c r).rst = s.rst ∧
    (s.setCell c r).dbg = s.dbg ∧ (s.setCell c r).blockRst = s.blockRst ∧ (∀ g, (s.setCell c r).rd g = s.rd g) ∧ (∀ g, (s.setCell c r).on g = s.on g) := by
  and_intros <;> intros <;> rfl

@[simp] theorem State.setEnt_frame (f : EntropySt → EntropySt) :
    (s.setEnt f).pending = s.pending ∧ (s.setEnt f).free = s.free ∧ (s.setEnt f).sc0 = s.sc0 ∧ (s.setEnt f).sc1 = s.sc1 ∧
    (s.setEnt f).mc = s.mc ∧ (s.setEnt f).floor = s.floor ∧ (s.setEnt f).cache = s.cache ∧ (s.setEnt f).drbg = s.drbg ∧
    (s.setEnt f).jnl = s.jnl ∧ (s.setEnt f).vectors = s.vectors ∧ (s.setEnt f).halting = s.halting ∧ (s.setEnt f).mem = s.mem ∧
    (s.setEnt f).irq = s.irq ∧ (s.setEnt f).viol = s.viol ∧ (s.setEnt f).capHeld = s.capHeld ∧ (s.setEnt f).holds = s.holds ∧
    (s.setEnt f).winLow = s.winLow ∧ (s.setEnt f).tamp = s.tamp ∧ (s.setEnt f).otp = s.otp ∧ (s.setEnt f).meas = s.meas ∧
    (s.setEnt f).ent = f s.ent ∧ (s.setEnt f).vault = s.vault ∧ (s.setEnt f).ks = s.ks ∧ (s.setEnt f).ballots = s.ballots ∧
    (s.setEnt f).ballotId = s.ballotId ∧ (s.setEnt f).cmds = s.cmds ∧ (s.setEnt f).nextUid = s.nextUid ∧ (s.setEnt f).queues = s.queues ∧
    (s.setEnt f).funcs = s.funcs ∧ (s.setEnt f).msix = s.msix ∧ (s.setEnt f).d3 = s.d3 ∧ (s.setEnt f).portA = s.portA ∧
    (s.setEnt f).portB = s.portB ∧ (s.setEnt f).spdmM = s.spdmM ∧ (s.setEnt f).flrs = s.flrs ∧ (s.setEnt f).tickets = s.tickets ∧
    (s.setEnt f).sent = s.sent ∧ (s.setEnt f).plx = s.plx ∧ (s.setEnt f).mgmt = s.mgmt ∧ (s.setEnt f).rst = s.rst ∧
    (s.setEnt f).dbg = s.dbg ∧ (s.setEnt f).blockRst = s.blockRst := by
  and_intros <;> rfl

@[simp] theorem State.setJnl_frame (f : JournalSt → JournalSt) :
    (s.setJnl f).pending = s.pending ∧ (s.setJnl f).free = s.free ∧ (s.setJnl f).regs = s.regs ∧ (s.setJnl f).sc0 = s.sc0 ∧
    (s.setJnl f).sc1 = s.sc1 ∧ (s.setJnl f).mc = s.mc ∧ (s.setJnl f).floor = s.floor ∧ (s.setJnl f).cache = s.cache ∧
    (s.setJnl f).drbg = s.drbg ∧ (s.setJnl f).jnl = f s.jnl ∧ (s.setJnl f).vectors = s.vectors ∧ (s.setJnl f).halting = s.halting ∧
    (s.setJnl f).mem = s.mem ∧ (s.setJnl f).irq = s.irq ∧ (s.setJnl f).viol = s.viol ∧ (s.setJnl f).capHeld = s.capHeld ∧
    (s.setJnl f).holds = s.holds ∧ (s.setJnl f).winLow = s.winLow ∧ (s.setJnl f).tamp = s.tamp ∧ (s.setJnl f).otp = s.otp ∧
    (s.setJnl f).meas = s.meas ∧ (s.setJnl f).ent = s.ent ∧ (s.setJnl f).vault = s.vault ∧ (s.setJnl f).ks = s.ks ∧
    (s.setJnl f).ballots = s.ballots ∧ (s.setJnl f).ballotId = s.ballotId ∧ (s.setJnl f).cmds = s.cmds ∧ (s.setJnl f).nextUid = s.nextUid ∧
    (s.setJnl f).queues = s.queues ∧ (s.setJnl f).funcs = s.funcs ∧ (s.setJnl f).msix = s.msix ∧ (s.setJnl f).d3 = s.d3 ∧
    (s.setJnl f).portA = s.portA ∧ (s.setJnl f).portB = s.portB ∧ (s.setJnl f).spdmM = s.spdmM ∧ (s.setJnl f).flrs = s.flrs ∧
    (s.setJnl f).tickets = s.tickets ∧ (s.setJnl f).sent = s.sent ∧ (s.setJnl f).plx = s.plx ∧ (s.setJnl f).mgmt = s.mgmt ∧
    (s.setJnl f).rst = s.rst ∧ (s.setJnl f).dbg = s.dbg ∧ (s.setJnl f).blockRst = s.blockRst ∧ (∀ g, (s.setJnl f).rd g = s.rd g) ∧
    (∀ g, (s.setJnl f).on g = s.on g) := by
  and_intros <;> intros <;> rfl

@[simp] theorem State.setVault_frame (f : Vault → Vault) :
    (s.setVault f).pending = s.pending ∧ (s.setVault f).free = s.free ∧ (s.setVault f).regs = s.regs ∧ (s.setVault f).sc0 = s.sc0 ∧
    (s.setVault f).sc1 = s.sc1 ∧ (s.setVault f).mc = s.mc ∧ (s.setVault f).floor = s.floor ∧ (s.setVault f).cache = s.cache ∧
    (s.setVault f).drbg = s.drbg ∧ (s.setVault f).jnl = s.jnl ∧ (s.setVault f).vectors = s.vectors ∧ (s.setVault f).halting = s.halting ∧
    (s.setVault f).mem = s.mem ∧ (s.setVault f).irq = s.irq ∧ (s.setVault f).viol = s.viol ∧ (s.setVault f).capHeld = s.capHeld ∧
    (s.setVault f).holds = s.holds ∧ (s.setVault f).winLow = s.winLow ∧ (s.setVault f).tamp = s.tamp ∧ (s.setVault f).otp = s.otp ∧
    (s.setVault f).meas = s.meas ∧ (s.setVault f).ent = s.ent ∧ (s.setVault f).vault = f s.vault ∧ (s.setVault f).ks = s.ks ∧
    (s.setVault f).ballots = s.ballots ∧ (s.setVault f).ballotId = s.ballotId ∧ (s.setVault f).cmds = s.cmds ∧ (s.setVault f).nextUid = s.nextUid ∧
    (s.setVault f).queues = s.queues ∧ (s.setVault f).funcs = s.funcs ∧ (s.setVault f).msix = s.msix ∧ (s.setVault f).d3 = s.d3 ∧
    (s.setVault f).portA = s.portA ∧ (s.setVault f).portB = s.portB ∧ (s.setVault f).spdmM = s.spdmM ∧ (s.setVault f).flrs = s.flrs ∧
    (s.setVault f).tickets = s.tickets ∧ (s.setVault f).sent = s.sent ∧ (s.setVault f).plx = s.plx ∧ (s.setVault f).mgmt = s.mgmt ∧
    (s.setVault f).rst = s.rst ∧ (s.setVault f).dbg = s.dbg ∧ (s.setVault f).blockRst = s.blockRst ∧ (∀ g, (s.setVault f).rd g = s.rd g) ∧
    (∀ g, (s.setVault f).on g = s.on g) := by
  and_intros <;> intros <;> rfl

@[simp] theorem State.setPlx_frame (f : Plx → Plx) :
    (s.setPlx f).pending = s.pending ∧ (s.setPlx f).free = s.free ∧ (s.setPlx f).regs = s.regs ∧ (s.setPlx f).sc0 = s.sc0 ∧
    (s.setPlx f).sc1 = s.sc1 ∧ (s.setPlx f).mc = s.mc ∧ (s.setPlx f).floor = s.floor ∧ (s.setPlx f).cache = s.cache ∧
    (s.setPlx f).drbg = s.drbg ∧ (s.setPlx f).jnl = s.jnl ∧ (s.setPlx f).vectors = s.vectors ∧ (s.setPlx f).halting = s.halting ∧
    (s.setPlx f).mem = s.mem ∧ (s.setPlx f).irq = s.irq ∧ (s.setPlx f).viol = s.viol ∧ (s.setPlx f).capHeld = s.capHeld ∧
    (s.setPlx f).holds = s.holds ∧ (s.setPlx f).winLow = s.winLow ∧ (s.setPlx f).tamp = s.tamp ∧ (s.setPlx f).otp = s.otp ∧
    (s.setPlx f).meas = s.meas ∧ (s.setPlx f).ent = s.ent ∧ (s.setPlx f).vault = s.vault ∧ (s.setPlx f).ks = s.ks ∧
    (s.setPlx f).ballots = s.ballots ∧ (s.setPlx f).ballotId = s.ballotId ∧ (s.setPlx f).cmds = s.cmds ∧ (s.setPlx f).nextUid = s.nextUid ∧
    (s.setPlx f).queues = s.queues ∧ (s.setPlx f).funcs = s.funcs ∧ (s.setPlx f).msix = s.msix ∧ (s.setPlx f).d3 = s.d3 ∧
    (s.setPlx f).portA = s.portA ∧ (s.setPlx f).portB = s.portB ∧ (s.setPlx f).spdmM = s.spdmM ∧ (s.setPlx f).flrs = s.flrs ∧
    (s.setPlx f).tickets = s.tickets ∧ (s.setPlx f).sent = s.sent ∧ (s.setPlx f).plx = f s.plx ∧ (s.setPlx f).mgmt = s.mgmt ∧
    (s.setPlx f).rst = s.rst ∧ (s.setPlx f).dbg = s.dbg ∧ (s.setPlx f).blockRst = s.blockRst ∧ (∀ g, (s.setPlx f).rd g = s.rd g) ∧
    (∀ g, (s.setPlx f).on g = s.on g) := by
  and_intros <;> intros <;> rfl

@[simp] theorem State.setFn_frame (f : Nat) (x : FuncSt) :
    (s.setFn f x).pending = s.pending ∧ (s.setFn f x).free = s.free ∧ (s.setFn f x).regs = s.regs ∧ (s.setFn f x).sc0 = s.sc0 ∧
    (s.setFn f x).sc1 = s.sc1 ∧ (s.setFn f x).mc = s.mc ∧ (s.setFn f x).floor = s.floor ∧ (s.setFn f x).cache = s.cache ∧
    (s.setFn f x).drbg = s.drbg ∧ (s.setFn f x).jnl = s.jnl ∧ (s.setFn f x).vectors = s.vectors ∧ (s.setFn f x).halting = s.halting ∧
    (s.setFn f x).mem = s.mem ∧ (s.setFn f x).irq = s.irq ∧ (s.setFn f x).viol = s.viol ∧ (s.setFn f x).capHeld = s.capHeld ∧
    (s.setFn f x).holds = s.holds ∧ (s.setFn f x).winLow = s.winLow ∧ (s.setFn f x).tamp = s.tamp ∧ (s.setFn f x).otp = s.otp ∧
    (s.setFn f x).meas = s.meas ∧ (s.setFn f x).ent = s.ent ∧ (s.setFn f x).vault = s.vault ∧ (s.setFn f x).ks = s.ks ∧
    (s.setFn f x).ballots = s.ballots ∧ (s.setFn f x).ballotId = s.ballotId ∧ (s.setFn f x).cmds = s.cmds ∧ (s.setFn f x).nextUid = s.nextUid ∧
    (s.setFn f x).queues = s.queues ∧ (s.setFn f x).funcs = tset FuncSt.absent s.funcs f x ∧ (s.setFn f x).msix = s.msix ∧ (s.setFn f x).d3 = s.d3 ∧
    (s.setFn f x).portA = s.portA ∧ (s.setFn f x).portB = s.portB ∧ (s.setFn f x).spdmM = s.spdmM ∧ (s.setFn f x).flrs = s.flrs ∧
    (s.setFn f x).tickets = s.tickets ∧ (s.setFn f x).sent = s.sent ∧ (s.setFn f x).plx = s.plx ∧ (s.setFn f x).mgmt = s.mgmt ∧
    (s.setFn f x).rst = s.rst ∧ (s.setFn f x).dbg = s.dbg ∧ (s.setFn f x).blockRst = s.blockRst ∧ (∀ g, (s.setFn f x).rd g = s.rd g) ∧
    (∀ g, (s.setFn f x).on g = s.on g) := by
  and_intros <;> intros <;> rfl

@[simp] theorem State.setQ_frame (i : Nat) (x : QueueSt) :
    (s.setQ i x).pending = s.pending ∧ (s.setQ i x).free = s.free ∧ (s.setQ i x).regs = s.regs ∧ (s.setQ i x).sc0 = s.sc0 ∧
    (s.setQ i x).sc1 = s.sc1 ∧ (s.setQ i x).mc = s.mc ∧ (s.setQ i x).floor = s.floor ∧ (s.setQ i x).cache = s.cache ∧
    (s.setQ i x).drbg = s.drbg ∧ (s.setQ i x).jnl = s.jnl ∧ (s.setQ i x).vectors = s.vectors ∧ (s.setQ i x).halting = s.halting ∧
    (s.setQ i x).mem = s.mem ∧ (s.setQ i x).irq = s.irq ∧ (s.setQ i x).viol = s.viol ∧ (s.setQ i x).capHeld = s.capHeld ∧
    (s.setQ i x).holds = s.holds ∧ (s.setQ i x).winLow = s.winLow ∧ (s.setQ i x).tamp = s.tamp ∧ (s.setQ i x).otp = s.otp ∧
    (s.setQ i x).meas = s.meas ∧ (s.setQ i x).ent = s.ent ∧ (s.setQ i x).vault = s.vault ∧ (s.setQ i x).ks = s.ks ∧
    (s.setQ i x).ballots = s.ballots ∧ (s.setQ i x).ballotId = s.ballotId ∧ (s.setQ i x).cmds = s.cmds ∧ (s.setQ i x).nextUid = s.nextUid ∧
    (s.setQ i x).queues = tset QueueSt.fresh s.queues i x ∧ (s.setQ i x).funcs = s.funcs ∧ (s.setQ i x).msix = s.msix ∧ (s.setQ i x).d3 = s.d3 ∧
    (s.setQ i x).portA = s.portA ∧ (s.setQ i x).portB = s.portB ∧ (s.setQ i x).spdmM = s.spdmM ∧ (s.setQ i x).flrs = s.flrs ∧
    (s.setQ i x).tickets = s.tickets ∧ (s.setQ i x).sent = s.sent ∧ (s.setQ i x).plx = s.plx ∧ (s.setQ i x).mgmt = s.mgmt ∧
    (s.setQ i x).rst = s.rst ∧ (s.setQ i x).dbg = s.dbg ∧ (s.setQ i x).blockRst = s.blockRst ∧ (∀ g, (s.setQ i x).rd g = s.rd g) ∧
    (∀ g, (s.setQ i x).on g = s.on g) := by
  and_intros <;> intros <;> rfl

@[simp] theorem State.onCmd_frame (uid : Nat) (f : Cmd → Cmd) :
    (s.onCmd uid f).pending = s.pending ∧ (s.onCmd uid f).free = s.free ∧ (s.onCmd uid f).regs = s.regs ∧ (s.onCmd uid f).sc0 = s.sc0 ∧
    (s.onCmd uid f).sc1 = s.sc1 ∧ (s.onCmd uid f).mc = s.mc ∧ (s.onCmd uid f).floor = s.floor ∧ (s.onCmd uid f).cache = s.cache ∧
    (s.onCmd uid f).drbg = s.drbg ∧ (s.onCmd uid f).jnl = s.jnl ∧ (s.onCmd uid f).vectors = s.vectors ∧ (s.onCmd uid f).halting = s.halting ∧
    (s.onCmd uid f).mem = s.mem ∧ (s.onCmd uid f).irq = s.irq ∧ (s.onCmd uid f).viol = s.viol ∧ (s.onCmd uid f).capHeld = s.capHeld ∧
    (s.onCmd uid f).holds = s.holds ∧ (s.onCmd uid f).winLow = s.winLow ∧ (s.onCmd uid f).tamp = s.tamp ∧ (s.onCmd uid f).otp = s.otp ∧
    (s.onCmd uid f).meas = s.meas ∧ (s.onCmd uid f).ent = s.ent ∧ (s.onCmd uid f).vault = s.vault ∧ (s.onCmd uid f).ks = s.ks ∧
    (s.onCmd uid f).ballots = s.ballots ∧ (s.onCmd uid f).ballotId = s.ballotId ∧ (s.onCmd uid f).nextUid = s.nextUid ∧ (s.onCmd uid f).queues = s.queues ∧
    (s.onCmd uid f).funcs = s.funcs ∧ (s.onCmd uid f).msix = s.msix ∧ (s.onCmd uid f).d3 = s.d3 ∧ (s.onCmd uid f).portA = s.portA ∧
    (s.onCmd uid f).portB = s.portB ∧ (s.onCmd uid f).spdmM = s.spdmM ∧ (s.onCmd uid f).flrs = s.flrs ∧ (s.onCmd uid f).tickets = s.tickets ∧
    (s.onCmd uid f).sent = s.sent ∧ (s.onCmd uid f).plx = s.plx ∧ (s.onCmd uid f).mgmt = s.mgmt ∧ (s.onCmd uid f).rst = s.rst ∧
    (s.onCmd uid f).dbg = s.dbg ∧ (s.onCmd uid f).blockRst = s.blockRst ∧ (∀ g, (s.onCmd uid f).rd g = s.rd g) ∧ (∀ g, (s.onCmd uid f).on g = s.on g) := by
  and_intros <;> intros <;> rfl

@[simp] theorem State.setCtl_frame (c : CtlId) (k : Ctl) :
    (s.setCtl c k).pending = s.pending ∧ (s.setCtl c k).free = s.free ∧ (s.setCtl c k).regs = s.regs ∧ (s.setCtl c k).floor = s.floor ∧
    (s.setCtl c k).cache = s.cache ∧ (s.setCtl c k).drbg = s.drbg ∧ (s.setCtl c k).jnl = s.jnl ∧ (s.setCtl c k).vectors = s.vectors ∧
    (s.setCtl c k).halting = s.halting ∧ (s.setCtl c k).mem = s.mem ∧ (s.setCtl c k).irq = s.irq ∧ (s.setCtl c k).viol = s.viol ∧
    (s.setCtl c k).capHeld = s.capHeld ∧ (s.setCtl c k).holds = s.holds ∧ (s.setCtl c k).winLow = s.winLow ∧ (s.setCtl c k).tamp = s.tamp ∧
    (s.setCtl c k).otp = s.otp ∧ (s.setCtl c k).meas = s.meas ∧ (s.setCtl c k).ent = s.ent ∧ (s.setCtl c k).vault = s.vault ∧
    (s.setCtl c k).ks = s.ks ∧ (s.setCtl c k).ballots = s.ballots ∧ (s.setCtl c k).ballotId = s.ballotId ∧ (s.setCtl c k).cmds = s.cmds ∧
    (s.setCtl c k).nextUid = s.nextUid ∧ (s.setCtl c k).queues = s.queues ∧ (s.setCtl c k).funcs = s.funcs ∧ (s.setCtl c k).msix = s.msix ∧
    (s.setCtl c k).d3 = s.d3 ∧ (s.setCtl c k).portA = s.portA ∧ (s.setCtl c k).portB = s.portB ∧ (s.setCtl c k).spdmM = s.spdmM ∧
    (s.setCtl c k).flrs = s.flrs ∧ (s.setCtl c k).tickets = s.tickets ∧ (s.setCtl c k).sent = s.sent ∧ (s.setCtl c k).plx = s.plx ∧
    (s.setCtl c k).mgmt = s.mgmt ∧ (s.setCtl c k).rst = s.rst ∧ (s.setCtl c k).dbg = s.dbg ∧ (s.setCtl c k).blockRst = s.blockRst ∧
    (∀ g, (s.setCtl c k).rd g = s.rd g) ∧ (∀ g, (s.setCtl c k).on g = s.on g) := by
  cases c <;> (and_intros <;> intros <;> rfl)

@[simp] theorem State.onCtl_frame (c : CtlId) (f : Ctl → Ctl) :
    (s.onCtl c f).pending = s.pending ∧ (s.onCtl c f).free = s.free ∧ (s.onCtl c f).regs = s.regs ∧ (s.onCtl c f).floor = s.floor ∧
    (s.onCtl c f).cache = s.cache ∧ (s.onCtl c f).drbg = s.drbg ∧ (s.onCtl c f).jnl = s.jnl ∧ (s.onCtl c f).vectors = s.vectors ∧
    (s.onCtl c f).halting = s.halting ∧ (s.onCtl c f).mem = s.mem ∧ (s.onCtl c f).irq = s.irq ∧ (s.onCtl c f).viol = s.viol ∧
    (s.onCtl c f).capHeld = s.capHeld ∧ (s.onCtl c f).holds = s.holds ∧ (s.onCtl c f).winLow = s.winLow ∧ (s.onCtl c f).tamp = s.tamp ∧
    (s.onCtl c f).otp = s.otp ∧ (s.onCtl c f).meas = s.meas ∧ (s.onCtl c f).ent = s.ent ∧ (s.onCtl c f).vault = s.vault ∧
    (s.onCtl c f).ks = s.ks ∧ (s.onCtl c f).ballots = s.ballots ∧ (s.onCtl c f).ballotId = s.ballotId ∧ (s.onCtl c f).cmds = s.cmds ∧
    (s.onCtl c f).nextUid = s.nextUid ∧ (s.onCtl c f).queues = s.queues ∧ (s.onCtl c f).funcs = s.funcs ∧ (s.onCtl c f).msix = s.msix ∧
    (s.onCtl c f).d3 = s.d3 ∧ (s.onCtl c f).portA = s.portA ∧ (s.onCtl c f).portB = s.portB ∧ (s.onCtl c f).spdmM = s.spdmM ∧
    (s.onCtl c f).flrs = s.flrs ∧ (s.onCtl c f).tickets = s.tickets ∧ (s.onCtl c f).sent = s.sent ∧ (s.onCtl c f).plx = s.plx ∧
    (s.onCtl c f).mgmt = s.mgmt ∧ (s.onCtl c f).rst = s.rst ∧ (s.onCtl c f).dbg = s.dbg ∧ (s.onCtl c f).blockRst = s.blockRst ∧
    (∀ g, (s.onCtl c f).rd g = s.rd g) ∧ (∀ g, (s.onCtl c f).on g = s.on g) := by
  cases c <;> (and_intros <;> intros <;> rfl)

@[simp] theorem State.setPort_frame (p : Nat) (x : Port) :
    (s.setPort p x).pending = s.pending ∧ (s.setPort p x).free = s.free ∧ (s.setPort p x).regs = s.regs ∧ (s.setPort p x).sc0 = s.sc0 ∧
    (s.setPort p x).sc1 = s.sc1 ∧ (s.setPort p x).mc = s.mc ∧ (s.setPort p x).floor = s.floor ∧ (s.setPort p x).cache = s.cache ∧
    (s.setPort p x).drbg = s.drbg ∧ (s.setPort p x).jnl = s.jnl ∧ (s.setPort p x).vectors = s.vectors ∧ (s.setPort p x).halting = s.halting ∧
    (s.setPort p x).mem = s.mem ∧ (s.setPort p x).irq = s.irq ∧ (s.setPort p x).viol = s.viol ∧ (s.setPort p x).capHeld = s.capHeld ∧
    (s.setPort p x).holds = s.holds ∧ (s.setPort p x).winLow = s.winLow ∧ (s.setPort p x).tamp = s.tamp ∧ (s.setPort p x).otp = s.otp ∧
    (s.setPort p x).meas = s.meas ∧ (s.setPort p x).ent = s.ent ∧ (s.setPort p x).vault = s.vault ∧ (s.setPort p x).ks = s.ks ∧
    (s.setPort p x).ballots = s.ballots ∧ (s.setPort p x).ballotId = s.ballotId ∧ (s.setPort p x).cmds = s.cmds ∧ (s.setPort p x).nextUid = s.nextUid ∧
    (s.setPort p x).queues = s.queues ∧ (s.setPort p x).funcs = s.funcs ∧ (s.setPort p x).msix = s.msix ∧ (s.setPort p x).d3 = s.d3 ∧
    (s.setPort p x).spdmM = s.spdmM ∧ (s.setPort p x).flrs = s.flrs ∧ (s.setPort p x).tickets = s.tickets ∧ (s.setPort p x).sent = s.sent ∧
    (s.setPort p x).plx = s.plx ∧ (s.setPort p x).mgmt = s.mgmt ∧ (s.setPort p x).rst = s.rst ∧ (s.setPort p x).dbg = s.dbg ∧
    (s.setPort p x).blockRst = s.blockRst ∧ (∀ g, (s.setPort p x).rd g = s.rd g) ∧ (∀ g, (s.setPort p x).on g = s.on g) := by
  unfold State.setPort; (repeat' split) <;> (and_intros <;> intros <;> rfl)

@[simp] theorem State.setSpdm_frame (p : Nat) (x : Spdm) :
    (s.setSpdm p x).pending = s.pending ∧ (s.setSpdm p x).free = s.free ∧ (s.setSpdm p x).regs = s.regs ∧ (s.setSpdm p x).sc0 = s.sc0 ∧
    (s.setSpdm p x).sc1 = s.sc1 ∧ (s.setSpdm p x).mc = s.mc ∧ (s.setSpdm p x).floor = s.floor ∧ (s.setSpdm p x).cache = s.cache ∧
    (s.setSpdm p x).drbg = s.drbg ∧ (s.setSpdm p x).jnl = s.jnl ∧ (s.setSpdm p x).vectors = s.vectors ∧ (s.setSpdm p x).halting = s.halting ∧
    (s.setSpdm p x).mem = s.mem ∧ (s.setSpdm p x).irq = s.irq ∧ (s.setSpdm p x).viol = s.viol ∧ (s.setSpdm p x).capHeld = s.capHeld ∧
    (s.setSpdm p x).holds = s.holds ∧ (s.setSpdm p x).winLow = s.winLow ∧ (s.setSpdm p x).tamp = s.tamp ∧ (s.setSpdm p x).otp = s.otp ∧
    (s.setSpdm p x).meas = s.meas ∧ (s.setSpdm p x).ent = s.ent ∧ (s.setSpdm p x).vault = s.vault ∧ (s.setSpdm p x).ks = s.ks ∧
    (s.setSpdm p x).ballots = s.ballots ∧ (s.setSpdm p x).ballotId = s.ballotId ∧ (s.setSpdm p x).cmds = s.cmds ∧ (s.setSpdm p x).nextUid = s.nextUid ∧
    (s.setSpdm p x).queues = s.queues ∧ (s.setSpdm p x).funcs = s.funcs ∧ (s.setSpdm p x).msix = s.msix ∧ (s.setSpdm p x).d3 = s.d3 ∧
    (s.setSpdm p x).flrs = s.flrs ∧ (s.setSpdm p x).tickets = s.tickets ∧ (s.setSpdm p x).sent = s.sent ∧ (s.setSpdm p x).plx = s.plx ∧
    (s.setSpdm p x).mgmt = s.mgmt ∧ (s.setSpdm p x).rst = s.rst ∧ (s.setSpdm p x).dbg = s.dbg ∧ (s.setSpdm p x).blockRst = s.blockRst ∧
    (∀ g, (s.setSpdm p x).rd g = s.rd g) ∧ (∀ g, (s.setSpdm p x).on g = s.on g) := by
  unfold State.setSpdm State.setPort; (repeat' split) <;> (and_intros <;> intros <;> rfl)

end Sys2Proof.Machine
end

