-- ==== Sys2Proof/Laws/KeepBase.lean ====
section
/-! SUPPORT. What a command leaves alone whatever it does: the queue of waiting commands, OTP outside its few writers, memory outside the
memory operations. Here the rules that carry these facts through conditionals, pairs and folds; the other files named Keep hold one lemma
per operation. -/
namespace Sys2Proof.Machine

variable {β γ : Type}

@[simp] theorem ite_pending (c : Prop) [Decidable c] (a b : State) : (if c then a else b).pending = if c then a.pending else b.pending :=
  apply_ite State.pending c a b
@[simp] theorem ite_otp (c : Prop) [Decidable c] (a b : State) : (if c then a else b).otp = if c then a.otp else b.otp :=
  apply_ite State.otp c a b
@[simp] theorem ite_mem (c : Prop) [Decidable c] (a b : State) : (if c then a else b).mem = if c then a.mem else b.mem :=
  apply_ite State.mem c a b
@[simp] theorem ite_fst (c : Prop) [Decidable c] (a b : State × β) : (if c then a else b).1 = if c then a.1 else b.1 :=
  apply_ite Prod.fst c a b
@[simp] theorem ite_snd (c : Prop) [Decidable c] (a b : β × State) : (if c then a else b).2 = if c then a.2 else b.2 :=
  apply_ite Prod.snd c a b
@[simp] theorem ite_wf (c : Prop) [Decidable c] (a b : Mem) :
    (if c then a else b).wf = true ↔ (c → a.wf = true) ∧ (¬ c → b.wf = true) := by
  split <;> simp_all

@[simp] theorem foldl_pending (f : State → β → State) (h : ∀ x e, (f x e).pending = x.pending) (s : State) (l : List β) :
    (l.foldl f s).pending = s.pending := by
  induction l generalizing s with
  | nil => rfl
  | cons e l ih => rw [List.foldl_cons, ih, h]
@[simp] theorem foldl_otp (f : State → β → State) (h : ∀ x e, (f x e).otp = x.otp) (s : State) (l : List β) :
    (l.foldl f s).otp = s.otp := by
  induction l generalizing s with
  | nil => rfl
  | cons e l ih => rw [List.foldl_cons, ih, h]
@[simp] theorem foldl_mem (f : State → β → State) (h : ∀ x e, (f x e).mem = x.mem) (s : State) (l : List β) :
    (l.foldl f s).mem = s.mem := by
  induction l generalizing s with
  | nil => rfl
  | cons e l ih => rw [List.foldl_cons, ih, h]
@[simp] theorem foldl_wf (f : State → β → State) (h : ∀ x e, x.mem.wf = true → (f x e).mem.wf = true) (s : State) (l : List β)
    (hs : s.mem.wf = true) : (l.foldl f s).mem.wf = true := by
  induction l generalizing s with
  | nil => exact hs
  | cons e l ih => exact ih _ (h s e hs)

/-- The same for folds whose state has a second part. -/
@[simp] theorem foldl_fst_pending (f : State × γ → β → State × γ) (h : ∀ x e, (f x e).1.pending = x.1.pending) (s : State × γ)
    (l : List β) : (l.foldl f s).1.pending = s.1.pending := by
  induction l generalizing s with
  | nil => rfl
  | cons e l ih => rw [List.foldl_cons, ih, h]
@[simp] theorem foldl_fst_otp (f : State × γ → β → State × γ) (h : ∀ x e, (f x e).1.otp = x.1.otp) (s : State × γ)
    (l : List β) : (l.foldl f s).1.otp = s.1.otp := by
  induction l generalizing s with
  | nil => rfl
  | cons e l ih => rw [List.foldl_cons, ih, h]
@[simp] theorem foldl_fst_mem (f : State × γ → β → State × γ) (h : ∀ x e, (f x e).1.mem = x.1.mem) (s : State × γ)
    (l : List β) : (l.foldl f s).1.mem = s.1.mem := by
  induction l generalizing s with
  | nil => rfl
  | cons e l ih => rw [List.foldl_cons, ih, h]

/-- The same where the state is the second part. -/
@[simp] theorem foldl_snd_pending (f : γ × State → β → γ × State) (h : ∀ x e, (f x e).2.pending = x.2.pending) (s : γ × State)
    (l : List β) : (l.foldl f s).2.pending = s.2.pending := by
  induction l generalizing s with
  | nil => rfl
  | cons e l ih => rw [List.foldl_cons, ih, h]
@[simp] theorem foldl_snd_otp (f : γ × State → β → γ × State) (h : ∀ x e, (f x e).2.otp = x.2.otp) (s : γ × State)
    (l : List β) : (l.foldl f s).2.otp = s.2.otp := by
  induction l generalizing s with
  | nil => rfl
  | cons e l ih => rw [List.foldl_cons, ih, h]
@[simp] theorem foldl_snd_mem (f : γ × State → β → γ × State) (h : ∀ x e, (f x e).2.mem = x.2.mem) (s : γ × State)
    (l : List β) : (l.foldl f s).2.mem = s.2.mem := by
  induction l generalizing s with
  | nil => rfl
  | cons e l ih => rw [List.foldl_cons, ih, h]

@[simp] theorem elim_pending (o : Option β) (s : State) (f : β → State) (h : ∀ a, (f a).pending = s.pending) :
    (o.elim s f).pending = s.pending := by cases o <;> simp [h]
@[simp] theorem elim_otp (o : Option β) (s : State) (f : β → State) (h : ∀ a, (f a).otp = s.otp) : (o.elim s f).otp = s.otp := by
  cases o <;> simp [h]
@[simp] theorem elim_mem (o : Option β) (s : State) (f : β → State) (h : ∀ a, (f a).mem = s.mem) : (o.elim s f).mem = s.mem := by
  cases o <;> simp [h]
@[simp] theorem elim_wf (o : Option β) (s : State) (f : β → State) (h : ∀ a, (f a).mem.wf = true) (hs : s.mem.wf = true) :
    (o.elim s f).mem.wf = true := by cases o <;> simp [h, hs]

end Sys2Proof.Machine
end

