-- ==== Sys2Proof/Laws/KeepShared.lean ====
section
/-! SUPPORT. One lemma per operation of the operations that many commands share, memory, the tamper domain, the lead, management and time: the queue and OTP it leaves alone, memory it leaves alone or keeps
canonical (names ending in `_keep` and `_wf`; `_to` says the same of a state that an equation names). -/
namespace Sys2Proof.Machine

/-! ### Machine/Ops.lean -/

@[simp] theorem State.count_keep (s : State) (c : Fld) (o : Fld) :
    (State.count s c o).pending = s.pending ∧ (State.count s c o).otp = s.otp ∧ (State.count s c o).mem = s.mem := by
  and_intros <;> simp [State.count]

@[simp] theorem State.wrAcc_keep (s : State) (f : Fld) (v : Nat) :
    (State.wrAcc s f v).pending = s.pending ∧ (State.wrAcc s f v).otp = s.otp ∧ (State.wrAcc s f v).mem = s.mem := by
  unfold State.wrAcc; and_intros <;> ((repeat' split) <;> simp_all)

@[simp] theorem State.wrWord_keep (s : State) (a : Nat) (v : Nat) :
    (State.wrWord s a v).pending = s.pending ∧ (State.wrWord s a v).otp = s.otp ∧ (State.wrWord s a v).mem = s.mem := by
  and_intros <;> simp [State.wrWord]

@[simp] theorem State.freeNat_keep (s : State) :
    (State.freeNat s).2.pending = s.pending ∧ (State.freeNat s).2.otp = s.otp ∧ (State.freeNat s).2.mem = s.mem := by
  and_intros <;> simp [State.freeNat]

@[simp] theorem State.freeWord_keep (s : State) :
    (State.freeWord s).2.pending = s.pending ∧ (State.freeWord s).2.otp = s.otp ∧ (State.freeWord s).2.mem = s.mem := by
  and_intros <;> simp [State.freeWord]

@[simp] theorem State.freeOctets_keep (s : State) (n : Nat) :
    (State.freeOctets s n).2.pending = s.pending ∧ (State.freeOctets s n).2.otp = s.otp ∧ (State.freeOctets s n).2.mem = s.mem := by
  and_intros <;> simp [State.freeOctets]
theorem State.freeOctets_to {s : State} {n : Nat} {t_ : State} {r_ : List Octet} (e_ : State.freeOctets s n = (r_, t_)) :
    t_.pending = s.pending ∧ t_.otp = s.otp ∧ t_.mem = s.mem := by
  have k := State.freeOctets_keep s n; rw [e_] at k; exact k

/-! ### Machine/Shared.lean -/

@[simp] theorem raiseVector_keep (s : State) (f : Nat) (v : Nat) :
    (raiseVector s f v).pending = s.pending ∧ (raiseVector s f v).otp = s.otp ∧ (raiseVector s f v).mem = s.mem := by
  and_intros <;> simp [raiseVector]

@[simp] theorem fnEvent_keep (s : State) (f : Nat) (ev : Nat) :
    (fnEvent s f ev).pending = s.pending ∧ (fnEvent s f ev).otp = s.otp ∧ (fnEvent s f ev).mem = s.mem := by
  and_intros <;> simp [fnEvent]

@[simp] theorem pfEvent_keep (s : State) (ev : Nat) :
    (pfEvent s ev).pending = s.pending ∧ (pfEvent s ev).otp = s.otp ∧ (pfEvent s ev).mem = s.mem := by
  and_intros <;> simp [pfEvent]

@[simp] theorem allEvent_keep (s : State) (ev : Nat) :
    (allEvent s ev).pending = s.pending ∧ (allEvent s ev).otp = s.otp ∧ (allEvent s ev).mem = s.mem := by
  and_intros <;> simp [allEvent]

@[simp] theorem jput_keep (s : State) (typ : Nat) (src : Nat) (arg : Nat) (payload : List Octet) (cont : Bool) (world : Bool) (flush : Bool) :
    (jput s typ src arg payload cont world flush).pending = s.pending ∧ (jput s typ src arg payload cont world flush).otp = s.otp ∧ (jput s typ src arg payload cont world flush).mem = s.mem := by
  and_intros <;> simp [jput]

@[simp] theorem jraw_keep (s : State) (typ : Nat) (src : Nat) (arg : Nat) (payload : List Octet) (cont : Bool) (world : Bool) (flush : Bool) :
    (jraw s typ src arg payload cont world flush).pending = s.pending ∧ (jraw s typ src arg payload cont world flush).otp = s.otp ∧ (jraw s typ src arg payload cont world flush).mem = s.mem := by
  and_intros <;> simp [jraw]

@[simp] theorem lapseAllFault_keep (s : State) :
    (lapseAllFault s).pending = s.pending ∧ (lapseAllFault s).otp = s.otp ∧ (lapseAllFault s).mem = s.mem := by
  and_intros <;> simp [lapseAllFault]

@[simp] theorem noteSource_keep (s : State) (b : Nat) (held : Bool) :
    (noteSource s b held).pending = s.pending ∧ (noteSource s b held).otp = s.otp ∧ (noteSource s b held).mem = s.mem := by
  and_intros <;> simp [noteSource]

@[simp] theorem askWarm_keep (s : State) (arg : Nat) (causeBit : Nat) :
    (askWarm s arg causeBit).pending = s.pending ∧ (askWarm s arg causeBit).otp = s.otp ∧ (askWarm s arg causeBit).mem = s.mem := by
  and_intros <;> simp [askWarm]

@[simp] theorem clearDebug_keep (s : State) :
    (clearDebug s).pending = s.pending ∧ (clearDebug s).otp = s.otp ∧ (clearDebug s).mem = s.mem := by
  and_intros <;> simp [clearDebug]

@[simp] theorem faultDebug_keep (s : State) :
    (faultDebug s).pending = s.pending ∧ (faultDebug s).otp = s.otp ∧ (faultDebug s).mem = s.mem := by
  and_intros <;> simp [faultDebug]

@[simp] theorem rawShut_keep (s : State) :
    (rawShut s).pending = s.pending ∧ (rawShut s).otp = s.otp ∧ (rawShut s).mem = s.mem := by
  and_intros <;> simp [rawShut]

@[simp] theorem holdCaptures_keep (s : State) :
    (holdCaptures s).pending = s.pending ∧ (holdCaptures s).otp = s.otp ∧ (holdCaptures s).mem = s.mem := by
  and_intros <;> simp [holdCaptures]

@[simp] theorem setModeWith_keep (s : State) (m : Nat) (row : Nat) (extra : Nat) :
    (setModeWith s m row extra).pending = s.pending ∧ (setModeWith s m row extra).otp = s.otp ∧ (setModeWith s m row extra).mem = s.mem := by
  and_intros <;> simp [setModeWith]

@[simp] theorem setMode_keep (s : State) (m : Nat) (row : Nat) :
    (setMode s m row).pending = s.pending ∧ (setMode s m row).otp = s.otp ∧ (setMode s m row).mem = s.mem := by
  and_intros <;> simp [setMode]

@[simp] theorem disableQueues_keep (s : State) :
    (disableQueues s).pending = s.pending ∧ (disableQueues s).otp = s.otp ∧ (disableQueues s).mem = s.mem := by
  and_intros <;> simp [disableQueues]

@[simp] theorem wake_keep (s : State) (ev : Nat) :
    (wake s ev).pending = s.pending ∧ (wake s ev).otp = s.otp ∧ (wake s ev).mem = s.mem := by
  and_intros <;> simp [wake]

@[simp] theorem enterFault_keep (s : State) (cause : Nat) :
    (enterFault s cause).pending = s.pending ∧ (enterFault s cause).otp = s.otp ∧ (enterFault s cause).mem = s.mem := by
  and_intros <;> simp [enterFault]

@[simp] theorem jlevelUpdate_keep (s : State) :
    (jlevelUpdate s).pending = s.pending ∧ (jlevelUpdate s).otp = s.otp ∧ (jlevelUpdate s).mem = s.mem := by
  and_intros <;> simp [jlevelUpdate]

@[simp] theorem jrecG_keep (s : State) (typ : Nat) (src : Nat) (arg : Nat) (payload : List Octet) (cont : Bool) (world : Bool) (flush : Bool) :
    (jrecG s typ src arg payload cont world flush).pending = s.pending ∧ (jrecG s typ src arg payload cont world flush).otp = s.otp ∧ (jrecG s typ src arg payload cont world flush).mem = s.mem := by
  and_intros <;> simp [jrecG]

@[simp] theorem jrec_keep (s : State) (typ : Nat) (src : Nat) (arg : Nat) (payload : List Octet) :
    (jrec s typ src arg payload).pending = s.pending ∧ (jrec s typ src arg payload).otp = s.otp ∧ (jrec s typ src arg payload).mem = s.mem := by
  and_intros <;> simp [jrec]

@[simp] theorem latchFault_keep (s : State) :
    (latchFault s).pending = s.pending ∧ (latchFault s).otp = s.otp ∧ (latchFault s).mem = s.mem := by
  and_intros <;> simp [latchFault]

@[simp] theorem latchEntropy_keep (s : State) :
    (latchEntropy s).pending = s.pending ∧ (latchEntropy s).otp = s.otp ∧ (latchEntropy s).mem = s.mem := by
  and_intros <;> simp [latchEntropy]

/-! ### Machine/Iso.lean -/

@[simp] theorem setViol_keep (s : State) (v : List (List Nat)) :
    (setViol s v).pending = s.pending ∧ (setViol s v).otp = s.otp ∧ (setViol s v).mem = s.mem := by
  and_intros <;> simp [setViol]

@[simp] theorem reportRefusal_keep (s : State) (a : Access) (r : Refused) :
    (reportRefusal s a r).pending = s.pending ∧ (reportRefusal s a r).otp = s.otp ∧ (reportRefusal s a r).mem = s.mem := by
  and_intros <;> simp [reportRefusal]

@[simp] theorem lockViolation_keep (s : State) (m : Nat) (world : Bool) (priv : Bool) (addr : Nat) :
    (lockViolation s m world priv addr).pending = s.pending ∧ (lockViolation s m world priv addr).otp = s.otp ∧ (lockViolation s m world priv addr).mem = s.mem := by
  and_intros <;> simp [lockViolation]

@[simp] theorem accErr_keep (s : State) (f : Nat) :
    (accErr s f).pending = s.pending ∧ (accErr s f).otp = s.otp ∧ (accErr s f).mem = s.mem := by
  and_intros <;> simp [accErr]

@[simp] theorem hostLock_keep (s : State) (m : Nat) (off : Nat) (priv : Bool) :
    (hostLock s m off priv).pending = s.pending ∧ (hostLock s m off priv).otp = s.otp ∧ (hostLock s m off priv).mem = s.mem := by
  and_intros <;> simp [hostLock]

@[simp] theorem popViolation_keep (s : State) :
    (popViolation s).pending = s.pending ∧ (popViolation s).otp = s.otp ∧ (popViolation s).mem = s.mem := by
  and_intros <;> simp [popViolation]

@[simp] theorem regionWrite_keep (s : State) (m : Nat) (k : Nat) (r : Nat) (off : Nat) (v : Nat) :
    (regionWrite s m k r off v).pending = s.pending ∧ (regionWrite s m k r off v).otp = s.otp ∧ (regionWrite s m k r off v).mem = s.mem := by
  and_intros <;> simp [regionWrite]

/-! ### Machine/Mem.lean -/

@[simp] theorem memCapture_keep (s : State) (line : Nat) (kind : Nat) (master : Nat) (octets : Nat) :
    (memCapture s line kind master octets).pending = s.pending ∧ (memCapture s line kind master octets).otp = s.otp ∧ (memCapture s line kind master octets).mem = s.mem := by
  and_intros <;> simp [memCapture]

theorem Mem.wf_iff (m : Mem) : m.wf = true ↔ twf 0 m.sram = true ∧ twf 0 m.dram = true ∧ twf 0 m.ver = true ∧
    twf false m.poison = true ∧ twf 0 m.bad = true ∧ twf false m.chainBad = true := by
  simp [Mem.wf, and_assoc]

@[simp] theorem lineCheck_keep (s : State) (line master : Nat) :
    (lineCheck s line master).1.pending = s.pending ∧ (lineCheck s line master).1.otp = s.otp := by
  and_intros <;> simp [lineCheck]
@[simp] theorem lineCheck_wf (s : State) (line master : Nat) (h : s.mem.wf = true) : (lineCheck s line master).1.mem.wf = true := by
  have hb : ({ s.mem with bad := tdel s.mem.bad line } : Mem).wf = true := by simp_all [Mem.wf_iff]
  unfold lineCheck
  (repeat' split) <;> simp_all
theorem lineCheck_to {s : State} {line : Nat} {master : Nat} {t_ : State} {r_ : Option MemErr} (e_ : lineCheck s line master = (t_, r_)) :
    t_.pending = s.pending ∧ t_.otp = s.otp ∧ (s.mem.wf = true → t_.mem.wf = true) := by
  have k := lineCheck_keep s line master; have w := lineCheck_wf s line master; rw [e_] at k w; exact ⟨k.1, k.2, w⟩

theorem raiseVersion_to {s t : State} {line : Nat} (h : raiseVersion s line = some t) :
    t.pending = s.pending ∧ t.otp = s.otp ∧ (s.mem.wf = true → t.mem.wf = true) := by
  simp only [raiseVersion] at h
  split at h
  · cases h
  · cases h; and_intros <;> simp_all [Mem.wf_iff]

@[simp] theorem versionStuck_keep (s : State) :
    (versionStuck s).pending = s.pending ∧ (versionStuck s).otp = s.otp ∧ (versionStuck s).mem = s.mem := by
  and_intros <;> simp [versionStuck]

@[simp] theorem putOctets_keep (s : State) (o : List (Nat × Octet)) :
    (putOctets s o).pending = s.pending ∧ (putOctets s o).otp = s.otp := by
  and_intros <;> simp [putOctets]
@[simp] theorem putOctets_wf (s : State) (o : List (Nat × Octet)) (h : s.mem.wf = true) : (putOctets s o).mem.wf = true := by
  simp_all [putOctets, Mem.wf_iff]

@[simp] theorem poisonLine_keep (s : State) (line master : Nat) :
    (poisonLine s line master).pending = s.pending ∧ (poisonLine s line master).otp = s.otp := by
  and_intros <;> simp [poisonLine]
@[simp] theorem poisonLine_wf (s : State) (line master : Nat) (h : s.mem.wf = true) : (poisonLine s line master).mem.wf = true := by
  simp_all [poisonLine, Mem.wf_iff]

@[simp] theorem linePartialWrite_keep (s : State) (line master : Nat) (o : List (Nat × Octet)) :
    (linePartialWrite s line master o).1.pending = s.pending ∧ (linePartialWrite s line master o).1.otp = s.otp := by
  cases e : raiseVersion (lineCheck s line master).1 line with
  | none => and_intros <;> simp [linePartialWrite, e]
  | some t => have := raiseVersion_to e; and_intros <;> simp_all [linePartialWrite]
@[simp] theorem linePartialWrite_wf (s : State) (line master : Nat) (o : List (Nat × Octet)) (h : s.mem.wf = true) :
    (linePartialWrite s line master o).1.mem.wf = true := by
  cases e : raiseVersion (lineCheck s line master).1 line with
  | none => simp [linePartialWrite, e, h]
  | some t => have := raiseVersion_to e; simp_all [linePartialWrite]

@[simp] theorem lineFullWrite_keep (s : State) (line : Nat) (world : Bool) (o : List Octet) :
    (lineFullWrite s line world o).1.pending = s.pending ∧ (lineFullWrite s line world o).1.otp = s.otp := by
  cases e : raiseVersion s line with
  | none => and_intros <;> simp [lineFullWrite, e]
  | some t => have := raiseVersion_to e; and_intros <;> simp_all [lineFullWrite]
@[simp] theorem lineFullWrite_wf (s : State) (line : Nat) (world : Bool) (o : List Octet) (h : s.mem.wf = true) :
    (lineFullWrite s line world o).1.mem.wf = true := by
  cases e : raiseVersion s line with
  | none => simp [lineFullWrite, e, h]
  | some t =>
    have hm := (raiseVersion_to e).2.2 h
    have hc : ({ t.mem with poison := tdel t.mem.poison line, bad := tdel t.mem.bad line, chainBad := tdel t.mem.chainBad line } : Mem).wf
        = true := by simp_all [Mem.wf_iff]
    simp_all [lineFullWrite]

@[simp] theorem State.sramPut_keep (s : State) (addr : Nat) (o : List Octet) :
    (s.sramPut addr o).pending = s.pending ∧ (s.sramPut addr o).otp = s.otp := by
  and_intros <;> simp [State.sramPut]
@[simp] theorem State.setNonet_wf (s : State) (addr i : Nat) (n : Nonet) (h : s.mem.wf = true) : (s.setNonet addr i n).mem.wf = true := by
  simp_all [State.setNonet, Mem.wf_iff]
@[simp] theorem State.setSramWord_wf (s : State) (addr : Nat) (w : Word) (h : s.mem.wf = true) : (s.setSramWord addr w).mem.wf = true := by
  simp [State.setSramWord, h]
@[simp] theorem State.sramPut_wf (s : State) (addr : Nat) (o : List Octet) (h : s.mem.wf = true) : (s.sramPut addr o).mem.wf = true := by
  simp_all [State.sramPut]

@[simp] theorem potPut_keep (s : State) (p : Nat) (v : Nat) :
    (potPut s p v).pending = s.pending ∧ (potPut s p v).otp = s.otp := by
  and_intros <;> simp [potPut]
@[simp] theorem potPut_wf (s : State) (p : Nat) (v : Nat) (hm : s.mem.wf = true) : (potPut s p v).mem.wf = true := by
  simp [potPut, hm]

@[simp] theorem potWrite_keep (s : State) (m : Nat) (p : Nat) (v : Nat) :
    (potWrite s m p v).pending = s.pending ∧ (potWrite s m p v).otp = s.otp := by
  and_intros <;> simp [potWrite]
@[simp] theorem potWrite_wf (s : State) (m : Nat) (p : Nat) (v : Nat) (hm : s.mem.wf = true) : (potWrite s m p v).mem.wf = true := by
  simp [potWrite, hm]

@[simp] theorem potSync_keep (s : State) :
    (potSync s).pending = s.pending ∧ (potSync s).otp = s.otp ∧ (potSync s).mem = s.mem := by
  and_intros <;> simp [potSync]

@[simp] theorem potBackWrite_keep (s : State) (m : Nat) (v : Nat) :
    (potBackWrite s m v).pending = s.pending ∧ (potBackWrite s m v).otp = s.otp := by
  and_intros <;> simp [potBackWrite]
@[simp] theorem potBackWrite_wf (s : State) (m : Nat) (v : Nat) (hm : s.mem.wf = true) : (potBackWrite s m v).mem.wf = true := by
  unfold potBackWrite; (repeat' split) <;> simp_all

@[simp] theorem potReload_keep (s : State) :
    (potReload s).pending = s.pending ∧ (potReload s).otp = s.otp ∧ (potReload s).mem = s.mem := by
  and_intros <;> simp [potReload]

@[simp] theorem vaultBaseWrite_keep (s : State) (m : Nat) (high : Bool) (v : Nat) :
    (vaultBaseWrite s m high v).pending = s.pending ∧ (vaultBaseWrite s m high v).otp = s.otp ∧ (vaultBaseWrite s m high v).mem = s.mem := by
  and_intros <;> simp [vaultBaseWrite]

@[simp] theorem lineWindow_keep (s : State) (m : Nat) (world : Bool) (priv : Bool) :
    (lineWindow s m world priv).pending = s.pending ∧ (lineWindow s m world priv).otp = s.otp := by
  and_intros <;> simp [lineWindow] <;> (repeat' split) <;> simp_all
@[simp] theorem lineWindow_wf (s : State) (m : Nat) (world : Bool) (priv : Bool) (hm : s.mem.wf = true) : (lineWindow s m world priv).mem.wf = true := by
  simp [lineWindow, hm]; (repeat' split) <;> simp_all

@[simp] theorem trainingDone_keep (s : State) (pass : Bool) :
    (trainingDone s pass).pending = s.pending ∧ (trainingDone s pass).otp = s.otp ∧ (trainingDone s pass).mem = s.mem := by
  and_intros <;> simp [trainingDone]

@[simp] theorem fillPage_keep (s : State) :
    (fillPage s).pending = s.pending ∧ (fillPage s).otp = s.otp ∧ (fillPage s).mem = s.mem := by
  and_intros <;> simp [fillPage]

@[simp] theorem scrubLine_keep (s : State) (line errs : Nat) :
    (scrubLine s line errs).pending = s.pending ∧ (scrubLine s line errs).otp = s.otp := by
  and_intros <;> simp [scrubLine]
@[simp] theorem scrubLine_wf (s : State) (line errs : Nat) (h : s.mem.wf = true) : (scrubLine s line errs).mem.wf = true := by
  unfold scrubLine
  split
  · exact h
  · refine lineCheck_wf _ _ _ ?_
    split <;> simp_all [Mem.wf_iff]

/-! ### Machine/Health.lean -/

@[simp] theorem hlogAdd_keep (s : State) (typ : Nat) (src : Nat) (data : List Octet) :
    (hlogAdd s typ src data).pending = s.pending ∧ (hlogAdd s typ src data).otp = s.otp ∧ (hlogAdd s typ src data).mem = s.mem := by
  and_intros <;> simp [hlogAdd]

@[simp] theorem gpioConflict_keep (s : State) :
    (gpioConflict s).pending = s.pending ∧ (gpioConflict s).otp = s.otp ∧ (gpioConflict s).mem = s.mem := by
  and_intros <;> simp [gpioConflict]

@[simp] theorem cartAlert_keep (s : State) :
    (cartAlert s).pending = s.pending ∧ (cartAlert s).otp = s.otp ∧ (cartAlert s).mem = s.mem := by
  and_intros <;> simp [cartAlert]

/-! ### Machine/Tamper.lean -/

@[simp] theorem dropFollower_keep (s : State) (m : Requester) :
    (dropFollower s m).pending = s.pending ∧ (dropFollower s m).otp = s.otp ∧ (dropFollower s m).mem = s.mem := by
  and_intros <;> simp [dropFollower]

@[simp] theorem tampRefresh_keep (s : State) :
    (tampRefresh s).pending = s.pending ∧ (tampRefresh s).otp = s.otp ∧ (tampRefresh s).mem = s.mem := by
  and_intros <;> simp [tampRefresh]

@[simp] theorem ledgerStore_keep (s : State) (i : Nat) (e : List Octet) :
    (ledgerStore s i e).pending = s.pending ∧ (ledgerStore s i e).otp = s.otp ∧ (ledgerStore s i e).mem = s.mem := by
  and_intros <;> simp [ledgerStore]

@[simp] theorem ledgerPut_keep (s : State) (typ : Nat) (src : Nat) (data : List Octet) :
    (ledgerPut s typ src data).pending = s.pending ∧ (ledgerPut s typ src data).otp = s.otp ∧ (ledgerPut s typ src data).mem = s.mem := by
  and_intros <;> simp [ledgerPut]

@[simp] theorem closeWindow_keep (s : State) (cause : Nat) (src : Nat) :
    (closeWindow s cause src).pending = s.pending ∧ (closeWindow s cause src).otp = s.otp ∧ (closeWindow s cause src).mem = s.mem := by
  and_intros <;> simp [closeWindow]

@[simp] theorem openWindow_keep (s : State) (cells : Nat) (dur : Nat) :
    (openWindow s cells dur).pending = s.pending ∧ (openWindow s cells dur).otp = s.otp ∧ (openWindow s cells dur).mem = s.mem := by
  and_intros <;> simp [openWindow]

@[simp] theorem clearKeys_keep (s : State) :
    (clearKeys s).pending = s.pending ∧ (clearKeys s).otp = s.otp ∧ (clearKeys s).mem = s.mem := by
  and_intros <;> simp [clearKeys]

@[simp] theorem zeroizeDestroy_keep (s : State) :
    (zeroizeDestroy s).pending = s.pending ∧ (zeroizeDestroy s).otp = s.otp ∧ (zeroizeDestroy s).mem = s.mem := by
  unfold zeroizeDestroy; and_intros <;> ((repeat' split) <;> simp_all)

@[simp] theorem zeroize_keep (s : State) (src : Nat) :
    (zeroize s src).pending = s.pending ∧ (zeroize s src).otp = s.otp ∧ (zeroize s src).mem = s.mem := by
  and_intros <;> simp [zeroize]

@[simp] theorem sampleSensor_keep (s : State) (c : Nat) (shows : Bool) :
    (sampleSensor s c shows).1.pending = s.pending ∧ (sampleSensor s c shows).1.otp = s.otp ∧ (sampleSensor s c shows).1.mem = s.mem := by
  and_intros <;> simp [sampleSensor]

@[simp] theorem responseEntry_keep (d0 : Nat) (s : State) (c : Nat) :
    (responseEntry d0 s c).pending = s.pending ∧ (responseEntry d0 s c).otp = s.otp ∧ (responseEntry d0 s c).mem = s.mem := by
  unfold responseEntry; and_intros <;> ((repeat' split) <;> simp_all)

@[simp] theorem respond_keep (s : State) (codes : List Nat) :
    (respond s codes).pending = s.pending ∧ (respond s codes).otp = s.otp ∧ (respond s codes).mem = s.mem := by
  and_intros <;> simp [respond]

@[simp] theorem takeSamples_keep (s : State) (l : List (Nat × Bool)) :
    (takeSamples s l).pending = s.pending ∧ (takeSamples s l).otp = s.otp ∧ (takeSamples s l).mem = s.mem := by
  and_intros <;> simp [takeSamples]

@[simp] theorem readingMarks_keep (s : State) (a : TamperReading) :
    (readingMarks s a).pending = s.pending ∧ (readingMarks s a).otp = s.otp ∧ (readingMarks s a).mem = s.mem := by
  unfold readingMarks; and_intros <;> ((repeat' split) <;> simp_all)

@[simp] theorem tamperSample_keep (s : State) (r : List TamperReading) :
    (tamperSample s r).pending = s.pending ∧ (tamperSample s r).otp = s.otp ∧ (tamperSample s r).mem = s.mem := by
  and_intros <;> simp [tamperSample]

@[simp] theorem cellHour_keep (s : State) (c : Nat) :
    (cellHour s c).pending = s.pending ∧ (cellHour s c).otp = s.otp ∧ (cellHour s c).mem = s.mem := by
  and_intros <;> simp [cellHour]

@[simp] theorem cellIdentity_keep (s : State) (c : Nat) (serial : Nat) :
    (cellIdentity s c serial).pending = s.pending ∧ (cellIdentity s c serial).otp = s.otp ∧ (cellIdentity s c serial).mem = s.mem := by
  and_intros <;> simp [cellIdentity]

@[simp] theorem cellStart_keep (s : State) (c : Nat) (act : Nat) :
    (cellStart s c act).pending = s.pending ∧ (cellStart s c act).otp = s.otp ∧ (cellStart s c act).mem = s.mem := by
  and_intros <;> simp [cellStart]

@[simp] theorem cellAccept_keep (s : State) (c : Nat) :
    (cellAccept s c).pending = s.pending ∧ (cellAccept s c).otp = s.otp ∧ (cellAccept s c).mem = s.mem := by
  and_intros <;> simp [cellAccept]

@[simp] theorem cellReject_keep (s : State) (c : Nat) :
    (cellReject s c).pending = s.pending ∧ (cellReject s c).otp = s.otp ∧ (cellReject s c).mem = s.mem := by
  and_intros <;> simp [cellReject]

@[simp] theorem cellCmdDone_keep (s : State) (answer : Option (List Octet)) :
    (cellCmdDone s answer).pending = s.pending ∧ (cellCmdDone s answer).otp = s.otp ∧ (cellCmdDone s answer).mem = s.mem := by
  unfold cellCmdDone; and_intros <;> ((repeat' split) <;> simp_all)

@[simp] theorem configPut_keep (s : State) (k : Nat) (v : Nat) :
    (configPut s k v).pending = s.pending ∧ (configPut s k v).otp = s.otp ∧ (configPut s k v).mem = s.mem := by
  and_intros <;> simp [configPut]

@[simp] theorem configWrite_keep (s : State) (m : Requester) (k : Nat) (v : Nat) :
    (configWrite s m k v).pending = s.pending ∧ (configWrite s m k v).otp = s.otp ∧ (configWrite s m k v).mem = s.mem := by
  and_intros <;> simp [configWrite]

@[simp] theorem alarmAck_keep (s : State) (m : Requester) (i : Nat) :
    (alarmAck s m i).pending = s.pending ∧ (alarmAck s m i).otp = s.otp ∧ (alarmAck s m i).mem = s.mem := by
  and_intros <;> simp [alarmAck]

@[simp] theorem winClose_keep (s : State) (m : Requester) :
    (winClose s m).pending = s.pending ∧ (winClose s m).otp = s.otp ∧ (winClose s m).mem = s.mem := by
  and_intros <;> simp [winClose]

@[simp] theorem passTicks_keep (s : State) (n : Nat) :
    (passTicks s n).pending = s.pending ∧ (passTicks s n).otp = s.otp ∧ (passTicks s n).mem = s.mem := by
  and_intros <;> simp [passTicks]

@[simp] theorem tickStuck_keep (s : State) :
    (tickStuck s).pending = s.pending ∧ (tickStuck s).otp = s.otp ∧ (tickStuck s).mem = s.mem := by
  and_intros <;> simp [tickStuck]

@[simp] theorem powerSwitch_keep (s : State) (toMain : Bool) :
    (powerSwitch s toMain).pending = s.pending ∧ (powerSwitch s toMain).otp = s.otp ∧ (powerSwitch s toMain).mem = s.mem := by
  and_intros <;> simp [powerSwitch]

@[simp] theorem domainLoss_keep (s : State) :
    (domainLoss s).pending = s.pending ∧ (domainLoss s).otp = s.otp ∧ (domainLoss s).mem = s.mem := by
  and_intros <;> simp [domainLoss]

/-! ### Machine/Lead.lean -/

@[simp] theorem jreq_keep (s : State) (m : Nat) (typ : Nat) (arg : Nat) (payload : List Octet) :
    (jreq s m typ arg payload).pending = s.pending ∧ (jreq s m typ arg payload).otp = s.otp ∧ (jreq s m typ arg payload).mem = s.mem := by
  and_intros <;> simp [jreq]

@[simp] theorem lapse_keep (s : State) (b : Nat) (cause : Nat) :
    (lapse s b cause).pending = s.pending ∧ (lapse s b cause).otp = s.otp ∧ (lapse s b cause).mem = s.mem := by
  and_intros <;> simp [lapse]

@[simp] theorem lapseAll_keep (s : State) (cause : Nat) (keep : Nat → Ballot → Bool) :
    (lapseAll s cause keep).pending = s.pending ∧ (lapseAll s cause keep).otp = s.otp ∧ (lapseAll s cause keep).mem = s.mem := by
  and_intros <;> simp [lapseAll]

@[simp] theorem lapseDomain_keep (s : State) (d : Nat) :
    (lapseDomain s d).pending = s.pending ∧ (lapseDomain s d).otp = s.otp ∧ (lapseDomain s d).mem = s.mem := by
  and_intros <;> simp [lapseDomain]

@[simp] theorem requestWarm_keep (s : State) (arg : Nat) (causeBit : Nat) (src : Nat) :
    (requestWarm s arg causeBit src).pending = s.pending ∧ (requestWarm s arg causeBit src).otp = s.otp ∧ (requestWarm s arg causeBit src).mem = s.mem := by
  and_intros <;> simp [requestWarm]

@[simp] theorem endDebug_keep (s : State) :
    (endDebug s).pending = s.pending ∧ (endDebug s).otp = s.otp ∧ (endDebug s).mem = s.mem := by
  and_intros <;> simp [endDebug]

@[simp] theorem changeLead_keep (s : State) (new : Nat) (cause : Nat) (src : Nat) (keep : Option Nat) :
    (changeLead s new cause src keep).pending = s.pending ∧ (changeLead s new cause src keep).otp = s.otp ∧ (changeLead s new cause src keep).mem = s.mem := by
  and_intros <;> simp [changeLead]

@[simp] theorem lapseLead_keep (s : State) (l : Nat) :
    (lapseLead s l).pending = s.pending ∧ (lapseLead s l).otp = s.otp ∧ (lapseLead s l).mem = s.mem := by
  and_intros <;> simp [lapseLead]

@[simp] theorem startWarm_keep (s : State) (arg : Nat) (causeBit : Nat) (src : Nat) :
    (startWarm s arg causeBit src).pending = s.pending ∧ (startWarm s arg causeBit src).otp = s.otp ∧ (startWarm s arg causeBit src).mem = s.mem := by
  and_intros <;> simp [startWarm]

@[simp] theorem endDebugNow_keep (s : State) :
    (endDebugNow s).pending = s.pending ∧ (endDebugNow s).otp = s.otp ∧ (endDebugNow s).mem = s.mem := by
  and_intros <;> simp [endDebugNow]

@[simp] theorem claimLead_keep (s : State) (m : Requester) :
    (claimLead s m).pending = s.pending ∧ (claimLead s m).otp = s.otp ∧ (claimLead s m).mem = s.mem := by
  and_intros <;> simp [claimLead]

@[simp] theorem releaseRole_keep (s : State) (m : Requester) :
    (releaseRole s m).pending = s.pending ∧ (releaseRole s m).otp = s.otp ∧ (releaseRole s m).mem = s.mem := by
  and_intros <;> simp [releaseRole]

@[simp] theorem acquireToken_keep (s : State) (n : Nat) (m : Nat) :
    (acquireToken s n m).pending = s.pending ∧ (acquireToken s n m).otp = s.otp ∧ (acquireToken s n m).mem = s.mem := by
  and_intros <;> simp [acquireToken]

@[simp] theorem releaseToken_keep (s : State) (n : Nat) (m : Nat) :
    (releaseToken s n m).pending = s.pending ∧ (releaseToken s n m).otp = s.otp ∧ (releaseToken s n m).mem = s.mem := by
  and_intros <;> simp [releaseToken]

@[simp] theorem breakTokens_keep (s : State) (holds : Nat → Bool) :
    (breakTokens s holds).pending = s.pending ∧ (breakTokens s holds).otp = s.otp ∧ (breakTokens s holds).mem = s.mem := by
  and_intros <;> simp [breakTokens]

@[simp] theorem expireBallot_keep (s : State) (b : Nat) :
    (expireBallot s b).pending = s.pending ∧ (expireBallot s b).otp = s.otp ∧ (expireBallot s b).mem = s.mem := by
  and_intros <;> simp [expireBallot]

/-! ### Machine/Mgmt.lean -/

@[simp] theorem mcLatch_keep (s : State) (b : Nat) :
    (mcLatch s b).pending = s.pending ∧ (mcLatch s b).otp = s.otp ∧ (mcLatch s b).mem = s.mem := by
  and_intros <;> simp [mcLatch]

@[simp] theorem mcRelease_keep (s : State) :
    (mcRelease s).pending = s.pending ∧ (mcRelease s).otp = s.otp ∧ (mcRelease s).mem = s.mem := by
  and_intros <;> simp [mcRelease]

@[simp] theorem mcResetEffects_keep (s : State) :
    (mcResetEffects s).pending = s.pending ∧ (mcResetEffects s).otp = s.otp ∧ (mcResetEffects s).mem = s.mem := by
  and_intros <;> simp [mcResetEffects]

@[simp] theorem mcRestart_keep (s : State) :
    (mcRestart s).pending = s.pending ∧ (mcRestart s).otp = s.otp ∧ (mcRestart s).mem = s.mem := by
  and_intros <;> simp [mcRestart]

@[simp] theorem mcExpire_keep (s : State) :
    (mcExpire s).pending = s.pending ∧ (mcExpire s).otp = s.otp ∧ (mcExpire s).mem = s.mem := by
  and_intros <;> simp [mcExpire]

@[simp] theorem monSample_keep (s : State) (k : Nat) (v : ℤ) :
    (monSample s k v).pending = s.pending ∧ (monSample s k v).otp = s.otp ∧ (monSample s k v).mem = s.mem := by
  and_intros <;> simp [monSample]

@[simp] theorem putBootBlock_keep (s : State) (active : Nat) (try_ : Nat) (flags : Nat) :
    (putBootBlock s active try_ flags).pending = s.pending ∧ (putBootBlock s active try_ flags).otp = s.otp ∧ (putBootBlock s active try_ flags).mem = s.mem := by
  and_intros <;> simp [putBootBlock]

@[simp] theorem stageRecord_keep (s : State) (src : Nat) (slot : Nat) (svn : Nat) :
    (stageRecord s src slot svn).pending = s.pending ∧ (stageRecord s src slot svn).otp = s.otp ∧ (stageRecord s src slot svn).mem = s.mem := by
  and_intros <;> simp [stageRecord]

@[simp] theorem stageClose_keep (s : State) :
    (stageClose s).pending = s.pending ∧ (stageClose s).otp = s.otp ∧ (stageClose s).mem = s.mem := by
  and_intros <;> simp [stageClose]

@[simp] theorem stageBlock_keep (s : State) (owner : Nat) (src : Nat) (blk : List Octet) :
    (stageBlock s owner src blk).1.pending = s.pending ∧ (stageBlock s owner src blk).1.otp = s.otp ∧ (stageBlock s owner src blk).1.mem = s.mem := by
  and_intros <;> grind [stageBlock, State.wr_frame, stageRecord_keep, State.setSlotImage_frame, State.flag_frame, State.setMgmt_frame, stageClose_keep]

@[simp] theorem stageCommand_keep (s : State) :
    (stageCommand s).pending = s.pending ∧ (stageCommand s).otp = s.otp ∧ (stageCommand s).mem = s.mem := by
  and_intros <;> simp [stageCommand]

@[simp] theorem setTimeState_keep (s : State) (t : Nat) :
    (setTimeState s t).pending = s.pending ∧ (setTimeState s t).otp = s.otp ∧ (setTimeState s t).mem = s.mem := by
  and_intros <;> simp [setTimeState]

@[simp] theorem disciplined_keep (s : State) :
    (disciplined s).pending = s.pending ∧ (disciplined s).otp = s.otp ∧ (disciplined s).mem = s.mem := by
  and_intros <;> simp [disciplined]

@[simp] theorem rateWrite_keep (s : State) (v : Nat) :
    (rateWrite s v).pending = s.pending ∧ (rateWrite s v).otp = s.otp ∧ (rateWrite s v).mem = s.mem := by
  and_intros <;> simp [rateWrite]

@[simp] theorem putTime_keep (s : State) (t : ℤ) :
    (putTime s t).pending = s.pending ∧ (putTime s t).otp = s.otp ∧ (putTime s t).mem = s.mem := by
  and_intros <;> simp [putTime]

@[simp] theorem stepWrite_keep (s : State) (v : Nat) :
    (stepWrite s v).pending = s.pending ∧ (stepWrite s v).otp = s.otp ∧ (stepWrite s v).mem = s.mem := by
  and_intros <;> simp [stepWrite]

@[simp] theorem setWrite_keep (s : State) (v : Nat) :
    (setWrite s v).pending = s.pending ∧ (setWrite s v).otp = s.otp ∧ (setWrite s v).mem = s.mem := by
  and_intros <;> simp [setWrite]

@[simp] theorem lockWrite_keep (s : State) (lock : Bool) :
    (lockWrite s lock).pending = s.pending ∧ (lockWrite s lock).otp = s.otp ∧ (lockWrite s lock).mem = s.mem := by
  and_intros <;> simp [lockWrite]

@[simp] theorem ppsOut_keep (s : State) :
    (ppsOut s).pending = s.pending ∧ (ppsOut s).otp = s.otp ∧ (ppsOut s).mem = s.mem := by
  and_intros <;> simp [ppsOut]

@[simp] theorem timeCycle_keep (s : State) :
    (timeCycle s).pending = s.pending ∧ (timeCycle s).otp = s.otp ∧ (timeCycle s).mem = s.mem := by
  and_intros <;> simp [timeCycle]

@[simp] theorem ppsEdge_keep (s : State) :
    (ppsEdge s).pending = s.pending ∧ (ppsEdge s).otp = s.otp ∧ (ppsEdge s).mem = s.mem := by
  and_intros <;> simp [ppsEdge]

@[simp] theorem ppsLost_keep (s : State) :
    (ppsLost s).pending = s.pending ∧ (ppsLost s).otp = s.otp ∧ (ppsLost s).mem = s.mem := by
  and_intros <;> simp [ppsLost]

@[simp] theorem hlogCommand_keep (s : State) :
    (hlogCommand s).pending = s.pending ∧ (hlogCommand s).otp = s.otp ∧ (hlogCommand s).mem = s.mem := by
  and_intros <;> simp [hlogCommand]

@[simp] theorem hlogWipe_keep (s : State) (m : Requester) :
    (hlogWipe s m).pending = s.pending ∧ (hlogWipe s m).otp = s.otp ∧ (hlogWipe s m).mem = s.mem := by
  and_intros <;> simp [hlogWipe]

@[simp] theorem flashDone_keep (s : State) :
    (flashDone s).pending = s.pending ∧ (flashDone s).otp = s.otp ∧ (flashDone s).mem = s.mem := by
  and_intros <;> simp [flashDone]

@[simp] theorem mctpSend_keep (s : State) (o : List Octet) :
    (mctpSend s o).pending = s.pending ∧ (mctpSend s o).otp = s.otp ∧ (mctpSend s o).mem = s.mem := by
  and_intros <;> simp [mctpSend]

@[simp] theorem mctpArrive_keep (s : State) (o : List Octet) :
    (mctpArrive s o).pending = s.pending ∧ (mctpArrive s o).otp = s.otp ∧ (mctpArrive s o).mem = s.mem := by
  and_intros <;> simp [mctpArrive]

@[simp] theorem mctpControl_keep (s : State) (o : List Octet) :
    (mctpControl s o).pending = s.pending ∧ (mctpControl s o).otp = s.otp ∧ (mctpControl s o).mem = s.mem := by
  and_intros <;> simp [mctpControl]

@[simp] theorem pldmMonitor_keep (s : State) (o : List Octet) :
    (pldmMonitor s o).pending = s.pending ∧ (pldmMonitor s o).otp = s.otp ∧ (pldmMonitor s o).mem = s.mem := by
  and_intros <;> simp [pldmMonitor]

@[simp] theorem pldmData_keep (s : State) (o : List Octet) :
    (pldmData s o).pending = s.pending ∧ (pldmData s o).otp = s.otp ∧ (pldmData s o).mem = s.mem := by
  and_intros <;> simp [pldmData]

@[simp] theorem ethArrive_keep (s : State) (o : List Octet) (stamp : Option (Nat × Nat)) :
    (ethArrive s o stamp).pending = s.pending ∧ (ethArrive s o stamp).otp = s.otp ∧ (ethArrive s o stamp).mem = s.mem := by
  and_intros <;> simp [ethArrive]

/-! ### Machine/Clock.lean -/

@[simp] theorem ptpTick_keep (s : State) :
    (ptpTick s).pending = s.pending ∧ (ptpTick s).otp = s.otp ∧ (ptpTick s).mem = s.mem := by
  and_intros <;> simp [ptpTick]

@[simp] theorem wdogCycle_keep (s : State) :
    (wdogCycle s).pending = s.pending ∧ (wdogCycle s).otp = s.otp ∧ (wdogCycle s).mem = s.mem := by
  and_intros <;> simp [wdogCycle]

@[simp] theorem idle_keep (s : State) :
    (idle s).pending = s.pending ∧ (idle s).otp = s.otp ∧ (idle s).mem = s.mem := by
  and_intros <;> simp [idle]

end Sys2Proof.Machine
end

