-- ==== Sys2Proof/Laws/KeepFloor.lean ====
section
/-! SUPPORT. One lemma per operation of the floor: the queue and OTP it leaves alone, memory it leaves alone or keeps
canonical (names ending in `_keep` and `_wf`; `_to` says the same of a state that an equation names). -/
namespace Sys2Proof.Machine

/-! ### Machine/Floor.lean -/

@[simp] theorem landEff_keep (s : State) (fs : Nat) (a : LandEff) :
    (landEff s fs a).pending = s.pending ∧ (landEff s fs a).otp = s.otp ∧ (landEff s fs a).mem = s.mem := by
  unfold landEff; and_intros <;> ((repeat' split) <;> simp_all)

@[simp] theorem landDue_keep (s : State) (fs : Nat) (t : Nat) :
    (landDue s fs t).pending = s.pending ∧ (landDue s fs t).otp = s.otp ∧ (landDue s fs t).mem = s.mem := by
  unfold landDue; and_intros <;> ((repeat' split) <;> simp_all)

@[simp] theorem launch_keep (s : State) (a : At) (effs : List (Nat × LandEff)) :
    (launch s a effs).pending = s.pending ∧ (launch s a effs).otp = s.otp ∧ (launch s a effs).mem = s.mem := by
  and_intros <;> simp [launch]

@[simp] theorem retireColumn_keep (s : State) (col : Nat) :
    (retireColumn s col).pending = s.pending ∧ (retireColumn s col).otp = s.otp ∧ (retireColumn s col).mem = s.mem := by
  and_intros <;> simp [retireColumn]

@[simp] theorem quarantine_keep (s : State) (h : FigHdr) :
    (quarantine s h).pending = s.pending ∧ (quarantine s h).otp = s.otp ∧ (quarantine s h).mem = s.mem := by
  and_intros <;> simp [quarantine]

@[simp] theorem cmonCapture_keep (s : State) (cause : Nat) (fs : Nat) (step : Nat) (slot : Nat) (cyc : Nat) (owner : Nat) (run : Nat) :
    (cmonCapture s cause fs step slot cyc owner run).pending = s.pending ∧ (cmonCapture s cause fs step slot cyc owner run).otp = s.otp ∧ (cmonCapture s cause fs step slot cyc owner run).mem = s.mem := by
  and_intros <;> simp [cmonCapture]

@[simp] theorem monAction_keep (s : State) (a : At) (i : Inst) (cause : Nat) :
    (monAction s a i cause).pending = s.pending ∧ (monAction s a i cause).otp = s.otp ∧ (monAction s a i cause).mem = s.mem := by
  and_intros <;> simp [monAction]

@[simp] theorem monitor_keep (s : State) (a : At) (cause : Nat) :
    (monitor s a cause).pending = s.pending ∧ (monitor s a cause).otp = s.otp ∧ (monitor s a cause).mem = s.mem := by
  unfold monitor; and_intros <;> ((repeat' split) <;> simp_all)

@[simp] theorem unitFault_keep (s : State) (a : At) (col : Nat) :
    (unitFault s a col).pending = s.pending ∧ (unitFault s a col).otp = s.otp ∧ (unitFault s a col).mem = s.mem := by
  and_intros <;> simp [unitFault]

@[simp] theorem issue_pending (s : State) (a : At) (op : State → Inst → State) (h : ∀ x i, (op x i).pending = x.pending) : (issue s a op).pending = s.pending := by
  simp only [issue]; (repeat' split) <;> simp_all
@[simp] theorem issue_otp (s : State) (a : At) (op : State → Inst → State) (h : ∀ x i, (op x i).otp = x.otp) : (issue s a op).otp = s.otp := by
  simp only [issue]; (repeat' split) <;> simp_all
@[simp] theorem issue_mem (s : State) (a : At) (op : State → Inst → State) (h : ∀ x i, (op x i).mem = x.mem) : (issue s a op).mem = s.mem := by
  simp only [issue]; (repeat' split) <;> simp_all

@[simp] theorem cellFault_keep (s : State) (a : At) (i : Inst) (u : Nat) :
    (cellFault s a i u).pending = s.pending ∧ (cellFault s a i u).otp = s.otp ∧ (cellFault s a i u).mem = s.mem := by
  unfold cellFault; and_intros <;> ((repeat' split) <;> simp_all)

@[simp] theorem issueOn_pending (s : State) (a : At) (ty u : Nat) (op : State → Inst → Nat → State) (h : ∀ x i n, (op x i n).pending = x.pending) : (issueOn s a ty u op).pending = s.pending := by
  refine issue_pending s a _ (fun x i => ?_); split <;> simp_all
@[simp] theorem issueOn_otp (s : State) (a : At) (ty u : Nat) (op : State → Inst → Nat → State) (h : ∀ x i n, (op x i n).otp = x.otp) : (issueOn s a ty u op).otp = s.otp := by
  refine issue_otp s a _ (fun x i => ?_); split <;> simp_all
@[simp] theorem issueOn_mem (s : State) (a : At) (ty u : Nat) (op : State → Inst → Nat → State) (h : ∀ x i n, (op x i n).mem = x.mem) : (issueOn s a ty u op).mem = s.mem := by
  refine issue_mem s a _ (fun x i => ?_); split <;> simp_all

@[simp] theorem noteStop_keep (s : State) (fs : Nat) (k : StopKind) :
    (noteStop s fs k).pending = s.pending ∧ (noteStop s fs k).otp = s.otp ∧ (noteStop s fs k).mem = s.mem := by
  and_intros <;> simp [noteStop]

@[simp] theorem stagingMiss_keep (s : State) (fs : Nat) (f : Nat) :
    (stagingMiss s fs f).pending = s.pending ∧ (stagingMiss s fs f).otp = s.otp ∧ (stagingMiss s fs f).mem = s.mem := by
  and_intros <;> simp [stagingMiss]

@[simp] theorem readRing_keep (s : State) (a : At) (i : Inst) (reel : Nat) (n : Nat) (idx : Nat) :
    (readRing s a i reel n idx).1.pending = s.pending ∧ (readRing s a i reel n idx).1.otp = s.otp ∧ (readRing s a i reel n idx).1.mem = s.mem := by
  unfold readRing; and_intros <;> ((repeat' split) <;> simp_all)

@[simp] theorem readRings_keep (s : State) (a : At) (i : Inst) (reel n k : Nat) :
    (readRings s a i reel n k).1.pending = s.pending ∧ (readRings s a i reel n k).1.otp = s.otp ∧
      (readRings s a i reel n k).1.mem = s.mem := by
  induction k with
  | zero => simp [readRings]
  | succ k ih => simp_all [readRings]

@[simp] theorem writeRing_keep (s : State) (a : At) (i : Inst) (reel : Nat) (n : Nat) (L : Nat) (b : Block) :
    (writeRing s a i reel n L b).pending = s.pending ∧ (writeRing s a i reel n L b).otp = s.otp ∧ (writeRing s a i reel n L b).mem = s.mem := by
  unfold writeRing; and_intros <;> ((repeat' split) <;> simp_all)

@[simp] theorem writeRings_keep (s : State) (a : At) (i : Inst) (reel L n : Nat) (b : List Block) :
    (writeRings s a i reel L n b).pending = s.pending ∧ (writeRings s a i reel L n b).otp = s.otp ∧
      (writeRings s a i reel L n b).mem = s.mem := by
  induction b generalizing s n with
  | nil => simp [writeRings]
  | cons x b ih => simp_all [writeRings]

/-! ### Machine/FloorSym.lean -/

@[simp] theorem laneRecord_keep (s : State) (reel : Nat) (lane : Nat) (sl : Nat) (real : Nat) (outcome : Nat) :
    (laneRecord s reel lane sl real outcome).pending = s.pending ∧ (laneRecord s reel lane sl real outcome).otp = s.otp ∧ (laneRecord s reel lane sl real outcome).mem = s.mem := by
  and_intros <;> simp [laneRecord]

@[simp] theorem fltLast_keep (s : State) (reel : Nat) (lane : Nat) (sl : Nat) (real : Nat) (outcome : Nat) (spare : Bool) :
    (fltLast s reel lane sl real outcome spare).pending = s.pending ∧ (fltLast s reel lane sl real outcome spare).otp = s.otp ∧ (fltLast s reel lane sl real outcome spare).mem = s.mem := by
  and_intros <;> simp [fltLast]

@[simp] theorem setFwin_keep (s : State) (reel : Nat) (lane : Nat) (n : Nat) :
    (setFwin s reel lane n).pending = s.pending ∧ (setFwin s reel lane n).otp = s.otp ∧ (setFwin s reel lane n).mem = s.mem := by
  and_intros <;> simp [setFwin]

@[simp] theorem setLaneOos_keep (s : State) (reel : Nat) (lane : Nat) (b : Bool) :
    (setLaneOos s reel lane b).pending = s.pending ∧ (setLaneOos s reel lane b).otp = s.otp ∧ (setLaneOos s reel lane b).mem = s.mem := by
  and_intros <;> simp [setLaneOos]

@[simp] theorem laneLeaves_keep (s : State) (reel : Nat) (lane : Nat) :
    (laneLeaves s reel lane).pending = s.pending ∧ (laneLeaves s reel lane).otp = s.otp ∧ (laneLeaves s reel lane).mem = s.mem := by
  and_intros <;> simp [laneLeaves]

@[simp] theorem laneFault_keep (s : State) (reel : Nat) (lane : Nat) (sl : Nat) (real : Nat) (outcome : Nat) :
    (laneFault s reel lane sl real outcome).pending = s.pending ∧ (laneFault s reel lane sl real outcome).otp = s.otp ∧ (laneFault s reel lane sl real outcome).mem = s.mem := by
  and_intros <;> simp [laneFault]

@[simp] theorem blockFault_keep (s : State) (a : At) (phys : Nat) (sl : Nat) (k : LaneKey) (al : BitVec 832) :
    (blockFault s a phys sl k al).1.pending = s.pending ∧ (blockFault s a phys sl k al).1.otp = s.otp ∧ (blockFault s a phys sl k al).1.mem = s.mem := by
  and_intros <;> simp [blockFault]

@[simp] theorem laneBlock_keep (a : At) (b : BlockKind) (t : Block) (phys : Nat) (s : State) :
    (laneBlock a b t phys s).pending = s.pending ∧ (laneBlock a b t phys s).otp = s.otp ∧ (laneBlock a b t phys s).mem = s.mem := by
  simp only [laneBlock]; (repeat' split) <;> simp_all

@[simp] theorem blockOp_keep (b : BlockKind) (a : At) (u : Nat) (m : BitVec 8) (s : State) :
    (blockOp b a u m s).pending = s.pending ∧ (blockOp b a u m s).otp = s.otp ∧ (blockOp b a u m s).mem = s.mem := by
  and_intros <;> simp [blockOp]

@[simp] theorem hsetOp_keep (a : At) (u : Nat) (r : Nat) (s : State) :
    (hsetOp a u r s).pending = s.pending ∧ (hsetOp a u r s).otp = s.otp ∧ (hsetOp a u r s).mem = s.mem := by
  and_intros <;> simp [hsetOp]

@[simp] theorem hldOp_keep (a : At) (u : Nat) (m : BitVec 8) (tap : Bool) (adv : Bool) (s : State) :
    (hldOp a u m tap adv s).pending = s.pending ∧ (hldOp a u m tap adv s).otp = s.otp ∧ (hldOp a u m tap adv s).mem = s.mem := by
  and_intros <;> simp [hldOp]

@[simp] theorem hstOp_keep (a : At) (u : Nat) (m : BitVec 8) (adv : Bool) (s : State) :
    (hstOp a u m adv s).pending = s.pending ∧ (hstOp a u m adv s).otp = s.otp ∧ (hstOp a u m adv s).mem = s.mem := by
  and_intros <;> simp [hstOp]

@[simp] theorem ctriOp_keep (a : At) (u : Nat) (m : BitVec 8) (s : State) :
    (ctriOp a u m s).pending = s.pending ∧ (ctriOp a u m s).otp = s.otp ∧ (ctriOp a u m s).mem = s.mem := by
  and_intros <;> simp [ctriOp]

@[simp] theorem xorbOp_keep (a : At) (u : Nat) (m : BitVec 8) (s : State) :
    (xorbOp a u m s).pending = s.pending ∧ (xorbOp a u m s).otp = s.otp ∧ (xorbOp a u m s).mem = s.mem := by
  and_intros <;> simp [xorbOp]

@[simp] theorem movbOp_keep (a : At) (u : Nat) (m : BitVec 8) (s : State) :
    (movbOp a u m s).pending = s.pending ∧ (movbOp a u m s).otp = s.otp ∧ (movbOp a u m s).mem = s.mem := by
  and_intros <;> simp [movbOp]

@[simp] theorem csaveOp_keep (a : At) (u : Nat) (m : BitVec 8) (s : State) :
    (csaveOp a u m s).pending = s.pending ∧ (csaveOp a u m s).otp = s.otp ∧ (csaveOp a u m s).mem = s.mem := by
  and_intros <;> simp [csaveOp]

@[simp] theorem crestOp_keep (a : At) (u : Nat) (m : BitVec 8) (s : State) :
    (crestOp a u m s).pending = s.pending ∧ (crestOp a u m s).otp = s.otp ∧ (crestOp a u m s).mem = s.mem := by
  and_intros <;> simp [crestOp]

@[simp] theorem kputOp_keep (a : At) (u : Nat) (m : BitVec 8) (k : Nat) (s : State) :
    (kputOp a u m k s).pending = s.pending ∧ (kputOp a u m k s).otp = s.otp ∧ (kputOp a u m k s).mem = s.mem := by
  unfold kputOp; and_intros <;> (first | apply issueOn_pending | apply issueOn_otp | apply issueOn_mem | apply issue_pending | apply issue_otp | apply issue_mem | apply duOp_pending | apply duOp_otp | apply duOp_mem | apply xferOp_pending | apply xferOp_otp | apply xferOp_mem) <;> intros <;> (try dsimp only) <;> (repeat' split) <;> simp_all

@[simp] theorem ghkOp_keep (a : At) (u : Nat) (lane : Nat) (s : State) :
    (ghkOp a u lane s).pending = s.pending ∧ (ghkOp a u lane s).otp = s.otp ∧ (ghkOp a u lane s).mem = s.mem := by
  and_intros <;> simp [ghkOp]

@[simp] theorem ghAbsorb_keep (a : At) (u : Nat) (blk : State → Nat → Block) (s : State) :
    (ghAbsorb a u blk s).pending = s.pending ∧ (ghAbsorb a u blk s).otp = s.otp ∧ (ghAbsorb a u blk s).mem = s.mem := by
  and_intros <;> simp [ghAbsorb]

@[simp] theorem gtagOp_keep (a : At) (u : Nat) (lane : Nat) (adv : Bool) (s : State) :
    (gtagOp a u lane adv s).pending = s.pending ∧ (gtagOp a u lane adv s).otp = s.otp ∧ (gtagOp a u lane adv s).mem = s.mem := by
  and_intros <;> simp [gtagOp]

@[simp] theorem gcmpOp_keep (a : At) (u : Nat) (lane : Nat) (r : Nat) (hr : r < 32) (s : State) :
    (gcmpOp a u lane r hr s).pending = s.pending ∧ (gcmpOp a u lane r hr s).otp = s.otp ∧ (gcmpOp a u lane r hr s).mem = s.mem := by
  and_intros <;> simp [gcmpOp]

@[simp] theorem gclrOp_keep (a : At) (u : Nat) (s : State) :
    (gclrOp a u s).pending = s.pending ∧ (gclrOp a u s).otp = s.otp ∧ (gclrOp a u s).mem = s.mem := by
  and_intros <;> simp [gclrOp]

@[simp] theorem twiOp_keep (a : At) (u : Nat) (r : Nat) (s : State) :
    (twiOp a u r s).pending = s.pending ∧ (twiOp a u r s).otp = s.otp ∧ (twiOp a u r s).mem = s.mem := by
  unfold twiOp; and_intros <;> (first | apply issueOn_pending | apply issueOn_otp | apply issueOn_mem | apply issue_pending | apply issue_otp | apply issue_mem | apply duOp_pending | apply duOp_otp | apply duOp_mem | apply xferOp_pending | apply xferOp_otp | apply xferOp_mem) <;> intros <;> (try dsimp only) <;> (repeat' split) <;> simp_all

@[simp] theorem twnOp_keep (a : At) (u : Nat) (s : State) :
    (twnOp a u s).pending = s.pending ∧ (twnOp a u s).otp = s.otp ∧ (twnOp a u s).mem = s.mem := by
  and_intros <;> simp [twnOp]

@[simp] theorem deliver_pending (a : At) (i : Inst) (k cls : Nat) (s : State) (f : KSlot → State) (h : ∀ x, (f x).pending = s.pending) : (deliver a i k cls s f).pending = s.pending := by
  simp only [deliver]; (repeat' split) <;> simp_all
@[simp] theorem deliver_otp (a : At) (i : Inst) (k cls : Nat) (s : State) (f : KSlot → State) (h : ∀ x, (f x).otp = s.otp) : (deliver a i k cls s f).otp = s.otp := by
  simp only [deliver]; (repeat' split) <;> simp_all
@[simp] theorem deliver_mem (a : At) (i : Inst) (k cls : Nat) (s : State) (f : KSlot → State) (h : ∀ x, (f x).mem = s.mem) : (deliver a i k cls s f).mem = s.mem := by
  simp only [deliver]; (repeat' split) <;> simp_all

@[simp] theorem klaneOp_keep (a : At) (u : Nat) (m : BitVec 8) (k : Nat) (s : State) :
    (klaneOp a u m k s).pending = s.pending ∧ (klaneOp a u m k s).otp = s.otp ∧ (klaneOp a u m k s).mem = s.mem := by
  and_intros <;> simp [klaneOp]

@[simp] theorem kghOp_keep (a : At) (u : Nat) (k : Nat) (s : State) :
    (kghOp a u k s).pending = s.pending ∧ (kghOp a u k s).otp = s.otp ∧ (kghOp a u k s).mem = s.mem := by
  and_intros <;> simp [kghOp]

@[simp] theorem kxtOp_keep (a : At) (u : Nat) (k : Nat) (s : State) :
    (kxtOp a u k s).pending = s.pending ∧ (kxtOp a u k s).otp = s.otp ∧ (kxtOp a u k s).mem = s.mem := by
  and_intros <;> simp [kxtOp]

/-! ### Machine/FloorDigest.lean -/

@[simp] theorem duOp_pending (a : At) (u : Nat) (op : State → Inst → Nat → State) (s : State) (h : ∀ x i n, (op x i n).pending = x.pending) : (duOp a u op s).pending = s.pending := by
  refine issueOn_pending _ _ _ _ _ (fun x i n => ?_); split <;> simp_all
@[simp] theorem duOp_otp (a : At) (u : Nat) (op : State → Inst → Nat → State) (s : State) (h : ∀ x i n, (op x i n).otp = x.otp) : (duOp a u op s).otp = s.otp := by
  refine issueOn_otp _ _ _ _ _ (fun x i n => ?_); split <;> simp_all
@[simp] theorem duOp_mem (a : At) (u : Nat) (op : State → Inst → Nat → State) (s : State) (h : ∀ x i n, (op x i n).mem = x.mem) : (duOp a u op s).mem = s.mem := by
  refine issueOn_mem _ _ _ _ _ (fun x i n => ?_); split <;> simp_all

@[simp] theorem withGroup_pending (s : State) (a : At) (i : Inst) (lg : Nat) (f : Nat → State) (h : ∀ x, (f x).pending = s.pending) : (withGroup s a i lg f).pending = s.pending := by
  simp only [withGroup]; (repeat' split) <;> simp_all
@[simp] theorem withGroup_otp (s : State) (a : At) (i : Inst) (lg : Nat) (f : Nat → State) (h : ∀ x, (f x).otp = s.otp) : (withGroup s a i lg f).otp = s.otp := by
  simp only [withGroup]; (repeat' split) <;> simp_all
@[simp] theorem withGroup_mem (s : State) (a : At) (i : Inst) (lg : Nat) (f : Nat → State) (h : ∀ x, (f x).mem = s.mem) : (withGroup s a i lg f).mem = s.mem := by
  simp only [withGroup]; (repeat' split) <;> simp_all

@[simp] theorem dinitOp_keep (a : At) (u : Nat) (alg : Nat) (s : State) :
    (dinitOp a u alg s).pending = s.pending ∧ (dinitOp a u alg s).otp = s.otp ∧ (dinitOp a u alg s).mem = s.mem := by
  and_intros <;> simp [dinitOp]

@[simp] theorem dabsOp_keep (a : At) (u : Nat) (lg : Nat) (lane : Nat) (bout : Bool) (s : State) :
    (dabsOp a u lg lane bout s).pending = s.pending ∧ (dabsOp a u lg lane bout s).otp = s.otp ∧ (dabsOp a u lg lane bout s).mem = s.mem := by
  and_intros <;> simp [dabsOp]

@[simp] theorem dcompOp_keep (a : At) (u : Nat) (s : State) :
    (dcompOp a u s).pending = s.pending ∧ (dcompOp a u s).otp = s.otp ∧ (dcompOp a u s).mem = s.mem := by
  and_intros <;> simp [dcompOp]

@[simp] theorem dfinOp_keep (a : At) (u : Nat) (s : State) :
    (dfinOp a u s).pending = s.pending ∧ (dfinOp a u s).otp = s.otp ∧ (dfinOp a u s).mem = s.mem := by
  and_intros <;> simp [dfinOp]

@[simp] theorem doutOp_keep (a : At) (u : Nat) (lg : Option Nat) (s : State) :
    (doutOp a u lg s).pending = s.pending ∧ (doutOp a u lg s).otp = s.otp ∧ (doutOp a u lg s).mem = s.mem := by
  simp only [doutOp]; (repeat' split) <;> simp_all

@[simp] theorem dpadOp_keep (a : At) (u : Nat) (k : Nat) (opad : Bool) (s : State) :
    (dpadOp a u k opad s).pending = s.pending ∧ (dpadOp a u k opad s).otp = s.otp ∧ (dpadOp a u k opad s).mem = s.mem := by
  and_intros <;> simp [dpadOp]

@[simp] theorem dsaveOp_keep (a : At) (u : Nat) (lg : Nat) (s : State) :
    (dsaveOp a u lg s).pending = s.pending ∧ (dsaveOp a u lg s).otp = s.otp ∧ (dsaveOp a u lg s).mem = s.mem := by
  and_intros <;> simp [dsaveOp]

@[simp] theorem drestOp_keep (a : At) (u : Nat) (lg : Nat) (s : State) :
    (drestOp a u lg s).pending = s.pending ∧ (drestOp a u lg s).otp = s.otp ∧ (drestOp a u lg s).mem = s.mem := by
  and_intros <;> simp [drestOp]

@[simp] theorem dtapOp_keep (a : At) (u : Nat) (lg : Nat) (s : State) :
    (dtapOp a u lg s).pending = s.pending ∧ (dtapOp a u lg s).otp = s.otp ∧ (dtapOp a u lg s).mem = s.mem := by
  and_intros <;> simp [dtapOp]

/-! ### Machine/FloorNum.lean -/

@[simp] theorem nuOp_keep (a : At) (u : Nat) (lat : NumUnit → Nat) (dests : NumUnit → List (Nat × Nat))
    (run : Nat → Inst → NumUnit → Option NuRes) (s : State) :
    (nuOp a u lat dests run s).pending = s.pending ∧ (nuOp a u lat dests run s).otp = s.otp ∧
      (nuOp a u lat dests run s).mem = s.mem := by
  and_intros <;> (first | apply issueOn_pending | apply issueOn_otp | apply issueOn_mem) <;> intros <;>
    (try dsimp only) <;> (repeat' split) <;> simp_all

@[simp] theorem laddOp_keep (a : At) (u : Nat) (d : Fin 16) (x : Fin 16) (y : Fin 16) (s : State) :
    (laddOp a u d x y s).pending = s.pending ∧ (laddOp a u d x y s).otp = s.otp ∧ (laddOp a u d x y s).mem = s.mem := by
  and_intros <;> simp [laddOp]

@[simp] theorem lsubOp_keep (a : At) (u : Nat) (d : Fin 16) (x : Fin 16) (y : Fin 16) (s : State) :
    (lsubOp a u d x y s).pending = s.pending ∧ (lsubOp a u d x y s).otp = s.otp ∧ (lsubOp a u d x y s).mem = s.mem := by
  and_intros <;> simp [lsubOp]

@[simp] theorem mnormOp_keep (a : At) (u : Nat) (d : Fin 16) (x : Fin 16) (dbl : Bool) (s : State) :
    (mnormOp a u d x dbl s).pending = s.pending ∧ (mnormOp a u d x dbl s).otp = s.otp ∧ (mnormOp a u d x dbl s).mem = s.mem := by
  and_intros <;> simp [mnormOp]

@[simp] theorem mmulOp_keep (a : At) (u : Nat) (d : Fin 16) (x : Fin 16) (y : Fin 16) (lat : Nat → Nat) (s : State) :
    (mmulOp a u d x y lat s).pending = s.pending ∧ (mmulOp a u d x y lat s).otp = s.otp ∧ (mmulOp a u d x y lat s).mem = s.mem := by
  and_intros <;> simp [mmulOp]

@[simp] theorem minvOp_keep (a : At) (u : Nat) (d : Fin 16) (x : Fin 16) (s : State) :
    (minvOp a u d x s).pending = s.pending ∧ (minvOp a u d x s).otp = s.otp ∧ (minvOp a u d x s).mem = s.mem := by
  and_intros <;> simp [minvOp]

@[simp] theorem mexpOp_keep (a : At) (u : Nat) (d : Fin 16) (x : Fin 16) (y : Fin 16) (opt : Nat) (s : State) :
    (mexpOp a u d x y opt s).pending = s.pending ∧ (mexpOp a u d x y opt s).otp = s.otp ∧ (mexpOp a u d x y opt s).mem = s.mem := by
  and_intros <;> simp [mexpOp]

@[simp] theorem msetOp_keep (a : At) (u : Nat) (x : Fin 16) (given : Bool) (s : State) :
    (msetOp a u x given s).pending = s.pending ∧ (msetOp a u x given s).otp = s.otp ∧ (msetOp a u x given s).mem = s.mem := by
  and_intros <;> simp [msetOp]

@[simp] theorem mchkOp_keep (a : At) (u : Nat) (x : Fin 16) (nonzero : Bool) (s : State) :
    (mchkOp a u x nonzero s).pending = s.pending ∧ (mchkOp a u x nonzero s).otp = s.otp ∧ (mchkOp a u x nonzero s).mem = s.mem := by
  and_intros <;> simp [mchkOp]

@[simp] theorem mselOp_keep (a : At) (u : Nat) (d : Fin 16) (x : Fin 16) (y : Fin 16) (sel : Fin 16) (s : State) :
    (mselOp a u d x y sel s).pending = s.pending ∧ (mselOp a u d x y sel s).otp = s.otp ∧ (mselOp a u d x y sel s).mem = s.mem := by
  and_intros <;> simp [mselOp]

@[simp] theorem mscanOp_keep (a : At) (u : Nat) (d : Fin 16) (x : Fin 16) (y : Fin 16) (opt : Nat) (s : State) :
    (mscanOp a u d x y opt s).pending = s.pending ∧ (mscanOp a u d x y opt s).otp = s.otp ∧ (mscanOp a u d x y opt s).mem = s.mem := by
  and_intros <;> simp [mscanOp]

@[simp] theorem meqOp_keep (a : At) (u : Nat) (d : Fin 16) (x : Fin 16) (y : Fin 16) (s : State) :
    (meqOp a u d x y s).pending = s.pending ∧ (meqOp a u d x y s).otp = s.otp ∧ (meqOp a u d x y s).mem = s.mem := by
  and_intros <;> simp [meqOp]

@[simp] theorem latticeOp_keep (a : At) (u : Nat) (lat : Nat → Nat) (d : Fin 16) (run : NumUnit → LatCtx → Option (List Nat)) (s : State) :
    (latticeOp a u lat d run s).pending = s.pending ∧ (latticeOp a u lat d run s).otp = s.otp ∧ (latticeOp a u lat d run s).mem = s.mem := by
  and_intros <;> simp [latticeOp]

@[simp] theorem lsetOp_keep (a : At) (u : Nat) (x : Fin 16) (wide : Bool) (s : State) :
    (lsetOp a u x wide s).pending = s.pending ∧ (lsetOp a u x wide s).otp = s.otp ∧ (lsetOp a u x wide s).mem = s.mem := by
  and_intros <;> simp [lsetOp]

@[simp] theorem nttOp_keep (a : At) (u : Nat) (d : Fin 16) (x : Fin 16) (eight : Bool) (s : State) :
    (nttOp a u d x eight s).pending = s.pending ∧ (nttOp a u d x eight s).otp = s.otp ∧ (nttOp a u d x eight s).mem = s.mem := by
  and_intros <;> simp [nttOp]

@[simp] theorem inttOp_keep (a : At) (u : Nat) (d : Fin 16) (x : Fin 16) (eight : Bool) (s : State) :
    (inttOp a u d x eight s).pending = s.pending ∧ (inttOp a u d x eight s).otp = s.otp ∧ (inttOp a u d x eight s).mem = s.mem := by
  and_intros <;> simp [inttOp]

@[simp] theorem pmulOp_keep (a : At) (u : Nat) (d : Fin 16) (x : Fin 16) (y : Fin 16) (base : Bool) (s : State) :
    (pmulOp a u d x y base s).pending = s.pending ∧ (pmulOp a u d x y base s).otp = s.otp ∧ (pmulOp a u d x y base s).mem = s.mem := by
  and_intros <;> simp [pmulOp]

@[simp] theorem paddOp_keep (a : At) (u : Nat) (d : Fin 16) (x : Fin 16) (y : Fin 16) (minus : Bool) (s : State) :
    (paddOp a u d x y minus s).pending = s.pending ∧ (paddOp a u d x y minus s).otp = s.otp ∧ (paddOp a u d x y minus s).mem = s.mem := by
  and_intros <;> simp [paddOp]

@[simp] theorem pnormOp_keep (a : At) (u : Nat) (d : Fin 16) (x : Fin 16) (y : Fin 16) (s : State) :
    (pnormOp a u d x y s).pending = s.pending ∧ (pnormOp a u d x y s).otp = s.otp ∧ (pnormOp a u d x y s).mem = s.mem := by
  and_intros <;> simp [pnormOp]

@[simp] theorem psplitOp_keep (a : At) (u : Nat) (d : Fin 16) (x : Fin 16) (y : Fin 16) (s : State) :
    (psplitOp a u d x y s).pending = s.pending ∧ (psplitOp a u d x y s).otp = s.otp ∧ (psplitOp a u d x y s).mem = s.mem := by
  and_intros <;> simp [psplitOp]

@[simp] theorem phintOp_keep (a : At) (u : Nat) (d : Fin 16) (x : Fin 16) (y : Fin 16) (use : Bool) (s : State) :
    (phintOp a u d x y use s).pending = s.pending ∧ (phintOp a u d x y use s).otp = s.otp ∧ (phintOp a u d x y use s).mem = s.mem := by
  and_intros <;> simp [phintOp]

@[simp] theorem pcompOp_keep (a : At) (u : Nat) (d : Fin 16) (x : Fin 16) (w : Nat) (back : Bool) (s : State) :
    (pcompOp a u d x w back s).pending = s.pending ∧ (pcompOp a u d x w back s).otp = s.otp ∧ (pcompOp a u d x w back s).mem = s.mem := by
  and_intros <;> simp [pcompOp]

@[simp] theorem packOp_keep (a : At) (u : Nat) (d : Fin 16) (x : Fin 16) (y : Fin 16) (w : Nat) (minus : Bool) (s : State) :
    (packOp a u d x y w minus s).pending = s.pending ∧ (packOp a u d x y w minus s).otp = s.otp ∧ (packOp a u d x y w minus s).mem = s.mem := by
  and_intros <;> simp [packOp]

@[simp] theorem unpackOp_keep (a : At) (u : Nat) (d : Fin 16) (x : Fin 16) (y : Fin 16) (w : Nat) (minus : Bool) (s : State) :
    (unpackOp a u d x y w minus s).pending = s.pending ∧ (unpackOp a u d x y w minus s).otp = s.otp ∧ (unpackOp a u d x y w minus s).mem = s.mem := by
  and_intros <;> simp [unpackOp]

@[simp] theorem prejOp_keep (a : At) (u : Nat) (d x y : Fin 16) (mode c1 : Nat) (s : State) :
    (prejOp a u d x y mode c1 s).pending = s.pending ∧ (prejOp a u d x y mode c1 s).otp = s.otp ∧
      (prejOp a u d x y mode c1 s).mem = s.mem :=
  latticeOp_keep _ _ _ _ _ _

@[simp] theorem pcbdOp_keep (a : At) (u : Nat) (d : Fin 16) (x : Fin 16) (eta : Nat) (s : State) :
    (pcbdOp a u d x eta s).pending = s.pending ∧ (pcbdOp a u d x eta s).otp = s.otp ∧ (pcbdOp a u d x eta s).mem = s.mem := by
  and_intros <;> simp [pcbdOp]

@[simp] theorem pconvOp_keep (a : At) (u : Nat) (d : Fin 16) (x : Fin 16) (y : Fin 16) (w : Nat) (s : State) :
    (pconvOp a u d x y w s).pending = s.pending ∧ (pconvOp a u d x y w s).otp = s.otp ∧ (pconvOp a u d x y w s).mem = s.mem := by
  and_intros <;> simp [pconvOp]

@[simp] theorem xferOp_pending (a : At) (u lat : Nat) (f : State → Inst → Nat → State × List LandEff) (s : State) (h : ∀ x i n, (f x i n).1.pending = x.pending) : (xferOp a u lat f s).pending = s.pending := by
  refine issueOn_pending _ _ _ _ _ (fun x i n => ?_); split <;> simp_all
@[simp] theorem xferOp_otp (a : At) (u lat : Nat) (f : State → Inst → Nat → State × List LandEff) (s : State) (h : ∀ x i n, (f x i n).1.otp = x.otp) : (xferOp a u lat f s).otp = s.otp := by
  refine issueOn_otp _ _ _ _ _ (fun x i n => ?_); split <;> simp_all
@[simp] theorem xferOp_mem (a : At) (u lat : Nat) (f : State → Inst → Nat → State × List LandEff) (s : State) (h : ∀ x i n, (f x i n).1.mem = x.mem) : (xferOp a u lat f s).mem = s.mem := by
  refine issueOn_mem _ _ _ _ _ (fun x i n => ?_); split <;> simp_all

@[simp] theorem nldhOp_keep (a : At) (u : Nat) (d : Fin 16) (r : Nat) (c1 : Nat) (form : Nat) (s : State) :
    (nldhOp a u d r c1 form s).pending = s.pending ∧ (nldhOp a u d r c1 form s).otp = s.otp ∧ (nldhOp a u d r c1 form s).mem = s.mem := by
  unfold nldhOp; and_intros <;> (first | apply issueOn_pending | apply issueOn_otp | apply issueOn_mem | apply issue_pending | apply issue_otp | apply issue_mem | apply duOp_pending | apply duOp_otp | apply duOp_mem | apply xferOp_pending | apply xferOp_otp | apply xferOp_mem) <;> intros <;> (try dsimp only) <;> (repeat' split) <;> simp_all

@[simp] theorem nsthOp_keep (a : At) (u : Nat) (d : Fin 16) (r : Nat) (c1 : Nat) (form : Nat) (s : State) :
    (nsthOp a u d r c1 form s).pending = s.pending ∧ (nsthOp a u d r c1 form s).otp = s.otp ∧ (nsthOp a u d r c1 form s).mem = s.mem := by
  unfold nsthOp; and_intros <;> (first | apply issueOn_pending | apply issueOn_otp | apply issueOn_mem | apply issue_pending | apply issue_otp | apply issue_mem | apply duOp_pending | apply duOp_otp | apply duOp_mem | apply xferOp_pending | apply xferOp_otp | apply xferOp_mem) <;> intros <;> (try dsimp only) <;> (repeat' split) <;> simp_all

@[simp] theorem knuOp_keep (a : At) (u : Nat) (k : Nat) (base : Nat) (s : State) :
    (knuOp a u k base s).pending = s.pending ∧ (knuOp a u k base s).otp = s.otp ∧ (knuOp a u k base s).mem = s.mem := by
  and_intros <;> simp [knuOp]

@[simp] theorem rndnOp_keep (a : At) (u : Nat) (base : Nat) (s : State) :
    (rndnOp a u base s).pending = s.pending ∧ (rndnOp a u base s).otp = s.otp ∧ (rndnOp a u base s).mem = s.mem := by
  and_intros <;> simp [rndnOp]

/-! ### Machine/FloorMisc.lean -/

@[simp] theorem endOp_keep (a : At) (s : State) :
    (endOp a s).pending = s.pending ∧ (endOp a s).otp = s.otp ∧ (endOp a s).mem = s.mem := by
  and_intros <;> simp [endOp]

@[simp] theorem endRepeatOp_keep (a : At) (r : Nat) (s : State) :
    (endRepeatOp a r s).pending = s.pending ∧ (endRepeatOp a r s).otp = s.otp ∧ (endRepeatOp a r s).mem = s.mem := by
  and_intros <;> simp [endRepeatOp]

@[simp] theorem endRejectOp_keep (a : At) (r : Nat) (s : State) :
    (endRejectOp a r s).pending = s.pending ∧ (endRejectOp a r s).otp = s.otp ∧ (endRejectOp a r s).mem = s.mem := by
  and_intros <;> simp [endRejectOp]

@[simp] theorem rndfOp_keep (a : At) (r : Fin 32) (s : State) :
    (rndfOp a r s).pending = s.pending ∧ (rndfOp a r s).otp = s.otp ∧ (rndfOp a r s).mem = s.mem := by
  and_intros <;> simp [rndfOp]

@[simp] theorem authOp_keep (a : At) (r : Nat) (s : State) :
    (authOp a r s).pending = s.pending ∧ (authOp a r s).otp = s.otp ∧ (authOp a r s).mem = s.mem := by
  and_intros <;> simp [authOp]

@[simp] theorem resOp_keep (a : At) (k : Fin 8) (r : Nat) (s : State) :
    (resOp a k r s).pending = s.pending ∧ (resOp a k r s).otp = s.otp ∧ (resOp a k r s).mem = s.mem := by
  and_intros <;> simp [resOp]

@[simp] theorem hrelOp_keep (a : At) (u : Nat) (page : Nat) (s : State) :
    (hrelOp a u page s).pending = s.pending ∧ (hrelOp a u page s).otp = s.otp ∧ (hrelOp a u page s).mem = s.mem := by
  unfold hrelOp; and_intros <;> (first | apply issueOn_pending | apply issueOn_otp | apply issueOn_mem | apply issue_pending | apply issue_otp | apply issue_mem | apply duOp_pending | apply duOp_otp | apply duOp_mem | apply xferOp_pending | apply xferOp_otp | apply xferOp_mem) <;> intros <;> (try dsimp only) <;> (repeat' split) <;> simp_all

@[simp] theorem landNext_keep (fs : Nat) (s : State) :
    (landNext fs s).pending = s.pending ∧ (landNext fs s).otp = s.otp ∧ (landNext fs s).mem = s.mem := by
  simp only [landNext]; (repeat' split) <;> simp_all

@[simp] theorem laneStart_keep (s : State) (reel : Nat) (lane : Nat) (action : Nat) :
    (laneStart s reel lane action).pending = s.pending ∧ (laneStart s reel lane action).otp = s.otp ∧ (laneStart s reel lane action).mem = s.mem := by
  and_intros <;> simp [laneStart]

@[simp] theorem freeSpareOf_keep (s : State) (reel : Nat) (lane : Nat) :
    (freeSpareOf s reel lane).pending = s.pending ∧ (freeSpareOf s reel lane).otp = s.otp ∧ (freeSpareOf s reel lane).mem = s.mem := by
  and_intros <;> simp [freeSpareOf]

@[simp] theorem clearWindow_keep (s : State) (reel : Nat) (lane : Nat) :
    (clearWindow s reel lane).pending = s.pending ∧ (clearWindow s reel lane).otp = s.otp ∧ (clearWindow s reel lane).mem = s.mem := by
  and_intros <;> simp [clearWindow]

@[simp] theorem laneDone_keep (s : State) (reel : Nat) (pass : Bool) :
    (laneDone s reel pass).pending = s.pending ∧ (laneDone s reel pass).otp = s.otp ∧ (laneDone s reel pass).mem = s.mem := by
  and_intros <;> simp [laneDone]

@[simp] theorem unitStart_keep (s : State) (r : UnitRegs) (action : Nat) :
    (unitStart s r action).pending = s.pending ∧ (unitStart s r action).otp = s.otp ∧ (unitStart s r action).mem = s.mem := by
  and_intros <;> simp [unitStart]

@[simp] theorem unitDone_keep (s : State) (r : UnitRegs) (ok : Bool) :
    (unitDone s r ok).pending = s.pending ∧ (unitDone s r ok).otp = s.otp ∧ (unitDone s r ok).mem = s.mem := by
  and_intros <;> simp [unitDone]

@[simp] theorem allot_keep (reel : Nat) (lane : Nat) (s : State) :
    (allot reel lane s).pending = s.pending ∧ (allot reel lane s).otp = s.otp ∧ (allot reel lane s).mem = s.mem := by
  and_intros <;> simp [allot]

@[simp] theorem reseedExpander_keep (reel : Nat) (s : State) :
    (reseedExpander reel s).pending = s.pending ∧ (reseedExpander reel s).otp = s.otp ∧ (reseedExpander reel s).mem = s.mem := by
  simp only [reseedExpander]; (repeat' split) <;> simp_all

@[simp] theorem expanderStale_keep (reel : Nat) (s : State) :
    (expanderStale reel s).pending = s.pending ∧ (expanderStale reel s).otp = s.otp ∧ (expanderStale reel s).mem = s.mem := by
  and_intros <;> simp [expanderStale]

end Sys2Proof.Machine
end

