-- ==== Sys2Proof/Laws/KeepVault.lean ====
section
/-! SUPPORT. One lemma per operation of entropy, the journal, the vault, keys and the host interface: the queue and OTP it leaves alone, memory it leaves alone or keeps
canonical (names ending in `_keep` and `_wf`; `_to` says the same of a state that an equation names). -/
namespace Sys2Proof.Machine

/-! ### Machine/Entropy.lean -/

@[simp] theorem srcRestart_keep (s : State) (n : Nat) :
    (srcRestart s n).pending = s.pending ∧ (srcRestart s n).otp = s.otp ∧ (srcRestart s n).mem = s.mem := by
  and_intros <;> simp [srcRestart]

@[simp] theorem entRecord_keep (s : State) (src : Nat) (ev : Nat) (mode : Nat) (flush : Bool) :
    (entRecord s src ev mode flush).pending = s.pending ∧ (entRecord s src ev mode flush).otp = s.otp ∧ (entRecord s src ev mode flush).mem = s.mem := by
  and_intros <;> simp [entRecord]

@[simp] theorem fatalAlarm_keep (s : State) :
    (fatalAlarm s).pending = s.pending ∧ (fatalAlarm s).otp = s.otp ∧ (fatalAlarm s).mem = s.mem := by
  and_intros <;> simp [fatalAlarm]

@[simp] theorem evalHealthy_keep (s : State) :
    (evalHealthy s).pending = s.pending ∧ (evalHealthy s).otp = s.otp ∧ (evalHealthy s).mem = s.mem := by
  and_intros <;> simp [evalHealthy]

@[simp] theorem srcRetire_keep (s : State) (n : Nat) :
    (srcRetire s n).pending = s.pending ∧ (srcRetire s n).otp = s.otp ∧ (srcRetire s n).mem = s.mem := by
  and_intros <;> simp [srcRetire]

@[simp] theorem srcFail_keep (s : State) (n : Nat) (rct : Bool) (apt : Bool) :
    (srcFail s n rct apt).pending = s.pending ∧ (srcFail s n rct apt).otp = s.otp ∧ (srcFail s n rct apt).mem = s.mem := by
  and_intros <;> simp [srcFail]

@[simp] theorem blockComplete_keep (s : State) (n : Nat) (o : List Octet) :
    (blockComplete s n o).pending = s.pending ∧ (blockComplete s n o).otp = s.otp ∧ (blockComplete s n o).mem = s.mem := by
  and_intros <;> simp [blockComplete]

@[simp] theorem startupEnd_keep (s : State) (n : Nat) (o : List Octet) :
    (startupEnd s n o).pending = s.pending ∧ (startupEnd s n o).otp = s.otp ∧ (startupEnd s n o).mem = s.mem := by
  and_intros <;> simp [startupEnd]

@[simp] theorem deliverWords_keep (s : State) (uid : Nat) (w : List Word) :
    (deliverWords s uid w).pending = s.pending ∧ (deliverWords s uid w).otp = s.otp ∧ (deliverWords s uid w).mem = s.mem := by
  and_intros <;> simp [deliverWords]

@[simp] theorem takeWords_keep (s : State) (r : RngReq) (w : List Word) :
    (takeWords s r w).pending = s.pending ∧ (takeWords s r w).otp = s.otp ∧ (takeWords s r w).mem = s.mem := by
  and_intros <;> simp [takeWords]

@[simp] theorem serveEntropy_keep (n : Nat) (s : State) :
    (serveEntropy n s).pending = s.pending ∧ (serveEntropy n s).otp = s.otp ∧ (serveEntropy n s).mem = s.mem := by
  induction n generalizing s with
  | zero => simp [serveEntropy]
  | succ n ih => simp only [serveEntropy]; (repeat' split) <;> simp_all

@[simp] theorem conditioned_keep (s : State) :
    (conditioned s).pending = s.pending ∧ (conditioned s).otp = s.otp ∧ (conditioned s).mem = s.mem := by
  simp only [conditioned]; (repeat' split) <;> simp_all

@[simp] theorem serveReseed_keep (s : State) :
    (serveReseed s).pending = s.pending ∧ (serveReseed s).otp = s.otp ∧ (serveReseed s).mem = s.mem := by
  simp only [serveReseed]; (repeat' split) <;> simp_all

@[simp] theorem drbgRequest_keep (s : State) (d : Drbg) (n : Nat) :
    (drbgRequest s d n).2.pending = s.pending ∧ (drbgRequest s d n).2.otp = s.otp ∧ (drbgRequest s d n).2.mem = s.mem := by
  and_intros <;> simp [drbgRequest]

@[simp] theorem drawRandom_keep (s : State) (n : Nat) :
    (drawRandom s n).2.pending = s.pending ∧ (drawRandom s n).2.otp = s.otp ∧ (drawRandom s n).2.mem = s.mem := by
  simp only [drawRandom]; (repeat' split) <;> simp_all
theorem drawRandom_to {s : State} {n : Nat} {t_ : State} {r_ : List Octet} (e_ : drawRandom s n = (r_, t_)) :
    t_.pending = s.pending ∧ t_.otp = s.otp ∧ t_.mem = s.mem := by
  have k := drawRandom_keep s n; rw [e_] at k; exact k

@[simp] theorem serveGenerate_keep (s : State) :
    (serveGenerate s).pending = s.pending ∧ (serveGenerate s).otp = s.otp ∧ (serveGenerate s).mem = s.mem := by
  simp only [serveGenerate]; (repeat' split) <;> simp_all

@[simp] theorem instantiate_keep (s : State) (pass : Bool) :
    (instantiate s pass).pending = s.pending ∧ (instantiate s pass).otp = s.otp ∧ (instantiate s pass).mem = s.mem := by
  simp only [instantiate]; (repeat' split) <;> simp_all

@[simp] theorem askReseed_keep (s : State) :
    (askReseed s).pending = s.pending ∧ (askReseed s).otp = s.otp ∧ (askReseed s).mem = s.mem := by
  and_intros <;> simp [askReseed]

@[simp] theorem rawClose_keep (s : State) :
    (rawClose s).pending = s.pending ∧ (rawClose s).otp = s.otp ∧ (rawClose s).mem = s.mem := by
  and_intros <;> simp [rawClose]

@[simp] theorem rawForbid_keep (s : State) :
    (rawForbid s).pending = s.pending ∧ (rawForbid s).otp = s.otp ∧ (rawForbid s).mem = s.mem := by
  and_intros <;> simp [rawForbid]

@[simp] theorem rawCaptured_keep (s : State) (o : List Octet) :
    (rawCaptured s o).pending = s.pending ∧ (rawCaptured s o).otp = s.otp := by
  and_intros <;> simp [rawCaptured]
@[simp] theorem rawCaptured_wf (s : State) (o : List Octet) (hm : s.mem.wf = true) : (rawCaptured s o).mem.wf = true := by
  simp [rawCaptured, hm]

@[simp] theorem startFlush_keep (s : State) :
    (startFlush s).pending = s.pending ∧ (startFlush s).otp = s.otp ∧ (startFlush s).mem = s.mem := by
  and_intros <;> simp [startFlush]

@[simp] theorem flushDone_keep (s : State) :
    (flushDone s).pending = s.pending ∧ (flushDone s).otp = s.otp ∧ (flushDone s).mem = s.mem := by
  and_intros <;> simp [flushDone]

@[simp] theorem journalResume_keep (s : State) :
    (journalResume s).pending = s.pending ∧ (journalResume s).otp = s.otp ∧ (journalResume s).mem = s.mem := by
  and_intros <;> simp [journalResume]

@[simp] theorem submitRecord_keep (s : State) (sc : Nat) (cont : Bool) (reserve : Bool) :
    (submitRecord s sc cont reserve).pending = s.pending ∧ (submitRecord s sc cont reserve).otp = s.otp ∧ (submitRecord s sc cont reserve).mem = s.mem := by
  and_intros <;> simp [submitRecord]

/-! ### Machine/Vault.lean -/

@[simp] theorem recordFor_keep (s : State) (w : Who) (typ : Nat) (arg : Nat) (payload : List Octet) :
    (recordFor s w typ arg payload).pending = s.pending ∧ (recordFor s w typ arg payload).otp = s.otp ∧ (recordFor s w typ arg payload).mem = s.mem := by
  and_intros <;> simp [recordFor]

@[simp] theorem markDirty_keep (s : State) (p : Nat) :
    (markDirty s p).pending = s.pending ∧ (markDirty s p).otp = s.otp ∧ (markDirty s p).mem = s.mem := by
  and_intros <;> simp [markDirty]

@[simp] theorem vaultCounts_keep (s : State) :
    (vaultCounts s).pending = s.pending ∧ (vaultCounts s).otp = s.otp ∧ (vaultCounts s).mem = s.mem := by
  and_intros <;> simp [vaultCounts]

@[simp] theorem readLines_keep (s : State) (l : List Nat) :
    (readLines s l).1.pending = s.pending ∧ (readLines s l).1.otp = s.otp := by
  induction l generalizing s with
  | nil => simp [readLines]
  | cons x l ih => simp only [readLines]; grind [→ lineCheck_to]
@[simp] theorem readLines_wf (s : State) (l : List Nat) (hm : s.mem.wf = true) : (readLines s l).1.mem.wf = true := by
  induction l generalizing s with
  | nil => simpa [readLines] using hm
  | cons x l ih => simp only [readLines]; grind [→ lineCheck_to]
theorem readLines_to {s : State} {a : List Nat} {t_ : State} {r_ : Nat} (e_ : readLines s a = (t_, r_)) :
    t_.pending = s.pending ∧ t_.otp = s.otp ∧ (s.mem.wf = true → t_.mem.wf = true) := by
  have k := readLines_keep s a; have w := readLines_wf s a; rw [e_] at k w; exact ⟨k.1, k.2, w⟩

@[simp] theorem putRecord_keep (s : State) (r : Nat) (o : List Octet) :
    (putRecord s r o).pending = s.pending ∧ (putRecord s r o).otp = s.otp := by
  and_intros <;> simp [putRecord]
theorem Mem.wf_fold {β : Type} (f : Mem → β → Mem) (h : ∀ m e, m.wf = true → (f m e).wf = true) (m : Mem) (l : List β)
    (hm : m.wf = true) : (l.foldl f m).wf = true := by
  induction l generalizing m with
  | nil => exact hm
  | cons e l ih => exact ih _ (h m e hm)
@[simp] theorem putRecord_wf (s : State) (r : Nat) (o : List Octet) (hm : s.mem.wf = true) : (putRecord s r o).mem.wf = true := by
  simp only [putRecord, markDirty_keep, State.setVault_frame, State.setMem_frame]
  exact Mem.wf_fold _ (fun m e h => by simp_all [Mem.wf_iff]) _ _ hm

@[simp] theorem putMap_keep (s : State) (r e : Nat) : (putMap s r e).pending = s.pending ∧ (putMap s r e).otp = s.otp := by
  and_intros <;> simp [putMap]
@[simp] theorem putMap_wf (s : State) (r e : Nat) (hm : s.mem.wf = true) : (putMap s r e).mem.wf = true := by
  simp_all [putMap, Mem.wf_iff]

@[simp] theorem putObj_keep (s : State) (r : Nat) (o : Obj) :
    (putObj s r o).pending = s.pending ∧ (putObj s r o).otp = s.otp := by
  and_intros <;> simp [putObj]
@[simp] theorem putObj_wf (s : State) (r : Nat) (o : Obj) (hm : s.mem.wf = true) : (putObj s r o).mem.wf = true := by
  simp only [putObj]; (repeat' split) <;> simp_all

@[simp] theorem putDevice_keep (s : State) (r : Nat) (mat : List Octet) :
    (putDevice s r mat).pending = s.pending ∧ (putDevice s r mat).otp = s.otp := by
  and_intros <;> simp [putDevice]
@[simp] theorem putDevice_wf (s : State) (r : Nat) (mat : List Octet) (hm : s.mem.wf = true) : (putDevice s r mat).mem.wf = true := by
  simp [putDevice, hm]

@[simp] theorem addUsed_keep (s : State) (d : Nat) (grow : Bool) (n : Nat) :
    (addUsed s d grow n).pending = s.pending ∧ (addUsed s d grow n).otp = s.otp := by
  simp only [addUsed]; (repeat' split) <;> simp_all
@[simp] theorem addUsed_wf (s : State) (d : Nat) (grow : Bool) (n : Nat) (hm : s.mem.wf = true) : (addUsed s d grow n).mem.wf = true := by
  simp only [addUsed]; (repeat' split) <;> simp_all

@[simp] theorem createObj_keep (s : State) (o : Obj) :
    (createObj s o).1.pending = s.pending ∧ (createObj s o).1.otp = s.otp := by
  simp only [createObj]; (repeat' split) <;> simp_all
@[simp] theorem createObj_wf (s : State) (o : Obj) (hm : s.mem.wf = true) : (createObj s o).1.mem.wf = true := by
  simp only [createObj]
  split
  · exact hm
  · split
    · exact hm
    · simp only [vaultCounts_keep, addUsed_keep]
      exact addUsed_wf _ _ _ _ (putObj_wf _ _ _ (foldl_wf _ (fun x e h => putMap_wf _ _ _ h) _ _ hm))
theorem createObj_to {s : State} {o : Obj} {t_ : State} {r_ : Except Nat Nat} (e_ : createObj s o = (t_, r_)) :
    t_.pending = s.pending ∧ t_.otp = s.otp ∧ (s.mem.wf = true → t_.mem.wf = true) := by
  have k := createObj_keep s o; have w := createObj_wf s o; rw [e_] at k w; exact ⟨k.1, k.2, w⟩

@[simp] theorem pinCount_keep (s : State) :
    (pinCount s).pending = s.pending ∧ (pinCount s).otp = s.otp ∧ (pinCount s).mem = s.mem := by
  and_intros <;> simp [pinCount]

@[simp] theorem dropCached_keep (s : State) (h : Nat) :
    (dropCached s h).pending = s.pending ∧ (dropCached s h).otp = s.otp ∧ (dropCached s h).mem = s.mem := by
  and_intros <;> simp [dropCached]

@[simp] theorem destroyObj_keep (s : State) (r : Nat) : (destroyObj s r).pending = s.pending ∧ (destroyObj s r).otp = s.otp := by
  and_intros <;> simp [destroyObj]
@[simp] theorem destroyObj_wf (s : State) (r : Nat) (hm : s.mem.wf = true) : (destroyObj s r).mem.wf = true := by
  simp only [destroyObj, vaultCounts_keep]
  refine addUsed_wf _ _ _ _ ?_
  simp only [dropCached_keep]
  refine foldl_wf _ (fun x e h => ?_) _ _ hm
  split <;> simp [h]

@[simp] theorem openObj_keep (s : State) (h : Nat) (b : Bool) :
    (openObj s h b).1.pending = s.pending ∧ (openObj s h b).1.otp = s.otp := by
  unfold openObj
  and_intros <;> grind [→ readLines_to]
@[simp] theorem openObj_wf (s : State) (h : Nat) (b : Bool) (hm : s.mem.wf = true) : (openObj s h b).1.mem.wf = true := by
  unfold openObj
  grind [→ readLines_to]
theorem openObj_to {s : State} {h : Nat} {suspendedOk : Bool} {t_ : State} {r_ : Except (Nat × Nat) Nat} (e_ : openObj s h suspendedOk = (t_, r_)) :
    t_.pending = s.pending ∧ t_.otp = s.otp ∧ (s.mem.wf = true → t_.mem.wf = true) := by
  have k := openObj_keep s h suspendedOk; have w := openObj_wf s h suspendedOk; rw [e_] at k w; exact ⟨k.1, k.2, w⟩

@[simp] theorem leaseWait_keep (s : State) :
    (leaseWait s).pending = s.pending ∧ (leaseWait s).otp = s.otp ∧ (leaseWait s).mem = s.mem := by
  and_intros <;> simp [leaseWait]

@[simp] theorem chargeUsage_keep (s : State) (r : Nat) :
    (chargeUsage s r).1.pending = s.pending ∧ (chargeUsage s r).1.otp = s.otp := by
  and_intros <;> simp [chargeUsage]
@[simp] theorem chargeUsage_wf (s : State) (r : Nat) (hm : s.mem.wf = true) : (chargeUsage s r).1.mem.wf = true := by
  simp [chargeUsage, hm]
theorem chargeUsage_to {s : State} {r : Nat} {t_ : State} {r_ : Charge} (e_ : chargeUsage s r = (t_, r_)) :
    t_.pending = s.pending ∧ t_.otp = s.otp ∧ (s.mem.wf = true → t_.mem.wf = true) := by
  have k := chargeUsage_keep s r; have w := chargeUsage_wf s r; rw [e_] at k w; exact ⟨k.1, k.2, w⟩

@[simp] theorem chargeInv_keep (s : State) (r : Nat) :
    (chargeInv s r).1.pending = s.pending ∧ (chargeInv s r).1.otp = s.otp := by
  and_intros <;> simp [chargeInv]
@[simp] theorem chargeInv_wf (s : State) (r : Nat) (hm : s.mem.wf = true) : (chargeInv s r).1.mem.wf = true := by
  simp [chargeInv, hm]
theorem chargeInv_to {s : State} {r : Nat} {t_ : State} {r_ : Charge} (e_ : chargeInv s r = (t_, r_)) :
    t_.pending = s.pending ∧ t_.otp = s.otp ∧ (s.mem.wf = true → t_.mem.wf = true) := by
  have k := chargeInv_keep s r; have w := chargeInv_wf s r; rw [e_] at k w; exact ⟨k.1, k.2, w⟩

@[simp] theorem takeImport_keep (s : State) (blocked : Bool) :
    (takeImport s blocked).1.pending = s.pending ∧ (takeImport s blocked).1.otp = s.otp ∧ (takeImport s blocked).1.mem = s.mem := by
  and_intros <;> simp [takeImport]
theorem takeImport_to {s : State} {blocked : Bool} {t_ : State} {r_ : Charge} (e_ : takeImport s blocked = (t_, r_)) :
    t_.pending = s.pending ∧ t_.otp = s.otp ∧ t_.mem = s.mem := by
  have k := takeImport_keep s blocked; rw [e_] at k; exact k

@[simp] theorem setFixed_keep (s : State) (v : Nat) :
    (setFixed s v).pending = s.pending ∧ (setFixed s v).otp = s.otp ∧ (setFixed s v).mem = s.mem := by
  and_intros <;> simp [setFixed]

@[simp] theorem putImageRoot_keep (s : State) (dig : List Octet) (seq : Nat) :
    (putImageRoot s dig seq).pending = s.pending ∧ (putImageRoot s dig seq).otp = s.otp ∧ (putImageRoot s dig seq).mem = s.mem := by
  and_intros <;> simp [putImageRoot]

@[simp] theorem coverWaits_keep (s : State) :
    (coverWaits s).pending = s.pending ∧ (coverWaits s).otp = s.otp ∧ (coverWaits s).mem = s.mem := by
  and_intros <;> simp [coverWaits]

@[simp] theorem abandonCommit_keep (s : State) :
    (abandonCommit s).pending = s.pending ∧ (abandonCommit s).otp = s.otp ∧ (abandonCommit s).mem = s.mem := by
  simp only [abandonCommit]; (repeat' split) <;> simp_all

theorem openCommit_to {s t : State} (h : openCommit s = some t) :
    t.pending = s.pending ∧ t.otp = s.otp ∧ t.mem = s.mem := by
  simp only [openCommit] at h
  (repeat' split at h) <;> cases h <;> simp

@[simp] theorem emitPages_keep (vk : List Octet) (l : List Nat) (room : Nat) (s : State) :
    (emitPages vk l room s).2.pending = s.pending ∧ (emitPages vk l room s).2.otp = s.otp ∧ (emitPages vk l room s).2.mem = s.mem := by
  induction l generalizing room s with
  | nil => simp [emitPages]
  | cons p l ih => simp only [emitPages]; split <;> simp_all
theorem emitPages_to {vk : List Octet} {a : List Nat} {a1 : Nat} {a2 : State} {t_ : State} {r_ : List Octet} (e_ : emitPages vk a a1 a2 = (r_, t_)) :
    t_.pending = a2.pending ∧ t_.otp = a2.otp ∧ t_.mem = a2.mem := by
  have k := emitPages_keep vk a a1 a2; rw [e_] at k; exact k

@[simp] theorem commitOp_keep (s : State) (room : Nat) :
    (commitOp s room).1.pending = s.pending ∧ (commitOp s room).1.otp = s.otp ∧ (commitOp s room).1.mem = s.mem := by
  cases hr : s.tamp.root <;> cases hk : s.vault.key <;> cases hc : s.vault.commit <;> cases ho : openCommit s <;>
    simp only [commitOp, hr, hk, hc, ho, Option.isSome] <;> (repeat' split) <;> simp_all
  all_goals exact openCommit_to ‹_›
theorem commitOp_to {s : State} {room : Nat} {t_ : State} {r_ : Rep} (e_ : commitOp s room = (t_, r_)) :
    t_.pending = s.pending ∧ t_.otp = s.otp ∧ t_.mem = s.mem := by
  have k := commitOp_keep s room; rw [e_] at k; exact k

@[simp] theorem releaseWaits_keep (s : State) :
    (releaseWaits s).pending = s.pending ∧ (releaseWaits s).otp = s.otp ∧ (releaseWaits s).mem = s.mem := by
  and_intros <;> simp [releaseWaits]

@[simp] theorem mcAllowedRefresh_keep (s : State) :
    (mcAllowedRefresh s).pending = s.pending ∧ (mcAllowedRefresh s).otp = s.otp ∧ (mcAllowedRefresh s).mem = s.mem := by
  and_intros <;> simp [mcAllowedRefresh]

@[simp] theorem storedOp_keep (s : State) (w : Who) :
    (storedOp s w).1.pending = s.pending ∧ (storedOp s w).1.otp = s.otp ∧ (storedOp s w).1.mem = s.mem := by
  simp only [storedOp]; (repeat' split) <;> simp_all

@[simp] theorem emptyVault_keep (s : State) (vk : List Octet) :
    (emptyVault s vk).pending = s.pending ∧ (emptyVault s vk).otp = s.otp ∧ (emptyVault s vk).mem = s.mem := by
  and_intros <;> simp [emptyVault]

@[simp] theorem refuseBlob_keep (s : State) (page : Nat) (cause : Nat) :
    (refuseBlob s page cause).1.pending = s.pending ∧ (refuseBlob s page cause).1.otp = s.otp ∧ (refuseBlob s page cause).1.mem = s.mem := by
  and_intros <;> simp [refuseBlob]

@[simp] theorem coldLoad_keep (s : State) :
    (coldLoad s).pending = s.pending ∧ (coldLoad s).otp = s.otp ∧ (coldLoad s).mem = s.mem := by
  and_intros <;> simp [coldLoad]

@[simp] theorem loadTable_keep (s : State) (root : List Octet) (blob : List Octet) :
    (loadTable s root blob).1.pending = s.pending ∧ (loadTable s root blob).1.otp = s.otp ∧ (loadTable s root blob).1.mem = s.mem := by
  simp only [loadTable]; (repeat' split) <;> simp_all

@[simp] theorem loadPage_keep (s : State) (p : Nat) (o : List Octet) :
    (loadPage s p o).pending = s.pending ∧ (loadPage s p o).otp = s.otp ∧ (loadPage s p o).mem = s.mem := by
  and_intros <;> simp [loadPage]

@[simp] theorem loadOp_keep (s : State) (blob : List Octet) :
    (loadOp s blob).1.pending = s.pending ∧ (loadOp s blob).1.otp = s.otp ∧ (loadOp s blob).1.mem = s.mem := by
  simp only [loadOp]; (repeat' split) <;> simp_all
theorem loadOp_to {s : State} {blob : List Octet} {t_ : State} {r_ : Rep} (e_ : loadOp s blob = (t_, r_)) :
    t_.pending = s.pending ∧ t_.otp = s.otp ∧ t_.mem = s.mem := by
  have k := loadOp_keep s blob; rw [e_] at k; exact k

@[simp] theorem vaultFilled_keep (s : State) :
    (vaultFilled s).pending = s.pending ∧ (vaultFilled s).otp = s.otp ∧ (vaultFilled s).mem = s.mem := by
  and_intros <;> simp [vaultFilled]

@[simp] theorem createAll_keep (s : State) (l : List (Nat × List Octet)) :
    (createAll s l).pending = s.pending ∧ (createAll s l).otp = s.otp := by
  and_intros <;> simp [createAll]
@[simp] theorem createAll_wf (s : State) (l : List (Nat × List Octet)) (hm : s.mem.wf = true) : (createAll s l).mem.wf = true := by
  simp only [createAll]; (repeat' split) <;> simp_all

@[simp] theorem resetVault_keep (s : State) :
    (resetVault s).pending = s.pending ∧ (resetVault s).otp = s.otp := by
  and_intros <;> simp [resetVault]
@[simp] theorem resetVault_wf (s : State) (hm : s.mem.wf = true) : (resetVault s).mem.wf = true := by
  simp [resetVault, hm]

/-! ### Machine/Attest.lean -/

@[simp] theorem statement_keep (s : State) (nonce : List Octet) (doms : List Nat) :
    (statement s nonce doms).2.pending = s.pending ∧ (statement s nonce doms).2.otp = s.otp ∧ (statement s nonce doms).2.mem = s.mem := by
  and_intros <;> simp [statement]
theorem statement_to {s : State} {nonce : List Octet} {doms : List Nat} {t_ : State} {r_ : List Octet} (e_ : statement s nonce doms = (r_, t_)) :
    t_.pending = s.pending ∧ t_.otp = s.otp ∧ t_.mem = s.mem := by
  have k := statement_keep s nonce doms; rw [e_] at k; exact k

@[simp] theorem attestFor_keep (s : State) (port : Nat) (nonce : List Octet) (doms : List Nat) :
    (attestFor s port nonce doms).1.pending = s.pending ∧ (attestFor s port nonce doms).1.otp = s.otp ∧ (attestFor s port nonce doms).1.mem = s.mem := by
  and_intros <;> simp [attestFor]
theorem attestFor_to {s : State} {port : Nat} {nonce : List Octet} {doms : List Nat} {t_ : State} {r_ : Rep} (e_ : attestFor s port nonce doms = (t_, r_)) :
    t_.pending = s.pending ∧ t_.otp = s.otp ∧ t_.mem = s.mem := by
  have k := attestFor_keep s port nonce doms; rw [e_] at k; exact k

@[simp] theorem sealTransfer_keep (s : State) (peer : List Octet × List Octet) (head : List Octet) (contents : List Octet) :
    (sealTransfer s peer head contents).2.pending = s.pending ∧ (sealTransfer s peer head contents).2.otp = s.otp ∧ (sealTransfer s peer head contents).2.mem = s.mem := by
  and_intros <;> simp [sealTransfer]

@[simp] theorem signBoth_keep (s : State) (o : List Octet) :
    (signBoth s o).2.pending = s.pending ∧ (signBoth s o).2.otp = s.otp ∧ (signBoth s o).2.mem = s.mem := by
  and_intros <;> simp [signBoth]
theorem signBoth_to {s : State} {o : List Octet} {t_ : State} {r_ : List Octet} (e_ : signBoth s o = (r_, t_)) :
    t_.pending = s.pending ∧ t_.otp = s.otp ∧ t_.mem = s.mem := by
  have k := signBoth_keep s o; rw [e_] at k; exact k

/-! ### Machine/Keys.lean -/

@[simp] theorem createFor_keep (s : State) (w : Who) (o : Obj) (typ : Nat) (kind : Nat) (peer : List Octet) (pub : List Octet) :
    (createFor s w o typ kind peer pub).1.pending = s.pending ∧ (createFor s w o typ kind peer pub).1.otp = s.otp := by
  and_intros <;> grind [createFor, → createObj_to, recordFor_keep]
@[simp] theorem createFor_wf (s : State) (w : Who) (o : Obj) (typ : Nat) (kind : Nat) (peer : List Octet) (pub : List Octet) (hm : s.mem.wf = true) : (createFor s w o typ kind peer pub).1.mem.wf = true := by
  grind [createFor, → createObj_to, createObj_wf, recordFor_keep]
theorem createFor_to {s : State} {w : Who} {o : Obj} {typ : Nat} {kind : Nat} {peer : List Octet} {pub : List Octet} {t_ : State} {r_ : Rep} (e_ : createFor s w o typ kind peer pub = (t_, r_)) :
    t_.pending = s.pending ∧ t_.otp = s.otp ∧ (s.mem.wf = true → t_.mem.wf = true) := by
  have k := createFor_keep s w o typ kind peer pub; have w := createFor_wf s w o typ kind peer pub; rw [e_] at k w; exact ⟨k.1, k.2, w⟩

@[simp] theorem arriveFor_keep (s : State) (w : Who) (o : Obj) (typ : Nat) (kind : Nat) (peer : List Octet) :
    (arriveFor s w o typ kind peer).1.pending = s.pending ∧ (arriveFor s w o typ kind peer).1.otp = s.otp := by
  and_intros <;> grind [arriveFor, → takeImport_to, → createFor_to]
@[simp] theorem arriveFor_wf (s : State) (w : Who) (o : Obj) (typ : Nat) (kind : Nat) (peer : List Octet) (hm : s.mem.wf = true) : (arriveFor s w o typ kind peer).1.mem.wf = true := by
  grind [arriveFor, → takeImport_to, → createFor_to, createFor_wf]
theorem arriveFor_to {s : State} {w : Who} {o : Obj} {typ : Nat} {kind : Nat} {peer : List Octet} {t_ : State} {r_ : Rep} (e_ : arriveFor s w o typ kind peer = (t_, r_)) :
    t_.pending = s.pending ∧ t_.otp = s.otp ∧ (s.mem.wf = true → t_.mem.wf = true) := by
  have k := arriveFor_keep s w o typ kind peer; have w := arriveFor_wf s w o typ kind peer; rw [e_] at k w; exact ⟨k.1, k.2, w⟩

@[simp] theorem generateOp_keep (s : State) (w : Who) (blk : List Octet) :
    (generateOp s w blk).1.pending = s.pending ∧ (generateOp s w blk).1.otp = s.otp := by
  and_intros <;> simp [generateOp]
@[simp] theorem generateOp_wf (s : State) (w : Who) (blk : List Octet) (hm : s.mem.wf = true) : (generateOp s w blk).1.mem.wf = true := by
  simp [generateOp, hm]
theorem generateOp_to {s : State} {w : Who} {blk : List Octet} {t_ : State} {r_ : Rep} (e_ : generateOp s w blk = (t_, r_)) :
    t_.pending = s.pending ∧ t_.otp = s.otp ∧ (s.mem.wf = true → t_.mem.wf = true) := by
  have k := generateOp_keep s w blk; have w := generateOp_wf s w blk; rw [e_] at k w; exact ⟨k.1, k.2, w⟩

@[simp] theorem deriveOp_keep (s : State) (w : Who) (parent : Nat) (blk : List Octet) :
    (deriveOp s w parent blk).1.pending = s.pending ∧ (deriveOp s w parent blk).1.otp = s.otp := by
  and_intros <;> grind [deriveOp, → openObj_to, → arriveFor_to]
@[simp] theorem deriveOp_wf (s : State) (w : Who) (parent : Nat) (blk : List Octet) (hm : s.mem.wf = true) : (deriveOp s w parent blk).1.mem.wf = true := by
  grind [deriveOp, → openObj_to, → arriveFor_to, arriveFor_wf]
theorem deriveOp_to {s : State} {w : Who} {parent : Nat} {blk : List Octet} {t_ : State} {r_ : Rep} (e_ : deriveOp s w parent blk = (t_, r_)) :
    t_.pending = s.pending ∧ t_.otp = s.otp ∧ (s.mem.wf = true → t_.mem.wf = true) := by
  have k := deriveOp_keep s w parent blk; have w := deriveOp_wf s w parent blk; rw [e_] at k w; exact ⟨k.1, k.2, w⟩

@[simp] theorem restrictOp_keep (s : State) (w : Who) (h : Nat) (blk : List Octet) :
    (restrictOp s w h blk).1.pending = s.pending ∧ (restrictOp s w h blk).1.otp = s.otp := by
  and_intros <;> grind [restrictOp, → openObj_to, recordFor_keep, putObj_keep, dropCached_keep]
@[simp] theorem restrictOp_wf (s : State) (w : Who) (h : Nat) (blk : List Octet) (hm : s.mem.wf = true) : (restrictOp s w h blk).1.mem.wf = true := by
  grind [restrictOp, → openObj_to, recordFor_keep, putObj_keep, putObj_wf, dropCached_keep]
theorem restrictOp_to {s : State} {w : Who} {h : Nat} {blk : List Octet} {t_ : State} {r_ : Rep} (e_ : restrictOp s w h blk = (t_, r_)) :
    t_.pending = s.pending ∧ t_.otp = s.otp ∧ (s.mem.wf = true → t_.mem.wf = true) := by
  have k := restrictOp_keep s w h blk; have w := restrictOp_wf s w h blk; rw [e_] at k w; exact ⟨k.1, k.2, w⟩

@[simp] theorem infoOp_keep (s : State) (h : Nat) :
    (infoOp s h).1.pending = s.pending ∧ (infoOp s h).1.otp = s.otp := by
  and_intros <;> grind [infoOp, → openObj_to]
@[simp] theorem infoOp_wf (s : State) (h : Nat) (hm : s.mem.wf = true) : (infoOp s h).1.mem.wf = true := by
  grind [infoOp, → openObj_to, openObj_wf]
theorem infoOp_to {s : State} {h : Nat} {t_ : State} {r_ : Rep} (e_ : infoOp s h = (t_, r_)) :
    t_.pending = s.pending ∧ t_.otp = s.otp ∧ (s.mem.wf = true → t_.mem.wf = true) := by
  have k := infoOp_keep s h; have w := infoOp_wf s h; rw [e_] at k w; exact ⟨k.1, k.2, w⟩

@[simp] theorem destroyOp_keep (s : State) (w : Who) (h : Nat) (blk : List Octet) :
    (destroyOp s w h blk).1.pending = s.pending ∧ (destroyOp s w h blk).1.otp = s.otp := by
  and_intros <;> grind [destroyOp, → openObj_to, recordFor_keep, destroyObj_keep]
@[simp] theorem destroyOp_wf (s : State) (w : Who) (h : Nat) (blk : List Octet) (hm : s.mem.wf = true) : (destroyOp s w h blk).1.mem.wf = true := by
  grind [destroyOp, → openObj_to, recordFor_keep, destroyObj_keep, destroyObj_wf]
theorem destroyOp_to {s : State} {w : Who} {h : Nat} {blk : List Octet} {t_ : State} {r_ : Rep} (e_ : destroyOp s w h blk = (t_, r_)) :
    t_.pending = s.pending ∧ t_.otp = s.otp ∧ (s.mem.wf = true → t_.mem.wf = true) := by
  have k := destroyOp_keep s w h blk; have w := destroyOp_wf s w h blk; rw [e_] at k w; exact ⟨k.1, k.2, w⟩

@[simp] theorem transferBlob_keep (s : State) (dom : Nat) (serial : List Octet) (peer : List Octet × List Octet) (obj : List Octet) :
    (transferBlob s dom serial peer obj).2.pending = s.pending ∧ (transferBlob s dom serial peer obj).2.otp = s.otp ∧ (transferBlob s dom serial peer obj).2.mem = s.mem := by
  and_intros <;> simp [transferBlob]
theorem transferBlob_to {s : State} {dom : Nat} {serial : List Octet} {peer : List Octet × List Octet} {obj : List Octet} {t_ : State} {r_ : List Octet} (e_ : transferBlob s dom serial peer obj = (r_, t_)) :
    t_.pending = s.pending ∧ t_.otp = s.otp ∧ t_.mem = s.mem := by
  have k := transferBlob_keep s dom serial peer obj; rw [e_] at k; exact k

@[simp] theorem exportOp_keep (s : State) (w : Who) (blk : List Octet) :
    (exportOp s w blk).1.pending = s.pending ∧ (exportOp s w blk).1.otp = s.otp := by
  and_intros <;> grind [exportOp, → openObj_to, recordFor_keep, → transferBlob_to]
@[simp] theorem exportOp_wf (s : State) (w : Who) (blk : List Octet) (hm : s.mem.wf = true) : (exportOp s w blk).1.mem.wf = true := by
  grind [exportOp, → openObj_to, openObj_wf, recordFor_keep, → transferBlob_to]
theorem exportOp_to {s : State} {w : Who} {blk : List Octet} {t_ : State} {r_ : Rep} (e_ : exportOp s w blk = (t_, r_)) :
    t_.pending = s.pending ∧ t_.otp = s.otp ∧ (s.mem.wf = true → t_.mem.wf = true) := by
  have k := exportOp_keep s w blk; have w := exportOp_wf s w blk; rw [e_] at k w; exact ⟨k.1, k.2, w⟩

@[simp] theorem importOp_keep (s : State) (w : Who) (blk : List Octet) :
    (importOp s w blk).1.pending = s.pending ∧ (importOp s w blk).1.otp = s.otp := by
  and_intros <;> grind [importOp, → arriveFor_to, → openObj_to]
@[simp] theorem importOp_wf (s : State) (w : Who) (blk : List Octet) (hm : s.mem.wf = true) : (importOp s w blk).1.mem.wf = true := by
  grind [importOp, → arriveFor_to, arriveFor_wf, → openObj_to, openObj_wf]
theorem importOp_to {s : State} {w : Who} {blk : List Octet} {t_ : State} {r_ : Rep} (e_ : importOp s w blk = (t_, r_)) :
    t_.pending = s.pending ∧ t_.otp = s.otp ∧ (s.mem.wf = true → t_.mem.wf = true) := by
  have k := importOp_keep s w blk; have w := importOp_wf s w blk; rw [e_] at k w; exact ⟨k.1, k.2, w⟩

@[simp] theorem domainAbsent_keep (s : State) (d : Nat) :
    (domainAbsent s d).pending = s.pending ∧ (domainAbsent s d).otp = s.otp := by
  unfold domainAbsent; dsimp only; split <;> simp
@[simp] theorem domainAbsent_wf (s : State) (d : Nat) (hm : s.mem.wf = true) : (domainAbsent s d).mem.wf = true := by
  have h1 := foldl_wf (fun s i => (officerRec s d i).elim s (fun r => destroyObj s r)) (fun x e h => by simp [h]) s (List.range 16) hm
  unfold domainAbsent; dsimp only; split
  · exact h1
  · simpa using destroyObj_wf _ _ h1

@[simp] theorem destroyStep_keep (s : State) (d : Nat) :
    (destroyStep s d).pending = s.pending ∧ (destroyStep s d).otp = s.otp := by
  simp only [destroyStep]; (repeat' split) <;> simp_all
@[simp] theorem destroyStep_wf (s : State) (d : Nat) (hm : s.mem.wf = true) : (destroyStep s d).mem.wf = true := by
  simp only [destroyStep]; (repeat' split) <;> simp_all

@[simp] theorem ksOperation_keep (s : State) (w : Who) (op : Nat) (cmd blk : List Octet) :
    (ksOperation s w op cmd blk).1.pending = s.pending ∧ (ksOperation s w op cmd blk).1.otp = s.otp := by
  unfold ksOperation; split <;> simp
@[simp] theorem ksOperation_wf (s : State) (w : Who) (op : Nat) (cmd blk : List Octet) (hm : s.mem.wf = true) :
    (ksOperation s w op cmd blk).1.mem.wf = true := by
  unfold ksOperation; split <;> simp [hm]
theorem ksOperation_to {s : State} {w : Who} {op : Nat} {cmd : List Octet} {blk : List Octet} {t_ : State} {r_ : Rep} (e_ : ksOperation s w op cmd blk = (t_, r_)) :
    t_.pending = s.pending ∧ t_.otp = s.otp ∧ (s.mem.wf = true → t_.mem.wf = true) := by
  have k := ksOperation_keep s w op cmd blk; have w := ksOperation_wf s w op cmd blk; rw [e_] at k w; exact ⟨k.1, k.2, w⟩

@[simp] theorem ksRun_keep (s : State) (w : Who) (op : Nat) :
    (ksRun s w op).pending = s.pending ∧ (ksRun s w op).otp = s.otp := by
  and_intros <;> grind [ksRun, reportRefusal_keep, → ksOperation_to]
@[simp] theorem ksRun_wf (s : State) (w : Who) (op : Nat) (hm : s.mem.wf = true) : (ksRun s w op).mem.wf = true := by
  grind [ksRun, reportRefusal_keep, → ksOperation_to, ksOperation_wf]

@[simp] theorem ksStart_keep (s : State) (sc : Nat) (op : Nat) (arg : DWord) :
    (ksStart s sc op arg).pending = s.pending ∧ (ksStart s sc op arg).otp = s.otp := by
  and_intros <;> simp [ksStart]
@[simp] theorem ksStart_wf (s : State) (sc : Nat) (op : Nat) (arg : DWord) (hm : s.mem.wf = true) : (ksStart s sc op arg).mem.wf = true := by
  simp [ksStart, hm]

@[simp] theorem ksDone_keep (s : State) :
    (ksDone s).pending = s.pending ∧ (ksDone s).otp = s.otp := by
  and_intros <;> simp [ksDone]
@[simp] theorem ksDone_wf (s : State) (hm : s.mem.wf = true) : (ksDone s).mem.wf = true := by
  simp [ksDone, hm]

/-! ### Machine/Host.lean -/

@[simp] theorem endCmd_keep (s : State) (uid : Nat) (f : Cmd → Cmd) :
    (endCmd s uid f).pending = s.pending ∧ (endCmd s uid f).otp = s.otp ∧ (endCmd s uid f).mem = s.mem := by
  simp only [endCmd]; (repeat' split) <;> simp_all

@[simp] theorem releasePages_keep (s : State) (uid : Nat) :
    (releasePages s uid).pending = s.pending ∧ (releasePages s uid).otp = s.otp ∧ (releasePages s uid).mem = s.mem := by
  and_intros <;> simp [releasePages]

@[simp] theorem dropReqs_keep (s : State) (uid : Nat) :
    (dropReqs s uid).pending = s.pending ∧ (dropReqs s uid).otp = s.otp ∧ (dropReqs s uid).mem = s.mem := by
  and_intros <;> simp [dropReqs]

@[simp] theorem unpin_keep (s : State) (n : Nat) :
    (unpin s n).pending = s.pending ∧ (unpin s n).otp = s.otp ∧ (unpin s n).mem = s.mem := by
  and_intros <;> simp [unpin]

@[simp] theorem releasePins_keep (s : State) (c : Cmd) :
    (releasePins s c).pending = s.pending ∧ (releasePins s c).otp = s.otp ∧ (releasePins s c).mem = s.mem := by
  and_intros <;> simp [releasePins]

@[simp] theorem releaseAll_keep (s : State) (c : Cmd) :
    (releaseAll s c).pending = s.pending ∧ (releaseAll s c).otp = s.otp ∧ (releaseAll s c).mem = s.mem := by
  and_intros <;> simp [releaseAll]

@[simp] theorem refuseCmd_keep (s : State) (uid : Nat) (status : Nat) (r0 : Nat) :
    (refuseCmd s uid status r0).pending = s.pending ∧ (refuseCmd s uid status r0).otp = s.otp ∧ (refuseCmd s uid status r0).mem = s.mem := by
  and_intros <;> simp [refuseCmd]

@[simp] theorem acceptCmd_keep (s : State) (f : Nat) (q : Nat) (raw : List Octet) (ide : Bool) :
    (acceptCmd s f q raw ide).pending = s.pending ∧ (acceptCmd s f q raw ide).otp = s.otp ∧ (acceptCmd s f q raw ide).mem = s.mem := by
  and_intros <;> simp [acceptCmd]

@[simp] theorem sqTailWrite_keep (s : State) (f : Nat) (q : Nat) (v : Nat) :
    (sqTailWrite s f q v).pending = s.pending ∧ (sqTailWrite s f q v).otp = s.otp ∧ (sqTailWrite s f q v).mem = s.mem := by
  and_intros <;> simp [sqTailWrite]

@[simp] theorem cqHeadWrite_keep (s : State) (f : Nat) (q : Nat) (v : Nat) :
    (cqHeadWrite s f q v).pending = s.pending ∧ (cqHeadWrite s f q v).otp = s.otp ∧ (cqHeadWrite s f q v).mem = s.mem := by
  and_intros <;> simp [cqHeadWrite]

@[simp] theorem fetchCmd_keep (s : State) (f : Nat) (q : Nat) (ide : Bool) (data : List Octet) :
    (fetchCmd s f q ide data).pending = s.pending ∧ (fetchCmd s f q ide data).otp = s.otp ∧ (fetchCmd s f q ide data).mem = s.mem := by
  and_intros <;> simp [fetchCmd]

@[simp] theorem pushCmd_keep (s : State) (f : Nat) (q : Nat) (off : Nat) (oneTlp : Bool) (ide : Bool) (data : List Octet) :
    (pushCmd s f q off oneTlp ide data).pending = s.pending ∧ (pushCmd s f q off oneTlp ide data).otp = s.otp ∧ (pushCmd s f q off oneTlp ide data).mem = s.mem := by
  and_intros <;> simp [pushCmd]

@[simp] theorem admitOne_keep (s : State) (f : Nat) :
    (admitOne s f).pending = s.pending ∧ (admitOne s f).otp = s.otp ∧ (admitOne s f).mem = s.mem := by
  simp only [admitOne]; (repeat' split) <;> simp_all

@[simp] theorem raiseQueue_keep (s : State) (f : Nat) (x : Nat) :
    (raiseQueue s f x).pending = s.pending ∧ (raiseQueue s f x).otp = s.otp ∧ (raiseQueue s f x).mem = s.mem := by
  and_intros <;> simp [raiseQueue]

@[simp] theorem freezeCheck_keep (s : State) (f : Nat) :
    (freezeCheck s f).pending = s.pending ∧ (freezeCheck s f).otp = s.otp ∧ (freezeCheck s f).mem = s.mem := by
  and_intros <;> simp [freezeCheck]

@[simp] theorem writeCompletion_keep (s : State) (f : Nat) (q : Nat) :
    (writeCompletion s f q).pending = s.pending ∧ (writeCompletion s f q).otp = s.otp ∧ (writeCompletion s f q).mem = s.mem := by
  simp only [writeCompletion]; (repeat' split) <;> simp_all

@[simp] theorem moderationTimer_keep (s : State) (f : Nat) (q : Nat) :
    (moderationTimer s f q).pending = s.pending ∧ (moderationTimer s f q).otp = s.otp ∧ (moderationTimer s f q).mem = s.mem := by
  and_intros <;> simp [moderationTimer]

@[simp] theorem putQctl_keep (s : State) (x : Nat) (v : Nat) :
    (putQctl s x v).pending = s.pending ∧ (putQctl s x v).otp = s.otp ∧ (putQctl s x v).mem = s.mem := by
  and_intros <;> simp [putQctl]

@[simp] theorem returnHeld_keep (s : State) (f : Nat) (q : Nat) :
    (returnHeld s f q).pending = s.pending ∧ (returnHeld s f q).otp = s.otp ∧ (returnHeld s f q).mem = s.mem := by
  and_intros <;> simp [returnHeld]

@[simp] theorem qRefuse_keep (s : State) (x : Nat) (cause : Nat) :
    (qRefuse s x cause).pending = s.pending ∧ (qRefuse s x cause).otp = s.otp ∧ (qRefuse s x cause).mem = s.mem := by
  and_intros <;> simp [qRefuse]

@[simp] theorem qctlWrite_keep (s : State) (f : Nat) (q : Nat) (v : Nat) :
    (qctlWrite s f q v).pending = s.pending ∧ (qctlWrite s f q v).otp = s.otp ∧ (qctlWrite s f q v).mem = s.mem := by
  and_intros <;> simp [qctlWrite]

@[simp] theorem showReport_keep (s : State) (p : Nat) :
    (showReport s p).pending = s.pending ∧ (showReport s p).otp = s.otp ∧ (showReport s p).mem = s.mem := by
  simp only [showReport]; (repeat' split) <;> simp_all

@[simp] theorem pushReport_keep (s : State) (p : Nat) (f : Nat) (n : Nat) :
    (pushReport s p f n).pending = s.pending ∧ (pushReport s p f n).otp = s.otp ∧ (pushReport s p f n).mem = s.mem := by
  and_intros <;> simp [pushReport]

@[simp] theorem popReport_keep (s : State) (p : Nat) :
    (popReport s p).pending = s.pending ∧ (popReport s p).otp = s.otp ∧ (popReport s p).mem = s.mem := by
  and_intros <;> simp [popReport]

@[simp] theorem stopInst_keep (s : State) (uid : Nat) (k : StopKind) :
    (stopInst s uid k).pending = s.pending ∧ (stopInst s uid k).otp = s.otp ∧ (stopInst s uid k).mem = s.mem := by
  and_intros <;> simp [stopInst]

@[simp] theorem discardCmds_keep (s : State) (f : Nat) :
    (discardCmds s f).pending = s.pending ∧ (discardCmds s f).otp = s.otp ∧ (discardCmds s f).mem = s.mem := by
  and_intros <;> simp [discardCmds]

@[simp] theorem functionReset_keep (s : State) (f : Nat) :
    (functionReset s f).pending = s.pending ∧ (functionReset s f).otp = s.otp ∧ (functionReset s f).mem = s.mem := by
  and_intros <;> simp [functionReset]

@[simp] theorem flrVf_keep (s : State) (f : Nat) :
    (flrVf s f).pending = s.pending ∧ (flrVf s f).otp = s.otp ∧ (flrVf s f).mem = s.mem := by
  and_intros <;> simp [flrVf]

@[simp] theorem pfLapses_keep (s : State) (p : Nat) :
    (pfLapses s p).pending = s.pending ∧ (pfLapses s p).otp = s.otp ∧ (pfLapses s p).mem = s.mem := by
  and_intros <;> simp [pfLapses]

@[simp] theorem flrPf_keep (s : State) (p : Nat) :
    (flrPf s p).pending = s.pending ∧ (flrPf s p).otp = s.otp ∧ (flrPf s p).mem = s.mem := by
  and_intros <;> simp [flrPf]

@[simp] theorem portReset_keep (s : State) (p : Nat) :
    (portReset s p).pending = s.pending ∧ (portReset s p).otp = s.otp ∧ (portReset s p).mem = s.mem := by
  and_intros <;> simp [portReset]

@[simp] theorem configWrite13_keep (s : State) (a : ConfigWrite) :
    (configWrite13 s a).pending = s.pending ∧ (configWrite13 s a).otp = s.otp ∧ (configWrite13 s a).mem = s.mem := by
  simp only [configWrite13]; (repeat' split) <;> simp_all

end Sys2Proof.Machine
end

