-- ==== Sys2Proof/Laws/KeepQuad.lean ====
section
/-! SUPPORT. One lemma per operation of the quadrille, custody, functions and measurements: the queue and OTP it leaves alone, memory it leaves alone or keeps
canonical (names ending in `_keep` and `_wf`; `_to` says the same of a state that an equation names). -/
namespace Sys2Proof.Machine

/-! ### Machine/Quad.lean -/

@[simp] theorem plxRecord_keep (s : State) (arg : Nat) (payload : List Octet) :
    (plxRecord s arg payload).pending = s.pending ∧ (plxRecord s arg payload).otp = s.otp ∧ (plxRecord s arg payload).mem = s.mem := by
  and_intros <;> simp [plxRecord]

@[simp] theorem rosterCounts_keep (s : State) :
    (rosterCounts s).pending = s.pending ∧ (rosterCounts s).otp = s.otp ∧ (rosterCounts s).mem = s.mem := by
  and_intros <;> simp [rosterCounts]

@[simp] theorem putEntry_keep (s : State) (e : List Octet) :
    (putEntry s e).pending = s.pending ∧ (putEntry s e).otp = s.otp := by
  simp only [putEntry]; (repeat' split) <;> simp_all
@[simp] theorem putEntry_wf (s : State) (e : List Octet) (hm : s.mem.wf = true) : (putEntry s e).mem.wf = true := by
  simp only [putEntry]; (repeat' split) <;> simp_all

@[simp] theorem signEntry_keep (s : State) (m : Nat) (st : Nat) (tenure : Nat) (serial : List Octet) (idDig : List Octet) (trDig : List Octet) :
    (signEntry s m st tenure serial idDig trDig).2.pending = s.pending ∧ (signEntry s m st tenure serial idDig trDig).2.otp = s.otp := by
  and_intros <;> simp [signEntry]
@[simp] theorem signEntry_wf (s : State) (m : Nat) (st : Nat) (tenure : Nat) (serial : List Octet) (idDig : List Octet) (trDig : List Octet) (hm : s.mem.wf = true) : (signEntry s m st tenure serial idDig trDig).2.mem.wf = true := by
  simp [signEntry, hm]

@[simp] theorem plxRefresh_keep (s : State) :
    (plxRefresh s).pending = s.pending ∧ (plxRefresh s).otp = s.otp ∧ (plxRefresh s).mem = s.mem := by
  and_intros <;> simp [plxRefresh]

@[simp] theorem leaveQuadrille_keep (s : State) :
    (leaveQuadrille s).pending = s.pending ∧ (leaveQuadrille s).otp = s.otp ∧ (leaveQuadrille s).mem = s.mem := by
  and_intros <;> simp [leaveQuadrille]

@[simp] theorem emitFrames_keep (s : State) (port : Nat) (l : List (List Octet)) :
    (emitFrames s port l).pending = s.pending ∧ (emitFrames s port l).otp = s.otp ∧ (emitFrames s port l).mem = s.mem := by
  and_intros <;> simp [emitFrames]

@[simp] theorem sendClear_keep (s : State) (port : Nat) (typ : Nat) (dst : Nat) (id : Nat) (body : List Octet) :
    (sendClear s port typ dst id body).pending = s.pending ∧ (sendClear s port typ dst id body).otp = s.otp ∧ (sendClear s port typ dst id body).mem = s.mem := by
  and_intros <;> simp [sendClear]

@[simp] theorem touchKey_keep (s : State) (m : Nat) :
    (touchKey s m).pending = s.pending ∧ (touchKey s m).otp = s.otp ∧ (touchKey s m).mem = s.mem := by
  simp only [touchKey]; (repeat' split) <;> simp_all

@[simp] theorem startPair_keep (s : State) (m : Nat) :
    (startPair s m).pending = s.pending ∧ (startPair s m).otp = s.otp ∧ (startPair s m).mem = s.mem := by
  simp only [startPair]; (repeat' split) <;> simp_all

@[simp] theorem transmit_keep (s : State) (x : PlxMsg) (ackReq : Bool) :
    (transmit s x ackReq).pending = s.pending ∧ (transmit s x ackReq).otp = s.otp ∧ (transmit s x ackReq).mem = s.mem := by
  and_intros <;> simp [transmit]

@[simp] theorem sendMsg_keep (s : State) (m : Nat) (typ : Nat) (body : List Octet) (ackReq : Bool) :
    (sendMsg s m typ body ackReq).pending = s.pending ∧ (sendMsg s m typ body ackReq).otp = s.otp ∧ (sendMsg s m typ body ackReq).mem = s.mem := by
  simp only [sendMsg]; (repeat' split) <;> simp_all

@[simp] theorem moveMsg_keep (s : State) (x : PlxMsg) :
    (moveMsg s x).pending = s.pending ∧ (moveMsg s x).otp = s.otp ∧ (moveMsg s x).mem = s.mem := by
  simp only [moveMsg]; (repeat' split) <;> simp_all

@[simp] theorem dropFrame_keep (s : State) (port : Nat) :
    (dropFrame s port).pending = s.pending ∧ (dropFrame s port).otp = s.otp ∧ (dropFrame s port).mem = s.mem := by
  and_intros <;> simp [dropFrame]

@[simp] theorem takeFrame_keep (s : State) (port : Nat) (typ : Nat) (f : List Octet) :
    (takeFrame s port typ f).1.pending = s.pending ∧ (takeFrame s port typ f).1.otp = s.otp ∧ (takeFrame s port typ f).1.mem = s.mem := by
  simp only [takeFrame]; (repeat' split) <;> simp_all
theorem takeFrame_to {s : State} {port : Nat} {typ : Nat} {f : List Octet} {t_ : State} {r_ : Option (List Octet)} (e_ : takeFrame s port typ f = (t_, r_)) :
    t_.pending = s.pending ∧ t_.otp = s.otp ∧ t_.mem = s.mem := by
  have k := takeFrame_keep s port typ f; rw [e_] at k; exact k

@[simp] theorem takeFrames_keep (s : State) (port : Nat) (typ : Nat) (fs : List (List Octet)) :
    (takeFrames s port typ fs).1.pending = s.pending ∧ (takeFrames s port typ fs).1.otp = s.otp ∧ (takeFrames s port typ fs).1.mem = s.mem := by
  and_intros <;> simp [takeFrames]
theorem takeFrames_to {s : State} {port : Nat} {typ : Nat} {fs : List (List Octet)} {t_ : State} {r_ : Option (List Octet)} (e_ : takeFrames s port typ fs = (t_, r_)) :
    t_.pending = s.pending ∧ t_.otp = s.otp ∧ t_.mem = s.mem := by
  have k := takeFrames_keep s port typ fs; rw [e_] at k; exact k

@[simp] theorem sendAck_keep (s : State) (m : Nat) (id : Nat) (outcome : Nat) :
    (sendAck s m id outcome).pending = s.pending ∧ (sendAck s m id outcome).otp = s.otp ∧ (sendAck s m id outcome).mem = s.mem := by
  and_intros <;> simp [sendAck]

@[simp] theorem plxDeliver_pending (s : State) (port typ : Nat) (fs : List (List Octet)) (act : State → Nat → List Octet → State × Nat) (h : ∀ x m b, (act x m b).1.pending = x.pending) : (plxDeliver s port typ fs act).pending = s.pending := by
  cases e : takeFrames s port typ fs with | mk t r =>
  have := takeFrames_to e
  cases r <;> simp only [plxDeliver, e] <;> (repeat' split) <;> simp_all
@[simp] theorem plxDeliver_otp (s : State) (port typ : Nat) (fs : List (List Octet)) (act : State → Nat → List Octet → State × Nat) (h : ∀ x m b, (act x m b).1.otp = x.otp) : (plxDeliver s port typ fs act).otp = s.otp := by
  cases e : takeFrames s port typ fs with | mk t r =>
  have := takeFrames_to e
  cases r <;> simp only [plxDeliver, e] <;> (repeat' split) <;> simp_all
@[simp] theorem plxDeliver_mem (s : State) (port typ : Nat) (fs : List (List Octet)) (act : State → Nat → List Octet → State × Nat) (h : ∀ x m b, (act x m b).1.mem = x.mem) : (plxDeliver s port typ fs act).mem = s.mem := by
  cases e : takeFrames s port typ fs with | mk t r =>
  have := takeFrames_to e
  cases r <;> simp only [plxDeliver, e] <;> (repeat' split) <;> simp_all
@[simp] theorem plxDeliver_wf (s : State) (port typ : Nat) (fs : List (List Octet)) (act : State → Nat → List Octet → State × Nat) (h : ∀ x m b, x.mem.wf = true → (act x m b).1.mem.wf = true) (hs : s.mem.wf = true) : (plxDeliver s port typ fs act).mem.wf = true := by
  cases e : takeFrames s port typ fs with | mk t r =>
  have := takeFrames_to e
  cases r <;> simp only [plxDeliver, e] <;> (repeat' split) <;> simp_all

@[simp] theorem contest_keep (s : State) (m : Nat) (e : Nat) :
    (contest s m e).pending = s.pending ∧ (contest s m e).otp = s.otp := by
  and_intros <;> simp [contest]
@[simp] theorem contest_wf (s : State) (m : Nat) (e : Nat) (hm : s.mem.wf = true) : (contest s m e).mem.wf = true := by
  simp only [contest]; (repeat' split) <;> simp_all

@[simp] theorem heardClaim_keep (s : State) (m : Nat) (e : Nat) :
    (heardClaim s m e).pending = s.pending ∧ (heardClaim s m e).otp = s.otp := by
  simp only [heardClaim]; (repeat' split) <;> simp_all
@[simp] theorem heardClaim_wf (s : State) (m : Nat) (e : Nat) (hm : s.mem.wf = true) : (heardClaim s m e).mem.wf = true := by
  simp only [heardClaim]; (repeat' split) <;> simp_all

@[simp] theorem helloFrame_keep (s : State) (port : Nat) (f : List Octet) :
    (helloFrame s port f).pending = s.pending ∧ (helloFrame s port f).otp = s.otp := by
  and_intros <;> grind [helloFrame, → takeFrame_to, sendClear_keep, State.setPlx_frame, heardClaim_keep]
@[simp] theorem helloFrame_wf (s : State) (port : Nat) (f : List Octet) (hm : s.mem.wf = true) : (helloFrame s port f).mem.wf = true := by
  grind [helloFrame, → takeFrame_to, sendClear_keep, State.setPlx_frame, heardClaim_keep, heardClaim_wf]

@[simp] theorem sendHellos_keep (s : State) :
    (sendHellos s).pending = s.pending ∧ (sendHellos s).otp = s.otp ∧ (sendHellos s).mem = s.mem := by
  and_intros <;> simp [sendHellos]

@[simp] theorem pathDown_keep (s : State) (m : Nat) (port : Nat) :
    (pathDown s m port).pending = s.pending ∧ (pathDown s m port).otp = s.otp ∧ (pathDown s m port).mem = s.mem := by
  and_intros <;> simp [pathDown]

@[simp] theorem lockLost_keep (s : State) (port : Nat) :
    (lockLost s port).pending = s.pending ∧ (lockLost s port).otp = s.otp ∧ (lockLost s port).mem = s.mem := by
  and_intros <;> simp [lockLost]

@[simp] theorem lockGained_keep (s : State) (port : Nat) :
    (lockGained s port).pending = s.pending ∧ (lockGained s port).otp = s.otp ∧ (lockGained s port).mem = s.mem := by
  and_intros <;> simp [lockGained]

@[simp] theorem retryMsg_keep (s : State) (id : Nat) :
    (retryMsg s id).pending = s.pending ∧ (retryMsg s id).otp = s.otp ∧ (retryMsg s id).mem = s.mem := by
  simp only [retryMsg]; (repeat' split) <;> simp_all

@[simp] theorem resendTo_keep (s : State) (m : Nat) :
    (resendTo s m).pending = s.pending ∧ (resendTo s m).otp = s.otp ∧ (resendTo s m).mem = s.mem := by
  and_intros <;> simp [resendTo]

@[simp] theorem pairMessage_keep (s : State) (port : Nat) (fs : List (List Octet)) :
    (pairMessage s port fs).pending = s.pending ∧ (pairMessage s port fs).otp = s.otp ∧ (pairMessage s port fs).mem = s.mem := by
  and_intros <;> grind [pairMessage, → takeFrames_to, startPair_keep, State.setPlx_frame, → signBoth_to, sendClear_keep, resendTo_keep, touchKey_keep]

@[simp] theorem askStatement_keep (s : State) (m : Nat) :
    (askStatement s m).pending = s.pending ∧ (askStatement s m).otp = s.otp ∧ (askStatement s m).mem = s.mem := by
  and_intros <;> simp [askStatement]

@[simp] theorem sendRoster_keep (s : State) (e : List Octet) :
    (sendRoster s e).pending = s.pending ∧ (sendRoster s e).otp = s.otp ∧ (sendRoster s e).mem = s.mem := by
  and_intros <;> simp [sendRoster]

@[simp] theorem retireMember_keep (s : State) (m : Nat) :
    (retireMember s m).pending = s.pending ∧ (retireMember s m).otp = s.otp := by
  and_intros <;> simp [retireMember]
@[simp] theorem retireMember_wf (s : State) (m : Nat) (hm : s.mem.wf = true) : (retireMember s m).mem.wf = true := by
  simp [retireMember, hm]

@[simp] theorem setRole_keep (s : State) (d : Nat) (role : Nat) (home : Nat) :
    (setRole s d role home).pending = s.pending ∧ (setRole s d role home).otp = s.otp ∧ (setRole s d role home).mem = s.mem := by
  and_intros <;> simp [setRole]

@[simp] theorem lagRefresh_keep (s : State) (d : Nat) :
    (lagRefresh s d).pending = s.pending ∧ (lagRefresh s d).otp = s.otp ∧ (lagRefresh s d).mem = s.mem := by
  and_intros <;> simp [lagRefresh]

@[simp] theorem updateBody_keep (s : State) (m : Nat) (d : Nat) (n : Nat) (o : List Octet) :
    (updateBody s m d n o).2.pending = s.pending ∧ (updateBody s m d n o).2.otp = s.otp ∧ (updateBody s m d n o).2.mem = s.mem := by
  simp only [updateBody]; (repeat' split) <;> simp_all

@[simp] theorem sendUpdate_keep (s : State) (d : Nat) (n : Nat) (o : List Octet) (m : Nat) :
    (sendUpdate s d n o m).pending = s.pending ∧ (sendUpdate s d n o m).otp = s.otp ∧ (sendUpdate s d n o m).mem = s.mem := by
  simp only [sendUpdate]; (repeat' split) <;> simp_all

@[simp] theorem plxUpdate_keep (s : State) (d : Nat) (o : List Octet) :
    (plxUpdate s d o).pending = s.pending ∧ (plxUpdate s d o).otp = s.otp ∧ (plxUpdate s d o).mem = s.mem := by
  and_intros <;> simp [plxUpdate]

@[simp] theorem plxKey_keep (s : State) (h : Nat) :
    (plxKey s h).pending = s.pending ∧ (plxKey s h).otp = s.otp ∧ (plxKey s h).mem = s.mem := by
  and_intros <;> simp [plxKey]

@[simp] theorem plxKeyGone_keep (s : State) (h : Nat) :
    (plxKeyGone s h).pending = s.pending ∧ (plxKeyGone s h).otp = s.otp ∧ (plxKeyGone s h).mem = s.mem := by
  and_intros <;> simp [plxKeyGone]

@[simp] theorem plxKeyLess_keep (s : State) (h : Nat) :
    (plxKeyLess s h).pending = s.pending ∧ (plxKeyLess s h).otp = s.otp ∧ (plxKeyLess s h).mem = s.mem := by
  and_intros <;> simp [plxKeyLess]

@[simp] theorem plxRecords_keep (s : State) (d : Nat) :
    (plxRecords s d).pending = s.pending ∧ (plxRecords s d).otp = s.otp ∧ (plxRecords s d).mem = s.mem := by
  and_intros <;> simp [plxRecords]

@[simp] theorem plxAll_keep (s : State) (d : Nat) :
    (plxAll s d).pending = s.pending ∧ (plxAll s d).otp = s.otp ∧ (plxAll s d).mem = s.mem := by
  and_intros <;> simp [plxAll]

@[simp] theorem applyRecords_keep (s : State) (d : Nat) (o : List Octet) :
    (applyRecords s d o).pending = s.pending ∧ (applyRecords s d o).otp = s.otp := by
  cases hs : splitMats 17 o <;> simp [applyRecords, hs]
@[simp] theorem applyRecords_wf (s : State) (d : Nat) (o : List Octet) (hm : s.mem.wf = true) : (applyRecords s d o).mem.wf = true := by
  have h1 := foldl_wf (fun s i => (officerRec s d i).elim s (fun r => destroyObj s r)) (fun x e h => by simp [h]) s (List.range 16) hm
  have h2 := elim_wf (policyRec (List.foldl (fun s i => (officerRec s d i).elim s (fun r => destroyObj s r)) s (List.range 16)) d) _
    (fun r => destroyObj _ r) (fun r => destroyObj_wf _ r h1) h1
  cases hs : splitMats 17 o with
  | nil => simpa [applyRecords, hs] using h2
  | cons x l => simpa [applyRecords, hs] using createAll_wf _ _ h2

@[simp] theorem placeReplica_keep (s : State) (h : Nat) (blob : List Octet) :
    (placeReplica s h blob).1.pending = s.pending ∧ (placeReplica s h blob).1.otp = s.otp := by
  cases e : takeImport s false with | mk t r =>
  have := takeImport_to e
  cases hu : (openTransferBlob s blob).bind (fun p => unpackObj p (hDom h)) <;> cases r <;>
    simp only [placeReplica, e, hu] <;> (repeat' split) <;> simp_all
@[simp] theorem placeReplica_wf (s : State) (h : Nat) (blob : List Octet) (hm : s.mem.wf = true) :
    (placeReplica s h blob).1.mem.wf = true := by
  cases e : takeImport s false with | mk t r =>
  have := takeImport_to e
  cases hu : (openTransferBlob s blob).bind (fun p => unpackObj p (hDom h)) <;> cases r <;>
    simp only [placeReplica, e, hu] <;> (repeat' split) <;> simp_all
  exact addUsed_wf _ _ _ _ (putObj_wf _ _ _ (foldl_wf _ (fun x e h => putMap_wf _ _ _ h) _ _ (by simp_all)))

@[simp] theorem dropReplica_keep (s : State) (d : Nat) :
    (dropReplica s d).pending = s.pending ∧ (dropReplica s d).otp = s.otp := by
  simp only [dropReplica]; (repeat' split) <;> simp_all
@[simp] theorem dropReplica_wf (s : State) (d : Nat) (hm : s.mem.wf = true) : (dropReplica s d).mem.wf = true := by
  simp only [dropReplica]; (repeat' split) <;> simp_all

@[simp] theorem moveHome_keep (s : State) (d : Nat) (o : List Octet) :
    (moveHome s d o).pending = s.pending ∧ (moveHome s d o).otp = s.otp ∧ (moveHome s d o).mem = s.mem := by
  and_intros <;> simp [moveHome]

@[simp] theorem applyUpdate_keep (s : State) (d : Nat) (o : List Octet) :
    (applyUpdate s d o).1.pending = s.pending ∧ (applyUpdate s d o).1.otp = s.otp := by
  simp only [applyUpdate]; (repeat' split) <;> simp_all
@[simp] theorem applyUpdate_wf (s : State) (d : Nat) (o : List Octet) (hm : s.mem.wf = true) : (applyUpdate s d o).1.mem.wf = true := by
  simp only [applyUpdate]; (repeat' split) <;> simp_all
theorem applyUpdate_to {s : State} {d : Nat} {o : List Octet} {t_ : State} {r_ : Nat} (e_ : applyUpdate s d o = (t_, r_)) :
    t_.pending = s.pending ∧ t_.otp = s.otp ∧ (s.mem.wf = true → t_.mem.wf = true) := by
  have k := applyUpdate_keep s d o; have w := applyUpdate_wf s d o; rw [e_] at k w; exact ⟨k.1, k.2, w⟩

@[simp] theorem applyHeld_keep (n : Nat) (s : State) (d : Nat) :
    (applyHeld n s d).pending = s.pending ∧ (applyHeld n s d).otp = s.otp := by
  induction n generalizing s with
  | zero => simp [applyHeld]
  | succ n ih => simp only [applyHeld]; split <;> simp_all
@[simp] theorem applyHeld_wf (n : Nat) (s : State) (d : Nat) (hm : s.mem.wf = true) : (applyHeld n s d).mem.wf = true := by
  induction n generalizing s with
  | zero => simpa [applyHeld] using hm
  | succ n ih => simp only [applyHeld]; split <;> simp_all

@[simp] theorem replicaMessage_keep (s : State) (m : Nat) (b : List Octet) :
    (replicaMessage s m b).1.pending = s.pending ∧ (replicaMessage s m b).1.otp = s.otp := by
  and_intros <;> simp [replicaMessage]
@[simp] theorem replicaMessage_wf (s : State) (m : Nat) (b : List Octet) (hm : s.mem.wf = true) : (replicaMessage s m b).1.mem.wf = true := by
  simp [replicaMessage, hm]

@[simp] theorem resyncMessage_keep (s : State) (m : Nat) (b : List Octet) :
    (resyncMessage s m b).1.pending = s.pending ∧ (resyncMessage s m b).1.otp = s.otp ∧ (resyncMessage s m b).1.mem = s.mem := by
  and_intros <;> simp [resyncMessage]

@[simp] theorem statementMessage_keep (s : State) (m : Nat) (b : List Octet) :
    (statementMessage s m b).1.pending = s.pending ∧ (statementMessage s m b).1.otp = s.otp := by
  and_intros <;> simp [statementMessage]
@[simp] theorem statementMessage_wf (s : State) (m : Nat) (b : List Octet) (hm : s.mem.wf = true) : (statementMessage s m b).1.mem.wf = true := by
  simp [statementMessage, hm]

@[simp] theorem ackMessage_keep (s : State) (m : Nat) (b : List Octet) :
    (ackMessage s m b).1.pending = s.pending ∧ (ackMessage s m b).1.otp = s.otp ∧ (ackMessage s m b).1.mem = s.mem := by
  simp only [ackMessage]; (repeat' split) <;> simp_all

@[simp] theorem rosterMessage_keep (s : State) (m : Nat) (b : List Octet) :
    (rosterMessage s m b).1.pending = s.pending ∧ (rosterMessage s m b).1.otp = s.otp := by
  and_intros <;> simp [rosterMessage]
@[simp] theorem rosterMessage_wf (s : State) (m : Nat) (b : List Octet) (hm : s.mem.wf = true) : (rosterMessage s m b).1.mem.wf = true := by
  simp only [rosterMessage]; (repeat' split) <;> simp_all

@[simp] theorem joinFails_keep (s : State) (status : Nat) :
    (joinFails s status).pending = s.pending ∧ (joinFails s status).otp = s.otp ∧ (joinFails s status).mem = s.mem := by
  and_intros <;> simp [joinFails]

@[simp] theorem pendShow_keep (s : State) :
    (pendShow s).pending = s.pending ∧ (pendShow s).otp = s.otp ∧ (pendShow s).mem = s.mem := by
  simp only [pendShow]; (repeat' split) <;> simp_all

@[simp] theorem sendJoin_keep (s : State) (port : Nat) (body : List Octet) :
    (sendJoin s port body).pending = s.pending ∧ (sendJoin s port body).otp = s.otp ∧ (sendJoin s port body).mem = s.mem := by
  and_intros <;> simp [sendJoin]

@[simp] theorem joined_keep (s : State) (q : Nat) (callerSerial : List Octet) (l : List (List Octet)) :
    (joined s q callerSerial l).pending = s.pending ∧ (joined s q callerSerial l).otp = s.otp := by
  simp only [joined]; (repeat' split) <;> simp_all
@[simp] theorem joined_wf (s : State) (q : Nat) (callerSerial : List Octet) (l : List (List Octet)) (hm : s.mem.wf = true) : (joined s q callerSerial l).mem.wf = true := by
  simp only [joined]; (repeat' split) <;> simp_all

@[simp] theorem joinMsg_keep (s : State) (port : Nat) (fs : List (List Octet)) :
    (joinMsg s port fs).pending = s.pending ∧ (joinMsg s port fs).otp = s.otp := by
  cases e : takeFrames s port 2 fs with | mk t r =>
  have := takeFrames_to e
  cases r <;> simp only [joinMsg, e] <;> (repeat' split) <;> simp_all
@[simp] theorem joinMsg_wf (s : State) (port : Nat) (fs : List (List Octet)) (hm : s.mem.wf = true) :
    (joinMsg s port fs).mem.wf = true := by
  cases e : takeFrames s port 2 fs with | mk t r =>
  have := takeFrames_to e
  cases r <;> simp only [joinMsg, e] <;> (repeat' split) <;> simp_all

@[simp] theorem plxCommand_pending (s : State) (m : Requester) (act : Nat) (f : State → State) (h : ∀ x, (f x).pending = x.pending) : (plxCommand s m act f).pending = s.pending := by
  simp only [plxCommand]; (repeat' split) <;> simp_all
@[simp] theorem plxCommand_otp (s : State) (m : Requester) (act : Nat) (f : State → State) (h : ∀ x, (f x).otp = x.otp) : (plxCommand s m act f).otp = s.otp := by
  simp only [plxCommand]; (repeat' split) <;> simp_all
@[simp] theorem plxCommand_mem (s : State) (m : Requester) (act : Nat) (f : State → State) (h : ∀ x, (f x).mem = x.mem) : (plxCommand s m act f).mem = s.mem := by
  simp only [plxCommand]; (repeat' split) <;> simp_all
@[simp] theorem plxCommand_wf (s : State) (m : Requester) (act : Nat) (f : State → State) (h : ∀ x, x.mem.wf = true → (f x).mem.wf = true) (hs : s.mem.wf = true) : (plxCommand s m act f).mem.wf = true := by
  simp only [plxCommand]; (repeat' split) <;> simp_all

@[simp] theorem plxEnds_keep (s : State) (status : Nat) :
    (plxEnds s status).pending = s.pending ∧ (plxEnds s status).otp = s.otp ∧ (plxEnds s status).mem = s.mem := by
  and_intros <;> simp [plxEnds]

@[simp] theorem joinStart_keep (s : State) :
    (joinStart s).pending = s.pending ∧ (joinStart s).otp = s.otp ∧ (joinStart s).mem = s.mem := by
  and_intros <;> simp [joinStart]

@[simp] theorem dropJoiner_keep (s : State) (j : List Octet) (body : List Octet) :
    (dropJoiner s j body).pending = s.pending ∧ (dropJoiner s j body).otp = s.otp ∧ (dropJoiner s j body).mem = s.mem := by
  and_intros <;> simp [dropJoiner]

@[simp] theorem admitOp_keep (s : State) :
    (admitOp s).pending = s.pending ∧ (admitOp s).otp = s.otp := by
  simp only [admitOp]; (repeat' split) <;> simp_all
@[simp] theorem admitOp_wf (s : State) (hm : s.mem.wf = true) : (admitOp s).mem.wf = true := by
  simp only [admitOp]; (repeat' split) <;> simp_all

@[simp] theorem refuseOp_keep (s : State) :
    (refuseOp s).pending = s.pending ∧ (refuseOp s).otp = s.otp ∧ (refuseOp s).mem = s.mem := by
  simp only [refuseOp]; (repeat' split) <;> simp_all

@[simp] theorem leaveOp_keep (s : State) : (leaveOp s).pending = s.pending ∧ (leaveOp s).otp = s.otp := by
  simp only [leaveOp]; (repeat' split) <;> simp
@[simp] theorem leaveOp_wf (s : State) (hm : s.mem.wf = true) : (leaveOp s).mem.wf = true := by
  simp only [leaveOp]; (repeat' split) <;> simp [hm]

@[simp] theorem admitTimeout_keep (s : State) :
    (admitTimeout s).pending = s.pending ∧ (admitTimeout s).otp = s.otp ∧ (admitTimeout s).mem = s.mem := by
  simp only [admitTimeout]; (repeat' split) <;> simp_all

@[simp] theorem replicationOp_keep (s : State) (blk : List Octet) :
    (replicationOp s blk).1.pending = s.pending ∧ (replicationOp s blk).1.otp = s.otp := by
  and_intros <;> simp [replicationOp]
@[simp] theorem replicationOp_wf (s : State) (blk : List Octet) (hm : s.mem.wf = true) : (replicationOp s blk).1.mem.wf = true := by
  simp [replicationOp, hm]

/-! ### Machine/Custody.lean -/

@[simp] theorem freeBallot_keep (s : State) :
    (freeBallot s).1.pending = s.pending ∧ (freeBallot s).1.otp = s.otp ∧ (freeBallot s).1.mem = s.mem := by
  simp only [freeBallot]; (repeat' split) <;> simp_all
theorem freeBallot_to {s : State} {t_ : State} {r_ : Option Nat} (e_ : freeBallot s = (t_, r_)) :
    t_.pending = s.pending ∧ t_.otp = s.otp ∧ t_.mem = s.mem := by
  have k := freeBallot_keep s; rw [e_] at k; exact k

@[simp] theorem openBallot_keep (s : State) (w : Who) (b : Nat) (op : Nat) (dom : Nat) (opener : Nat) (ttl : Nat) (dig : List Octet) (block : List Octet) :
    (openBallot s w b op dom opener ttl dig block).1.pending = s.pending ∧ (openBallot s w b op dom opener ttl dig block).1.otp = s.otp ∧ (openBallot s w b op dom opener ttl dig block).1.mem = s.mem := by
  and_intros <;> simp [openBallot]
theorem openBallot_to {s : State} {w : Who} {b : Nat} {op : Nat} {dom : Nat} {opener : Nat} {ttl : Nat} {dig : List Octet} {block : List Octet} {t_ : State} {r_ : Rep} (e_ : openBallot s w b op dom opener ttl dig block = (t_, r_)) :
    t_.pending = s.pending ∧ t_.otp = s.otp ∧ t_.mem = s.mem := by
  have k := openBallot_keep s w b op dom opener ttl dig block; rw [e_] at k; exact k

@[simp] theorem ballotOpenOp_keep (s : State) (w : Who) (opener : Nat) (blk : List Octet) :
    (ballotOpenOp s w opener blk).1.pending = s.pending ∧ (ballotOpenOp s w opener blk).1.otp = s.otp ∧ (ballotOpenOp s w opener blk).1.mem = s.mem := by
  and_intros <;> grind [ballotOpenOp, → freeBallot_to, → openBallot_to]

@[simp] theorem expireFirst_keep (s : State) (b : Nat) :
    (expireFirst s b).pending = s.pending ∧ (expireFirst s b).otp = s.otp ∧ (expireFirst s b).mem = s.mem := by
  and_intros <;> simp [expireFirst]

@[simp] theorem countSignature_keep (s : State) (w : Who) (b : Nat) (i : Nat) (second : Bool) (m : Nat) :
    (countSignature s w b i second m).pending = s.pending ∧ (countSignature s w b i second m).otp = s.otp ∧ (countSignature s w b i second m).mem = s.mem := by
  and_intros <;> simp [countSignature]

@[simp] theorem ballotSignOp_keep (s : State) (w : Who) (blk : List Octet) :
    (ballotSignOp s w blk).1.pending = s.pending ∧ (ballotSignOp s w blk).1.otp = s.otp ∧ (ballotSignOp s w blk).1.mem = s.mem := by
  simp only [ballotSignOp]; (repeat' split) <;> simp_all

@[simp] theorem ballotCloseOp_keep (s : State) (b : Nat) :
    (ballotCloseOp s b).1.pending = s.pending ∧ (ballotCloseOp s b).1.otp = s.otp ∧ (ballotCloseOp s b).1.mem = s.mem := by
  and_intros <;> simp [ballotCloseOp]

@[simp] theorem spendBallot_keep (s : State) (w : Who) (id : Nat) (op : Nat) (dom : Nat) (opener : Nat) (blk : List Octet) :
    (spendBallot s w id op dom opener blk).1.pending = s.pending ∧ (spendBallot s w id op dom opener blk).1.otp = s.otp ∧ (spendBallot s w id op dom opener blk).1.mem = s.mem := by
  simp only [spendBallot]; (repeat' split) <;> simp_all
theorem spendBallot_to {s : State} {w : Who} {id : Nat} {op : Nat} {dom : Nat} {opener : Nat} {blk : List Octet} {t_ : State} {r_ : Except Nat Ballot} (e_ : spendBallot s w id op dom opener blk = (t_, r_)) :
    t_.pending = s.pending ∧ t_.otp = s.otp ∧ t_.mem = s.mem := by
  have k := spendBallot_keep s w id op dom opener blk; rw [e_] at k; exact k

@[simp] theorem createDevices_keep (l : List (Nat × List Octet)) (s : State) :
    (createDevices l s).1.pending = s.pending ∧ (createDevices l s).1.otp = s.otp := by
  induction l generalizing s with
  | nil => simp [createDevices]
  | cons e l ih => simp only [createDevices]; grind [→ createObj_to]
@[simp] theorem createDevices_wf (l : List (Nat × List Octet)) (s : State) (hm : s.mem.wf = true) :
    (createDevices l s).1.mem.wf = true := by
  induction l generalizing s with
  | nil => simpa [createDevices] using hm
  | cons e l ih => simp only [createDevices]; grind [→ createObj_to]
theorem createDevices_to {a : List (Nat × List Octet)} {a1 : State} {t_ : State} {r_ : Option Nat} (e_ : createDevices a a1 = (t_, r_)) :
    t_.pending = a1.pending ∧ t_.otp = a1.otp ∧ (a1.mem.wf = true → t_.mem.wf = true) := by
  have k := createDevices_keep a a1; have w := createDevices_wf a a1; rw [e_] at k w; exact ⟨k.1, k.2, w⟩

@[simp] theorem policyChange_keep (s : State) (w : Who) (d : Nat) (f : List Octet → List Octet) :
    (policyChange s w d f).1.pending = s.pending ∧ (policyChange s w d f).1.otp = s.otp := by
  simp only [policyChange]; (repeat' split) <;> simp_all
@[simp] theorem policyChange_wf (s : State) (w : Who) (d : Nat) (f : List Octet → List Octet) (hm : s.mem.wf = true) : (policyChange s w d f).1.mem.wf = true := by
  simp only [policyChange]; (repeat' split) <;> simp_all
theorem policyChange_to {s : State} {w : Who} {d : Nat} {f : List Octet → List Octet} {t_ : State} {r_ : Rep} (e_ : policyChange s w d f = (t_, r_)) :
    t_.pending = s.pending ∧ t_.otp = s.otp ∧ (s.mem.wf = true → t_.mem.wf = true) := by
  have k := policyChange_keep s w d f; have w := policyChange_wf s w d f; rw [e_] at k w; exact ⟨k.1, k.2, w⟩

@[simp] theorem commissionBeginOp_keep (s : State) (w : Who) (opener : Nat) (blk : List Octet) :
    (commissionBeginOp s w opener blk).1.pending = s.pending ∧ (commissionBeginOp s w opener blk).1.otp = s.otp ∧ (commissionBeginOp s w opener blk).1.mem = s.mem := by
  simp only [commissionBeginOp]; (repeat' split) <;> simp_all

@[simp] theorem commission_keep (s : State) (w : Who) (m : Nat) (n : Nat) (mc : Nat) (ttl : Nat) (officers : List (List Octet)) :
    (commission s w m n mc ttl officers).1.pending = s.pending := by
  simp [commission]
@[simp] theorem commission_wf (s : State) (w : Who) (m : Nat) (n : Nat) (mc : Nat) (ttl : Nat) (officers : List (List Octet)) (hm : s.mem.wf = true) : (commission s w m n mc ttl officers).1.mem.wf = true := by
  simp [commission, hm]

@[simp] theorem commissionFinishOp_keep (s : State) (w : Who) (opener : Nat) (blk : List Octet) :
    (commissionFinishOp s w opener blk).1.pending = s.pending := by
  simp only [commissionFinishOp]; (repeat' split) <;> simp_all
@[simp] theorem commissionFinishOp_wf (s : State) (w : Who) (opener : Nat) (blk : List Octet) (hm : s.mem.wf = true) : (commissionFinishOp s w opener blk).1.mem.wf = true := by
  simp only [commissionFinishOp]; (repeat' split) <;> simp_all

@[simp] theorem domainCreateOp_keep (s : State) (w : Who) (x : Ballot) (blk : List Octet) (trailer : List Octet) :
    (domainCreateOp s w x blk trailer).1.pending = s.pending ∧ (domainCreateOp s w x blk trailer).1.otp = s.otp := by
  and_intros <;> grind [domainCreateOp, → createDevices_to, recordFor_keep]
@[simp] theorem domainCreateOp_wf (s : State) (w : Who) (x : Ballot) (blk : List Octet) (trailer : List Octet) (hm : s.mem.wf = true) : (domainCreateOp s w x blk trailer).1.mem.wf = true := by
  grind [domainCreateOp, → createDevices_to, createDevices_wf, recordFor_keep]

@[simp] theorem domainDestroyOp_keep (s : State) (w : Who) (blk : List Octet) :
    (domainDestroyOp s w blk).1.pending = s.pending ∧ (domainDestroyOp s w blk).1.otp = s.otp := by
  and_intros <;> grind [domainDestroyOp, plxUpdate_keep, → policyChange_to]
@[simp] theorem domainDestroyOp_wf (s : State) (w : Who) (blk : List Octet) (hm : s.mem.wf = true) : (domainDestroyOp s w blk).1.mem.wf = true := by
  grind [domainDestroyOp, plxUpdate_keep, → policyChange_to, policyChange_wf]

@[simp] theorem domainSuspendOp_keep (s : State) (w : Who) (x : Ballot) (blk : List Octet) :
    (domainSuspendOp s w x blk).1.pending = s.pending ∧ (domainSuspendOp s w x blk).1.otp = s.otp := by
  and_intros <;> simp [domainSuspendOp]
@[simp] theorem domainSuspendOp_wf (s : State) (w : Who) (x : Ballot) (blk : List Octet) (hm : s.mem.wf = true) : (domainSuspendOp s w x blk).1.mem.wf = true := by
  simp [domainSuspendOp, hm]

@[simp] theorem domainResumeOp_keep (s : State) (w : Who) (x : Ballot) (blk : List Octet) :
    (domainResumeOp s w x blk).1.pending = s.pending ∧ (domainResumeOp s w x blk).1.otp = s.otp := by
  and_intros <;> simp [domainResumeOp]
@[simp] theorem domainResumeOp_wf (s : State) (w : Who) (x : Ballot) (blk : List Octet) (hm : s.mem.wf = true) : (domainResumeOp s w x blk).1.mem.wf = true := by
  simp [domainResumeOp, hm]

@[simp] theorem dropOfficer_keep (s : State) (d i : Nat) :
    (dropOfficer s d i).pending = s.pending ∧ (dropOfficer s d i).otp = s.otp := by
  and_intros <;> simp [dropOfficer]
@[simp] theorem dropOfficer_wf (s : State) (d i : Nat) (hm : s.mem.wf = true) : (dropOfficer s d i).mem.wf = true := by
  simp [dropOfficer, hm]

@[simp] theorem officerChangeOp_keep (s : State) (w : Who) (x : Ballot) (blk : List Octet) (trailer : List Octet) :
    (officerChangeOp s w x blk trailer).1.pending = s.pending ∧ (officerChangeOp s w x blk trailer).1.otp = s.otp := by
  and_intros <;> grind [officerChangeOp, dropOfficer_keep, → createDevices_to, → policyChange_to]
@[simp] theorem officerChangeOp_wf (s : State) (w : Who) (x : Ballot) (blk : List Octet) (trailer : List Octet) (hm : s.mem.wf = true) : (officerChangeOp s w x blk trailer).1.mem.wf = true := by
  grind [officerChangeOp, dropOfficer_keep, dropOfficer_wf, → createDevices_to, → policyChange_to, policyChange_wf]

@[simp] theorem figureSignerOp_keep (s : State) (blk : List Octet) :
    (figureSignerOp s blk).1.pending = s.pending ∧ (figureSignerOp s blk).1.otp = s.otp := by
  and_intros <;> grind [figureSignerOp, destroyObj_keep, → createDevices_to]
@[simp] theorem figureSignerOp_wf (s : State) (blk : List Octet) (hm : s.mem.wf = true) : (figureSignerOp s blk).1.mem.wf = true := by
  grind [figureSignerOp, destroyObj_keep, destroyObj_wf, → createDevices_to]

@[simp] theorem devicePolicyOp_keep (s : State) (w : Who) (blk : List Octet) :
    (devicePolicyOp s w blk).1.pending = s.pending := by
  simp [devicePolicyOp]
@[simp] theorem devicePolicyOp_wf (s : State) (w : Who) (blk : List Octet) (hm : s.mem.wf = true) : (devicePolicyOp s w blk).1.mem.wf = true := by
  simp [devicePolicyOp, hm]

/-! ### Machine/Funcs.lean -/

@[simp] theorem funcRecord_keep (s : State) (w : Who) (f : Nat) (ev : Nat) :
    (funcRecord s w f ev).pending = s.pending ∧ (funcRecord s w f ev).otp = s.otp ∧ (funcRecord s w f ev).mem = s.mem := by
  and_intros <;> simp [funcRecord]

@[simp] theorem claimCells_keep (s : State) (f : Nat) (cells : List (Nat × Nat)) :
    (claimCells s f cells).pending = s.pending ∧ (claimCells s f cells).otp = s.otp ∧ (claimCells s f cells).mem = s.mem := by
  and_intros <;> simp [claimCells]

@[simp] theorem putGrants_keep (s : State) (f : Nat) (cfg : List Octet) :
    (putGrants s f cfg).pending = s.pending ∧ (putGrants s f cfg).otp = s.otp ∧ (putGrants s f cfg).mem = s.mem := by
  and_intros <;> simp [putGrants]

@[simp] theorem configure_keep (s : State) (f : Nat) (cfg : List Octet) (cells : List (Nat × Nat)) (create : Bool) :
    (configure s f cfg cells create).pending = s.pending ∧ (configure s f cfg cells create).otp = s.otp ∧ (configure s f cfg cells create).mem = s.mem := by
  and_intros <;> simp [configure]

@[simp] theorem funcConfigOp_keep (s : State) (w : Who) (create : Bool) (blk : List Octet) :
    (funcConfigOp s w create blk).1.pending = s.pending ∧ (funcConfigOp s w create blk).1.otp = s.otp ∧ (funcConfigOp s w create blk).1.mem = s.mem := by
  and_intros <;> simp [funcConfigOp]

@[simp] theorem returnCmds_keep (s : State) (p : Cmd → Bool) :
    (returnCmds s p).pending = s.pending ∧ (returnCmds s p).otp = s.otp ∧ (returnCmds s p).mem = s.mem := by
  and_intros <;> simp [returnCmds]

@[simp] theorem freezeFn_keep (s : State) (f : Nat) :
    (freezeFn s f).pending = s.pending ∧ (freezeFn s f).otp = s.otp ∧ (freezeFn s f).mem = s.mem := by
  and_intros <;> simp [freezeFn]

@[simp] theorem thawFn_keep (s : State) (f : Nat) :
    (thawFn s f).pending = s.pending ∧ (thawFn s f).otp = s.otp ∧ (thawFn s f).mem = s.mem := by
  and_intros <;> simp [thawFn]

@[simp] theorem vfFreezeOp_keep (s : State) (w : Who) (short : List Octet) :
    (vfFreezeOp s w short).1.pending = s.pending ∧ (vfFreezeOp s w short).1.otp = s.otp ∧ (vfFreezeOp s w short).1.mem = s.mem := by
  simp only [vfFreezeOp]; (repeat' split) <;> simp_all

@[simp] theorem vfThawOp_keep (s : State) (w : Who) (short : List Octet) :
    (vfThawOp s w short).1.pending = s.pending ∧ (vfThawOp s w short).1.otp = s.otp ∧ (vfThawOp s w short).1.mem = s.mem := by
  simp only [vfThawOp]; (repeat' split) <;> simp_all

@[simp] theorem vfDestroyOp_keep (s : State) (w : Who) (short : List Octet) :
    (vfDestroyOp s w short).1.pending = s.pending ∧ (vfDestroyOp s w short).1.otp = s.otp ∧ (vfDestroyOp s w short).1.mem = s.mem := by
  simp only [vfDestroyOp]; (repeat' split) <;> simp_all

@[simp] theorem migrationFreezeOp_keep (s : State) (w : Who) (blk : List Octet) :
    (migrationFreezeOp s w blk).1.pending = s.pending ∧ (migrationFreezeOp s w blk).1.otp = s.otp ∧ (migrationFreezeOp s w blk).1.mem = s.mem := by
  and_intros <;> simp [migrationFreezeOp]

@[simp] theorem migrationThawOp_keep (s : State) (w : Who) :
    (migrationThawOp s w).1.pending = s.pending ∧ (migrationThawOp s w).1.otp = s.otp ∧ (migrationThawOp s w).1.mem = s.mem := by
  and_intros <;> simp [migrationThawOp]

@[simp] theorem migTicketOp_keep (s : State) (f : Nat) :
    (migTicketOp s f).1.pending = s.pending ∧ (migTicketOp s f).1.otp = s.otp ∧ (migTicketOp s f).1.mem = s.mem := by
  and_intros <;> grind [migTicketOp, → drawRandom_to, → attestFor_to]

@[simp] theorem migrationBlob_keep (s : State) (f : Nat) (st : List Octet) (peer : List Octet × List Octet) :
    (migrationBlob s f st peer).2.pending = s.pending ∧ (migrationBlob s f st peer).2.otp = s.otp ∧ (migrationBlob s f st peer).2.mem = s.mem := by
  and_intros <;> simp [migrationBlob]

@[simp] theorem vfSaveOp_keep (s : State) (w : Who) (short : List Octet) (blk : List Octet) :
    (vfSaveOp s w short blk).1.pending = s.pending ∧ (vfSaveOp s w short blk).1.otp = s.otp ∧ (vfSaveOp s w short blk).1.mem = s.mem := by
  simp only [vfSaveOp]; (repeat' split) <;> simp_all

@[simp] theorem restoreFn_keep (s : State) (f : Nat) (orig : Nat) (o : List Octet) :
    (restoreFn s f orig o).pending = s.pending ∧ (restoreFn s f orig o).otp = s.otp ∧ (restoreFn s f orig o).mem = s.mem := by
  and_intros <;> simp [restoreFn]

@[simp] theorem vfRestoreOp_keep (s : State) (w : Who) (blk : List Octet) :
    (vfRestoreOp s w blk).1.pending = s.pending ∧ (vfRestoreOp s w blk).1.otp = s.otp ∧ (vfRestoreOp s w blk).1.mem = s.mem := by
  simp only [vfRestoreOp]; (repeat' split) <;> simp_all

@[simp] theorem queueMarkOp_keep (s : State) (w : Who) (short : List Octet) :
    (queueMarkOp s w short).1.pending = s.pending ∧ (queueMarkOp s w short).1.otp = s.otp ∧ (queueMarkOp s w short).1.mem = s.mem := by
  and_intros <;> simp [queueMarkOp]

@[simp] theorem portVfAllocOp_keep (s : State) (short : List Octet) :
    (portVfAllocOp s short).1.pending = s.pending ∧ (portVfAllocOp s short).1.otp = s.otp ∧ (portVfAllocOp s short).1.mem = s.mem := by
  and_intros <;> simp [portVfAllocOp]

@[simp] theorem ticketLapse_keep (s : State) (i : Nat) :
    (ticketLapse s i).pending = s.pending ∧ (ticketLapse s i).otp = s.otp ∧ (ticketLapse s i).mem = s.mem := by
  and_intros <;> simp [ticketLapse]

/-! ### Machine/Meas.lean -/

@[simp] theorem measExtend_keep (s : State) (set : Nat) (i : Nat) (src : Nat) (world : Bool) (d : List Octet) :
    (measExtend s set i src world d).pending = s.pending ∧ (measExtend s set i src world d).otp = s.otp ∧ (measExtend s set i src world d).mem = s.mem := by
  and_intros <;> simp [measExtend]

@[simp] theorem measNow_keep (s : State) (i : Nat) (d : List Octet) :
    (measNow s i d).pending = s.pending ∧ (measNow s i d).otp = s.otp ∧ (measNow s i d).mem = s.mem := by
  and_intros <;> simp [measNow]

@[simp] theorem measRefuse_keep (s : State) (t : Nat) :
    (measRefuse s t).pending = s.pending ∧ (measRefuse s t).otp = s.otp ∧ (measRefuse s t).mem = s.mem := by
  and_intros <;> simp [measRefuse]

@[simp] theorem measRequest_keep (s : State) (t : Nat) (lo : Nat) (hi : Nat) (index : Nat) :
    (measRequest s t lo hi index).pending = s.pending ∧ (measRequest s t lo hi index).otp = s.otp ∧ (measRequest s t lo hi index).mem = s.mem := by
  and_intros <;> simp [measRequest]

@[simp] theorem measCommand_keep (s : State) (x : MeasBy) (index : Nat) :
    (measCommand s x index).pending = s.pending ∧ (measCommand s x index).otp = s.otp ∧ (measCommand s x index).mem = s.mem := by
  simp only [measCommand]; (repeat' split) <;> simp_all

@[simp] theorem measServe_keep (s : State) :
    (measServe s).pending = s.pending ∧ (measServe s).otp = s.otp ∧ (measServe s).mem = s.mem := by
  simp only [measServe]; (repeat' split) <;> simp_all

@[simp] theorem tapArm_keep (s : State) :
    (tapArm s).pending = s.pending ∧ (tapArm s).otp = s.otp ∧ (tapArm s).mem = s.mem := by
  and_intros <;> simp [tapArm]

@[simp] theorem tapOctets_keep (s : State) (place : Nat) (image : List Octet) :
    (tapOctets s place image).pending = s.pending ∧ (tapOctets s place image).otp = s.otp := by
  and_intros <;> simp [tapOctets]
@[simp] theorem tapOctets_wf (s : State) (place : Nat) (image : List Octet) (hm : s.mem.wf = true) : (tapOctets s place image).mem.wf = true := by
  simp [tapOctets, hm]

@[simp] theorem tapClose_keep (s : State) (place : Nat) (image : List Octet) :
    (tapClose s place image).pending = s.pending ∧ (tapClose s place image).otp = s.otp := by
  and_intros <;> simp [tapClose]
@[simp] theorem tapClose_wf (s : State) (place : Nat) (image : List Octet) (hm : s.mem.wf = true) : (tapClose s place image).mem.wf = true := by
  simp [tapClose, hm]

@[simp] theorem tapLock_keep (s : State) :
    (tapLock s).pending = s.pending ∧ (tapLock s).otp = s.otp ∧ (tapLock s).mem = s.mem := by
  and_intros <;> simp [tapLock]

end Sys2Proof.Machine
end

