-- ==== Sys2Proof/Laws/KeepAdmit.lean ====
section
/-! SUPPORT. One lemma per operation of residency, admission, the measure boundary, administrative commands, resets and modes: the queue and OTP it leaves alone, memory it leaves alone or keeps
canonical (names ending in `_keep` and `_wf`; `_to` says the same of a state that an equation names). -/
namespace Sys2Proof.Machine

/-! ### Machine/Residency.lean -/

theorem reserveRoom_to {fid n : Nat} {l : List Nat} {s t : State} (h : reserveRoom fid n l s = some t) :
    t.pending = s.pending ∧ t.otp = s.otp ∧ t.mem = s.mem := by
  induction l generalizing s with
  | nil => cases h; simp
  | cons q l ih =>
    simp only [reserveRoom] at h
    split at h
    · cases h
    · simpa using ih h

@[simp] theorem figureRecord_keep (s : State) (w : Who) (h : FigHdr) (set : Nat) :
    (figureRecord s w h set).pending = s.pending ∧ (figureRecord s w h set).otp = s.otp ∧ (figureRecord s w h set).mem = s.mem := by
  and_intros <;> simp [figureRecord]

@[simp] theorem figurePinOp_keep (s : State) (w : Who) (blk : List Octet) :
    (figurePinOp s w blk).1.pending = s.pending ∧ (figurePinOp s w blk).1.otp = s.otp ∧ (figurePinOp s w blk).1.mem = s.mem := by
  unfold figurePinOp
  and_intros <;> grind [→ reserveRoom_to, recordFor_keep, figureRecord_keep, measNow_keep]

@[simp] theorem figureUnpinOp_keep (s : State) (w : Who) (short : List Octet) :
    (figureUnpinOp s w short).1.pending = s.pending ∧ (figureUnpinOp s w short).1.otp = s.otp ∧ (figureUnpinOp s w short).1.mem = s.mem := by
  and_intros <;> simp [figureUnpinOp]

@[simp] theorem loadDone_keep (s : State) (fid : Nat) :
    (loadDone s fid).pending = s.pending ∧ (loadDone s fid).otp = s.otp ∧ (loadDone s fid).mem = s.mem := by
  simp only [loadDone]
  split
  · simp
  split
  · simp
  and_intros <;>
    (first | apply foldl_pending | apply foldl_otp | apply foldl_mem) <;> intros <;> split <;> simp

@[simp] theorem clearEntry_keep (s : State) (q : Nat) (e : Nat) :
    (clearEntry s q e).pending = s.pending ∧ (clearEntry s q e).otp = s.otp ∧ (clearEntry s q e).mem = s.mem := by
  and_intros <;> simp [clearEntry]

@[simp] theorem endWaiting_keep (s : State) (w : Nat) :
    (endWaiting s w).pending = s.pending ∧ (endWaiting s w).otp = s.otp ∧ (endWaiting s w).mem = s.mem := by
  and_intros <;> simp [endWaiting]

@[simp] theorem loadValid_keep (s : State) (l : Nat × List Nat × List StepWord) :
    (loadValid s l).pending = s.pending ∧ (loadValid s l).otp = s.otp ∧ (loadValid s l).mem = s.mem := by
  and_intros <;> simp [loadValid]

@[simp] theorem residencyBoundary_keep (s : State) :
    (residencyBoundary s).pending = s.pending ∧ (residencyBoundary s).otp = s.otp ∧ (residencyBoundary s).mem = s.mem := by
  and_intros <;> simp [residencyBoundary]

/-! ### Machine/Admission.lean -/

theorem findSlots_to {s t : State} {n a : Nat} (h : findSlots s n = some (a, t)) :
    t.pending = s.pending ∧ t.otp = s.otp ∧ t.mem = s.mem := by
  simp only [findSlots] at h
  split at h
  · cases h; simp
  · simp only [Option.map_eq_some_iff] at h
    obtain ⟨_, _, h⟩ := h; cases h; simp

@[simp] theorem pinSlot_keep (s : State) (n : Nat) :
    (pinSlot s n).pending = s.pending ∧ (pinSlot s n).otp = s.otp ∧ (pinSlot s n).mem = s.mem := by
  and_intros <;> simp [pinSlot]

theorem loadSlots_to {s t : State} {hd r a : Nat} (h : loadSlots s hd r = some (a, t)) :
    t.pending = s.pending ∧ t.otp = s.otp ∧ t.mem = s.mem := by
  simp only [loadSlots, Option.map_eq_some_iff] at h
  obtain ⟨⟨b, u⟩, hf, h⟩ := h
  cases h; simpa using findSlots_to hf

@[simp] theorem findKey_keep (s : State) (c : Cmd) (hd : Nat) (b : Bool) :
    (findKey s c hd b).1.pending = s.pending ∧ (findKey s c hd b).1.otp = s.otp := by
  unfold findKey
  and_intros <;> grind [→ openObj_to, → loadSlots_to, State.onCmd_frame, State.wr2_frame, State.flag_frame]
@[simp] theorem findKey_wf (s : State) (c : Cmd) (hd : Nat) (b : Bool) (hm : s.mem.wf = true) : (findKey s c hd b).1.mem.wf = true := by
  unfold findKey
  grind [→ openObj_to, → loadSlots_to, State.onCmd_frame, State.wr2_frame, State.flag_frame]
theorem findKey_to {s : State} {c : Cmd} {hd : Nat} {fetched : Bool} {t_ : State} {r_ : OperandEnd} (e_ : findKey s c hd fetched = (t_, r_)) :
    t_.pending = s.pending ∧ t_.otp = s.otp ∧ (s.mem.wf = true → t_.mem.wf = true) := by
  have k := findKey_keep s c hd fetched; have w := findKey_wf s c hd fetched; rw [e_] at k w; exact ⟨k.1, k.2, w⟩

@[simp] theorem waitLease_keep (s : State) (uid : Nat) (r : Nat) (order : Nat) :
    (waitLease s uid r order).pending = s.pending ∧ (waitLease s uid r order).otp = s.otp ∧ (waitLease s uid r order).mem = s.mem := by
  and_intros <;> simp [waitLease]

@[simp] theorem chargeKey_keep (s : State) (c : Cmd) (i : Nat) (hd : Nat) (cb : Nat) :
    (chargeKey s c i hd cb).1.pending = s.pending ∧ (chargeKey s c i hd cb).1.otp = s.otp := by
  and_intros <;> grind [chargeKey, → chargeUsage_to, waitLease_keep, → chargeInv_to, State.onCmd_frame]
@[simp] theorem chargeKey_wf (s : State) (c : Cmd) (i : Nat) (hd : Nat) (cb : Nat) (hm : s.mem.wf = true) : (chargeKey s c i hd cb).1.mem.wf = true := by
  grind [chargeKey, → chargeUsage_to, chargeUsage_wf, waitLease_keep, → chargeInv_to, chargeInv_wf, State.onCmd_frame]
theorem chargeKey_to {s : State} {c : Cmd} {i : Nat} {hd : Nat} {cb : Nat} {t_ : State} {r_ : OperandEnd} (e_ : chargeKey s c i hd cb = (t_, r_)) :
    t_.pending = s.pending ∧ t_.otp = s.otp ∧ (s.mem.wf = true → t_.mem.wf = true) := by
  have k := chargeKey_keep s c i hd cb; have w := chargeKey_wf s c i hd cb; rw [e_] at k w; exact ⟨k.1, k.2, w⟩

@[simp] theorem operandStep_keep (s : State) (c : Cmd) (h : FigHdr) (i : Nat) (fetched : Bool) :
    (operandStep s c h i fetched).1.pending = s.pending ∧ (operandStep s c h i fetched).1.otp = s.otp := by
  and_intros <;> grind [operandStep, State.onCmd_frame, → chargeKey_to, → findKey_to, pinSlot_keep]
@[simp] theorem operandStep_wf (s : State) (c : Cmd) (h : FigHdr) (i : Nat) (fetched : Bool) (hm : s.mem.wf = true) : (operandStep s c h i fetched).1.mem.wf = true := by
  grind [operandStep, → findKey_to, → chargeKey_to, chargeKey_wf, pinSlot_keep, State.onCmd_frame]
theorem operandStep_to {s : State} {c : Cmd} {h : FigHdr} {i : Nat} {fetched : Bool} {t_ : State} {r_ : OperandEnd} (e_ : operandStep s c h i fetched = (t_, r_)) :
    t_.pending = s.pending ∧ t_.otp = s.otp ∧ (s.mem.wf = true → t_.mem.wf = true) := by
  have k := operandStep_keep s c h i fetched; have w := operandStep_wf s c h i fetched; rw [e_] at k w; exact ⟨k.1, k.2, w⟩

@[simp] theorem operandSteps_keep (h : FigHdr) (n : Nat) (b : Bool) (uid : Nat) (s : State) :
    (operandSteps h n b uid s).pending = s.pending ∧ (operandSteps h n b uid s).otp = s.otp := by
  induction n generalizing b s with
  | zero => simp [operandSteps]
  | succ n ih =>
    unfold operandSteps
    and_intros <;> grind [→ operandStep_to, State.onCmd_frame, refuseCmd_keep]
@[simp] theorem operandSteps_wf (h : FigHdr) (n : Nat) (b : Bool) (uid : Nat) (s : State) (hm : s.mem.wf = true) :
    (operandSteps h n b uid s).mem.wf = true := by
  induction n generalizing b s with
  | zero => simpa [operandSteps] using hm
  | succ n ih =>
    unfold operandSteps
    grind [→ operandStep_to, State.onCmd_frame, refuseCmd_keep]

theorem pinTargets_to {tp : Nat × Nat × Nat} {n : Nat} {s t : State} {l : List Nat} (h : pinTargets tp n s = some (l, t)) :
    t.pending = s.pending ∧ t.otp = s.otp ∧ t.mem = s.mem := by
  induction n generalizing s l with
  | zero => cases h; simp
  | succ n ih =>
    simp only [pinTargets] at h
    split at h
    · cases h
    · rename_i hf
      simp only [Option.map_eq_some_iff] at h
      obtain ⟨⟨b, u⟩, hu, h⟩ := h
      cases h
      have h1 := findSlots_to hf
      have h2 := ih hu
      simp_all

@[simp] theorem takeTargets_keep (s : State) (uid : Nat) (h : FigHdr) :
    (takeTargets s uid h).pending = s.pending ∧ (takeTargets s uid h).otp = s.otp ∧ (takeTargets s uid h).mem = s.mem := by
  unfold takeTargets
  and_intros <;> grind [→ pinTargets_to, State.onCmd_frame]

@[simp] theorem fillOnePage_keep (s : State) (p : Nat) (o : List Octet) :
    (fillOnePage s p o).pending = s.pending ∧ (fillOnePage s p o).otp = s.otp ∧ (fillOnePage s p o).mem = s.mem := by
  and_intros <;> simp [fillOnePage]

@[simp] theorem fillRing_keep (s : State) (pages : List (List Nat)) (o : List Octet) :
    (fillRing s pages o).pending = s.pending ∧ (fillRing s pages o).otp = s.otp ∧ (fillRing s pages o).mem = s.mem := by
  and_intros <;> simp [fillRing]

@[simp] theorem putRing_keep (s : State) (pages : List (List Nat)) (b : Nat) (o : List Octet) :
    (putRing s pages b o).pending = s.pending ∧ (putRing s pages b o).otp = s.otp ∧ (putRing s pages b o).mem = s.mem := by
  and_intros <;> simp [putRing]

@[simp] theorem stageRing_keep (s : State) (c : Cmd) (h : FigHdr) (o : List Octet) :
    (stageRing s c h o).pending = s.pending ∧ (stageRing s c h o).otp = s.otp ∧ (stageRing s c h o).mem = s.mem := by
  and_intros <;> simp [stageRing]

@[simp] theorem stageNow_keep (s : State) (uid : Nat) (h : FigHdr) :
    (stageNow s uid h).pending = s.pending ∧ (stageNow s uid h).otp = s.otp ∧ (stageNow s uid h).mem = s.mem := by
  simp only [stageNow]; (repeat' split) <;> simp_all

@[simp] theorem reserveWords_keep (s : State) (uid : Nat) (h : FigHdr) :
    (reserveWords s uid h).pending = s.pending ∧ (reserveWords s uid h).otp = s.otp ∧ (reserveWords s uid h).mem = s.mem := by
  simp only [reserveWords]; (repeat' split) <;> simp_all

@[simp] theorem advance_keep (s : State) (uid : Nat) (fetched : Bool) :
    (advance s uid fetched).pending = s.pending ∧ (advance s uid fetched).otp = s.otp := by
  simp only [advance]; (repeat' split) <;> simp_all
@[simp] theorem advance_wf (s : State) (uid : Nat) (fetched : Bool) (hm : s.mem.wf = true) : (advance s uid fetched).mem.wf = true := by
  simp only [advance]; (repeat' split) <;> simp_all

@[simp] theorem firstOrders_keep (s : State) (c : Cmd) :
    (firstOrders s c).pending = s.pending ∧ (firstOrders s c).otp = s.otp := by
  simp only [firstOrders]; (repeat' split) <;> simp_all
@[simp] theorem firstOrders_wf (s : State) (c : Cmd) (hm : s.mem.wf = true) : (firstOrders s c).mem.wf = true := by
  simp only [firstOrders]; (repeat' split) <;> simp_all

@[simp] theorem runIngress_keep (s : State) (r : CmdRef) :
    (runIngress s r).pending = s.pending ∧ (runIngress s r).otp = s.otp := by
  and_intros <;> simp [runIngress]
@[simp] theorem runIngress_wf (s : State) (r : CmdRef) (hm : s.mem.wf = true) : (runIngress s r).mem.wf = true := by
  simp [runIngress, hm]

@[simp] theorem loadArrived_keep (s : State) (r : CmdRef) :
    (loadArrived s r).pending = s.pending ∧ (loadArrived s r).otp = s.otp := by
  and_intros <;> simp [loadArrived]
@[simp] theorem loadArrived_wf (s : State) (r : CmdRef) (hm : s.mem.wf = true) : (loadArrived s r).mem.wf = true := by
  simp [loadArrived, hm]

@[simp] theorem stageArrived_keep (s : State) (r : CmdRef) (data : List Octet) :
    (stageArrived s r data).pending = s.pending ∧ (stageArrived s r data).otp = s.otp ∧ (stageArrived s r data).mem = s.mem := by
  simp only [stageArrived]; (repeat' split) <;> simp_all

@[simp] theorem drainDone_keep (s : State) (r : CmdRef) :
    (drainDone s r).pending = s.pending ∧ (drainDone s r).otp = s.otp ∧ (drainDone s r).mem = s.mem := by
  simp only [drainDone]; (repeat' split) <;> simp_all

/-! ### Machine/Boundary.lean -/

@[simp] theorem clearColumn_keep (s : State) (col : Nat) :
    (clearColumn s col).pending = s.pending ∧ (clearColumn s col).otp = s.otp ∧ (clearColumn s col).mem = s.mem := by
  and_intros <;> simp [clearColumn]

@[simp] theorem releaseUnits_keep (s : State) (q : Nat) (i : Inst) :
    (releaseUnits s q i).pending = s.pending ∧ (releaseUnits s q i).otp = s.otp ∧ (releaseUnits s q i).mem = s.mem := by
  and_intros <;> simp [releaseUnits]

@[simp] theorem storeContext_keep (s : State) (c : Cmd) :
    (storeContext s c).pending = s.pending ∧ (storeContext s c).otp = s.otp ∧ (storeContext s c).mem = s.mem := by
  and_intros <;> simp [storeContext]

@[simp] theorem wipePages_keep (s : State) (pages : List (List Nat)) :
    (wipePages s pages).pending = s.pending ∧ (wipePages s pages).otp = s.otp ∧ (wipePages s pages).mem = s.mem := by
  and_intros <;> simp [wipePages]

@[simp] theorem formCompletion_keep (s : State) (c : Cmd) (i : Inst) (status : Nat) :
    (formCompletion s c i status).pending = s.pending ∧ (formCompletion s c i status).otp = s.otp ∧ (formCompletion s c i status).mem = s.mem := by
  and_intros <;> simp [formCompletion]

@[simp] theorem replay_keep (s : State) (c : Cmd) :
    (replay s c).pending = s.pending ∧ (replay s c).otp = s.otp ∧ (replay s c).mem = s.mem := by
  and_intros <;> simp [replay]

@[simp] theorem resolveAborts_keep (s : State) (uid : Nat) (r0 : Nat) :
    (resolveAborts s uid r0).pending = s.pending ∧ (resolveAborts s uid r0).otp = s.otp ∧ (resolveAborts s uid r0).mem = s.mem := by
  and_intros <;> simp [resolveAborts]

@[simp] theorem startDrains_keep (s : State) (q : Nat) (i : Inst) (l : List Nat) :
    (startDrains s q i l).pending = s.pending ∧ (startDrains s q i l).otp = s.otp ∧ (startDrains s q i l).mem = s.mem := by
  simp only [startDrains]; (repeat' split) <;> simp_all

@[simp] theorem boundarySeq_keep (m : Nat) (s : State) (q : Nat) :
    (boundarySeq m s q).pending = s.pending ∧ (boundarySeq m s q).otp = s.otp ∧ (boundarySeq m s q).mem = s.mem := by
  simp only [boundarySeq]; (repeat' split) <;> simp_all

@[simp] theorem stopFloor_keep (s : State) :
    (stopFloor s).pending = s.pending ∧ (stopFloor s).otp = s.otp ∧ (stopFloor s).mem = s.mem := by
  unfold stopFloor
  and_intros
  · rw [foldl_pending]; intro x q; split
    · rfl
    · dsimp only; split <;> simp
  · rw [foldl_otp]; intro x q; split
    · rfl
    · dsimp only; split <;> simp
  · rw [foldl_mem]; intro x q; split
    · rfl
    · dsimp only; split <;> simp

@[simp] theorem commitCard_keep (s : State) :
    (commitCard s).pending = s.pending ∧ (commitCard s).otp = s.otp ∧ (commitCard s).mem = s.mem := by
  and_intros <;> simp [commitCard]

@[simp] theorem dropUnpinned_keep (s : State) :
    (dropUnpinned s).pending = s.pending ∧ (dropUnpinned s).otp = s.otp ∧ (dropUnpinned s).mem = s.mem := by
  and_intros <;> simp [dropUnpinned]

@[simp] theorem applyFixed_keep (s : State) :
    (applyFixed s).pending = s.pending ∧ (applyFixed s).otp = s.otp ∧ (applyFixed s).mem = s.mem := by
  simp only [applyFixed]; (repeat' split) <;> simp_all

@[simp] theorem grantPages_keep (s : State) (uid f r n : Nat) :
    (grantPages s uid f r n).2.pending = s.pending ∧ (grantPages s uid f r n).2.otp = s.otp ∧ (grantPages s uid f r n).2.mem = s.mem := by
  refine ⟨?_, ?_, ?_⟩ <;> (unfold grantPages; simp only)
  · rw [foldl_pending]; intros; rfl
  · rw [foldl_otp]; intros; rfl
  · rw [foldl_mem]; intros; rfl

theorem tryGrant_to {s t : State} {c : Cmd} {h : FigHdr} (e : tryGrant s c h = some t) :
    t.pending = s.pending ∧ t.otp = s.otp ∧ t.mem = s.mem := by
  simp only [tryGrant] at e
  split at e <;> simp only [Option.map_eq_some_iff] at e <;> obtain ⟨_, _, e⟩ := e <;> subst e <;> simp

@[simp] theorem grantQueue_keep (ff : Bool) (l : List Cmd) (s : State) :
    (grantQueue ff l s).pending = s.pending ∧ (grantQueue ff l s).otp = s.otp := by
  induction l generalizing s with
  | nil => simp [grantQueue]
  | cons c l ih =>
    unfold grantQueue
    and_intros <;> grind [→ tryGrant_to, advance_keep, refuseCmd_keep]
@[simp] theorem grantQueue_wf (ff : Bool) (l : List Cmd) (s : State) (hm : s.mem.wf = true) : (grantQueue ff l s).mem.wf = true := by
  induction l generalizing s with
  | nil => simpa [grantQueue] using hm
  | cons c l ih =>
    unfold grantQueue
    grind [→ tryGrant_to, advance_keep, advance_wf, refuseCmd_keep]

@[simp] theorem grants_keep (m : Nat) (s : State) : (grants m s).pending = s.pending ∧ (grants m s).otp = s.otp := by
  and_intros <;> simp [grants]
@[simp] theorem grants_wf (m : Nat) (s : State) (hm : s.mem.wf = true) : (grants m s).mem.wf = true :=
  foldl_wf _ (fun _ _ h => foldl_wf _ (fun _ _ h => grantQueue_wf _ _ _ h) _ _ h) _ _ hm

@[simp] theorem place_keep (m : Nat) (s : State) (c : Cmd) (h : FigHdr) (q : Nat) (cols : List Nat) :
    (place m s c h q cols).pending = s.pending ∧ (place m s c h q cols).otp = s.otp ∧ (place m s c h q cols).mem = s.mem := by
  and_intros <;> simp [place]

@[simp] theorem placeQueue_keep (m : Nat) (l : List Cmd) (s : State) :
    (placeQueue m l s).pending = s.pending ∧ (placeQueue m l s).otp = s.otp ∧ (placeQueue m l s).mem = s.mem := by
  induction l generalizing s with
  | nil => simp [placeQueue]
  | cons c l ih => simp only [placeQueue]; (repeat' split) <;> simp_all

@[simp] theorem makeReady_keep (s : State) :
    (makeReady s).pending = s.pending ∧ (makeReady s).otp = s.otp ∧ (makeReady s).mem = s.mem := by
  and_intros <;> simp [makeReady]

@[simp] theorem placements_keep (m : Nat) (s : State) :
    (placements m s).pending = s.pending ∧ (placements m s).otp = s.otp ∧ (placements m s).mem = s.mem := by
  and_intros <;> simp [placements]

@[simp] theorem retryIngress_keep (s : State) :
    (retryIngress s).pending = s.pending ∧ (retryIngress s).otp = s.otp := by
  and_intros <;> simp [retryIngress]
@[simp] theorem retryIngress_wf (s : State) (hm : s.mem.wf = true) : (retryIngress s).mem.wf = true := by
  simp only [retryIngress]; (repeat' split) <;> simp_all

@[simp] theorem pressureOf_keep (s : State) (f : Nat) :
    (pressureOf s f).pending = s.pending ∧ (pressureOf s f).otp = s.otp ∧ (pressureOf s f).mem = s.mem := by
  and_intros <;> simp [pressureOf]

@[simp] theorem countMeasure_keep (s : State) :
    (countMeasure s).pending = s.pending ∧ (countMeasure s).otp = s.otp ∧ (countMeasure s).mem = s.mem := by
  and_intros <;> simp [countMeasure]

@[simp] theorem turnExpanders_keep (s : State) :
    (turnExpanders s).pending = s.pending ∧ (turnExpanders s).otp = s.otp ∧ (turnExpanders s).mem = s.mem := by
  and_intros <;> simp [turnExpanders]

@[simp] theorem pruneFaults_keep (s : State) :
    (pruneFaults s).pending = s.pending ∧ (pruneFaults s).otp = s.otp ∧ (pruneFaults s).mem = s.mem := by
  and_intros <;> simp [pruneFaults]

@[simp] theorem boundary_keep (s : State) :
    (boundary s).pending = s.pending ∧ (boundary s).otp = s.otp := by
  and_intros <;> simp [boundary]
@[simp] theorem boundary_wf (s : State) (hm : s.mem.wf = true) : (boundary s).mem.wf = true := by
  simp [boundary, hm]

/-! ### Machine/Admin.lean -/

@[simp] theorem answerCmd_keep (s : State) (c : Cmd) (seq0 : Nat) (st : Nat) (r0 : Nat) (out : List Octet) (hold : List Nat) :
    (answerCmd s c seq0 st r0 out hold).pending = s.pending ∧ (answerCmd s c seq0 st r0 out hold).otp = s.otp ∧ (answerCmd s c seq0 st r0 out hold).mem = s.mem := by
  and_intros <;> simp [answerCmd]

@[simp] theorem holdIngress_keep (s : State) (c : Cmd) :
    (holdIngress s c).pending = s.pending ∧ (holdIngress s c).otp = s.otp ∧ (holdIngress s c).mem = s.mem := by
  and_intros <;> simp [holdIngress]

@[simp] theorem operate_pending (s : State) (c : Cmd) (blk trailer : List Octet) (x : Option Ballot) (op : AdminOp) (n : Nat)
    (h : ∀ s c w b t y, (op s c w b t y).1.pending = s.pending) : (operate s c blk trailer x op n).pending = s.pending := by
  have := h s c (s.who c.func) blk trailer x
  unfold operate; split <;> simp_all
@[simp] theorem operate_otp (s : State) (c : Cmd) (blk trailer : List Octet) (x : Option Ballot) (op : AdminOp) (n : Nat)
    (h : ∀ s c w b t y, (op s c w b t y).1.otp = s.otp) : (operate s c blk trailer x op n).otp = s.otp := by
  have := h s c (s.who c.func) blk trailer x
  unfold operate; split <;> simp_all
@[simp] theorem operate_wf (s : State) (c : Cmd) (blk trailer : List Octet) (x : Option Ballot) (op : AdminOp) (n : Nat)
    (h : ∀ s c w b t y, s.mem.wf = true → (op s c w b t y).1.mem.wf = true) (hs : s.mem.wf = true) :
    (operate s c blk trailer x op n).mem.wf = true := by
  have := h s c (s.who c.func) blk trailer x hs
  unfold operate; split <;> simp_all

@[simp] theorem refuseAdmin_keep (s : State) (c : Cmd) (st : Nat) (r0 : Nat) :
    (refuseAdmin s c st r0).pending = s.pending ∧ (refuseAdmin s c st r0).otp = s.otp ∧ (refuseAdmin s c st r0).mem = s.mem := by
  and_intros <;> simp [refuseAdmin]

@[simp] theorem adminChecked_pending (s : State) (c : Cmd) (blk trailer : List Octet) (op : AdminOp)
    (h : ∀ s c w b t y, (op s c w b t y).1.pending = s.pending) : (adminChecked s c blk trailer op).pending = s.pending := by
  unfold adminChecked
  grind [operate_pending, refuseAdmin_keep, answerCmd_keep, → spendBallot_to]
@[simp] theorem adminChecked_otp (s : State) (c : Cmd) (blk trailer : List Octet) (op : AdminOp)
    (h : ∀ s c w b t y, (op s c w b t y).1.otp = s.otp) : (adminChecked s c blk trailer op).otp = s.otp := by
  unfold adminChecked
  grind [operate_otp, refuseAdmin_keep, answerCmd_keep, → spendBallot_to]
@[simp] theorem adminChecked_wf (s : State) (c : Cmd) (blk trailer : List Octet) (op : AdminOp)
    (h : ∀ s c w b t y, s.mem.wf = true → (op s c w b t y).1.mem.wf = true) (hs : s.mem.wf = true) :
    (adminChecked s c blk trailer op).mem.wf = true := by
  unfold adminChecked
  grind [operate_wf, refuseAdmin_keep, answerCmd_keep, → spendBallot_to]

@[simp] theorem adminRun_pending (s : State) (r : CmdRef) (opc : Nat) (blk trailer : List Octet) (op : AdminOp)
    (h : ∀ s c w b t y, (op s c w b t y).1.pending = s.pending) : (adminRun s r opc blk trailer op).pending = s.pending := by
  unfold adminRun; split <;> simp [h]
@[simp] theorem adminRun_otp (s : State) (r : CmdRef) (opc : Nat) (blk trailer : List Octet) (op : AdminOp)
    (h : ∀ s c w b t y, (op s c w b t y).1.otp = s.otp) : (adminRun s r opc blk trailer op).otp = s.otp := by
  unfold adminRun; split <;> simp [h]
@[simp] theorem adminRun_wf (s : State) (r : CmdRef) (opc : Nat) (blk trailer : List Octet) (op : AdminOp)
    (h : ∀ s c w b t y, s.mem.wf = true → (op s c w b t y).1.mem.wf = true) (hs : s.mem.wf = true) :
    (adminRun s r opc blk trailer op).mem.wf = true := by
  unfold adminRun; split
  · exact hs
  · exact adminChecked_wf _ _ _ _ _ h (by simpa using hs)

@[simp] theorem abortOp_keep (s : State) (r : CmdRef) :
    (abortOp s r).pending = s.pending ∧ (abortOp s r).otp = s.otp ∧ (abortOp s r).mem = s.mem := by
  simp only [abortOp]; (repeat' split) <;> simp_all

@[simp] theorem newKey_pending (d : Nat) (s : State) (f : State → State × Rep) (h : ∀ x, (f x).1.pending = x.pending) :
    (newKey d s f).1.pending = s.pending := by
  unfold newKey; dsimp only; split <;> simp_all
@[simp] theorem newKey_otp (d : Nat) (s : State) (f : State → State × Rep) (h : ∀ x, (f x).1.otp = x.otp) :
    (newKey d s f).1.otp = s.otp := by
  unfold newKey; dsimp only; split <;> simp_all
@[simp] theorem newKey_wf (d : Nat) (s : State) (f : State → State × Rep) (h : ∀ x, x.mem.wf = true → (f x).1.mem.wf = true)
    (hs : s.mem.wf = true) : (newKey d s f).1.mem.wf = true := by
  unfold newKey; dsimp only; split <;> simp_all

@[simp] theorem changeKey_pending (k : Nat) (tell : State → Nat → State) (s : State) (f : State → State × Rep)
    (ht : ∀ x n, (tell x n).pending = x.pending) (h : ∀ x, (f x).1.pending = x.pending) : (changeKey k tell s f).1.pending = s.pending := by
  unfold changeKey; dsimp only; split <;> simp_all
@[simp] theorem changeKey_otp (k : Nat) (tell : State → Nat → State) (s : State) (f : State → State × Rep)
    (ht : ∀ x n, (tell x n).otp = x.otp) (h : ∀ x, (f x).1.otp = x.otp) : (changeKey k tell s f).1.otp = s.otp := by
  unfold changeKey; dsimp only; split <;> simp_all
@[simp] theorem changeKey_wf (k : Nat) (tell : State → Nat → State) (s : State) (f : State → State × Rep)
    (ht : ∀ x n, x.mem.wf = true → (tell x n).mem.wf = true) (h : ∀ x, x.mem.wf = true → (f x).1.mem.wf = true)
    (hs : s.mem.wf = true) : (changeKey k tell s f).1.mem.wf = true := by
  unfold changeKey; dsimp only; split
  · exact hs
  · exact elim_wf _ _ _ (fun a => ht _ _ (h _ hs)) (h _ hs)

@[simp] theorem journalReadOp_keep (s : State) (c : Cmd) :
    (journalReadOp s c).1.pending = s.pending ∧ (journalReadOp s c).1.otp = s.otp ∧ (journalReadOp s c).1.mem = s.mem := by
  and_intros <;> simp [journalReadOp]

@[simp] theorem journalAckOp_keep (s : State) (c : Cmd) :
    (journalAckOp s c).1.pending = s.pending ∧ (journalAckOp s c).1.otp = s.otp ∧ (journalAckOp s c).1.mem = s.mem := by
  and_intros <;> simp [journalAckOp]

@[simp] theorem journalClearOp_keep (s : State) (c : Cmd) (w : Who) (blk : List Octet) :
    (journalClearOp s c w blk).1.pending = s.pending ∧ (journalClearOp s c w blk).1.otp = s.otp ∧ (journalClearOp s c w blk).1.mem = s.mem := by
  and_intros <;> simp [journalClearOp]

@[simp] theorem attestOp_keep (s : State) (c : Cmd) (blk : List Octet) :
    (attestOp s c blk).1.pending = s.pending ∧ (attestOp s c blk).1.otp = s.otp ∧ (attestOp s c blk).1.mem = s.mem := by
  and_intros <;> simp [attestOp]

@[simp] theorem takeoverOp_keep (s : State) (c : Cmd) (blk : List Octet) :
    (takeoverOp s c blk).1.pending = s.pending ∧ (takeoverOp s c blk).1.otp = s.otp ∧ (takeoverOp s c blk).1.mem = s.mem := by
  and_intros <;> simp [takeoverOp]

@[simp] theorem vaultResetOp_keep (s : State) (c : Cmd) (w : Who) (blk : List Octet) :
    (vaultResetOp s c w blk).1.pending = s.pending ∧ (vaultResetOp s c w blk).1.otp = s.otp := by
  and_intros <;> simp [vaultResetOp]
@[simp] theorem vaultResetOp_wf (s : State) (c : Cmd) (w : Who) (blk : List Octet) (hm : s.mem.wf = true) : (vaultResetOp s c w blk).1.mem.wf = true := by
  simp [vaultResetOp, hm]

@[simp] theorem vaultLoadOp_keep (s : State) (blk : List Octet) :
    (vaultLoadOp s blk).1.pending = s.pending ∧ (vaultLoadOp s blk).1.otp = s.otp ∧ (vaultLoadOp s blk).1.mem = s.mem := by
  and_intros <;> simp [vaultLoadOp]

@[simp] theorem firmwareStageOp_keep (s : State) (c : Cmd) (w : Who) (blk : List Octet) :
    (firmwareStageOp s c w blk).1.pending = s.pending ∧ (firmwareStageOp s c w blk).1.otp = s.otp ∧ (firmwareStageOp s c w blk).1.mem = s.mem := by
  and_intros <;> simp [firmwareStageOp]

@[simp] theorem firmwareActivateOp_keep (s : State) (w : Who) (blk : List Octet) :
    (firmwareActivateOp s w blk).1.pending = s.pending ∧ (firmwareActivateOp s w blk).1.otp = s.otp ∧ (firmwareActivateOp s w blk).1.mem = s.mem := by
  and_intros <;> simp [firmwareActivateOp]

@[simp] theorem openDebug_keep (s : State) (w : Who) (cert : List Octet) :
    (openDebug s w cert).pending = s.pending ∧ (openDebug s w cert).otp = s.otp ∧ (openDebug s w cert).mem = s.mem := by
  and_intros <;> simp [openDebug]

@[simp] theorem renewNonce_keep (s : State) :
    (renewNonce s).pending = s.pending ∧ (renewNonce s).otp = s.otp ∧ (renewNonce s).mem = s.mem := by
  and_intros <;> simp [renewNonce]

@[simp] theorem debugOp_keep (s : State) (w : Who) (blk : List Octet) (trailer : List Octet) :
    (debugOp s w blk trailer).1.pending = s.pending ∧ (debugOp s w blk trailer).1.otp = s.otp ∧ (debugOp s w blk trailer).1.mem = s.mem := by
  and_intros <;> simp [debugOp]

@[simp] theorem rawEntropyOp_keep (s : State) (blk : List Octet) :
    (rawEntropyOp s blk).1.pending = s.pending ∧ (rawEntropyOp s blk).1.otp = s.otp ∧ (rawEntropyOp s blk).1.mem = s.mem := by
  and_intros <;> simp [rawEntropyOp]

@[simp] theorem rawReadOp_keep (s : State) (c : Cmd) :
    (rawReadOp s c).1.pending = s.pending ∧ (rawReadOp s c).1.otp = s.otp ∧ (rawReadOp s c).1.mem = s.mem := by
  and_intros <;> simp [rawReadOp]

@[simp] theorem rawGo_keep (s : State) (sc : Nat) (restart : Bool) (n : Fin 8) (count : Nat) :
    (rawGo s sc restart n count).pending = s.pending ∧ (rawGo s sc restart n count).otp = s.otp ∧ (rawGo s sc restart n count).mem = s.mem := by
  and_intros <;> simp [rawGo]

@[simp] theorem cellWindowOp_keep (s : State) (blk : List Octet) :
    (cellWindowOp s blk).1.pending = s.pending ∧ (cellWindowOp s blk).1.otp = s.otp ∧ (cellWindowOp s blk).1.mem = s.mem := by
  and_intros <;> simp [cellWindowOp]

@[simp] theorem warmResetCmd_keep (s : State) (r : CmdRef) :
    (warmResetCmd s r).pending = s.pending ∧ (warmResetCmd s r).otp = s.otp ∧ (warmResetCmd s r).mem = s.mem := by
  simp only [warmResetCmd]; (repeat' split) <;> simp_all

/-! ### Machine/Modes.lean -/

@[simp] theorem republish_keep (s : State) :
    (republish s).pending = s.pending ∧ (republish s).otp = s.otp ∧ (republish s).mem = s.mem := by
  simp only [republish]; (repeat' split) <;> simp_all

@[simp] theorem porReset_keep (s : State) (b : Bool) : (porReset s b).pending = s.pending ∧ (porReset s b).otp = s.otp := by
  cases b <;> and_intros <;> simp [porReset]
@[simp] theorem porReset_wf (s : State) (b : Bool) : (porReset s b).mem.wf = true := by
  have : (porReset s b).mem = Mem.reset := by cases b <;> simp [porReset, State.reset]
  rw [this]; rfl

@[simp] theorem warmEnds_keep (s : State) :
    (warmEnds s).pending = s.pending ∧ (warmEnds s).otp = s.otp ∧ (warmEnds s).mem = s.mem := by
  and_intros <;> simp [warmEnds]

@[simp] theorem warmReach_keep (s : State) : (warmReach s).pending = s.pending ∧ (warmReach s).otp = s.otp := by
  and_intros <;> simp [warmReach]
@[simp] theorem warmReach_wf (s : State) (hm : s.mem.wf = true) : (warmReach s).mem.wf = true := by
  have h : (flushDone (startFlush (warmEnds s))).mem.wf = true := by simp [hm]
  simp_all [warmReach, Mem.wf_iff]

@[simp] theorem stopLoad_keep (s : State) :
    (stopLoad s).pending = s.pending ∧ (stopLoad s).otp = s.otp ∧ (stopLoad s).mem = s.mem := by
  and_intros <;> simp [stopLoad]

@[simp] theorem startLoad_keep (s : State) :
    (startLoad s).pending = s.pending ∧ (startLoad s).otp = s.otp ∧ (startLoad s).mem = s.mem := by
  and_intros <;> simp [startLoad]

@[simp] theorem releaseSource_keep (s : State) (b : Nat) :
    (releaseSource s b).pending = s.pending ∧ (releaseSource s b).otp = s.otp ∧ (releaseSource s b).mem = s.mem := by
  and_intros <;> simp [releaseSource]

@[simp] theorem resetPin_keep (s : State) :
    (resetPin s).pending = s.pending ∧ (resetPin s).otp = s.otp := by
  and_intros <;> simp [resetPin]
@[simp] theorem resetPin_wf (s : State) (hm : s.mem.wf = true) : (resetPin s).mem.wf = true := by
  simp [resetPin, hm]

@[simp] theorem supplyFalls_keep (s : State) :
    (supplyFalls s).pending = s.pending ∧ (supplyFalls s).otp = s.otp := by
  and_intros <;> simp [supplyFalls]
@[simp] theorem supplyFalls_wf (s : State) (hm : s.mem.wf = true) : (supplyFalls s).mem.wf = true := by
  simp [supplyFalls, hm]

@[simp] theorem warmPin_keep (s : State) :
    (warmPin s).pending = s.pending ∧ (warmPin s).otp = s.otp ∧ (warmPin s).mem = s.mem := by
  and_intros <;> simp [warmPin]

@[simp] theorem portSource_keep (s : State) (p : Nat) (held : Bool) :
    (portSource s p held).pending = s.pending ∧ (portSource s p held).otp = s.otp ∧ (portSource s p held).mem = s.mem := by
  and_intros <;> simp [portSource]

@[simp] theorem perstReleased_keep (s : State) (p : Nat) :
    (perstReleased s p).pending = s.pending ∧ (perstReleased s p).otp = s.otp ∧ (perstReleased s p).mem = s.mem := by
  and_intros <;> simp [perstReleased]

@[simp] theorem fuseFault_keep (s : State) (cause : Nat) :
    (fuseFault s cause).pending = s.pending ∧ (fuseFault s cause).otp = s.otp ∧ (fuseFault s cause).mem = s.mem := by
  and_intros <;> simp [fuseFault]

@[simp] theorem loadEnds_keep (s : State) (shadowOk : Bool) (split : Bool) (strap : Nat) :
    (loadEnds s shadowOk split strap).pending = s.pending ∧ (loadEnds s shadowOk split strap).otp = s.otp ∧ (loadEnds s shadowOk split strap).mem = s.mem := by
  and_intros <;> simp [loadEnds]

@[simp] theorem warmApply_keep (s : State) :
    (warmApply s).pending = s.pending ∧ (warmApply s).otp = s.otp := by
  and_intros <;> simp [warmApply]
@[simp] theorem warmApply_wf (s : State) (hm : s.mem.wf = true) : (warmApply s).mem.wf = true := by
  simp [warmApply, hm]

@[simp] theorem warmRelease_keep (s : State) :
    (warmRelease s).pending = s.pending ∧ (warmRelease s).otp = s.otp ∧ (warmRelease s).mem = s.mem := by
  and_intros <;> simp [warmRelease]

@[simp] theorem firstSlot_keep (s : State) :
    (firstSlot s).2.pending = s.pending ∧ (firstSlot s).2.otp = s.otp ∧ (firstSlot s).2.mem = s.mem := by
  and_intros <;> simp [firstSlot]

@[simp] theorem confirmSlot_keep (s : State) (booted : Nat) (fallback : Bool) :
    (confirmSlot s booted fallback).pending = s.pending ∧ (confirmSlot s booted fallback).otp = s.otp ∧ (confirmSlot s booted fallback).mem = s.mem := by
  and_intros <;> simp [confirmSlot]

@[simp] theorem bootMode_keep (s : State) :
    (bootMode s).2.pending = s.pending ∧ (bootMode s).2.otp = s.otp ∧ (bootMode s).2.mem = s.mem := by
  simp only [bootMode]; (repeat' split) <;> simp_all

@[simp] theorem bootEnds_keep (s : State) (slot : Option Bool) (testPass : Bool) :
    (bootEnds s slot testPass).pending = s.pending ∧ (bootEnds s slot testPass).otp = s.otp ∧ (bootEnds s slot testPass).mem = s.mem := by
  simp only [bootEnds]; (repeat' split) <;> simp_all

@[simp] theorem zeroizedEntry_keep (s : State) : (zeroizedEntry s).pending = s.pending ∧ (zeroizedEntry s).otp = s.otp := by
  simp only [zeroizedEntry]; (repeat' split) <;> simp
@[simp] theorem zeroizedEntry_wf (s : State) (hm : s.mem.wf = true) : (zeroizedEntry s).mem.wf = true := by
  simp only [zeroizedEntry]; (repeat' split) <;> simp_all [Mem.wf_iff]

@[simp] theorem powerFails_keep (s : State) :
    (powerFails s).pending = s.pending ∧ (powerFails s).otp = s.otp ∧ (powerFails s).mem = s.mem := by
  and_intros <;> simp [powerFails]

@[simp] theorem powerHold_keep (s : State) :
    (powerHold s).pending = s.pending ∧ (powerHold s).otp = s.otp := by
  and_intros <;> simp [powerHold]
@[simp] theorem powerHold_wf (s : State) (hm : s.mem.wf = true) : (powerHold s).mem.wf = true := by
  simp [powerHold, hm]

@[simp] theorem powerReturns_keep (s : State) :
    (powerReturns s).pending = s.pending ∧ (powerReturns s).otp = s.otp := by
  and_intros <;> simp [powerReturns]
@[simp] theorem powerReturns_wf (s : State) (hm : s.mem.wf = true) : (powerReturns s).mem.wf = true := by
  simp [powerReturns, hm]

@[simp] theorem stopHolders_keep (s : State) (ty : Nat) (i : Nat) :
    (stopHolders s ty i).pending = s.pending ∧ (stopHolders s ty i).otp = s.otp ∧ (stopHolders s ty i).mem = s.mem := by
  and_intros <;> simp [stopHolders]

@[simp] theorem withdrawGrants_keep (s : State) (ty : Nat) (i : Nat) :
    (withdrawGrants s ty i).pending = s.pending ∧ (withdrawGrants s ty i).otp = s.otp ∧ (withdrawGrants s ty i).mem = s.mem := by
  and_intros <;> simp [withdrawGrants]

@[simp] theorem clearBlock_keep (s : State) (ty : Nat) (i : Nat) :
    (clearBlock s ty i).pending = s.pending ∧ (clearBlock s ty i).otp = s.otp ∧ (clearBlock s ty i).mem = s.mem := by
  and_intros <;> simp [clearBlock]

@[simp] theorem blockStart_keep (s : State) (ty : Nat) (i : Nat) :
    (blockStart s ty i).pending = s.pending ∧ (blockStart s ty i).otp = s.otp ∧ (blockStart s ty i).mem = s.mem := by
  and_intros <;> simp [blockStart]

@[simp] theorem blockDone_keep (s : State) :
    (blockDone s).pending = s.pending ∧ (blockDone s).otp = s.otp ∧ (blockDone s).mem = s.mem := by
  simp only [blockDone]; (repeat' split) <;> simp_all

@[simp] theorem scKick_keep (s : State) :
    (scKick s).pending = s.pending ∧ (scKick s).otp = s.otp ∧ (scKick s).mem = s.mem := by
  and_intros <;> simp [scKick]

@[simp] theorem scHalf_keep (s : State) :
    (scHalf s).pending = s.pending ∧ (scHalf s).otp = s.otp ∧ (scHalf s).mem = s.mem := by
  and_intros <;> simp [scHalf]

@[simp] theorem scExpires_keep (s : State) :
    (scExpires s).pending = s.pending ∧ (scExpires s).otp = s.otp ∧ (scExpires s).mem = s.mem := by
  and_intros <;> simp [scExpires]

@[simp] theorem releaseSc1_keep (s : State) :
    (releaseSc1 s).pending = s.pending ∧ (releaseSc1 s).otp = s.otp ∧ (releaseSc1 s).mem = s.mem := by
  and_intros <;> simp [releaseSc1]

@[simp] theorem ringDoors_keep (s : State) (v : Nat) :
    (ringDoors s v).pending = s.pending ∧ (ringDoors s v).otp = s.otp ∧ (ringDoors s v).mem = s.mem := by
  and_intros <;> simp [ringDoors]

@[simp] theorem fallAsleep_keep (s : State) :
    (fallAsleep s).pending = s.pending ∧ (fallAsleep s).otp = s.otp ∧ (fallAsleep s).mem = s.mem := by
  and_intros <;> simp [fallAsleep]

end Sys2Proof.Machine
end

