-- ==== Sys2Proof/Laws/KeepCtl.lean ====
section
/-! SUPPORT. One lemma per operation of the controllers: the queue and OTP it leaves alone, memory it leaves alone or keeps
canonical (names ending in `_keep` and `_wf`; `_to` says the same of a state that an equation names). -/
namespace Sys2Proof.Machine

/-! ### Machine/Ctl.lean -/

@[simp] theorem mcHalts_keep (s : State) :
    (mcHalts s).pending = s.pending ∧ (mcHalts s).otp = s.otp ∧ (mcHalts s).mem = s.mem := by
  and_intros <;> simp [mcHalts]

@[simp] theorem takeExc_keep (s : State) (c : CtlId) (vec : Nat) (code : Nat) (eaddr : Nat) :
    (takeExc s c vec code eaddr).pending = s.pending ∧ (takeExc s c vec code eaddr).otp = s.otp ∧ (takeExc s c vec code eaddr).mem = s.mem := by
  and_intros <;> simp [takeExc]

@[simp] theorem fetchCheck_keep (s : State) (c : CtlId) :
    (fetchCheck s c).1.pending = s.pending ∧ (fetchCheck s c).1.otp = s.otp := by
  simp only [fetchCheck]; (repeat' split) <;> simp_all
@[simp] theorem fetchCheck_wf (s : State) (c : CtlId) (hm : s.mem.wf = true) : (fetchCheck s c).1.mem.wf = true := by
  simp only [fetchCheck]; (repeat' split) <;> simp_all
theorem fetchCheck_to {s : State} {c : CtlId} {t_ : State} {r_ : Option (Nat × Nat)} (e_ : fetchCheck s c = (t_, r_)) :
    t_.pending = s.pending ∧ t_.otp = s.otp ∧ (s.mem.wf = true → t_.mem.wf = true) := by
  have k := fetchCheck_keep s c; have w := fetchCheck_wf s c; rw [e_] at k w; exact ⟨k.1, k.2, w⟩

/-- The state that an instruction's operation leaves. -/
def Ran.state : Ran → State
  | .ok s => s
  | .delayed s _ _ => s
  | .goes s _ _ => s
  | .stays s => s
  | .raises s _ _ _ => s

@[simp] theorem Ran.state_ok (s : State) : (Ran.ok s).state = s := rfl
@[simp] theorem Ran.state_delayed (s : State) (d : DWord) (l : Bool) : (Ran.delayed s d l).state = s := rfl
@[simp] theorem Ran.state_goes (s : State) (d : DWord) (l : Option Nat) : (Ran.goes s d l).state = s := rfl
@[simp] theorem Ran.state_stays (s : State) : (Ran.stays s).state = s := rfl
@[simp] theorem Ran.state_raises (s : State) (a b d : Nat) : (Ran.raises s a b d).state = s := rfl
@[simp] theorem Ran.state_ite (c : Prop) [Decidable c] (a b : Ran) : (if c then a else b).state = if c then a.state else b.state :=
  apply_ite Ran.state c a b

@[simp] theorem ctlEnds_keep (c : CtlId) (n : Nat) (r : Ran) :
    (ctlEnds c n r).pending = r.state.pending ∧ (ctlEnds c n r).otp = r.state.otp ∧ (ctlEnds c n r).mem = r.state.mem := by
  cases r <;> simp [ctlEnds, Ran.state]

@[simp] theorem ctlIssue_pending (s : State) (c : CtlId) (i : Issue) (op : State → Ran) (h : ∀ x, (op x).state.pending = x.pending) :
    (ctlIssue s c i op).pending = s.pending := by
  unfold ctlIssue
  grind [→ fetchCheck_to, takeExc_keep, ctlEnds_keep, State.onCtl_frame]
@[simp] theorem ctlIssue_otp (s : State) (c : CtlId) (i : Issue) (op : State → Ran) (h : ∀ x, (op x).state.otp = x.otp) :
    (ctlIssue s c i op).otp = s.otp := by
  unfold ctlIssue
  grind [→ fetchCheck_to, takeExc_keep, ctlEnds_keep, State.onCtl_frame]
@[simp] theorem ctlIssue_wf (s : State) (c : CtlId) (i : Issue) (op : State → Ran)
    (h : ∀ x, x.mem.wf = true → (op x).state.mem.wf = true) (hs : s.mem.wf = true) : (ctlIssue s c i op).mem.wf = true := by
  unfold ctlIssue
  grind [→ fetchCheck_to, takeExc_keep, ctlEnds_keep, State.onCtl_frame]

@[simp] theorem interruptTaken_keep (s : State) (c : CtlId) :
    (interruptTaken s c).pending = s.pending ∧ (interruptTaken s c).otp = s.otp ∧ (interruptTaken s c).mem = s.mem := by
  simp only [interruptTaken]; (repeat' split) <;> simp_all

@[simp] theorem secureEntry_keep (s : State) (c : CtlId) :
    (secureEntry s c).pending = s.pending ∧ (secureEntry s c).otp = s.otp ∧ (secureEntry s c).mem = s.mem := by
  and_intros <;> simp [secureEntry]

@[simp] theorem cycleWrap_keep (s : State) (c : CtlId) :
    (cycleWrap s c).pending = s.pending ∧ (cycleWrap s c).otp = s.otp ∧ (cycleWrap s c).mem = s.mem := by
  and_intros <;> simp [cycleWrap]

@[simp] theorem memWord_keep (s : State) (m : Nat) (addr : Nat) :
    (memWord s m addr).1.pending = s.pending ∧ (memWord s m addr).1.otp = s.otp := by
  and_intros <;> grind [memWord, → lineCheck_to]
@[simp] theorem memWord_wf (s : State) (m : Nat) (addr : Nat) (hm : s.mem.wf = true) : (memWord s m addr).1.mem.wf = true := by
  grind [memWord, → lineCheck_to, lineCheck_wf]
theorem memWord_to {s : State} {m : Nat} {addr : Nat} {t_ : State} {r_ : Option Word} (e_ : memWord s m addr = (t_, r_)) :
    t_.pending = s.pending ∧ t_.otp = s.otp ∧ (s.mem.wf = true → t_.mem.wf = true) := by
  have k := memWord_keep s m addr; have w := memWord_wf s m addr; rw [e_] at k w; exact ⟨k.1, k.2, w⟩

@[simp] theorem memStore_keep (s : State) (m : Nat) (addr : Nat) (l : List (Nat × Nonet)) :
    (memStore s m addr l).1.pending = s.pending ∧ (memStore s m addr l).1.otp = s.otp := by
  and_intros <;> simp [memStore]
@[simp] theorem memStore_wf (s : State) (m : Nat) (addr : Nat) (l : List (Nat × Nonet)) (hm : s.mem.wf = true) : (memStore s m addr l).1.mem.wf = true := by
  simp only [memStore]; (repeat' split) <;> simp_all
theorem memStore_to {s : State} {m : Nat} {addr : Nat} {l : List (Nat × Nonet)} {t_ : State} {r_ : Bool} (e_ : memStore s m addr l = (t_, r_)) :
    t_.pending = s.pending ∧ t_.otp = s.otp ∧ (s.mem.wf = true → t_.mem.wf = true) := by
  have k := memStore_keep s m addr l; have w := memStore_wf s m addr l; rw [e_] at k w; exact ⟨k.1, k.2, w⟩

/-! ### Machine/Alu.lean -/

@[simp] theorem slotEnds_keep (s : State) (a : At) (i : Inst) :
    (slotEnds s a i).pending = s.pending ∧ (slotEnds s a i).otp = s.otp ∧ (slotEnds s a i).mem = s.mem := by
  and_intros <;> simp [slotEnds]

@[simp] theorem slot0_keep (s : State) (a : At) (f : Seq → Option (List (Nat × LandEff))) :
    (slot0 s a f).pending = s.pending ∧ (slot0 s a f).otp = s.otp ∧ (slot0 s a f).mem = s.mem := by
  unfold slot0; and_intros <;> (first | apply issueOn_pending | apply issueOn_otp | apply issueOn_mem | apply issue_pending | apply issue_otp | apply issue_mem | apply duOp_pending | apply duOp_otp | apply duOp_mem | apply xferOp_pending | apply xferOp_otp | apply xferOp_mem) <;> intros <;> (try dsimp only) <;> (repeat' split) <;> simp_all

@[simp] theorem aluOp_keep (x : Site) (lat : Nat) (legal : Bool) (rd : Fin 32) (f : (Nat → Word) → (Nat → DWord) → Flags → AluRes) (s : State) :
    (aluOp x lat legal rd f s).pending = s.pending ∧ (aluOp x lat legal rd f s).otp = s.otp := by
  cases x <;> and_intros <;> simp [aluOp]
@[simp] theorem aluOp_wf (x : Site) (lat : Nat) (legal : Bool) (rd : Fin 32) (f : (Nat → Word) → (Nat → DWord) → Flags → AluRes) (s : State) (hm : s.mem.wf = true) : (aluOp x lat legal rd f s).mem.wf = true := by
  cases x <;> simp [aluOp, hm]

@[simp] theorem idleSlot_keep (a : At) (s : State) :
    (idleSlot a s).pending = s.pending ∧ (idleSlot a s).otp = s.otp ∧ (idleSlot a s).mem = s.mem := by
  and_intros <;> simp [idleSlot]

@[simp] theorem divOp_keep (c : CtlId) (signed : Bool) (rd ra rb : Fin 32) (s : State) :
    (divOp c signed rd ra rb s).pending = s.pending ∧ (divOp c signed rd ra rb s).otp = s.otp := by
  refine ⟨ctlIssue_pending _ _ _ _ (fun x => ?_), ctlIssue_otp _ _ _ _ (fun x => ?_)⟩ <;> simp
@[simp] theorem divOp_wf (c : CtlId) (signed : Bool) (rd ra rb : Fin 32) (s : State) (hm : s.mem.wf = true) : (divOp c signed rd ra rb s).mem.wf = true := by
  refine ctlIssue_wf _ _ _ _ (fun x hx => ?_) hm; simp [hx]

/-! ### Machine/Branch.lean -/

@[simp] theorem compareBranch_keep (c : CtlId) (ra rb : Fin 32) (disp : Word) (cond : Word → Word → Bool) (s : State) :
    (compareBranch c ra rb disp cond s).pending = s.pending ∧ (compareBranch c ra rb disp cond s).otp = s.otp :=
  ⟨ctlIssue_pending _ _ _ _ (fun _ => rfl), ctlIssue_otp _ _ _ _ (fun _ => rfl)⟩
@[simp] theorem compareBranch_wf (c : CtlId) (ra rb : Fin 32) (disp : Word) (cond : Word → Word → Bool) (s : State) (hm : s.mem.wf = true) : (compareBranch c ra rb disp cond s).mem.wf = true :=
  ctlIssue_wf _ _ _ _ (fun _ h => h) hm

@[simp] theorem jumpPair_keep (c : CtlId) (ra : Fin 32) (link : Bool) (s : State) :
    (jumpPair c ra link s).pending = s.pending ∧ (jumpPair c ra link s).otp = s.otp := by
  refine ⟨ctlIssue_pending _ _ _ _ (fun x => ?_), ctlIssue_otp _ _ _ _ (fun x => ?_)⟩ <;> simp
@[simp] theorem jumpPair_wf (c : CtlId) (ra : Fin 32) (link : Bool) (s : State) (hm : s.mem.wf = true) : (jumpPair c ra link s).mem.wf = true := by
  refine ctlIssue_wf _ _ _ _ (fun x hx => ?_) hm; simp [hx]

@[simp] theorem gateOp_keep (s : State) (c : CtlId) (code : BitVec 8) : (gateOp s c code).state.pending = s.pending ∧ (gateOp s c code).state.otp = s.otp ∧
    (gateOp s c code).state.mem = s.mem := by
  simp only [gateOp]; (repeat' split) <;> simp_all

@[simp] theorem eretOp_keep (s : State) (c : CtlId) : (eretOp s c).state.pending = s.pending ∧ (eretOp s c).state.otp = s.otp ∧
    (eretOp s c).state.mem = s.mem := by
  simp only [eretOp]; (repeat' split) <;> simp_all

@[simp] theorem brkOp_keep (s : State) (c : CtlId) (code : BitVec 8) : (brkOp s c code).state.pending = s.pending ∧ (brkOp s c code).state.otp = s.otp ∧
    (brkOp s c code).state.mem = s.mem := by
  simp only [brkOp]; (repeat' split) <;> simp_all

end Sys2Proof.Machine
end

