-- ==== Sys2Proof/Laws/Ctl.lean ====
section
/-! SUPPORT. The controllers' shared operations said once: reading a controller back, registers and pairs written, what the fetch leaves alone,
and how an instruction that executes ends. -/
namespace Sys2Proof.Machine

/-! ### A controller written and read -/

@[simp] theorem State.ctl_setCtl (s : State) (c : CtlId) (k : Ctl) : (s.setCtl c k).ctl c = k := by cases c <;> rfl
@[simp] theorem State.ctl_setCtl_ne (s : State) {c d : CtlId} (k : Ctl) (h : d ≠ c) : (s.setCtl c k).ctl d = s.ctl d := by
  cases c <;> cases d <;> first | rfl | exact absurd rfl h
@[simp] theorem State.setCtl_setCtl (s : State) (c : CtlId) (k k' : Ctl) : (s.setCtl c k).setCtl c k' = s.setCtl c k' := by cases c <;> rfl
@[simp] theorem State.setCtl_ctl (s : State) (c : CtlId) : s.setCtl c (s.ctl c) = s := by cases c <;> rfl
@[simp] theorem State.ctl_onCtl (s : State) (c : CtlId) (f : Ctl → Ctl) : (s.onCtl c f).ctl c = f (s.ctl c) := by simp [State.onCtl]
theorem State.onCtl_def (s : State) (c : CtlId) (f : Ctl → Ctl) : s.onCtl c f = s.setCtl c (f (s.ctl c)) := rfl
theorem State.ctl_eq {s t : State} (h0 : t.sc0 = s.sc0) (h1 : t.sc1 = s.sc1) (h2 : t.mc = s.mc) (c : CtlId) : t.ctl c = s.ctl c := by
  cases c <;> assumption

/-! ### Registers -/

@[simp] theorem Ctl.reg_zero (k : Ctl) : k.reg 0 = 0 := rfl

theorem Ctl.reg_setReg (k : Ctl) (i r : Nat) (v : Word) (h : i < 32) : (k.setReg i v).reg r = oneReg k i v r := by
  unfold Ctl.setReg oneReg Ctl.reg
  by_cases hi : 0 < i
  · rw [dif_pos ⟨hi, h⟩]
    by_cases hr : r = 0
    · simp [hr]
    · by_cases e : r = i
      · subst e; simp [nth, h, hr]
      · have e' : i ≠ r := fun x => e x.symm
        simp [nth, e, hr, List.getElem?_set_ne e', Vector.toList_set]
  · have : i = 0 := by omega
    subst this
    rw [dif_neg (by simp)]
    by_cases hr : r = 0
    · simp [hr]
    · simp [hr]

theorem Ctl.reg_ge (k : Ctl) (r : Nat) (h : 32 ≤ r) : k.reg r = 0 := by
  unfold Ctl.reg nth
  rw [if_neg (by omega), List.getElem?_eq_none (by simpa using h)]; rfl

theorem Ctl.reg_setPair (k : Ctl) (i r : Nat) (v : DWord) (h : i + 1 < 32) : (k.setPair i v).reg r = onePair k i v r := by
  unfold Ctl.setPair
  rw [Ctl.reg_setReg _ _ _ _ h]
  unfold oneReg onePair
  by_cases e : r = i + 1
  · simp [e]
  · simp only [e, false_and, if_false]
    rw [Ctl.reg_setReg _ _ _ _ (by omega)]; rfl

/-- A field of a controller that writing registers leaves alone. -/
@[simp] theorem Ctl.setReg_frame (k : Ctl) (i : Nat) (v : Word) :
    (k.setReg i v).pc = k.pc ∧ (k.setReg i v).priv = k.priv ∧ (k.setReg i v).secure = k.secure ∧ (k.setReg i v).norm = k.norm ∧
    (k.setReg i v).secu = k.secu ∧ (k.setReg i v).cyc = k.cyc ∧ (k.setReg i v).cycHold = k.cycHold ∧ (k.setReg i v).cyo = k.cyo ∧
    (k.setReg i v).branch = k.branch ∧ (k.setReg i v).shadow = k.shadow ∧ (k.setReg i v).gvalid = k.gvalid ∧
    (k.setReg i v).grlevel = k.grlevel ∧ (k.setReg i v).ghwentry = k.ghwentry ∧ (k.setReg i v).gpc = k.gpc ∧ (k.setReg i v).gcode = k.gcode ∧
    (k.setReg i v).monbase = k.monbase ∧ (k.setReg i v).iroute = k.iroute ∧ (k.setReg i v).running = k.running ∧
    (k.setReg i v).waiting = k.waiting ∧ (k.setReg i v).halted = k.halted ∧ (k.setReg i v).step = k.step := by
  unfold Ctl.setReg; split <;> simp

theorem Ctl.setReg_eq (k : Ctl) (i : Nat) (v : Word) : k.setReg i v = { k with g := (k.setReg i v).g } := by
  unfold Ctl.setReg; split <;> rfl
theorem Ctl.setPair_eq (k : Ctl) (i : Nat) (v : DWord) : k.setPair i v = { k with g := (k.setPair i v).g } := by
  unfold Ctl.setPair; rw [Ctl.setReg_eq, Ctl.setReg_eq k]

@[simp] theorem Ctl.cur_onCur (k : Ctl) (f : WorldCtx → WorldCtx) : (k.onCur f).cur = f k.cur := by
  unfold Ctl.onCur Ctl.cur; cases h : k.secure <;> simp [h]
@[simp] theorem Ctl.reg_onCur (k : Ctl) (f : WorldCtx → WorldCtx) (r : Nat) : (k.onCur f).reg r = k.reg r := by
  unfold Ctl.onCur; split <;> rfl
@[simp] theorem Ctl.cur_setReg (k : Ctl) (i : Nat) (v : Word) : (k.setReg i v).cur = k.cur := by simp [Ctl.cur]
@[simp] theorem Ctl.cur_setPair (k : Ctl) (i : Nat) (v : DWord) : (k.setPair i v).cur = k.cur := by simp [Ctl.setPair]
@[simp] theorem Ctl.onCur_frame (k : Ctl) (f : WorldCtx → WorldCtx) :
    (k.onCur f).g = k.g ∧ (k.onCur f).pc = k.pc ∧ (k.onCur f).priv = k.priv ∧ (k.onCur f).secure = k.secure ∧ (k.onCur f).cyc = k.cyc ∧
    (k.onCur f).cycHold = k.cycHold ∧ (k.onCur f).cyo = k.cyo ∧ (k.onCur f).branch = k.branch ∧ (k.onCur f).shadow = k.shadow ∧
    (k.onCur f).gvalid = k.gvalid ∧ (k.onCur f).grlevel = k.grlevel ∧ (k.onCur f).ghwentry = k.ghwentry ∧ (k.onCur f).gpc = k.gpc ∧
    (k.onCur f).gcode = k.gcode ∧ (k.onCur f).monbase = k.monbase ∧ (k.onCur f).iroute = k.iroute ∧ (k.onCur f).running = k.running ∧
    (k.onCur f).waiting = k.waiting ∧ (k.onCur f).halted = k.halted ∧ (k.onCur f).step = k.step := by
  unfold Ctl.onCur; split <;> simp

/-! ### Fetch and issue -/

@[simp] theorem State.count_ctl (s : State) (f o : Fld) :
    (s.count f o).sc0 = s.sc0 ∧ (s.count f o).sc1 = s.sc1 ∧ (s.count f o).mc = s.mc := by
  unfold State.count; dsimp only; split <;> simp

@[simp] theorem reportRefusal_ctl (s : State) (a : Access) (r : Refused) (c : CtlId) : (reportRefusal s a r).ctl c = s.ctl c := by
  unfold reportRefusal setViol; apply State.ctl_eq <;> simp only [] <;> (repeat' split) <;> simp
@[simp] theorem lineCheck_ctl (s : State) (line m : Nat) (c : CtlId) : (lineCheck s line m).1.ctl c = s.ctl c := by
  unfold lineCheck memCapture; apply State.ctl_eq <;> simp only [] <;> (repeat' split) <;> simp
@[simp] theorem fetchCheck_ctl (s : State) (c d : CtlId) : (fetchCheck s c).1.ctl d = s.ctl d := by
  unfold fetchCheck
  dsimp only
  split
  · simp
  · split <;> simp
@[simp] theorem fetched_ctl (s : State) (c : CtlId) : (fetched s c).ctl c = { s.ctl c with waiting := false } := by simp [fetched]

/-- An instruction that executes with nothing standing before it ends as its operation says. -/
theorem ctlIssue_ends {s : State} {c : CtlId} (h : Executes s c) (i : Issue) (op : State → Ran)
    (hf : issueFault { s.ctl c with waiting := false } i = none) : ctlIssue s c i op = ctlEnds c i.cycles (op (fetched s c)) := by
  obtain ⟨h1, h2⟩ := h
  unfold ctlIssue
  rw [if_neg (by simp [h1])]
  have e : fetchCheck (s.onCtl c (fun k => { k with waiting := false })) c = (fetched s c, none) := by
    rw [← h2]; rfl
  dsimp only
  rw [e]
  dsimp only
  rw [fetched_ctl, hf]

/-- An instruction that executes and meets a condition of Table 3.7 before it acts takes that exception. -/
theorem ctlIssue_traps {s : State} {c : CtlId} (h : Executes s c) (i : Issue) (op : State → Ran) {e : Nat × Nat}
    (hf : issueFault { s.ctl c with waiting := false } i = some e) : ctlIssue s c i op = takeExc (fetched s c) c e.1 e.2 0 := by
  obtain ⟨h1, h2⟩ := h
  unfold ctlIssue
  rw [if_neg (by simp [h1])]
  have e : fetchCheck (s.onCtl c (fun k => { k with waiting := false })) c = (fetched s c, none) := by
    rw [← h2]; rfl
  dsimp only
  rw [e]
  dsimp only
  rw [fetched_ctl, hf]

/-- Completing (R61, R66, R72): every field of the controller afterwards. -/
theorem Ctl.complete_eq (k : Ctl) (n : Nat) : k.complete n =
    { k with
      g := (k.complete n).g
      pc := nextPc k
      norm := (k.complete n).norm
      secu := (k.complete n).secu
      cyc := k.cyc + BitVec.ofNat 36 n
      cyo := k.cyo || decide (2 ^ 36 ≤ k.cyc.toNat + n)
      branch := none
      shadow := k.shadow - 1
      halted := k.halted || k.step
      step := false } := by
  unfold Ctl.complete nextPc
  rcases k.branch with _ | b
  · simp [Ctl.tick, Ctl.onCur]; split <;> simp_all [Ctl.cur]
  · by_cases hl : b.link <;> simp [Ctl.tick, Ctl.onCur, hl] <;> split <;> simp_all [Ctl.cur, Ctl.setPair]

theorem Ctl.complete_reg (k : Ctl) (n r : Nat) : (k.complete n).reg r = withLink k k.reg r := by
  unfold Ctl.complete withLink
  have e : ∀ (x : Ctl) (p : DWord) (b : Option BranchPend) (sh : Nat) (h st : Bool) (m : Nat),
      Ctl.reg { x.tick m with pc := p, branch := b, shadow := sh, halted := h, step := st } r = x.reg r := fun _ _ _ _ _ _ _ => rfl
  rcases k.branch with _ | b
  · simp [e]
  · by_cases hl : b.link
    · simp only [e, hl, if_true, Ctl.reg_onCur, true_and]
      rw [Ctl.reg_setPair _ _ _ _ (by omega)]
      unfold onePair
      by_cases h1 : r = 31
      · subst h1; simp
      · by_cases h0 : r = 30 <;> simp [h0, h1]
    · simp [e, hl]

theorem Ctl.complete_cur (k : Ctl) (n : Nat) : (k.complete n).cur =
    { k.cur with lp0 := (loopNext k.cur.lp0 k.cur.lp1 k.pc 2).1, lp1 := (loopNext k.cur.lp0 k.cur.lp1 k.pc 2).2.1 } := by
  unfold Ctl.complete
  have e : ∀ (x : Ctl) (p : DWord) (b : Option BranchPend) (sh : Nat) (h st : Bool) (m : Nat),
      Ctl.cur { x.tick m with pc := p, branch := b, shadow := sh, halted := h, step := st } = x.cur := fun _ _ _ _ _ _ _ => rfl
  rcases k.branch with _ | b
  · simp [e]
  · by_cases hl : b.link <;> simp [e, hl]

theorem Ctl.complete_other (k : Ctl) (n : Nat) :
    if k.secure then (k.complete n).norm = k.norm else (k.complete n).secu = k.secu := by
  unfold Ctl.complete
  rcases k.branch with _ | b
  · cases h : k.secure <;> simp [Ctl.onCur, h, Ctl.tick]
  · by_cases hl : b.link <;> cases h : k.secure <;> simp [Ctl.onCur, h, Ctl.tick, Ctl.setPair, hl]

/-- A controller whose registers and current flags an instruction has changed completes: all of `Finished`. -/
theorem finished_of (b s : State) (c : CtlId) (n : Nat) (k' : Ctl) (g : Nat → Word) (fl : Flags)
    (hb : b.ctl c = { s.ctl c with waiting := false })
    (hk : k' = ({ s.ctl c with waiting := false, g := k'.g } : Ctl).onCur (fun w => { w with flags := fl })) (hg : ∀ r, k'.reg r = g r) :
    Finished b s (b.setCtl c (k'.complete n)) c n g fl := by
  have hbr : k'.branch = (s.ctl c).branch := by rw [hk]; simp
  have hpc : k'.pc = (s.ctl c).pc := by rw [hk]; simp
  have hcur : k'.cur = { (s.ctl c).cur with flags := fl } := by rw [hk, Ctl.cur_onCur]; rfl
  have hsec : k'.secure = (s.ctl c).secure := by rw [hk]; simp
  have hnp : nextPc k' = nextPc (s.ctl c) := by simp [nextPc, hbr, hpc, hcur]
  refine ⟨?_, ?_, ?_, ?_, ?_⟩
  · intro r
    simp only [State.ctl_setCtl, Ctl.complete_reg, withLink, hbr, hg]
  · simp only [State.ctl_setCtl]; rw [Ctl.complete_eq]; exact hnp
  · simp only [State.ctl_setCtl, Ctl.complete_cur, hcur, hpc]
  · have := Ctl.complete_other k' n
    rw [hsec] at this
    simp only [State.ctl_setCtl]
    cases h : (s.ctl c).secure
    · simp only [h, Bool.false_eq_true, if_false] at this ⊢
      rw [this, hk]; simp [Ctl.onCur, h]
    · simp only [h, if_true] at this ⊢
      rw [this, hk]; simp [Ctl.onCur, h]
  · simp only [State.ctl_setCtl]
    congr 1
    have e := Ctl.complete_eq k' n
    rw [hnp] at e
    have hh : k'.halted = (s.ctl c).halted ∧ k'.step = (s.ctl c).step ∧ k'.cyc = (s.ctl c).cyc ∧ k'.cyo = (s.ctl c).cyo ∧
        k'.shadow = (s.ctl c).shadow := by rw [hk]; simp
    rw [hh.1, hh.2.1, hh.2.2.1, hh.2.2.2.1, hh.2.2.2.2] at e
    rw [e]
    rw [hk]
    cases h : (s.ctl c).secure <;> simp [Ctl.onCur, h]

/-- Taking an exception at DEPTH below 2 (R75, R76): all of `Trapped`. -/
theorem trapped_of (b : State) (k : Ctl) (c : CtlId) (vec code eaddr : Nat) (hb : b.ctl c = { k with waiting := false } ∨ b.ctl c = k)
    (hd : k.cur.depth < 2) : Trapped b k (takeExc b c vec code eaddr) c vec code eaddr := by
  have main : ∀ k : Ctl, b.ctl c = k → k.cur.depth < 2 → Trapped b k (takeExc b c vec code eaddr) c vec code eaddr := by
    intro k hb hd
    have e : takeExc b c vec code eaddr = b.setCtl c ((k.enter k.restart.1 k.restart.2 (decide (k.shadow ≠ 0)) (decide (k.shadow = 1))
        vec code eaddr).tick 6) := by
      unfold takeExc
      simp only [hb]
      rw [if_pos hd]
    have hr : savedFrame k vec code eaddr = ⟨k.restart.1, BitVec.ofNat 8 code, BitVec.ofNat 5 vec, BitVec.ofNat 36 eaddr, decide (k.shadow = 1),
        decide (k.shadow ≠ 0), k.restart.2, k.priv, k.cur.ie⟩ := by
      unfold savedFrame Ctl.restart
      rcases k.branch with _ | b <;> rfl
    rw [e]
    refine ⟨?_, ?_, ?_, ?_⟩
    · simp [Ctl.enter, Ctl.tick]
    · simp only [State.ctl_setCtl, hr]
      cases h : k.secure <;> by_cases h0 : k.cur.depth = 0 <;> simp_all [Ctl.enter, Ctl.tick, Ctl.onCur, Ctl.cur]
    · simp only [State.ctl_setCtl]
      cases h : k.secure <;> simp [Ctl.enter, Ctl.tick, Ctl.onCur, h]
    · simp only [State.ctl_setCtl]
      congr 1
      cases h : k.secure <;> simp [Ctl.enter, Ctl.tick, Ctl.onCur, h]
  rcases hb with hb | hb
  · have h := main _ hb hd
    exact ⟨h.pc, h.world, h.other, h.rest⟩
  · exact main _ hb hd

end Sys2Proof.Machine
end

