-- ==== Sys2Proof/Laws/Floor.lean ====
section
/-! SUPPORT. The floor's issue of an operation said once: what acts, on which instance and unit. -/
namespace Sys2Proof.Machine

/-- An operation that acts runs on the state in which what was due has landed. -/
theorem issue_acts {s : State} {a : At} {i : Inst} (h : Issues s a i) (op : State → Inst → State) : issue s a op = op (arrived s a) i := by
  obtain ⟨⟨j, h1, h2, h3, h4⟩, h5, h6⟩ := h
  unfold issue
  rw [h1]
  simp only [h2, h3, Option.isSome_none, Bool.false_or, Bool.or_self, decide_eq_true_eq]
  rw [if_neg (by omega)]
  rw [if_neg (by simp [h5])]
  have : (landDue s (↑a.fs) a.cyc).onInst (↑a.fs) (fun i => { i with cyc := a.cyc, step := ↑a.step }) = arrived s a := rfl
  rw [this, h6]

/-- An operation on a unit that the instance holds acts on that unit. -/
theorem issueOn_acts {s : State} {a : At} {i : Inst} {ty u n : Nat} (h : IssuesOn s a ty u i n) (op : State → Inst → Nat → State) :
    issueOn s a ty u op = op (arrived s a) i n := by
  obtain ⟨hi, ⟨col, h1, h2⟩, _⟩ := h
  unfold issueOn
  rw [issue_acts hi, h1, ← h2]

/-- A digest unit's operation, with no fault detected in it. -/
theorem duOp_acts {s : State} {a : At} {i : Inst} {u d : Nat} (h : IssuesOn s a uDU u i d) (op : State → Inst → Nat → State) :
    duOp a u op s = op (arrived s a) i d := by
  unfold duOp; rw [issueOn_acts h, if_neg (by simp [h.clean])]

/-- A number unit's operation that does not reject puts its writes and effects in flight. -/
theorem nuOp_acts {s : State} {a : At} {i : Inst} {u n : Nat} (h : IssuesOn s a uNU u i n) (lat : NumUnit → Nat) (dests : NumUnit → List (Nat × Nat))
    (run : Nat → Inst → NumUnit → Option NuRes) (r : NuRes) (hd : ∀ d ∈ dests ((arrived s a).nu n), d.1 + d.2 ≤ nuWords)
    (hr : run n i ((arrived s a).nu n) = some r) :
    nuOp a u lat dests run s =
      launch (arrived s a) a (r.writes.map (fun w => (lat ((arrived s a).nu n), nuWrite n w)) ++ r.effs.map (fun e => (lat ((arrived s a).nu n), e))) := by
  unfold nuOp
  rw [issueOn_acts h, if_neg (by simp [h.clean])]
  have : ((dests ((arrived s a).nu n)).all (fun d => decide (d.1 + d.2 ≤ nuWords))) = true := by
    rw [List.all_eq_true]; intro d hdd; simpa using hd d hdd
  simp only [this, if_true, hr]

/-- A number unit's operation that rejects writes zeros to its destinations and sets REJ (R195). -/
theorem nuOp_rejects {s : State} {a : At} {i : Inst} {u n : Nat} (h : IssuesOn s a uNU u i n) (lat : NumUnit → Nat) (dests : NumUnit → List (Nat × Nat))
    (run : Nat → Inst → NumUnit → Option NuRes)
    (hr : run n i ((arrived s a).nu n) = none) :
    nuOp a u lat dests run s =
      launch (arrived s a) a ((dests ((arrived s a).nu n)).map (fun d => (lat ((arrived s a).nu n), nuWrite n (nuZero d))) ++ [(lat ((arrived s a).nu n), .nuRej n)]) := by
  unfold nuOp
  rw [issueOn_acts h, if_neg (by simp [h.clean])]
  simp only [hr, ite_self]

end Sys2Proof.Machine
end

