-- ==== Sys2Proof/Laws/KeepBus.lean ====
section
/-! SUPPORT. One lemma per operation of register reads and writes, SPDM, controller memory and the debug port: the queue and OTP it leaves alone, memory it leaves alone or keeps
canonical (names ending in `_keep` and `_wf`; `_to` says the same of a state that an equation names). -/
namespace Sys2Proof.Machine

/-! ### Machine/BusRead.lean -/

@[simp] theorem readWide_keep (s : State) (r : Nat) (base : Nat) (i : Nat) (ws : List Nat) :
    (readWide s r base i ws).2.pending = s.pending ∧ (readWide s r base i ws).2.otp = s.otp ∧ (readWide s r base i ws).2.mem = s.mem := by
  simp only [readWide]; (repeat' split) <;> simp_all
theorem readWide_to {s : State} {r : Nat} {base : Nat} {i : Nat} {ws : List Nat} {t_ : State} {r_ : Nat} (e_ : readWide s r base i ws = (r_, t_)) :
    t_.pending = s.pending ∧ t_.otp = s.otp ∧ t_.mem = s.mem := by
  have k := readWide_keep s r base i ws; rw [e_] at k; exact k

@[simp] theorem readMeas_keep (s : State) (r : Nat) (i : Nat) (first : Bool) :
    (readMeas s r i first).2.pending = s.pending ∧ (readMeas s r i first).2.otp = s.otp ∧ (readMeas s r i first).2.mem = s.mem := by
  and_intros <;> simp [readMeas]
theorem readMeas_to {s : State} {r : Nat} {i : Nat} {first : Bool} {t_ : State} {r_ : List Octet} (e_ : readMeas s r i first = (r_, t_)) :
    t_.pending = s.pending ∧ t_.otp = s.otp ∧ t_.mem = s.mem := by
  have k := readMeas_keep s r i first; rw [e_] at k; exact k

@[simp] theorem readDevice_keep (s : State) (r : Nat) (a : Nat) :
    (readDevice s r a).2.pending = s.pending ∧ (readDevice s r a).2.otp = s.otp ∧ (readDevice s r a).2.mem = s.mem := by
  simp only [readDevice]; (repeat' split) <;> simp_all

@[simp] theorem readWindow_keep (s : State) (r : Nat) (q : Nat) (off : Nat) :
    (readWindow s r q off).2.pending = s.pending ∧ (readWindow s r q off).2.otp = s.otp ∧ (readWindow s r q off).2.mem = s.mem := by
  simp only [readWindow]; (repeat' split) <;> simp_all
theorem readWindow_to {s : State} {r : Nat} {q : Nat} {off : Nat} {t_ : State} {r_ : Nat} (e_ : readWindow s r q off = (r_, t_)) :
    t_.pending = s.pending ∧ t_.otp = s.otp ∧ t_.mem = s.mem := by
  have k := readWindow_keep s r q off; rw [e_] at k; exact k

@[simp] theorem readAlias_keep (s : State) (r : Nat) (q : Nat) (a : Nat) :
    (readAlias s r q a).2.pending = s.pending ∧ (readAlias s r q a).2.otp = s.otp ∧ (readAlias s r q a).2.mem = s.mem := by
  simp only [readAlias]; (repeat' split) <;> simp_all

@[simp] theorem devRead_keep (s : State) (m : Nat) (a : Nat) :
    (devRead s m a).2.pending = s.pending ∧ (devRead s m a).2.otp = s.otp ∧ (devRead s m a).2.mem = s.mem := by
  and_intros <;> simp [devRead]
theorem devRead_to {s : State} {m : Nat} {a : Nat} {t_ : State} {r_ : Nat} (e_ : devRead s m a = (r_, t_)) :
    t_.pending = s.pending ∧ t_.otp = s.otp ∧ t_.mem = s.mem := by
  have k := devRead_keep s m a; rw [e_] at k; exact k

@[simp] theorem pfRead_keep (s : State) (p : Nat) (off : Nat) :
    (pfRead s p off).2.pending = s.pending ∧ (pfRead s p off).2.otp = s.otp ∧ (pfRead s p off).2.mem = s.mem := by
  and_intros <;> simp [pfRead]

/-! ### Machine/Spdm.lean -/

@[simp] theorem spdmSend_keep (s : State) (ch : Nat) (o : List Octet) :
    (spdmSend s ch o).pending = s.pending ∧ (spdmSend s ch o).otp = s.otp ∧ (spdmSend s ch o).mem = s.mem := by
  and_intros <;> simp [spdmSend]

@[simp] theorem spdmError_keep (s : State) (ch : Nat) (code : Nat) :
    (spdmError s ch code).pending = s.pending ∧ (spdmError s ch code).otp = s.otp ∧ (spdmError s ch code).mem = s.mem := by
  and_intros <;> simp [spdmError]

@[simp] theorem spdmAnswer_keep (s : State) (ch : Nat) (req : List Octet) (rsp : List Octet) :
    (spdmAnswer s ch req rsp).pending = s.pending ∧ (spdmAnswer s ch req rsp).otp = s.otp ∧ (spdmAnswer s ch req rsp).mem = s.mem := by
  and_intros <;> simp [spdmAnswer]

@[simp] theorem spdmCheck_pending (s : State) (ch step : Nat) (msg : List Octet) (f : State → State) (h : ∀ x, (f x).pending = x.pending) : (spdmCheck s ch step msg f).pending = s.pending := by
  simp only [spdmCheck]; (repeat' split) <;> simp_all
@[simp] theorem spdmCheck_otp (s : State) (ch step : Nat) (msg : List Octet) (f : State → State) (h : ∀ x, (f x).otp = x.otp) : (spdmCheck s ch step msg f).otp = s.otp := by
  simp only [spdmCheck]; (repeat' split) <;> simp_all
@[simp] theorem spdmCheck_mem (s : State) (ch step : Nat) (msg : List Octet) (f : State → State) (h : ∀ x, (f x).mem = x.mem) : (spdmCheck s ch step msg f).mem = s.mem := by
  simp only [spdmCheck]; (repeat' split) <;> simp_all

@[simp] theorem spdmSign_keep (s : State) (o : List Octet) :
    (spdmSign s o).2.pending = s.pending ∧ (spdmSign s o).2.otp = s.otp ∧ (spdmSign s o).2.mem = s.mem := by
  and_intros <;> simp [spdmSign]
theorem spdmSign_to {s : State} {o : List Octet} {t_ : State} {r_ : List Octet} (e_ : spdmSign s o = (r_, t_)) :
    t_.pending = s.pending ∧ t_.otp = s.otp ∧ t_.mem = s.mem := by
  have k := spdmSign_keep s o; rw [e_] at k; exact k

@[simp] theorem spdmVersion_keep (s : State) (ch : Nat) (msg : List Octet) :
    (spdmVersion s ch msg).pending = s.pending ∧ (spdmVersion s ch msg).otp = s.otp ∧ (spdmVersion s ch msg).mem = s.mem := by
  and_intros <;> simp [spdmVersion]

@[simp] theorem spdmCapabilities_keep (s : State) (ch : Nat) (msg : List Octet) :
    (spdmCapabilities s ch msg).pending = s.pending ∧ (spdmCapabilities s ch msg).otp = s.otp ∧ (spdmCapabilities s ch msg).mem = s.mem := by
  and_intros <;> simp [spdmCapabilities]

@[simp] theorem spdmAlgorithms_keep (s : State) (ch : Nat) (msg : List Octet) :
    (spdmAlgorithms s ch msg).pending = s.pending ∧ (spdmAlgorithms s ch msg).otp = s.otp ∧ (spdmAlgorithms s ch msg).mem = s.mem := by
  and_intros <;> simp [spdmAlgorithms]

@[simp] theorem spdmDigests_keep (s : State) (ch : Nat) (msg : List Octet) :
    (spdmDigests s ch msg).pending = s.pending ∧ (spdmDigests s ch msg).otp = s.otp ∧ (spdmDigests s ch msg).mem = s.mem := by
  and_intros <;> simp [spdmDigests]

@[simp] theorem spdmCertificate_keep (s : State) (ch : Nat) (msg : List Octet) :
    (spdmCertificate s ch msg).pending = s.pending ∧ (spdmCertificate s ch msg).otp = s.otp ∧ (spdmCertificate s ch msg).mem = s.mem := by
  and_intros <;> simp [spdmCertificate]

@[simp] theorem spdmStatement_keep (s : State) (ch : Nat) (nonce : List Octet) :
    (spdmStatement s ch nonce).1.pending = s.pending ∧ (spdmStatement s ch nonce).1.otp = s.otp ∧ (spdmStatement s ch nonce).1.mem = s.mem := by
  and_intros <;> grind [spdmStatement, → attestFor_to]

@[simp] theorem spdmChallenge_keep (s : State) (ch : Nat) (msg : List Octet) :
    (spdmChallenge s ch msg).pending = s.pending ∧ (spdmChallenge s ch msg).otp = s.otp ∧ (spdmChallenge s ch msg).mem = s.mem := by
  and_intros <;> simp [spdmChallenge]

@[simp] theorem spdmBlocks_keep (s : State) (ch : Nat) (op : Nat) (nonce : List Octet) :
    (spdmBlocks s ch op nonce).1.pending = s.pending ∧ (spdmBlocks s ch op nonce).1.otp = s.otp ∧ (spdmBlocks s ch op nonce).1.mem = s.mem := by
  and_intros <;> simp [spdmBlocks]
theorem spdmBlocks_to {s : State} {ch : Nat} {op : Nat} {nonce : List Octet} {t_ : State} {r_ : Option (List (List Octet))} (e_ : spdmBlocks s ch op nonce = (t_, r_)) :
    t_.pending = s.pending ∧ t_.otp = s.otp ∧ t_.mem = s.mem := by
  have k := spdmBlocks_keep s ch op nonce; rw [e_] at k; exact k

@[simp] theorem spdmMeasurements_keep (s : State) (ch : Nat) (msg : List Octet) :
    (spdmMeasurements s ch msg).pending = s.pending ∧ (spdmMeasurements s ch msg).otp = s.otp ∧
      (spdmMeasurements s ch msg).mem = s.mem := by
  unfold spdmMeasurements
  and_intros <;> (first | apply spdmCheck_pending | apply spdmCheck_otp | apply spdmCheck_mem) <;> intro x <;> dsimp only <;>
    grind [→ spdmBlocks_to, spdmError_keep, spdmSend_keep, spdmAnswer_keep, drawRandom_keep, spdmSign_keep, State.setSpdm_frame,
      State.freeOctets_keep]

@[simp] theorem spdmKeyExchange_keep (s : State) (ch : Nat) (msg : List Octet) :
    (spdmKeyExchange s ch msg).pending = s.pending ∧ (spdmKeyExchange s ch msg).otp = s.otp ∧ (spdmKeyExchange s ch msg).mem = s.mem := by
  and_intros <;> simp [spdmKeyExchange]

@[simp] theorem spdmFinish_keep (s : State) (ch : Nat) (msg : List Octet) :
    (spdmFinish s ch msg).pending = s.pending ∧ (spdmFinish s ch msg).otp = s.otp ∧ (spdmFinish s ch msg).mem = s.mem := by
  and_intros <;> simp [spdmFinish]

@[simp] theorem spdmInSession_pending (s : State) (ch : Nat) (msg : List Octet) (f : State → Spdm → State) (h : ∀ x y, (f x y).pending = x.pending) : (spdmInSession s ch msg f).pending = s.pending := by
  refine spdmCheck_pending _ _ _ _ _ (fun x => ?_); split <;> simp_all
@[simp] theorem spdmInSession_otp (s : State) (ch : Nat) (msg : List Octet) (f : State → Spdm → State) (h : ∀ x y, (f x y).otp = x.otp) : (spdmInSession s ch msg f).otp = s.otp := by
  refine spdmCheck_otp _ _ _ _ _ (fun x => ?_); split <;> simp_all
@[simp] theorem spdmInSession_mem (s : State) (ch : Nat) (msg : List Octet) (f : State → Spdm → State) (h : ∀ x y, (f x y).mem = x.mem) : (spdmInSession s ch msg f).mem = s.mem := by
  refine spdmCheck_mem _ _ _ _ _ (fun x => ?_); split <;> simp_all

@[simp] theorem spdmEnd_keep (s : State) (ch : Nat) (msg : List Octet) :
    (spdmEnd s ch msg).pending = s.pending ∧ (spdmEnd s ch msg).otp = s.otp ∧ (spdmEnd s ch msg).mem = s.mem := by
  and_intros <;> simp [spdmEnd]

@[simp] theorem spdmKeyUpdate_keep (s : State) (ch : Nat) (msg : List Octet) :
    (spdmKeyUpdate s ch msg).pending = s.pending ∧ (spdmKeyUpdate s ch msg).otp = s.otp ∧ (spdmKeyUpdate s ch msg).mem = s.mem := by
  and_intros <;> simp [spdmKeyUpdate]

@[simp] theorem spdmHeartbeat_keep (s : State) (ch : Nat) (msg : List Octet) :
    (spdmHeartbeat s ch msg).pending = s.pending ∧ (spdmHeartbeat s ch msg).otp = s.otp ∧ (spdmHeartbeat s ch msg).mem = s.mem := by
  and_intros <;> simp [spdmHeartbeat]

@[simp] theorem ideKmMessage_keep (s : State) (ch : Nat) (msg : List Octet) :
    (ideKmMessage s ch msg).pending = s.pending ∧ (ideKmMessage s ch msg).otp = s.otp ∧ (ideKmMessage s ch msg).mem = s.mem := by
  and_intros <;> simp [ideKmMessage]

@[simp] theorem doeDiscover_keep (s : State) (p : Nat) (index : Nat) :
    (doeDiscover s p index).pending = s.pending ∧ (doeDiscover s p index).otp = s.otp ∧ (doeDiscover s p index).mem = s.mem := by
  and_intros <;> simp [doeDiscover]

@[simp] theorem spdmRelay_keep (s : State) (msg : List Octet) :
    (spdmRelay s msg).pending = s.pending ∧ (spdmRelay s msg).otp = s.otp ∧ (spdmRelay s msg).mem = s.mem := by
  and_intros <;> simp [spdmRelay]

/-! ### Machine/BusWrite.lean -/

@[simp] theorem plainWrite_keep (s : State) (w : Writer) (a : Nat) (v : Nat) :
    (plainWrite s w a v).pending = s.pending ∧ (plainWrite s w a v).otp = s.otp ∧ (plainWrite s w a v).mem = s.mem := by
  and_intros <;> simp [plainWrite]

@[simp] theorem unitWrite_keep (s : State) (r : UnitRegs) (v : Nat) :
    (unitWrite s r v).pending = s.pending ∧ (unitWrite s r v).otp = s.otp ∧ (unitWrite s r v).mem = s.mem := by
  and_intros <;> simp [unitWrite]

@[simp] theorem tapWrite_keep (s : State) (w : Writer) (v : Nat) :
    (tapWrite s w v).pending = s.pending ∧ (tapWrite s w v).otp = s.otp := by
  and_intros <;> simp [tapWrite]
@[simp] theorem tapWrite_wf (s : State) (w : Writer) (v : Nat) (hm : s.mem.wf = true) : (tapWrite s w v).mem.wf = true := by
  simp [tapWrite, hm]

@[simp] theorem measxWrite_keep (s : State) (w : Writer) (a : Nat) (v : Nat) :
    (measxWrite s w a v).pending = s.pending ∧ (measxWrite s w a v).otp = s.otp ∧ (measxWrite s w a v).mem = s.mem := by
  and_intros <;> simp [measxWrite]

@[simp] theorem rawWrite_keep (s : State) (w : Writer) (v : Nat) :
    (rawWrite s w v).pending = s.pending ∧ (rawWrite s w v).otp = s.otp ∧ (rawWrite s w v).mem = s.mem := by
  and_intros <;> simp [rawWrite]

@[simp] theorem ksWrite_keep (s : State) (w : Writer) (v : Nat) :
    (ksWrite s w v).pending = s.pending ∧ (ksWrite s w v).otp = s.otp := by
  and_intros <;> simp [ksWrite]
@[simp] theorem ksWrite_wf (s : State) (w : Writer) (v : Nat) (hm : s.mem.wf = true) : (ksWrite s w v).mem.wf = true := by
  simp [ksWrite, hm]

@[simp] theorem cellWrite_keep (s : State) (v : Nat) :
    (cellWrite s v).pending = s.pending ∧ (cellWrite s v).otp = s.otp ∧ (cellWrite s v).mem = s.mem := by
  and_intros <;> simp [cellWrite]

@[simp] theorem tamperWrite_keep (s : State) (w : Writer) (k : Nat) (v : Nat) :
    (tamperWrite s w k v).pending = s.pending ∧ (tamperWrite s w k v).otp = s.otp ∧ (tamperWrite s w k v).mem = s.mem := by
  and_intros <;> simp [tamperWrite]

@[simp] theorem rstWrite_keep (s : State) (v : Nat) :
    (rstWrite s v).pending = s.pending ∧ (rstWrite s v).otp = s.otp ∧ (rstWrite s v).mem = s.mem := by
  and_intros <;> simp [rstWrite]

@[simp] theorem blockWrite_keep (s : State) (v : Nat) :
    (blockWrite s v).pending = s.pending ∧ (blockWrite s v).otp = s.otp ∧ (blockWrite s v).mem = s.mem := by
  and_intros <;> simp [blockWrite]

@[simp] theorem secureWrite_keep (s : State) (w : Writer) (a : Nat) (v : Nat) :
    (secureWrite s w a v).pending = s.pending ∧ (secureWrite s w a v).otp = s.otp := by
  and_intros <;> simp [secureWrite]
@[simp] theorem secureWrite_wf (s : State) (w : Writer) (a : Nat) (v : Nat) (hm : s.mem.wf = true) : (secureWrite s w a v).mem.wf = true := by
  simp [secureWrite, hm]

@[simp] theorem mcWrite_keep (s : State) (w : Writer) (a : Nat) (v : Nat) :
    (mcWrite s w a v).pending = s.pending ∧ (mcWrite s w a v).otp = s.otp ∧ (mcWrite s w a v).mem = s.mem := by
  and_intros <;> simp [mcWrite]

@[simp] theorem leadWrite_pending (s : State) (m : Requester) (f : State → State) (h : ∀ x, (f x).pending = x.pending) : (leadWrite s m f).pending = s.pending := by
  simp only [leadWrite]; (repeat' split) <;> simp_all
@[simp] theorem leadWrite_otp (s : State) (m : Requester) (f : State → State) (h : ∀ x, (f x).otp = x.otp) : (leadWrite s m f).otp = s.otp := by
  simp only [leadWrite]; (repeat' split) <;> simp_all
@[simp] theorem leadWrite_mem (s : State) (m : Requester) (f : State → State) (h : ∀ x, (f x).mem = x.mem) : (leadWrite s m f).mem = s.mem := by
  simp only [leadWrite]; (repeat' split) <;> simp_all

@[simp] theorem tokenWrite_keep (s : State) (n : Nat) (id : Nat) (v : Nat) :
    (tokenWrite s n id v).pending = s.pending ∧ (tokenWrite s n id v).otp = s.otp ∧ (tokenWrite s n id v).mem = s.mem := by
  and_intros <;> simp [tokenWrite]

@[simp] theorem tampCtlWrite_keep (s : State) (m : Requester) (v : Nat) :
    (tampCtlWrite s m v).pending = s.pending ∧ (tampCtlWrite s m v).otp = s.otp ∧ (tampCtlWrite s m v).mem = s.mem := by
  and_intros <;> simp [tampCtlWrite]

@[simp] theorem measxHostData_keep (s : State) (k : Nat) (v : Nat) :
    (measxHostData s k v).pending = s.pending ∧ (measxHostData s k v).otp = s.otp ∧ (measxHostData s k v).mem = s.mem := by
  and_intros <;> simp [measxHostData]

@[simp] theorem plxWrite_keep (s : State) (m : Requester) (v : Nat) :
    (plxWrite s m v).pending = s.pending ∧ (plxWrite s m v).otp = s.otp := by
  simp only [plxWrite]; (repeat' split) <;> simp
@[simp] theorem plxWrite_wf (s : State) (m : Requester) (v : Nat) (hm : s.mem.wf = true) : (plxWrite s m v).mem.wf = true := by
  simp only [plxWrite]; (repeat' split)
  · simp [hm]
  all_goals exact plxCommand_wf _ _ _ _ (fun x h => by simp [h]) hm

@[simp] theorem tampWindowWrite_keep (s : State) (m : Requester) (off : Nat) (v : Nat) :
    (tampWindowWrite s m off v).pending = s.pending ∧ (tampWindowWrite s m off v).otp = s.otp ∧ (tampWindowWrite s m off v).mem = s.mem := by
  and_intros <;> simp [tampWindowWrite]

@[simp] theorem windowWrite_keep (s : State) (m : Requester) (off : Nat) (v : Nat) :
    (windowWrite s m off v).pending = s.pending ∧ (windowWrite s m off v).otp = s.otp := by
  and_intros <;> simp [windowWrite]
@[simp] theorem windowWrite_wf (s : State) (m : Requester) (off : Nat) (v : Nat) (hm : s.mem.wf = true) : (windowWrite s m off v).mem.wf = true := by
  simp [windowWrite, hm]

@[simp] theorem aliasWrite_keep (s : State) (w : Writer) (a : Nat) (v : Nat) :
    (aliasWrite s w a v).pending = s.pending ∧ (aliasWrite s w a v).otp = s.otp := by
  and_intros <;> simp [aliasWrite]
@[simp] theorem aliasWrite_wf (s : State) (w : Writer) (a : Nat) (v : Nat) (hm : s.mem.wf = true) : (aliasWrite s w a v).mem.wf = true := by
  simp [aliasWrite, hm]

@[simp] theorem devWrite_keep (s : State) (w : Writer) (a : Nat) (v : Nat) :
    (devWrite s w a v).pending = s.pending ∧ (devWrite s w a v).otp = s.otp := by
  and_intros <;> simp [devWrite]
@[simp] theorem devWrite_wf (s : State) (w : Writer) (a : Nat) (v : Nat) (hm : s.mem.wf = true) : (devWrite s w a v).mem.wf = true := by
  simp [devWrite, hm]

@[simp] theorem functionWrite_keep (s : State) (f : Nat) (off : Nat) (v : Nat) :
    (functionWrite s f off v).pending = s.pending ∧ (functionWrite s f off v).otp = s.otp ∧ (functionWrite s f off v).mem = s.mem := by
  and_intros <;> simp [functionWrite]

@[simp] theorem queueWrite_keep (s : State) (f : Nat) (q : Nat) (off : Nat) (v : Nat) :
    (queueWrite s f q off v).pending = s.pending ∧ (queueWrite s f q off v).otp = s.otp ∧ (queueWrite s f q off v).mem = s.mem := by
  and_intros <;> simp [queueWrite]

@[simp] theorem pfWrite_keep (s : State) (p : Nat) (off : Nat) (v : Nat) :
    (pfWrite s p off v).pending = s.pending ∧ (pfWrite s p off v).otp = s.otp := by
  and_intros <;> simp [pfWrite]
@[simp] theorem pfWrite_wf (s : State) (p : Nat) (off : Nat) (v : Nat) (hm : s.mem.wf = true) : (pfWrite s p off v).mem.wf = true := by
  simp [pfWrite, hm]

@[simp] theorem vfWrite_keep (s : State) (f : Nat) (off : Nat) (v : Nat) :
    (vfWrite s f off v).pending = s.pending ∧ (vfWrite s f off v).otp = s.otp ∧ (vfWrite s f off v).mem = s.mem := by
  and_intros <;> simp [vfWrite]

@[simp] theorem registerWrite_keep (s : State) (x : RegAt) (v : BitVec 32) :
    (registerWrite s x v).pending = s.pending ∧ (registerWrite s x v).otp = s.otp := by
  simp only [registerWrite]; (repeat' split) <;> simp_all
@[simp] theorem registerWrite_wf (s : State) (x : RegAt) (v : BitVec 32) (hm : s.mem.wf = true) : (registerWrite s x v).mem.wf = true := by
  simp only [registerWrite]; (repeat' split) <;> simp_all

@[simp] theorem latchedRead_keep (s : State) (x : RegAt) :
    (latchedRead s x).pending = s.pending ∧ (latchedRead s x).otp = s.otp ∧ (latchedRead s x).mem = s.mem := by
  simp only [latchedRead]; (repeat' split) <;> simp_all

/-! ### Machine/CtlMem.lean -/

@[simp] theorem busLoad_keep (s : State) (acc : Access) :
    (busLoad s acc).1.pending = s.pending ∧ (busLoad s acc).1.otp = s.otp := by
  and_intros <;> grind [busLoad, reportRefusal_keep, → devRead_to, → memWord_to]
@[simp] theorem busLoad_wf (s : State) (acc : Access) (hm : s.mem.wf = true) : (busLoad s acc).1.mem.wf = true := by
  grind [busLoad, reportRefusal_keep, → devRead_to, → memWord_to, memWord_wf]
theorem busLoad_to {s : State} {acc : Access} {t_ : State} {r_ : Except (Nat × Nat) Word} (e_ : busLoad s acc = (t_, r_)) :
    t_.pending = s.pending ∧ t_.otp = s.otp ∧ (s.mem.wf = true → t_.mem.wf = true) := by
  have k := busLoad_keep s acc; have w := busLoad_wf s acc; rw [e_] at k w; exact ⟨k.1, k.2, w⟩

@[simp] theorem putWord_keep (s : State) (acc : Access) (addr : Nat) (w : Word) :
    (putWord s acc addr w).1.pending = s.pending ∧ (putWord s acc addr w).1.otp = s.otp := by
  and_intros <;> grind [putWord, devWrite_keep, → memStore_to]
@[simp] theorem putWord_wf (s : State) (acc : Access) (addr : Nat) (w : Word) (hm : s.mem.wf = true) : (putWord s acc addr w).1.mem.wf = true := by
  grind [putWord, devWrite_keep, devWrite_wf, → memStore_to, memStore_wf]
theorem putWord_to {s : State} {acc : Access} {addr : Nat} {w : Word} {t_ : State} {r_ : Option (Nat × Nat)} (e_ : putWord s acc addr w = (t_, r_)) :
    t_.pending = s.pending ∧ t_.otp = s.otp ∧ (s.mem.wf = true → t_.mem.wf = true) := by
  have k := putWord_keep s acc addr w; have w := putWord_wf s acc addr w; rw [e_] at k w; exact ⟨k.1, k.2, w⟩

@[simp] theorem busStore_keep (s : State) (acc : Access) (w : Word) :
    (busStore s acc w).1.pending = s.pending ∧ (busStore s acc w).1.otp = s.otp := by
  simp only [busStore]; (repeat' split) <;> simp_all
@[simp] theorem busStore_wf (s : State) (acc : Access) (w : Word) (hm : s.mem.wf = true) : (busStore s acc w).1.mem.wf = true := by
  simp only [busStore]; (repeat' split) <;> simp_all
theorem busStore_to {s : State} {acc : Access} {w : Word} {t_ : State} {r_ : Option (Nat × Nat)} (e_ : busStore s acc w = (t_, r_)) :
    t_.pending = s.pending ∧ t_.otp = s.otp ∧ (s.mem.wf = true → t_.mem.wf = true) := by
  have k := busStore_keep s acc w; have w := busStore_wf s acc w; rw [e_] at k w; exact ⟨k.1, k.2, w⟩

@[simp] theorem busLoadPair_keep (s : State) (acc : Access) :
    (busLoadPair s acc).1.pending = s.pending ∧ (busLoadPair s acc).1.otp = s.otp := by
  and_intros <;> grind [busLoadPair, → busLoad_to]
@[simp] theorem busLoadPair_wf (s : State) (acc : Access) (hm : s.mem.wf = true) : (busLoadPair s acc).1.mem.wf = true := by
  grind [busLoadPair, → busLoad_to, busLoad_wf]

@[simp] theorem busStorePair_keep (s : State) (acc : Access) (v : DWord) :
    (busStorePair s acc v).1.pending = s.pending ∧ (busStorePair s acc v).1.otp = s.otp := by
  and_intros <;> grind [busStorePair, reportRefusal_keep, devWrite_keep, → memStore_to]
@[simp] theorem busStorePair_wf (s : State) (acc : Access) (v : DWord) (hm : s.mem.wf = true) : (busStorePair s acc v).1.mem.wf = true := by
  grind [busStorePair, reportRefusal_keep, devWrite_keep, devWrite_wf, → memStore_to, memStore_wf]

@[simp] theorem busStoreNonet_keep (s : State) (acc : Access) (n : Nonet) :
    (busStoreNonet s acc n).1.pending = s.pending ∧ (busStoreNonet s acc n).1.otp = s.otp := by
  and_intros <;> grind [busStoreNonet, reportRefusal_keep, devWrite_keep, → memStore_to]
@[simp] theorem busStoreNonet_wf (s : State) (acc : Access) (n : Nonet) (hm : s.mem.wf = true) : (busStoreNonet s acc n).1.mem.wf = true := by
  grind [busStoreNonet, reportRefusal_keep, devWrite_keep, devWrite_wf, → memStore_to, memStore_wf]

@[simp] theorem ctlLoad_keep {α : Type} (s : State) (c : CtlId) (legal : Bool) (addr : DWord) (aligned : Bool)
    (load : State → Access → State × Except (Nat × Nat) α) (f : Ctl → α → Ctl)
    (hp : ∀ x a, (load x a).1.pending = x.pending) (ho : ∀ x a, (load x a).1.otp = x.otp) :
    (ctlLoad s c legal addr aligned load f).pending = s.pending ∧ (ctlLoad s c legal addr aligned load f).otp = s.otp := by
  unfold ctlLoad
  refine ⟨ctlIssue_pending _ _ _ _ (fun x => ?_), ctlIssue_otp _ _ _ _ (fun x => ?_)⟩ <;> split <;> try rfl
  all_goals
    have h1 := hp x (ctlAccess x c .read addr 0); have h2 := ho x (ctlAccess x c .read addr 0)
    split <;> simp_all
@[simp] theorem ctlLoad_wf {α : Type} (s : State) (c : CtlId) (legal : Bool) (addr : DWord) (aligned : Bool)
    (load : State → Access → State × Except (Nat × Nat) α) (f : Ctl → α → Ctl)
    (h : ∀ x a, x.mem.wf = true → (load x a).1.mem.wf = true) (hs : s.mem.wf = true) :
    (ctlLoad s c legal addr aligned load f).mem.wf = true := by
  refine ctlIssue_wf _ _ _ _ (fun x hx => ?_) hs
  split
  · exact hx
  · have h1 := h x (ctlAccess x c .read addr 0) hx
    split <;> simp_all

@[simp] theorem ctlStore_keep (s : State) (c : CtlId) (legal : Bool) (addr : DWord) (nonet : Nat) (aligned : Bool)
    (store : State → Access → State × Option (Nat × Nat))
    (hp : ∀ x a, (store x a).1.pending = x.pending) (ho : ∀ x a, (store x a).1.otp = x.otp) :
    (ctlStore s c legal addr nonet aligned store).pending = s.pending ∧ (ctlStore s c legal addr nonet aligned store).otp = s.otp := by
  unfold ctlStore
  refine ⟨ctlIssue_pending _ _ _ _ (fun x => ?_), ctlIssue_otp _ _ _ _ (fun x => ?_)⟩ <;> split <;> try rfl
  all_goals
    have h1 := hp x (ctlAccess x c .write addr nonet); have h2 := ho x (ctlAccess x c .write addr nonet)
    split <;> simp_all
@[simp] theorem ctlStore_wf (s : State) (c : CtlId) (legal : Bool) (addr : DWord) (nonet : Nat) (aligned : Bool)
    (store : State → Access → State × Option (Nat × Nat))
    (h : ∀ x a, x.mem.wf = true → (store x a).1.mem.wf = true) (hs : s.mem.wf = true) :
    (ctlStore s c legal addr nonet aligned store).mem.wf = true := by
  refine ctlIssue_wf _ _ _ _ (fun x hx => ?_) hs
  split
  · exact hx
  · have h1 := h x (ctlAccess x c .write addr nonet) hx
    split <;> simp_all

@[simp] theorem blockWords_keep (c : CtlId) (rd ra rb : Nat) (zero : Bool) (n : Nat) (s : State) :
    (blockWords c rd ra rb zero n s).state.pending = s.pending ∧ (blockWords c rd ra rb zero n s).state.otp = s.otp := by
  induction n generalizing s with
  | zero => simp only [blockWords]; split <;> simp
  | succ n ih =>
    unfold blockWords
    dsimp only
    split
    · simp
    · generalize hx : (if zero = true then (s, .ok 0) else busLoad s (ctlAccess s c .read ((s.ctl c).pair ra) 0) :
        State × Except (Nat × Nat) Word) = x
      have h1 : x.1.pending = s.pending ∧ x.1.otp = s.otp := by subst hx; cases zero <;> simp
      obtain ⟨t, e | w⟩ := x
      · simpa using h1
      · dsimp only at h1 ⊢
        generalize hy : busStore t _ w = y
        have h2 : y.1.pending = t.pending ∧ y.1.otp = t.otp := by subst hy; simp
        obtain ⟨u, _ | e⟩ := y <;> simp_all
@[simp] theorem blockWords_wf (c : CtlId) (rd ra rb : Nat) (zero : Bool) (n : Nat) (s : State) (hm : s.mem.wf = true) : (blockWords c rd ra rb zero n s).state.mem.wf = true := by
  induction n generalizing s with
  | zero => simp only [blockWords]; split <;> simp [hm]
  | succ n ih =>
    unfold blockWords
    dsimp only
    split
    · simp [hm]
    · generalize hx : (if zero = true then (s, .ok 0) else busLoad s (ctlAccess s c .read ((s.ctl c).pair ra) 0) :
        State × Except (Nat × Nat) Word) = x
      have h1 : x.1.mem.wf = true := by subst hx; cases zero <;> simp [hm]
      obtain ⟨t, e | w⟩ := x
      · simpa using h1
      · dsimp only at h1 ⊢
        generalize hy : busStore t _ w = y
        have h2 : y.1.mem.wf = true := by subst hy; simp [h1]
        obtain ⟨u, _ | e⟩ := y <;> simp_all

@[simp] theorem moveBlock_keep (s : State) (c : CtlId) (legal zero : Bool) (rd ra rb upTo : Nat) :
    (moveBlock s c legal zero rd ra rb upTo).pending = s.pending ∧ (moveBlock s c legal zero rd ra rb upTo).otp = s.otp := by
  refine ⟨ctlIssue_pending _ _ _ _ (fun x => ?_), ctlIssue_otp _ _ _ _ (fun x => ?_)⟩ <;> simp
@[simp] theorem moveBlock_wf (s : State) (c : CtlId) (legal zero : Bool) (rd ra rb upTo : Nat) (hm : s.mem.wf = true) : (moveBlock s c legal zero rd ra rb upTo).mem.wf = true := by
  refine ctlIssue_wf _ _ _ _ (fun x hx => ?_) hm; split <;> simp [hx]

/-! ### Machine/Debug.lean -/

@[simp] theorem setIr_keep (s : State) (i : JtagIr) :
    (setIr s i).pending = s.pending ∧ (setIr s i).otp = s.otp ∧ (setIr s i).mem = s.mem := by
  and_intros <;> simp [setIr]

@[simp] theorem scanIr_keep (s : State) (i : JtagIr) :
    (scanIr s i).pending = s.pending ∧ (scanIr s i).otp = s.otp ∧ (scanIr s i).mem = s.mem := by
  and_intros <;> simp [scanIr]

@[simp] theorem preload_keep (s : State) (cells : List Bool) :
    (preload s cells).pending = s.pending ∧ (preload s cells).otp = s.otp ∧ (preload s cells).mem = s.mem := by
  and_intros <;> simp [preload]

@[simp] theorem selectPort_keep (s : State) :
    (selectPort s).pending = s.pending ∧ (selectPort s).otp = s.otp ∧ (selectPort s).mem = s.mem := by
  and_intros <;> simp [selectPort]

@[simp] theorem invasive_keep (s : State) (isStore : Bool) (t : DebugTarget) (v : Word) :
    (invasive s isStore t v).pending = s.pending ∧ (invasive s isStore t v).otp = s.otp := by
  simp only [invasive]; (repeat' split) <;> simp_all
@[simp] theorem invasive_wf (s : State) (isStore : Bool) (t : DebugTarget) (v : Word) (hm : s.mem.wf = true) : (invasive s isStore t v).mem.wf = true := by
  simp only [invasive]; (repeat' split) <;> simp_all

@[simp] theorem watch_keep (s : State) (isStore : Bool) (t : DebugTarget) :
    (watch s isStore t).pending = s.pending ∧ (watch s isStore t).otp = s.otp := by
  simp only [watch]; (repeat' split) <;> simp_all
@[simp] theorem watch_wf (s : State) (isStore : Bool) (t : DebugTarget) (hm : s.mem.wf = true) : (watch s isStore t).mem.wf = true := by
  simp only [watch]; (repeat' split) <;> simp_all

@[simp] theorem debugTransaction_keep (s : State) (isStore : Bool) (t : DebugTarget) (v : Word) :
    (debugTransaction s isStore t v).pending = s.pending ∧ (debugTransaction s isStore t v).otp = s.otp := by
  and_intros <;> simp [debugTransaction]
@[simp] theorem debugTransaction_wf (s : State) (isStore : Bool) (t : DebugTarget) (v : Word) (hm : s.mem.wf = true) : (debugTransaction s isStore t v).mem.wf = true := by
  simp [debugTransaction, hm]

end Sys2Proof.Machine
end

