-- ==== Sys2Proof/Laws/KeepExecA.lean ====
section
/-! SUPPORT. What each meaning leaves alone, whatever its operands and the state: the queue, OTP, and the canonical form of memory. -/
namespace Sys2Proof.Machine

/-- A meaning leaves the queue and OTP alone and keeps memory canonical. -/
def Keeps (s : State) (o : Out) : Prop :=
  ∀ t, o = .next t → t.pending = s.pending ∧ t.otp = s.otp ∧ (s.mem.wf = true → t.mem.wf = true)

@[simp] theorem keeps_next (s t : State) :
    Keeps s (done t) ↔ t.pending = s.pending ∧ t.otp = s.otp ∧ (s.mem.wf = true → t.mem.wf = true) := by
  simp [Keeps, done]

/-! ### Machine/Iso.lean -/
theorem execRegionSet_keeps (sc : Fin 2) (k : Fin 3) (r : Fin 16) (off : Fin 4) (v : Word) (s : State) : Keeps s (execRegionSet sc k r off v s) := by
  simp [execRegionSet]
theorem execViolPop_keeps (s : State) : Keeps s (execViolPop s) := by
  simp [execViolPop]

/-! ### Machine/Mem.lean -/
theorem execPotEntryWrite_keeps (sc : Fin 2) (p : Fin 524288) (v : BitVec 16) (s : State) : Keeps s (execPotEntryWrite sc p v s) := by
  simp +contextual [execPotEntryWrite]
theorem execPotSyncSet_keeps (s : State) : Keeps s (execPotSyncSet s) := by
  simp [execPotSyncSet]
theorem execPotBackSet_keeps (sc : Fin 2) (v : BitVec 15) (s : State) : Keeps s (execPotBackSet sc v s) := by
  simp +contextual [execPotBackSet]
theorem execMemVaultBaseSet_keeps (sc : Fin 2) (high : Bool) (v : Word) (s : State) : Keeps s (execMemVaultBaseSet sc high v s) := by
  simp [execMemVaultBaseSet]
theorem execLineWrite_keeps (sc : Fin 2) (s : State) : Keeps s (execLineWrite sc s) := by
  simp +contextual [execLineWrite]
theorem execDdrTrainingDone_keeps (pass : Bool) (s : State) : Keeps s (execDdrTrainingDone pass s) := by
  simp [execDdrTrainingDone]
theorem execDramZqCalibration_keeps (s : State) : Keeps s (execDramZqCalibration s) := by
  simp [execDramZqCalibration]
theorem execSealedFillPage_keeps (s : State) : Keeps s (execSealedFillPage s) := by
  simp [execSealedFillPage]
theorem execPatrolScrub_keeps (line : BitVec 29) (errs : Fin 81) (s : State) : Keeps s (execPatrolScrub line errs s) := by
  simp +contextual [execPatrolScrub]

/-! ### Machine/Tamper.lean -/
theorem execAlarmAck_keeps (m : Requester) (index : BitVec 9) (s : State) : Keeps s (execAlarmAck m index s) := by
  simp [execAlarmAck]
theorem execWinClose_keeps (m : Requester) (s : State) : Keeps s (execWinClose m s) := by
  simp [execWinClose]
theorem execWindowDurationExpiry_keeps (s : State) : Keeps s (execWindowDurationExpiry s) := by
  simp [execWindowDurationExpiry]
theorem execCellReadSerial_keeps (c : Fin 2) (s : State) : Keeps s (execCellReadSerial c s) := by
  simp [execCellReadSerial]
theorem execCellChallenge_keeps (c : Fin 2) (s : State) : Keeps s (execCellChallenge c s) := by
  simp [execCellChallenge]
theorem execCellAccept_keeps (c : Fin 2) (s : State) : Keeps s (execCellAccept c s) := by
  simp [execCellAccept]
theorem execCellReject_keeps (c : Fin 2) (s : State) : Keeps s (execCellReject c s) := by
  simp [execCellReject]
theorem execCellCmdDone_keeps (answer : Option (List Octet)) (s : State) : Keeps s (execCellCmdDone answer s) := by
  simp [execCellCmdDone]
theorem execTamperConfigSet_keeps (m : Requester) (k : Fin 1024) (v : Word) (s : State) : Keeps s (execTamperConfigSet m k v s) := by
  simp [execTamperConfigSet]
theorem execTamperSample_keeps (r : List TamperReading) (s : State) : Keeps s (execTamperSample r s) := by
  simp [execTamperSample]
theorem execVbatCritTrip_keeps (s : State) : Keeps s (execVbatCritTrip s) := by
  simp [execVbatCritTrip]
theorem execCellIdentityCheck_keeps (c : Fin 2) (serial : BitVec 64) (s : State) : Keeps s (execCellIdentityCheck c serial s) := by
  simp [execCellIdentityCheck]
theorem execCellHour_keeps (c : Fin 2) (s : State) : Keeps s (execCellHour c s) := by
  simp [execCellHour]
theorem execTickStuck_keeps (s : State) : Keeps s (execTickStuck s) := by
  simp [execTickStuck]
theorem execTamperPowerSwitch_keeps (toMain : Bool) (s : State) : Keeps s (execTamperPowerSwitch toMain s) := by
  simp [execTamperPowerSwitch]
theorem execTamperDomainLoss_keeps (s : State) : Keeps s (execTamperDomainLoss s) := by
  simp [execTamperDomainLoss]

/-! ### Machine/Lead.lean -/
theorem execClaim_keeps (m : Requester) (s : State) : Keeps s (execClaim m s) := by
  simp [execClaim]
theorem execReleaseLead_keeps (m : Requester) (s : State) : Keeps s (execReleaseLead m s) := by
  simp [execReleaseLead]
theorem execAcquire_keeps (n : Fin 16) (t : TokenMaster) (s : State) : Keeps s (execAcquire n t s) := by
  simp [execAcquire]
theorem execTokenRelease_keeps (n : Fin 16) (t : TokenMaster) (s : State) : Keeps s (execTokenRelease n t s) := by
  simp [execTokenRelease]
theorem execBallotExpiry_keeps (b : Fin 32) (s : State) : Keeps s (execBallotExpiry b s) := by
  simp [execBallotExpiry]
theorem execDebugSessionExpiry_keeps (s : State) : Keeps s (execDebugSessionExpiry s) := by
  simp [execDebugSessionExpiry]

/-! ### Machine/Mgmt.lean -/
theorem execMcRun_keeps (s : State) : Keeps s (execMcRun s) := by
  simp [execMcRun]
theorem execMcReset_keeps (s : State) : Keeps s (execMcReset s) := by
  simp [execMcReset]
theorem execMcWdogExpiry_keeps (s : State) : Keeps s (execMcWdogExpiry s) := by
  simp [execMcWdogExpiry]
theorem execWdogKick_keeps (s : State) : Keeps s (execWdogKick s) := by
  simp [execWdogKick]
theorem execMonitorSample_keeps (k : Fin 14) (v : ℤ) (s : State) : Keeps s (execMonitorSample k v s) := by
  simp [execMonitorSample]
theorem execHlogAppend_keeps (s : State) : Keeps s (execHlogAppend s) := by
  simp [execHlogAppend]
theorem execHlogErase_keeps (m : Requester) (s : State) : Keeps s (execHlogErase m s) := by
  simp [execHlogErase]
theorem execStageCmdGo_keeps (s : State) : Keeps s (execStageCmdGo s) := by
  simp [execStageCmdGo]
theorem execTimeRateSet_keeps (v : Word) (s : State) : Keeps s (execTimeRateSet v s) := by
  simp [execTimeRateSet]
theorem execTimeStep_keeps (v : Word) (s : State) : Keeps s (execTimeStep v s) := by
  simp [execTimeStep]
theorem execTimeSet_keeps (v : Word) (s : State) : Keeps s (execTimeSet v s) := by
  simp [execTimeSet]
theorem execTimeLockSet_keeps (lock : Bool) (s : State) : Keeps s (execTimeLockSet lock s) := by
  simp [execTimeLockSet]
theorem execHoldoverTimer_keeps (s : State) : Keeps s (execHoldoverTimer s) := by
  simp [execHoldoverTimer]
theorem execFreerunTimer_keeps (s : State) : Keeps s (execFreerunTimer s) := by
  simp [execFreerunTimer]
theorem execPpsInEdge_keeps (s : State) : Keeps s (execPpsInEdge s) := by
  simp [execPpsInEdge]
theorem execPpsInLost_keeps (s : State) : Keeps s (execPpsInLost s) := by
  simp [execPpsInLost]
theorem execPpsOutPulse_keeps (s : State) : Keeps s (execPpsOutPulse s) := by
  simp [execPpsOutPulse]
theorem execFlashDone_keeps (s : State) : Keeps s (execFlashDone s) := by
  simp [execFlashDone]
theorem execStagingSessionTimeout_keeps (s : State) : Keeps s (execStagingSessionTimeout s) := by
  simp [execStagingSessionTimeout]
theorem execMctpControl_keeps (msg : List Octet) (s : State) : Keeps s (execMctpControl msg s) := by
  simp [execMctpControl]
theorem execPldmPlatformMonitoring_keeps (msg : List Octet) (s : State) : Keeps s (execPldmPlatformMonitoring msg s) := by
  simp [execPldmPlatformMonitoring]
theorem execRequestFirmwareData_keeps (data : List Octet) (s : State) : Keeps s (execRequestFirmwareData data s) := by
  simp [execRequestFirmwareData]
theorem execActivateFirmware_keeps (msg : List Octet) (s : State) : Keeps s (execActivateFirmware msg s) := by
  simp [execActivateFirmware]
theorem execPtpEventMessage_keeps (msg : List Octet) (s : State) : Keeps s (execPtpEventMessage msg s) := by
  simp [execPtpEventMessage]
theorem execMgmtEthernetFrame_keeps (frame : List Octet) (s : State) : Keeps s (execMgmtEthernetFrame frame s) := by
  simp [execMgmtEthernetFrame]

/-! ### Machine/Entropy.lean -/
theorem execReseed_keeps (s : State) : Keeps s (execReseed s) := by
  simp [execReseed]
theorem execRetire_keeps (n : Fin 8) (s : State) : Keeps s (execRetire n s) := by
  simp [execRetire]
theorem execRawCtlClose_keeps (_sc : Fin 2) (s : State) : Keeps s (execRawCtlClose _sc s) := by
  simp [execRawCtlClose]
theorem execRawCaptureEnd_keeps (samples : List Octet) (s : State) : Keeps s (execRawCaptureEnd samples s) := by
  simp +contextual [execRawCaptureEnd]
theorem execEntropyBlockComplete_keeps (n : Fin 8) (samples : List Octet) (s : State) : Keeps s (execEntropyBlockComplete n samples s) := by
  simp [execEntropyBlockComplete]
theorem execStartupTestEnd_keeps (n : Fin 8) (samples : List Octet) (s : State) : Keeps s (execStartupTestEnd n samples s) := by
  simp [execStartupTestEnd]
theorem execConditionedOutputReady_keeps (s : State) : Keeps s (execConditionedOutputReady s) := by
  simp [execConditionedOutputReady]
theorem execDrbgGenerateServe_keeps (s : State) : Keeps s (execDrbgGenerateServe s) := by
  simp [execDrbgGenerateServe]
theorem execDrbgReseedServe_keeps (s : State) : Keeps s (execDrbgReseedServe s) := by
  simp [execDrbgReseedServe]
theorem execDrbgInstantiate_keeps (testPass : Bool) (s : State) : Keeps s (execDrbgInstantiate testPass s) := by
  simp [execDrbgInstantiate]
theorem execJrecSubmit_keeps (sc : Fin 2) (cont : Bool) (reserve : Bool) (s : State) : Keeps s (execJrecSubmit sc cont reserve s) := by
  simp [execJrecSubmit]
theorem execJournalAgeTimer_keeps (s : State) : Keeps s (execJournalAgeTimer s) := by
  simp [execJournalAgeTimer]
theorem execJournalFlushDone_keeps (s : State) : Keeps s (execJournalFlushDone s) := by
  simp [execJournalFlushDone]

/-! ### Machine/Vault.lean -/
theorem execVaultFillDone_keeps (s : State) : Keeps s (execVaultFillDone s) := by
  simp [execVaultFillDone]

/-! ### Machine/Keys.lean -/
theorem execKsOpGenerate_keeps (sc : Fin 2) (arg : DWord) (s : State) : Keeps s (execKsOpGenerate sc arg s) := by
  simp +contextual [execKsOpGenerate]
theorem execKsOpDerive_keeps (sc : Fin 2) (arg : DWord) (s : State) : Keeps s (execKsOpDerive sc arg s) := by
  simp +contextual [execKsOpDerive]
theorem execKsOpRestrict_keeps (sc : Fin 2) (arg : DWord) (s : State) : Keeps s (execKsOpRestrict sc arg s) := by
  simp +contextual [execKsOpRestrict]
theorem execKsOpInfo_keeps (sc : Fin 2) (arg : DWord) (s : State) : Keeps s (execKsOpInfo sc arg s) := by
  simp +contextual [execKsOpInfo]
theorem execKsOpDestroy_keeps (sc : Fin 2) (arg : DWord) (s : State) : Keeps s (execKsOpDestroy sc arg s) := by
  simp +contextual [execKsOpDestroy]
theorem execKsOpExport_keeps (sc : Fin 2) (arg : DWord) (s : State) : Keeps s (execKsOpExport sc arg s) := by
  simp +contextual [execKsOpExport]
theorem execKsOpImport_keeps (sc : Fin 2) (arg : DWord) (s : State) : Keeps s (execKsOpImport sc arg s) := by
  simp +contextual [execKsOpImport]
theorem execKsOpCommit_keeps (sc : Fin 2) (arg : DWord) (s : State) : Keeps s (execKsOpCommit sc arg s) := by
  simp +contextual [execKsOpCommit]
theorem execKsOpLoad_keeps (sc : Fin 2) (arg : DWord) (s : State) : Keeps s (execKsOpLoad sc arg s) := by
  simp +contextual [execKsOpLoad]
theorem execKsOpVaultReset_keeps (sc : Fin 2) (arg : DWord) (s : State) : Keeps s (execKsOpVaultReset sc arg s) := by
  simp +contextual [execKsOpVaultReset]
theorem execDomainDestructionStep_keeps (d : Fin 4096) (s : State) : Keeps s (execDomainDestructionStep d s) := by
  simp +contextual [execDomainDestructionStep]
theorem execKsOpDone_keeps (s : State) : Keeps s (execKsOpDone s) := by
  simp +contextual [execKsOpDone]

/-! ### Machine/Host.lean -/
theorem execSqTail_keeps (f : Fin 2050) (q : Fin 256) (v : BitVec 32) (s : State) : Keeps s (execSqTail f q v s) := by
  simp [execSqTail]
theorem execCqHead_keeps (f : Fin 2050) (q : Fin 256) (v : BitVec 32) (s : State) : Keeps s (execCqHead f q v s) := by
  simp [execCqHead]
theorem execPushWrite_keeps (f : Fin 2050) (q : Fin 256) (off : BitVec 8) (oneTlp : Bool) (ide : Bool) (data : List Octet) (s : State) : Keeps s (execPushWrite f q off oneTlp ide data s) := by
  simp [execPushWrite]
theorem execCommandFetch_keeps (f : Fin 2050) (q : Fin 256) (ide : Bool) (data : List Octet) (s : State) : Keeps s (execCommandFetch f q ide data s) := by
  simp [execCommandFetch]
theorem execIngressAdmit_keeps (f : Fin 2050) (s : State) : Keeps s (execIngressAdmit f s) := by
  simp [execIngressAdmit]
theorem execCompletionWrite_keeps (f : Fin 2050) (q : Fin 256) (s : State) : Keeps s (execCompletionWrite f q s) := by
  simp [execCompletionWrite]
theorem execMsixModerationTimer_keeps (f : Fin 2050) (q : Fin 256) (s : State) : Keeps s (execMsixModerationTimer f q s) := by
  simp [execMsixModerationTimer]
theorem execQueueEnable_keeps (f : Fin 2050) (q : Fin 256) (v : BitVec 32) (s : State) : Keeps s (execQueueEnable f q v s) := by
  simp [execQueueEnable]
theorem execQueueDisable_keeps (f : Fin 2050) (q : Fin 256) (v : BitVec 32) (s : State) : Keeps s (execQueueDisable f q v s) := by
  simp [execQueueDisable]
theorem execFlrReportPop_keeps (p : Fin 2) (s : State) : Keeps s (execFlrReportPop p s) := by
  simp [execFlrReportPop]
theorem execHostMisalignedAccess_keeps (f : Fin 2050) (s : State) : Keeps s (execHostMisalignedAccess f s) := by
  simp [execHostMisalignedAccess]
theorem execLinkUp_keeps (p : Fin 2) (s : State) : Keeps s (execLinkUp p s) := by
  simp [execLinkUp]
theorem execL1Entry_keeps (p : Fin 2) (s : State) : Keeps s (execL1Entry p s) := by
  simp [execL1Entry]
theorem execConfigSpaceSet_keeps (w : ConfigWrite) (s : State) : Keeps s (execConfigSpaceSet w s) := by
  simp [execConfigSpaceSet]

/-! ### Machine/Quad.lean -/
theorem execHello_keeps (port : Fin 4) (frame : List Octet) (s : State) : Keeps s (execHello port frame s) := by
  simp +contextual [execHello]
theorem execJoinMessage_keeps (port : Fin 4) (frames : List (List Octet)) (s : State) : Keeps s (execJoinMessage port frames s) := by
  simp +contextual [execJoinMessage]
theorem execPair_keeps (port : Fin 4) (frames : List (List Octet)) (s : State) : Keeps s (execPair port frames s) := by
  simp [execPair]
theorem execRoster_keeps (port : Fin 4) (frames : List (List Octet)) (s : State) : Keeps s (execRoster port frames s) := by
  simp +contextual [execRoster]
theorem execAck_keeps (port : Fin 4) (frames : List (List Octet)) (s : State) : Keeps s (execAck port frames s) := by
  simp [execAck]
theorem execStatement_keeps (port : Fin 4) (frames : List (List Octet)) (s : State) : Keeps s (execStatement port frames s) := by
  simp +contextual [execStatement]
theorem execReplica_keeps (port : Fin 4) (frames : List (List Octet)) (s : State) : Keeps s (execReplica port frames s) := by
  simp +contextual [execReplica]
theorem execResync_keeps (port : Fin 4) (frames : List (List Octet)) (s : State) : Keeps s (execResync port frames s) := by
  simp [execResync]
theorem execHelloTimer_keeps (s : State) : Keeps s (execHelloTimer s) := by
  simp [execHelloTimer]
theorem execPathTimeout_keeps (member : Fin 4096) (port : Fin 4) (s : State) : Keeps s (execPathTimeout member port s) := by
  simp [execPathTimeout]
theorem execMessageRetryTimer_keeps (id : BitVec 32) (s : State) : Keeps s (execMessageRetryTimer id s) := by
  simp [execMessageRetryTimer]
theorem execPcsLockLoss_keeps (port : Fin 4) (s : State) : Keeps s (execPcsLockLoss port s) := by
  simp [execPcsLockLoss]
theorem execPcsLockAcquired_keeps (port : Fin 4) (s : State) : Keeps s (execPcsLockAcquired port s) := by
  simp [execPcsLockAcquired]
theorem execPelouxFrameDiscard_keeps (port : Fin 4) (s : State) : Keeps s (execPelouxFrameDiscard port s) := by
  simp [execPelouxFrameDiscard]
theorem execLinkRekeyTimer_keeps (member : Fin 4096) (s : State) : Keeps s (execLinkRekeyTimer member s) := by
  simp [execLinkRekeyTimer]
theorem execPlxJoin_keeps (m : Requester) (s : State) : Keeps s (execPlxJoin m s) := by
  simp [execPlxJoin]
theorem execAdmitJoiner_keeps (m : Requester) (s : State) : Keeps s (execAdmitJoiner m s) := by
  simp +contextual [execAdmitJoiner]
theorem execRefuseJoiner_keeps (m : Requester) (s : State) : Keeps s (execRefuseJoiner m s) := by
  simp [execRefuseJoiner]
theorem execLeave_keeps (m : Requester) (s : State) : Keeps s (execLeave m s) := by
  simp +contextual [execLeave]
theorem execJoinCallerTimeout_keeps (s : State) : Keeps s (execJoinCallerTimeout s) := by
  unfold execJoinCallerTimeout; (repeat' split) <;> simp +contextual
theorem execJoinAdmitTimeout_keeps (s : State) : Keeps s (execJoinAdmitTimeout s) := by
  simp [execJoinAdmitTimeout]

/-! ### Machine/Funcs.lean -/
theorem execMigTicketLapse_keeps (i : Fin 8) (s : State) : Keeps s (execMigTicketLapse i s) := by
  simp [execMigTicketLapse]

/-! ### Machine/Meas.lean -/
theorem execBootTapArm_keeps (s : State) : Keeps s (execBootTapArm s) := by
  simp [execBootTapArm]
theorem execBootTapClose_keeps (place : DWord) (image : List Octet) (s : State) : Keeps s (execBootTapClose place image s) := by
  simp +contextual [execBootTapClose]
theorem execMeasxGo_keeps (x : MeasBy) (index : Fin 32) (s : State) : Keeps s (execMeasxGo x index s) := by
  simp [execMeasxGo]
theorem execMeasExtension_keeps (s : State) : Keeps s (execMeasExtension s) := by
  simp [execMeasExtension]

/-! ### Machine/Residency.lean -/
theorem execFigureLoadDone_keeps (fid : BitVec 16) (s : State) : Keeps s (execFigureLoadDone fid s) := by
  simp [execFigureLoadDone]

/-! ### Machine/Admission.lean -/
theorem execRun_keeps (r : CmdRef) (s : State) : Keeps s (execRun r s) := by
  simp +contextual [execRun]
theorem execKeyCacheLoadDone_keeps (r : CmdRef) (s : State) : Keeps s (execKeyCacheLoadDone r s) := by
  simp +contextual [execKeyCacheLoadDone]
theorem execStagingDmaDone_keeps (r : CmdRef) (data : List Octet) (s : State) : Keeps s (execStagingDmaDone r data s) := by
  simp [execStagingDmaDone]
theorem execPageDrainDone_keeps (r : CmdRef) (s : State) : Keeps s (execPageDrainDone r s) := by
  simp [execPageDrainDone]

/-! ### Machine/Boundary.lean -/
theorem execMeasureBoundary_keeps (s : State) : Keeps s (execMeasureBoundary s) := by
  simp +contextual [execMeasureBoundary]

/-! ### Machine/Admin.lean -/
theorem execAbort_keeps (r : CmdRef) (s : State) : Keeps s (execAbort r s) := by
  simp [execAbort]
theorem execKeyGenerate_keeps (r : CmdRef) (blk : List Octet) (s : State) : Keeps s (execKeyGenerate r blk s) := by
  refine (keeps_next ..).mpr ⟨adminRun_pending _ _ _ _ _ _ fun _ _ _ _ _ _ => newKey_pending _ _ _ (fun _ => by simp),
    adminRun_otp _ _ _ _ _ _ fun _ _ _ _ _ _ => newKey_otp _ _ _ (fun _ => by simp), fun hm => adminRun_wf _ _ _ _ _ _ (fun _ _ _ _ _ _ h => newKey_wf _ _ _ (fun _ hx => by simp [hx]) h) hm⟩
theorem execKeyDerive_keeps (r : CmdRef) (blk : List Octet) (s : State) : Keeps s (execKeyDerive r blk s) := by
  refine (keeps_next ..).mpr ⟨adminRun_pending _ _ _ _ _ _ fun _ _ _ _ _ _ => newKey_pending _ _ _ (fun _ => by simp),
    adminRun_otp _ _ _ _ _ _ fun _ _ _ _ _ _ => newKey_otp _ _ _ (fun _ => by simp), fun hm => adminRun_wf _ _ _ _ _ _ (fun _ _ _ _ _ _ h => newKey_wf _ _ _ (fun _ hx => by simp [hx]) h) hm⟩
theorem execKeyRestrict_keeps (r : CmdRef) (blk : List Octet) (s : State) : Keeps s (execKeyRestrict r blk s) := by
  refine (keeps_next ..).mpr ⟨adminRun_pending _ _ _ _ _ _ fun _ _ _ _ _ _ => changeKey_pending _ _ _ _ (fun _ _ => by simp) (fun _ => by simp),
    adminRun_otp _ _ _ _ _ _ fun _ _ _ _ _ _ => changeKey_otp _ _ _ _ (fun _ _ => by simp) (fun _ => by simp), fun hm => adminRun_wf _ _ _ _ _ _ (fun _ _ _ _ _ _ h => changeKey_wf _ _ _ _ (fun _ _ hx => by simp [hx]) (fun _ hx => by simp [hx]) h) hm⟩
theorem execKeyInfo_keeps (r : CmdRef) (s : State) : Keeps s (execKeyInfo r s) := by
  simp +contextual [execKeyInfo]
theorem execKeyDestroy_keeps (r : CmdRef) (blk : List Octet) (s : State) : Keeps s (execKeyDestroy r blk s) := by
  refine (keeps_next ..).mpr ⟨adminRun_pending _ _ _ _ _ _ fun _ _ _ _ _ _ => changeKey_pending _ _ _ _ (fun _ _ => by simp) (fun _ => by simp),
    adminRun_otp _ _ _ _ _ _ fun _ _ _ _ _ _ => changeKey_otp _ _ _ _ (fun _ _ => by simp) (fun _ => by simp), fun hm => adminRun_wf _ _ _ _ _ _ (fun _ _ _ _ _ _ h => changeKey_wf _ _ _ _ (fun _ _ hx => by simp [hx]) (fun _ hx => by simp [hx]) h) hm⟩
theorem execKeyExport_keeps (r : CmdRef) (blk : List Octet) (s : State) : Keeps s (execKeyExport r blk s) := by
  simp +contextual [execKeyExport]
theorem execKeyImport_keeps (r : CmdRef) (blk : List Octet) (s : State) : Keeps s (execKeyImport r blk s) := by
  refine (keeps_next ..).mpr ⟨adminRun_pending _ _ _ _ _ _ fun _ _ _ _ _ _ => newKey_pending _ _ _ (fun _ => by simp),
    adminRun_otp _ _ _ _ _ _ fun _ _ _ _ _ _ => newKey_otp _ _ _ (fun _ => by simp), fun hm => adminRun_wf _ _ _ _ _ _ (fun _ _ _ _ _ _ h => newKey_wf _ _ _ (fun _ hx => by simp [hx]) h) hm⟩
theorem execAttest_keeps (r : CmdRef) (blk : List Octet) (s : State) : Keeps s (execAttest r blk s) := by
  simp +contextual [execAttest]
theorem execJournalRead_keeps (r : CmdRef) (s : State) : Keeps s (execJournalRead r s) := by
  simp +contextual [execJournalRead]
theorem execJournalAck_keeps (r : CmdRef) (s : State) : Keeps s (execJournalAck r s) := by
  simp +contextual [execJournalAck]
theorem execBallotOpen_keeps (r : CmdRef) (blk : List Octet) (s : State) : Keeps s (execBallotOpen r blk s) := by
  simp +contextual [execBallotOpen]
theorem execBallotSign_keeps (r : CmdRef) (blk : List Octet) (s : State) : Keeps s (execBallotSign r blk s) := by
  simp +contextual [execBallotSign]
theorem execBallotClose_keeps (r : CmdRef) (s : State) : Keeps s (execBallotClose r s) := by
  simp +contextual [execBallotClose]
theorem execCommissionBegin_keeps (r : CmdRef) (blk : List Octet) (s : State) : Keeps s (execCommissionBegin r blk s) := by
  simp +contextual [execCommissionBegin]
theorem execDomainCreate_keeps (r : CmdRef) (blk : List Octet) (trailer : List Octet) (s : State) : Keeps s (execDomainCreate r blk trailer s) := by
  simp +contextual [execDomainCreate]
theorem execDomainDestroy_keeps (r : CmdRef) (blk : List Octet) (s : State) : Keeps s (execDomainDestroy r blk s) := by
  simp +contextual [execDomainDestroy]
theorem execDomainSuspend_keeps (r : CmdRef) (blk : List Octet) (s : State) : Keeps s (execDomainSuspend r blk s) := by
  simp +contextual [execDomainSuspend]
theorem execDomainResume_keeps (r : CmdRef) (blk : List Octet) (s : State) : Keeps s (execDomainResume r blk s) := by
  simp +contextual [execDomainResume]
theorem execOfficerChange_keeps (r : CmdRef) (blk : List Octet) (trailer : List Octet) (s : State) : Keeps s (execOfficerChange r blk trailer s) := by
  simp +contextual [execOfficerChange]
theorem execFigureSigner_keeps (r : CmdRef) (blk : List Octet) (s : State) : Keeps s (execFigureSigner r blk s) := by
  simp +contextual [execFigureSigner]
theorem execLeadTakeover_keeps (r : CmdRef) (blk : List Octet) (s : State) : Keeps s (execLeadTakeover r blk s) := by
  simp +contextual [execLeadTakeover]
theorem execJournalClear_keeps (r : CmdRef) (blk : List Octet) (s : State) : Keeps s (execJournalClear r blk s) := by
  simp +contextual [execJournalClear]
theorem execVaultReset_keeps (r : CmdRef) (blk : List Octet) (s : State) : Keeps s (execVaultReset r blk s) := by
  simp +contextual [execVaultReset]
theorem execMigrationFreeze_keeps (r : CmdRef) (blk : List Octet) (s : State) : Keeps s (execMigrationFreeze r blk s) := by
  simp +contextual [execMigrationFreeze]
theorem execReplication_keeps (r : CmdRef) (blk : List Octet) (s : State) : Keeps s (execReplication r blk s) := by
  simp +contextual [execReplication]
theorem execFirmwareStage_keeps (r : CmdRef) (blk : List Octet) (s : State) : Keeps s (execFirmwareStage r blk s) := by
  simp +contextual [execFirmwareStage]
theorem execFirmwareActivate_keeps (r : CmdRef) (blk : List Octet) (s : State) : Keeps s (execFirmwareActivate r blk s) := by
  simp +contextual [execFirmwareActivate]
theorem execDebugAuthorise_keeps (r : CmdRef) (blk : List Octet) (trailer : List Octet) (s : State) : Keeps s (execDebugAuthorise r blk trailer s) := by
  simp +contextual [execDebugAuthorise]
theorem execRawEntropy_keeps (r : CmdRef) (blk : List Octet) (s : State) : Keeps s (execRawEntropy r blk s) := by
  simp +contextual [execRawEntropy]
theorem execRawRead_keeps (r : CmdRef) (s : State) : Keeps s (execRawRead r s) := by
  simp +contextual [execRawRead]
theorem execCellWindow_keeps (r : CmdRef) (blk : List Octet) (s : State) : Keeps s (execCellWindow r blk s) := by
  simp +contextual [execCellWindow]
theorem execVaultCommit_keeps (r : CmdRef) (s : State) : Keeps s (execVaultCommit r s) := by
  simp +contextual [execVaultCommit]
theorem execVaultStored_keeps (r : CmdRef) (s : State) : Keeps s (execVaultStored r s) := by
  simp +contextual [execVaultStored]
theorem execVaultLoad_keeps (r : CmdRef) (blk : List Octet) (s : State) : Keeps s (execVaultLoad r blk s) := by
  simp +contextual [execVaultLoad]
theorem execFigurePin_keeps (r : CmdRef) (blk : List Octet) (s : State) : Keeps s (execFigurePin r blk s) := by
  simp +contextual [execFigurePin]
theorem execFigureUnpin_keeps (r : CmdRef) (s : State) : Keeps s (execFigureUnpin r s) := by
  simp +contextual [execFigureUnpin]
theorem execFuncCreate_keeps (r : CmdRef) (blk : List Octet) (s : State) : Keeps s (execFuncCreate r blk s) := by
  simp +contextual [execFuncCreate]
theorem execFuncChange_keeps (r : CmdRef) (blk : List Octet) (s : State) : Keeps s (execFuncChange r blk s) := by
  simp +contextual [execFuncChange]
theorem execVfDestroy_keeps (r : CmdRef) (s : State) : Keeps s (execVfDestroy r s) := by
  simp +contextual [execVfDestroy]
theorem execVfFreeze_keeps (r : CmdRef) (s : State) : Keeps s (execVfFreeze r s) := by
  simp +contextual [execVfFreeze]
theorem execVfThaw_keeps (r : CmdRef) (s : State) : Keeps s (execVfThaw r s) := by
  simp +contextual [execVfThaw]
theorem execMigTicket_keeps (r : CmdRef) (s : State) : Keeps s (execMigTicket r s) := by
  simp +contextual [execMigTicket]
theorem execVfSave_keeps (r : CmdRef) (blk : List Octet) (s : State) : Keeps s (execVfSave r blk s) := by
  simp +contextual [execVfSave]
theorem execVfRestore_keeps (r : CmdRef) (blk : List Octet) (s : State) : Keeps s (execVfRestore r blk s) := by
  simp +contextual [execVfRestore]
theorem execQueueMark_keeps (r : CmdRef) (s : State) : Keeps s (execQueueMark r s) := by
  simp +contextual [execQueueMark]
theorem execMigrationThaw_keeps (r : CmdRef) (s : State) : Keeps s (execMigrationThaw r s) := by
  simp +contextual [execMigrationThaw]
theorem execPortVfAlloc_keeps (r : CmdRef) (s : State) : Keeps s (execPortVfAlloc r s) := by
  simp +contextual [execPortVfAlloc]
theorem execWarmReset_keeps (r : CmdRef) (s : State) : Keeps s (execWarmReset r s) := by
  simp [execWarmReset]
theorem execRawCtlGo_keeps (sc : Fin 2) (restart : Bool) (source : Fin 8) (count : Fin 1024) (s : State) : Keeps s (execRawCtlGo sc restart source count s) := by
  simp [execRawCtlGo]

/-! ### Machine/Modes.lean -/
theorem execVfFlr_keeps (f : Fin 2048) (s : State) : Keeps s (execVfFlr f s) := by
  simp [execVfFlr]
theorem execPfFlr_keeps (p : Fin 2) (s : State) : Keeps s (execPfFlr p s) := by
  simp [execPfFlr]
theorem execPerstAssert_keeps (p : Fin 2) (s : State) : Keeps s (execPerstAssert p s) := by
  simp [execPerstAssert]
theorem execPerstRelease_keeps (p : Fin 2) (s : State) : Keeps s (execPerstRelease p s) := by
  simp [execPerstRelease]
theorem execHotReset_keeps (p : Fin 2) (s : State) : Keeps s (execHotReset p s) := by
  simp [execHotReset]
theorem execLinkDown_keeps (p : Fin 2) (s : State) : Keeps s (execLinkDown p s) := by
  simp [execLinkDown]
theorem execRstCtlWarm_keeps (s : State) : Keeps s (execRstCtlWarm s) := by
  simp [execRstCtlWarm]
theorem execRstCtlFault_keeps (s : State) : Keeps s (execRstCtlFault s) := by
  simp [execRstCtlFault]
theorem execSc1Run_keeps (s : State) : Keeps s (execSc1Run s) := by
  simp [execSc1Run]
theorem execScWdogKick_keeps (s : State) : Keeps s (execScWdogKick s) := by
  simp [execScWdogKick]
theorem execScWdogHalf_keeps (s : State) : Keeps s (execScWdogHalf s) := by
  simp [execScWdogHalf]
theorem execScWdogExpiry_keeps (s : State) : Keeps s (execScWdogExpiry s) := by
  simp [execScWdogExpiry]
theorem execBlockRstGo_keeps (ty : Fin 4) (i : Fin 64) (s : State) : Keeps s (execBlockRstGo ty i s) := by
  simp [execBlockRstGo]
theorem execBlockResetDone_keeps (s : State) : Keeps s (execBlockResetDone s) := by
  simp [execBlockResetDone]
theorem execWakeReq_keeps (s : State) : Keeps s (execWakeReq s) := by
  simp [execWakeReq]
theorem execIntDoor_keeps (ring : BitVec 3) (s : State) : Keeps s (execIntDoor ring s) := by
  simp [execIntDoor]
theorem execSleepEntry_keeps (s : State) : Keeps s (execSleepEntry s) := by
  simp [execSleepEntry]
theorem execSleepWake_keeps (ev : Fin 7) (s : State) : Keeps s (execSleepWake ev s) := by
  simp [execSleepWake]
theorem execSupplyPor_keeps (s : State) : Keeps s (execSupplyPor s) := by
  simp +contextual [execSupplyPor]
theorem execResetNAssert_keeps (s : State) : Keeps s (execResetNAssert s) := by
  simp +contextual [execResetNAssert]
theorem execWarmNAssert_keeps (s : State) : Keeps s (execWarmNAssert s) := by
  simp [execWarmNAssert]
theorem execResetSourceRelease_keeps (b : Fin 11) (s : State) : Keeps s (execResetSourceRelease b s) := by
  simp [execResetSourceRelease]
theorem execFuseLoadDone_keeps (shadowOk : Bool) (split : Bool) (strap : Fin 8) (s : State) : Keeps s (execFuseLoadDone shadowOk split strap s) := by
  simp [execFuseLoadDone]
theorem execSecureBootEnd_keeps (slot : Option Bool) (testPass : Bool) (s : State) : Keeps s (execSecureBootEnd slot testPass s) := by
  simp [execSecureBootEnd]
theorem execWarmResetApply_keeps (s : State) : Keeps s (execWarmResetApply s) := by
  simp +contextual [execWarmResetApply]
theorem execWarmResetRelease_keeps (s : State) : Keeps s (execWarmResetRelease s) := by
  simp [execWarmResetRelease]
theorem execPwrFailFall_keeps (s : State) : Keeps s (execPwrFailFall s) := by
  simp [execPwrFailFall]
theorem execPowerFailHold_keeps (s : State) : Keeps s (execPowerFailHold s) := by
  simp +contextual [execPowerFailHold]
theorem execPwrFailRise_keeps (s : State) : Keeps s (execPwrFailRise s) := by
  simp +contextual [execPwrFailRise]
theorem execMainZeroizedEntry_keeps (s : State) : Keeps s (execMainZeroizedEntry s) := by
  simp +contextual [execMainZeroizedEntry]

/-! ### Machine/Spdm.lean -/
theorem execGetVersion_keeps (p : Fin 2) (msg : List Octet) (s : State) : Keeps s (execGetVersion p msg s) := by
  simp [execGetVersion]
theorem execGetCapabilities_keeps (p : Fin 2) (msg : List Octet) (s : State) : Keeps s (execGetCapabilities p msg s) := by
  simp [execGetCapabilities]
theorem execNegotiateAlgorithms_keeps (p : Fin 2) (msg : List Octet) (s : State) : Keeps s (execNegotiateAlgorithms p msg s) := by
  simp [execNegotiateAlgorithms]
theorem execGetDigests_keeps (p : Fin 2) (msg : List Octet) (s : State) : Keeps s (execGetDigests p msg s) := by
  simp [execGetDigests]
theorem execGetCertificate_keeps (p : Fin 2) (msg : List Octet) (s : State) : Keeps s (execGetCertificate p msg s) := by
  simp [execGetCertificate]
theorem execChallenge_keeps (p : Fin 2) (msg : List Octet) (s : State) : Keeps s (execChallenge p msg s) := by
  simp [execChallenge]
theorem execGetMeasurements_keeps (p : Fin 2) (msg : List Octet) (s : State) : Keeps s (execGetMeasurements p msg s) := by
  simp [execGetMeasurements]
theorem execKeyExchange_keeps (p : Fin 2) (msg : List Octet) (s : State) : Keeps s (execKeyExchange p msg s) := by
  simp [execKeyExchange]
theorem execFinish_keeps (p : Fin 2) (msg : List Octet) (s : State) : Keeps s (execFinish p msg s) := by
  simp [execFinish]
theorem execCloseSession_keeps (p : Fin 2) (msg : List Octet) (s : State) : Keeps s (execCloseSession p msg s) := by
  simp [execCloseSession]
theorem execKeyUpdate_keeps (p : Fin 2) (msg : List Octet) (s : State) : Keeps s (execKeyUpdate p msg s) := by
  simp [execKeyUpdate]
theorem execHeartbeat_keeps (p : Fin 2) (msg : List Octet) (s : State) : Keeps s (execHeartbeat p msg s) := by
  simp [execHeartbeat]
theorem execIdeKm_keeps (p : Fin 2) (msg : List Octet) (s : State) : Keeps s (execIdeKm p msg s) := by
  simp [execIdeKm]
theorem execDoeDiscovery_keeps (p : Fin 2) (index : BitVec 8) (s : State) : Keeps s (execDoeDiscovery p index s) := by
  simp [execDoeDiscovery]
theorem execMctpSpdmRelay_keeps (msg : List Octet) (s : State) : Keeps s (execMctpSpdmRelay msg s) := by
  simp [execMctpSpdmRelay]

/-! ### Machine/BusWrite.lean -/
theorem execRegisterSet_keeps (x : RegAt) (v : BitVec 32) (s : State) : Keeps s (execRegisterSet x v s) := by
  simp +contextual [execRegisterSet]
theorem execLatchedRead_keeps (x : RegAt) (s : State) : Keeps s (execLatchedRead x s) := by
  simp [execLatchedRead]

/-! ### Machine/Debug.lean -/
theorem execJtagIdcode_keeps (s : State) : Keeps s (execJtagIdcode s) := by
  simp [execJtagIdcode]
theorem execJtagSamplePreload_keeps (cells : List Bool) (s : State) : Keeps s (execJtagSamplePreload cells s) := by
  simp [execJtagSamplePreload]
theorem execJtagExtest_keeps (s : State) : Keeps s (execJtagExtest s) := by
  simp [execJtagExtest]
theorem execJtagClamp_keeps (s : State) : Keeps s (execJtagClamp s) := by
  simp [execJtagClamp]
theorem execJtagHighz_keeps (s : State) : Keeps s (execJtagHighz s) := by
  simp [execJtagHighz]
theorem execJtagNonceRead_keeps (s : State) : Keeps s (execJtagNonceRead s) := by
  simp [execJtagNonceRead]
theorem execJtagDebugPort_keeps (s : State) : Keeps s (execJtagDebugPort s) := by
  simp [execJtagDebugPort]
theorem execJtagBypass_keeps (s : State) : Keeps s (execJtagBypass s) := by
  simp [execJtagBypass]
theorem execDebugHalt_keeps (c : CtlId) (s : State) : Keeps s (execDebugHalt c s) := by
  simp [execDebugHalt]
theorem execDebugSingleStep_keeps (c : CtlId) (s : State) : Keeps s (execDebugSingleStep c s) := by
  simp [execDebugSingleStep]
theorem execDebugResume_keeps (c : CtlId) (s : State) : Keeps s (execDebugResume c s) := by
  simp [execDebugResume]
theorem execDebugAccess_keeps (isStore : Bool) (target : DebugTarget) (v : Word) (s : State) : Keeps s (execDebugAccess isStore target v s) := by
  simp +contextual [execDebugAccess]

end Sys2Proof.Machine
end

