-- ==== Sys2Proof/Laws/KeepExecB.lean ====
section
/-! SUPPORT. What each meaning leaves alone, whatever its operands and the state: the queue, OTP, and the canonical form of memory. -/
namespace Sys2Proof.Machine

/-! ### Machine/FloorSym.lean -/
theorem execHset_keeps (a : At) (u : Fin 32) (r : Fin 32) (s : State) : Keeps s (execHset a u r s) := by
  simp [execHset]
theorem execHld_keeps (a : At) (u : Fin 32) (m : BitVec 8) (tap : Bool) (adv : Bool) (s : State) : Keeps s (execHld a u m tap adv s) := by
  simp [execHld]
theorem execHst_keeps (a : At) (u : Fin 32) (m : BitVec 8) (adv : Bool) (s : State) : Keeps s (execHst a u m adv s) := by
  simp [execHst]
theorem execAese_keeps (a : At) (u : Fin 32) (m : BitVec 8) (s : State) : Keeps s (execAese a u m s) := by
  simp [execAese]
theorem execAesd_keeps (a : At) (u : Fin 32) (m : BitVec 8) (s : State) : Keeps s (execAesd a u m s) := by
  simp [execAesd]
theorem execCtre_keeps (a : At) (u : Fin 32) (m : BitVec 8) (s : State) : Keeps s (execCtre a u m s) := by
  simp [execCtre]
theorem execCtrk_keeps (a : At) (u : Fin 32) (m : BitVec 8) (s : State) : Keeps s (execCtrk a u m s) := by
  simp [execCtrk]
theorem execCtri_keeps (a : At) (u : Fin 32) (m : BitVec 8) (s : State) : Keeps s (execCtri a u m s) := by
  simp [execCtri]
theorem execXorb_keeps (a : At) (u : Fin 32) (m : BitVec 8) (s : State) : Keeps s (execXorb a u m s) := by
  simp [execXorb]
theorem execMovb_keeps (a : At) (u : Fin 32) (m : BitVec 8) (s : State) : Keeps s (execMovb a u m s) := by
  simp [execMovb]
theorem execXtse_keeps (a : At) (u : Fin 32) (m : BitVec 8) (s : State) : Keeps s (execXtse a u m s) := by
  simp [execXtse]
theorem execXtsd_keeps (a : At) (u : Fin 32) (m : BitVec 8) (s : State) : Keeps s (execXtsd a u m s) := by
  simp [execXtsd]
theorem execCbcd_keeps (a : At) (u : Fin 32) (m : BitVec 8) (s : State) : Keeps s (execCbcd a u m s) := by
  simp [execCbcd]
theorem execCmacb_keeps (a : At) (u : Fin 32) (m : BitVec 8) (s : State) : Keeps s (execCmacb a u m s) := by
  simp [execCmacb]
theorem execCsave_keeps (a : At) (u : Fin 32) (m : BitVec 8) (s : State) : Keeps s (execCsave a u m s) := by
  simp [execCsave]
theorem execCrest_keeps (a : At) (u : Fin 32) (m : BitVec 8) (s : State) : Keeps s (execCrest a u m s) := by
  simp [execCrest]
theorem execKput_keeps (a : At) (u : Fin 32) (m : BitVec 8) (k : Fin 8) (s : State) : Keeps s (execKput a u m k s) := by
  simp [execKput]
theorem execGhk_keeps (a : At) (u : Fin 32) (lane : Fin 8) (s : State) : Keeps s (execGhk a u lane s) := by
  simp [execGhk]
theorem execGha_keeps (a : At) (u : Fin 32) (lane : Fin 8) (s : State) : Keeps s (execGha a u lane s) := by
  simp [execGha]
theorem execGhb_keeps (a : At) (u : Fin 32) (lane : Fin 8) (s : State) : Keeps s (execGhb a u lane s) := by
  simp [execGhb]
theorem execGhl_keeps (a : At) (u : Fin 32) (r : Fin 25) (s : State) : Keeps s (execGhl a u r s) := by
  simp [execGhl]
theorem execGtag_keeps (a : At) (u : Fin 32) (lane : Fin 8) (adv : Bool) (s : State) : Keeps s (execGtag a u lane adv s) := by
  simp [execGtag]
theorem execGcmp_keeps (a : At) (u : Fin 32) (lane : Fin 8) (r : Fin 32) (s : State) : Keeps s (execGcmp a u lane r s) := by
  simp [execGcmp]
theorem execGclr_keeps (a : At) (u : Fin 32) (s : State) : Keeps s (execGclr a u s) := by
  simp [execGclr]
theorem execTwi_keeps (a : At) (u : Fin 32) (r : Fin 25) (s : State) : Keeps s (execTwi a u r s) := by
  simp [execTwi]
theorem execTwn_keeps (a : At) (u : Fin 32) (s : State) : Keeps s (execTwn a u s) := by
  simp [execTwn]
theorem execKlane_keeps (a : At) (u : Fin 32) (m : BitVec 8) (k : Fin 8) (s : State) : Keeps s (execKlane a u m k s) := by
  simp [execKlane]
theorem execKgh_keeps (a : At) (u : Fin 32) (k : Fin 8) (s : State) : Keeps s (execKgh a u k s) := by
  simp [execKgh]
theorem execKxt_keeps (a : At) (u : Fin 32) (k : Fin 8) (s : State) : Keeps s (execKxt a u k s) := by
  simp [execKxt]

/-! ### Machine/FloorDigest.lean -/
theorem execDinit_keeps (a : At) (u : Fin 32) (alg : BitVec 4) (s : State) : Keeps s (execDinit a u alg s) := by
  simp [execDinit]
theorem execDabs_keeps (a : At) (u : Fin 32) (lg : Fin 32) (lane : Fin 8) (bout : Bool) (s : State) : Keeps s (execDabs a u lg lane bout s) := by
  simp [execDabs]
theorem execDcomp_keeps (a : At) (u : Fin 32) (s : State) : Keeps s (execDcomp a u s) := by
  simp [execDcomp]
theorem execDfin_keeps (a : At) (u : Fin 32) (s : State) : Keeps s (execDfin a u s) := by
  simp [execDfin]
theorem execDout_keeps (a : At) (u : Fin 32) (lg : Option (Fin 32)) (s : State) : Keeps s (execDout a u lg s) := by
  simp [execDout]
theorem execDpad_keeps (a : At) (u : Fin 32) (k : Fin 8) (opad : Bool) (s : State) : Keeps s (execDpad a u k opad s) := by
  simp [execDpad]
theorem execDsave_keeps (a : At) (u : Fin 32) (lg : Fin 32) (s : State) : Keeps s (execDsave a u lg s) := by
  simp [execDsave]
theorem execDrest_keeps (a : At) (u : Fin 32) (lg : Fin 32) (s : State) : Keeps s (execDrest a u lg s) := by
  simp [execDrest]
theorem execDtap_keeps (a : At) (u : Fin 32) (lg : Fin 32) (s : State) : Keeps s (execDtap a u lg s) := by
  simp [execDtap]

/-! ### Machine/FloorNum.lean -/
theorem execLadd_keeps (x : At) (u : Fin 32) (d : Fin 16) (a : Fin 16) (b : Fin 16) (s : State) : Keeps s (execLadd x u d a b s) := by
  simp [execLadd]
theorem execLsub_keeps (x : At) (u : Fin 32) (d : Fin 16) (a : Fin 16) (b : Fin 16) (s : State) : Keeps s (execLsub x u d a b s) := by
  simp [execLsub]
theorem execMnorm_keeps (x : At) (u : Fin 32) (d : Fin 16) (a : Fin 16) (double : Bool) (s : State) : Keeps s (execMnorm x u d a double s) := by
  simp [execMnorm]
theorem execMmul_keeps (x : At) (u : Fin 32) (d : Fin 16) (a : Fin 16) (b : Fin 16) (s : State) : Keeps s (execMmul x u d a b s) := by
  simp [execMmul]
theorem execMsqr_keeps (x : At) (u : Fin 32) (d : Fin 16) (a : Fin 16) (s : State) : Keeps s (execMsqr x u d a s) := by
  simp [execMsqr]
theorem execMinv_keeps (x : At) (u : Fin 32) (d : Fin 16) (a : Fin 16) (s : State) : Keeps s (execMinv x u d a s) := by
  simp [execMinv]
theorem execMexp_keeps (x : At) (u : Fin 32) (d : Fin 16) (a : Fin 16) (b : Fin 16) (opt : Fin 256) (s : State) : Keeps s (execMexp x u d a b opt s) := by
  simp [execMexp]
theorem execMset_keeps (x : At) (u : Fin 32) (a : Fin 16) (given : Bool) (s : State) : Keeps s (execMset x u a given s) := by
  simp [execMset]
theorem execMchk_keeps (x : At) (u : Fin 32) (a : Fin 16) (nonzero : Bool) (s : State) : Keeps s (execMchk x u a nonzero s) := by
  simp [execMchk]
theorem execMsel_keeps (x : At) (u : Fin 32) (d : Fin 16) (a : Fin 16) (b : Fin 16) (sel : Fin 16) (s : State) : Keeps s (execMsel x u d a b sel s) := by
  simp [execMsel]
theorem execMscan_keeps (x : At) (u : Fin 32) (d : Fin 16) (a : Fin 16) (b : Fin 16) (opt : Fin 256) (s : State) : Keeps s (execMscan x u d a b opt s) := by
  simp [execMscan]
theorem execMeq_keeps (x : At) (u : Fin 32) (d : Fin 16) (a : Fin 16) (b : Fin 16) (s : State) : Keeps s (execMeq x u d a b s) := by
  simp [execMeq]
theorem execLset_keeps (x : At) (u : Fin 32) (a : Fin 16) (wide : Bool) (s : State) : Keeps s (execLset x u a wide s) := by
  simp [execLset]
theorem execNtt_keeps (x : At) (u : Fin 32) (d : Fin 16) (a : Fin 16) (eight : Bool) (s : State) : Keeps s (execNtt x u d a eight s) := by
  simp [execNtt]
theorem execIntt_keeps (x : At) (u : Fin 32) (d : Fin 16) (a : Fin 16) (eight : Bool) (s : State) : Keeps s (execIntt x u d a eight s) := by
  simp [execIntt]
theorem execPmul_keeps (x : At) (u : Fin 32) (d : Fin 16) (a : Fin 16) (b : Fin 16) (base : Bool) (s : State) : Keeps s (execPmul x u d a b base s) := by
  simp [execPmul]
theorem execPadd_keeps (x : At) (u : Fin 32) (d : Fin 16) (a : Fin 16) (b : Fin 16) (s : State) : Keeps s (execPadd x u d a b s) := by
  simp [execPadd]
theorem execPsub_keeps (x : At) (u : Fin 32) (d : Fin 16) (a : Fin 16) (b : Fin 16) (s : State) : Keeps s (execPsub x u d a b s) := by
  simp [execPsub]
theorem execPnorm_keeps (x : At) (u : Fin 32) (d : Fin 16) (a : Fin 16) (b : Fin 16) (s : State) : Keeps s (execPnorm x u d a b s) := by
  simp [execPnorm]
theorem execPsplit_keeps (x : At) (u : Fin 32) (d : Fin 16) (a : Fin 16) (b : Fin 16) (s : State) : Keeps s (execPsplit x u d a b s) := by
  simp [execPsplit]
theorem execPhint_keeps (x : At) (u : Fin 32) (d : Fin 16) (a : Fin 16) (b : Fin 16) (use : Bool) (s : State) : Keeps s (execPhint x u d a b use s) := by
  simp [execPhint]
theorem execPcomp_keeps (x : At) (u : Fin 32) (d : Fin 16) (a : Fin 16) (w : Fin 32) (s : State) : Keeps s (execPcomp x u d a w s) := by
  simp [execPcomp]
theorem execPdecomp_keeps (x : At) (u : Fin 32) (d : Fin 16) (a : Fin 16) (w : Fin 32) (s : State) : Keeps s (execPdecomp x u d a w s) := by
  simp [execPdecomp]
theorem execPack_keeps (x : At) (u : Fin 32) (d : Fin 16) (a : Fin 16) (b : Fin 16) (w : Fin 32) (minus : Bool) (s : State) : Keeps s (execPack x u d a b w minus s) := by
  simp [execPack]
theorem execUnpack_keeps (x : At) (u : Fin 32) (d : Fin 16) (a : Fin 16) (b : Fin 16) (w : Fin 32) (minus : Bool) (s : State) : Keeps s (execUnpack x u d a b w minus s) := by
  simp [execUnpack]
theorem execPrej_keeps (x : At) (u : Fin 32) (d : Fin 16) (a : Fin 16) (b : Fin 16) (mode : Fin 4) (c : Fin 8) (s : State) : Keeps s (execPrej x u d a b mode c s) := by
  simp [execPrej]
theorem execPcbd_keeps (x : At) (u : Fin 32) (d : Fin 16) (a : Fin 16) (eta : Fin 8) (s : State) : Keeps s (execPcbd x u d a eta s) := by
  simp [execPcbd]
theorem execPconv_keeps (x : At) (u : Fin 32) (d : Fin 16) (a : Fin 16) (b : Fin 16) (w : Fin 32) (s : State) : Keeps s (execPconv x u d a b w s) := by
  simp [execPconv]
theorem execNseta_keeps (x : At) (u : Fin 32) (d : Fin 16) (r : Fin 32) (s : State) : Keeps s (execNseta x u d r s) := by
  simp [execNseta]
theorem execNsetl_keeps (x : At) (u : Fin 32) (r : Fin 32) (s : State) : Keeps s (execNsetl x u r s) := by
  simp [execNsetl]
theorem execNldh_keeps (x : At) (u : Fin 32) (d : Fin 16) (r : Fin 32) (c : Fin 256) (form : Fin 8) (s : State) : Keeps s (execNldh x u d r c form s) := by
  simp [execNldh]
theorem execNsth_keeps (x : At) (u : Fin 32) (d : Fin 16) (r : Fin 32) (c : Fin 256) (form : Fin 8) (s : State) : Keeps s (execNsth x u d r c form s) := by
  simp [execNsth]
theorem execNldf_keeps (x : At) (u : Fin 32) (d : Fin 16) (r : Fin 32) (s : State) : Keeps s (execNldf x u d r s) := by
  simp [execNldf]
theorem execNstf_keeps (x : At) (u : Fin 32) (a : Fin 16) (r : Fin 32) (s : State) : Keeps s (execNstf x u a r s) := by
  simp [execNstf]
theorem execNstat_keeps (x : At) (u : Fin 32) (r : Fin 32) (s : State) : Keeps s (execNstat x u r s) := by
  simp [execNstat]
theorem execNinc_keeps (x : At) (u : Fin 32) (d : Fin 16) (r : Fin 32) (s : State) : Keeps s (execNinc x u d r s) := by
  simp [execNinc]
theorem execKnu_keeps (a : At) (u : Fin 32) (k : Fin 8) (base : Fin 512) (s : State) : Keeps s (execKnu a u k base s) := by
  simp [execKnu]
theorem execRndn_keeps (a : At) (u : Fin 32) (base : Fin 512) (s : State) : Keeps s (execRndn a u base s) := by
  simp [execRndn]

/-! ### Machine/FloorMisc.lean -/
theorem execEndRun_keeps (a : At) (s : State) : Keeps s (execEndRun a s) := by
  simp [execEndRun]
theorem execEndRepeat_keeps (a : At) (ra : Fin 32) (s : State) : Keeps s (execEndRepeat a ra s) := by
  simp [execEndRepeat]
theorem execEndReject_keeps (a : At) (ra : Fin 32) (s : State) : Keeps s (execEndReject a ra s) := by
  simp [execEndReject]
theorem execRndf_keeps (a : At) (r : Fin 32) (s : State) : Keeps s (execRndf a r s) := by
  simp [execRndf]
theorem execAuth_keeps (a : At) (r : Fin 32) (s : State) : Keeps s (execAuth a r s) := by
  simp [execAuth]
theorem execRes_keeps (a : At) (i : Fin 8) (r : Fin 32) (s : State) : Keeps s (execRes a i r s) := by
  simp [execRes]
theorem execHrel_keeps (a : At) (u : Fin 32) (page : Fin 64) (s : State) : Keeps s (execHrel a u page s) := by
  simp [execHrel]
theorem execResultLanding_keeps (fs : Fin 64) (s : State) : Keeps s (execResultLanding fs s) := by
  simp [execResultLanding]
theorem execFloorCommit_keeps (s : State) : Keeps s (execFloorCommit s) := by
  simp [execFloorCommit]
theorem execLaneGroupTest_keeps (reel : Fin 32) (lane : Fin 32) (s : State) : Keeps s (execLaneGroupTest reel lane s) := by
  simp [execLaneGroupTest]
theorem execLaneReinstate_keeps (reel : Fin 32) (lane : Fin 32) (s : State) : Keeps s (execLaneReinstate reel lane s) := by
  simp [execLaneReinstate]
theorem execLaneRetire_keeps (reel : Fin 32) (lane : Fin 32) (s : State) : Keeps s (execLaneRetire reel lane s) := by
  simp [execLaneRetire]
theorem execSpareTest_keeps (reel : Fin 32) (s : State) : Keeps s (execSpareTest reel s) := by
  simp [execSpareTest]
theorem execLaneActionDone_keeps (reel : Fin 32) (pass : Bool) (s : State) : Keeps s (execLaneActionDone reel pass s) := by
  simp [execLaneActionDone]
theorem execDuTest_keeps (u : Fin 64) (s : State) : Keeps s (execDuTest u s) := by
  simp [execDuTest]
theorem execDuReinstate_keeps (u : Fin 64) (s : State) : Keeps s (execDuReinstate u s) := by
  simp [execDuReinstate]
theorem execDuRetire_keeps (u : Fin 64) (s : State) : Keeps s (execDuRetire u s) := by
  simp [execDuRetire]
theorem execDuActionDone_keeps (u : Fin 64) (pass : Bool) (s : State) : Keeps s (execDuActionDone u pass s) := by
  simp [execDuActionDone]
theorem execNuTest_keeps (u : Fin 16) (s : State) : Keeps s (execNuTest u s) := by
  simp [execNuTest]
theorem execNuReinstate_keeps (u : Fin 16) (s : State) : Keeps s (execNuReinstate u s) := by
  simp [execNuReinstate]
theorem execNuRetire_keeps (u : Fin 16) (s : State) : Keeps s (execNuRetire u s) := by
  simp [execNuRetire]
theorem execNuActionDone_keeps (u : Fin 16) (pass : Bool) (s : State) : Keeps s (execNuActionDone u pass s) := by
  simp [execNuActionDone]
theorem execMaskExpanderAllotment_keeps (reel : Fin 32) (lane : Fin 32) (s : State) : Keeps s (execMaskExpanderAllotment reel lane s) := by
  simp [execMaskExpanderAllotment]
theorem execExpanderReseed_keeps (reel : Fin 32) (s : State) : Keeps s (execExpanderReseed reel s) := by
  simp [execExpanderReseed]
theorem execExpanderStale_keeps (reel : Fin 32) (s : State) : Keeps s (execExpanderStale reel s) := by
  simp [execExpanderStale]

/-! ### Machine/Ctl.lean -/
theorem execInterruptTaken_keeps (c : CtlId) (s : State) : Keeps s (execInterruptTaken c s) := by
  simp [execInterruptTaken]
theorem execSecureInterruptEntry_keeps (c : CtlId) (s : State) : Keeps s (execSecureInterruptEntry c s) := by
  simp [execSecureInterruptEntry]
theorem execCycleCountWrap_keeps (c : CtlId) (s : State) : Keeps s (execCycleCountWrap c s) := by
  simp [execCycleCountWrap]

/-! ### Machine/Alu.lean -/
theorem execAdd_keeps (x : Site) (rd : Fin 32) (ra : Fin 32) (rb : Fin 32) (s : State) : Keeps s (execAdd x rd ra rb s) := by
  unfold execAdd; (repeat' split) <;> simp +contextual
theorem execAdc_keeps (x : Site) (rd : Fin 32) (ra : Fin 32) (rb : Fin 32) (s : State) : Keeps s (execAdc x rd ra rb s) := by
  simp +contextual [execAdc]
theorem execSub_keeps (x : Site) (rd : Fin 32) (ra : Fin 32) (rb : Fin 32) (s : State) : Keeps s (execSub x rd ra rb s) := by
  simp +contextual [execSub]
theorem execSbc_keeps (x : Site) (rd : Fin 32) (ra : Fin 32) (rb : Fin 32) (s : State) : Keeps s (execSbc x rd ra rb s) := by
  simp +contextual [execSbc]
theorem execNeg_keeps (x : Site) (rd : Fin 32) (ra : Fin 32) (s : State) : Keeps s (execNeg x rd ra s) := by
  simp +contextual [execNeg]
theorem execCmp_keeps (x : Site) (ra : Fin 32) (rb : Fin 32) (s : State) : Keeps s (execCmp x ra rb s) := by
  simp +contextual [execCmp]
theorem execAnd_keeps (x : Site) (rd : Fin 32) (ra : Fin 32) (rb : Fin 32) (s : State) : Keeps s (execAnd x rd ra rb s) := by
  simp +contextual [execAnd]
theorem execOr_keeps (x : Site) (rd : Fin 32) (ra : Fin 32) (rb : Fin 32) (s : State) : Keeps s (execOr x rd ra rb s) := by
  simp +contextual [execOr]
theorem execXor_keeps (x : Site) (rd : Fin 32) (ra : Fin 32) (rb : Fin 32) (s : State) : Keeps s (execXor x rd ra rb s) := by
  simp +contextual [execXor]
theorem execAndn_keeps (x : Site) (rd : Fin 32) (ra : Fin 32) (rb : Fin 32) (s : State) : Keeps s (execAndn x rd ra rb s) := by
  simp +contextual [execAndn]
theorem execShl_keeps (x : Site) (rd : Fin 32) (ra : Fin 32) (rb : Fin 32) (s : State) : Keeps s (execShl x rd ra rb s) := by
  simp +contextual [execShl]
theorem execShr_keeps (x : Site) (rd : Fin 32) (ra : Fin 32) (rb : Fin 32) (s : State) : Keeps s (execShr x rd ra rb s) := by
  simp +contextual [execShr]
theorem execSar_keeps (x : Site) (rd : Fin 32) (ra : Fin 32) (rb : Fin 32) (s : State) : Keeps s (execSar x rd ra rb s) := by
  simp +contextual [execSar]
theorem execRol_keeps (x : Site) (rd : Fin 32) (ra : Fin 32) (rb : Fin 32) (s : State) : Keeps s (execRol x rd ra rb s) := by
  simp +contextual [execRol]
theorem execRor_keeps (x : Site) (rd : Fin 32) (ra : Fin 32) (rb : Fin 32) (s : State) : Keeps s (execRor x rd ra rb s) := by
  simp +contextual [execRor]
theorem execShli_keeps (x : Site) (rd : Fin 32) (ra : Fin 32) (amount : Fin 32) (s : State) : Keeps s (execShli x rd ra amount s) := by
  simp +contextual [execShli]
theorem execShri_keeps (x : Site) (rd : Fin 32) (ra : Fin 32) (amount : Fin 32) (s : State) : Keeps s (execShri x rd ra amount s) := by
  simp +contextual [execShri]
theorem execSari_keeps (x : Site) (rd : Fin 32) (ra : Fin 32) (amount : Fin 32) (s : State) : Keeps s (execSari x rd ra amount s) := by
  simp +contextual [execSari]
theorem execRoli_keeps (x : Site) (rd : Fin 32) (ra : Fin 32) (amount : Fin 32) (s : State) : Keeps s (execRoli x rd ra amount s) := by
  simp +contextual [execRoli]
theorem execRori_keeps (x : Site) (rd : Fin 32) (ra : Fin 32) (amount : Fin 32) (s : State) : Keeps s (execRori x rd ra amount s) := by
  simp +contextual [execRori]
theorem execMul_keeps (x : Site) (rd : Fin 32) (ra : Fin 32) (rb : Fin 32) (s : State) : Keeps s (execMul x rd ra rb s) := by
  simp +contextual [execMul]
theorem execMulu_keeps (x : Site) (rd : Fin 32) (ra : Fin 32) (rb : Fin 32) (s : State) : Keeps s (execMulu x rd ra rb s) := by
  simp +contextual [execMulu]
theorem execMovd_keeps (x : Site) (rd : Fin 32) (ra : Fin 32) (s : State) : Keeps s (execMovd x rd ra s) := by
  simp +contextual [execMovd]
theorem execAddd_keeps (x : Site) (rd : Fin 32) (ra : Fin 32) (rb : Fin 32) (s : State) : Keeps s (execAddd x rd ra rb s) := by
  simp +contextual [execAddd]
theorem execSubd_keeps (x : Site) (rd : Fin 32) (ra : Fin 32) (rb : Fin 32) (s : State) : Keeps s (execSubd x rd ra rb s) := by
  simp +contextual [execSubd]
theorem execClz_keeps (x : Site) (rd : Fin 32) (ra : Fin 32) (s : State) : Keeps s (execClz x rd ra s) := by
  simp +contextual [execClz]
theorem execPacko_keeps (x : Site) (rd : Fin 32) (ra : Fin 32) (rb : Fin 32) (s : State) : Keeps s (execPacko x rd ra rb s) := by
  simp +contextual [execPacko]
theorem execAddi_keeps (x : Site) (rd : Fin 32) (ra : Fin 32) (imm : Word) (s : State) : Keeps s (execAddi x rd ra imm s) := by
  simp +contextual [execAddi]
theorem execAndi_keeps (x : Site) (rd : Fin 32) (ra : Fin 32) (imm : Word) (s : State) : Keeps s (execAndi x rd ra imm s) := by
  simp +contextual [execAndi]
theorem execOri_keeps (x : Site) (rd : Fin 32) (ra : Fin 32) (imm : Word) (s : State) : Keeps s (execOri x rd ra imm s) := by
  simp +contextual [execOri]
theorem execXori_keeps (x : Site) (rd : Fin 32) (ra : Fin 32) (imm : Word) (s : State) : Keeps s (execXori x rd ra imm s) := by
  simp +contextual [execXori]
theorem execCmpi_keeps (x : Site) (ra : Fin 32) (imm : Word) (s : State) : Keeps s (execCmpi x ra imm s) := by
  simp +contextual [execCmpi]
theorem execLea_keeps (x : Site) (rd : Fin 32) (ra : Fin 32) (imm : Word) (s : State) : Keeps s (execLea x rd ra imm s) := by
  simp +contextual [execLea]
theorem execDiv_keeps (c : CtlId) (rd : Fin 32) (ra : Fin 32) (rb : Fin 32) (s : State) : Keeps s (execDiv c rd ra rb s) := by
  simp +contextual [execDiv]
theorem execDivu_keeps (c : CtlId) (rd : Fin 32) (ra : Fin 32) (rb : Fin 32) (s : State) : Keeps s (execDivu c rd ra rb s) := by
  simp +contextual [execDivu]
theorem execLoop_keeps (x : Site) (lvl : Fin 2) (count : LoopCount) (len : BitVec 12) (s : State) : Keeps s (execLoop x lvl count len s) := by
  unfold execLoop; (repeat' split) <;> simp +contextual

/-! ### Machine/Branch.lean -/
theorem execBeq_keeps (c : CtlId) (ra : Fin 32) (rb : Fin 32) (disp : Word) (s : State) : Keeps s (execBeq c ra rb disp s) := by
  simp +contextual [execBeq]
theorem execBne_keeps (c : CtlId) (ra : Fin 32) (rb : Fin 32) (disp : Word) (s : State) : Keeps s (execBne c ra rb disp s) := by
  simp +contextual [execBne]
theorem execBlt_keeps (c : CtlId) (ra : Fin 32) (rb : Fin 32) (disp : Word) (s : State) : Keeps s (execBlt c ra rb disp s) := by
  simp +contextual [execBlt]
theorem execBge_keeps (c : CtlId) (ra : Fin 32) (rb : Fin 32) (disp : Word) (s : State) : Keeps s (execBge c ra rb disp s) := by
  simp +contextual [execBge]
theorem execBltu_keeps (c : CtlId) (ra : Fin 32) (rb : Fin 32) (disp : Word) (s : State) : Keeps s (execBltu c ra rb disp s) := by
  simp +contextual [execBltu]
theorem execBgeu_keeps (c : CtlId) (ra : Fin 32) (rb : Fin 32) (disp : Word) (s : State) : Keeps s (execBgeu c ra rb disp s) := by
  simp +contextual [execBgeu]
theorem execBf_keeps (c : CtlId) (cond : Fin 16) (disp : Word) (s : State) : Keeps s (execBf c cond disp s) := by
  exact (keeps_next ..).mpr ⟨ctlIssue_pending _ _ _ _ fun _ => rfl, ctlIssue_otp _ _ _ _ fun _ => rfl,
    ctlIssue_wf _ _ _ _ fun _ h => h⟩
theorem execJmp_keeps (c : CtlId) (disp : BitVec 30) (s : State) : Keeps s (execJmp c disp s) := by
  exact (keeps_next ..).mpr ⟨ctlIssue_pending _ _ _ _ fun _ => rfl, ctlIssue_otp _ _ _ _ fun _ => rfl,
    ctlIssue_wf _ _ _ _ fun _ h => h⟩
theorem execCall_keeps (c : CtlId) (disp : BitVec 30) (s : State) : Keeps s (execCall c disp s) := by
  exact (keeps_next ..).mpr ⟨ctlIssue_pending _ _ _ _ fun _ => rfl, ctlIssue_otp _ _ _ _ fun _ => rfl,
    ctlIssue_wf _ _ _ _ fun _ h => h⟩
theorem execJr_keeps (c : CtlId) (ra : Fin 32) (s : State) : Keeps s (execJr c ra s) := by
  simp +contextual [execJr]
theorem execCallr_keeps (c : CtlId) (ra : Fin 32) (s : State) : Keeps s (execCallr c ra s) := by
  simp +contextual [execCallr]
theorem execMfc_keeps (c : CtlId) (rd : Fin 32) (code : BitVec 8) (s : State) : Keeps s (execMfc c rd code s) := by
  simp +contextual [execMfc]
theorem execMtc_keeps (c : CtlId) (ra : Fin 32) (code : BitVec 8) (s : State) : Keeps s (execMtc c ra code s) := by
  simp +contextual [execMtc]
theorem execGate_keeps (c : CtlId) (code : BitVec 8) (s : State) : Keeps s (execGate c code s) := by
  simp +contextual [execGate]
theorem execEret_keeps (c : CtlId) (s : State) : Keeps s (execEret c s) := by
  simp +contextual [execEret]
theorem execSyncI_keeps (c : CtlId) (s : State) : Keeps s (execSyncI c s) := by
  exact (keeps_next ..).mpr ⟨ctlIssue_pending _ _ _ _ fun _ => rfl, ctlIssue_otp _ _ _ _ fun _ => rfl,
    ctlIssue_wf _ _ _ _ fun _ h => h⟩
theorem execFence_keeps (c : CtlId) (s : State) : Keeps s (execFence c s) := by
  exact (keeps_next ..).mpr ⟨ctlIssue_pending _ _ _ _ fun _ => rfl, ctlIssue_otp _ _ _ _ fun _ => rfl,
    ctlIssue_wf _ _ _ _ fun _ h => h⟩
theorem execWait_keeps (c : CtlId) (s : State) : Keeps s (execWait c s) := by
  simp +contextual [execWait]
theorem execBrk_keeps (c : CtlId) (code : BitVec 8) (s : State) : Keeps s (execBrk c code s) := by
  simp +contextual [execBrk]
theorem execSyscall_keeps (c : CtlId) (code : BitVec 8) (s : State) : Keeps s (execSyscall c code s) := by
  exact (keeps_next ..).mpr ⟨ctlIssue_pending _ _ _ _ fun _ => rfl, ctlIssue_otp _ _ _ _ fun _ => rfl,
    ctlIssue_wf _ _ _ _ fun _ h => h⟩
theorem execIllegalInstruction_keeps (c : CtlId) (w : DWord) (s : State) : Keeps s (execIllegalInstruction c w s) := by
  unfold execIllegalInstruction
  split
  · simp
  · exact (keeps_next ..).mpr ⟨ctlIssue_pending _ _ _ _ fun _ => rfl, ctlIssue_otp _ _ _ _ fun _ => rfl,
      ctlIssue_wf _ _ _ _ fun _ h => h⟩

/-! ### Machine/CtlMem.lean -/
theorem execLd_keeps (x : Site) (rt : Fin 32) (rbase : Fin 32) (off : Word) (s : State) : Keeps s (execLd x rt rbase off s) := by
  unfold execLd; (repeat' split) <;> simp +contextual
theorem execSt_keeps (x : Site) (rt : Fin 32) (rbase : Fin 32) (off : Word) (s : State) : Keeps s (execSt x rt rbase off s) := by
  unfold execSt; (repeat' split) <;> simp +contextual
theorem execLdd_keeps (x : Site) (rt : Fin 32) (rbase : Fin 32) (off : Word) (s : State) : Keeps s (execLdd x rt rbase off s) := by
  unfold execLdd; (repeat' split) <;> simp +contextual
theorem execStd_keeps (x : Site) (rt : Fin 32) (rbase : Fin 32) (off : Word) (s : State) : Keeps s (execStd x rt rbase off s) := by
  unfold execStd; (repeat' split) <;> simp +contextual
theorem execLdo_keeps (c : CtlId) (rt : Fin 32) (rbase : Fin 32) (n : Bool) (off : Word) (s : State) : Keeps s (execLdo c rt rbase n off s) := by
  refine (keeps_next ..).mpr ⟨ctlIssue_pending _ _ _ _ fun x => ?_, ctlIssue_otp _ _ _ _ fun x => ?_,
    ctlIssue_wf _ _ _ _ fun x h => ?_⟩ <;> split <;> rename_i e <;> have := busLoad_to e <;> simp_all
theorem execSto_keeps (c : CtlId) (rt : Fin 32) (rbase : Fin 32) (n : Bool) (off : Word) (s : State) : Keeps s (execSto c rt rbase n off s) := by
  simp +contextual [execSto]
theorem execBmov_keeps (c : CtlId) (rd : Fin 32) (ra : Fin 32) (rb : Fin 32) (upTo : Nat) (s : State) : Keeps s (execBmov c rd ra rb upTo s) := by
  simp +contextual [execBmov]
theorem execBzero_keeps (c : CtlId) (rd : Fin 32) (rb : Fin 32) (upTo : Nat) (s : State) : Keeps s (execBzero c rd rb upTo s) := by
  simp +contextual [execBzero]

end Sys2Proof.Machine
end

