-- ==== Sys2Proof/WellFormed.lean ====
section
/-! DEFINITION. The shape that spec/ gives the operands of a command, where the operand's Lean type leaves more room: queue numbers of a
function, lengths of octet strings, ranges of readings. The meanings do not ask it: what arrives in another shape has the effect the
spec gives for it, or none. -/
namespace Sys2Proof

/-- An issue's place: a fault names a lane slot, a block or a unit, and a kind up to 31 (R91, R156). -/
def At.wf (a : At) : Bool := a.faults.all (fun f => decide (f.1 < 2048) && decide (f.2 < 32))

/-- A site of spec/02. -/
def Site.wf : Site → Bool
  | .ctl _ => true
  | .fig a => a.wf

/-- A queue of a function: 256 for a PF, 32 for a VF (R307, Table 13.2). -/
def queueOk (f q : Nat) : Bool := decide (2048 ≤ f) || decide (q < 32)

/-- A command of a function's queue. -/
def CmdRef.wf (r : CmdRef) : Bool := queueOk r.f.val r.q.val

/-- A reading of the tamper sensors: temperatures within the range of a junction, battery inputs below 10.24 V (Table 16.4). -/
def TamperReading.wf : TamperReading → Bool
  | .temp t0 t1 => decide (-128 ≤ t0 ∧ t0 < 256) && decide (-128 ≤ t1 ∧ t1 < 256)
  | .vbat a b => decide (a < 1024) && decide (b < 1024)
  | .glitch _ _ _ => true
  | .clkMain _ => true
  | .clkTamp _ => true
  | .mesh _ => true
  | .shield _ => true
  | .enclosure _ _ => true
  | .presence _ _ => true

/-- The greatest length of an administrative block and of its trailer (IN_LEN is a 32-bit field, R314). -/
def blkOk (b : List Octet) : Bool := decide (b.length < 2 ^ 32)

/-- A message of a link that carries at most 2^18 double words (PCIe DOE). -/
def msgOk (b : List Octet) : Bool := decide (b.length < 2 ^ 20)

/-- A Peloux frame (R392). -/
def frameOk (b : List Octet) : Bool := decide (b.length ≤ 1522)

/-- Well-formed commands. -/
def Instr.wf (i : Instr) : Bool :=
  match i with
  | .add x _ _ _ => x.wf
  | .adc x _ _ _ => x.wf
  | .sub x _ _ _ => x.wf
  | .sbc x _ _ _ => x.wf
  | .neg x _ _ => x.wf
  | .cmp x _ _ => x.wf
  | .and x _ _ _ => x.wf
  | .or x _ _ _ => x.wf
  | .xor x _ _ _ => x.wf
  | .andn x _ _ _ => x.wf
  | .shl x _ _ _ => x.wf
  | .shr x _ _ _ => x.wf
  | .sar x _ _ _ => x.wf
  | .rol x _ _ _ => x.wf
  | .ror x _ _ _ => x.wf
  | .shli x _ _ _ => x.wf
  | .shri x _ _ _ => x.wf
  | .sari x _ _ _ => x.wf
  | .roli x _ _ _ => x.wf
  | .rori x _ _ _ => x.wf
  | .mul x _ _ _ => x.wf
  | .mulu x _ _ _ => x.wf
  | .div _ _ _ _ => true
  | .divu _ _ _ _ => true
  | .movd x _ _ => x.wf
  | .addd x _ _ _ => x.wf
  | .subd x _ _ _ => x.wf
  | .clz x _ _ => x.wf
  | .packo x _ _ _ => x.wf
  | .addi x _ _ _ => x.wf
  | .andi x _ _ _ => x.wf
  | .ori x _ _ _ => x.wf
  | .xori x _ _ _ => x.wf
  | .cmpi x _ _ => x.wf
  | .lea x _ _ _ => x.wf
  | .ld x _ _ _ => x.wf
  | .st x _ _ _ => x.wf
  | .ldd x _ _ _ => x.wf
  | .std x _ _ _ => x.wf
  | .ldo _ _ _ _ _ => true
  | .sto _ _ _ _ _ => true
  | .beq _ _ _ _ => true
  | .bne _ _ _ _ => true
  | .blt _ _ _ _ => true
  | .bge _ _ _ _ => true
  | .bltu _ _ _ _ => true
  | .bgeu _ _ _ _ => true
  | .bf _ _ _ => true
  | .jmp _ _ => true
  | .call _ _ => true
  | .jr _ _ => true
  | .callr _ _ => true
  | .loop x _ _ _ => x.wf
  | .mfc _ _ _ => true
  | .mtc _ _ _ => true
  | .gate _ _ => true
  | .eret _ => true
  | .syncI _ => true
  | .fence _ => true
  | .wait _ => true
  | .brk _ _ => true
  | .bmov _ _ _ _ upTo => decide (1 ≤ upTo ∧ upTo ≤ 4096)
  | .bzero _ _ _ upTo => decide (1 ≤ upTo ∧ upTo ≤ 4096)
  | .syscall _ _ => true
  | .interruptTaken _ => true
  | .secureInterruptEntry _ => true
  | .endRun a => a.wf
  | .endRepeat a _ => a.wf
  | .endReject a _ => a.wf
  | .hset a _ _ => a.wf
  | .hld a _ _ _ _ => a.wf
  | .hst a _ _ _ => a.wf
  | .aese a _ _ => a.wf
  | .aesd a _ _ => a.wf
  | .ctre a _ _ => a.wf
  | .ctrk a _ _ => a.wf
  | .ctri a _ _ => a.wf
  | .xorb a _ _ => a.wf
  | .movb a _ _ => a.wf
  | .xtse a _ _ => a.wf
  | .xtsd a _ _ => a.wf
  | .cbcd a _ _ => a.wf
  | .cmacb a _ _ => a.wf
  | .csave a _ _ => a.wf
  | .crest a _ _ => a.wf
  | .kput a _ _ _ => a.wf
  | .ghk a _ _ => a.wf
  | .gha a _ _ => a.wf
  | .ghb a _ _ => a.wf
  | .ghl a _ _ => a.wf
  | .gtag a _ _ _ => a.wf
  | .gcmp a _ _ _ => a.wf
  | .gclr a _ => a.wf
  | .twi a _ _ => a.wf
  | .twn a _ => a.wf
  | .dinit a _ _ => a.wf
  | .dabs a _ _ _ _ => a.wf
  | .dcomp a _ => a.wf
  | .dfin a _ => a.wf
  | .dout a _ _ => a.wf
  | .dpad a _ _ _ => a.wf
  | .dsave a _ _ => a.wf
  | .drest a _ _ => a.wf
  | .dtap a _ _ => a.wf
  | .ladd x _ _ _ _ => x.wf
  | .lsub x _ _ _ _ => x.wf
  | .mnorm x _ _ _ _ => x.wf
  | .mmul x _ _ _ _ => x.wf
  | .msqr x _ _ _ => x.wf
  | .minv x _ _ _ => x.wf
  | .mexp x _ _ _ _ _ => x.wf
  | .mset x _ _ _ => x.wf
  | .mchk x _ _ _ => x.wf
  | .msel x _ _ _ _ _ => x.wf
  | .mscan x _ _ _ _ _ => x.wf
  | .meq x _ _ _ _ => x.wf
  | .lset x _ _ _ => x.wf
  | .ntt x _ _ _ _ => x.wf
  | .intt x _ _ _ _ => x.wf
  | .pmul x _ _ _ _ _ => x.wf
  | .padd x _ _ _ _ => x.wf
  | .psub x _ _ _ _ => x.wf
  | .pnorm x _ _ _ _ => x.wf
  | .psplit x _ _ _ _ => x.wf
  | .phint x _ _ _ _ _ => x.wf
  | .pcomp x _ _ _ _ => x.wf
  | .pdecomp x _ _ _ _ => x.wf
  | .pack x _ _ _ _ _ _ => x.wf
  | .unpack x _ _ _ _ _ _ => x.wf
  | .prej x _ _ _ _ _ _ => x.wf
  | .pcbd x _ _ _ _ => x.wf
  | .pconv x _ _ _ _ _ => x.wf
  | .nseta x _ _ _ => x.wf
  | .nsetl x _ _ => x.wf
  | .nldh x _ _ _ _ _ => x.wf
  | .nsth x _ _ _ _ _ => x.wf
  | .nldf x _ _ _ => x.wf
  | .nstf x _ _ _ => x.wf
  | .nstat x _ _ => x.wf
  | .ninc x _ _ _ => x.wf
  | .klane a _ _ _ => a.wf
  | .kgh a _ _ => a.wf
  | .kxt a _ _ => a.wf
  | .knu a _ _ _ => a.wf
  | .rndf a _ => a.wf
  | .rndn a _ _ => a.wf
  | .auth a _ => a.wf
  | .res a _ _ => a.wf
  | .hrel a _ _ => a.wf
  | .resultLanding _ => true
  | .measureBoundary => true
  | .sqTail f q _ => queueOk f.val q.val
  | .cqHead f q _ => queueOk f.val q.val
  | .pushWrite f q off _ _ data => queueOk f.val q.val && decide (0 < data.length ∧ off.toNat + data.length ≤ 256)
  | .commandFetch f q _ data => queueOk f.val q.val && decide (data.length % 64 = 0 ∧ 64 ≤ data.length ∧ data.length ≤ 256)
  | .ingressAdmit _ => true
  | .keyCacheLoadDone r => r.wf
  | .stagingDmaDone r data => r.wf && blkOk data
  | .pageDrainDone r => r.wf
  | .completionWrite f q => queueOk f.val q.val
  | .msixModerationTimer f q => queueOk f.val q.val
  | .run r => r.wf
  | .abort r => r.wf
  | .keyGenerate r blk => r.wf && blkOk blk
  | .keyDerive r blk => r.wf && blkOk blk
  | .keyRestrict r blk => r.wf && blkOk blk
  | .keyInfo r => r.wf
  | .keyDestroy r blk => r.wf && blkOk blk
  | .keyExport r blk => r.wf && blkOk blk
  | .keyImport r blk => r.wf && blkOk blk
  | .attest r blk => r.wf && blkOk blk
  | .journalRead r => r.wf
  | .journalAck r => r.wf
  | .ballotOpen r blk => r.wf && blkOk blk
  | .ballotSign r blk => r.wf && blkOk blk
  | .ballotClose r => r.wf
  | .commissionBegin r blk => r.wf && blkOk blk
  | .commissionFinish r blk => r.wf && blkOk blk
  | .domainCreate r blk trailer => r.wf && blkOk blk && blkOk trailer
  | .domainDestroy r blk => r.wf && blkOk blk
  | .domainSuspend r blk => r.wf && blkOk blk
  | .domainResume r blk => r.wf && blkOk blk
  | .officerChange r blk trailer => r.wf && blkOk blk && blkOk trailer
  | .figureSigner r blk => r.wf && blkOk blk
  | .devicePolicy r blk => r.wf && blkOk blk
  | .leadTakeover r blk => r.wf && blkOk blk
  | .journalClear r blk => r.wf && blkOk blk
  | .vaultReset r blk => r.wf && blkOk blk
  | .migrationFreeze r blk => r.wf && blkOk blk
  | .replication r blk => r.wf && blkOk blk
  | .firmwareStage r blk => r.wf && blkOk blk
  | .firmwareActivate r blk => r.wf && blkOk blk
  | .debugAuthorise r blk trailer => r.wf && blkOk blk && blkOk trailer
  | .rawEntropy r blk => r.wf && blkOk blk
  | .rawRead r => r.wf
  | .cellWindow r blk => r.wf && blkOk blk
  | .vaultCommit r => r.wf
  | .vaultStored r => r.wf
  | .vaultLoad r blk => r.wf && blkOk blk
  | .figurePin r blk => r.wf && blkOk blk
  | .figureUnpin r => r.wf
  | .funcCreate r blk => r.wf && blkOk blk
  | .funcChange r blk => r.wf && blkOk blk
  | .vfDestroy r => r.wf
  | .vfFreeze r => r.wf
  | .vfThaw r => r.wf
  | .migTicket r => r.wf
  | .vfSave r blk => r.wf && blkOk blk
  | .vfRestore r blk => r.wf && blkOk blk
  | .queueMark r => r.wf
  | .migrationThaw r => r.wf
  | .portVfAlloc r => r.wf
  | .warmReset r => r.wf
  | .queueEnable f q _ => queueOk f.val q.val
  | .queueDisable f q _ => queueOk f.val q.val
  | .flrReportPop _ => true
  | .hostMisalignedAccess _ => true
  | .registerSet _ _ => true
  | .latchedRead _ => true
  | .vfFlr _ => true
  | .pfFlr _ => true
  | .perstAssert _ => true
  | .perstRelease _ => true
  | .hotReset _ => true
  | .linkDown _ => true
  | .getVersion _ msg => msgOk msg
  | .getCapabilities _ msg => msgOk msg
  | .negotiateAlgorithms _ msg => msgOk msg
  | .getDigests _ msg => msgOk msg
  | .getCertificate _ msg => msgOk msg
  | .challenge _ msg => msgOk msg
  | .getMeasurements _ msg => msgOk msg
  | .keyExchange _ msg => msgOk msg
  | .finish _ msg => msgOk msg
  | .closeSession _ msg => msgOk msg
  | .keyUpdate _ msg => msgOk msg
  | .heartbeat _ msg => msgOk msg
  | .ideKm _ msg => msgOk msg
  | .doeDiscovery _ _ => true
  | .mctpSpdmRelay msg => msgOk msg
  | .mctpControl msg => msgOk msg
  | .pldmPlatformMonitoring msg => msgOk msg
  | .requestFirmwareData data => msgOk data
  | .activateFirmware msg => msgOk msg
  | .ptpEventMessage msg => msgOk msg
  | .floorCommit => true
  | .laneGroupTest _ _ => true
  | .laneReinstate _ _ => true
  | .laneRetire _ _ => true
  | .spareTest _ => true
  | .laneActionDone _ _ => true
  | .duTest _ => true
  | .duReinstate _ => true
  | .duRetire _ => true
  | .duActionDone _ _ => true
  | .nuTest _ => true
  | .nuReinstate _ => true
  | .nuRetire _ => true
  | .nuActionDone _ _ => true
  | .bootTapArm => true
  | .bootTapClose _ image => blkOk image
  | .measxGo _ _ => true
  | .measExtension => true
  | .reseed => true
  | .retire _ => true
  | .rawCtlGo _ _ _ _ => true
  | .rawCtlClose _ => true
  | .rawCaptureEnd samples => decide (samples.length ≤ 131072 ∧ samples.length % 128 = 0)
  | .entropyBlockComplete _ samples => decide (samples.length = 256)
  | .startupTestEnd _ samples => decide (samples.length = 512)
  | .conditionedOutputReady => true
  | .drbgGenerateServe => true
  | .drbgReseedServe => true
  | .drbgInstantiate _ => true
  | .expanderReseed _ => true
  | .expanderStale _ => true
  | .ksOpGenerate _ _ => true
  | .ksOpDerive _ _ => true
  | .ksOpRestrict _ _ => true
  | .ksOpInfo _ _ => true
  | .ksOpDestroy _ _ => true
  | .ksOpExport _ _ => true
  | .ksOpImport _ _ => true
  | .ksOpCommit _ _ => true
  | .ksOpLoad _ _ => true
  | .ksOpVaultReset _ _ => true
  | .domainDestructionStep _ => true
  | .jrecSubmit _ _ _ => true
  | .journalAgeTimer => true
  | .journalFlushDone => true
  | .potEntryWrite _ _ _ => true
  | .potSyncSet => true
  | .potBackSet _ _ => true
  | .regionSet _ _ _ _ _ => true
  | .violPop => true
  | .memVaultBaseSet _ _ _ => true
  | .lineWrite _ => true
  | .ddrTrainingDone _ => true
  | .dramZqCalibration => true
  | .sealedFillPage => true
  | .vaultFillDone => true
  | .patrolScrub _ _ => true
  | .alarmAck _ _ => true
  | .winClose _ => true
  | .windowDurationExpiry => true
  | .cellReadSerial _ => true
  | .cellChallenge _ => true
  | .cellAccept _ => true
  | .cellReject _ => true
  | .cellCmdDone answer => match answer with | none => true | some o => decide (o.length = 212)
  | .tamperConfigSet _ _ _ => true
  | .tamperSample r => r.all TamperReading.wf
  | .vbatCritTrip => true
  | .cellIdentityCheck _ _ => true
  | .cellHour _ => true
  | .tickStuck => true
  | .mainZeroizedEntry => true
  | .tamperPowerSwitch _ => true
  | .tamperDomainLoss => true
  | .claim _ => true
  | .releaseLead _ => true
  | .acquire _ _ => true
  | .tokenRelease _ _ => true
  | .ballotExpiry _ => true
  | .migTicketLapse _ => true
  | .stagingSessionTimeout => true
  | .debugSessionExpiry => true
  | .jtagIdcode => true
  | .jtagSamplePreload cells => decide (cells.length < 2048)
  | .jtagExtest => true
  | .jtagClamp => true
  | .jtagHighz => true
  | .jtagNonceRead => true
  | .jtagDebugPort => true
  | .jtagBypass => true
  | .debugHalt _ => true
  | .debugSingleStep _ => true
  | .debugResume _ => true
  | .debugAccess _ _ _ => true
  | .hello _ frame => frameOk frame
  | .joinMessage _ frames => frames.all frameOk
  | .pair _ frames => frames.all frameOk
  | .roster _ frames => frames.all frameOk
  | .ack _ frames => frames.all frameOk
  | .statement _ frames => frames.all frameOk
  | .replica _ frames => frames.all frameOk
  | .resync _ frames => frames.all frameOk
  | .helloTimer => true
  | .pathTimeout _ _ => true
  | .messageRetryTimer _ => true
  | .pcsLockLoss _ => true
  | .linkRekeyTimer _ => true
  | .plxJoin _ => true
  | .admitJoiner _ => true
  | .refuseJoiner _ => true
  | .leave _ => true
  | .joinCallerTimeout => true
  | .joinAdmitTimeout => true
  | .mcRun => true
  | .mcReset => true
  | .mcWdogExpiry => true
  | .wdogKick => true
  | .monitorSample _ v => decide (-131072 ≤ v ∧ v < 131072)
  | .hlogAppend => true
  | .hlogErase _ => true
  | .stageCmdGo => true
  | .timeRateSet _ => true
  | .timeStep _ => true
  | .timeSet _ => true
  | .timeLockSet _ => true
  | .holdoverTimer => true
  | .freerunTimer => true
  | .ppsInEdge => true
  | .ppsInLost => true
  | .ppsOutPulse => true
  | .rstCtlWarm => true
  | .rstCtlFault => true
  | .sc1Run => true
  | .scWdogKick => true
  | .scWdogHalf => true
  | .scWdogExpiry => true
  | .blockRstGo _ _ => true
  | .blockResetDone => true
  | .wakeReq => true
  | .intDoor _ => true
  | .sleepEntry => true
  | .sleepWake _ => true
  | .supplyPor => true
  | .resetNAssert => true
  | .warmNAssert => true
  | .resetSourceRelease _ => true
  | .fuseLoadDone _ _ _ => true
  | .secureBootEnd _ _ => true
  | .warmResetApply => true
  | .warmResetRelease => true
  | .pwrFailFall => true
  | .powerFailHold => true
  | .pwrFailRise => true
  | .figureLoadDone _ => true
  | .illegalInstruction _ _ => true
  | .cycleCountWrap _ => true
  | .maskExpanderAllotment _ _ => true
  | .pcsLockAcquired _ => true
  | .pelouxFrameDiscard _ => true
  | .linkUp _ => true
  | .l1Entry _ => true
  | .configSpaceSet _ => true
  | .mgmtEthernetFrame frame => frameOk frame
  | .flashDone => true
  | .ksOpDone => true

end Sys2Proof
end

