-- ==== Sys2Proof/Tests/Slice0.lean ====
section
/-! SUPPORT. Tests: an ill-formed term for each check of WellFormed; one step of a command on a small state, with results from spec/; and for
the statements of Certificates/Slice0/Obligations.lean states that meet their hypotheses. -/
namespace Sys2Proof.Tests
open Sys2Proof Sys2Proof.Machine

/-! ### Helpers -/

/-- The state that a meaning answers. -/
def after (o : Out) : State :=
  match o with
  | .next t => t
  | .fault _ => State.reset
  | .refused _ => State.reset

/-- A place of an issue on sequencer 0. -/
def at0 (cyc : Nat) : At := ⟨0, cyc, 0, 0, false, []⟩

/-- SC_0 runs in the secure world, fetches from the boot ROM, and holds numbers in g1 to g7. -/
def boot : State := { State.reset with sc0 := { Ctl.reset true with
  running := true, g := #v[0, 5, 0x3FFFF, 0x20000, 0x20001, 17, 0x1FFFF, 3, 0, 0, 0, 0, 0, 0, 0, 0, 0, 0, 0, 0, 0, 0, 0, 0, 0, 0, 0, 0, 0, 0, 0, 0] } }

/-- The same, with a change of the controller. -/
def bootWith (f : Ctl → Ctl) : State := boot.onCtl .sc0 f

/-- SC_0 at user level, where region 0 of the CTL SRAM permits every kind of access. -/
def user : State :=
  let s := (boot.onCtl .sc0 fun k => { k with priv := false, pc := 0x1000010 }).wr (Reg.RGN_LIMIT 0 0) 0x3FFF
  (((s.flag (Reg.RGN_ATTR_EN 0 0) true).flag (Reg.RGN_ATTR_X 0 0) true).flag (Reg.RGN_ATTR_R 0 0) true).flag (Reg.RGN_ATTR_W 0 0) true

/-- A command on SC_0 of `boot`. -/
def ran (i : Instr) : Ctl := (after (exec i boot)).sc0

/-! ### Well-formedness: what each check refuses -/

theorem test_wf_fault_place : (Instr.gclr ⟨0, 0, 0, 1, false, [(2048, 0)]⟩ 0).wf = false := by decide
theorem test_wf_fault_kind : (Instr.add (.fig ⟨0, 0, 0, 0, false, [(0, 32)]⟩) 1 2 3).wf = false := by decide
theorem test_wf_vf_queue : (Instr.queueEnable 2047 32 0).wf = false ∧ (Instr.queueEnable 2048 255 0).wf = true := by decide
theorem test_wf_command_queue : (Instr.abort ⟨0, 32, 0⟩).wf = false := by decide
theorem test_wf_block_moves : (Instr.bmov .sc0 2 4 6 0).wf = false ∧ (Instr.bmov .sc0 2 4 6 4097).wf = false ∧ (Instr.bmov .sc0 2 4 6 4096).wf = true := by decide
theorem test_wf_block_zero : (Instr.bzero .sc0 2 4 0).wf = false ∧ (Instr.bzero .sc0 2 4 4097).wf = false := by decide
theorem test_wf_push : (Instr.pushWrite 0 0 255 true false [0, 0]).wf = false ∧ (Instr.pushWrite 0 0 0 true false []).wf = false := by decide
theorem test_wf_fetch : (Instr.commandFetch 0 0 false (List.replicate 65 0)).wf = false := by decide
theorem test_wf_block_octets : (Instr.keyGenerate ⟨2048, 0, 0⟩ (List.replicate (2 ^ 32) 0)).wf = false := by
  simp only [Instr.wf, blkOk, List.length_replicate]; decide
theorem test_wf_message : (Instr.getVersion 0 (List.replicate (2 ^ 20) 0)).wf = false := by
  simp only [Instr.wf, msgOk, List.length_replicate]; decide
theorem test_wf_frame : (Instr.hello 0 (List.replicate 1523 0)).wf = false ∧ (Instr.roster 0 [List.replicate 1523 0]).wf = false ∧
    (Instr.mgmtEthernetFrame (List.replicate 1522 0)).wf = true := by
  simp only [Instr.wf, frameOk, List.all_cons, List.all_nil, List.length_replicate]; decide
theorem test_wf_capture : (Instr.rawCaptureEnd (List.replicate 129 0)).wf = false := by
  simp only [Instr.wf, List.length_replicate]; decide
theorem test_wf_blocks_of_bits : (Instr.entropyBlockComplete 0 (List.replicate 255 0)).wf = false ∧ (Instr.startupTestEnd 0 []).wf = false := by
  simp only [Instr.wf, List.length_replicate]; decide
theorem test_wf_cell_answer : (Instr.cellCmdDone (some [])).wf = false ∧ (Instr.cellCmdDone none).wf = true := by decide
theorem test_wf_readings : (Instr.tamperSample [.temp 256 0]).wf = false ∧ (Instr.tamperSample [.vbat 1024 0]).wf = false := by decide
theorem test_wf_cells : (Instr.jtagSamplePreload (List.replicate 2048 true)).wf = false := by
  simp only [Instr.wf, List.length_replicate]; decide
theorem test_wf_monitor : (Instr.monitorSample 0 131072).wf = false := by decide

/-! ### The queue of commands; words of the table -/

theorem test_front_first : (after (step { boot with pending := [.addi (.ctl .sc0) 8 1 1, .wdogKick] })).sc0.reg 8 = 6 := by decide
theorem test_front_rest : (after (step { boot with pending := [.addi (.ctl .sc0) 8 1 1, .wdogKick] })).pending = [.wdogKick] := by decide
theorem test_idle_tick : (after (step (State.reset.wr Reg.MODE_STAT_MODE mBatteryHold))).tamp.tick = 1 := by decide
theorem test_no_row_has_bits : decodeTableWord 36 0 = none := by decide

/-! ### Controllers (spec/02, spec/03); values from Tables 2.14, 2.16 and the rules -/

theorem test_executes : Executes boot .sc0 := by unfold Executes; decide
theorem test_executes_shallow : Executes boot .sc0 ∧ (boot.ctl .sc0).cur.depth < 2 := by unfold Executes; decide
theorem test_executes_deep : Executes (bootWith fun k => k.onCur fun w => { w with depth := 2 }) .sc0 := by unfold Executes; decide
theorem test_executes_user : Executes user .sc0 ∧ (user.ctl .sc0).priv = false := by unfold Executes; decide
theorem test_may_transfer : Executes boot .sc0 ∧ MayTransfer (boot.ctl .sc0) := by unfold Executes MayTransfer; decide
theorem test_division_operands : (boot.ctl .sc0).reg 7 ≠ 0 ∧ (boot.ctl .sc0).reg 9 = 0 := by decide
theorem test_in_slot : Executes (bootWith fun k => { k with branch := some ⟨0x10, 0x40, false⟩ }) .sc0 := by unfold Executes; decide

-- g2 = 0x3FFFF (−1), g3 = 0x20000 (−131,072), g4 = 0x20001, g6 = 0x1FFFF (131,071)
theorem test_add_carry : (ran (.add (.ctl .sc0) 8 1 2)).reg 8 = 4 ∧ (ran (.add (.ctl .sc0) 8 1 2)).cur.flags.c = true := by decide
theorem test_add_overflow : (ran (.addi (.ctl .sc0) 8 6 1)).reg 8 = 0x20000 ∧ (ran (.addi (.ctl .sc0) 8 6 1)).cur.flags.v = true := by decide
theorem test_adc : ((after (exec (.adc (.ctl .sc0) 8 1 7) (bootWith fun k => k.onCur fun w => { w with flags := { w.flags with c := true } }))).sc0).reg 8 = 9 := by decide
theorem test_sub_borrow : (ran (.sub (.ctl .sc0) 8 7 1)).reg 8 = 0x3FFFE ∧ (ran (.sub (.ctl .sc0) 8 7 1)).cur.flags.c = true := by decide
theorem test_sbc : ((after (exec (.sbc (.ctl .sc0) 8 1 1) (bootWith fun k => k.onCur fun w => { w with flags := { w.flags with c := true } }))).sc0).reg 8 = 0x3FFFF := by decide
theorem test_neg_least : (ran (.neg (.ctl .sc0) 8 3)).reg 8 = 0x20000 ∧ (ran (.neg (.ctl .sc0) 8 3)).cur.flags.v = true := by decide
theorem test_cmp : (ran (.cmp (.ctl .sc0) 1 1)).cur.flags.z = true ∧ (ran (.cmpi (.ctl .sc0) 1 6)).cur.flags.c = true := by decide
theorem test_zero_register : (ran (.addi (.ctl .sc0) 0 1 1)).reg 0 = 0 ∧ (ran (.addi (.ctl .sc0) 0 1 1)).pc = 2 := by decide
theorem test_logic : (ran (.and (.ctl .sc0) 8 4 1)).reg 8 = 1 ∧ (ran (.or (.ctl .sc0) 8 3 1)).reg 8 = 0x20005 ∧ (ran (.xor (.ctl .sc0) 8 4 1)).reg 8 = 0x20004 := by decide
theorem test_andn : (ran (.andn (.ctl .sc0) 8 1 4)).reg 8 = 4 ∧ (ran (.andi (.ctl .sc0) 8 5 1)).reg 8 = 1 := by decide
theorem test_logic_immediates : (ran (.ori (.ctl .sc0) 8 1 2)).reg 8 = 7 ∧ (ran (.xori (.ctl .sc0) 8 1 1)).reg 8 = 4 := by decide
-- Table 2.16, a = 0x2_0001
theorem test_shl_1 : (ran (.shli (.ctl .sc0) 8 4 1)).reg 8 = 2 ∧ (ran (.shli (.ctl .sc0) 8 4 1)).cur.flags.c = true := by decide
theorem test_shr_1 : (ran (.shri (.ctl .sc0) 8 4 1)).reg 8 = 0x10000 ∧ (ran (.shri (.ctl .sc0) 8 4 1)).cur.flags.c = true := by decide
theorem test_sar_17 : (ran (.sar (.ctl .sc0) 8 4 5)).reg 8 = 0x3FFFF ∧ (ran (.sari (.ctl .sc0) 8 4 18)).cur.flags.c = true := by decide
theorem test_shl_17 : (ran (.shl (.ctl .sc0) 8 4 5)).reg 8 = 0x20000 ∧ (ran (.shr (.ctl .sc0) 8 4 5)).reg 8 = 1 := by decide
theorem test_rol : (ran (.roli (.ctl .sc0) 8 4 19)).reg 8 = 3 ∧ (ran (.rol (.ctl .sc0) 8 4 7)).reg 8 = 0xC := by decide
theorem test_ror : (ran (.rori (.ctl .sc0) 8 4 18)).reg 8 = 0x20001 ∧ (ran (.ror (.ctl .sc0) 8 4 7)).reg 8 = 0xC000 := by decide
theorem test_mul : (ran (.mul (.ctl .sc0) 8 1 2)).pair 8 = 0xFFFFFFFFB ∧ (ran (.mulu (.ctl .sc0) 8 1 2)).pair 8 = 0x13FFFB := by decide
theorem test_div_truncates : ((ran (.div .sc0 8 3 7)).reg 8).toInt = -43690 ∧ ((ran (.div .sc0 8 3 7)).reg 9).toInt = -2 := by decide
theorem test_divu : (ran (.divu .sc0 8 2 5)).reg 8 = 15420 ∧ (ran (.divu .sc0 8 2 5)).reg 9 = 3 := by decide
theorem test_div_overflow : (ran (.div .sc0 8 3 2)).reg 8 = 0x20000 ∧ (ran (.div .sc0 8 3 2)).cur.flags.v = true := by decide
theorem test_div_by_zero : (ran (.div .sc0 8 1 0)).pair 8 = 0x17FFFF ∧ (ran (.div .sc0 8 1 0)).cur.flags.dz = true := by decide
theorem test_pairs : (ran (.movd (.ctl .sc0) 8 4)).pair 8 = 0x460001 ∧ (ran (.addd (.ctl .sc0) 8 4 4)).pair 8 = 0x8C0002 ∧ (ran (.subd (.ctl .sc0) 8 4 4)).cur.flags.z = true := by decide
theorem test_lea : (ran (.lea (.ctl .sc0) 8 4 0x3FFFF)).pair 8 = 0x460000 := by decide
theorem test_clz : (ran (.clz (.ctl .sc0) 8 0)).reg 8 = 18 ∧ (ran (.clz (.ctl .sc0) 8 5)).reg 8 = 13 := by decide
theorem test_packo : (ran (.packo (.ctl .sc0) 8 1 7)).reg 8 = 0x605 ∧ (ran (.packo (.ctl .sc0) 8 7 1)).reg 8 = 0xA03 := by decide
theorem test_odd_pair : (ran (.mul (.ctl .sc0) 9 1 2)).pc = (boot.sc0).cur.vbase + 64 ∧ (ran (.mul (.ctl .sc0) 9 1 2)).cur.f0.vec = 4 := by decide

theorem test_beq : (ran (.beq .sc0 1 1 8)).branch = some ⟨0, (ran (.beq .sc0 1 1 8)).branch.elim 0 BranchPend.dest, false⟩ ∧ (ran (.beq .sc0 1 1 8)).pc = 2 := by decide
theorem test_bne_falls : (ran (.bne .sc0 1 1 8)).branch.map BranchPend.dest = some 4 := by decide
theorem test_blt : ((ran (.blt .sc0 2 1 8)).branch.map BranchPend.dest ≠ some 4) ∧ (ran (.bltu .sc0 2 1 8)).branch.map BranchPend.dest = some 4 := by decide
theorem test_bge : (ran (.bge .sc0 2 1 8)).branch.map BranchPend.dest = some 4 ∧ (ran (.bgeu .sc0 2 1 8)).branch.map BranchPend.dest ≠ some 4 := by decide
theorem test_call : (ran (.call .sc0 4)).branch.map BranchPend.link = some true ∧ (ran (.call .sc0 4)).reg 30 = 0 := by decide
theorem test_jr_odd : (ran (.jr .sc0 4)).cur.depth = 1 ∧ (ran (.jr .sc0 4)).branch = none := by decide
theorem test_call_lands : ((after (exec (.addi (.ctl .sc0) 8 1 0) (bootWith fun k => { k with pc := 0x12, branch := some ⟨0x10, 0x40, true⟩ }))).sc0).pair 30 = 0x14 := by decide
theorem test_slot_jump : ((after (exec (.jmp .sc0 4) (bootWith fun k => { k with pc := 0x12, branch := some ⟨0x10, 0x40, false⟩ }))).sc0).cur.f0.epc = 0x10 := by decide
theorem test_loop : (ran (.loop (.ctl .sc0) 0 (.imm 3) 4)).cur.lp0.act = true ∧ (ran (.loop (.ctl .sc0) 0 (.imm 3) 4)).pc = 2 := by decide
theorem test_mfc : (ran (.mfc .sc0 8 0x00)).pc = 2 := by decide
theorem test_syscall : (after (exec (.syscall .sc0 7) user)).sc0.cur.f0.epc = 0x1000010 ∧ (after (exec (.syscall .sc0 7) user)).sc0.cur.f0.code = 7 := by decide
theorem test_eret : ((after (exec (.eret .sc0) (bootWith fun k => k.onCur fun w => { w with depth := 1, f0 := { w.f0 with epc := 0x30 } }))).sc0).pc = 0x30 := by decide
theorem test_fence : (ran (.fence .sc0)).pc = 2 ∧ (ran (.syncI .sc0)).pc = 2 := by decide
theorem test_wait : (ran (.wait .sc0)).waiting = true := by decide
theorem test_store_load : ((after (exec (.ld (.ctl .sc0) 9 10 0) (after (exec (.st (.ctl .sc0) 2 10 0) (bootWith fun k => (k.setReg 10 0).setReg 11 0x40))))).sc0).reg 9 = 0x3FFFF := by decide
theorem test_octet : ((after (exec (.ldo .sc0 9 10 false 1) (after (exec (.sto .sc0 1 10 false 1) (bootWith fun k => (k.setReg 10 0).setReg 11 0x40))))).sc0).reg 9 = 5 := by decide
theorem test_double : ((after (exec (.ldd (.ctl .sc0) 8 10 0) (after (exec (.std (.ctl .sc0) 4 10 0) (bootWith fun k => (k.setReg 10 0).setReg 11 0x40))))).sc0).pair 8 = 0x460001 := by decide
theorem test_unmapped : ((after (exec (.ld (.ctl .sc0) 9 10 0) (bootWith fun k => (k.setReg 10 0).setReg 11 0x3F))).sc0).cur.depth = 1 := by decide
theorem test_block_zero : ((after (exec (.bzero .sc0 10 12 2) (bootWith fun k => ((k.setReg 10 0).setReg 11 0x40).setReg 12 2))).sc0).pair 10 = 0x1000002 := by decide
end Sys2Proof.Tests
end

section
/-! SUPPORT. The arithmetic instructions on a controller (R26 to R45): what a result writes, how an instruction that computes it finishes, what the
pure functions of Machine/Flags.lean compute, and the statements LogicAndShifts, SumsAndPairs and Division from these. -/
namespace Sys2Proof.Machine

/-! ### What a result writes -/

/-- The general registers that a result leaves (R39). -/
def AluRes.regs (k : Ctl) (rd : Nat) : AluRes → Nat → Word
  | .word v _ => oneReg k rd v
  | .pair v _ => onePair k rd v
  | .flags _ => k.reg

/-- The flags that a result leaves (Table 2.14). -/
def AluRes.flagsOn (f : Flags) : AluRes → Flags
  | .word _ r => f.put r
  | .pair _ (some r) => f.put r
  | .pair _ none => f
  | .flags r => f.put r

/-- A pair is written to an even register (R32). -/
def AluRes.Fits (rd : Nat) : AluRes → Prop
  | .word _ _ => True
  | .pair _ _ => rd % 2 = 0
  | .flags _ => True

theorem Ctl.reg_result (k : Ctl) (rd : Fin 32) (r : AluRes) (h : r.Fits rd) (i : Nat) : (k.result rd r).reg i = r.regs k rd i := by
  cases r with
  | word v f => simp [Ctl.result, AluRes.regs, Ctl.reg_setReg]
  | pair v f =>
    have hrd : rd.val + 1 < 32 := by have : rd.val % 2 = 0 := h; omega
    cases f <;> simp [Ctl.result, AluRes.regs, Ctl.reg_setPair, hrd]
  | flags f => simp [Ctl.result, AluRes.regs]

/-- Two changes of the world's own state that agree on the current one are the same change of the controller. -/
theorem Ctl.onCur_congr (k : Ctl) {f f' : WorldCtx → WorldCtx} (h : f k.cur = f' k.cur) : k.onCur f = k.onCur f' := by
  cases hs : k.secure <;> simp_all [Ctl.onCur, Ctl.cur]

theorem Ctl.onCur_onCur (k : Ctl) (f f' : WorldCtx → WorldCtx) : (k.onCur f).onCur f' = k.onCur (fun w => f' (f w)) := by
  cases h : k.secure <;> simp [Ctl.onCur, h]

theorem Ctl.onCur_flags_self (k : Ctl) : k.onCur (fun w => { w with flags := k.cur.flags }) = k := by
  unfold Ctl.onCur Ctl.cur
  split <;> rfl

theorem Ctl.onCur_withRegs (k : Ctl) (g : Vector Word 32) (f : WorldCtx → WorldCtx) :
    ({ k with g := g } : Ctl).onCur f = { k.onCur f with g := g } := by
  cases h : k.secure <;> simp [Ctl.onCur, h]

theorem Ctl.onCur_withWaiting (k : Ctl) (b : Bool) (f : WorldCtx → WorldCtx) :
    ({ k with waiting := b } : Ctl).onCur f = { k.onCur f with waiting := b } := by
  cases h : k.secure <;> simp [Ctl.onCur, h]

/-- Where only registers have changed, and then `f` sets the flags: the registers and flags of the whole. -/
theorem Ctl.onCur_of_regs {k k₁ : Ctl} {f : WorldCtx → WorldCtx} {fl : Flags} (h : k₁ = { k with g := k₁.g })
    (hf : f k.cur = { k.cur with flags := fl }) :
    k₁.onCur f = ({ k with g := (k₁.onCur f).g } : Ctl).onCur (fun w => { w with flags := fl }) := by
  have hg : (k₁.onCur f).g = k₁.g := (Ctl.onCur_frame k₁ f).1
  have hc : k₁.cur = k.cur := by rw [h]; rfl
  rw [hg, ← h]
  exact Ctl.onCur_congr k₁ (by rw [hc, hf])

/-- A result changes the registers and the current world's flags alone. -/
theorem Ctl.result_eq (k : Ctl) (rd : Nat) (r : AluRes) : k.result rd r =
    ({ k with g := (k.result rd r).g } : Ctl).onCur (fun w => { w with flags := r.flagsOn k.cur.flags }) := by
  cases r with
  | word v f => exact Ctl.onCur_of_regs (f := fun w => { w with flags := w.flags.put f }) (Ctl.setReg_eq k rd v) rfl
  | flags f => exact Ctl.onCur_of_regs (f := fun w => { w with flags := w.flags.put f }) (k₁ := k) rfl rfl
  | pair v f =>
    cases f with
    | some f => exact Ctl.onCur_of_regs (f := fun w => { w with flags := w.flags.put f }) (Ctl.setPair_eq k rd v) rfl
    | none =>
      have h := Ctl.setPair_eq k rd v
      have e : (k.setPair rd v).cur.flags = k.cur.flags := by simp
      change k.setPair rd v = ({ k with g := (k.setPair rd v).g } : Ctl).onCur (fun w => { w with flags := k.cur.flags })
      rw [← h, ← e, Ctl.onCur_flags_self]

/-! ### How an instruction ends -/

/-- An instruction whose operation leaves the controller with other registers and flags, and no more, finishes with those. -/
theorem finishes_of_ctlIssue {i : Instr} {s : State} {c : CtlId} {n : Nat} {op : State → Ran} {k' : Ctl} {g : Nat → Word} {fl : Flags}
    (h : Executes s c) (hi : exec i s = done (ctlIssue s c (.plain n false) op)) (hop : op (fetched s c) = .ok ((fetched s c).setCtl c k'))
    (hk : k' = ({ s.ctl c with waiting := false, g := k'.g } : Ctl).onCur (fun w => { w with flags := fl })) (hg : ∀ r, k'.reg r = g r) :
    Finishes i s c n g fl := by
  have e : ctlIssue s c (.plain n false) op = (fetched s c).setCtl c (k'.complete n) := by
    rw [ctlIssue_ends h _ op rfl, hop]
    simp [ctlEnds, Issue.plain, State.onCtl]
  exact ⟨_, by rw [hi, e]; rfl, finished_of _ s c n k' g fl (fetched_ctl s c) hk hg⟩

/-- Command `i` is a legal arithmetic instruction on controller `c`, with `rd` for its result `r` (Tables 2.10 and 2.11). -/
def Computes (i : Instr) (s : State) (c : CtlId) (rd : Fin 32) (r : AluRes) : Prop :=
  ∃ (lat : Nat) (legal : Bool) (f : (Nat → Word) → (Nat → DWord) → Flags → AluRes),
    exec i s = done (aluOp (.ctl c) lat legal rd f s) ∧ legal = true ∧ f (s.ctl c).reg (s.ctl c).pair (s.ctl c).cur.flags = r

/-- An arithmetic instruction finishes in a cycle with its result written. -/
theorem finishes_alu {i : Instr} {s : State} {c : CtlId} {rd : Fin 32} {r : AluRes} (h : Executes s c) (hi : Computes i s c rd r)
    (hfit : r.Fits rd) : Finishes i s c 1 (r.regs (s.ctl c) rd) (r.flagsOn (s.ctl c).cur.flags) := by
  obtain ⟨lat, legal, f, hi, rfl, rfl⟩ := hi
  refine finishes_of_ctlIssue h hi ?_ (Ctl.result_eq { s.ctl c with waiting := false } rd _) (Ctl.reg_result _ rd _ hfit)
  simp only [fetched_ctl]
  rfl

/-- An instruction whose operation raises an exception at DEPTH below 2 traps, from the controller that the operation leaves. -/
theorem traps_of_ctlIssue {i : Instr} {s : State} {c : CtlId} {n : Nat} {op : State → Ran} {k : Ctl} {vec code eaddr : Nat}
    (h : Executes s c) (hi : exec i s = done (ctlIssue s c (.plain n false) op))
    (hop : op (fetched s c) = .raises ((fetched s c).setCtl c { k with waiting := false }) vec code eaddr) (hk : k.cur.depth < 2) :
    Traps i s c k vec code eaddr := by
  have e : ctlIssue s c (.plain n false) op = takeExc ((fetched s c).setCtl c { k with waiting := false }) c vec code eaddr := by
    rw [ctlIssue_ends h _ op rfl, hop]
    rfl
  obtain ⟨hpc, hworld, hother, hrest⟩ := trapped_of ((fetched s c).setCtl c { k with waiting := false }) k c vec code eaddr
    (.inl (State.ctl_setCtl _ c _)) hk
  rw [State.setCtl_setCtl] at hrest
  exact ⟨_, by rw [hi, e]; rfl, hpc, hworld, hother, hrest⟩

/-! ### Logic, shifts and rotates (R41, R42) -/

/-- A logical instruction writes its word, Z and N of it, and leaves C and V. -/
theorem finishes_logic {i : Instr} {s : State} {c : CtlId} {rd : Fin 32} {v : Word} (h : Executes s c) (hi : Computes i s c rd (logicRes v)) :
    Finishes i s c 1 (oneReg (s.ctl c) rd v) { (s.ctl c).cur.flags with z := decide (v = 0), n := v.getLsbD 17 } :=
  finishes_alu h hi trivial

theorem shiftRes_shl (a : Word) (k : Nat) : shiftRes .shl a k = (a <<< k, decide (1 ≤ k ∧ k ≤ 18) && a.getLsbD (18 - k)) := by
  rcases Nat.eq_zero_or_pos k with rfl | h0
  · simp [shiftRes]
  · by_cases h18 : k ≤ 18
    · simp [shiftRes, bitAt, h0.ne', Nat.succ_le_of_lt h0, h18]
    · simp [shiftRes, h0.ne', h18, BitVec.shiftLeft_eq_zero (show 18 ≤ k by omega)]

theorem shiftRes_shr (a : Word) (k : Nat) : shiftRes .shr a k = (a >>> k, decide (1 ≤ k ∧ k ≤ 18) && a.getLsbD (k - 1)) := by
  rcases Nat.eq_zero_or_pos k with rfl | h0
  · simp [shiftRes]
  · by_cases h18 : k ≤ 18
    · simp [shiftRes, bitAt, h0.ne', Nat.succ_le_of_lt h0, h18]
    · simp [shiftRes, h0.ne', h18, BitVec.ushiftRight_eq_zero (show 18 ≤ k by omega)]

theorem sshiftRight_of_ge (a : Word) {k : Nat} (h : 18 ≤ k) : a.sshiftRight k = if a.getLsbD 17 then BitVec.allOnes 18 else 0 := by
  refine BitVec.eq_of_getLsbD_eq fun i hi => ?_
  rw [BitVec.getLsbD_sshiftRight, if_neg (by omega), BitVec.msb_eq_getLsbD_last]
  change (_ && a.getLsbD 17) = _
  cases a.getLsbD 17 with
  | false => simp
  | true => rw [if_pos rfl, BitVec.getLsbD_allOnes]; simp [hi]

theorem shiftRes_sar (a : Word) (k : Nat) : shiftRes .sar a k = (a.sshiftRight k, decide (1 ≤ k) && a.getLsbD (min 17 (k - 1))) := by
  rcases Nat.eq_zero_or_pos k with rfl | h0
  · simp [shiftRes]
  · by_cases h18 : k ≤ 18
    · have e : min 17 (k - 1) = k - 1 := by omega
      simp only [e]
      simp [shiftRes, bitAt, h0.ne', Nat.succ_le_of_lt h0, h18]
    · have e : min 17 (k - 1) = 17 := by omega
      rw [sshiftRight_of_ge a (show 18 ≤ k by omega), e]
      simp [shiftRes, bitAt, h0.ne', Nat.succ_le_of_lt h0, h18]

theorem getLsbD_sshiftRight_word (a : Word) (k : Nat) {i : Nat} (hi : i < 18) : (a.sshiftRight k).getLsbD i = a.getLsbD (min 17 (i + k)) := by
  rw [BitVec.getLsbD_sshiftRight]
  by_cases h : k + i < 18
  · have e : min 17 (i + k) = k + i := by omega
    simp [h, e, Nat.not_le.2 hi]
  · have e : min 17 (i + k) = 17 := by omega
    simp [h, e, Nat.not_le.2 hi, BitVec.msb_eq_getLsbD_last]

/-- ROL moves bit `i` to bit `(i + e) mod 18` (R42). -/
theorem getLsbD_rotateLeft_word (a : Word) {e i : Nat} (he : e < 18) (hi : i < 18) : (a.rotateLeft e).getLsbD ((i + e) % 18) = a.getLsbD i := by
  rw [BitVec.getLsbD_rotateLeft, Nat.mod_eq_of_lt he]
  by_cases h : i + e < 18
  · rw [Nat.mod_eq_of_lt h]
    simp [h, show ¬ i + e < e by omega]
  · have e1 : (i + e) % 18 = i + e - 18 := by omega
    have e2 : 18 - e + (i + e - 18) = i := by omega
    simp [e1, e2, show i + e - 18 < e by omega]

/-- ROR moves bit `i` to bit `(i − e) mod 18` (R42). -/
theorem getLsbD_rotateRight_word (a : Word) {e i : Nat} (he : e < 18) (hi : i < 18) :
    (a.rotateRight e).getLsbD ((i + 18 - e) % 18) = a.getLsbD i := by
  rw [BitVec.getLsbD_rotateRight, Nat.mod_eq_of_lt he]
  by_cases h : e ≤ i
  · have e1 : (i + 18 - e) % 18 = i - e := by omega
    have e2 : e + (i - e) = i := by omega
    simp [e1, e2, show i - e < 18 - e by omega]
  · have e1 : (i + 18 - e) % 18 = i + 18 - e := by omega
    have e2 : i + 18 - e - (18 - e) = i := by omega
    simp [e1, e2, show ¬ i + 18 - e < 18 - e by omega, show i + 18 - e < 18 by omega]

/-- Every bit of a shift or rotate, and the last bit out, are those of R41 and R42. -/
theorem shifted_shiftRes (op : ShiftOp) (a : Word) (k : Nat) : Shifted op a k (shiftRes op a k).1 (shiftRes op a k).2 := by
  have he : k % 18 < 18 := Nat.mod_lt _ (by decide)
  cases op with
  | shl =>
    rw [shiftRes_shl]
    refine ⟨fun i hi => ?_, rfl⟩
    rw [BitVec.getLsbD_shiftLeft]
    simp only [hi, decide_true, Bool.true_and, ← decide_not, Nat.not_lt]
  | shr =>
    rw [shiftRes_shr]
    exact ⟨fun i _ => by rw [BitVec.getLsbD_ushiftRight, Nat.add_comm], rfl⟩
  | sar =>
    rw [shiftRes_sar]
    exact ⟨fun i hi => getLsbD_sshiftRight_word a k hi, rfl⟩
  | rol => exact ⟨fun i hi => getLsbD_rotateLeft_word a he hi, by by_cases h : k % 18 = 0 <;> simp [shiftRes, bitAt, h]⟩
  | ror => exact ⟨fun i hi => getLsbD_rotateRight_word a he hi, by by_cases h : k % 18 = 0 <;> simp [shiftRes, bitAt, h]⟩

/-- A shift or rotate writes a word with the bits of R41 and R42, its last bit to C, and clears V. -/
theorem finishes_shift {i : Instr} {s : State} {c : CtlId} {rd : Fin 32} {op : ShiftOp} {a : Word} {n k : Nat} (h : Executes s c)
    (hi : Computes i s c rd (shiftAlu op a n)) (hk : n % 32 = k) :
    ∃ v co, Shifted op a k v co ∧ Finishes i s c 1 (oneReg (s.ctl c) rd v)
      { (s.ctl c).cur.flags with z := decide (v = 0), n := v.getLsbD 17, c := co, v := false } := by
  subst hk
  exact ⟨_, _, shifted_shiftRes op a (n % 32), finishes_alu h hi trivial⟩

/-! ### Leading zeros and packed octets -/

/-- Counting down from bit `n - 1`, the bits passed are zero, and the bit where the count stops is one. -/
theorem takeWhile_zeros (a : Word) (n : Nat) :
    ∃ m, ((List.range n).reverse.takeWhile (fun i => !a.getLsbD i)).length = m ∧ m ≤ n ∧
      (∀ i, n - m ≤ i → i < n → a.getLsbD i = false) ∧ (m < n → a.getLsbD (n - 1 - m) = true) := by
  induction n with
  | zero => exact ⟨0, by simp⟩
  | succ n ih =>
    obtain ⟨m, hm, hle, hz, ho⟩ := ih
    rw [List.range_succ, List.reverse_append, List.reverse_singleton, List.singleton_append, List.takeWhile_cons]
    cases hb : a.getLsbD n with
    | true => exact ⟨0, by simp, by omega, fun i h1 h2 => by omega, fun _ => by simpa using hb⟩
    | false =>
      refine ⟨m + 1, by simp [hm], by omega, fun i h1 h2 => ?_, fun h => ?_⟩
      · by_cases hi : i = n
        · rw [hi, hb]
        · exact hz i (by omega) (by omega)
      · have e : n + 1 - 1 - (m + 1) = n - 1 - m := by omega
        rw [e]
        exact ho (by omega)

/-- The leading one of a word that is not zero stands just below the zeros counted (CLZ, Table 2.11). -/
theorem clz_spec (a : Word) :
    clz a ≤ 18 ∧ (a = 0 → clz a = 18) ∧ (a ≠ 0 → clz a < 18 ∧ 2 ^ (17 - clz a) ≤ a.toNat ∧ a.toNat < 2 ^ (18 - clz a)) := by
  obtain ⟨m, hm, hle, hz, ho⟩ := takeWhile_zeros a 18
  have hc : clz a = m := hm
  have hlt : a.toNat < 2 ^ (18 - m) := Nat.lt_pow_two_of_testBit _ fun i hi => by
    by_cases h18 : i < 18
    · exact hz i hi h18
    · exact BitVec.getLsbD_of_ge a i (by omega)
  rw [hc]
  refine ⟨hle, fun h0 => ?_, fun h0 => ?_⟩
  · by_contra hne
    have := ho (by omega)
    simp [h0] at this
  · have hm18 : m < 18 := by
      by_contra hge
      have e : 18 - m = 0 := by omega
      rw [e] at hlt
      exact h0 (BitVec.eq_of_toNat_eq (by simpa using hlt))
    exact ⟨hm18, Nat.ge_two_pow_of_testBit (ho hm18), hlt⟩

theorem extractLsb'_nonetP (o : Octet) : (nonetP o).extractLsb' 0 8 = o := BitVec.extractLsb'_append_eq_right

theorem nonetOk_nonetP (o : Octet) : nonetOk (nonetP o) = true := by
  have h8 : (nonetP o).getLsbD 8 = parity o := by
    rw [nonetP, BitVec.getLsbD_append, if_neg (by decide)]
    exact BitVec.getLsbD_ofBool _ 0
  unfold nonetOk
  rw [h8, extractLsb'_nonetP, beq_self_eq_true]

/-- PACKO's word holds the two octets as well-formed nonets (R28). -/
theorem packo_spec (a b : Word) :
    (packo a b).extractLsb' 0 8 = a.extractLsb' 0 8 ∧ (packo a b).extractLsb' 9 8 = b.extractLsb' 0 8 ∧
    nonetOk ((packo a b).extractLsb' 0 9) = true ∧ nonetOk ((packo a b).extractLsb' 9 9) = true := by
  have lo : (packo a b).extractLsb' 0 9 = nonetP (a.extractLsb' 0 8) := BitVec.extractLsb'_append_eq_right
  have hi : (packo a b).extractLsb' 9 9 = nonetP (b.extractLsb' 0 8) := BitVec.extractLsb'_append_eq_left
  have lo8 : (packo a b).extractLsb' 0 8 = (nonetP (a.extractLsb' 0 8)).extractLsb' 0 8 := BitVec.extractLsb'_append_eq_of_add_le (by decide)
  have hi8 : (packo a b).extractLsb' 9 8 = (nonetP (b.extractLsb' 0 8)).extractLsb' 0 8 := BitVec.extractLsb'_append_eq_of_le (by decide)
  exact ⟨by rw [lo8, extractLsb'_nonetP], by rw [hi8, extractLsb'_nonetP], by rw [lo, nonetOk_nonetP], by rw [hi, nonetOk_nonetP]⟩

/-! ### Sums and differences (R40) -/

/-- The sum of two words and a carry, modulo 2^w. -/
def carrySum {w : Nat} (a b : BitVec w) (n : Nat) : BitVec w := BitVec.ofNat w (a.toNat + b.toNat + n)

/-- The difference of two words and a borrow, modulo 2^w. -/
def borrowDiff {w : Nat} (a b : BitVec w) (n : Nat) : BitVec w := BitVec.ofInt w ((a.toNat : Int) - b.toNat - n)

theorem addFlags_eq {w : Nat} (a b : BitVec w) (cin : Bool) :
    addFlags a b cin = (carrySum a b cin.toNat, zn (carrySum a b cin.toNat) (some (decide (2 ^ w ≤ a.toNat + b.toNat + cin.toNat)))
      (some (decide ((carrySum a b cin.toNat).toInt ≠ a.toInt + b.toInt + (cin.toNat : Int))))) := by
  have e : a + b + (if cin then 1#w else 0#w) = carrySum a b cin.toNat := by
    cases cin <;> simp [carrySum, BitVec.ofNat_add]
  unfold addFlags
  rw [e]

theorem subFlags_eq {w : Nat} (a b : BitVec w) (bin : Bool) :
    subFlags a b bin = (borrowDiff a b bin.toNat, zn (borrowDiff a b bin.toNat) (some (decide (a.toNat < b.toNat + bin.toNat)))
      (some (decide ((borrowDiff a b bin.toNat).toInt ≠ a.toInt - b.toInt - (bin.toNat : Int))))) := by
  have e : a - b - (if bin then 1#w else 0#w) = borrowDiff a b bin.toNat := by
    cases bin <;> simp [borrowDiff, Int.sub_eq_add_neg, BitVec.ofInt_add, BitVec.ofInt_neg, BitVec.sub_eq_add_neg]
  unfold subFlags
  rw [e]

theorem addFlags_false {w : Nat} (a b : BitVec w) :
    addFlags a b false = (a + b, zn (a + b) (some (decide (2 ^ w ≤ a.toNat + b.toNat))) (some (decide ((a + b).toInt ≠ a.toInt + b.toInt)))) := by
  simp [addFlags]

theorem subFlags_false {w : Nat} (a b : BitVec w) :
    subFlags a b false = (a - b, zn (a - b) (some (decide (a.toNat < b.toNat))) (some (decide ((a - b).toInt ≠ a.toInt - b.toInt)))) := by
  simp [subFlags]

/-- The flags of a sum (R40, Table 2.14): Z and N of it, the carry out and the signed overflow. -/
def sumFlags (f : Flags) (a b : Word) (n : Nat) : Flags :=
  { f with
    z := decide (carrySum a b n = 0), n := (carrySum a b n).msb, c := decide (2 ^ 18 ≤ a.toNat + b.toNat + n)
    v := decide ((carrySum a b n).toInt ≠ a.toInt + b.toInt + n) }

/-- The flags of a difference (R40, Table 2.14): Z and N of it, the borrow and the signed overflow. -/
def diffFlags (f : Flags) (a b : Word) (n : Nat) : Flags :=
  { f with
    z := decide (borrowDiff a b n = 0), n := (borrowDiff a b n).msb, c := decide (a.toNat < b.toNat + n)
    v := decide ((borrowDiff a b n).toInt ≠ a.toInt - b.toInt - n) }

/-- ADD, ADC and ADDI write a sum and its flags. -/
theorem finishes_sum {i : Instr} {s : State} {c : CtlId} {rd : Fin 32} {a b : Word} (cin : Bool) (h : Executes s c)
    (hi : Computes i s c rd (.ofW (addFlags a b cin))) :
    Finishes i s c 1 (oneReg (s.ctl c) rd (carrySum a b cin.toNat)) (sumFlags (s.ctl c).cur.flags a b cin.toNat) := by
  rw [addFlags_eq] at hi
  exact finishes_alu h hi trivial

/-- SUB, SBC and NEG write a difference and its flags. -/
theorem finishes_diff {i : Instr} {s : State} {c : CtlId} {rd : Fin 32} {a b : Word} (bin : Bool) (h : Executes s c)
    (hi : Computes i s c rd (.ofW (subFlags a b bin))) :
    Finishes i s c 1 (oneReg (s.ctl c) rd (borrowDiff a b bin.toNat)) (diffFlags (s.ctl c).cur.flags a b bin.toNat) := by
  rw [subFlags_eq] at hi
  exact finishes_alu h hi trivial

/-- CMP and CMPI write the flags of a difference and no register. -/
theorem finishes_compare {i : Instr} {s : State} {c : CtlId} {rd : Fin 32} {a b : Word} (h : Executes s c)
    (hi : Computes i s c rd (.flags (subFlags a b false).2)) :
    Finishes i s c 1 (s.ctl c).reg (diffFlags (s.ctl c).cur.flags a b 0) := by
  rw [subFlags_eq] at hi
  exact finishes_alu h hi trivial

/-! ### Products and pairs (R26, R32, R43) -/

theorem evenReg_of {r : Nat} (h : r % 2 = 0) : evenReg r = true := by simp [evenReg, h]

/-- A pair result writes its two registers; Z and N are of the pair (Table 2.14), N its bit 35. -/
theorem finishes_pair {i : Instr} {s : State} {c : CtlId} {rd : Fin 32} {v : DWord} {co vo : Bool} (h : Executes s c)
    (hi : Computes i s c rd (.pair v (some (zn v (some co) (some vo))))) (hd : rd.val % 2 = 0) :
    Finishes i s c 1 (onePair (s.ctl c) rd v)
      { (s.ctl c).cur.flags with z := decide (v = 0), n := v.getLsbD 35, c := co, v := vo } :=
  finishes_alu h hi hd

/-- Two words' signed product fits in a pair (R43). -/
theorem toInt_product (a b : Word) : (BitVec.ofInt 36 (a.toInt * b.toInt)).toInt = a.toInt * b.toInt := by
  have hlo : -2 ^ 34 ≤ a.toInt * b.toInt := BitVec.le_toInt_mul_toInt
  have hhi : a.toInt * b.toInt ≤ 2 ^ 34 := BitVec.toInt_mul_toInt_le
  exact BitVec.toInt_ofInt_eq_self (by decide) (by omega) (by omega)

theorem toNat_product (a b : Word) : (BitVec.ofNat 36 (a.toNat * b.toNat)).toNat = a.toNat * b.toNat := by
  have h : a.toNat * b.toNat < 2 ^ 18 * 2 ^ 18 := Nat.mul_lt_mul'' a.isLt b.isLt
  exact (BitVec.toNat_ofNat _ _).trans (Nat.mod_eq_of_lt h)

/-- LEA's sum of a pair and a sign-extended word, modulo 2^36 (R36). -/
theorem add_signExtend (p : DWord) (imm : Word) : p + imm.signExtend 36 = BitVec.ofInt 36 ((p.toNat : Int) + imm.toInt) := by
  rw [BitVec.ofInt_add, BitVec.ofInt_natCast, BitVec.ofNat_toNat, BitVec.setWidth_eq]
  rfl

/-! ### Quotients and remainders (R44) -/

/-- An unsigned quotient and remainder fit in words. -/
theorem divRes_unsigned (a b : Word) (hb : b ≠ 0) :
    (divRes false a b).1.toNat * b.toNat + (divRes false a b).2.toNat = a.toNat ∧ (divRes false a b).2.toNat < b.toNat := by
  have hpos : 0 < b.toNat := Nat.pos_of_ne_zero fun e => hb (BitVec.eq_of_toNat_eq e)
  have hq : (BitVec.ofNat 18 (a.toNat / b.toNat)).toNat = a.toNat / b.toNat :=
    (BitVec.toNat_ofNat _ _).trans (Nat.mod_eq_of_lt (Nat.lt_of_le_of_lt (Nat.div_le_self _ _) a.isLt))
  have hm : (BitVec.ofNat 18 (a.toNat % b.toNat)).toNat = a.toNat % b.toNat :=
    (BitVec.toNat_ofNat _ _).trans (Nat.mod_eq_of_lt (Nat.lt_of_le_of_lt (Nat.mod_le _ _) a.isLt))
  have e : divRes false a b = (BitVec.ofNat 18 (a.toNat / b.toNat), BitVec.ofNat 18 (a.toNat % b.toNat)) := by rw [divRes, if_neg hb]; rfl
  rw [e, hq, hm]
  exact ⟨Nat.div_add_mod' _ _, Nat.mod_lt _ hpos⟩

theorem word_toInt_bounds (a : Word) : -2 ^ 17 ≤ a.toInt ∧ a.toInt < 2 ^ 17 := ⟨BitVec.le_toInt a, BitVec.toInt_lt⟩

theorem word_toInt_ofInt {x : Int} (hlo : -2 ^ 17 ≤ x) (hhi : x < 2 ^ 17) : (BitVec.ofInt 18 x).toInt = x :=
  BitVec.toInt_ofInt_eq_self (by decide) hlo hhi

/-- A signed quotient of words fits in a word, but for −131,072 by −1. -/
theorem tdiv_bounds {x y : Int} (hlo : -2 ^ 17 ≤ x) (hhi : x < 2 ^ 17) (hy : y ≠ 0) (h : ¬ (x = -2 ^ 17 ∧ y = -1)) :
    -2 ^ 17 ≤ x.tdiv y ∧ x.tdiv y < 2 ^ 17 := by
  by_cases h1 : y = 1
  · rw [h1, Int.tdiv_one]
    exact ⟨hlo, hhi⟩
  · by_cases h2 : y = -1
    · rw [h2, Int.tdiv_neg, Int.tdiv_one]
      omega
    · have hn : (x.tdiv y).natAbs ≤ 2 ^ 17 / 2 := by
        rw [Int.natAbs_tdiv]
        exact Nat.div_le_div (by omega) (by omega) (by decide)
      omega

/-- Where the signed quotient fits, quotient and remainder are those of truncation toward zero, the remainder with the dividend's sign. -/
theorem divRes_signed (a b : Word) (hb : b ≠ 0) (h : ¬ (a = 0x20000#18 ∧ b = 0x3FFFF#18)) :
    (divRes true a b).1.toInt * b.toInt + (divRes true a b).2.toInt = a.toInt ∧
    (divRes true a b).2.toInt.natAbs < b.toInt.natAbs ∧ ((divRes true a b).2 = 0 ∨ (divRes true a b).2.msb = a.msb) := by
  obtain ⟨alo, ahi⟩ := word_toInt_bounds a
  obtain ⟨blo, bhi⟩ := word_toInt_bounds b
  have hb0 : b.toInt ≠ 0 := fun e => hb (BitVec.eq_of_toInt_eq e)
  have hov : ¬ (a.toInt = -2 ^ 17 ∧ b.toInt = -1) := fun e => h ⟨BitVec.eq_of_toInt_eq e.1, BitVec.eq_of_toInt_eq e.2⟩
  obtain ⟨qlo, qhi⟩ := tdiv_bounds alo ahi hb0 hov
  have hlt : (a.toInt.tmod b.toInt).natAbs < b.toInt.natAbs := by
    rw [Int.natAbs_tmod]
    exact Nat.mod_lt _ (Int.natAbs_pos.2 hb0)
  have hq := word_toInt_ofInt qlo qhi
  have hm : (BitVec.ofInt 18 (a.toInt.tmod b.toInt)).toInt = a.toInt.tmod b.toInt := word_toInt_ofInt (by omega) (by omega)
  have e : divRes true a b = (BitVec.ofInt 18 (a.toInt.tdiv b.toInt), BitVec.ofInt 18 (a.toInt.tmod b.toInt)) := by rw [divRes, if_neg hb]; rfl
  rw [e, hq, hm]
  refine ⟨Int.tdiv_mul_add_tmod _ _, hlt, ?_⟩
  by_cases h0 : a.toInt.tmod b.toInt = 0
  · exact .inl (by rw [h0]; rfl)
  · refine .inr ?_
    rw [BitVec.msb_eq_toInt, BitVec.msb_eq_toInt, hm]
    by_cases ha : a.toInt < 0
    · have := Int.tmod_nonneg b.toInt (show 0 ≤ -a.toInt by omega)
      rw [Int.neg_tmod] at this
      simp only [ha, decide_true, decide_eq_true_eq]
      omega
    · have := Int.tmod_nonneg b.toInt (show 0 ≤ a.toInt by omega)
      simp only [ha, decide_false, decide_eq_false_iff_not]
      omega

/-! ### DIV and DIVU on a controller (R44, R45) -/

/-- The current world's DZ set where a divisor is zero (R45). -/
def Ctl.noteZero (k : Ctl) (b : Word) : Ctl :=
  k.onCur (fun w => { w with flags := { w.flags with dz := w.flags.dz || decide (b = 0) } })

theorem Ctl.noteZero_eq (k : Ctl) (b : Word) :
    (if b = 0 then k.onCur (fun w => { w with flags := { w.flags with dz := true } }) else k) = k.noteZero b := by
  by_cases h : b = 0
  · simp [noteZero, h]
  · rw [if_neg h, ← Ctl.onCur_flags_self k, noteZero, Ctl.onCur_onCur]
    exact Ctl.onCur_congr k (by simp only [decide_eq_false h, Bool.or_false])

/-- A zero divisor sets DZ and leaves the other flags. -/
theorem Ctl.noteZero_zero (k : Ctl) : k.noteZero 0 = k.onCur (fun w => { w with flags := { k.cur.flags with dz := true } }) :=
  Ctl.onCur_congr k (by simp)

theorem Ctl.noteZero_withWaiting (k : Ctl) (x : Bool) (b : Word) :
    ({ k with waiting := x } : Ctl).noteZero b = { k.noteZero b with waiting := x } := Ctl.onCur_withWaiting k x _

theorem Ctl.cur_noteZero (k : Ctl) (b : Word) :
    (k.noteZero b).cur = { k.cur with flags := { k.cur.flags with dz := k.cur.flags.dz || decide (b = 0) } } := Ctl.cur_onCur k _

/-- What a division does to its controller: it raises Divide by Zero where DZT is set, or it writes its pair. -/
def divRun (c : CtlId) (signed : Bool) (rd ra rb : Fin 32) (s : State) : Ran :=
  let k := s.ctl c
  if k.reg rb = 0 ∧ k.cur.dzt then .raises (s.setCtl c (k.noteZero (k.reg rb))) 0xC 0 0
  else .ok (s.setCtl c ((k.noteZero (k.reg rb)).result rd (divAlu signed (k.reg ra) (k.reg rb))))

theorem divOp_eq (c : CtlId) (signed : Bool) {rd : Fin 32} (ra rb : Fin 32) (s : State) (hd : rd.val % 2 = 0) :
    divOp c signed rd ra rb s = ctlIssue s c (.plain 20 false) (divRun c signed rd ra rb) := by
  unfold divOp
  simp only [Ctl.noteZero_eq, Ctl.cur_noteZero, evenReg_of hd]
  rfl

/-- The flags of a division (R44, R45). -/
def divFlags (f : Flags) (signed : Bool) (a b : Word) : Flags :=
  { f with
    z := decide ((divRes signed a b).1 = 0), n := (divRes signed a b).1.getLsbD 17, c := false
    v := signed && decide (a = 0x20000#18) && decide (b = BitVec.allOnes 18), dz := f.dz || decide (b = 0) }

theorem divRes_zero (signed : Bool) (a : Word) : divRes signed a 0 = (0x3FFFF#18, a) := if_pos rfl

/-- A division by zero that raises nothing (R45): the quotient's flags, and DZ. -/
theorem divFlags_zero (f : Flags) (signed : Bool) (a : Word) :
    divFlags f signed a 0 = { f with z := false, n := true, c := false, v := false, dz := true } := by
  unfold divFlags
  rw [divRes_zero]
  simp

theorem divFlags_ne_zero (f : Flags) (signed : Bool) {a b : Word} (hb : b ≠ 0) : divFlags f signed a b =
    { f with
      z := decide ((divRes signed a b).1 = 0), n := (divRes signed a b).1.getLsbD 17, c := false
      v := signed && decide (a = 0x20000#18) && decide (b = 0x3FFFF#18) } := by
  unfold divFlags
  rw [decide_eq_false hb, Bool.or_false]
  rfl

/-- A division that raises nothing changes the registers and the flags alone. -/
theorem Ctl.result_noteZero (k : Ctl) (rd : Nat) (signed : Bool) (a b : Word) : (k.noteZero b).result rd (divAlu signed a b) =
    ({ k with g := ((k.noteZero b).result rd (divAlu signed a b)).g } : Ctl).onCur
      (fun w => { w with flags := divFlags k.cur.flags signed a b }) := by
  have h := Ctl.result_eq (k.noteZero b) rd (divAlu signed a b)
  rw [Ctl.cur_noteZero] at h
  refine h.trans ?_
  conv_lhs => rw [Ctl.noteZero, ← Ctl.onCur_withRegs, Ctl.onCur_onCur]
  rfl

/-- A division whose divisor is not zero, or where DZT is clear, finishes with quotient and remainder in its pair. -/
theorem finishes_div {i : Instr} {s : State} {c : CtlId} {signed : Bool} {rd ra rb : Fin 32} (h : Executes s c)
    (hi : exec i s = done (divOp c signed rd ra rb s)) (hd : rd.val % 2 = 0) (hz : ¬ ((s.ctl c).reg rb = 0 ∧ (s.ctl c).cur.dzt = true)) :
    Finishes i s c 20 (onePair (s.ctl c) rd (dword (divRes signed ((s.ctl c).reg ra) ((s.ctl c).reg rb)).2
        (divRes signed ((s.ctl c).reg ra) ((s.ctl c).reg rb)).1))
      (divFlags (s.ctl c).cur.flags signed ((s.ctl c).reg ra) ((s.ctl c).reg rb)) := by
  rw [divOp_eq c signed ra rb s hd] at hi
  have hres := Ctl.result_noteZero { s.ctl c with waiting := false } rd signed ((s.ctl c).reg ra) ((s.ctl c).reg rb)
  refine finishes_of_ctlIssue h hi ?_ hres fun r => ?_
  · unfold divRun
    rw [fetched_ctl]
    exact if_neg hz
  · rw [Ctl.reg_result _ rd (divAlu _ _ _) hd]
    simp only [AluRes.regs, divAlu, onePair, Ctl.noteZero, Ctl.reg_onCur]
    rfl

/-- A division by zero with DZT set traps, with DZ set (R45). -/
theorem traps_div {i : Instr} {s : State} {c : CtlId} {signed : Bool} {rd ra rb : Fin 32} (h : Executes s c)
    (hi : exec i s = done (divOp c signed rd ra rb s)) (hd : rd.val % 2 = 0) (hb : (s.ctl c).reg rb = 0) (ht : (s.ctl c).cur.dzt = true)
    (hdepth : (s.ctl c).cur.depth < 2) :
    Traps i s c ((s.ctl c).noteZero ((s.ctl c).reg rb)) 0xC 0 0 := by
  rw [divOp_eq c signed ra rb s hd] at hi
  refine traps_of_ctlIssue h hi ?_ (by rw [Ctl.cur_noteZero]; exact hdepth)
  rw [← Ctl.noteZero_withWaiting, divRun, fetched_ctl]
  exact if_pos ⟨hb, ht⟩

/-! ### The statements -/

/-- Settles O2: each instruction is an arithmetic one whose word the lemmas above describe bit by bit. -/
theorem logicAndShifts : Obligations.LogicAndShifts := by
  unfold Obligations.LogicAndShifts
  refine ⟨fun s c h rd ra rb imm => ?_, fun s c h rd ra rb => ?_⟩
  · obtain ⟨hle, h0, h1⟩ := clz_spec ((s.ctl c).reg ra)
    have hclz : (BitVec.ofNat 18 (clz ((s.ctl c).reg ra))).toNat = clz ((s.ctl c).reg ra) := by
      rw [BitVec.toNat_ofNat, Nat.mod_eq_of_lt (by omega)]
    refine ⟨?_, ?_, ?_, ?_, ?_, ?_, ?_,
      ⟨BitVec.ofNat 18 (clz ((s.ctl c).reg ra)), ?_, fun e => by rw [h0 e]; rfl, fun e => by rw [hclz]; exact h1 e⟩,
      ⟨packo ((s.ctl c).reg ra) ((s.ctl c).reg rb), ?_, packo_spec _ _⟩⟩ <;>
      exact finishes_logic h ⟨_, _, _, rfl, rfl, rfl⟩
  · have hb : rb.val % 32 = rb.val := Nat.mod_eq_of_lt rb.isLt
    refine ⟨?_, ?_, ?_, ?_, ?_, ?_, ?_, ?_, ?_, ?_⟩
    iterate 5 exact finishes_shift h ⟨_, _, _, rfl, rfl, rfl⟩ rfl
    iterate 5 exact finishes_shift h ⟨_, _, _, rfl, rfl, rfl⟩ hb

/-- Settles O3: sums and differences by the carry in, products by their bounds, pairs by the even register fields. -/
theorem sumsAndPairs : Obligations.SumsAndPairs := by
  unfold Obligations.SumsAndPairs
  refine ⟨fun s c h rd ra rb imm => ?_, fun s c h rd ra rb hd => ?_⟩
  · exact ⟨finishes_sum false h ⟨_, _, _, rfl, rfl, rfl⟩,
      finishes_sum (s.ctl c).cur.flags.c h ⟨_, _, _, rfl, rfl, rfl⟩,
      finishes_sum false h ⟨_, _, _, rfl, rfl, rfl⟩,
      finishes_diff false h ⟨_, _, _, rfl, rfl, rfl⟩,
      finishes_diff (s.ctl c).cur.flags.c h ⟨_, _, _, rfl, rfl, rfl⟩,
      finishes_diff false h ⟨_, _, _, rfl, rfl, rfl⟩,
      finishes_compare h ⟨_, _, _, rfl, rfl, rfl⟩,
      finishes_compare h ⟨_, _, _, rfl, rfl, rfl⟩⟩
  · have ed : evenReg rd = true := evenReg_of hd
    refine ⟨⟨_, toInt_product _ _, finishes_pair h ⟨_, _, _, rfl, ed, rfl⟩ hd⟩,
      ⟨_, toNat_product _ _, finishes_pair h ⟨_, _, _, rfl, ed, rfl⟩ hd⟩, fun ha => ?_⟩
    have ea : (evenReg rd && evenReg ra) = true := by rw [ed, evenReg_of ha]; rfl
    refine ⟨finishes_alu (rd := rd) (r := .pair _ (some (zn _ none none))) h ⟨_, _, _, rfl, ea, rfl⟩ hd, fun imm => ?_, fun hb => ?_⟩
    · rw [← add_signExtend]
      exact finishes_alu (rd := rd) (r := .pair _ none) h ⟨_, _, _, rfl, ea, rfl⟩ hd
    · have eb : (evenReg rd && evenReg ra && evenReg rb) = true := by rw [ea, evenReg_of hb]; rfl
      exact ⟨finishes_pair h ⟨_, _, _, rfl, eb, congrArg AluRes.ofP (addFlags_false _ _)⟩ hd,
        finishes_pair h ⟨_, _, _, rfl, eb, congrArg AluRes.ofP (subFlags_false _ _)⟩ hd⟩

/-- Settles O4: the defining equations of quotient and remainder, and the two ends of a division by zero. -/
theorem division : Obligations.Division := by
  unfold Obligations.Division
  refine ⟨fun s c h rd ra rb hd hb => ?_, fun s c h rd ra rb hd hb i hi => ?_⟩
  · have hz : ¬ ((s.ctl c).reg rb = 0 ∧ (s.ctl c).cur.dzt = true) := fun e => hb e.1
    have hu := finishes_div (i := .divu c rd ra rb) h rfl hd hz
    have hs := finishes_div (i := .div c rd ra rb) h rfl hd hz
    rw [divFlags_ne_zero _ _ hb] at hu hs
    refine ⟨?_, fun e => ?_, fun e => ?_⟩
    · obtain ⟨hdef, hlt⟩ := divRes_unsigned _ _ hb
      exact ⟨_, _, hdef, hlt, hu⟩
    · rw [e.1, e.2] at hs
      exact hs
    · obtain ⟨hdef, hlt, hsign⟩ := divRes_signed _ _ hb e
      rw [show (true && _ && _) = false from by simpa using e] at hs
      exact ⟨_, _, hdef, hlt, hsign, hs⟩
  · have hdiv : ∃ signed, exec i s = done (divOp c signed rd ra rb s) := by
      rcases hi with rfl | rfl
      · exact ⟨true, rfl⟩
      · exact ⟨false, rfl⟩
    obtain ⟨signed, hi⟩ := hdiv
    refine ⟨fun ht => ?_, fun ht hdepth => ?_⟩
    · have hfin := finishes_div h hi hd (by simp [ht])
      rw [hb, divRes_zero, divFlags_zero] at hfin
      exact hfin
    · have htrap := traps_div h hi hd hb ht hdepth
      rw [hb, Ctl.noteZero_zero] at htrap
      exact htrap

end Sys2Proof.Machine
end

section
/-! SUPPORT. What every step keeps: each meaning answers a next state, leaves the queue alone, keeps memory canonical and, but for the two commands that
burn OTP, leaves OTP alone. -/
namespace Sys2Proof.Machine

/-! ### Every meaning answers -/

theorem exec_completes (i : Instr) (s : State) : ∃ t, exec i s = .next t := by
  cases i <;> exact ⟨_, rfl⟩

theorem step_completes (s : State) : ∃ t, step s = .next t := by
  unfold step
  split
  · exact ⟨_, rfl⟩
  · exact exec_completes _ _

/-! ### The two commands that burn OTP -/

/-- The command is one of the two whose operation writes OTP (Tables 11.7 and 16.6). -/
def Burns (i : Instr) : Prop := ∃ r, (∃ b, i = .commissionFinish r b) ∨ (∃ b, i = .devicePolicy r b)

/-- OTP after a step that may burn a fuse: the count rises by at most one and not above 32, NO_RECOMM stays blown. -/
def OtpGrows (o p : Otp) : Prop := o.comm ≤ p.comm ∧ p.comm ≤ o.comm + 1 ∧ p.comm ≤ 32 ∧ (o.noRecomm = true → p.noRecomm = true)

theorem otpGrows_refl {o : Otp} (h : o.comm ≤ 32) : OtpGrows o o := ⟨le_rfl, by omega, h, id⟩

@[simp] theorem commission_otp (s : State) (w : Who) (m n mc ttl : Nat) (l : List (List Octet)) :
    (commission s w m n mc ttl l).1.otp = { s.otp with comm := min 32 (s.otp.comm + 1) } := by
  simp [commission]

theorem commissionFinishOp_otp {s : State} (h : s.otp.comm ≤ 32) (w : Who) (opener : Nat) (blk : List Octet) :
    OtpGrows s.otp (commissionFinishOp s w opener blk).1.otp := by
  unfold commissionFinishOp
  split
  · exact otpGrows_refl h
  · split
    · exact otpGrows_refl h
    · rw [commission_otp]
      exact ⟨by simp only; omega, by simp only; omega, by simp only; omega, id⟩

theorem devicePolicyOp_otp {s : State} (h : s.otp.comm ≤ 32) (w : Who) (blk : List Octet) : OtpGrows s.otp (devicePolicyOp s w blk).1.otp := by
  simp only [devicePolicyOp]
  split
  · exact otpGrows_refl h
  · split
    · exact otpGrows_refl h
    · rw [(policyChange_keep _ _ _ _).2]
      split
      · exact ⟨le_rfl, by simp only; omega, h, fun _ => rfl⟩
      · exact otpGrows_refl h

/-- What holds of OTP as a command finds it, and after its operation, holds after the command: the checks, the ballot and the completion leave OTP alone. -/
theorem adminRun_otp_of {R : Otp → Prop} {s : State} (hs : R s.otp) (r : CmdRef) (opc : Nat) (blk trailer : List Octet) (op : AdminOp)
    (h : ∀ x c w b t y, x.otp = s.otp → R (op x c w b t y).1.otp) : R (adminRun s r opc blk trailer op).otp := by
  have hop : ∀ x c blk trailer y n, x.otp = s.otp → R (operate x c blk trailer y op n).otp := by
    intro x c blk trailer y n hx
    have := h x c (x.who c.func) blk trailer y hx
    unfold operate
    split <;> simp_all
  unfold adminRun adminChecked
  split
  · exact hs
  · dsimp only
    split
    · exact hop _ _ _ _ _ _ (by simp)
    · split
      · simpa using hs
      · split
        · split
          · simpa using hs
          · exact hop _ _ _ _ _ _ (by simp)
        · split <;> rename_i e
          · have := (spendBallot_to e).2.1
            simp_all
          · exact hop _ _ _ _ _ _ ((spendBallot_to e).2.1.trans (by simp))

theorem burns_otp {i : Instr} (hi : Burns i) {s t : State} (hs : s.otp.comm ≤ 32) (h : exec i s = .next t) : OtpGrows s.otp t.otp := by
  obtain ⟨r, ⟨blk, rfl⟩ | ⟨blk, rfl⟩⟩ := hi
  · cases h
    exact adminRun_otp_of (otpGrows_refl hs) _ _ _ _ _ fun x c w b _ _ e => e ▸ commissionFinishOp_otp (e ▸ hs) w _ b
  · cases h
    exact adminRun_otp_of (otpGrows_refl hs) _ _ _ _ _ fun x _ w b _ _ e => e ▸ devicePolicyOp_otp (e ▸ hs) w b

theorem burns_pending_wf {i : Instr} (hi : Burns i) {s t : State} (h : exec i s = .next t) :
    t.pending = s.pending ∧ (s.mem.wf = true → t.mem.wf = true) := by
  obtain ⟨r, ⟨blk, rfl⟩ | ⟨blk, rfl⟩⟩ := hi
  · cases h
    exact ⟨adminRun_pending _ _ _ _ _ _ fun _ _ _ _ _ _ => (commissionFinishOp_keep _ _ _ _),
      adminRun_wf _ _ _ _ _ _ fun _ _ _ _ _ _ hm => commissionFinishOp_wf _ _ _ _ hm⟩
  · cases h
    exact ⟨adminRun_pending _ _ _ _ _ _ fun _ _ _ _ _ _ => (devicePolicyOp_keep _ _ _),
      adminRun_wf _ _ _ _ _ _ fun _ _ _ _ _ _ hm => devicePolicyOp_wf _ _ _ hm⟩

/-! ### Every meaning keeps the queue and canonical memory, and all but two keep OTP -/

/-- One arm for each command, in the order of `exec`: the command's own lemma. -/
theorem exec_keeps (s : State) : ∀ i : Instr, ¬ Burns i → Keeps s (exec i s)
  | .commissionFinish .., h => (h ⟨_, .inl ⟨_, rfl⟩⟩).elim | .devicePolicy .., h => (h ⟨_, .inr ⟨_, rfl⟩⟩).elim
  | .add .., _ => execAdd_keeps _ _ _ _ _ | .adc .., _ => execAdc_keeps _ _ _ _ _ | .sub .., _ => execSub_keeps _ _ _ _ _
  | .sbc .., _ => execSbc_keeps _ _ _ _ _ | .neg .., _ => execNeg_keeps _ _ _ _ | .cmp .., _ => execCmp_keeps _ _ _ _
  | .and .., _ => execAnd_keeps _ _ _ _ _ | .or .., _ => execOr_keeps _ _ _ _ _ | .xor .., _ => execXor_keeps _ _ _ _ _
  | .andn .., _ => execAndn_keeps _ _ _ _ _ | .shl .., _ => execShl_keeps _ _ _ _ _ | .shr .., _ => execShr_keeps _ _ _ _ _
  | .sar .., _ => execSar_keeps _ _ _ _ _ | .rol .., _ => execRol_keeps _ _ _ _ _ | .ror .., _ => execRor_keeps _ _ _ _ _
  | .shli .., _ => execShli_keeps _ _ _ _ _ | .shri .., _ => execShri_keeps _ _ _ _ _ | .sari .., _ => execSari_keeps _ _ _ _ _
  | .roli .., _ => execRoli_keeps _ _ _ _ _ | .rori .., _ => execRori_keeps _ _ _ _ _ | .mul .., _ => execMul_keeps _ _ _ _ _
  | .mulu .., _ => execMulu_keeps _ _ _ _ _ | .div .., _ => execDiv_keeps _ _ _ _ _ | .divu .., _ => execDivu_keeps _ _ _ _ _
  | .movd .., _ => execMovd_keeps _ _ _ _ | .addd .., _ => execAddd_keeps _ _ _ _ _ | .subd .., _ => execSubd_keeps _ _ _ _ _
  | .clz .., _ => execClz_keeps _ _ _ _ | .packo .., _ => execPacko_keeps _ _ _ _ _ | .addi .., _ => execAddi_keeps _ _ _ _ _
  | .andi .., _ => execAndi_keeps _ _ _ _ _ | .ori .., _ => execOri_keeps _ _ _ _ _ | .xori .., _ => execXori_keeps _ _ _ _ _
  | .cmpi .., _ => execCmpi_keeps _ _ _ _ | .lea .., _ => execLea_keeps _ _ _ _ _ | .ld .., _ => execLd_keeps _ _ _ _ _
  | .st .., _ => execSt_keeps _ _ _ _ _ | .ldd .., _ => execLdd_keeps _ _ _ _ _ | .std .., _ => execStd_keeps _ _ _ _ _
  | .ldo .., _ => execLdo_keeps _ _ _ _ _ _ | .sto .., _ => execSto_keeps _ _ _ _ _ _ | .beq .., _ => execBeq_keeps _ _ _ _ _
  | .bne .., _ => execBne_keeps _ _ _ _ _ | .blt .., _ => execBlt_keeps _ _ _ _ _ | .bge .., _ => execBge_keeps _ _ _ _ _
  | .bltu .., _ => execBltu_keeps _ _ _ _ _ | .bgeu .., _ => execBgeu_keeps _ _ _ _ _ | .bf .., _ => execBf_keeps _ _ _ _
  | .jmp .., _ => execJmp_keeps _ _ _ | .call .., _ => execCall_keeps _ _ _ | .jr .., _ => execJr_keeps _ _ _ | .callr .., _ => execCallr_keeps _ _ _
  | .loop .., _ => execLoop_keeps _ _ _ _ _ | .mfc .., _ => execMfc_keeps _ _ _ _ | .mtc .., _ => execMtc_keeps _ _ _ _
  | .gate .., _ => execGate_keeps _ _ _ | .eret .., _ => execEret_keeps _ _ | .syncI .., _ => execSyncI_keeps _ _
  | .fence .., _ => execFence_keeps _ _ | .wait .., _ => execWait_keeps _ _ | .brk .., _ => execBrk_keeps _ _ _
  | .bmov .., _ => execBmov_keeps _ _ _ _ _ _ | .bzero .., _ => execBzero_keeps _ _ _ _ _ | .syscall .., _ => execSyscall_keeps _ _ _
  | .interruptTaken .., _ => execInterruptTaken_keeps _ _ | .secureInterruptEntry .., _ => execSecureInterruptEntry_keeps _ _
  | .endRun .., _ => execEndRun_keeps _ _ | .endRepeat .., _ => execEndRepeat_keeps _ _ _ | .endReject .., _ => execEndReject_keeps _ _ _
  | .hset .., _ => execHset_keeps _ _ _ _ | .hld .., _ => execHld_keeps _ _ _ _ _ _ | .hst .., _ => execHst_keeps _ _ _ _ _
  | .aese .., _ => execAese_keeps _ _ _ _ | .aesd .., _ => execAesd_keeps _ _ _ _ | .ctre .., _ => execCtre_keeps _ _ _ _
  | .ctrk .., _ => execCtrk_keeps _ _ _ _ | .ctri .., _ => execCtri_keeps _ _ _ _ | .xorb .., _ => execXorb_keeps _ _ _ _
  | .movb .., _ => execMovb_keeps _ _ _ _ | .xtse .., _ => execXtse_keeps _ _ _ _ | .xtsd .., _ => execXtsd_keeps _ _ _ _
  | .cbcd .., _ => execCbcd_keeps _ _ _ _ | .cmacb .., _ => execCmacb_keeps _ _ _ _ | .csave .., _ => execCsave_keeps _ _ _ _
  | .crest .., _ => execCrest_keeps _ _ _ _ | .kput .., _ => execKput_keeps _ _ _ _ _ | .ghk .., _ => execGhk_keeps _ _ _ _
  | .gha .., _ => execGha_keeps _ _ _ _ | .ghb .., _ => execGhb_keeps _ _ _ _ | .ghl .., _ => execGhl_keeps _ _ _ _
  | .gtag .., _ => execGtag_keeps _ _ _ _ _ | .gcmp .., _ => execGcmp_keeps _ _ _ _ _ | .gclr .., _ => execGclr_keeps _ _ _
  | .twi .., _ => execTwi_keeps _ _ _ _ | .twn .., _ => execTwn_keeps _ _ _ | .dinit .., _ => execDinit_keeps _ _ _ _
  | .dabs .., _ => execDabs_keeps _ _ _ _ _ _ | .dcomp .., _ => execDcomp_keeps _ _ _ | .dfin .., _ => execDfin_keeps _ _ _
  | .dout .., _ => execDout_keeps _ _ _ _ | .dpad .., _ => execDpad_keeps _ _ _ _ _ | .dsave .., _ => execDsave_keeps _ _ _ _
  | .drest .., _ => execDrest_keeps _ _ _ _ | .dtap .., _ => execDtap_keeps _ _ _ _ | .ladd .., _ => execLadd_keeps _ _ _ _ _ _
  | .lsub .., _ => execLsub_keeps _ _ _ _ _ _ | .mnorm .., _ => execMnorm_keeps _ _ _ _ _ _ | .mmul .., _ => execMmul_keeps _ _ _ _ _ _
  | .msqr .., _ => execMsqr_keeps _ _ _ _ _ | .minv .., _ => execMinv_keeps _ _ _ _ _ | .mexp .., _ => execMexp_keeps _ _ _ _ _ _ _
  | .mset .., _ => execMset_keeps _ _ _ _ _ | .mchk .., _ => execMchk_keeps _ _ _ _ _ | .msel .., _ => execMsel_keeps _ _ _ _ _ _ _
  | .mscan .., _ => execMscan_keeps _ _ _ _ _ _ _ | .meq .., _ => execMeq_keeps _ _ _ _ _ _ | .lset .., _ => execLset_keeps _ _ _ _ _
  | .ntt .., _ => execNtt_keeps _ _ _ _ _ _ | .intt .., _ => execIntt_keeps _ _ _ _ _ _ | .pmul .., _ => execPmul_keeps _ _ _ _ _ _ _
  | .padd .., _ => execPadd_keeps _ _ _ _ _ _ | .psub .., _ => execPsub_keeps _ _ _ _ _ _ | .pnorm .., _ => execPnorm_keeps _ _ _ _ _ _
  | .psplit .., _ => execPsplit_keeps _ _ _ _ _ _ | .phint .., _ => execPhint_keeps _ _ _ _ _ _ _ | .pcomp .., _ => execPcomp_keeps _ _ _ _ _ _
  | .pdecomp .., _ => execPdecomp_keeps _ _ _ _ _ _ | .pack .., _ => execPack_keeps _ _ _ _ _ _ _ _
  | .unpack .., _ => execUnpack_keeps _ _ _ _ _ _ _ _ | .prej .., _ => execPrej_keeps _ _ _ _ _ _ _ _ | .pcbd .., _ => execPcbd_keeps _ _ _ _ _ _
  | .pconv .., _ => execPconv_keeps _ _ _ _ _ _ _ | .nseta .., _ => execNseta_keeps _ _ _ _ _ | .nsetl .., _ => execNsetl_keeps _ _ _ _
  | .nldh .., _ => execNldh_keeps _ _ _ _ _ _ _ | .nsth .., _ => execNsth_keeps _ _ _ _ _ _ _ | .nldf .., _ => execNldf_keeps _ _ _ _ _
  | .nstf .., _ => execNstf_keeps _ _ _ _ _ | .nstat .., _ => execNstat_keeps _ _ _ _ | .ninc .., _ => execNinc_keeps _ _ _ _ _
  | .klane .., _ => execKlane_keeps _ _ _ _ _ | .kgh .., _ => execKgh_keeps _ _ _ _ | .kxt .., _ => execKxt_keeps _ _ _ _
  | .knu .., _ => execKnu_keeps _ _ _ _ _ | .rndf .., _ => execRndf_keeps _ _ _ | .rndn .., _ => execRndn_keeps _ _ _ _
  | .auth .., _ => execAuth_keeps _ _ _ | .res .., _ => execRes_keeps _ _ _ _ | .hrel .., _ => execHrel_keeps _ _ _ _
  | .resultLanding .., _ => execResultLanding_keeps _ _ | .measureBoundary .., _ => execMeasureBoundary_keeps _
  | .sqTail .., _ => execSqTail_keeps _ _ _ _ | .cqHead .., _ => execCqHead_keeps _ _ _ _ | .pushWrite .., _ => execPushWrite_keeps _ _ _ _ _ _ _
  | .commandFetch .., _ => execCommandFetch_keeps _ _ _ _ _ | .ingressAdmit .., _ => execIngressAdmit_keeps _ _
  | .keyCacheLoadDone .., _ => execKeyCacheLoadDone_keeps _ _ | .stagingDmaDone .., _ => execStagingDmaDone_keeps _ _ _
  | .pageDrainDone .., _ => execPageDrainDone_keeps _ _ | .completionWrite .., _ => execCompletionWrite_keeps _ _ _
  | .msixModerationTimer .., _ => execMsixModerationTimer_keeps _ _ _ | .run .., _ => execRun_keeps _ _ | .abort .., _ => execAbort_keeps _ _
  | .keyGenerate .., _ => execKeyGenerate_keeps _ _ _ | .keyDerive .., _ => execKeyDerive_keeps _ _ _
  | .keyRestrict .., _ => execKeyRestrict_keeps _ _ _ | .keyInfo .., _ => execKeyInfo_keeps _ _ | .keyDestroy .., _ => execKeyDestroy_keeps _ _ _
  | .keyExport .., _ => execKeyExport_keeps _ _ _ | .keyImport .., _ => execKeyImport_keeps _ _ _ | .attest .., _ => execAttest_keeps _ _ _
  | .journalRead .., _ => execJournalRead_keeps _ _ | .journalAck .., _ => execJournalAck_keeps _ _ | .ballotOpen .., _ => execBallotOpen_keeps _ _ _
  | .ballotSign .., _ => execBallotSign_keeps _ _ _ | .ballotClose .., _ => execBallotClose_keeps _ _
  | .commissionBegin .., _ => execCommissionBegin_keeps _ _ _ | .domainCreate .., _ => execDomainCreate_keeps _ _ _ _
  | .domainDestroy .., _ => execDomainDestroy_keeps _ _ _ | .domainSuspend .., _ => execDomainSuspend_keeps _ _ _
  | .domainResume .., _ => execDomainResume_keeps _ _ _ | .officerChange .., _ => execOfficerChange_keeps _ _ _ _
  | .figureSigner .., _ => execFigureSigner_keeps _ _ _ | .leadTakeover .., _ => execLeadTakeover_keeps _ _ _
  | .journalClear .., _ => execJournalClear_keeps _ _ _ | .vaultReset .., _ => execVaultReset_keeps _ _ _
  | .migrationFreeze .., _ => execMigrationFreeze_keeps _ _ _ | .replication .., _ => execReplication_keeps _ _ _
  | .firmwareStage .., _ => execFirmwareStage_keeps _ _ _ | .firmwareActivate .., _ => execFirmwareActivate_keeps _ _ _
  | .debugAuthorise .., _ => execDebugAuthorise_keeps _ _ _ _ | .rawEntropy .., _ => execRawEntropy_keeps _ _ _
  | .rawRead .., _ => execRawRead_keeps _ _ | .cellWindow .., _ => execCellWindow_keeps _ _ _ | .vaultCommit .., _ => execVaultCommit_keeps _ _
  | .vaultStored .., _ => execVaultStored_keeps _ _ | .vaultLoad .., _ => execVaultLoad_keeps _ _ _ | .figurePin .., _ => execFigurePin_keeps _ _ _
  | .figureUnpin .., _ => execFigureUnpin_keeps _ _ | .funcCreate .., _ => execFuncCreate_keeps _ _ _
  | .funcChange .., _ => execFuncChange_keeps _ _ _ | .vfDestroy .., _ => execVfDestroy_keeps _ _ | .vfFreeze .., _ => execVfFreeze_keeps _ _
  | .vfThaw .., _ => execVfThaw_keeps _ _ | .migTicket .., _ => execMigTicket_keeps _ _ | .vfSave .., _ => execVfSave_keeps _ _ _
  | .vfRestore .., _ => execVfRestore_keeps _ _ _ | .queueMark .., _ => execQueueMark_keeps _ _ | .migrationThaw .., _ => execMigrationThaw_keeps _ _
  | .portVfAlloc .., _ => execPortVfAlloc_keeps _ _ | .warmReset .., _ => execWarmReset_keeps _ _
  | .queueEnable .., _ => execQueueEnable_keeps _ _ _ _ | .queueDisable .., _ => execQueueDisable_keeps _ _ _ _
  | .flrReportPop .., _ => execFlrReportPop_keeps _ _ | .hostMisalignedAccess .., _ => execHostMisalignedAccess_keeps _ _
  | .registerSet .., _ => execRegisterSet_keeps _ _ _ | .latchedRead .., _ => execLatchedRead_keeps _ _ | .vfFlr .., _ => execVfFlr_keeps _ _
  | .pfFlr .., _ => execPfFlr_keeps _ _ | .perstAssert .., _ => execPerstAssert_keeps _ _ | .perstRelease .., _ => execPerstRelease_keeps _ _
  | .hotReset .., _ => execHotReset_keeps _ _ | .linkDown .., _ => execLinkDown_keeps _ _ | .getVersion .., _ => execGetVersion_keeps _ _ _
  | .getCapabilities .., _ => execGetCapabilities_keeps _ _ _ | .negotiateAlgorithms .., _ => execNegotiateAlgorithms_keeps _ _ _
  | .getDigests .., _ => execGetDigests_keeps _ _ _ | .getCertificate .., _ => execGetCertificate_keeps _ _ _
  | .challenge .., _ => execChallenge_keeps _ _ _ | .getMeasurements .., _ => execGetMeasurements_keeps _ _ _
  | .keyExchange .., _ => execKeyExchange_keeps _ _ _ | .finish .., _ => execFinish_keeps _ _ _ | .closeSession .., _ => execCloseSession_keeps _ _ _
  | .keyUpdate .., _ => execKeyUpdate_keeps _ _ _ | .heartbeat .., _ => execHeartbeat_keeps _ _ _ | .ideKm .., _ => execIdeKm_keeps _ _ _
  | .doeDiscovery .., _ => execDoeDiscovery_keeps _ _ _ | .mctpSpdmRelay .., _ => execMctpSpdmRelay_keeps _ _
  | .mctpControl .., _ => execMctpControl_keeps _ _ | .pldmPlatformMonitoring .., _ => execPldmPlatformMonitoring_keeps _ _
  | .requestFirmwareData .., _ => execRequestFirmwareData_keeps _ _ | .activateFirmware .., _ => execActivateFirmware_keeps _ _
  | .ptpEventMessage .., _ => execPtpEventMessage_keeps _ _ | .floorCommit .., _ => execFloorCommit_keeps _
  | .laneGroupTest .., _ => execLaneGroupTest_keeps _ _ _ | .laneReinstate .., _ => execLaneReinstate_keeps _ _ _
  | .laneRetire .., _ => execLaneRetire_keeps _ _ _ | .spareTest .., _ => execSpareTest_keeps _ _
  | .laneActionDone .., _ => execLaneActionDone_keeps _ _ _ | .duTest .., _ => execDuTest_keeps _ _ | .duReinstate .., _ => execDuReinstate_keeps _ _
  | .duRetire .., _ => execDuRetire_keeps _ _ | .duActionDone .., _ => execDuActionDone_keeps _ _ _ | .nuTest .., _ => execNuTest_keeps _ _
  | .nuReinstate .., _ => execNuReinstate_keeps _ _ | .nuRetire .., _ => execNuRetire_keeps _ _ | .nuActionDone .., _ => execNuActionDone_keeps _ _ _
  | .bootTapArm .., _ => execBootTapArm_keeps _ | .bootTapClose .., _ => execBootTapClose_keeps _ _ _ | .measxGo .., _ => execMeasxGo_keeps _ _ _
  | .measExtension .., _ => execMeasExtension_keeps _ | .reseed .., _ => execReseed_keeps _ | .retire .., _ => execRetire_keeps _ _
  | .rawCtlGo .., _ => execRawCtlGo_keeps _ _ _ _ _ | .rawCtlClose .., _ => execRawCtlClose_keeps _ _
  | .rawCaptureEnd .., _ => execRawCaptureEnd_keeps _ _ | .entropyBlockComplete .., _ => execEntropyBlockComplete_keeps _ _ _
  | .startupTestEnd .., _ => execStartupTestEnd_keeps _ _ _ | .conditionedOutputReady .., _ => execConditionedOutputReady_keeps _
  | .drbgGenerateServe .., _ => execDrbgGenerateServe_keeps _ | .drbgReseedServe .., _ => execDrbgReseedServe_keeps _
  | .drbgInstantiate .., _ => execDrbgInstantiate_keeps _ _ | .expanderReseed .., _ => execExpanderReseed_keeps _ _
  | .expanderStale .., _ => execExpanderStale_keeps _ _ | .ksOpGenerate .., _ => execKsOpGenerate_keeps _ _ _
  | .ksOpDerive .., _ => execKsOpDerive_keeps _ _ _ | .ksOpRestrict .., _ => execKsOpRestrict_keeps _ _ _
  | .ksOpInfo .., _ => execKsOpInfo_keeps _ _ _ | .ksOpDestroy .., _ => execKsOpDestroy_keeps _ _ _ | .ksOpExport .., _ => execKsOpExport_keeps _ _ _
  | .ksOpImport .., _ => execKsOpImport_keeps _ _ _ | .ksOpCommit .., _ => execKsOpCommit_keeps _ _ _ | .ksOpLoad .., _ => execKsOpLoad_keeps _ _ _
  | .ksOpVaultReset .., _ => execKsOpVaultReset_keeps _ _ _ | .domainDestructionStep .., _ => execDomainDestructionStep_keeps _ _
  | .jrecSubmit .., _ => execJrecSubmit_keeps _ _ _ _ | .journalAgeTimer .., _ => execJournalAgeTimer_keeps _
  | .journalFlushDone .., _ => execJournalFlushDone_keeps _ | .potEntryWrite .., _ => execPotEntryWrite_keeps _ _ _ _
  | .potSyncSet .., _ => execPotSyncSet_keeps _ | .potBackSet .., _ => execPotBackSet_keeps _ _ _
  | .regionSet .., _ => execRegionSet_keeps _ _ _ _ _ _ | .violPop .., _ => execViolPop_keeps _
  | .memVaultBaseSet .., _ => execMemVaultBaseSet_keeps _ _ _ _ | .lineWrite .., _ => execLineWrite_keeps _ _
  | .ddrTrainingDone .., _ => execDdrTrainingDone_keeps _ _ | .dramZqCalibration .., _ => execDramZqCalibration_keeps _
  | .sealedFillPage .., _ => execSealedFillPage_keeps _ | .vaultFillDone .., _ => execVaultFillDone_keeps _
  | .patrolScrub .., _ => execPatrolScrub_keeps _ _ _ | .alarmAck .., _ => execAlarmAck_keeps _ _ _ | .winClose .., _ => execWinClose_keeps _ _
  | .windowDurationExpiry .., _ => execWindowDurationExpiry_keeps _ | .cellReadSerial .., _ => execCellReadSerial_keeps _ _
  | .cellChallenge .., _ => execCellChallenge_keeps _ _ | .cellAccept .., _ => execCellAccept_keeps _ _
  | .cellReject .., _ => execCellReject_keeps _ _ | .cellCmdDone .., _ => execCellCmdDone_keeps _ _
  | .tamperConfigSet .., _ => execTamperConfigSet_keeps _ _ _ _ | .tamperSample .., _ => execTamperSample_keeps _ _
  | .vbatCritTrip .., _ => execVbatCritTrip_keeps _ | .cellIdentityCheck .., _ => execCellIdentityCheck_keeps _ _ _
  | .cellHour .., _ => execCellHour_keeps _ _ | .tickStuck .., _ => execTickStuck_keeps _ | .mainZeroizedEntry .., _ => execMainZeroizedEntry_keeps _
  | .tamperPowerSwitch .., _ => execTamperPowerSwitch_keeps _ _ | .tamperDomainLoss .., _ => execTamperDomainLoss_keeps _
  | .claim .., _ => execClaim_keeps _ _ | .releaseLead .., _ => execReleaseLead_keeps _ _ | .acquire .., _ => execAcquire_keeps _ _ _
  | .tokenRelease .., _ => execTokenRelease_keeps _ _ _ | .ballotExpiry .., _ => execBallotExpiry_keeps _ _
  | .migTicketLapse .., _ => execMigTicketLapse_keeps _ _ | .stagingSessionTimeout .., _ => execStagingSessionTimeout_keeps _
  | .debugSessionExpiry .., _ => execDebugSessionExpiry_keeps _ | .jtagIdcode .., _ => execJtagIdcode_keeps _
  | .jtagSamplePreload .., _ => execJtagSamplePreload_keeps _ _ | .jtagExtest .., _ => execJtagExtest_keeps _
  | .jtagClamp .., _ => execJtagClamp_keeps _ | .jtagHighz .., _ => execJtagHighz_keeps _ | .jtagNonceRead .., _ => execJtagNonceRead_keeps _
  | .jtagDebugPort .., _ => execJtagDebugPort_keeps _ | .jtagBypass .., _ => execJtagBypass_keeps _ | .debugHalt .., _ => execDebugHalt_keeps _ _
  | .debugSingleStep .., _ => execDebugSingleStep_keeps _ _ | .debugResume .., _ => execDebugResume_keeps _ _
  | .debugAccess .., _ => execDebugAccess_keeps _ _ _ _ | .hello .., _ => execHello_keeps _ _ _ | .joinMessage .., _ => execJoinMessage_keeps _ _ _
  | .pair .., _ => execPair_keeps _ _ _ | .roster .., _ => execRoster_keeps _ _ _ | .ack .., _ => execAck_keeps _ _ _
  | .statement .., _ => execStatement_keeps _ _ _ | .replica .., _ => execReplica_keeps _ _ _ | .resync .., _ => execResync_keeps _ _ _
  | .helloTimer .., _ => execHelloTimer_keeps _ | .pathTimeout .., _ => execPathTimeout_keeps _ _ _
  | .messageRetryTimer .., _ => execMessageRetryTimer_keeps _ _ | .pcsLockLoss .., _ => execPcsLockLoss_keeps _ _
  | .linkRekeyTimer .., _ => execLinkRekeyTimer_keeps _ _ | .plxJoin .., _ => execPlxJoin_keeps _ _ | .admitJoiner .., _ => execAdmitJoiner_keeps _ _
  | .refuseJoiner .., _ => execRefuseJoiner_keeps _ _ | .leave .., _ => execLeave_keeps _ _
  | .joinCallerTimeout .., _ => execJoinCallerTimeout_keeps _ | .joinAdmitTimeout .., _ => execJoinAdmitTimeout_keeps _
  | .mcRun .., _ => execMcRun_keeps _ | .mcReset .., _ => execMcReset_keeps _ | .mcWdogExpiry .., _ => execMcWdogExpiry_keeps _
  | .wdogKick .., _ => execWdogKick_keeps _ | .monitorSample .., _ => execMonitorSample_keeps _ _ _ | .hlogAppend .., _ => execHlogAppend_keeps _
  | .hlogErase .., _ => execHlogErase_keeps _ _ | .stageCmdGo .., _ => execStageCmdGo_keeps _ | .timeRateSet .., _ => execTimeRateSet_keeps _ _
  | .timeStep .., _ => execTimeStep_keeps _ _ | .timeSet .., _ => execTimeSet_keeps _ _ | .timeLockSet .., _ => execTimeLockSet_keeps _ _
  | .holdoverTimer .., _ => execHoldoverTimer_keeps _ | .freerunTimer .., _ => execFreerunTimer_keeps _ | .ppsInEdge .., _ => execPpsInEdge_keeps _
  | .ppsInLost .., _ => execPpsInLost_keeps _ | .ppsOutPulse .., _ => execPpsOutPulse_keeps _ | .rstCtlWarm .., _ => execRstCtlWarm_keeps _
  | .rstCtlFault .., _ => execRstCtlFault_keeps _ | .sc1Run .., _ => execSc1Run_keeps _ | .scWdogKick .., _ => execScWdogKick_keeps _
  | .scWdogHalf .., _ => execScWdogHalf_keeps _ | .scWdogExpiry .., _ => execScWdogExpiry_keeps _ | .blockRstGo .., _ => execBlockRstGo_keeps _ _ _
  | .blockResetDone .., _ => execBlockResetDone_keeps _ | .wakeReq .., _ => execWakeReq_keeps _ | .intDoor .., _ => execIntDoor_keeps _ _
  | .sleepEntry .., _ => execSleepEntry_keeps _ | .sleepWake .., _ => execSleepWake_keeps _ _ | .supplyPor .., _ => execSupplyPor_keeps _
  | .resetNAssert .., _ => execResetNAssert_keeps _ | .warmNAssert .., _ => execWarmNAssert_keeps _
  | .resetSourceRelease .., _ => execResetSourceRelease_keeps _ _ | .fuseLoadDone .., _ => execFuseLoadDone_keeps _ _ _ _
  | .secureBootEnd .., _ => execSecureBootEnd_keeps _ _ _ | .warmResetApply .., _ => execWarmResetApply_keeps _
  | .warmResetRelease .., _ => execWarmResetRelease_keeps _ | .pwrFailFall .., _ => execPwrFailFall_keeps _
  | .powerFailHold .., _ => execPowerFailHold_keeps _ | .pwrFailRise .., _ => execPwrFailRise_keeps _
  | .figureLoadDone .., _ => execFigureLoadDone_keeps _ _ | .illegalInstruction .., _ => execIllegalInstruction_keeps _ _ _
  | .cycleCountWrap .., _ => execCycleCountWrap_keeps _ _ | .maskExpanderAllotment .., _ => execMaskExpanderAllotment_keeps _ _ _
  | .pcsLockAcquired .., _ => execPcsLockAcquired_keeps _ _ | .pelouxFrameDiscard .., _ => execPelouxFrameDiscard_keeps _ _
  | .linkUp .., _ => execLinkUp_keeps _ _ | .l1Entry .., _ => execL1Entry_keeps _ _ | .configSpaceSet .., _ => execConfigSpaceSet_keeps _ _
  | .mgmtEthernetFrame .., _ => execMgmtEthernetFrame_keeps _ _ | .flashDone .., _ => execFlashDone_keeps _ | .ksOpDone .., _ => execKsOpDone_keeps _

theorem exec_pending_wf {i : Instr} {s t : State} (h : exec i s = .next t) : t.pending = s.pending ∧ (s.mem.wf = true → t.mem.wf = true) := by
  by_cases hi : Burns i
  · exact burns_pending_wf hi h
  · obtain ⟨hp, -, hm⟩ := exec_keeps s i hi t h
    exact ⟨hp, hm⟩

theorem exec_otp {i : Instr} {s t : State} (hs : s.otp.comm ≤ 32) (h : exec i s = .next t) : OtpGrows s.otp t.otp := by
  by_cases hi : Burns i
  · exact burns_otp hi hs h
  · rw [(exec_keeps s i hi t h).2.1]
    exact otpGrows_refl hs

/-! ### The statements -/

/-- Settles O58: every meaning answers a next state and leaves the queue alone; a step has taken the front off it. -/
theorem everyCommandCompletes : Obligations.EveryCommandCompletes := by
  refine ⟨fun i s => ?_, fun s => ?_⟩
  · obtain ⟨t, h⟩ := exec_completes i s
    exact ⟨t, h, (exec_pending_wf h).1⟩
  · obtain ⟨t, h⟩ := step_completes s
    refine ⟨t, h, ?_⟩
    unfold step at h
    split at h <;> rename_i hp
    · cases h
      rw [(idle_keep s).1, hp]
      rfl
    · rw [(exec_pending_wf h).1, hp]
      rfl

/-- Settles O59: an idle cycle leaves memory alone, and every meaning keeps it canonical. -/
theorem memoryStaysCanonical : Obligations.MemoryStaysCanonical := by
  intro s t hs h
  unfold step at h
  split at h
  · cases h
    rw [(idle_keep s).2.2]
    exact hs
  · exact (exec_pending_wf h).2 hs

/-- Settles O60: an idle cycle leaves OTP alone, and a command changes it only where it burns. -/
theorem otpOnlyGrows : Obligations.OtpOnlyGrows := by
  refine ⟨fun s t hs h => ?_, fun i s t h ho => ?_⟩
  · unfold step at h
    split at h
    · cases h
      rw [(idle_keep s).2.1]
      exact otpGrows_refl hs
    · have ho := exec_otp (by exact hs) h
      exact ho
  · by_contra hi
    exact ho (exec_keeps s i hi t h).2.1

end Sys2Proof.Machine
end

section
/-! SUPPORT. How an instruction of a controller ends, one lemma for each way (R59 to R66, R74 to R79), and the statements on branches, illegal forms and
hardware loops from these. -/
namespace Sys2Proof.Machine

/-! ### The ways an instruction ends -/

section ends
variable {i : Instr} {s : State} {c : CtlId} {iss : Issue} {op : State → Ran}

/-- A condition of Table 3.7 stands before the operation. -/
theorem traps_of_issueFault {vec code : Nat} (h : Executes s c) (hi : exec i s = done (ctlIssue s c iss op))
    (hf : issueFault { s.ctl c with waiting := false } iss = some (vec, code)) (hd : (s.ctl c).cur.depth < 2) :
    Traps i s c (s.ctl c) vec code 0 :=
  ⟨_, by rw [hi, ctlIssue_traps h iss op hf]; rfl, trapped_of _ _ _ _ _ _ (.inl (fetched_ctl s c)) hd⟩

/-- An illegal encoding (R38). -/
theorem traps_illegal (h : Executes s c) (hi : exec i s = done (ctlIssue s c iss op)) (hl : iss.illegal = true) (hd : (s.ctl c).cur.depth < 2) :
    Traps i s c (s.ctl c) 4 0 0 :=
  traps_of_issueFault h hi (by simp [issueFault, hl]) hd

/-- A legal encoding without the level or world that it needs. -/
theorem traps_privilege (h : Executes s c) (hi : exec i s = done (ctlIssue s c iss op)) (hl : iss.illegal = false) (hp : iss.privilege = true)
    (hd : (s.ctl c).cur.depth < 2) : Traps i s c (s.ctl c) 5 0 0 :=
  traps_of_issueFault h hi (by simp [issueFault, hl, hp]) hd

/-- An instruction of R63's list in a delay slot. -/
theorem traps_in_slot {b : BranchPend} (h : Executes s c) (hi : exec i s = done (ctlIssue s c iss op)) (hl : iss.illegal = false)
    (hp : iss.privilege = false) (ht : iss.transfer = true) (hb : (s.ctl c).branch = some b) (hd : (s.ctl c).cur.depth < 2) :
    Traps i s c (s.ctl c) 6 0 0 :=
  traps_of_issueFault h hi (by simp [issueFault, hl, hp, ht, hb]) hd

/-- Nothing of Table 3.7 stands before a permitted instruction; one of R63's list must be where a transfer may be. -/
theorem issueFault_none {k : Ctl} (hl : iss.illegal = false) (hp : iss.privilege = false) (hc : iss.loopCause = 0)
    (ht : iss.transfer = true → MayTransfer k) : issueFault { k with waiting := false } iss = none := by
  have ha : iss.transfer = true → atLoopEnd { k with waiting := false } = false := fun e => (ht e).2
  have hb : iss.transfer = true → k.branch = none := fun e => (ht e).1
  cases e : iss.transfer <;> simp_all [issueFault]

/-- The operation raises an exception from the controller that it leaves. -/
theorem traps_of_raises {k : Ctl} {vec code eaddr : Nat} (h : Executes s c) (hi : exec i s = done (ctlIssue s c iss op))
    (hf : issueFault { s.ctl c with waiting := false } iss = none)
    (hop : op (fetched s c) = .raises ((fetched s c).setCtl c { k with waiting := false }) vec code eaddr) (hd : k.cur.depth < 2) :
    Traps i s c k vec code eaddr := by
  obtain ⟨hpc, hworld, hother, hrest⟩ := trapped_of ((fetched s c).setCtl c { k with waiting := false }) k c vec code eaddr
    (.inl (State.ctl_setCtl _ c _)) hd
  rw [State.setCtl_setCtl] at hrest
  exact ⟨_, by rw [hi, ctlIssue_ends h iss op hf, hop]; rfl, hpc, hworld, hother, hrest⟩

/-- The operation raises an exception and has changed nothing. -/
theorem traps_of_raises_unchanged {vec code eaddr : Nat} (h : Executes s c) (hi : exec i s = done (ctlIssue s c iss op))
    (hf : issueFault { s.ctl c with waiting := false } iss = none) (hop : op (fetched s c) = .raises (fetched s c) vec code eaddr)
    (hd : (s.ctl c).cur.depth < 2) : Traps i s c (s.ctl c) vec code eaddr :=
  traps_of_raises h hi hf (by rw [hop, ← fetched_ctl, State.setCtl_ctl]) hd

/-- The operation decides a branch (R59). -/
theorem delays_of_ctlIssue {dest : DWord} {link : Bool} (h : Executes s c) (hi : exec i s = done (ctlIssue s c iss op))
    (hf : issueFault { s.ctl c with waiting := false } iss = none) (hop : op (fetched s c) = .delayed (fetched s c) dest link) :
    Delays i s c iss.cycles dest link := by
  refine ⟨_, by rw [hi, ctlIssue_ends h iss op hf, hop]; rfl, ?_⟩
  simp only [Delayed, ctlEnds, State.onCtl, fetched_ctl]
  rfl

/-- The operation moves control at once, from the controller that its own effect leaves. -/
theorem moves_of_ctlIssue {k : Ctl} {dest : DWord} {sh : Option Nat} (h : Executes s c) (hi : exec i s = done (ctlIssue s c iss op))
    (hf : issueFault { s.ctl c with waiting := false } iss = none)
    (hop : op (fetched s c) = .goes ((fetched s c).setCtl c { k with waiting := false }) dest sh) :
    Moves i s c k iss.cycles dest (sh.getD (k.shadow - 1)) := by
  refine ⟨_, by rw [hi, ctlIssue_ends h iss op hf, hop]; rfl, ?_⟩
  simp only [Moved, ctlEnds, State.onCtl, State.ctl_setCtl, State.setCtl_setCtl]
  rfl

end ends

/-! ### Branches, jumps and calls (R36, R59, R60) -/

theorem branchTarget_eq {w : Nat} (pc : DWord) (disp : BitVec w) : branchTarget pc disp = pc + BitVec.ofInt 36 (2 * disp.toInt) := by
  rw [branchTarget, BitVec.ofInt_mul]
  rfl

/-- A compare-and-branch decides by its condition on the two registers. -/
theorem delays_compareBranch {i : Instr} {s : State} {c : CtlId} {ra rb : Fin 32} {disp : Word} {cond : Word → Word → Bool} {taken : Bool}
    (h : Executes s c) (hm : MayTransfer (s.ctl c)) (hi : exec i s = done (compareBranch c ra rb disp cond s))
    (hc : cond ((s.ctl c).reg ra) ((s.ctl c).reg rb) = taken) :
    Delays i s c 1 (if taken then (s.ctl c).pc + BitVec.ofInt 36 (2 * disp.toInt) else (s.ctl c).pc + 4) false := by
  refine delays_of_ctlIssue h hi (issueFault_none rfl rfl rfl fun _ => hm) ?_
  rw [fetched_ctl, ← branchTarget_eq, ← hc]
  rfl

/-- JR and CALLR go to their pair where it is even. -/
theorem delays_jumpPair {i : Instr} {s : State} {c : CtlId} {ra : Fin 32} {link : Bool} (h : Executes s c) (hm : MayTransfer (s.ctl c))
    (hi : exec i s = done (jumpPair c ra link s)) (hr : ra.val % 2 = 0) (he : ((s.ctl c).pair ra).toNat % 2 = 0) :
    Delays i s c 2 ((s.ctl c).pair ra) link := by
  refine delays_of_ctlIssue h hi (issueFault_none (by simp [Issue.jump, evenReg, hr]) rfl rfl fun _ => hm) ?_
  rw [fetched_ctl]
  exact if_neg (by rw [show Ctl.pair { s.ctl c with waiting := false } ra = (s.ctl c).pair ra from rfl]; omega)

/-- JR and CALLR of an odd pair raise Alignment at the jump (R62). -/
theorem traps_jumpPair_odd {i : Instr} {s : State} {c : CtlId} {ra : Fin 32} {link : Bool} (h : Executes s c) (hm : MayTransfer (s.ctl c))
    (hi : exec i s = done (jumpPair c ra link s)) (hr : ra.val % 2 = 0) (ho : ((s.ctl c).pair ra).toNat % 2 = 1) (hd : (s.ctl c).cur.depth < 2) :
    Traps i s c (s.ctl c) 9 1 ((s.ctl c).pair ra).toNat := by
  refine traps_of_raises_unchanged h hi (issueFault_none (by simp [Issue.jump, evenReg, hr]) rfl rfl fun _ => hm) ?_ hd
  rw [fetched_ctl]
  exact if_pos ho

/-- Settles O5: each is a decision of `ctlIssue`'s delayed kind, by its condition and target. -/
theorem controllerBranches : Obligations.ControllerBranches := by
  intro s c h hm
  refine ⟨fun ra rb disp => ?_, fun disp => ?_, fun ra hr => ⟨fun he => ?_, fun ho hd i hi => ?_⟩⟩
  · refine ⟨?_, ?_, ?_, ?_, ?_, ?_, fun cond => ?_⟩
    · exact delays_compareBranch h hm rfl (by simp [beq_eq_decide])
    · exact delays_compareBranch h hm rfl (by simp [bne, beq_eq_decide])
    · exact delays_compareBranch h hm rfl (by simp [BitVec.slt])
    · exact delays_compareBranch h hm rfl (by rw [BitVec.slt, ← decide_not]; exact decide_eq_decide.mpr not_lt)
    · exact delays_compareBranch h hm rfl (by simp [BitVec.ult])
    · exact delays_compareBranch h hm rfl (by rw [BitVec.ult, ← decide_not]; exact decide_eq_decide.mpr not_lt)
    · refine delays_of_ctlIssue (iss := .jump 1 false) h rfl (issueFault_none rfl rfl rfl fun _ => hm) ?_
      rw [fetched_ctl, ← branchTarget_eq]
      rfl
  · rw [← branchTarget_eq]
    constructor <;>
    · refine delays_of_ctlIssue (iss := .jump 1 false) h rfl (issueFault_none rfl rfl rfl fun _ => hm) ?_
      rw [fetched_ctl]
  · exact ⟨delays_jumpPair h hm rfl hr he, delays_jumpPair h hm rfl hr he⟩
  · rcases hi with rfl | rfl
    · exact traps_jumpPair_odd h hm rfl hr ho hd
    · exact traps_jumpPair_odd h hm rfl hr ho hd

/-! ### Illegal forms and delay slots (R32, R34, R38, R52, R63) -/

theorem evenReg_of_odd {r : Nat} (h : r % 2 = 1) : evenReg r = false := by simp [evenReg, h]

theorem cregPrivilege_waiting (c : CtlId) (k : Ctl) (n : Nat) (w : Bool) : cregPrivilege c { k with waiting := false } n w = cregPrivilege c k n w := rfl

/-- An odd place of a pair makes each of these illegal. -/
theorem traps_odd {s : State} {c : CtlId} (h : Executes s c) (hd : (s.ctl c).cur.depth < 2) (i : Instr) (o e r : Fin 32) (imm : Word) (n : Bool)
    (ho : o.val % 2 = 1) (hi : i ∈ ([.mul (.ctl c) o e r, .mulu (.ctl c) o e r,
        .div c o e r, .divu c o e r, .movd (.ctl c) o e, .movd (.ctl c) e o, .addd (.ctl c) o e r, .addd (.ctl c) e o r, .addd (.ctl c) e r o,
        .subd (.ctl c) o e r, .subd (.ctl c) e o r, .subd (.ctl c) e r o, .lea (.ctl c) o e imm, .lea (.ctl c) e o imm,
        .jr c o, .callr c o, .ld (.ctl c) r o imm, .st (.ctl c) r o imm, .ldd (.ctl c) o e imm, .ldd (.ctl c) e o imm,
        .std (.ctl c) o e imm, .std (.ctl c) e o imm, .ldo c r o n imm, .sto c r o n imm] : List Instr)) : Traps i s c (s.ctl c) 4 0 0 := by
  have he := evenReg_of_odd ho
  simp only [List.mem_cons, List.not_mem_nil, or_false] at hi
  rcases hi with rfl | rfl | rfl | rfl | rfl | rfl | rfl | rfl | rfl | rfl | rfl | rfl | rfl | rfl | rfl | rfl | rfl | rfl | rfl | rfl | rfl |
    rfl | rfl | rfl <;> exact traps_illegal h rfl (by simp [Issue.plain, Issue.jump, he]) hd

/-- Settles O6: an illegal encoding stands before everything else, and a transfer in a delay slot before its own operation. -/
theorem illegalFormsAndSlots : Obligations.IllegalFormsAndSlots := by
  refine ⟨fun s c h hd => ⟨fun w hw => ?_, fun i o e r imm n ho hi => traps_odd h hd i o e r imm n ho hi, fun r code hc => ?_, fun rd ra rb n => ?_,
    fun lvl count => ?_, fun h0 => ?_⟩, fun s c b h hd hb => ⟨fun ra rb disp => ?_, fun disp => ?_, fun ra hr => ?_, fun lvl count len hl => ?_, fun code => ?_,
    fun hp => ?_, fun hp code => ?_, fun rd ra rb n => ?_⟩⟩
  · refine traps_illegal (iss := .plain 1 true) (op := .ok) h ?_ rfl hd
    exact congrArg done (if_neg (by simp [hw]))
  · exact ⟨traps_illegal h rfl (by simp [hc]) hd, traps_illegal h rfl (by simp [hc]) hd⟩
  · exact ⟨fun e => traps_illegal h rfl (by simp [Issue.jump, e]) hd, fun e => traps_illegal h rfl (by simp [Issue.jump, e]) hd⟩
  · exact traps_illegal h rfl rfl hd
  · exact traps_illegal h rfl (by simp [h0]) hd
  · refine ⟨?_, ?_, ?_, ?_, ?_, ?_, fun cond => ?_⟩ <;> exact traps_in_slot h rfl rfl rfl rfl hb hd
  · exact ⟨traps_in_slot h rfl rfl rfl rfl hb hd, traps_in_slot h rfl rfl rfl rfl hb hd⟩
  · have he := evenReg_of hr
    exact ⟨traps_in_slot h rfl (by simp [Issue.jump, he]) rfl rfl hb hd, traps_in_slot h rfl (by simp [Issue.jump, he]) rfl rfl hb hd⟩
  · exact traps_in_slot h rfl (decide_eq_false hl) rfl rfl hb hd
  · exact ⟨traps_in_slot h rfl rfl rfl rfl hb hd, traps_in_slot h rfl rfl rfl rfl hb hd⟩
  · exact ⟨fun h0 => traps_in_slot h rfl (decide_eq_false (by omega)) (by simp [hp]) rfl hb hd, traps_in_slot h rfl rfl (by simp [hp]) rfl hb hd⟩
  · exact traps_in_slot h rfl rfl hp rfl hb hd
  · exact ⟨fun e => traps_in_slot h rfl (by simp [Issue.jump, e]) rfl rfl hb hd, fun e => traps_in_slot h rfl (by simp [Issue.jump, e]) rfl rfl hb hd⟩

/-! ### Hardware loops (R64 to R66) -/

/-- A level that the instruction at `pc` does not end, in the words of R66. -/
theorem loopLevel_elsewhere {l : LoopLevel} {pc : DWord} (n : DWord) (h : ¬ (l.act = true ∧ pc = l.fin)) : loopLevel l pc n = (l, none, false) := if_neg h

theorem loopLevel_repeats {l : LoopLevel} {pc : DWord} (n : DWord) (h : l.act = true ∧ pc = l.fin) (hc : 1 < l.cnt.toNat) :
    loopLevel l pc n = ({ l with cnt := l.cnt - 1 }, some l.sta, true) := by
  rw [loopLevel, if_pos h, if_pos hc]

theorem loopLevel_ends {l : LoopLevel} {pc : DWord} (n : DWord) (h : l.act = true ∧ pc = l.fin) (hc : l.cnt.toNat ≤ 1) :
    loopLevel l pc n = ({ l with cnt := 0, act := false }, some (pc + n), false) := by
  rw [loopLevel, if_pos h, if_neg (by omega), h.2]

/-- Level 1 where it does not repeat: it has ended if it was here, and says where to go only then. -/
theorem loopLevel_not_repeats {l : LoopLevel} {pc : DWord} (n : DWord) (h : l.act = true ∧ pc = l.fin → l.cnt.toNat ≤ 1) :
    (loopLevel l pc n).1 = (if l.act = true ∧ pc = l.fin then { l with cnt := 0, act := false } else l) ∧ (loopLevel l pc n).2.2 = false := by
  by_cases hl : l.act = true ∧ pc = l.fin
  · rw [loopLevel_ends n hl (h hl), if_pos hl]
    exact ⟨rfl, rfl⟩
  · rw [loopLevel_elsewhere n hl, if_neg hl]
    exact ⟨rfl, rfl⟩

theorem loopCause_none {l0 l1 : LoopLevel} {lvl : Fin 2} {pc n : DWord} {len : Nat} (hold : (if lvl = 0 then l0 else l1).act = false)
    (h0 : lvl = 0 → l1.act = false) (h1 : lvl = 1 → l0.act = true → pc + n + n * BitVec.ofNat 36 (len - 1) + n ≤ l0.fin) :
    loopCause l0 l1 lvl pc n len = 0 := by
  unfold loopCause
  match lvl with
  | 0 => simp_all
  | 1 =>
    simp only [one_ne_zero, if_false] at hold
    by_cases ha : l0.act = true <;> simp_all

/-- A controller with one level of the current world's loops put in place. -/
def Ctl.putLoop (k : Ctl) (lvl : Fin 2) (l : LoopLevel) : Ctl := k.onCur (fun w => if lvl = 0 then { w with lp0 := l } else { w with lp1 := l })

theorem Ctl.shadow_putLoop (k : Ctl) (lvl : Fin 2) (l : LoopLevel) : (k.putLoop lvl l).shadow = k.shadow := by
  simp [Ctl.putLoop]

/-- Settles O7: LOOP starts its level and goes to the loop or past it; R66 by the two levels in turn. -/
theorem loops : Obligations.Loops := by
  refine ⟨fun s c h hm lvl count len => ?_, fun l0 l1 pc => ⟨fun h0 h1 => ?_, fun h1 hc => ?_, fun h1 hc h0 => ?_, fun h0 hc h1 => ?_, fun h0 hc h1 => ?_⟩⟩
  · intro k n sta fin old new hlen hold h0 h1
    have hf : issueFault { k with waiting := false } ⟨1, decide (len = 0), false, true, loopCause k.cur.lp0 k.cur.lp1 lvl k.pc 2 len.toNat⟩ = none :=
      issueFault_none (decide_eq_false hlen) rfl (loopCause_none hold h0 h1) fun _ => hm
    rw [← Ctl.shadow_putLoop k lvl new]
    refine moves_of_ctlIssue (i := .loop (.ctl c) lvl count len) (k := k.putLoop lvl new) (sh := none) h rfl hf ?_
    rw [Ctl.putLoop, ← Ctl.onCur_withWaiting, fetched_ctl]
    cases count <;> rfl
  · rw [loopNext, loopLevel_elsewhere 2 h0, loopLevel_elsewhere 2 h1]
    rfl
  · rw [loopNext, loopLevel_repeats 2 h1 hc]
    rfl
  · rw [loopNext, loopLevel_ends 2 h1 hc, loopLevel_elsewhere 2 h0]
    rfl
  · obtain ⟨e1, e2⟩ := loopLevel_not_repeats 2 h1
    rw [loopNext, loopLevel_repeats 2 h0 hc, e1, e2]
    rfl
  · obtain ⟨e1, e2⟩ := loopLevel_not_repeats 2 h1
    rw [loopNext, loopLevel_ends 2 h0 hc, e1, e2]
    rfl

end Sys2Proof.Machine
end

section
/-! SUPPORT. Control registers, gates, the system instructions, interrupts and double exceptions of a controller (R34, R35, R71, R72, R79 to R83). -/
namespace Sys2Proof.Machine

/-! ### Completion, field by field -/

section completes
variable (k : Ctl) (n : Nat)

@[simp] theorem Ctl.complete_frame : (k.complete n).pc = nextPc k ∧ (k.complete n).cycHold = k.cycHold ∧ (k.complete n).waiting = k.waiting ∧
    (k.complete n).halted = (k.halted || k.step) ∧ (k.complete n).priv = k.priv ∧ (k.complete n).secure = k.secure := by
  rw [Ctl.complete_eq]
  exact ⟨rfl, rfl, rfl, rfl, rfl, rfl⟩

/-- Only the link of a call changes general registers as an instruction completes. -/
theorem Ctl.complete_g (h : k.branch = none) : (k.complete n).g = k.g := by
  unfold Ctl.complete
  simp [h, Ctl.tick]

theorem Ctl.complete_withWaiting (b : Bool) : ({ k with waiting := b } : Ctl).complete n = { k.complete n with waiting := b } := by
  rcases hb : k.branch with _ | p
  · cases hs : k.secure <;> simp [Ctl.complete, Ctl.tick, Ctl.cur, Ctl.onCur, hb, hs]
  · cases hl : p.link <;> cases hs : k.secure <;> simp [Ctl.complete, Ctl.setPair, Ctl.setReg, Ctl.tick, Ctl.cur, Ctl.onCur, hb, hl, hs]

/-- The controllers' own description of what a `Finished` state leaves: the current world's flags. -/
theorem Ctl.complete_flags : (k.complete n).cur.flags = k.cur.flags := by rw [Ctl.complete_cur]

end completes

section ends
variable {i : Instr} {s : State} {c : CtlId} {iss : Issue} {op : State → Ran}

/-- The operation is done, in the state that it leaves. -/
theorem completes_of_ctlIssue {u : State} (h : Executes s c) (hi : exec i s = done (ctlIssue s c iss op))
    (hf : issueFault { s.ctl c with waiting := false } iss = none) (hop : op (fetched s c) = .ok u) :
    exec i s = .next (u.setCtl c ((u.ctl c).complete iss.cycles)) := by
  rw [hi, ctlIssue_ends h iss op hf, hop]
  rfl

end ends

/-- An instruction that changes nothing of its own finishes with registers and flags as they were. -/
theorem finished_unchanged (b s : State) (c : CtlId) (n : Nat) (hb : b.ctl c = { s.ctl c with waiting := false }) :
    Finished b s (b.setCtl c (({ s.ctl c with waiting := false } : Ctl).complete n)) c n (s.ctl c).reg (s.ctl c).cur.flags :=
  finished_of b s c n _ _ _ hb (Ctl.onCur_flags_self { s.ctl c with waiting := false }).symm fun _ => rfl

/-! ### Control registers (R34, R35, Table 3.4) -/

/-- Who may not read a control register: a world register outside privileged secure code, a system register outside privileged code. -/
def cregBarred (c : CtlId) (k : Ctl) (n : Nat) : Bool := (decide (0x30 ≤ n) && (decide (c = .mc) || !k.secure)) || (decide (0x20 ≤ n) && !k.priv)

theorem cregPrivilege_eq (c : CtlId) (k : Ctl) (n : Nat) (w : Bool) :
    cregPrivilege c k n w = (cregBarred c k n || (w && decide (n = 1 ∨ n = 6) && !k.priv)) := by
  unfold cregPrivilege cregBarred
  by_cases h3 : 0x30 ≤ n
  · have h2 : 0x20 ≤ n := by omega
    have h1 : ¬ (n = 1 ∨ n = 6) := by omega
    cases k.secure <;> cases k.priv <;> simp [h3, h2, h1]
  · by_cases h2 : 0x20 ≤ n
    · have h1 : ¬ (n = 1 ∨ n = 6) := by omega
      simp [h3, h2, h1]
    · simp [h3, h2]

theorem cregPrivilege_write_permitted {c : CtlId} {k : Ctl} {n : Nat} (h : cregBarred c k n = false) (hw : n = 1 ∨ n = 6 → k.priv = true) :
    cregPrivilege c k n true = false := by
  rw [cregPrivilege_eq, h]
  by_cases hn : n = 1 ∨ n = 6
  · simp [hw hn]
  · simp [hn]

theorem cregPrivilege_write_barred {c : CtlId} {k : Ctl} {n : Nat} (h : cregBarred c k n = true ∨ ((n = 1 ∨ n = 6) ∧ k.priv = false)) :
    cregPrivilege c k n true = true := by
  rw [cregPrivilege_eq]
  rcases h with h | ⟨h1, h2⟩
  · simp [h]
  · simp [h1, h2]

/-- Reading CYC_L and CYC_H changes the holding register alone (R35). -/
theorem cregAfterRead_eq (k : Ctl) (n : Nat) : cregAfterRead k n =
    { k with cycHold := if n = 4 then some (hiW k.cyc) else if n = 5 then none else k.cycHold } := by
  unfold cregAfterRead
  by_cases h4 : n = 4
  · simp [h4]
  · by_cases h5 : n = 5 <;> simp [h4, h5]

/-- The controller that MFC leaves, before it completes. -/
def Ctl.mfc (k : Ctl) (n : Nat) (rd : Nat) (v : Word) : Ctl := (cregAfterRead { k with waiting := false } n).setReg rd v

theorem Ctl.mfc_reg (k : Ctl) (n : Nat) (rd : Fin 32) (v : Word) (r : Nat) : (k.mfc n rd v).reg r = oneReg k rd v r := by
  rw [Ctl.mfc, Ctl.reg_setReg _ _ _ _ rd.isLt, cregAfterRead_eq]
  rfl

theorem Ctl.mfc_frame (k : Ctl) (n rd : Nat) (v : Word) :
    (k.mfc n rd v).cycHold = (if n = 4 then some (hiW k.cyc) else if n = 5 then none else k.cycHold) ∧ (k.mfc n rd v).branch = k.branch ∧
    (k.mfc n rd v).cur = k.cur ∧ (k.mfc n rd v).pc = k.pc := by
  rw [Ctl.mfc, cregAfterRead_eq]
  simp [Ctl.cur]

theorem gateTarget_eq (m : DWord) (code : BitVec 8) : m + 4 * code.zeroExtend 36 = m + BitVec.ofNat 36 (4 * code.toNat) := by
  rw [BitVec.ofNat_mul, BitVec.ofNat_toNat]
  rfl

/-- What makes GATE refuse (Table 3.5). -/
theorem gateOp_refuses {s : State} {c : CtlId} {code : BitVec 8} (h : ¬ (c ≠ .mc ∧ (s.ctl c).shadow = 0) ∨
    ((s.ctl c).secure = false ∧ 0xFE ≤ code.toNat) ∨ ((s.ctl c).secure = true ∧ ((s.ctl c).priv = false ∨ (s.ctl c).gvalid = false))) :
    gateOp s c code = .raises s 8 code.toNat 0 := by
  simp only [gateOp]
  by_cases h1 : (s.ctl c).shadow ≠ 0 ∨ c = .mc
  · rw [if_pos h1]
  · rw [if_neg h1]
    rcases h with h | ⟨hs, hc⟩ | ⟨hs, hr⟩
    · exact (h1 (by tauto)).elim
    · rw [if_neg (by simp [hs]), if_pos hc]
    · rw [if_pos hs, if_neg (by rcases hr with hr | hr <;> simp [hr])]

/-- Settles O8: MFC and MTC complete where Table 3.4 lets them, and GATE by the rows of Table 3.5. -/
theorem controlAndGates : Obligations.ControlAndGates := by
  refine ⟨fun s c h r code hex => ?_, fun s c h hm code => ?_⟩
  · intro k n system world barred b
    have hb : cregBarred c k n = barred := rfl
    have hl : (!cregExists n) = false := by simp [n, hex]
    refine ⟨fun hp => ?_, fun hp hw => ?_, fun hd => ⟨fun hp => ?_, fun hp => ?_⟩⟩
    · have hf := issueFault_none (k := k) (iss := ⟨1, !cregExists n, cregPrivilege c k n false, false, 0⟩) hl
        (by rw [cregPrivilege_eq, hb, hp]; rfl) rfl (by simp)
      have hx := completes_of_ctlIssue (i := .mfc c r code) h rfl hf rfl
      rw [fetched_ctl, State.ctl_setCtl, State.setCtl_setCtl] at hx
      obtain ⟨e1, e2, e3, e4⟩ := Ctl.mfc_frame k n r (cregRead b c k.secure n)
      refine ⟨b.setCtl c ((k.mfc n r (cregRead b c k.secure n)).complete 1), hx, ?_⟩
      rw [State.ctl_setCtl]
      refine ⟨fun x => ?_, ?_, ?_, ?_, rfl⟩
      · rw [Ctl.complete_reg, withLink, e2]
        simp only [Ctl.mfc_reg]
        rfl
      · rw [(Ctl.complete_frame _ _).2.1, e1]
      · rw [Ctl.complete_flags, e3]
      · rw [(Ctl.complete_frame _ _).1, nextPc, e2, e3, e4]
        rfl
    · have hf := issueFault_none (k := k) (iss := ⟨if n / 16 = 1 then 4 else 1, !cregExists n, cregPrivilege c k n true, false, 0⟩) hl
        (cregPrivilege_write_permitted (hb.trans hp) hw) rfl (by simp)
      have hx := completes_of_ctlIssue (i := .mtc c r code) h rfl hf rfl
      rw [State.ctl_onCtl, fetched_ctl, State.onCtl, State.setCtl_setCtl] at hx
      exact ⟨_, hx, rfl⟩
    · exact traps_privilege h rfl hl (by rw [cregPrivilege_eq]; exact Bool.or_eq_true_iff.mpr (.inl hp)) hd
    · exact traps_privilege h rfl hl (cregPrivilege_write_barred hp) hd
  · intro k open_
    have hf := issueFault_none (k := k) (iss := .jump 6 false) rfl rfl rfl fun _ => hm
    refine ⟨fun ho hs hc => ?_, fun ho hs hp hg => ?_, fun hd hr => ?_⟩
    · refine moves_of_ctlIssue (i := .gate c code) (sh := some 2) h rfl hf ?_
      rw [← gateTarget_eq]
      simp only [gateOp, fetched_ctl]
      exact (if_neg fun e => e.elim (fun x => x ho.2) ho.1).trans ((if_neg (by rw [hs]; exact Bool.false_ne_true)).trans (if_neg (by omega)))
    · refine moves_of_ctlIssue (i := .gate c code) (sh := some 2) h rfl hf ?_
      simp only [gateOp, fetched_ctl]
      exact (if_neg fun e => e.elim (fun x => x ho.2) ho.1).trans ((if_pos hs).trans (if_pos ⟨hp, hg⟩))
    · refine traps_of_raises_unchanged (i := .gate c code) h rfl hf (gateOp_refuses ?_) hd
      rw [fetched_ctl]
      exact hr

/-! ### System instructions (R48, R73, R79, R82, R86) -/

/-- ERET's change of the current world: the top frame's state given back, the frame cleared, DEPTH one lower. -/
def WorldCtx.returned (w : WorldCtx) (pie : Bool) : WorldCtx :=
  { w.onTop (fun f => { f with pie := false, plevel := false, dsx := false, shadow := false, shpos := false }) with depth := w.depth - 1, ie := pie }

theorem Ctl.onCur_withPriv (k : Ctl) (p : Bool) (f : WorldCtx → WorldCtx) : ({ k with priv := p } : Ctl).onCur f = { k.onCur f with priv := p } := by
  cases h : k.secure <;> simp [Ctl.onCur, h]

theorem eretOp_eq (s : State) (c : CtlId) (k : Ctl) (h : s.ctl c = { k with waiting := false }) : eretOp s c =
    .goes (s.setCtl c { ({ k with priv := k.cur.top.plevel } : Ctl).onCur (fun w => w.returned k.cur.top.pie) with waiting := false }) k.cur.top.epc
      (if k.cur.top.shadow then some (2 - b2n k.cur.top.shpos) else none) := by
  rw [← Ctl.onCur_withWaiting, Ctl.onCur_withPriv (k := { k with waiting := false })]
  simp only [eretOp, h]
  rfl

/-- The shadow that ERET leaves (R73). -/
theorem eret_shadow (f : Frame) (n : Nat) :
    (if f.shadow then some (2 - b2n f.shpos) else none : Option Nat).getD (n - 1) = if f.shadow then (if f.shpos then 1 else 2) else n - 1 := by
  cases f.shadow <;> cases f.shpos <;> rfl

/-- Settles O9: each instruction ends in its own way once nothing stands before it. -/
theorem systemInstructions : Obligations.SystemInstructions := by
  intro s c h k b f
  have hplain : ∀ n, issueFault { k with waiting := false } (.plain n false) = none := fun n => issueFault_none rfl rfl rfl (by simp [Issue.plain])
  refine ⟨?_, ?_, fun hm => ⟨fun hp h0 => ?_, fun hp => ?_, fun code hd => ⟨fun hp => ?_, fun hh => ?_⟩, fun code hh => ?_⟩,
    fun hd => ⟨fun hp code => ?_, fun hp => ⟨fun h0 => ?_, ?_⟩⟩⟩
  · have hx := completes_of_ctlIssue (i := .fence c) h rfl (hplain 1) rfl
    rw [fetched_ctl] at hx
    exact ⟨_, hx, finished_unchanged b s c 1 (fetched_ctl s c)⟩
  · have hx := completes_of_ctlIssue (i := .syncI c) h rfl (hplain 4) rfl
    rw [fetched_ctl] at hx
    exact ⟨_, hx, finished_unchanged b s c 4 (fetched_ctl s c)⟩
  · have hf := issueFault_none (k := k) (iss := ⟨4, decide (k.cur.depth = 0), !k.priv, true, 0⟩) (decide_eq_false (by omega)) (by simp [hp]) rfl fun _ => hm
    obtain ⟨t, hx, ht⟩ := moves_of_ctlIssue (i := .eret c) h rfl hf (eretOp_eq _ c k (fetched_ctl s c))
    refine ⟨t, hx, ?_⟩
    rw [eret_shadow, show (Ctl.onCur _ _).shadow = k.shadow by simp] at ht
    exact ht
  · have hf := issueFault_none (k := k) (iss := ⟨1, false, !k.priv, true, 0⟩) rfl (by simp [hp]) rfl fun _ => hm
    have hx := completes_of_ctlIssue (i := .wait c) h rfl hf rfl
    rw [State.ctl_onCtl, fetched_ctl, State.onCtl, State.setCtl_setCtl] at hx
    refine ⟨_, hx, by simp [b], ?_⟩
    have hfin := finished_unchanged b s c 1 (fetched_ctl s c)
    rw [Ctl.complete_withWaiting] at hfin
    rw [State.onCtl, State.ctl_setCtl, State.setCtl_setCtl]
    change Finished b s (b.setCtl c { ({ k with waiting := !waitEnds b c } : Ctl).complete 1 with waiting := false }) c 1 k.reg k.cur.flags
    rw [Ctl.complete_withWaiting]
    exact hfin
  · exact traps_of_raises_unchanged h rfl (issueFault_none (iss := ⟨1, false, k.priv, true, 0⟩) rfl hp rfl fun _ => hm) rfl hd
  · refine traps_of_raises_unchanged (i := .brk c code) h rfl (issueFault_none (iss := .jump 1 false) rfl rfl rfl fun _ => hm) ?_ hd
    exact if_neg (by simp only [b] at hh; simp [hh])
  · have hf := issueFault_none (k := k) (iss := .jump 1 false) rfl rfl rfl fun _ => hm
    have hx := completes_of_ctlIssue (i := .brk c code) h rfl hf (if_pos hh)
    rw [State.ctl_onCtl, fetched_ctl, State.onCtl, State.setCtl_setCtl] at hx
    refine ⟨_, hx, ?_⟩
    simp only [State.ctl_setCtl, Ctl.complete_frame]
    exact ⟨rfl, rfl, Ctl.complete_g _ _ hm.1, rfl⟩
  · exact traps_privilege h rfl rfl hp hd
  · exact traps_privilege h rfl (decide_eq_false (Nat.ne_of_gt h0)) (by rw [hp]; rfl) hd
  · exact traps_privilege h rfl rfl (by rw [hp]; rfl) hd

/-! ### Interrupts and double exceptions (R80, R81, R83) -/

/-- The enabled lines rise, so the first is the one of highest priority (R80). -/
theorem enabledLines_sorted (s : State) (c : CtlId) (w : Bool) : (enabledLines s c w).Pairwise (· < ·) :=
  (List.pairwise_lt_range.filter _).filter _

@[simp] theorem Ctl.tick_frame (k : Ctl) (n : Nat) : (k.tick n).pc = k.pc ∧ (k.tick n).priv = k.priv ∧ (k.tick n).secure = k.secure ∧ (k.tick n).g = k.g ∧
    (k.tick n).cur = k.cur ∧ (k.tick n).norm = k.norm ∧ (k.tick n).secu = k.secu := ⟨rfl, rfl, rfl, rfl, rfl, rfl, rfl⟩

/-- The frame that an entry fills is the top frame afterwards (R76). -/
theorem WorldCtx.top_enter (w : WorldCtx) (f : Frame) (h : w.depth < 2) :
    WorldCtx.top { (if w.depth = 0 then { w with f0 := f } else { w with f1 := f } : WorldCtx) with depth := w.depth + 1, ie := false } = f := by
  by_cases h0 : w.depth = 0
  · simp [WorldCtx.top, h0]
  · have : w.depth = 1 := by omega
    simp [WorldCtx.top, this]

theorem Ctl.enter_frame (k : Ctl) (epc : DWord) (dsx sh shpos : Bool) (vec code eaddr : Nat) (h : k.cur.depth < 2) :
    let e := k.enter epc dsx sh shpos vec code eaddr
    e.pc = k.cur.vbase + BitVec.ofNat 36 (16 * vec) ∧ e.priv = true ∧ e.secure = k.secure ∧ e.g = k.g ∧ e.cur.depth = k.cur.depth + 1 ∧ e.cur.ie = false ∧
    e.cur.flags = k.cur.flags ∧ e.cur.top = ⟨epc, BitVec.ofNat 8 code, BitVec.ofNat 5 vec, BitVec.ofNat 36 eaddr, shpos, sh, dsx, k.priv, k.cur.ie⟩ := by
  intro e
  have hc : e.cur = _ := Ctl.cur_onCur k _
  refine ⟨rfl, rfl, by simp [e, Ctl.enter], by simp [e, Ctl.enter], ?_, ?_, ?_, ?_⟩
  · rw [hc]
  · rw [hc]
  · rw [hc]
    by_cases h0 : k.cur.depth = 0 <;> simp [h0]
  · rw [hc, WorldCtx.top_enter _ _ h]

/-- A double exception halts the MC, and shows it. -/
theorem mcHalts_frame (s : State) : (mcHalts s).mc = { s.mc with halted := true } ∧ (mcHalts s).on Reg.MC_STAT_HALTED = true := by
  refine ⟨by simp [mcHalts, hlogAdd, State.setMgmt, State.onCtl, State.setCtl, State.ctl], ?_⟩
  simp only [mcHalts, hlogAdd, State.setMgmt]
  rw [State.on_wr_ne _ (f := Reg.HLOG_SEQ) (g := Reg.MC_STAT_HALTED) (by decide)]
  change ((State.flag _ Reg.MC_STAT_HALTED true).flag Reg.MGT_STAT_MC_HALTED true).on Reg.MC_STAT_HALTED = true
  exact (State.on_flag_ne _ (f := Reg.MGT_STAT_MC_HALTED) (g := Reg.MC_STAT_HALTED) (by decide) _).trans
    (State.on_flag _ (f := Reg.MC_STAT_HALTED) (by decide) _)

/-- A hardware entry into the monitor leaves both worlds' own state and the general registers alone (R81, R83). -/
theorem Ctl.monitorEntry_frame (k : Ctl) (gpc : DWord) (code shadow : Nat) :
    let e := (k.monitorEntry gpc code shadow).tick 6
    e.pc = k.monbase + BitVec.ofNat 36 (4 * code) ∧ e.secure = true ∧ e.priv = true ∧ e.gvalid = true ∧ e.grlevel = k.priv ∧ e.ghwentry = true ∧ e.gpc = gpc ∧
    e.gcode = BitVec.ofNat 8 code ∧ e.norm = k.norm ∧ e.secu = k.secu ∧ e.g = k.g := by
  and_intros <;> rfl

section double
variable {s : State} {c : CtlId} (vec code eaddr : Nat) (h : ¬ (s.ctl c).cur.depth < 2)
include h

theorem takeExc_double_secure (hc : c ≠ .mc) (hs : (s.ctl c).secure = true) : takeExc s c vec code eaddr = enterFault s 7 := by
  rw [takeExc, if_neg h, if_neg hc, if_pos hs]

theorem takeExc_double_normal (hc : c ≠ .mc) (hs : (s.ctl c).secure = false) :
    takeExc s c vec code eaddr = s.setCtl c (((s.ctl c).monitorEntry (s.ctl c).pc 0xFE 0).tick 6) := by
  rw [takeExc, if_neg h, if_neg hc, if_neg (by simp [hs])]

theorem takeExc_double_mc (hc : c = .mc) : takeExc s c vec code eaddr = mcHalts s := by
  rw [takeExc, if_neg h, if_pos hc]

end double

/-- Settles O10: an entry fills the top frame; at DEPTH 2 there is no frame to fill, and who takes it depends on the controller and its world. -/
theorem interruptsAndDoubles : Obligations.InterruptsAndDoubles := by
  refine ⟨fun s c => ⟨fun hb hi hd n rest hl => ?_, fun hb hs hc hl => ?_, fun hr => ?_⟩, fun s c code h hm hp hd => ?_⟩
  · have hs := enabledLines_sorted s c (s.ctl c).secure
    rw [hl] at hs
    have e : interruptTaken s c = s.setCtl c (((s.ctl c).enter (s.ctl c).pc false false false 0xF n 0).tick 6) := by
      simp only [interruptTaken, hl, hb, hi, decide_eq_true hd, Bool.and_self, if_true]
    obtain ⟨h1, h2, h3, h4, h5, h6, h7, h8⟩ := Ctl.enter_frame (s.ctl c) (s.ctl c).pc false false false 0xF n 0 hd
    refine ⟨_, congrArg Host.Outcome.next e, (List.pairwise_cons.mp hs).1, ?_⟩
    simp only [State.ctl_setCtl, Ctl.tick_frame, h1, h2, h3, h4, h5, h6, h7, h8, hi]
    simp
  · have e : secureEntry s c = s.setCtl c (((s.ctl c).monitorEntry (s.ctl c).pc 0xFF 2).tick 6) := by
      simp only [secureEntry]
      rw [if_pos ⟨hc, by simp [hs], hb, hl⟩]
    refine ⟨_, congrArg Host.Outcome.next e, ?_⟩
    obtain ⟨h1, h2, h3, h4, h5, h6, h7, h8, h9, h10, h11⟩ := Ctl.monitorEntry_frame (s.ctl c) (s.ctl c).pc 0xFF 2
    rw [State.ctl_setCtl]
    exact ⟨rfl, h1, h2, h3, h4, h5, h6, h7, h8, h9, h10, h11⟩
  · exact congrArg Host.Outcome.next (if_pos hr)
  · intro k
    have hf := issueFault_none (k := k) (iss := ⟨1, false, k.priv, true, 0⟩) rfl hp rfl fun _ => hm
    have hx : exec (.syscall c code) s = .next (takeExc (fetched s c) c 0xD code.toNat 0) := by
      rw [show exec (.syscall c code) s = done _ from rfl, ctlIssue_ends h _ _ hf]
      rfl
    have hcur : ¬ ((fetched s c).ctl c).cur.depth < 2 := by
      rw [fetched_ctl, show Ctl.cur { s.ctl c with waiting := false } = (s.ctl c).cur from rfl]
      omega
    refine ⟨_, hx, fun hc hs => ?_, fun hc hs => ?_, fun hc => ?_⟩
    · exact takeExc_double_secure _ _ _ hcur hc (by rw [fetched_ctl]; exact hs)
    · rw [takeExc_double_normal _ _ _ hcur hc (by rw [fetched_ctl]; exact hs), State.ctl_setCtl, fetched_ctl]
      obtain ⟨h1, h2, h3, h4, h5, h6, h7, h8, h9, h10, -⟩ := Ctl.monitorEntry_frame { k with waiting := false } k.pc 0xFE 0
      exact ⟨rfl, h2, h3, h4, h6, h8, h7, h5, h1, h9, h10⟩
    · rw [takeExc_double_mc _ _ _ hcur hc]
      subst hc
      obtain ⟨h1, h2⟩ := mcHalts_frame (fetched s .mc)
      rw [show (mcHalts (fetched s .mc)).ctl .mc = _ from h1, show (fetched s .mc).mc = { k with waiting := false } from fetched_ctl s .mc]
      exact ⟨rfl, rfl, rfl, h2⟩

end Sys2Proof.Machine
end

section
/-! SUPPORT. Loads and stores of a controller (R46 to R51): what the bus answers in on-chip SRAM, how a load or a store ends, and the block moves (R52 to R55) as
the words they write. -/
namespace Sys2Proof.Machine

/-! ### Addresses (R36, R49) -/

theorem ea_eq (k : Ctl) (rbase : Nat) (off : Word) : k.ea rbase off = eaOf k rbase off := add_signExtend _ _

theorem octetEa_eq (k : Ctl) (rbase : Nat) (off : Word) :
    k.octetEa rbase off = ((octetOf k rbase off).extractLsb' 1 36, (octetOf k rbase off).toNat % 2) := by
  have e : (k.pair rbase).zeroExtend 37 + (k.pair rbase).zeroExtend 37 + off.signExtend 37 = octetOf k rbase off := by
    rw [octetOf, BitVec.ofInt_add, BitVec.ofInt_mul, BitVec.ofInt_natCast, BitVec.ofNat_toNat, ← BitVec.two_mul]
    rfl
  simp only [Ctl.octetEa, e]

/-- On-chip SRAM takes one cycle, and is neither a register nor DRAM. -/
theorem targetOf_onChip {c : CtlId} {a : DWord} (h : onChip c a) : targetOf c.num a.toNat ≠ 6 ∧ targetOf c.num a.toNat ≠ 7 := by
  rcases h with h | h | h <;> rw [h] <;> decide

theorem accessTime_onChip (s : State) {c : CtlId} {a : DWord} (h : onChip c a) : accessTime s c a = 1 := by
  obtain ⟨h6, h7⟩ := targetOf_onChip h
  exact if_neg (not_or.mpr ⟨h6, h7⟩)

/-! ### What the bus answers in on-chip SRAM -/

theorem memWord_onChip (s : State) {c : CtlId} {a : DWord} (h : onChip c a) : memWord s c.num a.toNat = (s, some (s.sramWord a.toNat)) := by
  rcases h with h | h | h <;> simp [memWord, h]

theorem busLoad_onChip {s : State} {c : CtlId} {a : DWord} {n : Nat} (h : onChip c a) (hp : passes s c .read a n) :
    busLoad s (ctlAccess s c .read a n) = (s, .ok (s.sramWord a.toNat)) := by
  have hc : checkAccess s (ctlAccess s c .read a n) = none := hp
  rw [busLoad, hc]
  simp only [ctlAccess, if_neg (targetOf_onChip h).1, memWord_onChip s h]

/-- Nonets stored in SRAM, one after the other, by their number. -/
def State.setNonets (s : State) (l : List (Nat × Nonet)) : State := l.foldl (fun s x => s.setNonet (x.1 / 2) x.1 x.2) s

theorem memStore_onChip (s : State) {c : CtlId} {a : DWord} (h : onChip c a) (l : List (Nat × Nonet)) :
    memStore s c.num a.toNat l = (s.setNonets l, true) := by
  rw [memStore, if_neg (targetOf_onChip h).2]
  rfl

theorem busStore_onChip {s : State} {c : CtlId} {a : DWord} {n : Nat} (h : onChip c a) (hp : passes s c .write a n) (w : Word) :
    busStore s (ctlAccess s c .write a n) w = (s.setNonets (wordNonets a.toNat w), none) := by
  have hc : checkAccess s (ctlAccess s c .write a n) = none := hp
  rw [busStore, hc]
  simp only [putWord, ctlAccess, if_neg (targetOf_onChip h).1, memStore_onChip s h]

theorem busStorePair_onChip {s : State} {c : CtlId} {a : DWord} (h : onChip c a) (hp : passes s c .write a 0) (v : DWord) :
    busStorePair s (ctlAccess s c .write a 0) v = (s.setNonets (wordNonets a.toNat (loW v) ++ wordNonets (a.toNat + 1) (hiW v)), none) := by
  have hc : checkAccess s (ctlAccess s c .write a 0) = none := hp
  rw [busStorePair, hc]
  simp only [ctlAccess, if_neg (targetOf_onChip h).1, memStore_onChip s h]

theorem busStoreNonet_onChip {s : State} {c : CtlId} {a : DWord} {n : Nat} (h : onChip c a) (hp : passes s c .write a n) (x : Nonet) :
    busStoreNonet s (ctlAccess s c .write a n) x = (s.setNonets [(2 * a.toNat + n, x)], none) := by
  have hc : checkAccess s (ctlAccess s c .write a n) = none := hp
  rw [busStoreNonet, hc]
  simp only [ctlAccess, if_neg (targetOf_onChip h).1, memStore_onChip s h]

/-- Storing nonets changes SRAM alone. -/
theorem setNonets_eq (s : State) (l : List (Nat × Nonet)) : s.setNonets l = { s with mem := { s.mem with sram := (s.setNonets l).mem.sram } } := by
  induction l generalizing s with
  | nil => rfl
  | cons x l ih => exact ih _

theorem setNonets_wordNonets (s : State) (a : Nat) (w : Word) : s.setNonets (wordNonets a w) = s.setSramWord a w := by
  have h1 : (2 * a + 1) / 2 = a := by omega
  have h2 : 2 * a / 2 = a := by omega
  simp [State.setNonets, wordNonets, State.setSramWord, State.setNonet, h1, h2]

/-- A word stored is read at its two places. -/
theorem sram_setSramWord (s : State) (a n : Nat) (w : Word) : tget 0 (s.setSramWord a w).mem.sram n =
    if n = sramIndex a then nonetIn w 0 else if n = sramIndex a + 1 then nonetIn w 1 else tget 0 s.mem.sram n := by
  by_cases h : n = sramIndex a
  · subst h
    simp [State.setSramWord, State.setNonet]
  · simp [State.setSramWord, State.setNonet, h]

theorem setNonets_append (s : State) (l l' : List (Nat × Nonet)) : s.setNonets (l ++ l') = (s.setNonets l).setNonets l' := List.foldl_append

/-! ### How a load or a store ends -/

/-- Registers changed and nothing else: the instruction finishes with them. -/
theorem finished_regs (b s : State) (c : CtlId) (n : Nat) {k' : Ctl} (hb : b.ctl c = { s.ctl c with waiting := false })
    (hk : k' = { s.ctl c with waiting := false, g := k'.g }) : Finished b s (b.setCtl c (k'.complete n)) c n k'.reg (s.ctl c).cur.flags :=
  finished_of b s c n k' _ _ hb (by rw [← hk]; rw [show (s.ctl c).cur.flags = k'.cur.flags by rw [hk]; rfl, Ctl.onCur_flags_self]) fun _ => rfl

section ends
variable {i : Instr} {s : State} {c : CtlId} {legal aligned : Bool} {addr : DWord} {nonet : Nat}
  {store : State → Access → State × Option (Nat × Nat)} (h : Executes s c)
include h

theorem ctlLoad_ok {α : Type} {load : State → Access → State × Except (Nat × Nat) α} {f : Ctl → α → Ctl} {u : State} {v : α}
    (hi : exec i s = done (ctlLoad s c legal addr aligned load f)) (hl : legal = true) (ha : aligned = true)
    (hv : load (fetched s c) (ctlAccess (fetched s c) c .read addr 0) = (u, .ok v)) :
    exec i s = .next (u.onCtl c (fun x => (f x v).complete (accessTime s c addr))) := by
  subst hl ha
  have hx := completes_of_ctlIssue (u := u.onCtl c (fun x => f x v)) h hi (issueFault_none rfl rfl rfl (by simp [Issue.plain])) (by simp [hv])
  rw [State.ctl_onCtl, State.onCtl, State.setCtl_setCtl] at hx
  exact hx

theorem ctlLoad_error {α : Type} {load : State → Access → State × Except (Nat × Nat) α} {f : Ctl → α → Ctl} {u : State} {e : Nat × Nat}
    (hi : exec i s = done (ctlLoad s c legal addr aligned load f)) (hl : legal = true) (ha : aligned = true)
    (hv : load (fetched s c) (ctlAccess (fetched s c) c .read addr 0) = (u, .error e)) :
    exec i s = .next (takeExc u c e.1 e.2 addr.toNat) := by
  subst hl ha
  rw [hi, ctlLoad, ctlIssue_ends h _ _ (issueFault_none rfl rfl rfl (by simp [Issue.plain]))]
  simp only [hv]
  rfl

theorem ctlStore_ok {u : State} (hi : exec i s = done (ctlStore s c legal addr nonet aligned store)) (hl : legal = true) (ha : aligned = true)
    (hv : store (fetched s c) (ctlAccess (fetched s c) c .write addr nonet) = (u, none)) :
    exec i s = .next (u.onCtl c (fun x => x.complete (accessTime s c addr))) := by
  subst hl ha
  have hx := completes_of_ctlIssue (u := u) h hi (issueFault_none rfl rfl rfl (by simp [Issue.plain])) (by simp [hv])
  rw [State.onCtl]
  exact hx

theorem ctlStore_error {u : State} {e : Nat × Nat} (hi : exec i s = done (ctlStore s c legal addr nonet aligned store)) (hl : legal = true)
    (ha : aligned = true) (hv : store (fetched s c) (ctlAccess (fetched s c) c .write addr nonet) = (u, some e)) :
    exec i s = .next (takeExc u c e.1 e.2 addr.toNat) := by
  subst hl ha
  rw [hi, ctlStore, ctlIssue_ends h _ _ (issueFault_none rfl rfl rfl (by simp [Issue.plain]))]
  simp only [hv]
  rfl

/-- Nonets stored in on-chip SRAM: memory takes them, and the instruction finishes with nothing else changed. -/
theorem stored_onChip {l : List (Nat × Nonet)} {put : Nat → Nonet} (hi : exec i s = done (ctlStore s c legal addr nonet aligned store)) (hl : legal = true)
    (ha : aligned = true) (hc : onChip c addr)
    (hv : store (fetched s c) (ctlAccess (fetched s c) c .write addr nonet) = ((fetched s c).setNonets l, none))
    (hput : ∀ n, tget 0 ((fetched s c).setNonets l).mem.sram n = put n) :
    ∃ t, exec i s = .next t ∧ (∀ n, tget 0 t.mem.sram n = put n) ∧ t.mem = { (fetched s c).mem with sram := t.mem.sram } ∧
      Finished { fetched s c with mem := t.mem } s t c 1 (s.ctl c).reg (s.ctl c).cur.flags := by
  have hx := ctlStore_ok h hi hl ha hv
  have hu := setNonets_eq (fetched s c) l
  have hctl : ((fetched s c).setNonets l).ctl c = { s.ctl c with waiting := false } := by
    rw [← fetched_ctl]
    exact State.ctl_eq (congrArg State.sc0 hu) (congrArg State.sc1 hu) (congrArg State.mc hu) c
  have hm : (((fetched s c).setNonets l).onCtl c (fun x => x.complete (accessTime s c addr))).mem = ((fetched s c).setNonets l).mem := by simp
  refine ⟨_, hx, ?_, ?_, ?_⟩
  · rw [hm]
    exact hput
  · rw [hm]
    exact congrArg State.mem hu
  · rw [hm, show { fetched s c with mem := ((fetched s c).setNonets l).mem } = (fetched s c).setNonets l by rw [hu], accessTime_onChip s hc, State.onCtl, hctl]
    exact finished_unchanged _ s c 1 hctl

end ends

/-- A register loaded from on-chip SRAM. -/
theorem finishes_load {i : Instr} {s : State} {c : CtlId} {legal : Bool} {addr : DWord} {α : Type} {load : State → Access → State × Except (Nat × Nat) α}
    {f : Ctl → α → Ctl} {v : α} {g : Nat → Word} (h : Executes s c) (hi : exec i s = done (ctlLoad s c legal addr aligned load f)) (hl : legal = true)
    (ha : aligned = true) (hc : onChip c addr) (hv : load (fetched s c) (ctlAccess (fetched s c) c .read addr 0) = (fetched s c, .ok v))
    (hf : ∀ k : Ctl, f k v = { k with g := (f k v).g }) (hg : ∀ r, (f { s.ctl c with waiting := false } v).reg r = g r) :
    Finishes i s c 1 g (s.ctl c).cur.flags := by
  have hx := ctlLoad_ok h hi hl ha hv
  rw [accessTime_onChip s hc, State.onCtl, fetched_ctl] at hx
  have hfin := finished_regs (fetched s c) s c 1 (fetched_ctl s c) (hf { s.ctl c with waiting := false })
  rw [show (f { s.ctl c with waiting := false } v).reg = g from funext hg] at hfin
  exact ⟨_, hx, hfin⟩

theorem toNat_succ_even {a : DWord} (h : a.toNat % 2 = 0) : (a + 1).toNat = a.toNat + 1 := by
  have := a.isLt
  bv_omega

/-- What LDO makes of a nonet (R49, R50). -/
def ldoRan (s : State) (c : CtlId) (rt : Nat) (n : Bool) (x : Nonet) (a : DWord) (i : Nat) : Ran :=
  let k := s.ctl c
  if n then .ok (s.setCtl c (k.setReg rt (x.zeroExtend 18)))
  else if nonetOk x then .ok (s.setCtl c (k.setReg rt ((x.extractLsb' 0 8).zeroExtend 18)))
  else if k.cur.pet then .raises s 0xB i a.toNat
  else .ok (s.setCtl c ((k.setReg rt ((x.extractLsb' 0 8).zeroExtend 18)).onCur (fun w => { w with flags := { w.flags with pe := true } })))

theorem execLdo_onChip {s : State} {c : CtlId} {rbase : Fin 32} {off : Word} {a : DWord} {j : Nat} (rt : Fin 32) (n : Bool)
    (ho : (s.ctl c).octetEa rbase off = (a, j)) (hr : rbase.val % 2 = 0) (hc : onChip c a) (hp : passes (fetched s c) c .read a j) :
    ∃ op, exec (.ldo c rt rbase n off) s = done (ctlIssue s c (.plain 1 false) op) ∧
      op (fetched s c) = ldoRan (fetched s c) c rt n (nonetIn ((fetched s c).sramWord a.toNat) j) a j := by
  have e : exec (.ldo c rt rbase n off) s = done (ctlIssue s c (.plain (accessTime s c ((s.ctl c).octetEa rbase off).1) (!evenReg rbase)) _) := rfl
  rw [ho, accessTime_onChip s hc, evenReg_of hr] at e
  exact ⟨_, e, by simp only [busLoad_onChip hc hp]; rfl⟩

/-! ### Loads, stores and the bus (R46 to R51) -/

/-- Settles O11: the bus gives the words of SRAM, which the load puts into its registers. -/
theorem loads : Obligations.Loads := by
  refine ⟨fun s c h rt rbase off hr => ?_, fun s c h rt rbase off hr => ?_⟩
  · intro k b a hc hp
    have hlegal : ∀ x : Fin 32, x.val % 2 = 0 → (evenReg rbase && evenReg x) = true := fun x hx => by rw [evenReg_of hr, evenReg_of hx]; rfl
    refine ⟨?_, fun ht he hp1 hc1 => ?_, fun ht ho hd => ?_⟩
    · exact finishes_load (addr := k.ea rbase off) h rfl (evenReg_of hr) rfl (ea_eq k rbase off ▸ hc)
        (busLoad_onChip (ea_eq k rbase off ▸ hc) (ea_eq k rbase off ▸ hp)) (fun x => Ctl.setReg_eq x _ _)
        fun r => by rw [Ctl.reg_setReg _ _ _ _ rt.isLt, ea_eq]; rfl
    · have e1 := toNat_succ_even he
      refine finishes_load (addr := k.ea rbase off) (v := dword (b.sramWord (a + 1).toNat) (b.sramWord a.toNat)) h rfl (hlegal rt ht)
        (by rw [ea_eq]; exact decide_eq_true he) (ea_eq k rbase off ▸ hc) ?_ (fun x => Ctl.setPair_eq x _ _)
        fun r => by rw [Ctl.reg_setPair _ _ _ _ (by omega)]; rfl
      have hhi := busLoad_onChip hc1 hp1
      rw [ctlAccess, e1] at hhi
      rw [ea_eq, busLoadPair, busLoad_onChip hc hp, e1]
      simp only [ctlAccess]
      rw [hhi]
    · have ho' : decide ((k.ea rbase off).toNat % 2 = 0) = false := by rw [ea_eq]; exact decide_eq_false (by change ¬ a.toNat % 2 = 0; omega)
      have hl : (!(evenReg rbase && evenReg rt)) = false := by rw [hlegal rt ht]; rfl
      rw [show a = k.ea rbase off from (ea_eq k rbase off).symm]
      constructor
      · refine traps_of_raises_unchanged (i := .ldd (.ctl c) rt rbase off) h rfl (issueFault_none hl rfl rfl (by simp [Issue.plain])) ?_ hd
        exact if_pos (by rw [ho']; rfl)
      · refine traps_of_raises_unchanged (i := .std (.ctl c) rt rbase off) h rfl (issueFault_none hl rfl rfl (by simp [Issue.plain])) ?_ hd
        exact if_pos (by rw [ho']; rfl)
  · intro k b o a x hc hp
    have hregs := fun (n : Bool) => execLdo_onChip (off := off) rt n (octetEa_eq k rbase off) hr hc hp
    have hset : ∀ v r, (Ctl.setReg { k with waiting := false } rt v).reg r = oneReg k rt v r := fun v r => Ctl.reg_setReg _ _ _ _ rt.isLt
    have hflags : ∀ v, Ctl.setReg { k with waiting := false } rt v =
        ({ k with waiting := false, g := (Ctl.setReg { k with waiting := false } rt v).g } : Ctl).onCur (fun w => { w with flags := k.cur.flags }) := fun v => by
      have e := Ctl.onCur_flags_self (Ctl.setReg { k with waiting := false } rt v)
      rw [Ctl.cur_setReg] at e
      rw [← Ctl.setReg_eq]
      exact e.symm
    refine ⟨?_, fun hok => ?_, fun hbad hpet => ?_, fun hbad hpet hd => ?_⟩
    · obtain ⟨op, hi, hop⟩ := hregs true
      exact finishes_of_ctlIssue h hi (by rw [hop, ldoRan, fetched_ctl]; rfl) (hflags _) (hset _)
    · obtain ⟨op, hi, hop⟩ := hregs false
      exact finishes_of_ctlIssue h hi (by rw [hop, ldoRan, fetched_ctl]; exact if_pos hok) (hflags _) (hset _)
    · obtain ⟨op, hi, hop⟩ := hregs false
      have hran : ldoRan b c rt false x a (o.toNat % 2) = .ok (b.setCtl c ((Ctl.setReg { k with waiting := false } rt ((x.extractLsb' 0 8).zeroExtend 18)).onCur
          (fun w => { w with flags := { w.flags with pe := true } }))) := by
        simp only [ldoRan, b, fetched_ctl]
        rw [if_neg Bool.false_ne_true, if_neg (by rw [hbad]; exact Bool.false_ne_true)]
        exact if_neg (by rw [show Ctl.cur { s.ctl c with waiting := false } = k.cur from rfl, hpet]; exact Bool.false_ne_true)
      exact finishes_of_ctlIssue h hi (hop.trans hran)
        (Ctl.onCur_of_regs (k := { k with waiting := false }) (f := fun w => { w with flags := { w.flags with pe := true } }) (Ctl.setReg_eq _ _ _) rfl)
        fun r => by rw [Ctl.reg_onCur]; exact hset _ r
    · obtain ⟨op, hi, hop⟩ := hregs false
      refine traps_of_raises_unchanged h hi (issueFault_none rfl rfl rfl (by simp [Issue.plain])) (hop.trans ?_) hd
      simp only [ldoRan, fetched_ctl]
      rw [if_neg Bool.false_ne_true, if_neg (by change ¬ nonetOk x = true; rw [hbad]; exact Bool.false_ne_true)]
      exact if_pos hpet

/-- Settles O13: each instruction ends as the bus has answered. -/
theorem busAccesses : Obligations.BusAccesses := by
  intro s c h rt rbase off hr k b a rd wr
  have hl := evenReg_of hr
  have ha : k.ea rbase off = a := ea_eq k rbase off
  have hacc : ∀ kind, ctlAccess b c kind a 0 = ⟨c.num, k.secure, k.priv, 0xFFF, kind, a.toNat, 0⟩ := fun kind => by
    simp only [ctlAccess, b, fetched_ctl]
    rfl
  have hload : ∀ u v, busLoad b rd = (u, v) → busLoad b (ctlAccess b c .read (k.ea rbase off) 0) = (u, v) := fun u v e => by
    rw [ha, hacc]
    exact e
  have hstore : ∀ u v, busStore b wr (k.reg rt) = (u, v) → busStore b (ctlAccess b c .write (k.ea rbase off) 0) ((b.ctl c).reg rt) = (u, v) := fun u v e => by
    rw [ha, hacc, show (b.ctl c).reg rt = k.reg rt by simp only [b, fetched_ctl]; rfl]
    exact e
  have htrap : ∀ (acc : Access) (r : Refused), k.cur.depth < 2 → Trapped (reportRefusal b acc r) k (takeExc (reportRefusal b acc r) c 3 (r.code 0) a.toNat) c 3
      (r.code 0) a.toNat ∧ (takeExc (reportRefusal b acc r) c 3 (r.code 0) a.toNat).mem = b.mem := fun acc r hd => by
    have ht := trapped_of (reportRefusal b acc r) k c 3 (r.code 0) a.toNat (.inl (by rw [reportRefusal_ctl]; exact fetched_ctl s c)) hd
    exact ⟨ht, by rw [ht.rest, (State.setCtl_frame _ _ _).2.2.2.2.2.2.2.2.2.1, (reportRefusal_keep _ _ _).2.2]⟩
  refine ⟨fun u w e => ?_, fun u e he => ?_, fun u e => ?_, fun u e he => ?_, fun r hd e => ?_, fun r hd e => ?_⟩
  · have hx := ctlLoad_ok (i := .ld (.ctl c) rt rbase off) h rfl hl rfl (hload _ _ e)
    rw [ha] at hx
    exact ⟨_, hx, rfl⟩
  · have hx := ctlLoad_error (i := .ld (.ctl c) rt rbase off) h rfl hl rfl (hload _ _ he)
    rw [ha] at hx
    exact hx
  · have hx := ctlStore_ok (i := .st (.ctl c) rt rbase off) h rfl hl rfl (hstore _ _ e)
    rw [ha] at hx
    exact hx
  · have hx := ctlStore_error (i := .st (.ctl c) rt rbase off) h rfl hl rfl (hstore _ _ he)
    rw [ha] at hx
    exact hx
  · have hx := ctlStore_error (i := .st (.ctl c) rt rbase off) h rfl hl rfl (hstore _ _ (by rw [busStore, e]))
    rw [ha] at hx
    exact ⟨_, hx, htrap wr r hd⟩
  · have hx := ctlLoad_error (i := .ld (.ctl c) rt rbase off) h rfl hl rfl (hload _ _ (by rw [busLoad, e]))
    rw [ha] at hx
    exact ⟨_, hx, htrap rd r hd⟩

end Sys2Proof.Machine
end

section
/-! SUPPORT. The block moves (R52 to R55): what one word changes, and a block as the words it writes. -/
namespace Sys2Proof.Machine

/-- The operands of a block move (R52): an even destination pair, a count register apart from it, and, where words are loaded, a source pair apart from both. -/
structure BlockOperands (rd ra rb : Nat) (zero : Bool) : Prop where
  dst : rd % 2 = 0 ∧ rd ≠ 0 ∧ rd < 32
  count : rb < 32 ∧ rb ≠ rd ∧ rb ≠ rd + 1
  src : zero = false → ra % 2 = 0 ∧ ra ≠ 0 ∧ ra < 32 ∧ rd ≠ ra ∧ rb ≠ ra ∧ rb ≠ ra + 1

theorem BlockOperands.of_bmovOk {rd ra rb : Fin 32} (h : bmovOk rd ra rb = true) : BlockOperands rd ra rb false := by
  simp only [bmovOk, evenReg, Bool.and_eq_true, decide_eq_true_eq] at h
  obtain ⟨⟨hd, ha⟩, hd0, ha0, hda, hbd, hbd1, hba, hba1⟩ := h
  exact ⟨⟨by simpa using hd, hd0, rd.isLt⟩, ⟨rb.isLt, hbd, hbd1⟩, fun _ => ⟨by simpa using ha, ha0, ra.isLt, hda, hba, hba1⟩⟩

theorem BlockOperands.of_bzeroOk {rd rb : Fin 32} (h : bzeroOk rd rb = true) : BlockOperands rd 0 rb true := by
  simp only [bzeroOk, evenReg, Bool.and_eq_true, decide_eq_true_eq] at h
  obtain ⟨hd, hd0, hbd, hbd1⟩ := h
  exact ⟨⟨by simpa using hd, hd0, rd.isLt⟩, ⟨rb.isLt, hbd, hbd1⟩, fun h => nomatch h⟩

/-- What `m` words of a block make of the controller's registers (R54). -/
structure Stepped (k : Ctl) (rd ra rb : Nat) (zero : Bool) (m : Nat) (k' : Ctl) : Prop where
  rest : k' = { k with g := k'.g }
  dst : k'.pair rd = k.pair rd + BitVec.ofNat 36 m
  src : zero = false → k'.pair ra = k.pair ra + BitVec.ofNat 36 m
  count : (k'.reg rb).toNat + m = (k.reg rb).toNat
  regs : ∀ r, r ≠ rd → r ≠ rd + 1 → (zero = false → r ≠ ra ∧ r ≠ ra + 1) → r ≠ rb → k'.reg r = k.reg r

theorem Stepped.refl (k : Ctl) (rd ra rb : Nat) (zero : Bool) : Stepped k rd ra rb zero 0 k :=
  ⟨rfl, by simp, by simp, rfl, fun _ _ _ _ _ => rfl⟩

theorem Stepped.trans {k k' k'' : Ctl} {rd ra rb m m' : Nat} {zero : Bool} (h : Stepped k rd ra rb zero m k') (h' : Stepped k' rd ra rb zero m' k'') :
    Stepped k rd ra rb zero (m + m') k'' where
  rest := by rw [h'.rest, h.rest]
  dst := by rw [h'.dst, h.dst, BitVec.ofNat_add]; ac_rfl
  src hz := by rw [h'.src hz, h.src hz, BitVec.ofNat_add]; ac_rfl
  count := by have := h.count; have := h'.count; omega
  regs r h1 h2 h3 h4 := (h'.regs r h1 h2 h3 h4).trans (h.regs r h1 h2 h3 h4)

theorem Ctl.pair_setReg_ne (k : Ctl) {r i : Nat} (v : Word) (hi : i < 32) (h : i ≠ r ∧ i ≠ r + 1) : (k.setReg i v).pair r = k.pair r := by
  have e : ∀ x, x ≠ i → (k.setReg i v).reg x = k.reg x := fun x hx => by rw [Ctl.reg_setReg _ _ _ _ hi, oneReg, if_neg (by omega)]
  rw [Ctl.pair, e _ (by omega), e _ (by omega), Ctl.pair]

theorem Ctl.pair_setPair_ne (k : Ctl) {r i : Nat} (v : DWord) (hi : i + 1 < 32) (hr : r % 2 = 0) (h : i % 2 = 0) (hne : i ≠ r) :
    (k.setPair i v).pair r = k.pair r := by
  rw [Ctl.setPair, Ctl.pair_setReg_ne _ _ hi (by omega), Ctl.pair_setReg_ne _ _ (by omega) (by omega)]

theorem dword_hiW_loW (v : DWord) : dword (hiW v) (loW v) = v := by
  refine BitVec.eq_of_getLsbD_eq fun i hi => ?_
  simp only [dword, hiW, loW, BitVec.getLsbD_append, BitVec.getLsbD_extractLsb']
  grind

theorem Ctl.pair_setPair (k : Ctl) {r : Nat} (v : DWord) (hr : r + 1 < 32) (h0 : r ≠ 0) : (k.setPair r v).pair r = v := by
  rw [Ctl.pair, Ctl.reg_setPair _ _ _ _ hr, Ctl.reg_setPair _ _ _ _ hr]
  simp only [onePair, h0, ne_eq, not_false_eq_true, and_true, if_true, if_neg (Nat.succ_ne_self r).symm]
  exact dword_hiW_loW v

theorem Stepped.blockStep {k : Ctl} {rd ra rb : Nat} {zero : Bool} (ho : BlockOperands rd ra rb zero) (hn : k.reg rb ≠ 0) :
    Stepped k rd ra rb zero 1 (k.blockStep rd ra rb zero) := by
  obtain ⟨⟨hd, hd0, hd32⟩, ⟨hb, hbd, hbd1⟩, hsrc⟩ := ho
  have hb0 : rb ≠ 0 := fun e => hn (by rw [e]; rfl)
  have hcount : ((k.setPair rd (k.pair rd + 1)).setReg rb (k.reg rb - 1)).reg rb = k.reg rb - 1 := by
    rw [Ctl.reg_setReg _ _ _ _ hb, oneReg, if_pos ⟨rfl, hb0⟩]
  have hless : (k.reg rb - 1).toNat + 1 = (k.reg rb).toNat := by bv_omega
  have hdst : ((k.setPair rd (k.pair rd + 1)).setReg rb (k.reg rb - 1)).pair rd = k.pair rd + 1 := by
    rw [Ctl.pair_setReg_ne _ _ hb ⟨hbd, hbd1⟩, Ctl.pair_setPair _ _ (by omega) hd0]
  have hregs : ∀ r, r ≠ rd → r ≠ rd + 1 → r ≠ rb → ((k.setPair rd (k.pair rd + 1)).setReg rb (k.reg rb - 1)).reg r = k.reg r := fun r h1 h2 h3 => by
    rw [Ctl.reg_setReg _ _ _ _ hb, oneReg, if_neg (fun e => h3 e.1), Ctl.reg_setPair _ _ _ _ (by omega), onePair, if_neg h2, if_neg (fun e => h1 e.1)]
  cases zero with
  | true =>
    refine ⟨?_, hdst, (fun h => nomatch h), by rw [← hless]; exact congrArg (fun w => BitVec.toNat w + 1) hcount, fun r h1 h2 _ h3 => hregs r h1 h2 h3⟩
    simp only [Ctl.blockStep, if_true]
    rw [Ctl.setReg_eq, Ctl.setPair_eq]
  | false =>
    obtain ⟨ha, ha0, ha32, hda, hba, hba1⟩ := hsrc rfl
    have hother : ∀ (x : Ctl) (v : DWord) r, r ≠ ra → r ≠ ra + 1 → (x.setPair ra v).reg r = x.reg r := fun x v r h1 h2 => by
      rw [Ctl.reg_setPair _ _ _ _ (by omega), onePair, if_neg h2, if_neg (fun e => h1 e.1)]
    simp only [Ctl.blockStep, Bool.false_eq_true, if_false]
    refine ⟨?_, ?_, fun _ => ?_, ?_, fun r h1 h2 h3 h4 => ?_⟩
    · rw [Ctl.setPair_eq, Ctl.setReg_eq, Ctl.setPair_eq k]
    · rw [Ctl.pair_setPair_ne _ _ (by omega) hd ha hda.symm, hdst]
      rfl
    · rw [Ctl.pair_setPair _ _ (by omega) ha0, Ctl.pair_setReg_ne _ _ hb ⟨hba, hba1⟩, Ctl.pair_setPair_ne _ _ (by omega) ha hd hda]
      rfl
    · rw [hother _ _ _ hba hba1, hcount, hless]
    · rw [hother _ _ _ (h3 rfl).1 (h3 rfl).2, hregs r h1 h2 h4]

/-! ### The words of a block -/

theorem blockOfWords_setCtl (zero : Bool) (dst src : DWord) (m : Nat) (s : State) (c : CtlId) (k : Ctl) :
    blockOfWords zero dst src m (s.setCtl c k) = (blockOfWords zero dst src m s).setCtl c k := by
  induction m generalizing dst src s with
  | zero => rfl
  | succ m ih =>
    rw [blockOfWords, blockOfWords, ← ih]
    cases c <;> rfl

/-- A block of zeros loads nothing. -/
theorem blockOfWords_zeros (dst src src' : DWord) (m : Nat) (s : State) : blockOfWords true dst src m s = blockOfWords true dst src' m s := by
  induction m generalizing dst src src' s with
  | zero => rfl
  | succ m ih => exact ih _ _ _ _

theorem blockOfWords_mem (zero : Bool) (dst src : DWord) (m : Nat) (s : State) :
    blockOfWords zero dst src m s = { s with mem := (blockOfWords zero dst src m s).mem } := by
  induction m generalizing dst src s with
  | zero => rfl
  | succ m ih => exact ih _ _ _

/-- The block's words are in on-chip SRAM, and the fabric lets them pass. -/
def blockOnChip (s : State) (c : CtlId) (zero : Bool) (dst src : DWord) (m : Nat) : Prop :=
  ∀ j < m, (zero = false → onChip c (src + BitVec.ofNat 36 j) ∧ passes s c .read (src + BitVec.ofNat 36 j) 0) ∧
    onChip c (dst + BitVec.ofNat 36 j) ∧ passes s c .write (dst + BitVec.ofNat 36 j) 0

theorem checkAccess_setCtl (s : State) (c : CtlId) (k : Ctl) (acc : Access) : checkAccess (s.setCtl c k) acc = checkAccess s acc := by cases c <;> rfl

theorem checkAccess_setNonet (s : State) (addr i : Nat) (n : Nonet) (acc : Access) : checkAccess (s.setNonet addr i n) acc = checkAccess s acc := rfl

theorem checkAccess_setSramWord (s : State) (addr : Nat) (w : Word) (acc : Access) : checkAccess (s.setSramWord addr w) acc = checkAccess s acc := by
  rw [State.setSramWord, checkAccess_setNonet, checkAccess_setNonet]

/-- Neither the words written nor the registers counted change what passes. -/
theorem passes_written {s : State} {c : CtlId} {k : Ctl} (hs : k.secure = (s.ctl c).secure) (hp : k.priv = (s.ctl c).priv) (addr : Nat) (w : Word)
    (kind : Kind) (a : DWord) (n : Nat) : passes ((s.setSramWord addr w).setCtl c k) c kind a n ↔ passes s c kind a n := by
  unfold passes
  rw [State.ctl_setCtl, hs, hp, checkAccess_setCtl, checkAccess_setSramWord]

theorem add_one_add_ofNat (a : DWord) (j : Nat) : a + 1#36 + BitVec.ofNat 36 j = a + BitVec.ofNat 36 (j + 1) := by
  rw [BitVec.ofNat_add]
  ac_rfl

/-- Words of a block in on-chip SRAM: memory takes them, the registers count them, and the block is done when none remains. -/
theorem blockWords_onChip {c : CtlId} {rd ra rb : Nat} {zero : Bool} (ho : BlockOperands rd ra rb zero) (fuel : Nat) (s : State)
    (h : blockOnChip s c zero ((s.ctl c).pair rd) ((s.ctl c).pair ra) (min fuel ((s.ctl c).reg rb).toNat)) :
    ∃ k', Stepped (s.ctl c) rd ra rb zero (min fuel ((s.ctl c).reg rb).toNat) k' ∧
      blockWords c rd ra rb zero fuel s =
        (if min fuel ((s.ctl c).reg rb).toNat = ((s.ctl c).reg rb).toNat then Ran.ok else Ran.stays)
          ((blockOfWords zero ((s.ctl c).pair rd) ((s.ctl c).pair ra) (min fuel ((s.ctl c).reg rb).toNat) s).setCtl c k') := by
  induction fuel generalizing s with
  | zero =>
    refine ⟨s.ctl c, ?_, ?_⟩
    · rw [Nat.zero_min]
      exact .refl ..
    · rw [Nat.zero_min, blockWords, blockOfWords, State.setCtl_ctl]
      by_cases hn : (s.ctl c).reg rb = 0
      · rw [if_pos hn, if_pos (by rw [hn]; rfl)]
      · rw [if_neg hn, if_neg (fun e => hn (BitVec.eq_of_toNat_eq e.symm))]
  | succ fuel ih =>
    by_cases hn : (s.ctl c).reg rb = 0
    · refine ⟨s.ctl c, ?_, ?_⟩
      · rw [hn]
        exact .refl ..
      · rw [blockWords, if_pos hn, hn]
        change _ = Ran.ok (s.setCtl c (s.ctl c))
        rw [State.setCtl_ctl]
    · have hpos : 0 < ((s.ctl c).reg rb).toNat := Nat.pos_of_ne_zero fun e => hn (BitVec.eq_of_toNat_eq e)
      obtain ⟨hread, hwon, hwpass⟩ := h 0 (by omega)
      simp only [BitVec.ofNat_eq_ofNat, BitVec.add_zero] at hread hwon hwpass
      have hstep := Stepped.blockStep ho hn
      generalize hw : (if zero then 0 else s.sramWord ((s.ctl c).pair ra).toNat : Word) = w
      have hload : (if zero then (s, .ok 0) else busLoad s (ctlAccess s c .read ((s.ctl c).pair ra) 0) : State × Except (Nat × Nat) Word) = (s, .ok w) := by
        rw [← hw]
        cases zero
        · exact busLoad_onChip (hread rfl).1 (hread rfl).2
        · rfl
      have hrun : blockWords c rd ra rb zero (fuel + 1) s =
          blockWords c rd ra rb zero fuel ((s.setSramWord ((s.ctl c).pair rd).toNat w).setCtl c ((s.ctl c).blockStep rd ra rb zero)) := by
        rw [blockWords, if_neg hn]
        simp only [hload, busStore_onChip hwon hwpass, setNonets_wordNonets]
        rfl
      have hk : ((s.setSramWord ((s.ctl c).pair rd).toNat w).setCtl c ((s.ctl c).blockStep rd ra rb zero)).ctl c = (s.ctl c).blockStep rd ra rb zero :=
        State.ctl_setCtl ..
      have hcount := hstep.count
      generalize hs' : (s.setSramWord ((s.ctl c).pair rd).toNat w).setCtl c ((s.ctl c).blockStep rd ra rb zero) = s' at hrun hk
      have hsecure : ((s.ctl c).blockStep rd ra rb zero).secure = (s.ctl c).secure := by rw [hstep.rest]
      have hpriv : ((s.ctl c).blockStep rd ra rb zero).priv = (s.ctl c).priv := by rw [hstep.rest]
      have hpass : ∀ kind a n, passes s' c kind a n ↔ passes s c kind a n := fun kind a n => by rw [← hs', passes_written hsecure hpriv]
      have hm : min (fuel + 1) ((s.ctl c).reg rb).toNat = min fuel ((s'.ctl c).reg rb).toNat + 1 := by rw [hk]; omega
      have hnext : blockOnChip s' c zero ((s'.ctl c).pair rd) ((s'.ctl c).pair ra) (min fuel ((s'.ctl c).reg rb).toNat) := fun j hj => by
        obtain ⟨hr, hwo, hwp⟩ := h (j + 1) (by omega)
        rw [hpass, hpass, hk, hstep.dst, add_one_add_ofNat]
        refine ⟨fun hz => ?_, hwo, hwp⟩
        rw [hstep.src hz, add_one_add_ofNat]
        exact hr hz
      obtain ⟨k', hk', hblock⟩ := ih s' hnext
      rw [hk] at hk'
      refine ⟨k', ?_, ?_⟩
      · rw [hm, Nat.add_comm, hk]
        exact hstep.trans hk'
      · have hwords : blockOfWords zero ((s'.ctl c).pair rd) ((s'.ctl c).pair ra) (min fuel ((s'.ctl c).reg rb).toNat) s' =
            (blockOfWords zero ((s.ctl c).pair rd) ((s.ctl c).pair ra) (min fuel ((s'.ctl c).reg rb).toNat + 1) s).setCtl c ((s.ctl c).blockStep rd ra rb zero) := by
          rw [blockOfWords, hw, ← blockOfWords_setCtl, hs', hk, hstep.dst]
          cases zero
          · rw [hstep.src rfl]
            rfl
          · exact blockOfWords_zeros ..
        rw [hrun, hblock, hwords, State.setCtl_setCtl, hm]
        refine congrArg (fun r : State → Ran => r _) (if_congr ?_ rfl rfl)
        rw [hk]
        omega

theorem moveBlock_ends {s : State} {c : CtlId} {rd ra rb upTo : Nat} {zero : Bool} (h : Executes s c) (ht : MayTransfer (s.ctl c))
    (hn : ((s.ctl c).reg rb).toNat ≤ 4096) :
    ∃ cycles, moveBlock s c true zero rd ra rb upTo = ctlEnds c cycles (blockWords c rd ra rb zero (max 1 upTo) (fetched s c)) := by
  refine ⟨_, (ctlIssue_ends h (.jump _ (!true)) _ (issueFault_none rfl rfl rfl fun _ => ht)).trans (congrArg (ctlEnds c _) (if_neg (by omega)))⟩

/-- How a block move ends where its words are in on-chip SRAM (R54, R55). -/
theorem moves_block {i : Instr} {s : State} {c : CtlId} {rd ra rb upTo : Nat} {zero legal : Bool} (h : Executes s c) (ht : MayTransfer (s.ctl c))
    (hi : exec i s = done (moveBlock s c legal zero rd ra rb upTo)) (hl : legal = true) (ho : BlockOperands rd ra rb zero)
    (hn : ((s.ctl c).reg rb).toNat ≤ 4096) (m : Nat) (hm : min (max 1 upTo) ((s.ctl c).reg rb).toNat = m)
    (hc : blockOnChip (fetched s c) c zero ((s.ctl c).pair rd) ((s.ctl c).pair ra) m) :
    ∃ t k', exec i s = .next t ∧ Stepped ((fetched s c).ctl c) rd ra rb zero m k' ∧
      t.mem = (blockOfWords zero ((s.ctl c).pair rd) ((s.ctl c).pair ra) m (fetched s c)).mem ∧ t = { fetched s c with mem := t.mem }.setCtl c (t.ctl c) ∧
      (t.ctl c).g = k'.g ∧ (t.ctl c).cur.flags = (s.ctl c).cur.flags ∧
      (t.ctl c).pc = if m = ((s.ctl c).reg rb).toNat then nextPc (s.ctl c) else (s.ctl c).pc := by
  subst hl hm
  have hb := fetched_ctl s c
  have hg : ∀ r, ((fetched s c).ctl c).reg r = (s.ctl c).reg r := fun r => by rw [hb]; rfl
  have hp : ∀ r, ((fetched s c).ctl c).pair r = (s.ctl c).pair r := fun r => by rw [hb]; rfl
  obtain ⟨k', hk', hrun⟩ := blockWords_onChip ho (max 1 upTo) (fetched s c) (by rw [hg, hp, hp]; exact hc)
  rw [hg, hp, hp] at hrun
  rw [hg] at hk'
  obtain ⟨cycles, hends⟩ := moveBlock_ends (zero := zero) (rd := rd) (ra := ra) (rb := rb) (upTo := upTo) h ht hn
  rw [hrun] at hends
  have hx := hi.trans (congrArg done hends)
  have hrest := hk'.rest
  rw [hb] at hrest
  have hcur : k'.cur = (s.ctl c).cur := by rw [hrest]; rfl
  have hpc : k'.pc = (s.ctl c).pc := by rw [hrest]
  have hbranch : k'.branch = none := by rw [hrest]; exact ht.1
  have hnextPc : nextPc k' = nextPc (s.ctl c) := by rw [hrest]; rfl
  have hmem := blockOfWords_mem zero ((s.ctl c).pair rd) ((s.ctl c).pair ra) (min (max 1 upTo) ((s.ctl c).reg rb).toNat) (fetched s c)
  generalize blockOfWords zero ((s.ctl c).pair rd) ((s.ctl c).pair ra) (min (max 1 upTo) ((s.ctl c).reg rb).toNat) (fetched s c) = u at hx hmem ⊢
  by_cases hm : min (max 1 upTo) ((s.ctl c).reg rb).toNat = ((s.ctl c).reg rb).toNat
  · rw [if_pos hm] at hx ⊢
    refine ⟨_, k', hx, hk', ?_⟩
    simp only [ctlEnds, State.onCtl, State.ctl_setCtl, State.setCtl_setCtl, State.setCtl_frame]
    exact ⟨trivial, by rw [← hmem], Ctl.complete_g k' _ hbranch, by rw [Ctl.complete_flags, hcur], by rw [(Ctl.complete_frame k' _).1, hnextPc]⟩
  · rw [if_neg hm] at hx ⊢
    refine ⟨_, k', hx, hk', ?_⟩
    simp only [ctlEnds, State.onCtl, State.ctl_setCtl, State.setCtl_setCtl, State.setCtl_frame, Ctl.tick_frame]
    exact ⟨trivial, by rw [← hmem], trivial, by rw [hcur], hpc⟩

theorem Ctl.reg_congr {k k' : Ctl} (h : k.g = k'.g) (r : Nat) : k.reg r = k'.reg r := by rw [Ctl.reg, Ctl.reg, h]

theorem Ctl.pair_congr {k k' : Ctl} (h : k.g = k'.g) (r : Nat) : k.pair r = k'.pair r := by
  rw [Ctl.pair, Ctl.pair, Ctl.reg_congr h, Ctl.reg_congr h]

/-- The count stands above what a block may hold (R53). -/
theorem traps_block {i : Instr} {s : State} {c : CtlId} {rd ra rb upTo : Nat} {zero legal : Bool} (h : Executes s c) (ht : MayTransfer (s.ctl c))
    (hi : exec i s = done (moveBlock s c legal zero rd ra rb upTo)) (hl : legal = true) (hn : 4096 < ((s.ctl c).reg rb).toNat)
    (hd : (s.ctl c).cur.depth < 2) : Traps i s c (s.ctl c) 0xA 0 0 := by
  subst hl
  exact traps_of_raises_unchanged h hi (issueFault_none rfl rfl rfl fun _ => ht) (if_pos hn) hd

theorem sram_setSramWord_swap (s : State) (a n : Nat) (w : Word) : tget 0 (s.setSramWord a w).mem.sram n =
    if n = sramIndex a + 1 then nonetIn w 1 else if n = sramIndex a then nonetIn w 0 else tget 0 s.mem.sram n := by
  rw [sram_setSramWord]
  by_cases h : n = sramIndex a
  · rw [if_pos h, if_neg (by omega), if_pos h]
  · rw [if_neg h, if_neg h]

theorem sram_setNonets_nonet (s : State) (a i : Nat) {n : Nat} (v : Nonet) (hi : i < 2) :
    tget 0 (s.setNonets [(2 * a + i, v)]).mem.sram n = if n = sramIndex a + i then v else tget 0 s.mem.sram n := by
  have h1 : (2 * a + i) / 2 = a := by omega
  have h2 : (2 * a + i) % 2 = i := by omega
  by_cases h : n = sramIndex a + i <;> simp [State.setNonets, State.setNonet, h1, h2, h]

/-- The second register of an even pair is its number's successor. -/
theorem val_ne_succ {r rd : Fin 32} (he : rd.val % 2 = 0) (h : r ≠ rd + 1) : r.val ≠ rd.val + 1 := fun e =>
  h (Fin.ext (by rw [Fin.val_add, e, Nat.mod_eq_of_lt] <;> simp <;> omega))

/-! ### Stores (R46 to R51) and block moves -/

/-- Settles O12: a store puts its nonets, and a block move, by induction on its words, each word and the count. -/
theorem storesAndMoves : Obligations.StoresAndMoves := by
  refine ⟨fun s c h rt rbase off hr => ?_, fun s c h ht rd ra rb upTo => ?_⟩
  · intro k b a x stored was
    have hl := evenReg_of hr
    have hbreg : ∀ r, (b.ctl c).reg r = k.reg r := fun r => by simp only [b, fetched_ctl]; rfl
    have hbpair : ∀ r, (b.ctl c).pair r = k.pair r := fun r => by simp only [b, fetched_ctl]; rfl
    refine ⟨fun hc hp => ⟨?_, fun ht he hc1 => ?_⟩, ?_⟩
    · refine stored_onChip (i := .st (.ctl c) rt rbase off) (addr := k.ea rbase off) (l := wordNonets a.toNat (k.reg rt)) h rfl hl rfl (ea_eq k rbase off ▸ hc) ?_ fun n => ?_
      · rw [ea_eq, hbreg]
        exact busStore_onChip hc hp _
      · rw [setNonets_wordNonets, sram_setSramWord]
    · refine stored_onChip (i := .std (.ctl c) rt rbase off) (addr := k.ea rbase off)
        (l := wordNonets a.toNat (loW (k.pair rt)) ++ wordNonets (a.toNat + 1) (hiW (k.pair rt))) h rfl (by rw [hl, evenReg_of ht]; rfl)
        (by rw [ea_eq]; exact decide_eq_true he) (ea_eq k rbase off ▸ hc) ?_ fun n => ?_
      · rw [ea_eq, hbpair]
        exact busStorePair_onChip hc hp _
      · rw [setNonets_append, setNonets_wordNonets, setNonets_wordNonets, sram_setSramWord_swap, sram_setSramWord_swap]
    · intro o w hc hp
      have hi : o.toNat % 2 < 2 := Nat.mod_lt _ (by decide)
      have ho := octetEa_eq k rbase off
      have hput : ∀ v n, tget 0 (b.setNonets [(2 * w.toNat + o.toNat % 2, v)]).mem.sram n = if n = sramIndex w.toNat + o.toNat % 2 then v else was n :=
        fun v n => sram_setNonets_nonet _ _ _ v hi
      have haddr : (k.octetEa rbase off).1 = w := congrArg Prod.fst ho
      have hnonet : (k.octetEa rbase off).2 = o.toNat % 2 := congrArg Prod.snd ho
      constructor
      · refine stored_onChip (i := .sto c rt rbase true off) h rfl hl rfl (haddr ▸ hc) ?_ (hput _)
        rw [haddr, hnonet, hbreg]
        exact busStoreNonet_onChip hc hp _
      · refine stored_onChip (i := .sto c rt rbase false off) h rfl hl rfl (haddr ▸ hc) ?_ (hput _)
        rw [haddr, hnonet, hbreg]
        exact busStoreNonet_onChip hc hp _
  · intro k b n m dst src
    have hreg : ∀ {t : State} {k' : Ctl} r, (t.ctl c).g = k'.g → (t.ctl c).reg r = k'.reg r := fun r e => Ctl.reg_congr e r
    have hpair : ∀ {t : State} {k' : Ctl} r, (t.ctl c).g = k'.g → (t.ctl c).pair r = k'.pair r := fun r e => Ctl.pair_congr e r
    have hbreg : ∀ r, (b.ctl c).reg r = k.reg r := fun r => by simp only [b, fetched_ctl]; rfl
    have hbpair : ∀ r, (b.ctl c).pair r = k.pair r := fun r => by simp only [b, fetched_ctl]; rfl
    refine ⟨fun hn hd => ⟨fun hok => traps_block h ht rfl hok hn hd, fun hok => traps_block h ht rfl hok hn hd⟩, fun hn hok hc => ?_, fun hn hok hc => ?_⟩
    · have hde := (BlockOperands.of_bmovOk hok).dst.1
      have hae := ((BlockOperands.of_bmovOk hok).src rfl).1
      obtain ⟨t, k', e, hk', hmem, hframe, hg, hfl, hpc⟩ := moves_block h ht (i := .bmov c rd ra rb upTo) rfl hok (.of_bmovOk hok) hn m rfl
        fun j hj => by obtain ⟨h1, h2, h3, h4⟩ := hc j hj; exact ⟨fun _ => ⟨h1, h2⟩, h3, h4⟩
      have hcount := hk'.count
      rw [hbreg] at hcount
      refine ⟨t, e, hmem, hframe, ?_, ?_, ?_, fun r h1 h2 h3 h4 h5 => ?_, hfl, hpc⟩
      · rw [hpair _ hg, hk'.dst, hbpair]
      · rw [hpair _ hg, hk'.src rfl, hbpair]
      · rw [hreg _ hg]
        change _ = (k.reg rb).toNat - m
        omega
      · rw [hreg _ hg, hk'.regs r (Fin.val_ne_of_ne h1) (val_ne_succ hde h2) (fun _ => ⟨Fin.val_ne_of_ne h3, val_ne_succ hae h4⟩) (Fin.val_ne_of_ne h5), hbreg]
    · have hde := (BlockOperands.of_bzeroOk hok).dst.1
      obtain ⟨t, k', e, hk', hmem, hframe, hg, hfl, hpc⟩ := moves_block h ht (i := .bzero c rd rb upTo) rfl hok (.of_bzeroOk hok) hn m rfl
        fun j hj => ⟨(fun h => nomatch h), hc j hj⟩
      have hcount := hk'.count
      rw [hbreg] at hcount
      refine ⟨t, e, hmem.trans (congrArg State.mem (blockOfWords_zeros ..)), hframe, ?_, ?_, fun r h1 h2 h5 => ?_, hfl, hpc⟩
      · rw [hpair _ hg, hk'.dst, hbpair]
      · rw [hreg _ hg]
        change _ = (k.reg rb).toNat - m
        omega
      · rw [hreg _ hg, hk'.regs r (Fin.val_ne_of_ne h1) (val_ne_succ hde h2) (fun h => nomatch h) (Fin.val_ne_of_ne h5), hbreg]

end Sys2Proof.Machine
end

section
/-! SUPPORT. The step and the reset state (R11, R84). -/
namespace Sys2Proof.Machine

/-- Settles O1: the front of the queue is what `step` matches on. -/
theorem frontCommandRuns : Obligations.FrontCommandRuns := by
  intro s
  refine ⟨fun c rest h => ?_, fun h => ?_⟩
  · rw [step, h]
  · rw [step, h]

theorem Ctl.reg_reset (sec : Bool) {r : Nat} (h : r < 32) : (Ctl.reset sec).reg r = 0 := by
  have hg : ∀ r < 32, nth (0 : Word) (Ctl.reset sec).g.toList r = 0 := by cases sec <;> decide
  rw [Ctl.reg]
  split
  · rfl
  · exact hg r h

theorem ctl_reset (c : CtlId) : ∃ sec, State.reset.ctl c = Ctl.reset sec := by
  cases c
  · exact ⟨true, rfl⟩
  · exact ⟨true, rfl⟩
  · exact ⟨false, rfl⟩

/-- Settles O57: nothing is listed, and what is not listed reads as its reset value. -/
theorem resetState : Obligations.ResetState := by
  refine ⟨fun f => rfl, rfl, rfl, by decide, fun c => ?_, rfl, rfl, rfl, fun n => rfl, fun n => rfl, fun n => rfl, rfl, rfl, rfl, rfl, rfl⟩
  obtain ⟨sec, e⟩ := ctl_reset c
  rw [e]
  exact ⟨rfl, rfl, rfl, fun r h => Ctl.reg_reset sec h⟩

end Sys2Proof.Machine
end

section
/-! SUPPORT. Slot 0 of a step (R89 to R91): what an instruction puts in flight, and how it completes. -/
namespace Sys2Proof.Machine

@[simp] theorem State.seq_setSeq (s : State) (i : Nat) (q : Seq) (j : Nat) : (s.setSeq i q).seq j = if j = i then q else s.seq j := by
  simp [State.seq, State.setSeq]

theorem State.seq_onInst (s : State) (fs : Nat) (f : Inst → Inst) : (s.onInst fs f).seq fs = { s.seq fs with inst := (s.seq fs).inst.map f } := by
  simp [State.onInst]

section slots
variable {s : State} {a : At} {i : Inst} {op : Instr}

theorem slotZero_of {f : Seq → Option (List (Nat × LandEff))} {l : List (Nat × LandEff)} (h : Issues s a i) (hi : exec op s = done (slot0 s a f))
    (hf : f ((arrived s a).seq a.fs) = some l) : SlotZero op s a i l := by
  rw [SlotZero, hi, slot0, issue_acts h, hf]
  rfl

theorem monitor_of_slot0 {f : Seq → Option (List (Nat × LandEff))} (h : Issues s a i) (hi : exec op s = done (slot0 s a f))
    (hf : f ((arrived s a).seq a.fs) = none) : exec op s = .next (monitor (arrived s a) a 2) := by
  rw [hi, slot0, issue_acts h, hf]
  rfl

section results
variable {lat : Nat} {legal : Bool} {rd : Fin 32} {f : (Nat → Word) → (Nat → DWord) → Flags → AluRes} (h : Issues s a i)
  (hi : exec op s = done (aluOp (.fig a) lat legal rd f s)) (hl : legal = true)
include h hi hl

theorem slotZero_alu {r : AluRes} (hr : f ((arrived s a).seq a.fs).reg ((arrived s a).seq a.fs).pair ((arrived s a).seq a.fs).flags = r) :
    SlotZero op s a i (r.lands rd lat) := by
  subst hl
  exact slotZero_of (f := fun q => some ((f q.reg q.pair q.flags).lands rd lat)) h hi (congrArg (fun r : AluRes => some (r.lands rd lat)) hr)

end results

theorem shiftAlu_imm (o : ShiftOp) (x : Word) (n : Fin 32) :
    shiftAlu o x n = .ofW ((shiftRes o x n).1, zn (shiftRes o x n).1 (some (shiftRes o x n).2) (some false)) := by
  rw [shiftAlu, Nat.mod_eq_of_lt n.isLt]
  rfl

end slots

/-! ### The local data memory (R90) and the loops (R64, R66) -/

section localMemory
variable {q : Seq} {rb : Fin 32} {off : Word}

theorem localAddr_word (h : (q.pair rb + off.signExtend 36).toNat < 1024) : localAddr q rb off 1 = some (q.pair rb + off.signExtend 36).toNat :=
  if_neg (by omega)

theorem localAddr_pair (h : (q.pair rb + off.signExtend 36).toNat < 1024) (h2 : (q.pair rb + off.signExtend 36).toNat % 2 = 0) :
    localAddr q rb off 2 = some (q.pair rb + off.signExtend 36).toNat := if_neg (by omega)

theorem localAddr_none {n : Nat} (h : 1024 ≤ (q.pair rb + off.signExtend 36).toNat ∨ n = 2 ∧ (q.pair rb + off.signExtend 36).toNat % 2 = 1) :
    localAddr q rb off n = none := if_pos h

end localMemory

/-- A loop that slot 0 starts: steps count one by one. -/
theorem startLoop_slot (l : LoopLevel) (p : Nat) (n : BitVec 16) (len : Nat) : startLoop l (BitVec.ofNat 36 p) 1 (n.zeroExtend 18) len =
    { act := decide (n ≠ 0), cnt := if n = 0 then l.cnt else n.zeroExtend 18, sta := BitVec.ofNat 36 (p + 1),
      fin := BitVec.ofNat 36 (p + 1) + BitVec.ofNat 36 (len - 1) } := by
  have hz : n.zeroExtend 18 = 0 ↔ n = 0 := by
    constructor <;> intro e <;> bv_omega
  have h1 : ∀ x : DWord, (1 : DWord) * x = x := BitVec.one_mul
  simp only [startLoop, hz, ne_eq, BitVec.ofNat_add, h1]
  rfl

/-- No loop level is active and the step does not end a body: nothing more completes. -/
theorem slotEnds_idle {s : State} {a : At} {i : Inst} (h0 : (s.seq a.fs).lp0.act = false) (h1 : (s.seq a.fs).lp1.act = false)
    (hb : ¬ (i.hdr.body ∧ a.step.val = i.hdr.bodyLast)) : slotEnds s a i = s := by
  have he : ∀ l : LoopLevel, l.act = false → loopLevel l (BitVec.ofNat 36 a.step) 1 = (l, none, false) := fun l e =>
    loopLevel_elsewhere 1 (by rw [e]; simp)
  simp only [slotEnds, loopNext, he _ h0, he _ h1, Bool.false_eq_true, if_false, if_true]
  exact if_neg fun e => hb ⟨e.1, e.2.1⟩

/-! ### The statement -/

/-- Settles O14: the result of each instruction is put in flight as it stands, and an address out of range is the monitor's. -/
theorem slotZeroInstructions : Obligations.SlotZeroInstructions := by
  refine ⟨fun s a i h => ?_, fun s a i h rt rb off hb => ?_⟩
  · dsimp only
    refine ⟨slotZero_of (op := .add (.fig a) 0 0 0) (f := fun _ => some []) (l := []) h rfl rfl, fun rd ra rb imm => ⟨fun hz => (slotZero_alu (op := .add (.fig a) rd ra rb)
      (rd := rd) (f := fun r _ _ => .ofW (addFlags (r ra) (r rb) false)) h (congrArg done (if_neg hz)) rfl rfl :),
      (slotZero_alu (op := .adc (.fig a) rd ra rb) h rfl rfl rfl :),
      (slotZero_alu (op := .sub (.fig a) rd ra rb) h rfl rfl rfl :),
      (slotZero_alu (op := .sbc (.fig a) rd ra rb) h rfl rfl rfl :),
      (slotZero_alu (op := .neg (.fig a) rd ra) h rfl rfl rfl :),
      (slotZero_alu (op := .addi (.fig a) rd ra imm) h rfl rfl rfl :),
      (slotZero_alu (op := .cmp (.fig a) ra rb) h rfl rfl rfl :),
      (slotZero_alu (op := .cmpi (.fig a) ra imm) h rfl rfl rfl :),
      (slotZero_alu (op := .and (.fig a) rd ra rb) h rfl rfl rfl :),
      (slotZero_alu (op := .or (.fig a) rd ra rb) h rfl rfl rfl :),
      (slotZero_alu (op := .xor (.fig a) rd ra rb) h rfl rfl rfl :),
      (slotZero_alu (op := .andn (.fig a) rd ra rb) h rfl rfl rfl :),
      (slotZero_alu (op := .andi (.fig a) rd ra imm) h rfl rfl rfl :),
      (slotZero_alu (op := .ori (.fig a) rd ra imm) h rfl rfl rfl :),
      (slotZero_alu (op := .xori (.fig a) rd ra imm) h rfl rfl rfl :),
      (slotZero_alu (op := .clz (.fig a) rd ra) h rfl rfl rfl :),
      (slotZero_alu (op := .packo (.fig a) rd ra rb) h rfl rfl rfl :),
      ⟨(slotZero_alu (op := .shl (.fig a) rd ra rb) h rfl rfl rfl :), (slotZero_alu (op := .shr (.fig a) rd ra rb) h rfl rfl rfl :), (slotZero_alu (op := .sar (.fig a) rd ra rb) h rfl rfl rfl :), (slotZero_alu (op := .rol (.fig a) rd ra rb) h rfl rfl rfl :), (slotZero_alu (op := .ror (.fig a) rd ra rb) h rfl rfl rfl :)⟩,
      (slotZero_alu (op := .shli (.fig a) rd ra rb) h rfl rfl (shiftAlu_imm _ _ _) :),
      (slotZero_alu (op := .shri (.fig a) rd ra rb) h rfl rfl (shiftAlu_imm _ _ _) :),
      (slotZero_alu (op := .sari (.fig a) rd ra rb) h rfl rfl (shiftAlu_imm _ _ _) :),
      (slotZero_alu (op := .roli (.fig a) rd ra rb) h rfl rfl (shiftAlu_imm _ _ _) :),
      (slotZero_alu (op := .rori (.fig a) rd ra rb) h rfl rfl (shiftAlu_imm _ _ _) :),
      fun hd => ?_⟩⟩
    have ed := evenReg_of hd
    refine ⟨⟨_, toInt_product _ _, (slotZero_alu (op := .mul (.fig a) rd ra rb) h rfl ed rfl :)⟩, ⟨_, toNat_product _ _, (slotZero_alu (op := .mulu (.fig a) rd ra rb) h rfl ed rfl :)⟩, fun ha => ?_⟩
    have ea : (evenReg rd && evenReg ra) = true := by rw [ed, evenReg_of ha]; rfl
    refine ⟨(slotZero_alu (op := .movd (.fig a) rd ra) h rfl ea rfl :), (slotZero_alu (op := .lea (.fig a) rd ra imm) h rfl ea rfl :), fun hb => ?_⟩
    have eb : (evenReg rd && evenReg ra && evenReg rb) = true := by rw [ea, evenReg_of hb]; rfl
    exact ⟨(slotZero_alu (op := .addd (.fig a) rd ra rb) h rfl eb rfl :), (slotZero_alu (op := .subd (.fig a) rd ra rb) h rfl eb rfl :)⟩
  · dsimp only
    have eb := evenReg_of hb
    have e2 : rt.val % 2 = 0 → (evenReg rb && evenReg rt) = true := fun ht => by rw [eb, evenReg_of ht]; rfl
    refine ⟨fun hea => ⟨?_, ?_, fun ht h2 => ⟨?_, ?_⟩⟩, fun hea => ⟨?_, ?_⟩, fun ht hea => ⟨?_, ?_⟩, fun lvl n len hlen => ?_, fun h0 h1 hbody l => ?_⟩
    · exact slotZero_of (op := .ld (.fig a) rt rb off) h (congrArg done (if_pos eb)) (by rw [localAddr_word hea]; rfl)
    · exact slotZero_of (op := .st (.fig a) rt rb off) h (congrArg done (if_pos eb)) (by rw [localAddr_word hea]; rfl)
    · exact slotZero_of (op := .ldd (.fig a) rt rb off) h (congrArg done (if_pos (e2 ht))) (by rw [localAddr_pair hea h2]; rfl)
    · exact slotZero_of (op := .std (.fig a) rt rb off) h (congrArg done (if_pos (e2 ht))) (by rw [localAddr_pair hea h2]; rfl)
    · exact monitor_of_slot0 (op := .ld (.fig a) rt rb off) h (congrArg done (if_pos eb)) (by rw [localAddr_none (.inl hea)]; rfl)
    · exact monitor_of_slot0 (op := .st (.fig a) rt rb off) h (congrArg done (if_pos eb)) (by rw [localAddr_none (.inl hea)]; rfl)
    · exact monitor_of_slot0 (op := .ldd (.fig a) rt rb off) h (congrArg done (if_pos (e2 ht))) (by rw [localAddr_none (hea.imp_right fun e => ⟨rfl, e⟩)]; rfl)
    · exact monitor_of_slot0 (op := .std (.fig a) rt rb off) h (congrArg done (if_pos (e2 ht))) (by rw [localAddr_none (hea.imp_right fun e => ⟨rfl, e⟩)]; rfl)
    · exact slotZero_of (op := .loop (.fig a) lvl (.imm n) len) h (congrArg done (if_neg hlen)) (by rw [startLoop_slot])
    · exact slotEnds_idle (by rw [launch, State.seq_onInst]; exact h0) (by rw [launch, State.seq_onInst]; exact h1) hbody

end Sys2Proof.Machine
end

section
/-! SUPPORT. Results in flight (R91), and the transfers of lanes (R97, R102, R125, R149 to R152). -/
namespace Sys2Proof.Machine

/-! ### Results in flight -/

/-- No result but a flag result is ever replaced by another (R100). -/
def LandEff.stays : LandEff → Bool
  | .flags .. => false
  | _ => true

theorem mem_insLanding {l x : Landing} {fl : List Landing} : l ∈ insLanding x fl ↔ l = x ∨ l ∈ fl := by
  induction fl with
  | nil => simp [insLanding]
  | cons y ys ih =>
    rw [insLanding]
    split
    · simp only [List.mem_cons, ih]
      tauto
    · simp only [List.mem_cons]

theorem isFlagsAt_of_stays {l : Landing} (h : l.eff.stays = true) (c : Nat) : isFlagsAt c l = false := by
  unfold isFlagsAt
  split
  · next e => rw [e] at h; exact absurd h Bool.false_ne_true
  · rfl

theorem mem_addLandings {l : Landing} {fl new : List Landing} (hs : l.eff.stays = true) (h : l ∈ fl ∨ l ∈ new) : l ∈ addLandings fl new := by
  induction new generalizing fl with
  | nil => exact h.resolve_right (List.not_mem_nil)
  | cons x xs ih =>
    refine ih ?_
    rw [mem_insLanding]
    rcases h with h | h
    · refine .inl (.inr ?_)
      split
      · exact List.mem_filter.mpr ⟨h, by rw [isFlagsAt_of_stays hs]; rfl⟩
      · exact h
    · rcases List.mem_cons.mp h with e | h
      · exact .inl (.inl e)
      · exact .inr h

/-- Result `l` is in flight in sequencer `fs`, if a run is there. -/
def InFlight (s : State) (fs : Nat) (l : Landing) : Prop := ∀ j, (s.seq fs).inst = some j → l ∈ j.flight

section launches
variable {s : State} {a : At} {effs : List (Nat × LandEff)}

theorem inst_launch {i : Inst} (h : (s.seq a.fs).inst = some i) : ∃ j, ((launch s a effs).seq a.fs).inst = some j := by
  rw [launch, State.seq_onInst, h]
  exact ⟨_, rfl⟩

theorem InFlight.launch {l : Landing} (hs : l.eff.stays = true) (h : InFlight s a.fs l) (effs : List (Nat × LandEff)) :
    InFlight (launch s a effs) a.fs l := by
  intro j hj
  rw [Machine.launch, State.seq_onInst] at hj
  obtain ⟨i, hi, rfl⟩ := Option.map_eq_some_iff.mp hj
  exact mem_addLandings hs (.inl (h i hi))

theorem inFlight_launch {e : Nat × LandEff} (he : e ∈ effs) (hs : e.2.stays = true) : InFlight (launch s a effs) a.fs ⟨a.cyc + e.1, a.cyc, e.2⟩ := by
  intro j hj
  rw [launch, State.seq_onInst] at hj
  obtain ⟨i, hi, rfl⟩ := Option.map_eq_some_iff.mp hj
  exact mem_addLandings hs (.inr (List.mem_map.mpr ⟨e, he, rfl⟩))

/-- An operation on a unit that the run holds only launches. -/
theorem launches_of {op : Instr} {i : Inst} {ty u n : Nat} {f : State → Inst → Nat → State} {l : List (Nat × LandEff)} (h : IssuesOn s a ty u i n)
    (hi : exec op s = done (issueOn s a ty u f)) (hf : f (arrived s a) i n = launch (arrived s a) a l) : Launches op s a l := by
  rw [Launches, hi, issueOn_acts h, hf]
  rfl

end launches

/-! ### Hold pages as a ring -/

section rings
variable {s : State} {a : At} {i : Inst} {reel : Nat}

theorem readRing_staged {n idx pg bl : Nat} (hc : a.faults = []) (hp : ringPlace i reel n = some (pg, bl)) (hs : (s.page pg).phase = .staged) :
    readRing s a i reel n idx = (s, s.hold (pg * 256 + bl)) := by
  simp only [readRing, hp, hs, hc]
  simp

theorem readRings_staged {n k : Nat} (hc : a.faults = []) (h : ∀ e < k, ∃ pg bl, ringPlace i reel (n + e) = some (pg, bl) ∧ (s.page pg).phase = .staged) :
    ∃ bs, readRings s a i reel n k = (s, bs) ∧ bs.length = k ∧
      ∀ e < k, ∀ pg bl, ringPlace i reel (n + e) = some (pg, bl) → bs[e]? = some (s.hold (pg * 256 + bl)) := by
  induction k with
  | zero => exact ⟨[], rfl, rfl, fun e he => absurd he (Nat.not_lt_zero e)⟩
  | succ k ih =>
    obtain ⟨bs, hr, hlen, hbs⟩ := ih fun e he => h e (by omega)
    obtain ⟨pg, bl, hp, hs⟩ := h k (Nat.lt_succ_self k)
    refine ⟨bs ++ [s.hold (pg * 256 + bl)], ?_, by simp [hlen], fun e he pg' bl' hp' => ?_⟩
    · simp only [readRings, hr, readRing_staged hc hp hs]
    · by_cases hk : e < k
      · rw [List.getElem?_append_left (by omega)]
        exact hbs e hk pg' bl' hp'
      · obtain rfl : e = k := by omega
        obtain ⟨rfl, rfl⟩ := Prod.mk.inj (Option.some.inj (hp.symm.trans hp'))
        rw [List.getElem?_append_right (by omega), hlen, Nat.sub_self]
        rfl

theorem writeRing_kept {n L pg bl : Nat} {b : Block} (hp : ringPlace i reel n = some (pg, bl)) (hs : (s.page pg).phase ≠ .released) :
    writeRing s a i reel n L b = launch s a [(L, .hold (pg * 256 + bl) b)] := by
  simp only [writeRing, hp, if_neg hs]

theorem writeRings_kept {L : Nat} {bs : List Block} {n : Nat} {j : Inst} (hj : (s.seq a.fs).inst = some j)
    (h : ∀ e < bs.length, ∃ pg bl, ringPlace i reel (n + e) = some (pg, bl) ∧ (s.page pg).phase ≠ .released) :
    (∃ j', ((writeRings s a i reel L n bs).seq a.fs).inst = some j') ∧
      (∀ l : Landing, l.eff.stays = true → InFlight s a.fs l → InFlight (writeRings s a i reel L n bs) a.fs l) ∧
      ∀ e b pg bl, bs[e]? = some b → ringPlace i reel (n + e) = some (pg, bl) →
        InFlight (writeRings s a i reel L n bs) a.fs ⟨a.cyc + L, a.cyc, .hold (pg * 256 + bl) b⟩ := by
  induction bs generalizing s n j with
  | nil => exact ⟨⟨j, hj⟩, fun l _ hl => hl, fun e b pg bl he => by simp at he⟩
  | cons b bs ih =>
    obtain ⟨pg, bl, hp, hs⟩ := h 0 (by simp)
    rw [Nat.add_zero] at hp
    obtain ⟨j', hj'⟩ := inst_launch (effs := [(L, .hold (pg * 256 + bl) b)]) hj
    have hnext : ∀ e < bs.length, ∃ pg' bl', ringPlace i reel (n + 1 + e) = some (pg', bl') ∧
        ((launch s a [(L, .hold (pg * 256 + bl) b)]).page pg').phase ≠ .released := fun e he => by
      obtain ⟨pg', bl', hp', hs'⟩ := h (e + 1) (by simpa using he)
      exact ⟨pg', bl', by rw [← hp']; congr 1; omega, hs'⟩
    obtain ⟨h1, h2, h3⟩ := ih hj' hnext
    rw [writeRings, writeRing_kept hp hs]
    refine ⟨h1, fun l hl hin => h2 l hl (hin.launch hl _), fun e b' pg' bl' he hp' => ?_⟩
    cases e with
    | zero =>
      obtain rfl : b = b' := by simpa using he
      obtain ⟨rfl, rfl⟩ := Prod.mk.inj (Option.some.inj (hp.symm.trans hp'))
      exact h2 _ rfl (inFlight_launch (e := (L, .hold (pg * 256 + bl) b)) (by simp) rfl)
    | succ e => exact h3 e b' pg' bl' (by simpa using he) (by rw [← hp']; congr 1; omega)

end rings

/-! ### The statement -/

theorem mem_range_zip {α : Type} {l : List α} {e : Nat} {x : α} (h : l[e]? = some x) : (e, x) ∈ (List.range l.length).zip l := by
  obtain ⟨he, hx⟩ := List.getElem?_eq_some_iff.mp h
  exact List.mem_iff_getElem.mpr ⟨e, by simpa using he, by simp [hx]⟩

theorem mem_zip_of_getElem? {α β : Type} {l : List α} {l' : List β} {e : Nat} {x : α} {y : β} (h : l[e]? = some x) (h' : l'[e]? = some y) : (x, y) ∈ l.zip l' := by
  obtain ⟨he, hx⟩ := List.getElem?_eq_some_iff.mp h
  obtain ⟨he', hy⟩ := List.getElem?_eq_some_iff.mp h'
  exact List.mem_iff_getElem.mpr ⟨e, by simp [he, he'], by simp [hx, hy]⟩

theorem chainBlocks_eq (l : Lane) : chainBlocks l = [if Config.csaveCtrFirst then l.ctr else l.bout, if Config.csaveCtrFirst then l.bout else l.ctr] := by
  unfold chainBlocks
  cases Config.csaveCtrFirst <;> rfl

section pairs
variable {α β : Type} (x y : α → β) (l : List α) (e : Nat)

theorem length_flatMap_pair : (l.flatMap fun n => [x n, y n]).length = 2 * l.length := by
  induction l with
  | nil => rfl
  | cons a l ih => simp only [List.flatMap_cons, List.length_append, ih, List.length_cons, List.length_nil]; omega

theorem getElem?_flatMap_pair : (l.flatMap fun n => [x n, y n])[2 * e]? = l[e]?.map x := by
  induction l generalizing e with
  | nil => rfl
  | cons a l ih => cases e with
    | zero => rfl
    | succ e => exact ih e

theorem getElem?_flatMap_pair_succ : (l.flatMap fun n => [x n, y n])[2 * e + 1]? = l[e]?.map y := by
  induction l generalizing e with
  | nil => rfl
  | cons a l ih => cases e with
    | zero => rfl
    | succ e => exact ih e

end pairs

section lanes
variable {s : State} {a : At} {u : Fin 32} {m : BitVec 8} {i : Inst} {g : Nat} (h : IssuesOn s a uLG u i g)
include h

theorem ctri_lands (hk : ∀ n ∈ lanesOf g m, ∀ k, ((arrived s a).lane n).key = some k → k.binding = 1 ∨ k.binding = 2) (hb : i.baseSpent = false)
    (hw : i.base % 2 ^ i.baseWidth + (lanesOf g m).length ≤ 2 ^ i.baseWidth) :
    ∃ t j, exec (.ctri a u m) s = .next t ∧ (t.seq a.fs).inst = some j ∧
      (∀ e n, (lanesOf g m)[e]? = some n → (⟨a.cyc + 1, a.cyc, .ctr n (BitVec.ofNat 128 (ctrAdd i.baseWidth i.base e)) false⟩ : Landing) ∈ j.flight) ∧
      (⟨a.cyc + 1, a.cyc, .base (ctrAdd i.baseWidth i.base (lanesOf g m).length)
        (decide (i.base % 2 ^ i.baseWidth + (lanesOf g m).length = 2 ^ i.baseWidth))⟩ : Landing) ∈ j.flight := by
  have hkeys : ((lanesOf g m).any fun n => match ((arrived s a).lane n).key with
      | none => false
      | some k => decide (k.binding ≠ 1 ∧ k.binding ≠ 2)) = false := by
    rw [List.any_eq_false]
    intro n hn
    cases e : ((arrived s a).lane n).key with
    | none => simp
    | some k => simpa using fun h1 => (hk n hn k e).resolve_left h1
  have hrun : exec (.ctri a u m) s = .next (launch (launch (arrived s a) a (((List.range (lanesOf g m).length).zip (lanesOf g m)).map (fun e =>
      (1, LandEff.ctr e.2 (BitVec.ofNat 128 (ctrAdd i.baseWidth i.base e.1)) false)))) a
      [(1, .base (ctrAdd i.baseWidth i.base (lanesOf g m).length) (decide (i.base % 2 ^ i.baseWidth + (lanesOf g m).length ≥ 2 ^ i.baseWidth)))]) := by
    refine congrArg done ((issueOn_acts h _).trans (if_neg ?_))
    rintro (h1 | h1 | h1)
    · exact Bool.false_ne_true (hkeys.symm.trans h1)
    · exact Bool.false_ne_true (hb.symm.trans h1)
    · omega
  obtain ⟨j1, hj1⟩ := inst_launch (effs := ((List.range (lanesOf g m).length).zip (lanesOf g m)).map (fun e =>
      (1, LandEff.ctr e.2 (BitVec.ofNat 128 (ctrAdd i.baseWidth i.base e.1)) false))) h.now
  obtain ⟨j, hj⟩ := inst_launch (effs := [(1, .base (ctrAdd i.baseWidth i.base (lanesOf g m).length)
    (decide (i.base % 2 ^ i.baseWidth + (lanesOf g m).length ≥ 2 ^ i.baseWidth)))]) hj1
  refine ⟨_, j, hrun, hj, fun e n hn => ?_, ?_⟩
  · exact (inFlight_launch (e := (1, .ctr n (BitVec.ofNat 128 (ctrAdd i.baseWidth i.base e)) false))
      (List.mem_map.mpr ⟨(e, n), mem_range_zip hn, rfl⟩) rfl).launch rfl _ j hj
  · have hx := inFlight_launch (e := (1, .base (ctrAdd i.baseWidth i.base (lanesOf g m).length)
      (decide (i.base % 2 ^ i.baseWidth + (lanesOf g m).length ≥ 2 ^ i.baseWidth)))) List.mem_cons_self rfl j hj
    rw [show decide (i.base % 2 ^ i.baseWidth + (lanesOf g m).length = 2 ^ i.baseWidth) =
      decide (i.base % 2 ^ i.baseWidth + (lanesOf g m).length ≥ 2 ^ i.baseWidth) from decide_eq_decide.mpr (by omega)]
    exact hx

theorem hld_lands (hr : ∀ e < (lanesOf g m).length, ∃ pg bl, ringPlace i (reelOf i u) (((arrived s a).group g).hp.toNat + e) = some (pg, bl) ∧
      ((arrived s a).page pg).phase = .staged) :
    ∃ t j, exec (.hld a u m false true) s = .next t ∧ (t.seq a.fs).inst = some j ∧
      (⟨a.cyc + 3 + (lanesOf g m).length, a.cyc, .hp g (advanceHp i ((arrived s a).group g).hp (lanesOf g m).length)⟩ : Landing) ∈ j.flight ∧
      ∀ e n pg bl, (lanesOf g m)[e]? = some n → ringPlace i (reelOf i u) (((arrived s a).group g).hp.toNat + e) = some (pg, bl) →
        (⟨a.cyc + 3 + (lanesOf g m).length, a.cyc, .bin n ((arrived s a).hold (pg * 256 + bl))⟩ : Landing) ∈ j.flight := by
  rw [Nat.add_assoc]
  obtain ⟨bs, hbs, -, hblocks⟩ := readRings_staged h.clean hr
  have hrun : exec (.hld a u m false true) s = .next (launch (launch (arrived s a) a
      (((lanesOf g m).zip bs).map (fun e => (3 + (lanesOf g m).length, LandEff.bin e.1 e.2)))) a
      [(3 + (lanesOf g m).length, .hp g (advanceHp i ((arrived s a).group g).hp (lanesOf g m).length))]) := by
    refine congrArg done ((issueOn_acts h _).trans ?_)
    simp only [hbs]
    rfl
  obtain ⟨j1, hj1⟩ := inst_launch (effs := ((lanesOf g m).zip bs).map (fun e => (3 + (lanesOf g m).length, LandEff.bin e.1 e.2))) h.now
  obtain ⟨j, hj⟩ := inst_launch (effs := [(3 + (lanesOf g m).length, .hp g (advanceHp i ((arrived s a).group g).hp (lanesOf g m).length))]) hj1
  refine ⟨_, j, hrun, hj, inFlight_launch (e := (_, .hp g _)) List.mem_cons_self rfl j hj, fun e n pg bl hn hp => ?_⟩
  obtain ⟨he, -⟩ := List.getElem?_eq_some_iff.mp hn
  exact (inFlight_launch (e := (3 + (lanesOf g m).length, .bin n ((arrived s a).hold (pg * 256 + bl))))
    (List.mem_map.mpr ⟨(n, _), mem_zip_of_getElem? hn (hblocks e he pg bl hp), rfl⟩) rfl).launch rfl _ j hj

theorem hst_lands (hr : ∀ e < (lanesOf g m).length, ∃ pg bl, ringPlace i (reelOf i u) (((arrived s a).group g).hp.toNat + e) = some (pg, bl) ∧
      ((arrived s a).page pg).phase ≠ .released) :
    ∃ t j, exec (.hst a u m true) s = .next t ∧ (t.seq a.fs).inst = some j ∧
      (⟨a.cyc + 3 + (lanesOf g m).length, a.cyc, .hp g (advanceHp i ((arrived s a).group g).hp (lanesOf g m).length)⟩ : Landing) ∈ j.flight ∧
      ∀ e n pg bl, (lanesOf g m)[e]? = some n → ringPlace i (reelOf i u) (((arrived s a).group g).hp.toNat + e) = some (pg, bl) →
        (⟨a.cyc + 3 + (lanesOf g m).length, a.cyc, .hold (pg * 256 + bl) ((arrived s a).lane n).bout⟩ : Landing) ∈ j.flight := by
  rw [Nat.add_assoc]
  obtain ⟨⟨j1, hj1⟩, -, hin⟩ := writeRings_kept (L := 3 + (lanesOf g m).length) (bs := (lanesOf g m).map (fun n => ((arrived s a).lane n).bout)) h.now
    (by rw [List.length_map]; exact hr)
  obtain ⟨j, hj⟩ := inst_launch (effs := [(3 + (lanesOf g m).length, .hp g (advanceHp i ((arrived s a).group g).hp (lanesOf g m).length))]) hj1
  refine ⟨_, j, congrArg done (issueOn_acts h _), hj, inFlight_launch (e := (_, .hp g _)) List.mem_cons_self rfl j hj, fun e n pg bl hn hp => ?_⟩
  exact (hin e _ pg bl (by rw [List.getElem?_map, hn]; rfl) hp).launch rfl _ j hj

theorem csave_lands (hr : ∀ e < 2 * (lanesOf g m).length, ∃ pg bl, ringPlace i (reelOf i u) (((arrived s a).group g).hp.toNat + e) = some (pg, bl) ∧
      ((arrived s a).page pg).phase ≠ .released) :
    ∃ t j, exec (.csave a u m) s = .next t ∧ (t.seq a.fs).inst = some j ∧ ∀ e n, (lanesOf g m)[e]? = some n → ∀ p0 b0 p1 b1,
      ringPlace i (reelOf i u) (((arrived s a).group g).hp.toNat + 2 * e) = some (p0, b0) →
      ringPlace i (reelOf i u) (((arrived s a).group g).hp.toNat + 2 * e + 1) = some (p1, b1) →
        (⟨a.cyc + (3 + 2 * (lanesOf g m).length), a.cyc, .hold (p0 * 256 + b0)
          (if Config.csaveCtrFirst then ((arrived s a).lane n).ctr else ((arrived s a).lane n).bout)⟩ : Landing) ∈ j.flight ∧
        (⟨a.cyc + (3 + 2 * (lanesOf g m).length), a.cyc, .hold (p1 * 256 + b1)
          (if Config.csaveCtrFirst then ((arrived s a).lane n).bout else ((arrived s a).lane n).ctr)⟩ : Landing) ∈ j.flight := by
  have hblocks : (lanesOf g m).flatMap (fun n => chainBlocks ((arrived s a).lane n)) = (lanesOf g m).flatMap (fun n =>
      [if Config.csaveCtrFirst then ((arrived s a).lane n).ctr else ((arrived s a).lane n).bout,
        if Config.csaveCtrFirst then ((arrived s a).lane n).bout else ((arrived s a).lane n).ctr]) :=
    congrArg (fun f => List.flatMap f (lanesOf g m)) (funext fun n => chainBlocks_eq _)
  obtain ⟨⟨j, hj⟩, -, hin⟩ := writeRings_kept (L := 3 + 2 * (lanesOf g m).length) (bs := (lanesOf g m).flatMap (fun n => chainBlocks ((arrived s a).lane n)))
    h.now (by rw [hblocks, length_flatMap_pair]; exact hr)
  refine ⟨_, j, congrArg done (issueOn_acts h _), hj, fun e n hn p0 b0 p1 b1 h0 h1 => ⟨?_, ?_⟩⟩
  · exact hin (2 * e) _ p0 b0 (by rw [hblocks, getElem?_flatMap_pair, hn]; rfl) h0 j hj
  · exact hin (2 * e + 1) _ p1 b1 (by rw [hblocks, getElem?_flatMap_pair_succ, hn]; rfl) h1 j hj

theorem crest_lands (hr : ∀ e < 2 * (lanesOf g m).length, ∃ pg bl, ringPlace i (reelOf i u) (((arrived s a).group g).hp.toNat + e) = some (pg, bl) ∧
      ((arrived s a).page pg).phase = .staged) :
    ∃ t j, exec (.crest a u m) s = .next t ∧ (t.seq a.fs).inst = some j ∧ ∀ e n, (lanesOf g m)[e]? = some n → ∀ p0 b0 p1 b1,
      ringPlace i (reelOf i u) (((arrived s a).group g).hp.toNat + 2 * e) = some (p0, b0) →
      ringPlace i (reelOf i u) (((arrived s a).group g).hp.toNat + 2 * e + 1) = some (p1, b1) →
        (⟨a.cyc + (3 + 2 * (lanesOf g m).length), a.cyc, .ctr n ((arrived s a).hold (if Config.csaveCtrFirst then p0 * 256 + b0 else p1 * 256 + b1)) false⟩ :
          Landing) ∈ j.flight ∧
        (⟨a.cyc + (3 + 2 * (lanesOf g m).length), a.cyc, .bout n ((arrived s a).hold (if Config.csaveCtrFirst then p1 * 256 + b1 else p0 * 256 + b0))⟩ :
          Landing) ∈ j.flight := by
  obtain ⟨bs, hbs, -, hblocks⟩ := readRings_staged h.clean hr
  have hrun : exec (.crest a u m) s = .next (launch (arrived s a) a (((List.range (lanesOf g m).length).zip (lanesOf g m)).flatMap (fun e =>
      [(3 + 2 * (lanesOf g m).length, LandEff.ctr e.2 (if Config.csaveCtrFirst then nth 0 bs (2 * e.1) else nth 0 bs (2 * e.1 + 1)) false),
        (3 + 2 * (lanesOf g m).length, LandEff.bout e.2 (if Config.csaveCtrFirst then nth 0 bs (2 * e.1 + 1) else nth 0 bs (2 * e.1)))]))) := by
    refine congrArg done ((issueOn_acts h _).trans ?_)
    simp only [hbs]
    cases Config.csaveCtrFirst <;> rfl
  obtain ⟨j, hj⟩ := inst_launch (effs := ((List.range (lanesOf g m).length).zip (lanesOf g m)).flatMap (fun e =>
      [(3 + 2 * (lanesOf g m).length, LandEff.ctr e.2 (if Config.csaveCtrFirst then nth 0 bs (2 * e.1) else nth 0 bs (2 * e.1 + 1)) false),
        (3 + 2 * (lanesOf g m).length, LandEff.bout e.2 (if Config.csaveCtrFirst then nth 0 bs (2 * e.1 + 1) else nth 0 bs (2 * e.1)))])) h.now
  refine ⟨_, j, hrun, hj, fun e n hn p0 b0 p1 b1 h0 h1 => ?_⟩
  obtain ⟨he, -⟩ := List.getElem?_eq_some_iff.mp hn
  have hx : nth 0 bs (2 * e) = (arrived s a).hold (p0 * 256 + b0) := by rw [nth, hblocks (2 * e) (by omega) p0 b0 h0]; rfl
  have hy : nth 0 bs (2 * e + 1) = (arrived s a).hold (p1 * 256 + b1) := by rw [nth, hblocks (2 * e + 1) (by omega) p1 b1 h1]; rfl
  have hin : ∀ x, x ∈ [(3 + 2 * (lanesOf g m).length, LandEff.ctr n (if Config.csaveCtrFirst then nth 0 bs (2 * e) else nth 0 bs (2 * e + 1)) false),
        (3 + 2 * (lanesOf g m).length, LandEff.bout n (if Config.csaveCtrFirst then nth 0 bs (2 * e + 1) else nth 0 bs (2 * e)))] → x.2.stays = true →
      (⟨a.cyc + x.1, a.cyc, x.2⟩ : Landing) ∈ j.flight := fun x hmem hstays =>
    inFlight_launch (List.mem_flatMap.mpr ⟨(e, n), mem_range_zip hn, hmem⟩) hstays j hj
  rw [hx, hy, ← apply_ite, ← apply_ite] at hin
  exact ⟨hin _ List.mem_cons_self rfl, hin _ (List.mem_cons_of_mem _ List.mem_cons_self) rfl⟩

end lanes

/-- Settles O16: what each transfer puts in flight, its blocks placed one by one round the ring. -/
theorem laneMoves : Obligations.LaneMoves := by
  refine ⟨fun s a u i g h => ?_, fun s a u m i g h => ?_⟩
  · dsimp only
    refine ⟨fun r => launches_of h rfl rfl, fun m => ⟨launches_of h rfl rfl, launches_of h rfl rfl, ctri_lands h, fun k n hn => ?_⟩,
      fun m => hld_lands h, fun m => hst_lands h, fun page pg hpg => ?_⟩
    · exact launches_of (l := [(6, .slotKey n ((lanesOf g m).flatMap (fun l => octetsOf ((arrived s a).lane l).bout)))]) h rfl (by simp only [hn])
    · exact launches_of (l := [(1, .hrel pg)]) h rfl (by simp only [show (ringOf i (reelOf i u))[page.val]? = some pg from hpg])
  · exact ⟨csave_lands h, crest_lands h⟩

end Sys2Proof.Machine
end

section
/-! SUPPORT. GHASH, the tweak units (R142, R150) and key delivery (R141, R188, R232, R245). -/
namespace Sys2Proof.Machine

section units
variable {s : State} {a : At} {op : Instr} {i : Inst} {ty u n : Nat} {f : State → Inst → Nat → State}

/-- An operation on a unit that the run holds leaves the state that it says. -/
theorem exec_of_issueOn {t : State} (h : IssuesOn s a ty u i n) (hi : exec op s = done (issueOn s a ty u f)) (hf : f (arrived s a) i n = t) :
    exec op s = .next t := by
  rw [hi, issueOn_acts h, hf]
  rfl

theorem if_faults {t t' : State} (h : IssuesOn s a ty u i n) : (if a.faults ≠ [] then t' else t) = t := if_neg fun e => e h.clean

end units

/-- GHA, GHB and GHL absorb a block into Y (R96). -/
theorem launches_absorb {s : State} {a : At} {op : Instr} {i : Inst} {u g : Nat} {blk : State → Nat → Block} (h : IssuesOn s a uLG u i g)
    (hi : exec op s = done (ghAbsorb a u blk s)) :
    Launches op s a [(8, .gy g (gfMul (((arrived s a).group g).y ^^^ blk (arrived s a) g) ((arrived s a).group g).h))] :=
  launches_of (f := fun s _ g => if a.faults ≠ [] then unitFault s a g else launch s a [(8, .gy g (gfMul ((s.group g).y ^^^ blk s g) (s.group g).h))])
    h hi (if_faults h)

/-- Settles O18: each unit's operation on the state that has arrived, its refusals first. -/
theorem ghashAndTweaks : Obligations.GhashAndTweaks := by
  refine ⟨fun s a u i g h => ?_, fun s a u i x h => ?_⟩
  · dsimp only
    refine ⟨launches_of h rfl rfl, fun lane => ⟨launches_of h rfl rfl, ?_, ?_, fun r => launches_of h rfl rfl, fun pg bl hp hs => ?_⟩, fun r => ?_⟩
    · exact (launches_absorb (op := .gha a u lane) h rfl :)
    · exact (launches_absorb (op := .ghb a u lane) h rfl :)
    · exact launches_of (op := .gtag a u lane false) h rfl ((if_neg Bool.false_ne_true).trans (writeRing_kept hp hs))
    · exact (launches_absorb (op := .ghl a u r) h rfl :)
  · dsimp only
    refine ⟨fun he => ?_, fun he => ?_, fun r => ⟨fun hk => ?_, fun k2 hk => ⟨fun hn => ?_, fun hn => ?_⟩⟩⟩
    · exact launches_of (op := .twn a u) h rfl ((if_neg (by omega)).trans (if_faults h))
    · exact exec_of_issueOn (op := .twn a u) h rfl (if_pos he)
    · exact exec_of_issueOn (op := .twi a u r) h rfl (by simp only [hk])
    · obtain ⟨p, hp, hle⟩ := hn
      have hany : (i.lastUnit.any fun p => decide (unitNumber ((arrived s a).seq a.fs) r ≤ p)) = true := by
        have hle' : unitNumber ((arrived s a).seq a.fs) r ≤ p := hle
        simp only [hp, Option.any_some, hle', decide_true]
      refine exec_of_issueOn (op := .twi a u r) h rfl ?_
      simp only [hk, hany, if_true]
    · have hany : (i.lastUnit.any fun p => decide (unitNumber ((arrived s a).seq a.fs) r ≤ p)) = false := by
        cases hl : i.lastUnit with
        | none => rfl
        | some p =>
          have hlt : ¬ unitNumber ((arrived s a).seq a.fs) r ≤ p := Nat.not_le.mpr (hn p hl)
          simp only [Option.any_some, hlt, decide_false]
      refine exec_of_issueOn (op := .twi a u r) h rfl ?_
      simp only [hk, hany, if_faults h]
      rfl

/-! ### Key delivery -/

section delivers
variable {s : State} {a : At} {i : Inst} {k cls : Nat} {f : KSlot → State}

theorem deliver_none (hk : k < i.hdr.nKeys) (h : operandSlot s i k = none) : deliver a i k cls s f = monitor s a 3 := by
  rw [deliver, if_neg (by omega), h]

theorem deliver_class {p : Nat} {sl : KSlot} (hk : k < i.hdr.nKeys ∨ cls ≠ 1 ∧ cls ≠ 2) (h : operandSlot s i k = some (p, sl)) {b : Bool}
    (hc : classAdmits i.hdr.fid cls i.dir sl = b) : deliver a i k cls s f = if b then f sl else monitor s a 4 := by
  rw [deliver, if_neg (by omega), h, ← hc]

end delivers

/-- The form of a lane's key (R141) as the declaration's classes give it. -/
theorem decide_inverse (x y : Bool) : decide (¬ x = true ∧ y = true) = (!x && y) := by
  cases x <;> cases y <;> rfl

theorem ite_inverse (x y : Bool) : (if ¬ x = true ∧ y = true then 1 else 0) = if (!x && y) = true then 1 else 0 := by
  cases x <;> cases y <;> rfl

/-- Settles O19: the operand's slot and the destination's class decide. -/
theorem keyDelivery : Obligations.KeyDelivery := by
  intro s a u k i n
  dsimp only
  refine ⟨fun h hk => ⟨fun hs => ⟨fun m => ?_, ?_⟩, fun p sl hs => ⟨fun m hc => ?_, fun m hc => ?_, fun hc => ?_, fun hc => ?_⟩⟩,
    fun h p sl hs => ⟨fun hc => ?_, fun hc => ?_⟩, fun h p sl hs base => ⟨fun hc => ?_, fun hc => ?_⟩⟩
  · exact exec_of_issueOn (op := .klane a u m k) h rfl (deliver_none hk hs)
  · exact exec_of_issueOn (op := .kgh a u k) h rfl (deliver_none hk hs)
  · exact launches_of (op := .klane a u m k) h rfl (by
      simp only [decide_inverse, ite_inverse]
      exact deliver_class (.inl hk) hs hc)
  · exact exec_of_issueOn (op := .klane a u m k) h rfl (by
      simp only [decide_inverse, ite_inverse]
      exact deliver_class (.inl hk) hs hc)
  · exact launches_of (op := .kgh a u k) h rfl (deliver_class (.inl hk) hs hc)
  · exact exec_of_issueOn (op := .kgh a u k) h rfl (deliver_class (.inl hk) hs hc)
  · exact launches_of (op := .kxt a u k) h rfl (deliver_class (.inr (by decide)) hs hc)
  · exact exec_of_issueOn (op := .kxt a u k) h rfl (deliver_class (.inr (by decide)) hs hc)
  · exact launches_of (op := .knu a u k base) h rfl ((if_faults h).trans (deliver_class (.inr (by decide)) hs hc))
  · exact exec_of_issueOn (op := .knu a u k base) h rfl ((if_faults h).trans (deliver_class (.inr (by decide)) hs hc))

end Sys2Proof.Machine
end

section
/-! SUPPORT. The digest units (R162 to R175). -/
namespace Sys2Proof.Machine

section digests
variable {s : State} {a : At} {op : Instr} {i : Inst} {u d : Nat} {f : State → Inst → Nat → State} (h : IssuesOn s a uDU u i d)
include h

theorem exec_of_duOp {t : State} (hi : exec op s = done (duOp a u f s)) (hf : f (arrived s a) i d = t) : exec op s = .next t := by
  rw [hi, duOp_acts h, hf]
  rfl

theorem launches_of_duOp {l : List (Nat × LandEff)} (hi : exec op s = done (duOp a u f s)) (hf : f (arrived s a) i d = launch (arrived s a) a l) :
    Launches op s a l := exec_of_duOp h hi hf

end digests

/-- A lane group that the instance holds is the column it is bound to. -/
theorem withGroup_bound {s : State} {a : At} {i : Inst} {lg col : Nat} {f : Nat → State} (h : boundCol i uLG lg a.cyc = some col) :
    withGroup s a i lg f = f (colUnit uLG col) := by
  rw [withGroup, h]
  rfl

/-- What DOUT reads of a final digest (R166). -/
theorem dRead_final {x : DigestUnit} (hf : x.final = true) (ha : x.alg < 11) : dRead x = (fitOctets (dOut x.alg) x.dig, false, x) := by
  have h11 : ¬ 11 ≤ x.alg := Nat.not_le.mpr ha
  have h15 : x.alg ≠ 15 := by omega
  simp only [dRead, hf, h11, h15, not_true_eq_false, if_false]

/-- An early read is of zeros (R166). -/
theorem dRead_early {x : DigestUnit} (hf : x.final = false) : dRead x = (List.replicate (dOut x.alg) 0, true, x) := by
  simp only [dRead, hf, Bool.false_eq_true, not_false_eq_true, if_true]

theorem inst_onInst {s : State} {fs : Nat} {i : Inst} (h : (s.seq fs).inst = some i) (f : Inst → Inst) : ((s.onInst fs f).seq fs).inst = some (f i) := by
  rw [State.seq_onInst, h]
  rfl

theorem inst_launch_eq {s : State} {a : At} {i : Inst} (h : (s.seq a.fs).inst = some i) (effs : List (Nat × LandEff)) :
    ((launch s a effs).seq a.fs).inst = some { i with flight := addLandings i.flight (effs.map (fun e => ⟨a.cyc + e.1, a.cyc, e.2⟩)) } := inst_onInst h _

theorem inst_noteStop {s : State} {fs : Nat} {j : Inst} (k : StopKind) (h : (s.seq fs).inst = some j) : ∃ j', ((noteStop s fs k).seq fs).inst = some j' :=
  ⟨_, inst_onInst h _⟩

theorem seq_count (s : State) (c o : Fld) (n : Nat) : (s.count c o).seq n = s.seq n := by
  unfold State.count State.seq
  dsimp only
  split <;> rfl

theorem inst_readRing {s : State} {a : At} {i j : Inst} (reel n idx : Nat) (h : (s.seq a.fs).inst = some j) :
    ∃ j', ((readRing s a i reel n idx).1.seq a.fs).inst = some j' := by
  unfold readRing
  split
  · exact ⟨j, h⟩
  · next p b hp =>
    split
    · rw [stagingMiss, seq_count]
      exact inst_noteStop _ h
    · split
      · exact inst_noteStop _ h
      · split
        · rw [seq_count]
          exact ⟨j, h⟩
        · exact ⟨j, h⟩

theorem inst_readRings {s : State} {a : At} {i j : Inst} (reel n k : Nat) (h : (s.seq a.fs).inst = some j) :
    ∃ j', ((readRings s a i reel n k).1.seq a.fs).inst = some j' := by
  induction k with
  | zero => exact ⟨j, h⟩
  | succ k ih =>
    obtain ⟨j', hj'⟩ := ih
    exact inst_readRing _ _ _ hj'

/-- Settles O20: each unit's operation on the state that has arrived. -/
theorem digests : Obligations.Digests := by
  refine ⟨fun s a u i d h => ?_, fun s a u i d h => ?_⟩
  · dsimp only
    refine ⟨fun alg => launches_of_duOp h rfl rfl, fun lg col hg => ⟨fun lane o => ?_, ?_⟩, fun ha hx => ?_, fun h11 ha hx => ?_, fun ha hb => ?_,
      fun hf ha => ?_, fun hf => ?_⟩
    · exact launches_of_duOp (op := .dabs a u lg lane o) h rfl (withGroup_bound hg)
    · exact launches_of_duOp (op := .dtap a u lg) h rfl (withGroup_bound hg)
    · exact exec_of_duOp (op := .dcomp a u) h rfl ((if_neg ha).trans (if_pos (.inl hx)))
    · refine exec_of_duOp (op := .dcomp a u) h rfl ((if_neg ha).trans (if_neg ?_))
      rw [hx]
      simp
      omega
    · refine exec_of_duOp (op := .dfin a u) h rfl ?_
      have hroom : ¬ (((arrived s a).du d).alg ≠ 15 ∧ dRate ((arrived s a).du d).alg ≤ ((arrived s a).du d).buf.length) := fun e => absurd e.2 (Nat.not_le.mpr hb)
      simp only [if_neg hroom]
      cases isSha2 ((arrived s a).du d).alg <;> simp
    · refine exec_of_duOp (op := .dout a u none) h rfl ?_
      simp only [dRead_final hf ha]
      rfl
    · have hinst : ((((arrived s a).setDu d ((arrived s a).du d)).onInst a.fs (fun i => { i with earlyRead := true })).seq a.fs).inst =
          some { i with earlyRead := true } := inst_onInst (s := (arrived s a).setDu d ((arrived s a).du d)) h.now _
      refine ⟨_, _, exec_of_duOp (op := .dout a u none) h rfl (by simp only [dRead_early hf]; rfl), inst_launch_eq hinst _, rfl, ?_⟩
      exact mem_addLandings rfl (.inr List.mem_cons_self)
  · dsimp only
    refine ⟨fun k o p sl hs hc => ⟨fun hp => ?_, fun hp => ?_⟩, fun lg col hg => ⟨fun hk => ?_, fun hk hb hx => ?_, fun rec hr hok => ?_, fun rec hr hok => ?_⟩⟩
    · exact launches_of_duOp (op := .dpad a u k o) h rfl ((deliver_class (.inr (by decide)) hs hc).trans (if_pos hp))
    · exact exec_of_duOp (op := .dpad a u k o) h rfl ((deliver_class (.inr (by decide)) hs hc).trans (if_neg fun e => Bool.false_ne_true (hp.symm.trans e)))
    · exact exec_of_duOp (op := .dsave a u lg) h rfl (if_pos hk)
    · refine exec_of_duOp (op := .dsave a u lg) h rfl ?_
      simp only [hk, hb, hx]
      exact withGroup_bound hg
    · refine exec_of_duOp (op := .drest a u lg) h rfl ((withGroup_bound hg).trans ?_)
      subst hr
      exact if_pos hok
    · rw [hr] at hok
      obtain ⟨j, hj⟩ := inst_readRings (i := i) (reelOf i lg) ((arrived s a).group (colUnit uLG col)).hp.toNat 16 h.now
      have hrun : ∃ effs, exec (.drest a u lg) s = .next (launch ((readRings (arrived s a) a i (reelOf i lg) ((arrived s a).group (colUnit uLG col)).hp.toNat 16).1.onInst
          a.fs (fun i => { i with digErr := true })) a effs) :=
        ⟨_, exec_of_duOp (op := .drest a u lg) h rfl ((withGroup_bound hg).trans (if_neg fun e => Bool.false_ne_true (hok.symm.trans e)))⟩
      obtain ⟨effs, hrun⟩ := hrun
      have hlast := inst_launch_eq (inst_onInst hj fun i => { i with digErr := true }) effs
      exact ⟨_, _, hrun, hlast, rfl⟩

end Sys2Proof.Machine
end

section
/-! SUPPORT. The number units: numbers by their limbs (R184), operands, and the modular commands (R185 to R195). -/
namespace Sys2Proof.Machine

/-! ### Numbers by their limbs (R184) -/

theorem length_limbs (n v : Nat) : (limbs n v).length = n := by
  induction n generalizing v with
  | zero => rfl
  | succ n ih => rw [limbs, List.length_cons, ih]

theorem limbs_lt {n v w : Nat} (h : w ∈ limbs n v) : w < 2 ^ 16 := by
  induction n generalizing v with
  | zero => exact absurd h List.not_mem_nil
  | succ n ih =>
    rcases List.mem_cons.mp h with rfl | h
    · exact Nat.mod_lt _ (by decide)
    · exact ih h

theorem limbVal_limbs (n v : Nat) : limbVal (limbs n v) = v % 2 ^ (16 * n) := by
  induction n generalizing v with
  | zero => simp [limbs, limbVal, Nat.mod_one]
  | succ n ih =>
    rw [limbs, limbVal, ih, show 16 * (n + 1) = 16 + 16 * n by omega, pow_add, Nat.mod_mul]

/-- A modular result: canonical limbs of r, or of r + m (R185). -/
theorem modResult_spec (l m x y r : Nat) (hr : r < m) : (modResult l m x y r).length = l ∧ (∀ w ∈ modResult l m x y r, w < 2 ^ 16) ∧
    (m < 2 ^ (16 * l) → limbVal (modResult l m x y r) = r ∨ limbVal (modResult l m x y r) = r + m) := by
  unfold modResult
  refine ⟨length_limbs _ _, fun w => limbs_lt, fun hm => ?_⟩
  rw [limbVal_limbs]
  split
  · next h => exact .inr (Nat.mod_eq_of_lt h.2)
  · exact .inl (Nat.mod_eq_of_lt (by omega))

/-! ### Operands (R186, R187) -/

theorem nuRead_eq {x : NumUnit} {p n : Nat} {ws : List Nat} (h : nuRead x p n = some ws) :
    ws = (List.range n).map (fun i => (tget 0 x.mem (p + i)).toNat) ∧ p + n ≤ nuWords ∧ ∀ i < n, tget false x.wr (p + i) = true := by
  unfold nuRead at h
  split at h
  · next hc =>
    obtain ⟨hp, hw⟩ := hc
    exact ⟨(Option.some.inj h).symm, hp, fun i hi => List.all_eq_true.mp hw i (List.mem_range.mpr hi)⟩
  · exact nomatch h

theorem length_nuRead {x : NumUnit} {p n : Nat} {ws : List Nat} (h : nuRead x p n = some ws) : ws.length = n := by
  rw [(nuRead_eq h).1, List.length_map, List.length_range]

/-- The first word of an operand that was read. -/
theorem nuRead_first {x : NumUnit} {p n : Nat} {ws : List Nat} (h : nuRead x p n = some ws) (hn : 1 ≤ n) : nuRead x p 1 = some [nth 0 ws 0] := by
  obtain ⟨e, hp, hw⟩ := nuRead_eq h
  have h1 : p + 1 ≤ nuWords ∧ ((List.range 1).all fun i => tget false x.wr (p + i)) = true :=
    ⟨by omega, by simpa using hw 0 (by omega)⟩
  rw [nuRead, if_pos h1, e]
  cases n with
  | zero => omega
  | succ n => simp [nth, List.range_succ_eq_map]

theorem modOperand_eq {x : NumUnit} {c : ModCtx} {n p : Nat} {ws : List Nat} (h : nuRead x p n = some ws) (hv : limbVal ws < 4 * c.m) :
    modOperand x c n p = some (limbVal ws) := by
  rw [modOperand, h]
  exact if_pos hv

theorem all_zipWith_add {p q : List Nat} {l b : Nat} (hp : p.length = l) (hq : q.length = l) (h : ∀ e < l, nth 0 p e + nth 0 q e < b) :
    ((List.zipWith (· + ·) p q).all fun v => decide (v < b)) = true := by
  refine List.all_eq_true.mpr fun v hv => decide_eq_true ?_
  obtain ⟨e, he, rfl⟩ := List.mem_iff_getElem.mp hv
  rw [List.length_zipWith, hp, hq, Nat.min_self] at he
  have hx := h e he
  rw [nth, nth, List.getElem?_eq_getElem (by omega), List.getElem?_eq_getElem (by omega)] at hx
  rw [List.getElem_zipWith]
  exact hx

section commands
variable {s : State} {a : At} {op : Instr} {i : Inst} {u n : Nat} {lat : NumUnit → Nat} {dests : NumUnit → List (Nat × Nat)}
  {run : Nat → Inst → NumUnit → Option NuRes} (h : IssuesOn s a uNU u i n) (hi : exec op s = done (nuOp a u lat dests run s))
include h hi

theorem launches_of_nuOp {r : NuRes} (hd : ∀ d ∈ dests ((arrived s a).nu n), d.1 + d.2 ≤ nuWords) (hr : run n i ((arrived s a).nu n) = some r) :
    Launches op s a (r.writes.map (fun w => (lat ((arrived s a).nu n), nuWrite n w)) ++ r.effs.map (fun e => (lat ((arrived s a).nu n), e))) := by
  rw [Launches, hi, nuOp_acts h lat dests run r hd hr]
  rfl

theorem launches_of_rejects (hr : run n i ((arrived s a).nu n) = none) :
    Launches op s a ((dests ((arrived s a).nu n)).map (fun d => (lat ((arrived s a).nu n), nuWrite n (nuZero d))) ++ [(lat ((arrived s a).nu n), .nuRej n)]) := by
  rw [Launches, hi, nuOp_rejects h lat dests run hr]
  rfl

end commands

/-- LEN is valid. -/
theorem NumUnit.n?_eq {x : NumUnit} (h : 1 ≤ x.len) : x.n? = some x.len := if_neg (by omega)

theorem latNorm_single (n : Nat) : latNorm n false = 2 * (10 + 4 * ((n + 31) / 32)) := congrArg (2 * ·) (Nat.mul_one _)

/-- Settles O21: each command on its operands, which the unit accepts. -/
theorem modularCommands : Obligations.ModularCommands := by
  intro s a u i n c h
  dsimp only
  intro hc hl1 hl2 d p q hd pw qw hp hq hpv hqv hm
  have hn := NumUnit.n?_eq hl1
  have hdest : ∀ e ∈ [(((arrived s a).nu n).addr d, ((arrived s a).nu n).len)], e.1 + e.2 ≤ nuWords := fun e he => by
    obtain rfl := List.mem_singleton.mp he
    exact hd
  have hpo := modOperand_eq hp hpv
  have hqo := modOperand_eq hq hqv
  refine ⟨?_, ?_, ?_, ?_, ?_, fun hsum => ?_, fun v hv => ?_, fun z hpw hlt hz => ?_⟩
  · obtain ⟨h1, h2, h3⟩ := modResult_spec ((arrived s a).nu n).len c.m (limbVal pw) (limbVal qw) _ (Nat.mod_lt (limbVal pw * limbVal qw * montRinv ((arrived s a).nu n).len c.m) hm)
    exact ⟨_, (launches_of_nuOp (op := .mmul a u d p q) h rfl hdest (by simp only [Option.bind_eq_bind, Option.bind_some, hn, hc, hpo, hqo]; rfl) :), h1, h2, h3⟩
  · obtain ⟨h1, h2, h3⟩ := modResult_spec ((arrived s a).nu n).len c.m (limbVal pw) (limbVal pw) _ (Nat.mod_lt (limbVal pw * limbVal pw * montRinv ((arrived s a).nu n).len c.m) hm)
    exact ⟨_, (launches_of_nuOp (op := .msqr a u d p) h rfl hdest (by simp only [Option.bind_eq_bind, Option.bind_some, hn, hc, hpo]; rfl) :), h1, h2, h3⟩
  · have hx := launches_of_nuOp (op := .mnorm a u d p false) h rfl hdest (by simp only [Option.bind_eq_bind, Option.bind_some, hn, hc, hpo]; rfl)
    rw [← latNorm_single]
    exact hx
  · exact (launches_of_nuOp (op := .msel a u d p q q) h rfl hdest (by simp only [Option.bind_eq_bind, Option.bind_some, hn, hp, hq, nuRead_first hq hl1]; rfl) :)
  · exact (launches_of_nuOp (op := .meq a u d p q) h rfl (fun e he => by obtain rfl := List.mem_singleton.mp he; exact le_trans (by omega) hd)
      (by simp only [Option.bind_eq_bind, Option.bind_some, hn, hc, hpo, hqo]; rfl) :)
  · refine (launches_of_nuOp (r := ⟨[(((arrived s a).nu n).addr d, List.zipWith (· + ·) pw qw)], []⟩) (op := .ladd a u d p q) h rfl hdest ?_ :)
    simp only [Option.bind_eq_bind, Option.bind_some, hn, hp, hq]
    exact if_pos (all_zipWith_add (length_nuRead hp) (length_nuRead hq) hsum)
  · obtain ⟨h1, -, h3⟩ := modResult_spec ((arrived s a).nu n).len c.m (limbVal pw) 0 _ (Nat.mod_lt (v * montR ((arrived s a).nu n).len * montR ((arrived s a).nu n).len) hm)
    exact ⟨_, (launches_of_nuOp (op := .minv a u d p) h rfl hdest (by simp only [Option.bind_eq_bind, Option.bind_some, hn, hc, hpo, hv]; rfl) :), h1, h3⟩
  · refine (launches_of_nuOp (r := ⟨[], []⟩) (op := .mchk a u p z) h rfl (fun _ he => absurd he List.not_mem_nil) ?_ :)
    simp only [Option.bind_eq_bind, Option.bind_some, hn, hc, hp]
    exact if_pos ⟨List.all_eq_true.mpr fun w hw => decide_eq_true (hpw w hw), hlt, by cases z <;> simp_all⟩

end Sys2Proof.Machine
end

section
/-! SUPPORT. The rest of the modular commands (R185, R186, R192): LSUB, MEXP, MSET, MSCAN, the extended Euclid and exponentiation by bits. -/
namespace Sys2Proof.Machine

/-! ### Exponentiation by bits -/

/-- Settles O23: by induction on the bits; a step squares the base and, where the bit is set, multiplies it in. -/
theorem modularPower : Obligations.ModularPower := by
  intro m k x e r hm he hr
  induction k generalizing x e r with
  | zero =>
    obtain rfl : e = 0 := by omega
    rw [modPow, pow_zero, mul_one, Nat.mod_eq_of_lt hr]
  | succ k ih =>
    have hsplit : e = 2 * (e / 2) + e % 2 := by omega
    have hhalf : e / 2 < 2 ^ k := by rw [pow_succ] at he; omega
    have hsquare : ∀ y, y * (x * x % m) ^ (e / 2) % m = y * x ^ (2 * (e / 2)) % m := fun y => by
      rw [pow_mul, sq, Nat.mul_mod, ← Nat.pow_mod, ← Nat.mul_mod]
    rw [modPow]
    by_cases hb : e % 2 = 1
    · rw [if_pos hb, ih _ _ _ hhalf (Nat.mod_lt _ hm), hsquare]
      conv_rhs => rw [hsplit, hb, pow_succ]
      rw [Nat.mod_mul_mod]
      congr 1
      ring
    · rw [if_neg hb, ih _ _ _ hhalf hr, hsquare]
      conv_rhs => rw [hsplit, show e % 2 = 0 by omega, Nat.add_zero]

/-! ### The extended Euclid -/

/-- What the remainders and coefficients keep: t0·a and t1·a are congruent to r0 and r1. -/
theorem invAux_spec {a m : Nat} (hm : 2 ≤ m) (k r0 r1 : Nat) (t0 t1 : Int) (h0 : t0 * a ≡ r0 [ZMOD m]) (h1 : t1 * a ≡ r1 [ZMOD m]) {x : Nat}
    (hx : invAux m k r0 r1 t0 t1 = some x) : x < m ∧ a * x % m = 1 := by
  induction k generalizing r0 r1 t0 t1 with
  | zero => exact nomatch hx
  | succ k ih =>
    rw [invAux] at hx
    split at hx
    · split at hx
      · next hr0 =>
        obtain rfl := Option.some.inj hx
        have hpos : (0 : Int) < m := by omega
        have hx0 := Int.emod_nonneg t0 hpos.ne'
        refine ⟨by have := Int.emod_lt_of_pos t0 hpos; omega, ?_⟩
        have hone : (a * (t0 % m)) % (m : Int) = 1 := by
          rw [Int.mul_emod, Int.emod_emod, ← Int.mul_emod, mul_comm, h0, hr0]
          exact Int.emod_eq_of_lt (by decide) (by omega)
        have hcast : ((a * (t0 % m).toNat % m : Nat) : Int) = 1 := by
          push_cast
          rw [Int.toNat_of_nonneg hx0, hone]
        exact_mod_cast hcast
      · exact nomatch hx
    · refine ih _ _ _ _ h1 ?_ hx
      have hr : ((r0 % r1 : Nat) : Int) = r0 - (r0 / r1 : Nat) * r1 := by
        have := Nat.div_add_mod r0 r1
        zify at this ⊢
        linarith
      rw [hr, sub_mul, mul_assoc]
      exact h0.sub (h1.mul_left _)

/-- Each step halves the product of the remainders, and keeps their greatest common divisor. -/
theorem invAux_ends {m : Nat} (k r0 r1 : Nat) (t0 t1 : Int) (hle : r1 ≤ r0) (hk : r0 * r1 < 2 ^ k) (hg : Nat.gcd r0 r1 = 1) :
    ∃ x, invAux m (k + 1) r0 r1 t0 t1 = some x := by
  induction k generalizing r0 r1 t0 t1 with
  | zero =>
    obtain rfl : r1 = 0 := by
      rw [pow_zero] at hk
      have : r0 * r1 = 0 := by omega
      rcases Nat.mul_eq_zero.mp this with h | h <;> omega
    rw [Nat.gcd_zero_right] at hg
    exact ⟨_, by rw [invAux, if_pos rfl, if_pos hg]⟩
  | succ k ih =>
    rw [invAux]
    by_cases h1 : r1 = 0
    · rw [h1, Nat.gcd_zero_right] at hg
      exact ⟨_, by rw [if_pos h1, if_pos hg]⟩
    · rw [if_neg h1]
      have hlt := Nat.mod_lt r0 (Nat.pos_of_ne_zero h1)
      refine ih _ _ _ _ hlt.le ?_ ?_
      · have hdiv := Nat.div_add_mod r0 r1
        have hq : 1 ≤ r0 / r1 := Nat.div_pos hle (Nat.pos_of_ne_zero h1)
        have : r1 + r0 % r1 ≤ r0 := by nlinarith
        rw [pow_succ] at hk
        nlinarith
      · rwa [Nat.gcd_comm, ← Nat.gcd_rec, Nat.gcd_comm]

theorem modInv_spec {a m x : Nat} (hm : 2 ≤ m) (h : modInv a m = some x) : x < m ∧ a * x % m = 1 :=
  invAux_spec hm _ _ _ _ _ (by simp [Int.ModEq]) (by simp [Int.ModEq]) h

theorem modInv_exists {a m : Nat} (hm : 2 ≤ m) (hg : Nat.gcd a m = 1) : ∃ x, modInv a m = some x := by
  have hlt := Nat.mod_lt a (show 0 < m by omega)
  have hlog : m < 2 ^ (Nat.log2 m + 1) := Nat.lt_log2_self
  refine invAux_ends (2 * Nat.log2 m + 3) m (a % m) 0 1 hlt.le ?_ (by rwa [Nat.gcd_comm, ← Nat.gcd_rec, Nat.gcd_comm])
  calc m * (a % m) ≤ m * m := Nat.mul_le_mul_left _ hlt.le
    _ < 2 ^ (Nat.log2 m + 1) * 2 ^ (Nat.log2 m + 1) := Nat.mul_lt_mul'' hlog hlog
    _ = 2 ^ (2 * Nat.log2 m + 2) := by rw [← pow_add]; congr 1; omega
    _ ≤ 2 ^ (2 * Nat.log2 m + 3) := Nat.pow_le_pow_right (by decide) (by omega)

/-! ### Loose numbers (R184) -/

theorem length_limbsTop (n v : Nat) : (limbsTop n v).length = n := by
  induction n generalizing v with
  | zero => rfl
  | succ n ih => cases n with
    | zero => rfl
    | succ n => rw [limbsTop, List.length_cons, ih]

theorem limbVal_limbsTop (n v : Nat) : limbVal (limbsTop (n + 1) v) = v := by
  induction n generalizing v with
  | zero => rfl
  | succ n ih =>
    rw [limbsTop, limbVal, ih]
    omega

theorem spread_spec (k : Nat → Nat) (i : Nat) (l : List Nat) : (spread k i l).length = l.length ∧ limbVal (spread k i l) = limbVal l := by
  induction hn : l.length generalizing i l with
  | zero =>
    obtain rfl := List.length_eq_zero_iff.mp hn
    rw [spread]
    exact ⟨rfl, rfl⟩
  | succ n ih =>
    match l, hn with
    | [x], hn =>
      rw [spread]
      exact ⟨hn, rfl⟩
    | x :: y :: rest, hn =>
      have hlen : rest.length + 1 = n := by simpa using hn
      rw [spread]
      split
      · next hc =>
        obtain ⟨h1, h2⟩ := ih (i + 1) ((y - k i % 4) :: rest) (by simpa using hlen)
        refine ⟨by rw [List.length_cons, h1], ?_⟩
        rw [limbVal, h2, limbVal, limbVal, limbVal]
        omega
      · obtain ⟨h1, h2⟩ := ih (i + 1) (y :: rest) (by simpa using hlen)
        exact ⟨by rw [List.length_cons, h1], by rw [limbVal, h2, limbVal, limbVal, limbVal]⟩

theorem nth_zipWith {α β γ : Type} (f : α → β → γ) {p : List α} {q : List β} {e : Nat} (da : α) (db : β) (dc : γ) (hp : e < p.length) (hq : e < q.length) :
    nth dc (List.zipWith f p q) e = f (nth da p e) (nth db q e) := by
  simp [nth, hp, hq]

theorem all_of_nth {α : Type} {l : List α} {f : α → Bool} (x : α) (h : ∀ e < l.length, f (nth x l e) = true) : l.all f = true := by
  refine List.all_eq_true.mpr fun v hv => ?_
  obtain ⟨e, he, rfl⟩ := List.mem_iff_getElem.mp hv
  have := h e he
  rwa [nth, List.getElem?_eq_getElem he] at this

theorem nuZero_of_le {d k : Nat} (h : d + k ≤ nuWords) : nuZero (d, k) = (d, List.replicate k 0) := by
  rw [nuZero, Nat.min_eq_left (by omega)]

/-- What a launch puts in flight. -/
theorem lands_of_launches {op : Instr} {s : State} {a : At} {i : Inst} {l : List (Nat × LandEff)} (h : Launches op s a l) (hi : ((arrived s a).seq a.fs).inst = some i) :
    ∃ t j, exec op s = .next t ∧ (t.seq a.fs).inst = some j ∧ ∀ e ∈ l, e.2.stays = true → (⟨a.cyc + e.1, a.cyc, e.2⟩ : Landing) ∈ j.flight := by
  obtain ⟨j, hj⟩ := inst_launch (effs := l) hi
  exact ⟨_, j, h, hj, fun e he hs => inFlight_launch he hs j hj⟩

/-! ### The statement -/

section units
variable {s : State} {a : At} {u : Fin 32} {i : Inst} {n : Nat} (h : IssuesOn s a uNU u i n) (hl1 : 1 ≤ ((arrived s a).nu n).len) {d p q : Fin 16}
include h hl1

theorem lsub_launches (hd : ((arrived s a).nu n).addr d + ((arrived s a).nu n).len ≤ nuWords) {c : ModCtx} {pw qw : List Nat}
    (hc : ((arrived s a).nu n).mctx = some c) (hp : nuRead ((arrived s a).nu n) (((arrived s a).nu n).addr p) ((arrived s a).nu n).len = some pw)
    (hq : nuRead ((arrived s a).nu n) (((arrived s a).nu n).addr q) ((arrived s a).nu n).len = some qw) (hqv : limbVal qw < 4 * c.m)
    (hm : c.m4.length = ((arrived s a).nu n).len)
    (hfit : ∀ e < ((arrived s a).nu n).len, nth 0 qw e ≤ nth 0 pw e + nth 0 c.m4 e ∧ nth 0 pw e + nth 0 c.m4 e - nth 0 qw e < 2 ^ 18) :
    ∃ ws, Launches (.lsub a u d p q) s a [(2 * (4 + (((arrived s a).nu n).len + 31) / 32), nuWrite n (((arrived s a).nu n).addr d, ws))] ∧
      ws.length = ((arrived s a).nu n).len ∧ ∀ e < ((arrived s a).nu n).len, nth 0 ws e = nth 0 pw e + nth 0 c.m4 e - nth 0 qw e := by
  have hdest : ∀ e ∈ [(((arrived s a).nu n).addr d, ((arrived s a).nu n).len)], e.1 + e.2 ≤ nuWords := fun e he => by
    obtain rfl := List.mem_singleton.mp he
    exact hd
  have lp := length_nuRead hp
  have lq := length_nuRead hq
  have lm : (List.zipWith (· + ·) pw c.m4).length = ((arrived s a).nu n).len := by rw [List.length_zipWith, lp, hm, Nat.min_self]
  have hpm : ∀ e < ((arrived s a).nu n).len, nth 0 (List.zipWith (· + ·) pw c.m4) e = nth 0 pw e + nth 0 c.m4 e := fun e he =>
    nth_zipWith _ 0 0 0 (by omega) (by omega)
  have hws : ∀ e < ((arrived s a).nu n).len, nth 0 (List.zipWith (· - ·) (List.zipWith (· + ·) pw c.m4) qw) e = nth 0 pw e + nth 0 c.m4 e - nth 0 qw e := fun e he => by
    rw [nth_zipWith _ 0 0 0 (by omega) (by omega), hpm e he]
  have hlen : (List.zipWith (· - ·) (List.zipWith (· + ·) pw c.m4) qw).length = ((arrived s a).nu n).len := by
    rw [List.length_zipWith, lm, lq, Nat.min_self]
  have hge : (((List.zipWith (· + ·) pw c.m4).zip qw).all fun e => decide (e.2 ≤ e.1)) = true := by
    refine all_of_nth (0, 0) fun e he => ?_
    rw [List.length_zip, lm, lq, Nat.min_self] at he
    rw [List.zip, nth_zipWith _ 0 0 (0, 0) (by omega) (by omega), hpm e he]
    exact decide_eq_true (hfit e he).1
  have hlt : ((List.zipWith (· - ·) (List.zipWith (· + ·) pw c.m4) qw).all fun v => decide (v < 2 ^ 18)) = true := by
    refine all_of_nth 0 fun e he => ?_
    rw [hlen] at he
    rw [hws e he]
    exact decide_eq_true (hfit e he).2
  refine ⟨List.zipWith (· - ·) (List.zipWith (· + ·) pw c.m4) qw, ?_, hlen, hws⟩
  exact (launches_of_nuOp (op := .lsub a u d p q) h rfl hdest (by
    simp only [Option.bind_eq_bind, Option.bind_some, NumUnit.n?_eq hl1, hc, hp, hq, modOperand_eq hq hqv, if_pos hge, if_pos hlt]; rfl) :)

end units

/-- Settles O22: each command on its operands, and the extended Euclid's inverse. -/
theorem modularUnits : Obligations.ModularUnits := by
  refine ⟨fun s a u i n h => ?_, fun a m hm => ⟨fun x hx => modInv_spec hm hx, fun hg => modInv_exists hm hg⟩⟩
  dsimp only
  intro hl1 hl2 d p q hd
  have hn := NumUnit.n?_eq hl1
  have hdest : ∀ e ∈ [(((arrived s a).nu n).addr d, ((arrived s a).nu n).len)], e.1 + e.2 ≤ nuWords := fun e he => by
    obtain rfl := List.mem_singleton.mp he
    exact hd
  have hnone : ∀ e ∈ ([] : List (Nat × Nat)), e.1 + e.2 ≤ nuWords := fun _ he => absurd he List.not_mem_nil
  refine ⟨fun c pw qw hc hp hq hqv hm hfit => lsub_launches h hl1 hd hc hp hq hqv hm hfit, fun c pw opt ew hc hp hpv hq => ?_, fun pw hp hodd h3 htop => ?_,
    fun pw r2 m4 mp hp hodd h3 htop hr2 hm4 hmp => ?_, fun pw hp hbad g => ?_, fun opt tw jw ht hj hw => ⟨fun hlt => ?_, fun hge => ?_⟩, fun hc => ?_⟩
  · have hi : exec (.mexp a u d p q opt) s = done (mexpOp a u d p q opt s) := rfl
    simp only [mexpOp] at hi
    have hx := launches_of_nuOp h hi hdest (by
      simp only [Option.bind_eq_bind, Option.bind_some, hn, hc, modOperand_eq hp hpv, show 64 * (opt.val + 1) / 16 = 4 * (opt.val + 1) by omega, hq]; rfl)
    obtain ⟨t, j, ht, hj, hin⟩ := lands_of_launches hx h.now
    refine ⟨t, j, _, ht, hj, hin _ (List.mem_cons_of_mem _ List.mem_cons_self) rfl, length_limbs _ _, fun hm hm0 => ?_⟩
    obtain ⟨-, -, hv⟩ := modResult_spec ((arrived s a).nu n).len c.m (limbVal pw) (limbVal ew) _ (Nat.mod_lt (modPow c.m (64 * (opt.val + 1))
      (limbVal pw * montRinv ((arrived s a).nu n).len c.m % c.m) (limbVal ew) 1 * montR ((arrived s a).nu n).len) hm0)
    rcases hv hm with e | e
    · rw [e, Nat.mod_mod]
    · rw [e, Nat.add_mod_right, Nat.mod_mod]
  · have hok : ¬ (limbVal pw % 2 = 0 ∨ limbVal pw < 3 ∨ nth 0 pw (((arrived s a).nu n).len - 1) = 0) := by omega
    have hx := launches_of_nuOp (op := .mset a u p false) h rfl hnone (by
      simp only [Option.bind_eq_bind, Option.bind_some, hn, hp, if_neg hok]; rfl)
    obtain ⟨t, j, ht, hj, hin⟩ := lands_of_launches hx h.now
    obtain ⟨hlen, hval⟩ := spread_spec (Config.looseCarry (4 * limbVal pw)) 0 (limbsTop ((arrived s a).nu n).len (4 * limbVal pw))
    refine ⟨t, j, _, _, ht, hj, hin _ (List.mem_cons_of_mem _ List.mem_cons_self) rfl, hlen.trans (length_limbsTop _ _), hval.trans ?_⟩
    rw [show ((arrived s a).nu n).len = ((arrived s a).nu n).len - 1 + 1 by omega]
    exact limbVal_limbsTop _ _
  · have hok : ¬ (limbVal pw % 2 = 0 ∨ limbVal pw < 3 ∨ nth 0 pw (((arrived s a).nu n).len - 1) = 0) := by omega
    exact (launches_of_nuOp (op := .mset a u p true) h rfl hnone (by
      simp only [Option.bind_eq_bind, Option.bind_some, hn, hp, if_neg hok, hr2, hm4, hmp]; rfl) :)
  · exact (launches_of_rejects (op := .mset a u p g) h rfl (by simp only [Option.bind_eq_bind, Option.bind_some, hn, hp, if_pos hbad]) :)
  · have hi : exec (.mscan a u d p q opt) s = done (mscanOp a u d p q opt s) := rfl
    simp only [mscanOp] at hi
    exact (launches_of_nuOp h hi (fun e he => by obtain rfl := List.mem_singleton.mp he; exact hw)
      (by simp only [Option.bind_eq_bind, Option.bind_some, hn, ht, hj, if_pos hlt]; rfl) :)
  · have hi : exec (.mscan a u d p q opt) s = done (mscanOp a u d p q opt s) := rfl
    simp only [mscanOp] at hi
    have hx := launches_of_rejects h hi (by simp only [Option.bind_eq_bind, Option.bind_some, hn, ht, hj, if_neg (Nat.not_lt.mpr hge)])
    rw [List.map_singleton, nuZero_of_le hw] at hx
    exact hx
  · have hx := launches_of_rejects (op := .mmul a u d p q) h rfl (by simp only [Option.bind_eq_bind, Option.bind_some, hn, hc]; rfl)
    rw [List.map_singleton, nuZero_of_le hd] at hx
    exact hx

end Sys2Proof.Machine
end

section
/-! SUPPORT. The lattice commands of the number units (R193). -/
namespace Sys2Proof.Machine

section lattice
variable {s : State} {a : At} {op : Instr} {u : Fin 32} {i : Inst} {n : Nat} {c : LatCtx} {d : Fin 16} {lat : Nat → Nat} {run : NumUnit → LatCtx → Option (List Nat)}
  (h : IssuesOn s a uNU u i n) (hi : exec op s = done (latticeOp a u lat d run s)) (hc : ((arrived s a).nu n).lctx = some c)
  (hw : c.w = ((arrived s a).nu n).w) (hd : ((arrived s a).nu n).addr d + 256 * c.w ≤ nuWords)
include h hi hc hw hd

theorem launches_poly {r : List Nat} (hr : run ((arrived s a).nu n) c = some r) : Launches op s a
    [(2 * lat c.w, nuWrite n (((arrived s a).nu n).addr d, coeffWords c.w (r.map (· % c.q))))] := by
  rw [hw] at hd ⊢
  exact (launches_of_nuOp h hi (fun e he => by obtain rfl := List.mem_singleton.mp he; exact hd) (by simp only [Option.bind_eq_bind, Option.bind_some, hc, hr, hw]; rfl) :)

theorem rejects_poly (hr : run ((arrived s a).nu n) c = none) : Launches op s a
    [(2 * lat c.w, nuWrite n (((arrived s a).nu n).addr d, List.replicate (256 * c.w) 0)), (2 * lat c.w, .nuRej n)] := by
  rw [hw] at hd ⊢
  have hx := launches_of_rejects h hi (by simp only [Option.bind_eq_bind, Option.bind_some, Option.bind_none, hc, hr])
  rw [List.map_singleton, nuZero_of_le hd] at hx
  exact hx

/-- Coefficients that agree modulo q are stored alike. -/
theorem launches_poly_mod {r r' : List Nat} (hr : run ((arrived s a).nu n) c = some r) (hm : r.map (· % c.q) = r'.map (· % c.q)) : Launches op s a
    [(2 * lat c.w, nuWrite n (((arrived s a).nu n).addr d, coeffWords c.w (r'.map (· % c.q))))] := by
  rw [← hm]
  exact launches_poly h hi hc hw hd hr

end lattice

/-- The widths of a unit (R193). -/
theorem NumUnit.w_cases (x : NumUnit) : x.w = 1 ∨ x.w = 2 := by
  unfold NumUnit.w
  split
  · exact .inr rfl
  · exact .inl rfl

theorem map_mod_zipWith {f g : Nat → Nat → Nat} {q : Nat} (hfg : ∀ v w, f v w % q = g v w % q) (p r : List Nat) :
    (List.zipWith f p r).map (· % q) = (List.zipWith g p r).map (· % q) := by
  rw [List.map_zipWith, List.map_zipWith]
  exact congrArg (fun f => List.zipWith f p r) (funext fun v => funext fun w => hfg v w)

theorem map_mod_map {α : Type} {f g : α → Nat} {q : Nat} (hfg : ∀ v, f v % q = g v % q) (p : List α) : (p.map f).map (· % q) = (p.map g).map (· % q) := by
  rw [List.map_map, List.map_map]
  exact congrArg (fun f => List.map f p) (funext fun v => hfg v)

theorem numNtt_eq (l w : Nat) : numNtt l w = 8 + l * (if w = 2 then 36 else 20) := by
  rw [numNtt]
  split <;> rfl

/-- The words that 256 fields of w bits fill. -/
theorem cdiv_fields (w : Nat) : cdiv (256 * w) 16 = 16 * w := by
  unfold cdiv
  omega

theorem latticeCtx_spec {x : NumUnit} {p w : Nat} {c : LatCtx} (h : latticeCtx x p w = some c) : c.w = w ∧ c.q % 2 = 1 ∧ 3 ≤ c.q ∧ c.q < 2 ^ (12 * w) := by
  unfold latticeCtx at h
  obtain ⟨ws, -, h⟩ := Option.bind_eq_some_iff.mp h
  dsimp only at h
  split at h
  · exact nomatch h
  · next hq =>
    obtain rfl := Option.some.inj h
    refine ⟨rfl, ?_, ?_, ?_⟩ <;> dsimp only <;> omega

theorem nth_map_range {k j : Nat} (f : Nat → Nat) (hj : j < k) : nth 0 ((List.range k).map f) j = f j := by
  simp [nth, hj]

theorem compressC_lt (q w v : Nat) : compressC q w v < 2 ^ w := Nat.mod_lt _ (by positivity)

/-- The third share makes the exclusive OR of three the value. -/
theorem xor_shares {v x y w : Nat} (hv : v < 2 ^ w) (hx : x < 2 ^ w) (hy : y < 2 ^ w) (hw : w ≤ 36) :
    x ^^^ y ^^^ (BitVec.ofNat 36 v ^^^ BitVec.ofNat 36 x ^^^ BitVec.ofNat 36 y).toNat = v := by
  have h36 : ∀ n < 2 ^ w, n % 2 ^ 36 = n := fun n hn => Nat.mod_eq_of_lt (lt_of_lt_of_le hn (Nat.pow_le_pow_right (by decide) hw))
  simp only [BitVec.toNat_xor, BitVec.toNat_ofNat, h36 v hv, h36 x hx, h36 y hy]
  refine Nat.eq_of_testBit_eq fun i => ?_
  simp only [Nat.testBit_xor]
  cases v.testBit i <;> cases x.testBit i <;> cases y.testBit i <;> rfl

section lset
variable {s : State} {a : At} {u : Fin 32} {i : Inst} {n : Nat} {p : Fin 16} {wide : Bool} (h : IssuesOn s a uNU u i n)
include h

theorem launches_lset {c : LatCtx} (hc : latticeCtx ((arrived s a).nu n) (((arrived s a).nu n).addr p) (if wide then 2 else 1) = some c) :
    Launches (.lset a u p wide) s a [(48, .nuWidth n (if wide then 2 else 1)), (48, .nuLat n c)] := by
  have hi : exec (.lset a u p wide) s = done (lsetOp a u p wide s) := rfl
  simp only [lsetOp] at hi
  exact launches_of h hi ((if_faults h).trans (by simp only [hc]))

theorem rejects_lset (hc : latticeCtx ((arrived s a).nu n) (((arrived s a).nu n).addr p) (if wide then 2 else 1) = none) :
    Launches (.lset a u p wide) s a [(48, .nuWidth n (if wide then 2 else 1)), (48, .nuRej n)] := by
  have hi : exec (.lset a u p wide) s = done (lsetOp a u p wide s) := rfl
  simp only [lsetOp] at hi
  exact launches_of h hi ((if_faults h).trans (by simp only [hc]))

end lset

/-- Settles O24: each command's coefficients, modulo q, and what a context or too few candidates refuse. -/
theorem lattice : Obligations.Lattice := by
  refine ⟨fun s a u i n c h => ?_, fun s a u i n h => ?_⟩
  · dsimp only
    intro hc hw hq0 d p q hd f g hf hg
    have hww := ((arrived s a).nu n).w_cases
    rw [← hw] at hww
    simp only [decide_eq_true_eq]
    refine ⟨?_, ?_, ?_, fun h1 => ?_, fun e => ⟨?_, ?_⟩, ?_, ?_, fun w hw1 hw2 => ⟨?_, ?_⟩, fun hq => ?_, fun b hb => ?_, fun w hw1 hw2 hdw => ⟨?_, fun b hb => ?_⟩⟩
    · exact (launches_poly_mod (op := .padd a u d p q) h rfl hc hw hd (by simp only [Option.bind_eq_bind, Option.bind_some, hf, hg]; rfl)
        (map_mod_zipWith (fun v w => Nat.mod_mod _ _) f g) :)
    · exact (launches_poly_mod (op := .psub a u d p q) h rfl hc hw hd (by simp only [Option.bind_eq_bind, Option.bind_some, hf, hg]; rfl)
        (map_mod_zipWith (fun v w => Nat.mod_mod _ _) f g) :)
    · exact (launches_poly_mod (op := .pmul a u d p q false) h rfl hc hw hd (by simp only [Option.bind_eq_bind, Option.bind_some, hf, hg]; rfl)
        (map_mod_zipWith (fun v w => Nat.mod_mod _ _) f g) :)
    · exact (launches_poly (op := .pmul a u d p q true) h rfl hc hw hd (by simp only [Option.bind_eq_bind, Option.bind_some, hf, hg, h1, if_true]; rfl) :)
    · rw [← numNtt_eq]
      exact (launches_poly (op := .ntt a u d p e) h rfl hc hw hd (by simp only [hf, Option.map_some]; rfl) :)
    · rw [← numNtt_eq]
      have hi : exec (.intt a u d p e) s = done (inttOp a u d p e s) := rfl
      simp only [inttOp] at hi
      exact (launches_poly_mod h hi hc hw hd (by simp only [hf, Option.map_some]; rfl)
        (map_mod_map (g := fun v => v * (modInv (2 ^ (if e then 8 else 7)) c.q).getD 0) (fun v => Nat.mod_mod _ _) _) :)
    · exact (launches_poly (op := .phint a u d p q true) h rfl hc hw hd (by simp only [Option.bind_eq_bind, Option.bind_some, hf, hg]; rfl) :)
    · exact (launches_poly (op := .phint a u d p q false) h rfl hc hw hd (by simp only [Option.bind_eq_bind, Option.bind_some, hf, hg]; rfl) :)
    · exact (launches_poly (op := .pcomp a u d p w) h rfl hc hw hd (by
        simp only [Option.bind_eq_bind, Option.bind_some, hf, if_pos (And.intro hw1 hw2)]; rfl) :)
    · exact (launches_poly (op := .pdecomp a u d p w) h rfl hc hw hd (by
        simp only [Option.bind_eq_bind, Option.bind_some, hf, if_pos (And.intro hw1 hw2)]; rfl) :)
    · rw [hw] at hd hq
      exact (launches_of_nuOp (op := .psplit a u d p q) h rfl (fun e he => by
          rcases List.mem_cons.mp he with rfl | he
          · exact hd
          · obtain rfl := List.mem_singleton.mp he
            exact hq) (by
        simp only [Option.bind_eq_bind, Option.bind_some, hc, hf, List.map_map]; rfl) :)
    · have hx := launches_of_nuOp (op := .pnorm a u d p q) h rfl (fun e he => by obtain rfl := List.mem_singleton.mp he; exact le_trans (by omega) hd) (by
        simp only [Option.bind_eq_bind, Option.bind_some, hc, hf, hb]; rfl)
      have hany : (f.any fun v => decide (b ≤ centred c.q v)) = true ↔ ∃ v ∈ f, b ≤ centred c.q v := by simp only [List.any_eq_true, decide_eq_true_eq]
      rw [← if_congr hany rfl rfl]
      exact hx
    · have hx := launches_of_nuOp (op := .pack a u d p q w false) h rfl (fun e he => by obtain rfl := List.mem_singleton.mp he; rw [cdiv_fields]; exact hdw) (by
        simp only [Option.bind_eq_bind, Option.bind_some, hc, hf, if_pos (And.intro hw1 hw2), Bool.false_eq_true, if_false]; rfl)
      simp only [cdiv_fields, List.map_id'] at hx
      exact hx
    · have hx := launches_of_nuOp (op := .pack a u d p q w true) h rfl (fun e he => by obtain rfl := List.mem_singleton.mp he; rw [cdiv_fields]; exact hdw) (by
        simp only [Option.bind_eq_bind, Option.bind_some, hc, hf, hb, if_pos (And.intro hw1 hw2), if_true]; rfl)
      simp only [cdiv_fields] at hx
      exact hx
  · dsimp only
    refine ⟨fun p wide => ⟨fun c hc => ?_, fun hc => ?_⟩, fun c hc hw hq0 d p q hd => ⟨fun w ws hw1 hw2 hws => ⟨?_, fun b hb => ?_⟩, fun mode cc o hm ho => ⟨fun hv => ?_, fun hv => ?_⟩,
      fun eta o h1 h4 ho => ?_, fun cc o tau r ho htau ht hr => ?_, fun w f r hf hr hdw => ?_⟩⟩
    · obtain ⟨h1, h2, h3, h4⟩ := latticeCtx_spec hc
      exact ⟨h1, h2, h3, h4, launches_lset h hc⟩
    · exact rejects_lset h hc
    · have hi : exec (.unpack a u d p q w false) s = done (unpackOp a u d p q w false s) := rfl
      simp only [unpackOp] at hi
      exact (launches_poly h hi hc hw hd (by
        simp only [Option.bind_eq_bind, Option.bind_some, cdiv_fields, hws, if_pos (And.intro hw1 hw2), Bool.false_eq_true, if_false]; rfl) :)
    · have hi : exec (.unpack a u d p q w true) s = done (unpackOp a u d p q w true s) := rfl
      simp only [unpackOp] at hi
      exact (launches_poly_mod h hi hc hw hd (by
        simp only [Option.bind_eq_bind, Option.bind_some, cdiv_fields, hws, hb, if_pos (And.intro hw1 hw2), if_true]; rfl)
        (map_mod_map (g := fun j => b + (c.q - limbVal (ws.map (· % 2 ^ 16)) / 2 ^ (w.val * j) % 2 ^ w.val % c.q)) (fun v => Nat.mod_mod _ _) _) :)
    · have hx := launches_poly (op := .prej a u d p q mode cc) h rfl hc hw hd (by
        simp only [Option.bind_eq_bind, Option.bind_some, ho, if_pos hm, if_pos hv]; rfl)
      simp only [if_neg (show ¬ mode.val = 2 by omega)] at hx
      exact hx
    · have hx := rejects_poly (op := .prej a u d p q mode cc) h rfl hc hw hd (by
        simp only [Option.bind_eq_bind, Option.bind_some, ho, if_pos hm, if_neg (Nat.not_le.mpr hv)])
      simp only [if_neg (show ¬ mode.val = 2 by omega)] at hx
      exact hx
    · exact (launches_poly_mod (op := .pcbd a u d p eta) h rfl hc hw hd (by
        simp only [Option.bind_eq_bind, Option.bind_some, ho, if_pos (And.intro h1 h4)]; rfl) (map_mod_map (fun v => Nat.mod_mod _ _) _) :)
    · exact (launches_poly (op := .prej a u d p q 2 cc) h rfl hc hw hd (by
        simp only [Option.bind_eq_bind, Option.bind_some, ho, htau]; exact (if_pos ht).trans hr) :)
    · have hf' : (nuRead ((arrived s a).nu n) (((arrived s a).nu n).addr p) (3 * 256 * c.w)).map (coeffs c.w) = some f := hf
      have hx := launches_of_nuOp (op := .pconv a u d p q w) h rfl (fun e he => by obtain rfl := List.mem_singleton.mp he; rw [← hw]; exact hdw) (by
        simp only [Option.bind_eq_bind, Option.bind_some, hc, hf', hr]; rfl)
      refine ⟨_, _, _, hx, by simp, by simp, by simp, fun j hj => ?_⟩
      simp only [nth_map_range _ hj]
      exact xor_shares (w := w.val) (compressC_lt _ _ _) (Nat.mod_lt _ (by positivity)) (Nat.mod_lt _ (by positivity)) (by omega)

end Sys2Proof.Machine
end

section
/-! SUPPORT. The transfers of the number units (R188 to R191). -/
namespace Sys2Proof.Machine

section transfers
variable {s : State} {a : At} {op : Instr} {u : Fin 32} {i : Inst} {n lat : Nat} {f : State → Inst → Nat → State × List LandEff}
  (h : IssuesOn s a uNU u i n) (hi : exec op s = done (xferOp a u lat f s))
include h hi

theorem exec_of_xfer {t : State} {effs : List LandEff} (hf : f (arrived s a) i n = (t, effs)) :
    exec op s = .next (launch t a (effs.map (fun e => (lat, e)))) := by
  refine exec_of_issueOn h hi ((if_faults h).trans ?_)
  rw [hf]

theorem launches_of_xfer {effs : List LandEff} (hf : f (arrived s a) i n = (arrived s a, effs)) : Launches op s a (effs.map (fun e => (lat, e))) :=
  exec_of_xfer h hi hf

end transfers

/-- Settles O25: what each transfer reads and puts in flight. -/
theorem numberTransfers : Obligations.NumberTransfers := by
  intro s a u i n h
  dsimp only
  refine ⟨fun d r => ⟨?_, ?_, ?_, fun hd => ?_, fun w hw => ?_, fun hw => ?_, ⟨fun hv => ?_, fun hv => ?_⟩, fun c form hf => ⟨fun ws hws hd => ?_, fun ws hws => ?_⟩⟩, fun base => ?_⟩
  · exact (launches_of_xfer (op := .nseta a u d r) h rfl rfl :)
  · exact (launches_of_xfer (op := .ninc a u d r) h rfl rfl :)
  · exact (launches_of_xfer (op := .nstat a u r) h rfl rfl :)
  · exact (launches_of_xfer (op := .nldf a u d r) h rfl (by simp only [nldfEffs, if_pos hd]; rfl) :)
  · exact (launches_of_xfer (op := .nstf a u d r) h rfl (by simp only [nstfEffs, hw]; rfl) :)
  · exact (launches_of_xfer (op := .nstf a u d r) h rfl (by simp only [nstfEffs, hw]; rfl) :)
  · exact (launches_of_xfer (op := .nsetl a u r) h rfl (effs := [.nuLen n ((((arrived s a).seq a.fs).reg r).toNat % 2 ^ 11)]) (congrArg (Prod.mk (arrived s a)) (if_neg (by omega))) :)
  · exact (launches_of_xfer (op := .nsetl a u r) h rfl (effs := [.nuLen n 0, .nuRej n]) (congrArg (Prod.mk (arrived s a)) (if_pos (by omega))) :)
  · have hi : exec (.nldh a u d r c form) s = done (nldhOp a u d r c form s) := rfl
    simp only [nldhOp] at hi
    exact (exec_of_xfer h hi (by simp only [hws, if_pos hd]; rfl) :)
  · have hi : exec (.nsth a u d r c form) s = done (nsthOp a u d r c form s) := rfl
    simp only [nsthOp] at hi
    exact exec_of_issueOn h hi ((if_faults h).trans (by simp only [if_pos hf, hws]))
  · exact (exec_of_issueOn (op := .rndn a u base) h rfl (if_faults h) :)

/-! ### The ends of a run (R89, R93, R104) -/

section ends
variable {s : State} {a : At} {i : Inst} {op : Instr} {f : State → Inst → State} (h : Issues s a i)
include h

theorem exec_of_issue {t : State} (hi : exec op s = done (issue s a f)) (hf : f (arrived s a) i = t) : exec op s = .next t := by
  rw [hi, issue_acts h, hf]
  rfl

theorem launches_of_issue {l : List (Nat × LandEff)} (hi : exec op s = done (issue s a f)) (hf : f (arrived s a) i = launch (arrived s a) a l) :
    Launches op s a l := exec_of_issue h hi hf

end ends

/-- Settles O26: each operation on the run as it stands; a repetition needs a run that the figure still has. -/
theorem runsEnd : Obligations.RunsEnd := by
  intro s a i h
  dsimp only
  refine ⟨fun r => ?_, fun r => ?_, fun k r => ?_, ?_, fun r => ⟨?_, ?_⟩⟩
  · exact (exec_of_issue (op := .rndf a r) h rfl rfl :)
  · exact (launches_of_issue (op := .auth a r) h rfl rfl :)
  · exact (launches_of_issue (op := .res a k r) h rfl rfl :)
  · exact (exec_of_issue (op := .endRun a) h rfl rfl :)
  · exact (exec_of_issue (op := .endReject a r) h rfl rfl :)
  · have hx := exec_of_issue (op := .endRepeat a r) h rfl rfl
    have hlast : (!decide (i.run ≥ i.hdr.repeatMax)) = decide (i.run < i.hdr.repeatMax) := by rw [← decide_not]; exact decide_eq_decide.mpr Nat.not_le
    rw [Bool.decide_and, Bool.decide_and, ← hlast]
    exact hx

end Sys2Proof.Machine
end

section
/-! SUPPORT. What a journal record may change: the journal itself, the events it raises, and, where it fills the journal, what entry into Fault ends
(R269, R282 to R292, R343, R350, R445). -/
namespace Sys2Proof.Machine

/-- A field's place: register and position. -/
def Fld.place (f : Fld) : Nat := f.addr * 32 + f.lo

theorem Fld.key_ne {f g : Fld} (h : f.place ≠ g.place) : f.key ≠ g.key := by
  have hn : ∀ c : RCls, c.num < 8 := by intro c; cases c <;> decide
  have hf := hn f.cls
  have hg := hn g.cls
  unfold Fld.place at h
  unfold Fld.key
  omega

theorem State.rd_wr_place (s : State) {f g : Fld} (v : Nat) (h : f.place ≠ g.place) : (s.wr g v).rd f = s.rd f :=
  State.rd_wr_ne s (Fld.key_ne h) v

/-- The fields that a record, an event or entry into Fault may change, apart from the sources' and the functions'. -/
def touchedFields : List Fld := [Reg.MODE_STAT_MODE, Reg.MODE_STAT_FAULT_CAUSE, Reg.JNL_STAT_LEVEL, Reg.JNL_STAT_STUCK, Reg.JNL_STAT_FLUSHING, Reg.JNL_STAT_LEVEL_CHG,
  Reg.DBG_STAT_ACTIVE, Reg.DBG_STAT_LEVEL, Reg.DBG_STAT_TARGETS, Reg.DBG_LEFT, Reg.RAW_CTL_CLOSE, Reg.RAW_CTL_GO, Reg.RNG_STAT_RAW_OPEN, Reg.RNG_STAT_RAW_PERMIT,
  Reg.RNG_STAT_FIFO, Reg.RNG_STAT_DRBG, Reg.RAW_STAT_BUSY, Reg.INT_LATCH_MODE 0, Reg.INT_LATCH_MODE 1, Reg.ISO_CAPT_FIRST_ONLY, Reg.ISO_CAPT_VIOL_HELD,
  Reg.ISO_CAPT_CMON_HELD, Reg.ISO_CAPT_FLT_HELD, Reg.LEAD_STAT_MC_ALLOWED]

/-- A field that no record changes. -/
structure Fld.Quiet (f : Fld) : Prop where
  low : f.lo < 32
  noQueue : f.addr < 0x40000000000
  noEvent : f.place < (Reg.FUNC_EVT 0).place ∨ (f.place - (Reg.FUNC_EVT 0).place) % 0x2000000 ≠ 0
  noSource : f.place < (Reg.SRC_STAT_STATE 0).place ∨ (Reg.SRC_STAT_STATE 8).place ≤ f.place
  untouched : ∀ g ∈ touchedFields, f.place ≠ g.place

/-- `t` is `s` with records made: the journal, events, and what entry into Fault ends may differ, and nothing else (R282 to R292, R445). -/
structure Recorded (s t : State) : Prop where
  rd : ∀ f : Fld, f.Quiet → t.rd f = s.rd f
  floor : t.floor = { s.floor with pages := t.floor.pages }
  pending : t.pending = s.pending
  free : t.free = s.free
  sc0 : t.sc0 = s.sc0
  sc1 : t.sc1 = s.sc1
  mc : t.mc = s.mc
  mem : t.mem = s.mem
  irq : t.irq = s.irq
  viol : t.viol = s.viol
  holds : t.holds = s.holds
  winLow : t.winLow = s.winLow
  tamp : t.tamp = s.tamp
  otp : t.otp = s.otp
  meas : t.meas = s.meas
  vault : t.vault = s.vault
  ks : t.ks = s.ks
  ballotId : t.ballotId = s.ballotId
  nextUid : t.nextUid = s.nextUid
  queues : t.queues = s.queues
  funcs : t.funcs = s.funcs
  d3 : t.d3 = s.d3
  portA : t.portA = s.portA
  portB : t.portB = s.portB
  spdmM : t.spdmM = s.spdmM
  flrs : t.flrs = s.flrs
  tickets : t.tickets = s.tickets
  sent : t.sent = s.sent
  plx : t.plx = s.plx
  mgmt : t.mgmt = s.mgmt
  blockRst : t.blockRst = s.blockRst
  reset : t.rst = { s.rst with union := t.rst.union, warmReq := t.rst.warmReq }
  rawSrc : t.ent.rawSrc = s.ent.rawSrc
  rawRestart : t.ent.rawRestart = s.ent.rawRestart
  left : ∀ k ∈ t.cmds, k ∈ s.cmds

theorem Recorded.refl (s : State) : Recorded s s := by
  constructor
  case left => exact fun _ hk => hk
  all_goals intros; rfl

theorem Recorded.trans {s t u : State} (h : Recorded s t) (h' : Recorded t u) : Recorded s u where
  rd f hf := (h'.rd f hf).trans (h.rd f hf)
  floor := by rw [h'.floor, h.floor]
  pending := h'.pending.trans h.pending
  free := h'.free.trans h.free
  sc0 := h'.sc0.trans h.sc0
  sc1 := h'.sc1.trans h.sc1
  mc := h'.mc.trans h.mc
  mem := h'.mem.trans h.mem
  irq := h'.irq.trans h.irq
  viol := h'.viol.trans h.viol
  holds := h'.holds.trans h.holds
  winLow := h'.winLow.trans h.winLow
  tamp := h'.tamp.trans h.tamp
  otp := h'.otp.trans h.otp
  meas := h'.meas.trans h.meas
  vault := h'.vault.trans h.vault
  ks := h'.ks.trans h.ks
  ballotId := h'.ballotId.trans h.ballotId
  nextUid := h'.nextUid.trans h.nextUid
  queues := h'.queues.trans h.queues
  funcs := h'.funcs.trans h.funcs
  d3 := h'.d3.trans h.d3
  portA := h'.portA.trans h.portA
  portB := h'.portB.trans h.portB
  spdmM := h'.spdmM.trans h.spdmM
  flrs := h'.flrs.trans h.flrs
  tickets := h'.tickets.trans h.tickets
  sent := h'.sent.trans h.sent
  plx := h'.plx.trans h.plx
  mgmt := h'.mgmt.trans h.mgmt
  blockRst := h'.blockRst.trans h.blockRst
  reset := by rw [h'.reset, h.reset]
  rawSrc := h'.rawSrc.trans h.rawSrc
  rawRestart := h'.rawRestart.trans h.rawRestart
  left k hk := h.left k (h'.left k hk)

theorem Recorded.wr (s : State) {g : Fld} (v : Nat) (h : ∀ f : Fld, f.Quiet → f.place ≠ g.place) : Recorded s (s.wr g v) where
  rd f hf := State.rd_wr_place s v (h f hf)
  floor := rfl
  pending := rfl
  free := rfl
  sc0 := rfl
  sc1 := rfl
  mc := rfl
  mem := rfl
  irq := rfl
  viol := rfl
  holds := rfl
  winLow := rfl
  tamp := rfl
  otp := rfl
  meas := rfl
  vault := rfl
  ks := rfl
  ballotId := rfl
  nextUid := rfl
  queues := rfl
  funcs := rfl
  d3 := rfl
  portA := rfl
  portB := rfl
  spdmM := rfl
  flrs := rfl
  tickets := rfl
  sent := rfl
  plx := rfl
  mgmt := rfl
  blockRst := rfl
  reset := rfl
  rawSrc := rfl
  rawRestart := rfl
  left _ hk := hk

theorem Recorded.wrTouched (s : State) {g : Fld} (v : Nat) (h : g ∈ touchedFields) : Recorded s (s.wr g v) := .wr s v fun _ hf => hf.untouched g h

theorem Recorded.flagTouched (s : State) {g : Fld} (b : Bool) (h : g ∈ touchedFields) : Recorded s (s.flag g b) := .wrTouched s _ h

/-- What a record may change beside registers, changed: floor pages apart, the field equations hold as they stand. -/
theorem Recorded.of_eq {s t : State}
    (h : { t with
      jnl := s.jnl, vectors := s.vectors, halting := s.halting, cache := s.cache, drbg := s.drbg, capHeld := s.capHeld
      ent := { s.ent with rawSrc := t.ent.rawSrc, rawRestart := t.ent.rawRestart }
      ballots := s.ballots, msix := s.msix, rst := { t.rst with union := s.rst.union, warmReq := s.rst.warmReq }, dbg := s.dbg, floor := { t.floor with pages := s.floor.pages } } = s) :
    Recorded s t := by
  constructor
  case left =>
    intro k hk
    rw [← h]
    exact hk
  all_goals intros; rw [← h] <;> rfl

theorem Recorded.ite {s t u : State} {p : Prop} [Decidable p] (h : Recorded s t) (h' : Recorded s u) : Recorded s (if p then t else u) := by
  split
  · exact h
  · exact h'

theorem Recorded.ite_step {s t u : State} {p : Prop} [Decidable p] (h : Recorded s u) (h' : Recorded u t) : Recorded s (if p then t else u) :=
  .ite (h.trans h') h

theorem recorded_withDbg (s : State) (d : DbgSt) : Recorded s { s with dbg := d } := .of_eq rfl

theorem recorded_withEnt (s : State) {e : EntropySt} (hs : e.rawSrc = s.ent.rawSrc) (hr : e.rawRestart = s.ent.rawRestart) : Recorded s { s with ent := e } := by
  constructor
  case rawSrc => exact hs
  case rawRestart => exact hr
  case left => exact fun _ hk => hk
  all_goals intros; rfl

theorem recorded_dropCmds (s : State) (p : Cmd → Bool) : Recorded s { s with cmds := s.cmds.filter p } := by
  constructor
  case left => exact fun k hk => (List.mem_filter.mp hk).1
  all_goals intros; rfl

theorem Recorded.foldl {α : Type} {f : State → α → State} (h : ∀ s x, Recorded s (f s x)) (l : List α) (s : State) : Recorded s (l.foldl f s) := by
  induction l generalizing s with
  | nil => exact .refl s
  | cons x l ih => exact (h s x).trans (ih _)

/-! ### Events -/

theorem recorded_raiseVector (s : State) (f v : Nat) : Recorded s (raiseVector s f v) := by
  unfold raiseVector
  exact .ite (.of_eq rfl) (.of_eq rfl)

theorem recorded_fnEvent (s : State) (f ev : Nat) : Recorded s (fnEvent s f ev) := by
  have hw : Recorded s (s.wr (Reg.FUNC_EVT f) (s.rd (Reg.FUNC_EVT f) + 2 ^ ev)) := .wr s _ fun g hg => by
    have he := hg.noEvent
    simp only [Fld.place, Reg.FUNC_EVT] at he ⊢
    omega
  exact .ite (.refl s) (.ite (hw.trans (recorded_raiseVector ..)) hw)

theorem recorded_pfEvent (s : State) (ev : Nat) : Recorded s (pfEvent s ev) := (recorded_fnEvent ..).trans (recorded_fnEvent ..)

theorem recorded_allEvent (s : State) (ev : Nat) : Recorded s (allEvent s ev) := (recorded_pfEvent s ev).trans (.foldl (fun _ _ => recorded_fnEvent ..) _ _)

/-! ### Records -/

theorem recorded_jput (s : State) (typ src arg : Nat) (payload : List Octet) (cont world flush : Bool) :
    Recorded s (jput s typ src arg payload cont world flush) := by
  unfold jput
  refine .ite (.refl s) (.ite ?_ (.of_eq rfl))
  exact (Recorded.of_eq rfl).trans (.flagTouched _ _ (by simp [touchedFields]))

theorem recorded_jraw (s : State) (typ src arg : Nat) (payload : List Octet) (cont world flush : Bool) :
    Recorded s (jraw s typ src arg payload cont world flush) := by
  have h := recorded_jput s typ src arg payload cont world flush
  exact .ite (h.trans ((recorded_jput ..).trans (.flagTouched _ _ (by simp [touchedFields])))) h

/-! ### Entry into Fault -/

theorem recorded_lapseAllFault (s : State) : Recorded s (lapseAllFault s) := by
  refine .foldl (fun s b => .ite ?_ (.refl s)) _ _
  exact (Recorded.of_eq rfl).trans ((recorded_jraw ..).trans (recorded_pfEvent ..))

theorem recorded_clearDebug (s : State) : Recorded s (clearDebug s) := by
  have h : Recorded s (((s.flag Reg.DBG_STAT_ACTIVE false).wr Reg.DBG_STAT_LEVEL 0).wr Reg.DBG_STAT_TARGETS 0) :=
    ((Recorded.flagTouched _ _ (by simp [touchedFields])).trans (.wrTouched _ _ (by simp [touchedFields]))).trans (.wrTouched _ _ (by simp [touchedFields]))
  exact (h.trans (.of_eq rfl)).trans (.wrTouched _ _ (by simp [touchedFields]))

theorem recorded_askWarm (s : State) (arg b : Nat) : Recorded s (askWarm s arg b) := by
  have h : Recorded s (noteSource s b false) := .of_eq rfl
  exact .ite h (h.trans (.of_eq rfl))

theorem recorded_faultDebug (s : State) : Recorded s (faultDebug s) := by
  unfold faultDebug
  have h : ∀ lvl cert, Recorded s (clearDebug (jraw s 0x0602 0xE7 lvl cert false Config.noMasterWorld false)) := fun lvl cert =>
    (recorded_jraw ..).trans (recorded_clearDebug _)
  exact .ite (.ite ((h _ _).trans ((recorded_askWarm ..).trans (recorded_jraw ..))) (h _ _)) (.refl s)

theorem recorded_source (s : State) {g : Fld} (v : Nat) (h0 : (Reg.SRC_STAT_STATE 0).place ≤ g.place) (h8 : g.place < (Reg.SRC_STAT_STATE 8).place) :
    Recorded s (s.wr g v) := .wr s v fun f hf => by
  have he := hf.noSource
  omega

theorem recorded_countSource (s : State) {c o : Fld} (hc : (Reg.SRC_STAT_STATE 0).place ≤ c.place ∧ c.place < (Reg.SRC_STAT_STATE 8).place)
    (ho : (Reg.SRC_STAT_STATE 0).place ≤ o.place ∧ o.place < (Reg.SRC_STAT_STATE 8).place) : Recorded s (s.count c o) :=
  .ite (recorded_source s _ hc.1 hc.2) ((recorded_source s _ hc.1 hc.2).trans (recorded_source _ _ ho.1 ho.2))

/-- The places of a source's fields. -/
theorem source_places {n : Nat} (h : n < 8) : ∀ g ∈ [Reg.SRC_STAT_STATE n, Reg.SRC_RESTARTS n, Reg.SRC_STAT_RFO n],
    (Reg.SRC_STAT_STATE 0).place ≤ g.place ∧ g.place < (Reg.SRC_STAT_STATE 8).place := by
  intro g hg
  simp only [List.mem_cons, List.not_mem_nil, or_false] at hg
  rcases hg with rfl | rfl | rfl <;> simp only [Fld.place, Reg.SRC_STAT_STATE, Reg.SRC_RESTARTS, Reg.SRC_STAT_RFO] <;> omega

theorem recorded_rawShut (s : State) : Recorded s (rawShut s) := by
  have hn := source_places s.ent.rawSrc.isLt
  unfold rawShut
  have h1 : Recorded s ((s.flag Reg.RAW_CTL_CLOSE false).flag Reg.RAW_CTL_GO false) :=
    (Recorded.flagTouched _ _ (by simp [touchedFields])).trans (.flagTouched _ _ (by simp [touchedFields]))
  refine .ite h1 (h1.trans ?_)
  generalize (s.flag Reg.RAW_CTL_CLOSE false).flag Reg.RAW_CTL_GO false = u
  dsimp only
  have h2 : Recorded u ((u.flag Reg.RNG_STAT_RAW_OPEN false).flag Reg.RAW_STAT_BUSY false) :=
    (Recorded.flagTouched _ _ (by simp [touchedFields])).trans (.flagTouched _ _ (by simp [touchedFields]))
  refine h2.trans ?_
  have hn2 := source_places u.ent.rawSrc.isLt
  generalize u.ent.rawSrc.val = n at hn2
  generalize (u.flag Reg.RNG_STAT_RAW_OPEN false).flag Reg.RAW_STAT_BUSY false = v
  obtain ⟨h0, h8⟩ := hn2 (Reg.SRC_STAT_STATE n) (by simp)
  refine Recorded.trans ?_ (recorded_jraw ..)
  refine .ite_step ?_ (.wrTouched _ _ (by simp [touchedFields]))
  refine Recorded.trans ?_ (.wrTouched _ _ (by simp [touchedFields]))
  refine Recorded.trans ?_ (recorded_withEnt _ rfl rfl)
  exact .ite_step (.refl v) ((recorded_countSource v (hn2 (Reg.SRC_RESTARTS n) (by simp)) (hn2 (Reg.SRC_STAT_RFO n) (by simp))).trans (recorded_source _ _ h0 h8))

theorem recorded_holdCaptures (s : State) : Recorded s (holdCaptures s) := by
  have hflag : ∀ (p : Prop) [Decidable p] (g : Fld) (u : State), g ∈ touchedFields → Recorded u (if p then u.flag g true else u) := fun p _ g u hg =>
    .ite (.flagTouched _ _ hg) (.refl u)
  unfold holdCaptures
  dsimp only
  generalize hu : (if s.viol ≠ [] then s.flag Reg.ISO_CAPT_VIOL_HELD true else s) = u
  have h1 : Recorded s u := hu ▸ hflag _ _ s (by simp [touchedFields])
  generalize hv : (if u.rd Reg.CMON_CAUSE ≠ 0 then u.flag Reg.ISO_CAPT_CMON_HELD true else u) = v
  have h2 : Recorded u v := hv ▸ hflag _ _ u (by simp [touchedFields])
  refine (h1.trans h2).trans (.trans (hflag ((List.range 32).filter (fun r => decide (s.word (Reg.FLT_LAST_LANE r).addr ≠ 0)) ≠ []) Reg.ISO_CAPT_FLT_HELD v
    (by simp [touchedFields])) ?_)
  generalize (if (List.range 32).filter (fun r => decide (s.word (Reg.FLT_LAST_LANE r).addr ≠ 0)) ≠ [] then v.flag Reg.ISO_CAPT_FLT_HELD true else v) = w
  exact .of_eq rfl

theorem recorded_setModeWith (s : State) (m row extra : Nat) : Recorded s (setModeWith s m row extra) := by
  unfold setModeWith
  dsimp only
  refine Recorded.trans ?_ (recorded_allEvent _ _)
  refine .ite_step ?_ ((Recorded.flagTouched _ _ (by simp [touchedFields])).trans (recorded_rawShut _))
  refine .ite_step ?_ (recorded_withDbg _ _)
  refine .ite_step ?_ (.flagTouched _ _ (by simp [touchedFields]))
  refine Recorded.trans ?_ (.flagTouched _ _ (by simp [touchedFields]))
  refine .ite_step ?_ (recorded_holdCaptures _)
  exact ((Recorded.wrTouched s _ (by simp [touchedFields])).trans (recorded_jraw ..)).trans
    ((Recorded.flagTouched _ _ (by simp [touchedFields])).trans (.flagTouched _ _ (by simp [touchedFields])))

theorem recorded_disableQueues (s : State) : Recorded s (disableQueues s) := by
  have hregs : Recorded s { s with regs := s.regs.filter (fun e => !decide (0x40000000000 * 256 ≤ e.1 ∧ e.1 < 0x40001010000 * 256 ∧ e.1 / 8 % 32 = 0 ∧ e.1 / 256 % 32 ∈ [0, 4])) } := by
    constructor
    case rd =>
      intro f hf
      have hkey : f.key < 0x40000000000 * 256 := by
        have hc : f.cls.num < 8 := by cases f.cls <;> decide
        have := hf.low
        have := hf.noQueue
        unfold Fld.key
        omega
      simp only [State.rd]
      rw [tget_filter f.rst s.regs (fun k => !decide (0x40000000000 * 256 ≤ k ∧ k < 0x40001010000 * 256 ∧ k / 8 % 32 = 0 ∧ k / 256 % 32 ∈ [0, 4])), if_pos]
      rw [decide_eq_false (fun e => absurd e.1 (Nat.not_le.mpr hkey))]
      rfl
    case left => exact fun _ hk => hk
    all_goals rfl
  exact (hregs.trans (recorded_dropCmds _ fun c => decide (c.ph = CmdPhase.placed))).trans (.of_eq rfl)

theorem recorded_enterFault (s : State) (cause : Nat) : Recorded s (enterFault s cause) := by
  unfold enterFault
  refine .ite (.refl s) ?_
  have h : Recorded s (disableQueues (faultDebug (lapseAllFault ((setMode s mFault (if s.mode = mSecureBoot ∧ cause ∈ [3, 4, 5, 6] then 7 else 19)).wr
      Reg.MODE_STAT_FAULT_CAUSE cause)))) :=
    ((((recorded_setModeWith ..).trans (.wrTouched _ _ (by simp [touchedFields]))).trans (recorded_lapseAllFault _)).trans (recorded_faultDebug _)).trans
      (recorded_disableQueues _)
  revert h
  dsimp only
  generalize disableQueues _ = u
  exact fun h => h.trans (.of_eq rfl)

theorem recorded_jlevelUpdate (s : State) : Recorded s (jlevelUpdate s) := by
  unfold jlevelUpdate
  refine .ite (.refl s) ?_
  have h : Recorded s (pfEvent ((jraw (s.wr Reg.JNL_STAT_LEVEL s.jlevel) 0x0008 0xE0 s.jlevel (leOctets 4 (s.wr Reg.JNL_STAT_LEVEL s.jlevel).jfree) false
      Config.noMasterWorld false).flag Reg.JNL_STAT_LEVEL_CHG true) 6) :=
    (((Recorded.wrTouched s _ (by simp [touchedFields])).trans (recorded_jraw ..)).trans (.flagTouched _ _ (by simp [touchedFields]))).trans (recorded_pfEvent ..)
  exact .ite (h.trans (recorded_enterFault ..)) h

theorem recorded_jrecG (s : State) (typ src arg : Nat) (payload : List Octet) (cont world flush : Bool) :
    Recorded s (jrecG s typ src arg payload cont world flush) :=
  .ite ((recorded_jraw ..).trans (recorded_enterFault ..)) ((recorded_jraw ..).trans (recorded_jlevelUpdate ..))

theorem recorded_jrec (s : State) (typ src arg : Nat) (payload : List Octet) : Recorded s (jrec s typ src arg payload) := recorded_jrecG ..

end Sys2Proof.Machine
end

section
/-! SUPPORT. What stops a run (R115, R141, R142, Table 4.11): the contract monitor's causes. -/
namespace Sys2Proof.Machine

/-! ### Refused block operations -/

theorem blockOp_noKey {b : BlockKind} {s : State} {a : At} {op : Instr} {u : Fin 32} {m : BitVec 8} {i : Inst} {g : Nat} (h : IssuesOn s a uLG u i g)
    (hi : exec op s = done (blockOp b a u m s)) (hn : ∃ n ∈ lanesOf g m, ((arrived s a).lane n).key = none) : exec op s = .next (monitor (arrived s a) a 3) := by
  refine exec_of_issueOn h hi (if_pos ?_)
  obtain ⟨n, hn, hk⟩ := hn
  exact List.mem_map.mpr ⟨n, hn, by rw [laneRefusal, hk]⟩

theorem laneRefusal_some {b : BlockKind} {l : Lane} {k : LaneKey} (h : l.key = some k) : laneRefusal b l =
    if k.inv ≠ b.inverse ∨ ¬ bindingAdmits b k then 4 else if l.spent ∧ (b = .ctre ∨ b = .ctrk) then 4 else 0 := by
  rw [laneRefusal, h]

theorem blockOp_refuses {b : BlockKind} {s : State} {a : At} {op : Instr} {u : Fin 32} {m : BitVec 8} {i : Inst} {g : Nat} (h : IssuesOn s a uLG u i g)
    (hi : exec op s = done (blockOp b a u m s)) (hall : ∀ n ∈ lanesOf g m, ((arrived s a).lane n).key ≠ none)
    (hn : ∃ n ∈ lanesOf g m, ∃ k, ((arrived s a).lane n).key = some k ∧ (k.inv ≠ b.inverse ∨ bindingAdmits b k = false ∨
      (((arrived s a).lane n).spent = true ∧ (b = .ctre ∨ b = .ctrk)))) : exec op s = .next (monitor (arrived s a) a 4) := by
  have h3 : 3 ∉ (lanesOf g m).map (fun n => laneRefusal b ((arrived s a).lane n)) := fun e => by
    obtain ⟨n, hn, e⟩ := List.mem_map.mp e
    obtain ⟨k, hk⟩ := Option.ne_none_iff_exists'.mp (hall n hn)
    rw [laneRefusal_some hk] at e
    split at e
    · exact absurd e (by decide)
    · split at e <;> exact absurd e (by decide)
  have h4 : 4 ∈ (lanesOf g m).map (fun n => laneRefusal b ((arrived s a).lane n)) := by
    obtain ⟨n, hn, k, hk, hbad⟩ := hn
    refine List.mem_map.mpr ⟨n, hn, ?_⟩
    rw [laneRefusal_some hk]
    rcases hbad with hb | hb | hb
    · rw [if_pos (.inl hb)]
    · rw [if_pos (.inr (by rw [hb]; exact Bool.false_ne_true))]
    · rw [if_pos hb, ite_self]
  exact exec_of_issueOn h hi ((if_neg h3).trans (if_pos h4))

/-! ### Cells that the run does not hold -/

theorem seq_of_floor {s t : State} (h : t.floor.seqs = s.floor.seqs) (n : Nat) : t.seq n = s.seq n := by rw [State.seq, State.seq, h]

theorem Recorded.seq {s t : State} (h : Recorded s t) (n : Nat) : t.seq n = s.seq n := seq_of_floor (by rw [h.floor]) n

theorem seqs_cmonCapture (s : State) (cause fs step slot cyc owner run : Nat) : (cmonCapture s cause fs step slot cyc owner run).floor.seqs = s.floor.seqs := by
  unfold cmonCapture State.count
  split
  · dsimp only
    split <;> rfl
  · dsimp only
    split <;> rfl

theorem quiet_cmf : Reg.FLOOR_STAT_CMF.Quiet where
  low := by decide
  noQueue := by decide
  noEvent := .inl (by decide)
  noSource := .inl (by decide)
  untouched := by decide

/-- The monitor's cause 1 stops the run for a replay, drops what the step issued, and CMF shows it. -/
theorem monitor_replayable {s : State} {a : At} {i : Inst} (h : (s.seq a.fs).inst = some i) : (monitor s a 1).on Reg.FLOOR_STAT_CMF = true ∧
    ((monitor s a 1).seq a.fs).inst = some { i with flight := i.flight.filter (fun l => !decide (l.issued = a.cyc)), stop := some .replayable } := by
  unfold monitor
  simp only [h]
  rw [monAction, if_neg (by decide), if_neg (by decide)]
  have hinst := inst_onInst h fun i => { i with flight := i.flight.filter (fun l => !decide (l.issued = a.cyc)), stop := some (monStop 1) }
  generalize s.onInst a.fs (fun i => { i with flight := i.flight.filter (fun l => !decide (l.issued = a.cyc)), stop := some (monStop 1) }) = u at hinst ⊢
  have hcap := seqs_cmonCapture u 1 a.fs a.step (if 1 = 5 then 0 else a.slot.val) a.cyc (cardOwner i.func) i.run
  generalize cmonCapture u 1 a.fs a.step (if 1 = 5 then 0 else a.slot.val) a.cyc (cardOwner i.func) i.run = v at hcap ⊢
  have hrec := recorded_jrec (v.flag Reg.FLOOR_STAT_CMF true) 0x0303 0xE8 1 (cmonPayload 1 a.fs a.step (if 1 = 5 then 0 else a.slot.val) a.cyc (cardOwner i.func) i.run)
  generalize jrec (v.flag Reg.FLOOR_STAT_CMF true) 0x0303 0xE8 1 (cmonPayload 1 a.fs a.step (if 1 = 5 then 0 else a.slot.val) a.cyc (cardOwner i.func) i.run) = w at hrec ⊢
  constructor
  · change w.on Reg.FLOOR_STAT_CMF = true
    rw [State.on, hrec.rd _ quiet_cmf]
    exact State.on_flag _ (by decide) true
  · change (w.seq a.fs).inst = _
    rw [hrec.seq, seq_of_floor (s := u) (t := v.flag Reg.FLOOR_STAT_CMF true) hcap]
    exact hinst

theorem rd_foldl_wr {α : Type} (s : State) {f : Fld} (g : α → Fld) (v : Nat) (l : List α) (h : ∀ x ∈ l, f.place ≠ (g x).place) :
    (l.foldl (fun s x => s.wr (g x) v) s).rd f = s.rd f := by
  induction l generalizing s with
  | nil => rfl
  | cons x l ih =>
    rw [List.foldl_cons, ih _ fun y hy => h y (List.mem_cons_of_mem _ hy), State.rd_wr_place s v (h x List.mem_cons_self)]

theorem floor_foldl_wr {α : Type} (s : State) (g : α → Fld) (v : Nat) (l : List α) : (l.foldl (fun s x => s.wr (g x) v) s).floor = s.floor := by
  induction l generalizing s with
  | nil => rfl
  | cons x l ih => exact (ih _).trans rfl

theorem rd_retireColumn (s : State) {f : Fld} {col : Nat} (hc : f.place ≠ Reg.FLOOR_CTL_COMMIT.place) (hs : ∀ p, f.place ≠ (Reg.CARD_SHADOW col p).place) :
    (retireColumn s col).rd f = s.rd f := by
  rw [retireColumn, State.flag, State.rd_wr_place _ _ hc]
  exact rd_foldl_wr s _ _ _ fun p _ => hs p

theorem floor_retireColumn (s : State) (col : Nat) : (retireColumn s col).floor = s.floor := by
  have h := floor_foldl_wr s (Reg.CARD_SHADOW col) 0xFFE (List.range 64)
  rw [retireColumn]
  generalize List.foldl _ s (List.range 64) = t at h ⊢
  exact h

theorem cellFault_spec {s : State} {a : At} {i : Inst} (u : Nat) (h : (s.seq a.fs).inst = some i) : (cellFault s a i u).on Reg.FLOOR_STAT_CMF = true ∧
    ((cellFault s a i u).seq a.fs).inst = some { i with flight := i.flight.filter (fun l => !decide (l.issued = a.cyc)), stop := some .replayable } := by
  obtain ⟨hcmf, hinst⟩ := monitor_replayable h
  unfold cellFault
  generalize monitor s a 1 = t at hcmf hinst ⊢
  split
  · next col _ =>
    dsimp only
    split
    · constructor
      · rw [State.on, rd_retireColumn _ (by decide) (fun p => by simp only [Fld.place, Reg.FLOOR_STAT_CMF, Reg.CARD_SHADOW]; omega)]
        rw [latchFault, State.flag, State.rd_wr_place _ _ (by decide), State.flag, State.rd_wr_place _ _ (by decide)]
        exact hcmf
      · rw [seq_of_floor (s := t) (by rw [floor_retireColumn]; rfl)]
        exact hinst
    · exact ⟨hcmf, hinst⟩
  · exact ⟨hcmf, hinst⟩

theorem issueOn_of_duOp {s : State} {a : At} {u : Nat} {op : Instr} {f : State → Inst → Nat → State} (h : exec op s = done (duOp a u f s)) :
    ∃ f, exec op s = done (issueOn s a uDU u f) := ⟨_, h⟩

/-- Settles O27: each refusal by the lanes' keys, and the monitor's cause 1 for each kind of unit. -/
theorem refusedAndUnheld : Obligations.RefusedAndUnheld := by
  refine ⟨fun s a u m i g h => ?_, fun s a u i h op ty hop hb => ?_⟩
  · intro b ls op o hop
    simp only [List.mem_cons, Prod.mk.injEq, List.not_mem_nil, or_false] at hop
    have hi : exec op s = done (blockOp o a u m s) := by
      rcases hop with ⟨rfl, rfl⟩ | ⟨rfl, rfl⟩ | ⟨rfl, rfl⟩ | ⟨rfl, rfl⟩ | ⟨rfl, rfl⟩ | ⟨rfl, rfl⟩ | ⟨rfl, rfl⟩ | ⟨rfl, rfl⟩ <;> rfl
    exact ⟨fun hn => blockOp_noKey h hi hn, fun hall hn => blockOp_refuses h hi hall hn⟩
  · simp only [List.mem_cons, Prod.mk.injEq, List.not_mem_nil, or_false] at hop
    have hi : ∃ f, exec op s = done (issueOn s a ty u f) := by
      rcases hop with ⟨rfl, rfl⟩ | ⟨rfl, rfl⟩ | ⟨rfl, rfl⟩ | ⟨rfl, rfl⟩ | ⟨rfl, rfl⟩ | ⟨rfl, rfl⟩
      · exact ⟨_, show exec (.xorb a u 1) s = done (xorbOp a u 1 s) from rfl⟩
      · exact ⟨_, show exec (.movb a u 1) s = done (movbOp a u 1 s) from rfl⟩
      · exact ⟨_, show exec (.gclr a u) s = done (gclrOp a u s) from rfl⟩
      · exact ⟨_, show exec (.twn a u) s = done (twnOp a u s) from rfl⟩
      · exact issueOn_of_duOp (op := .dcomp a u) rfl
      · have hr : ∀ r, ∃ f, exec (.nstat a u r) s = done (issueOn s a uNU u f) := fun r => ⟨_, rfl⟩
        exact hr 1
    obtain ⟨f, hi⟩ := hi
    have hrun : exec op s = .next (cellFault (arrived s a) a i u) := exec_of_issue h hi (by simp only [hb])
    obtain ⟨hcmf, hinst⟩ := cellFault_spec u h.now
    exact ⟨_, _, hrun, hinst, rfl, hcmf, fun l hl => by simpa using (List.mem_filter.mp hl).2⟩

end Sys2Proof.Machine
end

section
/-! SUPPORT. Actions on lanes and units, and the mask expanders (O28): what stays set while an action's end does its other work. -/
namespace Sys2Proof.Machine

/-- No record changes a field of the floor or of the engines. -/
theorem quiet_of_addr_lt {f : Fld} (hl : f.lo < 32) (ha : f.addr < 0x30140000) : f.Quiet where
  low := hl
  noQueue := by omega
  noEvent := .inl (by simp only [Fld.place, Reg.FUNC_EVT]; omega)
  noSource := .inl (by simp only [Fld.place, Reg.SRC_STAT_STATE]; omega)
  untouched g hg := by
    have hlow : ∀ g ∈ touchedFields, 0x30140000 ≤ g.addr := by decide
    have := hlow g hg
    simp only [Fld.place]
    omega

theorem State.on_flag_place (s : State) {f g : Fld} (b : Bool) (h : f.place ≠ g.place) : (s.flag g b).on f = s.on f := by
  rw [State.on, State.flag, State.rd_wr_place s _ h, State.on]

theorem State.rd_flag_place (s : State) {f g : Fld} (b : Bool) (h : f.place ≠ g.place) : (s.flag g b).rd f = s.rd f := State.rd_wr_place s _ h

/-- A write through a field of the same index shows, where it lists a value. -/
theorem State.rd_wr_key (s : State) {f g : Fld} {v : Nat} (hk : f.key = g.key) (hv : v % 2 ^ g.wid ≠ g.rst) : (s.wr g v).rd f = v % 2 ^ g.wid := by
  rw [State.rd, State.wr, hk, tset, if_neg hv, tget_tput, if_pos rfl]

/-- Withdrawing a place of the card never clears a flag, whatever its place. -/
theorem on_withdraw {s : State} {f : Fld} (h : s.on f = true) (col p : Nat) : (s.wr (Reg.CARD_SHADOW col p) 0xFFE).on f = true := by
  by_cases hk : f.key = (Reg.CARD_SHADOW col p).key
  · rw [State.on, State.rd_wr_key s hk (show 0xFFE % 2 ^ 18 ≠ 0xFFF by decide)]
    exact decide_eq_true (show 0xFFE % 2 ^ 18 ≠ 0 by decide)
  · rwa [State.on_wr_ne s hk]

theorem on_commit {s : State} {f : Fld} (h : s.on f = true) : (s.flag Reg.FLOOR_CTL_COMMIT true).on f = true := by
  by_cases hk : f.key = Reg.FLOOR_CTL_COMMIT.key
  · rw [State.on, State.flag, if_pos rfl, State.rd_wr_key s hk (by decide)]
    decide
  · rwa [State.on_flag_ne s hk]

/-- A column's retirement never clears a flag. -/
theorem on_retireColumn {s : State} {f : Fld} (h : s.on f = true) (col : Nat) : (retireColumn s col).on f = true := by
  have hfold : ∀ (l : List Nat) (s : State), s.on f = true → (l.foldl (fun s p => s.wr (Reg.CARD_SHADOW col p) 0xFFE) s).on f = true := by
    intro l
    induction l with
    | nil => exact fun _ h => h
    | cons p l ih => exact fun s h => ih _ (on_withdraw h col p)
  exact on_commit (hfold _ s h)

theorem commit_retireColumn (s : State) (col : Nat) : (retireColumn s col).on Reg.FLOOR_CTL_COMMIT = true := State.on_flag _ Nat.one_ne_zero true

/-! ### The card's withdrawn places -/

theorem shadow_place (c p : Nat) : (Reg.CARD_SHADOW c p).place = (0x30010000 + 64 * c + p) * 32 := rfl

/-- A withdrawn place stays withdrawn when another one is withdrawn. -/
theorem withdrawn_withdraw {s : State} {c p : Nat} (h : s.rd (Reg.CARD_SHADOW c p) = 0xFFE) (col q : Nat) :
    (s.wr (Reg.CARD_SHADOW col q) 0xFFE).rd (Reg.CARD_SHADOW c p) = 0xFFE := by
  by_cases hk : (Reg.CARD_SHADOW c p).key = (Reg.CARD_SHADOW col q).key
  · exact State.rd_wr_key s hk (show 0xFFE % 2 ^ 18 ≠ 0xFFF by decide)
  · rwa [State.rd_wr_ne s hk]

theorem withdrawn_retireColumn {s : State} {c p : Nat} (h : s.rd (Reg.CARD_SHADOW c p) = 0xFFE) (col : Nat) :
    (retireColumn s col).rd (Reg.CARD_SHADOW c p) = 0xFFE := by
  have hfold : ∀ (l : List Nat) (s : State), s.rd (Reg.CARD_SHADOW c p) = 0xFFE →
      (l.foldl (fun s q => s.wr (Reg.CARD_SHADOW col q) 0xFFE) s).rd (Reg.CARD_SHADOW c p) = 0xFFE := by
    intro l
    induction l with
    | nil => exact fun _ h => h
    | cons q l ih => exact fun s h => ih _ (withdrawn_withdraw h col q)
  rw [retireColumn, State.rd_flag_place _ _ (by rw [shadow_place]; simp only [Fld.place, Reg.FLOOR_CTL_COMMIT]; omega)]
  exact hfold _ s h

/-- A retired column's places are withdrawn. -/
theorem shadow_retireColumn (s : State) {c p : Nat} (hp : p < 64) : (retireColumn s c).rd (Reg.CARD_SHADOW c p) = 0xFFE := by
  have hfold : ∀ (l : List Nat) (s : State), (p ∈ l ∨ s.rd (Reg.CARD_SHADOW c p) = 0xFFE) →
      (l.foldl (fun s q => s.wr (Reg.CARD_SHADOW c q) 0xFFE) s).rd (Reg.CARD_SHADOW c p) = 0xFFE := by
    intro l
    induction l with
    | nil => exact fun _ h => h.resolve_left List.not_mem_nil
    | cons q l ih =>
      intro s h
      refine ih _ ?_
      rcases h with h | h
      · rcases List.mem_cons.mp h with rfl | h
        · exact .inr (State.rd_wr s _ _)
        · exact .inl h
      · exact .inr (withdrawn_withdraw h c q)
  rw [retireColumn, State.rd_flag_place _ _ (by rw [shadow_place]; simp only [Fld.place, Reg.FLOOR_CTL_COMMIT]; omega)]
  exact hfold _ s (.inl (List.mem_range.mpr hp))

/-- Every column of a list that is retired is withdrawn. -/
theorem shadow_foldl_retireColumn {c p : Nat} (hp : p < 64) : ∀ (l : List Nat) (s : State), (c ∈ l ∨ s.rd (Reg.CARD_SHADOW c p) = 0xFFE) →
    (l.foldl retireColumn s).rd (Reg.CARD_SHADOW c p) = 0xFFE := by
  intro l
  induction l with
  | nil => exact fun _ h => h.resolve_left List.not_mem_nil
  | cons q l ih =>
    intro s h
    rw [List.foldl_cons]
    refine ih (retireColumn s q) ?_
    rcases h with h | h
    · rcases List.mem_cons.mp h with rfl | h
      · exact .inr (shadow_retireColumn s hp)
      · exact .inl h
    · exact .inr (withdrawn_retireColumn h q)

/-! ### Actions on lanes -/

/-- The action of `reel` has ended: GO reads 0 and DONE reads 1. -/
def LaneEnded (reel : Nat) (s : State) : Prop := s.on (Reg.LANE_CMD_GO reel) = false ∧ s.on (Reg.LANE_RESULT_DONE reel) = true

section
variable {reel : Nat} {s : State}

theorem LaneEnded.wr (h : LaneEnded reel s) {f : Fld} (v : Nat) (hg : (Reg.LANE_CMD_GO reel).place ≠ f.place) (hd : (Reg.LANE_RESULT_DONE reel).place ≠ f.place) :
    LaneEnded reel (s.wr f v) := by
  rw [LaneEnded, State.on, State.on, State.rd_wr_place s v hg, State.rd_wr_place s v hd]
  exact h

theorem LaneEnded.of_recorded {t : State} (h : LaneEnded reel s) (hr : Recorded s t) (hl : reel < 32) : LaneEnded reel t := by
  have hg : (Reg.LANE_CMD_GO reel).Quiet := quiet_of_addr_lt (by simp only [Reg.LANE_CMD_GO]; omega) (by simp only [Reg.LANE_CMD_GO]; omega)
  have hd : (Reg.LANE_RESULT_DONE reel).Quiet := quiet_of_addr_lt (by simp only [Reg.LANE_RESULT_DONE]; omega) (by simp only [Reg.LANE_RESULT_DONE]; omega)
  rw [LaneEnded, State.on, State.on, hr.rd _ hg, hr.rd _ hd]
  exact h

theorem LaneEnded.jrec (h : LaneEnded reel s) (hl : reel < 32) (typ src arg : Nat) (payload : List Octet) : LaneEnded reel (jrec s typ src arg payload) :=
  h.of_recorded (recorded_jrec ..) hl

theorem LaneEnded.retireColumn (h : LaneEnded reel s) (col : Nat) : LaneEnded reel (retireColumn s col) := by
  refine ⟨?_, on_retireColumn h.2 col⟩
  rw [State.on, rd_retireColumn s]
  · exact h.1
  · simp only [Fld.place, Reg.LANE_CMD_GO, Reg.FLOOR_CTL_COMMIT]; omega
  · intro p
    simp only [Fld.place, Reg.LANE_CMD_GO, Reg.CARD_SHADOW]; omega

theorem LaneEnded.latchFault (h : LaneEnded reel s) (hl : reel < 32) : LaneEnded reel (latchFault s) :=
  (h.wr _ (by simp only [Fld.place, Reg.LANE_CMD_GO, Reg.INT_LATCH_FLT]; omega) (by simp only [Fld.place, Reg.LANE_RESULT_DONE, Reg.INT_LATCH_FLT]; omega)).wr _
    (by simp only [Fld.place, Reg.LANE_CMD_GO, Reg.INT_LATCH_FLT]; omega) (by simp only [Fld.place, Reg.LANE_RESULT_DONE, Reg.INT_LATCH_FLT]; omega)

theorem LaneEnded.pass (h : LaneEnded reel s) (b : Bool) : LaneEnded reel (s.flag (Reg.LANE_RESULT_PASS reel) b) :=
  h.wr _ (by simp only [Fld.place, Reg.LANE_CMD_GO, Reg.LANE_RESULT_PASS]; omega) (by simp only [Fld.place, Reg.LANE_RESULT_DONE, Reg.LANE_RESULT_PASS]; omega)

theorem LaneEnded.setLaneOos (h : LaneEnded reel s) (lane : Nat) (b : Bool) : LaneEnded reel (setLaneOos s reel lane b) := by
  refine h.wr _ ?_ ?_
  all_goals
    split
    all_goals
      simp only [Fld.place, Reg.LANE_CMD_GO, Reg.LANE_RESULT_DONE, Reg.LANE_OOS_L, Reg.LANE_OOS_H]
      omega

theorem LaneEnded.clearWindow (h : LaneEnded reel s) (lane : Nat) : LaneEnded reel (clearWindow s reel lane) :=
  LaneEnded.wr (s := { s with floor := { s.floor with faultAt := tdel s.floor.faultAt (32 * reel + lane) } }) h _
    (by simp only [Fld.place, Reg.LANE_CMD_GO, Reg.LANE_FWIN]; omega) (by simp only [Fld.place, Reg.LANE_RESULT_DONE, Reg.LANE_FWIN]; omega)

theorem LaneEnded.spareSub (h : LaneEnded reel s) (b : Bool) : LaneEnded reel (s.flag (Reg.REEL_STAT_SPARE_SUB reel) b) :=
  h.wr _ (by simp only [Fld.place, Reg.LANE_CMD_GO, Reg.REEL_STAT_SPARE_SUB]; omega) (by simp only [Fld.place, Reg.LANE_RESULT_DONE, Reg.REEL_STAT_SPARE_SUB]; omega)

theorem LaneEnded.freeSpareOf (h : LaneEnded reel s) (lane : Nat) : LaneEnded reel (freeSpareOf s reel lane) := by
  unfold Machine.freeSpareOf
  split
  · exact h.spareSub false
  · exact h

theorem LaneEnded.laneLeaves (h : LaneEnded reel s) (lane : Nat) : LaneEnded reel (laneLeaves s reel lane) := by
  unfold Machine.laneLeaves
  dsimp only
  split
  · exact (h.setLaneOos lane true).retireColumn _
  · exact ((h.setLaneOos lane true).spareSub true).wr _ (by simp only [Fld.place, Reg.LANE_CMD_GO, Reg.REEL_STAT_SPARE_LANE]; omega)
      (by simp only [Fld.place, Reg.LANE_RESULT_DONE, Reg.REEL_STAT_SPARE_LANE]; omega)

end

theorem laneEnded_start (s : State) (reel : Nat) : LaneEnded reel ((s.flag (Reg.LANE_CMD_GO reel) false).flag (Reg.LANE_RESULT_DONE reel) true) := by
  refine ⟨?_, State.on_flag _ Nat.one_ne_zero true⟩
  rw [State.on_flag_place]
  · exact State.on_flag _ Nat.one_ne_zero false
  · simp only [Fld.place, Reg.LANE_CMD_GO, Reg.LANE_RESULT_DONE]; omega

/-- Whatever the action, its end clears GO and sets DONE. -/
theorem laneEnded_laneDone {s : State} {reel : Nat} (hl : reel < 32) (pass : Bool) (hgo : s.on (Reg.LANE_CMD_GO reel) = true) : LaneEnded reel (laneDone s reel pass) := by
  have h := laneEnded_start s reel
  unfold laneDone
  rw [if_neg (not_not_intro hgo)]
  dsimp only
  generalize (s.flag (Reg.LANE_CMD_GO reel) false).flag (Reg.LANE_RESULT_DONE reel) true = u at h ⊢
  split
  · have hr := fun src arg payload => (h.pass pass).jrec hl 0x0305 src arg payload
    split
    · exact hr ..
    · exact ((hr _ _ _).latchFault hl).retireColumn _
  · split
    · split
      · exact ((((h.pass pass).clearWindow _).setLaneOos _ _).freeSpareOf _).jrec hl _ _ _ _
      · split
        · exact h.pass pass
        · exact (((h.pass pass).latchFault hl).laneLeaves _).jrec hl _ _ _ _
    · split
      · split
        · exact h
        · exact (h.laneLeaves _).jrec hl _ _ _ _
      · exact (h.pass pass).wr _ (by simp only [Fld.place, Reg.LANE_CMD_GO, Reg.REEL_STAT_SPARE_OOS]; omega)
          (by simp only [Fld.place, Reg.LANE_RESULT_DONE, Reg.REEL_STAT_SPARE_OOS]; omega)

/-- The spare's test decides whether the spare is out of service. -/
theorem laneDone_spare {s : State} {reel : Nat} (pass : Bool) (hgo : s.on (Reg.LANE_CMD_GO reel) = true) (ha : s.rd (Reg.LANE_CMD_ACTION reel) = 3) :
    (laneDone s reel pass).on (Reg.LANE_RESULT_PASS reel) = pass ∧ (laneDone s reel pass).on (Reg.REEL_STAT_SPARE_OOS reel) = !pass := by
  unfold laneDone
  rw [if_neg (not_not_intro hgo)]
  simp only [ha, Nat.reduceEqDiff, if_false, OfNat.ofNat_ne_zero]
  generalize (s.flag (Reg.LANE_CMD_GO reel) false).flag (Reg.LANE_RESULT_DONE reel) true = u
  refine ⟨?_, State.on_flag _ Nat.one_ne_zero _⟩
  rw [State.on_flag_place]
  · exact State.on_flag _ Nat.one_ne_zero pass
  · simp only [Fld.place, Reg.LANE_RESULT_PASS, Reg.REEL_STAT_SPARE_OOS]; omega

/-- A lane action shows in LANE_CMD, and nothing but registers change. -/
theorem laneStart_spec (s : State) {reel lane action : Nat} (hl : lane < 32) (ha : action < 4) :
    (laneStart s reel lane action).on (Reg.LANE_CMD_GO reel) = true ∧ (laneStart s reel lane action).rd (Reg.LANE_CMD_LANE reel) = lane ∧
      (laneStart s reel lane action).rd (Reg.LANE_CMD_ACTION reel) = action ∧ laneStart s reel lane action = { s with regs := (laneStart s reel lane action).regs } := by
  refine ⟨State.on_flag _ Nat.one_ne_zero true, ?_, ?_, rfl⟩
  · rw [laneStart, State.rd_flag_place, State.rd_wr_place, State.rd_wr]
    · exact Nat.mod_eq_of_lt hl
    all_goals simp only [Fld.place, Reg.LANE_CMD_LANE, Reg.LANE_CMD_ACTION, Reg.LANE_CMD_GO]; omega
  · rw [laneStart, State.rd_flag_place, State.rd_wr]
    · exact Nat.mod_eq_of_lt ha
    · simp only [Fld.place, Reg.LANE_CMD_ACTION, Reg.LANE_CMD_GO]; omega

/-! ### Actions on digest and number units -/

/-- The registers of a unit's actions lie apart, below the fields that a record changes and above the card. -/
structure UnitRegs.Apart (r : UnitRegs) : Prop where
  goWid : r.go.wid ≠ 0
  doneWid : r.done.wid ≠ 0
  oosWid : r.oos.wid ≠ 0
  actionWid : r.action.wid = 2
  goQuiet : r.go.Quiet
  doneQuiet : r.done.Quiet
  goAddr : 0x30080000 ≤ r.go.addr ∧ r.go.addr < 0x30140000
  doneAddr : 0x30080000 ≤ r.done.addr ∧ r.done.addr < 0x30140000
  oosAddr : 0x30080000 ≤ r.oos.addr ∧ r.oos.addr < 0x30140000
  goLo : r.go.lo = 7
  doneLo : r.done.lo = 0
  oosLo : r.oos.lo = 0
  passLo : r.pass.lo = 1
  actionLo : r.action.lo = 5
  done_oos : r.done.addr ≠ r.oos.addr
  col : r.col < 1000

theorem apart_duRegs (u : Fin 64) : (duRegs u).Apart := by
  have hu := u.isLt
  refine ⟨by decide +revert, by decide +revert, by decide +revert, rfl, quiet_of_addr_lt ?_ ?_, quiet_of_addr_lt ?_ ?_, ?_, ?_, ?_, rfl, rfl, rfl, rfl, rfl, ?_, ?_⟩
  all_goals
    simp only [duRegs, Reg.DU_CMD_GO, Reg.DU_RESULT_DONE, Reg.DU_STAT_OOS]
    omega

theorem apart_nuRegs (u : Fin 16) : (nuRegs u).Apart := by
  have hu := u.isLt
  refine ⟨by decide +revert, by decide +revert, by decide +revert, rfl, quiet_of_addr_lt ?_ ?_, quiet_of_addr_lt ?_ ?_, ?_, ?_, ?_, rfl, rfl, rfl, rfl, rfl, ?_, ?_⟩
  all_goals
    simp only [nuRegs, Reg.NU_CMD_GO, Reg.NU_RESULT_DONE, Reg.NU_STAT_OOS]
    omega

section
variable {r : UnitRegs} (hr : r.Apart) (s : State)
include hr

/-- An action shows in the unit's command register, and nothing but registers change. -/
theorem unitStart_spec {action : Nat} (ha : action < 4) :
    (unitStart s r action).on r.go = true ∧ (unitStart s r action).rd r.action = action ∧ unitStart s r action = { s with regs := (unitStart s r action).regs } := by
  refine ⟨State.on_flag _ hr.goWid true, ?_, rfl⟩
  rw [unitStart, State.rd_flag_place, State.rd_wr, hr.actionWid]
  · exact Nat.mod_eq_of_lt ha
  · have hg := hr.goLo
    have ha := hr.actionLo
    simp only [Fld.place]
    omega

/-- GO cleared and DONE set stay so through PASS and the record. -/
theorem unit_ended (act : Nat) (ok : Bool) (payload : List Octet) :
    let u := jrec (if act = 2 then (s.flag r.go false).flag r.done true else ((s.flag r.go false).flag r.done true).flag r.pass ok) 0x0305 0xE6 r.col payload
    u.on r.go = false ∧ u.on r.done = true := by
  obtain ⟨hg, hd, hp⟩ := And.intro hr.goLo (And.intro hr.doneLo hr.passLo)
  dsimp only
  rw [State.on, State.on, (recorded_jrec ..).rd _ hr.goQuiet, (recorded_jrec ..).rd _ hr.doneQuiet]
  have h0 : ((s.flag r.go false).flag r.done true).on r.go = false := by
    rw [State.on_flag_place _ _ (by simp only [Fld.place]; omega), State.on_flag _ hr.goWid]
  have h1 : ((s.flag r.go false).flag r.done true).on r.done = true := State.on_flag _ hr.doneWid true
  split
  · exact ⟨h0, h1⟩
  · exact ⟨(State.on_flag_place _ _ (by simp only [Fld.place]; omega)).trans h0, (State.on_flag_place _ _ (by simp only [Fld.place]; omega)).trans h1⟩

theorem unitDone_spec (ok : Bool) (hgo : s.on r.go = true) : (unitDone s r ok).on r.go = false ∧ (unitDone s r ok).on r.done = true ∧
    (s.rd r.action = 2 ∨ ok = false → (unitDone s r ok).on r.oos = true ∧ (unitDone s r ok).on Reg.FLOOR_CTL_COMMIT = true) ∧
    (s.rd r.action = 1 → ok = true → (unitDone s r ok).on r.oos = false) := by
  obtain ⟨hg, hd⟩ := unit_ended hr s (s.rd r.action) ok [BitVec.ofNat 8 (s.rd r.action), BitVec.ofNat 8 (b2n ok)]
  obtain ⟨hgl, hdl, hol⟩ := And.intro hr.goLo (And.intro hr.doneLo hr.oosLo)
  obtain ⟨hga, hda, hoa⟩ := And.intro hr.goAddr (And.intro hr.doneAddr hr.oosAddr)
  have hne := hr.done_oos
  unfold unitDone
  rw [if_neg (not_not_intro hgo)]
  dsimp only
  generalize jrec _ 0x0305 0xE6 r.col [BitVec.ofNat 8 (s.rd r.action), BitVec.ofNat 8 (b2n ok)] = u at hg hd ⊢
  generalize s.rd r.action = act
  have hgo' : ∀ b, (u.flag r.oos b).on r.go = false := fun b => (State.on_flag_place _ _ (by simp only [Fld.place]; omega)).trans hg
  have hdo' : ∀ b, (u.flag r.oos b).on r.done = true := fun b => (State.on_flag_place _ _ (by simp only [Fld.place]; omega)).trans hd
  have hlatch : ∀ (v : State) (f : Fld), f.addr < 0x30140000 → f.lo < 32 → (latchFault v).on f = v.on f := by
    intro v f ha hlo
    rw [latchFault, State.on_flag_place, State.on_flag_place]
    all_goals simp only [Fld.place, Reg.INT_LATCH_FLT]; omega
  split
  · next hout =>
    refine ⟨?_, on_retireColumn ((hlatch _ _ hda.2 (by omega)).trans (hdo' true)) _,
      fun _ => ⟨on_retireColumn ((hlatch _ _ hoa.2 (by omega)).trans (State.on_flag _ hr.oosWid true)) _, commit_retireColumn ..⟩,
      fun h1 hok => absurd hout (by simp [h1, hok])⟩
    rw [State.on, rd_retireColumn]
    · exact (hlatch _ _ hga.2 (by omega)).trans (hgo' true)
    · simp only [Fld.place, Reg.FLOOR_CTL_COMMIT]; omega
    · intro p
      simp only [Fld.place, Reg.CARD_SHADOW]; omega
  · next hin =>
    have hno : ¬ (act = 2 ∨ ok = false) := fun h => hin (h.imp_right (by rintro rfl; exact Bool.false_ne_true))
    split
    · exact ⟨hgo' false, hdo' false, fun h => absurd h hno, fun _ _ => State.on_flag _ hr.oosWid false⟩
    · next h1 => exact ⟨hg, hd, fun h => absurd h hno, fun h => absurd h h1⟩

end

/-! ### Mask expanders -/

theorem State.expander_setExpander (s : State) (reel : Nat) (e : Expander) : (s.setExpander reel e).expander reel = e :=
  (tget_tset ..).trans (if_pos rfl)

theorem State.lane_setLane (s : State) (n k : Nat) (l : Lane) : (s.setLane n l).lane k = if k = n then l else s.lane k := tget_tset ..

/-- A seed that has arrived is absorbed: no seed waits, the count starts again, the mark clears. -/
theorem reseedExpander_spec {s : State} {reel : Nat} {sd : List Octet} (h : (s.expander reel).seed = some sd) :
    ((reseedExpander reel s).expander reel).seed = none ∧ ((reseedExpander reel s).expander reel).perms = 0 ∧
      (reseedExpander reel s).on (Reg.REEL_STAT_MX_STALE reel) = false := by
  unfold reseedExpander
  dsimp only
  split
  · next hn => rw [hn] at h; cases h
  · next sd' _ =>
    generalize (if (s.expander reel).st = [] then absorbAt (List.replicate 200 0) 0 (sd' ++ [BitVec.ofNat 8 reel])
      else absorbAt (keccakTimes (s.expander reel).perms (s.expander reel).st) 0 sd') = st
    have he := State.expander_setExpander s reel ⟨st, 0, none⟩
    exact ⟨(congrArg Expander.seed he :), (congrArg Expander.perms he :), State.on_flag _ Nat.one_ne_zero false⟩

/-- A reel whose expander had no seed for too long leaves the card. -/
theorem expanderStale_spec {s : State} {reel : Nat} (h : 2 ^ 22 ≤ (s.expander reel).perms) : (expanderStale reel s).on (Reg.REEL_STAT_MX_STALE reel) = true ∧
    (expanderStale reel s).on Reg.FLOOR_CTL_COMMIT = true ∧
    ∀ c ∈ [4 * reel, 4 * reel + 1, 4 * reel + 2, 4 * reel + 3, 128 + reel], ∀ p < 64, (expanderStale reel s).rd (Reg.CARD_SHADOW c p) = 0xFFE := by
  rw [expanderStale, if_neg (Nat.not_lt.mpr h)]
  refine ⟨?_, commit_retireColumn .., fun c hc p hp => shadow_foldl_retireColumn hp _ _ (.inl hc)⟩
  exact on_retireColumn (on_retireColumn (on_retireColumn (on_retireColumn (on_retireColumn (State.on_flag _ Nat.one_ne_zero true) _) _) _) _) _

/-- Settles O28: the actions' starts and ends, and the three events of a mask expander. -/
theorem unitsAndExpanders : Obligations.UnitsAndExpanders := by
  refine ⟨fun s => ⟨⟨_, rfl, rfl, State.on_flag _ Nat.one_ne_zero true⟩, fun reel lane op act hop => ?_, fun reel => ?_, fun reel pass hgo => ?_, fun u op act hop => ?_,
    fun u ok hgo => ?_, fun u op act hop => ?_, fun u ok hgo => ?_⟩, fun s reel lane => ⟨⟨_, BitVec.ofNat 832 (Config.allotment (s.expander reel).st (s.expander reel).perms lane), rfl, ?_, fun n hn => ?_⟩, fun sd hs => ?_, fun hp => ?_⟩⟩
  · simp only [List.mem_cons, Prod.mk.injEq, List.not_mem_nil, or_false] at hop
    rcases hop with ⟨rfl, rfl⟩ | ⟨rfl, rfl⟩ | ⟨rfl, rfl⟩
    all_goals exact ⟨_, rfl, laneStart_spec s lane.isLt (by decide)⟩
  · refine ⟨laneStart s reel (s.rd (Reg.LANE_CMD_LANE reel)) 3, rfl, State.on_flag _ Nat.one_ne_zero true, ?_, rfl⟩
    rw [laneStart, State.rd_flag_place, State.rd_wr]
    · rfl
    · simp only [Fld.place, Reg.LANE_CMD_ACTION, Reg.LANE_CMD_GO]; omega
  · obtain ⟨hg, hd⟩ := laneEnded_laneDone reel.isLt pass hgo
    exact ⟨_, rfl, hg, hd, laneDone_spare pass hgo⟩
  · simp only [List.mem_cons, Prod.mk.injEq, List.not_mem_nil, or_false] at hop
    rcases hop with ⟨rfl, rfl⟩ | ⟨rfl, rfl⟩ | ⟨rfl, rfl⟩
    all_goals exact ⟨_, rfl, unitStart_spec (apart_duRegs u) s (by decide)⟩
  · exact ⟨_, rfl, unitDone_spec (apart_duRegs u) s ok hgo⟩
  · simp only [List.mem_cons, Prod.mk.injEq, List.not_mem_nil, or_false] at hop
    rcases hop with ⟨rfl, rfl⟩ | ⟨rfl, rfl⟩ | ⟨rfl, rfl⟩
    all_goals exact ⟨_, rfl, unitStart_spec (apart_nuRegs u) s (by decide)⟩
  · exact ⟨_, rfl, unitDone_spec (apart_nuRegs u) s ok hgo⟩
  · rw [allot, State.lane_setLane, if_pos rfl]
  · rw [allot, State.lane_setLane, if_neg hn]
  · exact ⟨_, rfl, reseedExpander_spec hs⟩
  · exact ⟨_, rfl, expanderStale_spec hp⟩

end Sys2Proof.Machine
end

section
/-! SUPPORT. Commands in their queue and on their way to and from the stage (O29, O30). -/
namespace Sys2Proof.Machine

/-! ### Ring queues and push windows -/

section
variable {s : State} {f : Fin 2050} {q : Fin 256}

theorem sqTail_takes {v : BitVec 32} (hr : reachable s f = true) (he : s.on (Reg.Q_CTL_ENABLE (qx f q)) = true) (hv : v.toNat < 4096)
    (hp : s.on (Reg.Q_CTL_PUSH (qx f q)) = false) (hd : v.toNat < s.depth (qx f q))
    (hf : ringFwd (s.depth (qx f q)) (s.q (qx f q)).sqHead (s.q (qx f q)).sqTail ≤ ringFwd (s.depth (qx f q)) (s.q (qx f q)).sqHead v.toNat) :
    exec (.sqTail f q v) s = .next (s.setQ (qx f q) { s.q (qx f q) with sqTail := v.toNat }) := by
  change done (sqTailWrite s f q v.toNat) = _
  simp only [sqTailWrite, Nat.mod_eq_of_lt hv]
  rw [if_neg (not_not_intro hr), if_neg]
  · rfl
  · simp only [he, hp, not_true_eq_false, Bool.false_eq_true, false_or]
    omega

theorem sqTail_drops {v : BitVec 32} (hr : reachable s f = true) (hv : v.toNat < 4096)
    (h : s.on (Reg.Q_CTL_PUSH (qx f q)) = true ∨ s.depth (qx f q) ≤ v.toNat ∨
      ringFwd (s.depth (qx f q)) (s.q (qx f q)).sqHead v.toNat < ringFwd (s.depth (qx f q)) (s.q (qx f q)).sqHead (s.q (qx f q)).sqTail) :
    exec (.sqTail f q v) s = .next (accErr s f) := by
  change done (sqTailWrite s f q v.toNat) = _
  simp only [sqTailWrite, Nat.mod_eq_of_lt hv]
  rw [if_neg (not_not_intro hr), if_pos (.inr h)]
  rfl

theorem cqHead_takes {v : BitVec 32} (hr : reachable s f = true) (he : s.on (Reg.Q_CTL_ENABLE (qx f q)) = true) (hv : v.toNat < 4096)
    (hd : v.toNat < s.depth (qx f q)) (hn : ringFwd (s.depth (qx f q)) (s.q (qx f q)).cqHead v.toNat + (s.heldOf f q).length ≤ (s.q (qx f q)).inUse) :
    exec (.cqHead f q v) s = .next (s.setQ (qx f q) { s.q (qx f q) with
      cqHead := v.toNat, inUse := (s.q (qx f q)).inUse - ringFwd (s.depth (qx f q)) (s.q (qx f q)).cqHead v.toNat }) := by
  change done (cqHeadWrite s f q v.toNat) = _
  simp only [cqHeadWrite, unreleased, Nat.mod_eq_of_lt hv]
  rw [if_neg (not_not_intro hr), if_neg]
  · rfl
  · simp only [he, not_true_eq_false, false_or]
    omega

theorem cqHead_drops {v : BitVec 32} (hr : reachable s f = true) (hv : v.toNat < 4096) (hd : s.depth (qx f q) ≤ v.toNat) :
    exec (.cqHead f q v) s = .next (accErr s f) := by
  change done (cqHeadWrite s f q v.toNat) = _
  simp only [cqHeadWrite, Nat.mod_eq_of_lt hv]
  rw [if_neg (not_not_intro hr), if_pos (.inr (.inl hd))]
  rfl

theorem State.q_setQ (u : State) (x : Nat) (y : QueueSt) : (u.setQ x y).q x = y := (tget_tset ..).trans (if_pos rfl)

/-- A command that is not refused waits Queued. -/
theorem acceptCmd_waits {u : State} {f q : Nat} {raw : List Octet} {ide : Bool} (hs : spoofStatus u (Cmd.fresh u.nextUid f q raw) ide = 0)
    (hz : frozenFn u f = false) : acceptCmd u f q raw ide = { u.setQ (qx f q) { u.q (qx f q) with inUse := (u.q (qx f q)).inUse + 1 } with
      cmds := u.cmds ++ [Cmd.fresh u.nextUid f q raw], nextUid := u.nextUid + 1 } := by
  simp only [acceptCmd, hs, hz, Bool.false_eq_true, and_false, if_false, if_true, OfNat.zero_ne_ofNat]
  rfl

/-- Status 0x60 is not one of those that a command's issuer earns. -/
theorem spoofStatus_ne (u : State) (c : Cmd) (ide : Bool) : spoofStatus u c ide ≠ 0x60 := by
  unfold spoofStatus
  dsimp only
  repeat' split
  all_goals decide

/-- A refused command waits for its completion. -/
theorem acceptCmd_refused {u : State} {f q st : Nat} {raw : List Octet} {ide : Bool} (hs : spoofStatus u (Cmd.fresh u.nextUid f q raw) ide = st)
    (h0 : st ≠ 0) (h41 : st ≠ 0x41) : acceptCmd u f q raw ide = { u.setQ (qx f q) { u.q (qx f q) with inUse := (u.q (qx f q)).inUse + 1 } with
      cmds := u.cmds ++ [{ Cmd.fresh u.nextUid f q raw with ph := .completing, status := st }], nextUid := u.nextUid + 1 } := by
  have h60 : st ≠ 0x60 := hs ▸ spoofStatus_ne u _ ide
  simp only [acceptCmd, hs, h0, h41, h60, false_and, if_false]
  rfl

theorem commandFetch_whole {ide : Bool} {data : List Octet} (hr : reachable s f = true) (he : s.on (Reg.Q_CTL_ENABLE (qx f q)) = true)
    (hp : s.on (Reg.Q_CTL_PUSH (qx f q)) = false) (hd : f.val ∉ s.d3) (hh : s.halting = false) (hu : (s.q (qx f q)).inUse < s.depth (qx f q))
    (hn : 1 + leAt data 1 1 / 64 ≤ ringFwd (s.depth (qx f q)) (s.q (qx f q)).sqHead (s.q (qx f q)).sqTail) :
    exec (.commandFetch f q ide data) s = .next (acceptCmd
      ((s.setQ (qx f q) { s.q (qx f q) with sqHead := ((s.q (qx f q)).sqHead + (1 + leAt data 1 1 / 64)) % s.depth (qx f q) }).wr (Reg.Q_SQHEAD (qx f q))
        (((s.q (qx f q)).sqHead + (1 + leAt data 1 1 / 64)) % s.depth (qx f q)))
      f q (fitOctets (64 * (1 + leAt data 1 1 / 64)) data) ide) := by
  have hraw : rawLen data / 64 = 1 + leAt data 1 1 / 64 := Nat.mul_div_cancel_left _ (by decide)
  change done (fetchCmd s f q ide data) = _
  simp only [fetchCmd, hraw]
  rw [if_neg]
  · rfl
  · simp only [hr, hd, he, hp, hh, not_true_eq_false, Bool.false_eq_true, false_or, or_false]
    omega

theorem pushWrite_whole {ide : Bool} {data : List Octet} (hr : reachable s f = true) (he : s.on (Reg.Q_CTL_ENABLE (qx f q)) = true)
    (hp : s.on (Reg.Q_CTL_PUSH (qx f q)) = true) (hd : data.length = 64 * (1 + leAt data 1 1 / 64)) : exec (.pushWrite f q 0 true ide data) s =
      .next (if s.depth (qx f q) ≤ (s.q (qx f q)).inUse then fnEvent (s.flag (Reg.Q_STAT_PUSH_OVF (qx f q)) true) f 2 else acceptCmd s f q data ide) := by
  change done (pushCmd s f q 0 true ide data) = _
  simp only [pushCmd]
  rw [if_neg (not_not_intro hr), if_neg]
  · rfl
  · simp only [he, hp, show data.length = rawLen data from hd]
    simp only [not_true_eq_false, ne_eq, or_false, not_false_eq_true]

theorem pushWrite_drops {ide one : Bool} {data : List Octet} {off : BitVec 8} (hr : reachable s f = true)
    (h : off ≠ 0 ∨ one = false ∨ data.length ≠ 64 * (1 + leAt data 1 1 / 64)) : exec (.pushWrite f q off one ide data) s = .next (accErr s f) := by
  change done (pushCmd s f q off.toNat one ide data) = _
  simp only [pushCmd]
  rw [if_neg (not_not_intro hr), if_pos]
  · rfl
  · rcases h with h | h | h
    · exact .inr (.inr (.inl fun h0 => h (BitVec.eq_of_toNat_eq h0)))
    · exact .inr (.inr (.inr (.inl (by simp [h]))))
    · exact .inr (.inr (.inr (.inr h)))

/-! ### Queue entries -/

/-- A word that enables a disabled queue is judged by its cause. -/
theorem qctl_enables {v : Nat} (hr : reachable s f = true) (he : s.on (Reg.Q_CTL_ENABLE (qx f q)) = false) : qctlWrite s f q (v / 2 * 2 + 1) =
    if enableCause s f q (v / 2 * 2 + 1) ≠ 0 then qRefuse s (qx f q) (enableCause s f q (v / 2 * 2 + 1))
    else returnHeld (((((putQctl s (qx f q) (v / 2 * 2 + 1)).flag (Reg.Q_CTL_ENABLE (qx f q)) true).flag (Reg.Q_STAT_ACTIVE (qx f q)) true).setQ (qx f q)
      QueueSt.fresh).wr (Reg.Q_SQHEAD (qx f q)) 0) f q := by
  have hb : bit (v / 2 * 2 + 1) 0 = true := by
    simp only [bit]
    exact decide_eq_true (by omega)
  simp only [qctlWrite]
  rw [if_neg (not_not_intro hr), if_neg (by simp [he]), if_neg (not_not_intro hb)]

theorem qctl_disables {v : Nat} (hr : reachable s f = true) : qctlWrite s f q (v / 2 * 2) =
    if s.on (Reg.Q_CTL_ENABLE (qx f q)) = true then
      if s.heldOf f q ≠ [] then accErr (qRefuse s (qx f q) 6) f
      else (s.flag (Reg.Q_CTL_ENABLE (qx f q)) false).flag (Reg.Q_STAT_ACTIVE (qx f q)) false
    else putQctl s (qx f q) (v / 2 * 2) := by
  have hb : bit (v / 2 * 2) 0 = false := by
    simp only [bit]
    exact decide_eq_false (by omega)
  simp only [qctlWrite]
  rw [if_neg (not_not_intro hr)]
  split
  · rw [if_neg (by simp [hb])]
  · rw [if_pos (by simp [hb])]

/-- The causes that refuse a ring queue, in order (Table 13.5). -/
theorem enableCause_ring {v : Nat} (hp : v / 2 % 2 = 0) : enableCause s f q (v / 2 * 2 + 1) =
    if q ≥ s.rd (Reg.FUNC_CAP_QUEUES f) then 1
    else if v / 256 % 16 < 4 ∨ 12 < v / 256 % 16 then 2
    else if v / 65536 % 512 ≥ s.rd (Reg.FUNC_CAP_VECTORS f) then 3
    else if s.rd (Reg.CQ_BASE_LO (qx f q)) % 64 ≠ 0 ∨ s.rd (Reg.SQ_BASE_LO (qx f q)) % 64 ≠ 0 then 4
    else 0 := by
  have hb : bit (v / 2 * 2 + 1) 1 = false := by
    simp only [bit]
    exact decide_eq_false (by omega)
  have hl : (v / 2 * 2 + 1) / 256 = v / 256 := by omega
  have hv : (v / 2 * 2 + 1) / 65536 = v / 65536 := by omega
  simp only [enableCause, hb, hl, hv, Bool.false_eq_true, if_false, false_and, not_false_eq_true, true_and]

/-- With no page held for the function, enabling returns nothing. -/
theorem returnHeld_nil {u : State} {f q : Nat} (h : (u.fn f).held = []) : returnHeld u f q = u.setFn f (u.fn f) := by
  simp only [returnHeld, h, List.filter_nil, List.foldl_nil]
  rw [← h]

end

/-- Settles O29: tails, heads and fetches of rings, push windows, and the queue entries. -/
theorem queues : Obligations.Queues := by
  refine ⟨fun s f q hr he => ?_, fun s f q ide data hr he hp => ?_, fun s f q v hr => ?_⟩
  · dsimp only
    refine ⟨fun v hv => ⟨fun hp hd hf => sqTail_takes hr he hv hp hd hf, sqTail_drops hr hv, cqHead_takes hr he hv, cqHead_drops hr hv⟩,
      fun ide data hp hd hh hu hn hs hz => ?_⟩
    rw [commandFetch_whole hr he hp hd hh hu hn, acceptCmd_waits hs hz]
    have hq := State.q_setQ s (qx f q) { s.q (qx f q) with sqHead := ((s.q (qx f q)).sqHead + (1 + leAt data 1 1 / 64)) % s.depth (qx f q) }
    rw [show ∀ (u : State) g w x, (u.wr g w).q x = u.q x from fun _ _ _ _ => rfl, hq]
    rfl
  · dsimp only
    refine ⟨fun hd => ⟨fun hu hs hz => ?_, fun hu st hs h0 h41 => ?_, fun hu => ?_⟩, fun off one h => pushWrite_drops hr h⟩
    · rw [pushWrite_whole hr he hp hd, if_neg (by omega), acceptCmd_waits hs hz]
      rfl
    · rw [pushWrite_whole hr he hp hd, if_neg (by omega), acceptCmd_refused hs h0 h41]
      rfl
    · rw [pushWrite_whole hr he hp hd, if_pos hu]
  · dsimp only
    refine ⟨fun he => ⟨fun hq => ?_, fun hq hp hl => ?_, fun hq hp h4 h12 hv => ?_, fun hq hp h4 h12 hv hc hb hh => ?_, ?_⟩,
      fun he => ⟨fun hh => ?_, fun hh => ?_⟩, fun h0 ht => ?_, ?_⟩
    · change done (qctlWrite s f q (v.toNat / 2 * 2 + 1)) = _
      have hcause : enableCause s f q (v.toNat / 2 * 2 + 1) = 1 := if_pos hq
      rw [qctl_enables hr he, hcause]
      rfl
    · change done (qctlWrite s f q (v.toNat / 2 * 2 + 1)) = _
      have hcause : enableCause s f q (v.toNat / 2 * 2 + 1) = 2 := by
        rw [enableCause_ring hp, if_neg (by omega), if_pos hl]
      rw [qctl_enables hr he, hcause]
      rfl
    · change done (qctlWrite s f q (v.toNat / 2 * 2 + 1)) = _
      have hcause : enableCause s f q (v.toNat / 2 * 2 + 1) = 3 := by
        rw [enableCause_ring hp, if_neg (by omega), if_neg (by omega), if_pos hv]
      rw [qctl_enables hr he, hcause]
      rfl
    · change done (qctlWrite s f q (v.toNat / 2 * 2 + 1)) = _
      have hcause : enableCause s f q (v.toNat / 2 * 2 + 1) = 0 := by
        rw [enableCause_ring hp, if_neg (by omega), if_neg (by omega), if_neg (by omega), if_neg (by omega)]
      rw [qctl_enables hr he, hcause, if_neg (not_not_intro rfl), returnHeld_nil (by exact hh)]
      rfl
    · change done (qctlWrite s f q (v.toNat / 2 * 2)) = _
      rw [qctl_disables hr, if_neg (by simp [he])]
      rfl
    · change done (qctlWrite s f q (v.toNat / 2 * 2)) = _
      rw [qctl_disables hr, if_pos he, if_neg (not_not_intro hh)]
      rfl
    · change done (qctlWrite s f q (v.toNat / 2 * 2)) = _
      rw [qctl_disables hr, if_pos he, if_pos hh]
      rfl
    · change done (moderationTimer s f q) = _
      rw [moderationTimer, if_neg (not_or.mpr ⟨h0, ht⟩)]
      rfl
    · change done (if reachable s f then accErr s f else s) = _
      rw [if_pos hr]
      rfl

end Sys2Proof.Machine
end

section
/-! SUPPORT. Transfers of a command's data, admission to the stage, and completions (O30). -/
namespace Sys2Proof.Machine

/-! ### Commands by their number -/

theorem cmd_uid {s : State} {uid : Nat} {c : Cmd} (h : s.cmd uid = some c) : c.uid = uid := by
  simpa using List.find?_some (p := fun c : Cmd => decide (c.uid = uid)) h

theorem find?_onCmd {l : List Cmd} {uid : Nat} {g : Cmd → Cmd} (hg : ∀ c, (g c).uid = c.uid) :
    (l.map fun c => if c.uid = uid then g c else c).find? (fun c => decide (c.uid = uid)) = (l.find? fun c => decide (c.uid = uid)).map g := by
  induction l with
  | nil => rfl
  | cons c l ih =>
    by_cases h : c.uid = uid
    · simp [h, hg]
    · simp [h, ih]

/-- What a change of a command by its number leaves at that number. -/
theorem State.cmd_onCmd (s : State) (uid : Nat) {g : Cmd → Cmd} (hg : ∀ c, (g c).uid = c.uid) : (s.onCmd uid g).cmd uid = (s.cmd uid).map g :=
  find?_onCmd hg

theorem State.onCmd_onCmd (s : State) (uid : Nat) {g g' : Cmd → Cmd} (hg : ∀ c, (g c).uid = c.uid) :
    (s.onCmd uid g).onCmd uid g' = s.onCmd uid (fun c => g' (g c)) := by
  have hl : ∀ c : Cmd, (if (if c.uid = uid then g c else c).uid = uid then g' (if c.uid = uid then g c else c) else (if c.uid = uid then g c else c)) =
      if c.uid = uid then g' (g c) else c := by
    intro c
    by_cases h : c.uid = uid
    · simp [h, hg]
    · simp [h]
  unfold State.onCmd
  simp only [List.map_map, Function.comp_def, hl]

/-! ### Staging -/

theorem cmds_fillOnePage (s : State) (p : Nat) (o : List Octet) : (fillOnePage s p o).cmds = s.cmds := by
  have hfold : ∀ (l : List Nat) (s : State), (l.foldl (fun s b => s.setHold (256 * p + b) (blockOf (octAt o (16 * b) 16))) s).cmds = s.cmds := by
    intro l
    induction l with
    | nil => exact fun _ => rfl
    | cons b l ih => exact fun s => (ih _).trans rfl
  rw [fillOnePage]
  simp only [State.setPage_frame]
  exact hfold _ s

theorem cmds_fillRing (s : State) (pages : List (List Nat)) (o : List Octet) : (fillRing s pages o).cmds = s.cmds := by
  have hfold : ∀ (l : List (Nat × Nat)) (s : State), (l.foldl (fun s e => fillOnePage s e.2 (octAt o (4096 * e.1) 4096)) s).cmds = s.cmds := by
    intro l
    induction l with
    | nil => exact fun _ => rfl
    | cons e l ih =>
      intro s
      rw [List.foldl_cons, ih, cmds_fillOnePage]
  exact hfold _ s

theorem length_fitOctets (n : Nat) (o : List Octet) : (fitOctets n o).length = n := by
  simp [fitOctets]

/-- A ring that needs no digest state takes the input; order 9 follows. -/
theorem stageRing_plain {s : State} {c : Cmd} {h : FigHdr} {o : List Octet} (hd : resumesDigest c = false) (ho : o.length ≤ h.ring) :
    stageRing s c h o = (fillRing s c.pages o).onCmd c.uid (fun k => { k with order := 9, inp := o, staged := o.length }) := by
  simp only [stageRing, List.take_of_length_le ho, hd, Bool.false_eq_true, if_false]

/-- A command at order 9 that needs no random words goes on to order 10. -/
theorem reserveWords_none {s : State} {c : Cmd} {h : FigHdr} (hc : s.cmd c.uid = some c) (ho : c.order = 9) (hw : (wordsFor c h).1 = 0) :
    reserveWords s c.uid h = s.onCmd c.uid (fun k => { k with order := 10 }) := by
  unfold reserveWords
  simp only [hc, ho, hw, ne_eq, not_true_eq_false, if_false, if_true]

/-- A command's input is staged whole, and no words are needed. -/
theorem stageRing_reserve {s : State} {c : Cmd} {h : FigHdr} {o : List Octet} (hc : s.cmd c.uid = some c) (hd : resumesDigest c = false) (ho : o.length ≤ h.ring)
    (hw : (wordsFor c h).1 = 0) : reserveWords (stageRing s c h o) c.uid h =
      (fillRing s c.pages o).onCmd c.uid (fun k => { k with order := 10, inp := o, staged := o.length }) := by
  rw [stageRing_plain hd ho]
  have hcmd : ((fillRing s c.pages o).onCmd c.uid (fun k => { k with order := 9, inp := o, staged := o.length })).cmd c.uid =
      some { c with order := 9, inp := o, staged := o.length } := by
    rw [State.cmd_onCmd _ _ (by intro _; rfl), State.cmd, cmds_fillRing]
    exact congrArg _ hc
  have h10 := reserveWords_none (c := { c with order := 9, inp := o, staged := o.length }) (h := h) hcmd rfl hw
  refine h10.trans ?_
  rw [State.onCmd_onCmd _ _ (by intro _; rfl)]

section
variable {s : State} {r : CmdRef} {c : Cmd} {h : FigHdr} {data : List Octet}
  (hc : s.cmd c.uid = some c) (hh : s.figHdr c.figure = some h)
  (hf : findCmd s r (fun k => decide (k.opc = 1) && (decide (k.ph = CmdPhase.ingress ∧ k.order = 8) ||
    (decide (k.ph = CmdPhase.placed) && k.refill.any (fun p => decide ((s.page p).phase = .drained))))) = some c)
include hf hh

include hc in
theorem stagingDmaDone_ingress (hp : c.ph = CmdPhase.ingress) (hd : resumesDigest c = false) (hw : (wordsFor c h).1 = 0) :
    exec (.stagingDmaDone r data) s = .next ((fillRing s c.pages (fitOctets (min c.inLen h.ring) data)).onCmd c.uid (fun k => { k with
      order := 10, inp := fitOctets (min c.inLen h.ring) data, staged := (fitOctets (min c.inLen h.ring) data).length })) := by
  change done (stageArrived s r data) = _
  unfold stageArrived
  simp only [hf, hh, hp, if_true]
  rw [stageRing_reserve hc hd (by rw [length_fitOctets]; exact Nat.min_le_right ..) hw]
  rfl

theorem stagingDmaDone_placed {p : Nat} (hp : c.ph = CmdPhase.placed) (hr : c.refill.find? (fun p => decide ((s.page p).phase = .drained)) = some p) :
    exec (.stagingDmaDone r data) s = .next ((fillOnePage s p (fitOctets (min 4096 (c.inLen - c.staged)) data)).onCmd c.uid (fun k => { k with
      refill := k.refill.erase p, staged := k.staged + min 4096 (c.inLen - c.staged) })) := by
  change done (stageArrived s r data) = _
  unfold stageArrived
  simp only [hf, hh, hp, hr]
  rfl

end

/-! ### Draining -/

/-- A run whose run's page was drained is marked. -/
def markDrained (uid : Nat) (q : Seq) : Seq :=
  match q.inst with
  | some i => if i.uid = uid then { q with inst := some { i with drained := true } } else q
  | none => q

theorem inst_markDrained (uid : Nat) (q : Seq) : (markDrained uid q).inst = q.inst.map (fun i => if i.uid = uid then { i with drained := true } else i) := by
  unfold markDrained
  split
  · next i hi =>
    split
    · next hu => simp [hi, hu]
    · next hu => simp [hi, hu]
  · next hi => simp [hi]

theorem tget_mapValues (g : Seq → Seq) (hg : g Seq.zero = Seq.zero) (l : Tab Seq) (n : Nat) :
    tget Seq.zero (l.map fun e => (e.1, g e.2)) n = g (tget Seq.zero l n) := by
  induction l with
  | nil => exact hg.symm
  | cons e l ih =>
    rw [List.map_cons, tget, tget]
    split
    · rfl
    · exact ih

theorem seqs_drain (uid : Nat) (l : Tab Seq) : (l.map fun e =>
      match e.2.inst with
      | some i => if i.uid = uid then (e.1, { e.2 with inst := some { i with drained := true } }) else e
      | none => e) = l.map fun e => (e.1, markDrained uid e.2) := by
  refine List.map_congr_left fun e _ => ?_
  unfold markDrained
  obtain ⟨k, q⟩ := e
  dsimp only
  cases q.inst with
  | none => rfl
  | some i =>
    dsimp only
    split <;> rfl

/-- A released page's octets go to the output, and the page is drained. -/
theorem pageDrainDone_spec {s : State} {r : CmdRef} {c : Cmd} {p : Nat} (hc : s.cmd c.uid = some c)
    (hf : findCmd s r (fun k => decide (k.ph = CmdPhase.placed) && k.refill.any (fun p => decide ((s.page p).phase = .released))) = some c)
    (hr : c.refill.find? (fun p => decide ((s.page p).phase = .released)) = some p) (hb : pagesBad s c = false) :
    ∃ t, exec (.pageDrainDone r) s = .next t ∧ t.page p = { s.page p with phase := .drained } ∧
      t.cmd c.uid = some { c with
        out := c.out ++ (pageHeld s p).take (c.outLen - c.out.length)
        drained := c.drained + 1
        outw := c.out.length + ((pageHeld s p).take (c.outLen - c.out.length)).length } ∧
      (∀ q, (t.seq q).inst = (s.seq q).inst.map (fun i => if i.uid = c.uid then { i with drained := true } else i)) := by
  have hrun : exec (.pageDrainDone r) s = done (drainDone s r) := rfl
  simp only [drainDone, hf, hr, hb, Bool.false_eq_true, if_false] at hrun
  refine ⟨_, hrun, ?_, ?_, fun q => ?_⟩
  · exact (tget_tset ..).trans (if_pos rfl)
  · change (s.cmds.map fun e => if e.uid = c.uid then _ else e).find? _ = _
    rw [find?_onCmd (by intro _; rfl)]
    exact congrArg _ hc
  · rw [State.seq, ← inst_markDrained]
    refine congrArg Seq.inst ?_
    refine Eq.trans (congrArg (fun l => tget Seq.zero l q) (seqs_drain c.uid s.floor.seqs)) ?_
    exact tget_mapValues (markDrained c.uid) rfl _ q

theorem keyCacheLoadDone_goes {s : State} {r : CmdRef} {c : Cmd}
    (hf : findCmd s r (fun k => decide (k.opc = 1 ∧ k.ph = CmdPhase.ingress ∧ k.wait = [waitLoad])) = some c) :
    exec (.keyCacheLoadDone r) s = .next (advance (s.onCmd c.uid (fun k => { k with wait := [] })) c.uid true) := by
  have hrun : exec (.keyCacheLoadDone r) s = done (loadArrived s r) := rfl
  rw [hrun, loadArrived, hf]
  rfl

/-! ### Admission to the stage, and completions -/

theorem ingressAdmit_takes {s : State} {f : Fin 2050} {q : Fin 256} {c : Cmd} (hq : nextQueue s f = some q.val)
    (hc : s.cmds.find? (fun e => decide (e.func = f.val ∧ e.queue = q.val ∧ e.ph = CmdPhase.queued)) = some c) (hz : (s.fn f).freezing = false)
    (hh : s.halting = false) (hw : (s.cmds.filter (fun e => decide (e.func = f.val) && e.inWindow)).length < max 1 (s.rd (Reg.ADM_WIN_STAGE_WIN f))) :
    exec (.ingressAdmit f) s = .next ((s.onCmd c.uid (fun e => { e with ph := CmdPhase.ingress })).setFn f { s.fn f with lastQ := q.val }) := by
  have hrun : exec (.ingressAdmit f) s = done (admitOne s f) := rfl
  unfold admitOne at hrun
  dsimp only at hrun
  rw [if_neg (by simp only [hz, hh, Bool.false_eq_true, or_false]; omega)] at hrun
  simp only [hq, hc] at hrun
  exact hrun

theorem fns_releaseAll (s : State) (c : Cmd) : (releaseAll s c).funcs = s.funcs := by
  have hfold : ∀ (l : List Nat) (s : State), (l.foldl unpin s).funcs = s.funcs := by
    intro l
    induction l with
    | nil => exact fun _ => rfl
    | cons n l ih => exact fun s => (ih _).trans rfl
  exact (hfold _ _).trans rfl

/-- The release of what a command held leaves the queues' registers. -/
theorem rd_releaseAll (s : State) (c : Cmd) {f : Fld} (hf : f.place ≠ Reg.RNG_STAT_FIFO.place) (hk : f.place ≠ Reg.KS_PINNED.place) :
    (releaseAll s c).rd f = s.rd f := by
  have hfold : ∀ (l : List Nat) (s : State), (l.foldl unpin s).rd f = s.rd f := by
    intro l
    induction l with
    | nil => exact fun _ => rfl
    | cons n l ih => exact fun s => (ih _).trans rfl
  rw [releaseAll, releasePins, pinCount, State.rd_wr_place _ _ hk, hfold]
  exact State.rd_wr_place _ _ hf

/-- A function that is not being frozen goes on. -/
theorem freezeCheck_running {s : State} {f : Nat} (h : (s.fn f).freezing = false) : freezeCheck s f = s := by
  unfold freezeCheck
  exact if_pos (.inl (by simp [h]))

theorem completionWrite_writes {s : State} {f : Fin 2050} {q : Fin 256} {c : Cmd}
    (hc : s.cmds.find? (fun e => decide (e.func = f.val ∧ e.queue = q.val ∧ e.ph = CmdPhase.completing)) = some c) (hd : f.val ∉ s.d3)
    (he : s.on (Reg.Q_CTL_ENABLE (qx f q)) = true) (hz : (s.fn f).freezing = false) (ht : s.rd (Reg.Q_MOD_TIME (qx f q)) = 0) :
    exec (.completionWrite f q) s = .next (raiseQueue (releaseAll { s with
      sent := s.sent ++ [Sent.completion f q (s.q (qx f q)).cqTail (completionEntry s c (s.q (qx f q)).phase) (resultSlot c) c.out]
      queues := tset QueueSt.fresh s.queues (qx f q) { s.q (qx f q) with
        cqTail := ((s.q (qx f q)).cqTail + 1) % s.depth (qx f q)
        phase := (s.q (qx f q)).phase != decide (s.depth (qx f q) ≤ (s.q (qx f q)).cqTail + 1)
        since := (s.q (qx f q)).since + 1 }
      cmds := s.cmds.filter (fun e => decide (e.uid ≠ c.uid)) } c) f (qx f q)) := by
  have hrun : exec (.completionWrite f q) s = done (writeCompletion s f q) := rfl
  simp only [writeCompletion, hc, hd, he, not_true_eq_false, or_false, if_false] at hrun
  refine hrun.trans (congrArg Host.Outcome.next ?_)
  generalize hv : ({ s with
    sent := s.sent ++ [Sent.completion f q (s.q (qx f q)).cqTail (completionEntry s c (s.q (qx f q)).phase) (resultSlot c) c.out]
    queues := tset QueueSt.fresh s.queues (qx f q) { s.q (qx f q) with
      cqTail := ((s.q (qx f q)).cqTail + 1) % s.depth (qx f q)
      phase := (s.q (qx f q)).phase != decide (s.depth (qx f q) ≤ (s.q (qx f q)).cqTail + 1)
      since := (s.q (qx f q)).since + 1 }
    cmds := s.cmds.filter (fun e => decide (e.uid ≠ c.uid)) } : State) = v
  have htime : (releaseAll v c).rd (Reg.Q_MOD_TIME (qx f q)) = 0 := by
    rw [rd_releaseAll, ← hv]
    · exact ht
    all_goals simp only [Fld.place, Reg.Q_MOD_TIME, Reg.RNG_STAT_FIFO, Reg.KS_PINNED]; omega
  have hfn : ((raiseQueue (releaseAll v c) f (qx f q)).fn f).freezing = false := by
    have h := (recorded_raiseVector ((releaseAll v c).setQ (qx f q) { (releaseAll v c).q (qx f q) with since := 0 }) f
      ((releaseAll v c).rd (Reg.Q_CTL_VECTOR (qx f q)))).funcs
    rw [raiseQueue, State.fn, h]
    refine Eq.trans (congrArg (fun l => (tget FuncSt.absent l f.val).freezing) ((fns_releaseAll v c).trans ?_)) hz
    rw [← hv]
  have hv' : ({ ({ s with
      sent := s.sent ++ [Sent.completion f q (s.q (qx f q)).cqTail (completionEntry s c (s.q (qx f q)).phase) (resultSlot c) c.out] } : State).setQ (qx f q)
        { s.q (qx f q) with
          cqTail := ((s.q (qx f q)).cqTail + 1) % s.depth (qx f q)
          phase := (s.q (qx f q)).phase != decide ((s.q (qx f q)).cqTail + 1 ≥ s.depth (qx f q))
          since := (s.q (qx f q)).since + 1 } with
      cmds := s.cmds.filter (fun e => decide (e.uid ≠ c.uid)) } : State) = v := hv
  refine Eq.trans ?_ (freezeCheck_running hfn)
  refine congrArg (fun u => freezeCheck u f.val) ?_
  exact (if_pos (.inl ((congrArg (fun u => (releaseAll u c).rd (Reg.Q_MOD_TIME (qx f q))) hv').trans htime))).trans
    (congrArg (fun u => raiseQueue (releaseAll u c) f (qx f q)) hv')

/-- Settles O30: the transfers of a command's data, the stage's next command, and the completion at a queue's front. -/
theorem stagingAndCompletion : Obligations.StagingAndCompletion := by
  refine ⟨fun s r c h data hc hh => ⟨fun hf => ⟨fun hp hd hw => stagingDmaDone_ingress hc hh hf hp hd hw, fun hp p hr => stagingDmaDone_placed hh hf hp hr⟩,
    fun hf p hr hb => pageDrainDone_spec hc hf hr hb, fun hf => keyCacheLoadDone_goes hf⟩, fun s f q c => ⟨ingressAdmit_takes, completionWrite_writes⟩⟩

end Sys2Proof.Machine
end

section
/-! SUPPORT. Ports, links and function resets (O31). -/
namespace Sys2Proof.Machine

/-! ### What a function reset leaves of the commands -/

theorem cmds_releaseAll (s : State) (c : Cmd) : (releaseAll s c).cmds = s.cmds := by
  have hfold : ∀ (l : List Nat) (s : State), (l.foldl unpin s).cmds = s.cmds := by
    intro l
    induction l with
    | nil => exact fun _ => rfl
    | cons n l ih => exact fun s => (ih _).trans rfl
  exact (hfold _ _).trans rfl

/-- A reset function keeps only what is placed, and touches no other function's commands. -/
theorem cmds_functionReset (s : State) (f : Nat) : (functionReset s f).cmds = s.cmds.filter (fun c => decide (c.func ≠ f ∨ c.ph = CmdPhase.placed)) := by
  have hfold : ∀ (l : List Cmd) (s : State),
      (l.foldl (fun s c => if c.ph = CmdPhase.placed then stopInst s c.uid .flr else releaseAll s c) s).cmds = s.cmds := by
    intro l
    induction l with
    | nil => exact fun _ => rfl
    | cons c l ih =>
      intro s
      rw [List.foldl_cons, ih]
      split
      · rfl
      · exact cmds_releaseAll ..
  exact congrArg (List.filter fun c => decide (c.func ≠ f ∨ c.ph = CmdPhase.placed)) (hfold (s.cmds.filter fun c => decide (c.func = f)) s)

/-- Every command of `f` that is left is placed. -/
def OnlyPlaced (f : Nat) (s : State) : Prop := ∀ c ∈ s.cmds, c.func = f → c.ph = CmdPhase.placed

theorem onlyPlaced_reset (s : State) (f : Nat) : OnlyPlaced f (functionReset s f) := by
  intro c hc hf
  rw [cmds_functionReset, List.mem_filter] at hc
  exact (of_decide_eq_true hc.2).resolve_left (not_not_intro hf)

theorem OnlyPlaced.functionReset {f : Nat} {s : State} (h : OnlyPlaced f s) (g : Nat) : OnlyPlaced f (functionReset s g) := by
  intro c hc
  rw [cmds_functionReset, List.mem_filter] at hc
  exact h c hc.1

theorem OnlyPlaced.foldl {f : Nat} : ∀ (l : List Nat) {s : State}, OnlyPlaced f s → OnlyPlaced f (l.foldl Machine.functionReset s)
  | [], _, h => h
  | g :: l, _, h => OnlyPlaced.foldl l (h.functionReset g)

/-! ### Ports -/

theorem State.port_setPort (s : State) (p : Nat) (x : Port) : (s.setPort p x).port p = x := by
  unfold State.setPort State.port
  by_cases h : p = 0
  · simp [h]
  · simp [h]

theorem frame_showReport (s : State) (p : Nat) : showReport s p = { s with regs := (showReport s p).regs } := by
  unfold showReport
  split <;> rfl

/-- What a port's loss leaves of it: no link, no VFs, a fresh SPDM responder, no reports, and of its function's commands the placed ones. -/
structure PortLost (p : Nat) (s : State) : Prop where
  link : (s.port p).link = false
  vfs : (s.port p).vfEnable = false
  spdm : (s.port p).spdm = Spdm.reset
  reports : tget [] s.flrs p = []
  cmds : OnlyPlaced (pfOf p) s

theorem portLost_portReset {s : State} {p : Nat} (hs : ¬ (p = 1 ∧ ¬ s.rst.split)) : PortLost p (portReset s p) := by
  unfold portReset
  rw [if_neg hs]
  dsimp only
  have hcmds : OnlyPlaced (pfOf p) ((vfsOf s p).foldl functionReset (functionReset (pfLapses s p) (pfOf p))) :=
    OnlyPlaced.foldl _ (onlyPlaced_reset _ _)
  generalize (vfsOf s p).foldl functionReset (functionReset (pfLapses s p) (pfOf p)) = u at hcmds ⊢
  have hrep := frame_showReport { u with d3 := u.d3.filter (fun f => !decide (f = pfOf p ∨ f ∈ vfsOf s p)), flrs := tset [] u.flrs p [] } p
  generalize showReport { u with d3 := u.d3.filter (fun f => !decide (f = pfOf p ∨ f ∈ vfsOf s p)), flrs := tset [] u.flrs p [] } p = v at hrep ⊢
  refine ⟨?_, ?_, ?_, ?_, ?_⟩
  · rw [State.port_setPort]
  · rw [State.port_setPort]
  · rw [State.port_setPort]
  · have hv : v.flrs = tset [] u.flrs p [] := (congrArg State.flrs hrep).trans rfl
    have ht : ∀ (w : State) (x : Port), (w.setPort p x).flrs = w.flrs := fun w x => by simp only [State.setPort_frame]
    rw [ht]
    exact (congrArg (fun l => tget [] l p) hv).trans ((tget_tset ..).trans (if_pos rfl))
  · have hv : v.cmds = u.cmds := (congrArg State.cmds hrep).trans rfl
    have ht : ∀ (w : State) (x : Port), (w.setPort p x).cmds = w.cmds := fun w x => by simp only [State.setPort_frame]
    intro c hc
    rw [ht] at hc
    exact hcmds c (hv ▸ hc)

theorem PortLost.withPerst {p : Nat} {s : State} (h : PortLost p s) : PortLost p (s.setPort p { s.port p with perst := true }) where
  link := by rw [State.port_setPort]; exact h.link
  vfs := by rw [State.port_setPort]; exact h.vfs
  spdm := by rw [State.port_setPort]; exact h.spdm
  reports := by simp only [State.setPort_frame]; exact h.reports
  cmds c hc := h.cmds c (by simpa only [State.setPort_frame] using hc)

/-- The fuse load that begins without a reset of reach POR changes the mode and the reset's fields alone. -/
theorem PortLost.afterLoad {p : Nat} {s : State} (h : PortLost p s) (hp : s.rst.por = false) : PortLost p (startLoad s) := by
  have hrun : startLoad s = { s.wr Reg.MODE_STAT_MODE mFuseLoad with rst := { s.rst with loadStop := false, fuseAgain := false } } :=
    if_pos (show ¬ s.rst.por = true by simp [hp])
  rw [hrun]
  exact ⟨h.link, h.vfs, h.spdm, h.reports, h.cmds⟩

theorem split_wake (s : State) (ev : Nat) : (wake s ev).rst.split = s.rst.split := by
  have hfold : ∀ (l : List Nat) (s : State),
      (l.foldl (fun s n => if s.rd (Reg.SRC_STAT_STATE n) = 0 then s.wr (Reg.SRC_STAT_STATE n) 1 else s) s).rst = s.rst := by
    intro l
    induction l with
    | nil => exact fun _ => rfl
    | cons n l ih =>
      intro s
      rw [List.foldl_cons, ih]
      split <;> rfl
  unfold wake
  dsimp only
  split
  · rfl
  · rw [setMode, (recorded_setModeWith ..).reset]
    simp only [State.flag_frame]
    rw [hfold]
    rfl

theorem split_stopLoad (s : State) : (stopLoad s).rst.split = s.rst.split := by
  unfold stopLoad
  split <;> rfl

/-- Each of PERST, hot reset and a link's loss leaves the port lost. -/
theorem portLost_portSource {s : State} {p : Nat} (hs : p = 0 ∨ s.rst.split = true) (held : Bool) : PortLost p (portSource s p held) := by
  have h1 : ¬ (p = 1 ∧ ¬ s.rst.split) := by
    rintro ⟨rfl, hn⟩
    exact hs.elim (fun h => absurd h Nat.one_ne_zero) hn
  unfold portSource
  rw [if_neg h1]
  dsimp only
  have hsplit : (if (noteSource s (5 + p) held).mode = mFuseLoad then stopLoad (noteSource s (5 + p) held) else wake (noteSource s (5 + p) held) 2).rst.split =
      s.rst.split := by
    split
    · exact split_stopLoad _
    · exact split_wake ..
  generalize (if (noteSource s (5 + p) held).mode = mFuseLoad then stopLoad (noteSource s (5 + p) held) else wake (noteSource s (5 + p) held) 2) = u at hsplit ⊢
  have hl : PortLost p (portReset u p) := portLost_portReset (by rw [hsplit]; exact h1)
  generalize portReset u p = v at hl ⊢
  split
  · exact hl.withPerst
  · split
    · next hv => exact hl.afterLoad (by simpa using hv.2.2)
    · exact hl

/-! ### Function resets -/

/-- A VF with nothing at hand is reset with nothing discarded. -/
theorem functionReset_idle {s : State} {f : Nat} (hc : s.cmds.filter (fun c => decide (c.func = f)) = []) (hh : (s.fn f).held = []) : functionReset s f =
    { s with
      regs := flrRegs f s.regs
      queues := s.queues.filter (fun e => !decide (256 * f ≤ e.1 ∧ e.1 < 256 * (f + 1)))
      msix := s.msix.filter (fun e => !decide (512 * f ≤ e.1 ∧ e.1 < 512 * (f + 1))) }.setFn f (s.fn f) := by
  have hkeep : s.cmds.filter (fun c => decide (c.func ≠ f ∨ c.ph = .placed)) = s.cmds := by
    refine List.filter_eq_self.mpr fun c hmem => decide_eq_true (.inl fun hf => ?_)
    exact List.ne_nil_of_mem (List.mem_filter.mpr ⟨hmem, decide_eq_true hf⟩) hc
  have hd : discardCmds s f = s := by
    simp only [discardCmds, hc, List.foldl_nil, hkeep]
  simp only [functionReset, hd]
  congr 1
  exact (congrArg (fun l => { s.fn f with held := l }) hh.symm :)

theorem vfFlr_idle {s : State} {f : Fin 2048} (hm : s.mode ≠ mSleep) (hf : s.fnState f ≠ 0) (hc : s.cmds.filter (fun c => decide (c.func = f.val)) = [])
    (hh : (s.fn f).held = []) : exec (.vfFlr f) s = .next (pushReport (functionReset s f) (portOf (functionReset s f) f) f 0) := by
  have hrun : exec (.vfFlr f) s = done (flrVf (wake s 2) f) := rfl
  have hw : wake s 2 = s := if_pos hm
  rw [hrun, hw, flrVf, if_neg hf]
  simp only [hc, hh, List.length_nil, Nat.add_zero, if_true]
  rfl

theorem mem_insNat (n g : Nat) (l : List Nat) : g ∈ insNat n l ↔ g = n ∨ g ∈ l := by
  induction l with
  | nil => simp [insNat]
  | cons m l ih =>
    unfold insNat
    split
    · exact List.mem_cons
    · split
      · next h => simp [h]
      · simp only [List.mem_cons, ih]
        exact or_left_comm

/-- Settles O31: reports, links, power states, VF enables, and the resets of functions and ports. -/
theorem portsAndFunctionResets : Obligations.PortsAndFunctionResets := by
  intro s p f
  refine ⟨fun e l hl => ?_, fun hp hs hr => ?_, fun hl => ?_, fun on hf => ?_, fun d3 => ⟨_, rfl, fun g => ?_⟩, fun f hm hf hc hh => ?_, fun i hi hs => ?_,
    fun hm hf hv => ⟨?_, ?_⟩, fun hr hl => ?_⟩
  · have hrun : exec (.flrReportPop p) s = done (popReport s p) := rfl
    rw [hrun, popReport]
    simp only [hl, List.drop_succ_cons, List.drop_zero, reduceCtorEq, if_false]
    rfl
  · refine congrArg Host.Outcome.next (if_neg ?_)
    rw [hp, hr]
    rintro (h | ⟨h, hn⟩ | h)
    · cases h
    · exact hs.elim (fun h0 => absurd h (by rw [h0]; decide)) hn
    · cases h
  · exact congrArg Host.Outcome.next (if_pos hl)
  · exact congrArg Host.Outcome.next (if_neg hf)
  · cases d3 with
    | true =>
      refine (mem_insNat ..).trans ?_
      split
      · next h => simp [h]
      · next h => simp [h]
    | false =>
      refine List.mem_filter.trans ?_
      split
      · next h => simp [h]
      · next h => simp [h]
  · dsimp only
    rw [vfFlr_idle hm hf hc hh, functionReset_idle hc hh]
  · have hrun : ∃ held, exec i s = .next (portSource s p held) := by
      simp only [List.mem_cons, List.not_mem_nil, or_false] at hi
      rcases hi with rfl | rfl | rfl
      · exact ⟨true, rfl⟩
      · exact ⟨false, rfl⟩
      · exact ⟨false, rfl⟩
    obtain ⟨held, hrun⟩ := hrun
    obtain ⟨hlink, hvfs, hspdm, hrep, hcmds⟩ := portLost_portSource (hs.imp_left (congrArg Fin.val)) held
    exact ⟨_, hrun, hlink, hvfs, hspdm, hrep, hcmds⟩
  · have hrun : exec (.pfFlr p) s = done (flrPf (wake s 2) p) := rfl
    have hw : wake s 2 = s := if_pos hm
    rw [hrun, hw, flrPf, if_neg hf, hv]
    rfl
  · rw [pfLapses]
    dsimp only
    rw [State.port_setPort]
  · have hrun : exec (.perstRelease p) s = done (perstReleased s p) := rfl
    rw [hrun, perstReleased]
    have hrst : (s.setPort p { s.port p with perst := false }).rst = s.rst := by simp only [State.setPort_frame]
    refine congrArg Host.Outcome.next ?_
    generalize s.setPort p { s.port p with perst := false } = u at hrst ⊢
    rw [releaseSource]
    dsimp only
    rw [if_neg (by simp [hrst, hr, hl]), hrst]

end Sys2Proof.Machine
end

section
/-! SUPPORT. The measure boundary (O32): the count, a run's end, and a load's arrival. -/
namespace Sys2Proof.Machine

/-! ### The measure count -/

theorem mcount_wr2 (s : State) {m : Nat} (h : m < 2 ^ 36) : (s.wr2 Reg.MCOUNT_L Reg.MCOUNT_H m).mcount = m := by
  rw [State.mcount, State.rd2, State.wr2, State.rd_wr, State.rd_wr_place _ _ (by decide), State.rd_wr]
  simp only [Reg.MCOUNT_L, Reg.MCOUNT_H]
  omega

theorem mcount_countMeasure {s : State} (h : s.mcount < 2 ^ 36) : (countMeasure s).mcount = (s.mcount + 1) % 2 ^ 36 := by
  unfold countMeasure
  dsimp only
  split
  · next hm => rw [mcount_wr2 s hm, Nat.mod_eq_of_lt hm]
  · next hm =>
    rw [State.mcount, State.rd2, State.rd_flag_place _ _ (by decide), State.rd_flag_place _ _ (by decide)]
    refine (mcount_wr2 s (m := 0) (by decide)).trans ?_
    omega

/-! ### A run at its boundary -/

section
variable {m q : Nat} {s : State} {i : Inst} {c : Cmd}

theorem seq_releaseUnits (s : State) (q : Nat) (i : Inst) : ((releaseUnits s q i).seq q).inst = none := by
  rw [releaseUnits, State.seq_setSeq, if_pos rfl]
  rfl

/-- A run that nothing stopped leaves by its own end or by its abort. -/
theorem leaving_unstopped (hs : i.stop = none) (hb : i.bstop = none) : leaving s (some c) i =
    if (i.ended.isSome && !i.again) = true then some (.ends (if c.abortAt.isSome = true ∧ endStatus i = 0 then 2 else endStatus i))
    else if c.abortAt.isSome = true then some (.ends 1)
    else none := by
  unfold leaving
  simp only [hs, hb]
  rfl

variable (hi : (s.seq q).inst = some i) (hc : s.cmd i.uid = some c)
  (hland : landDue (landDue s q (360 * ((m + 2 ^ 36 - i.start) % 2 ^ 36) - 1)) q (360 * ((m + 2 ^ 36 - i.start) % 2 ^ 36)) = s)
include hi hc hland

theorem boundarySeq_ends {st : Nat} (hl : leaving s (some c) i = some (.ends st)) :
    boundarySeq m s q = resolveAborts (formCompletion (releaseUnits s q i) c i st) c.uid (if st = 1 then 1 else 2) := by
  unfold boundarySeq
  simp only [hi, hland, hc, hl]

theorem boundarySeq_again (hl : leaving s (some c) i = none) (ha : i.again = true) : ((boundarySeq m s q).seq q).inst =
    some { i with run := i.run + 1, start := m, cyc := 0, step := 0, ended := none, again := false, flight := [] } := by
  unfold boundarySeq
  simp only [hi, hland, hc, hl, ha, if_true]
  refine (inst_onInst (i := i) ?_ _)
  rw [State.seq_setSeq]
  simpa using hi

end

/-! ### A figure's load -/

/-- The steps of a load, written from `b` on. -/
def loadSteps (b : Nat) (steps : List StepWord) (mem : Tab StepWord) : Tab StepWord :=
  ((List.range steps.length).zip steps).foldl (fun m st => tset 0 m (b + st.1) st.2) mem

theorem tget_foldl_steps (b : Nat) (k : Nat) (v : StepWord) : ∀ (l : List (Nat × StepWord)) (mem : Tab StepWord), (∀ e ∈ l, e.1 = k → e.2 = v) →
    ((∃ e ∈ l, e.1 = k) ∨ tget 0 mem (b + k) = v) → tget 0 (l.foldl (fun m st => tset 0 m (b + st.1) st.2) mem) (b + k) = v
  | [], _, _, h => h.resolve_left (by simp)
  | e :: l, mem, hv, h => by
    refine tget_foldl_steps b k v l _ (fun e he => hv e (List.mem_cons_of_mem _ he)) ?_
    rw [tget_tset]
    by_cases hk : e.1 = k
    · exact .inr ((if_pos (by rw [hk])).trans (hv e List.mem_cons_self hk))
    · rw [if_neg (by omega)]
      refine h.imp_left ?_
      rintro ⟨x, hx, rfl⟩
      rcases List.mem_cons.mp hx with rfl | hx
      · exact absurd rfl hk
      · exact ⟨x, hx, rfl⟩

theorem tget_loadSteps {b k : Nat} {steps : List StepWord} (mem : Tab StepWord) (hk : k < steps.length) : tget 0 (loadSteps b steps mem) (b + k) = nth 0 steps k := by
  refine tget_foldl_steps b k _ _ mem ?_ (.inl ⟨(k, steps[k]), ?_, rfl⟩)
  · rintro ⟨j, v⟩ he hj
    obtain ⟨n, hn, hget⟩ := List.mem_iff_getElem.mp he
    simp only [List.getElem_zip, List.getElem_range, Prod.mk.injEq] at hget
    obtain ⟨hnj, hnv⟩ := hget
    have hkn : n = k := hnj.trans hj
    subst hkn
    rw [← hnv, nth, List.getElem?_eq_getElem hk]
    rfl
  · refine List.mem_iff_getElem.mpr ⟨k, by simpa using hk, ?_⟩
    simp

/-- One sequencer takes the steps of a load where it has an entry that loads. -/
def loadInto (fid : Nat) (steps : List StepWord) (s : State) (q : Nat) : State :=
  match loadingEntry s fid q with
  | none => s
  | some e => s.setSeq q { s.seq q with fmem := loadSteps (s.rd (Reg.RES_BASE q e)) steps (s.seq q).fmem }

theorem frame_loadInto (fid : Nat) (steps : List StepWord) (s : State) (q : Nat) :
    (loadInto fid steps s q).regs = s.regs ∧ (loadInto fid steps s q).cmds = s.cmds := by
  unfold loadInto
  split
  · exact ⟨rfl, rfl⟩
  · exact ⟨rfl, rfl⟩

theorem loadingEntry_congr {s t : State} (h : t.regs = s.regs) (fid q : Nat) : loadingEntry t fid q = loadingEntry s fid q := by
  have hrd : ∀ f, t.rd f = s.rd f := fun f => by rw [State.rd, State.rd, h]
  have hon : ∀ f, t.on f = s.on f := fun f => by rw [State.on, State.on, hrd]
  simp only [loadingEntry, hrd, hon]

theorem frame_foldl_loadInto (fid : Nat) (steps : List StepWord) (l : List Nat) (s : State) :
    (l.foldl (loadInto fid steps) s).regs = s.regs ∧ (l.foldl (loadInto fid steps) s).cmds = s.cmds := by
  induction l generalizing s with
  | nil => exact ⟨rfl, rfl⟩
  | cons q l ih =>
    obtain ⟨hr, hc⟩ := frame_loadInto fid steps s q
    exact ⟨(ih _).1.trans hr, (ih _).2.trans hc⟩

/-- The steps stand in a sequencer's memory from its entry's base on. -/
def LoadedAt (s : State) (q b : Nat) (steps : List StepWord) : Prop := ∀ k < steps.length, tget 0 (s.seq q).fmem (b + k) = nth 0 steps k

/-- Every destination of a load has the steps where its entry begins. -/
theorem loaded_foldl {fid q e : Nat} {steps : List StepWord} : ∀ (l : List Nat) (s : State), loadingEntry s fid q = some e →
    (q ∈ l ∨ LoadedAt s q (s.rd (Reg.RES_BASE q e)) steps) → LoadedAt (l.foldl (loadInto fid steps) s) q (s.rd (Reg.RES_BASE q e)) steps
  | [], _, _, h => h.resolve_left List.not_mem_nil
  | q' :: l, s, he, h => by
    obtain ⟨hr, -⟩ := frame_loadInto fid steps s q'
    have hb : (loadInto fid steps s q').rd (Reg.RES_BASE q e) = s.rd (Reg.RES_BASE q e) := by simp only [State.rd, hr]
    have hstep : q ∈ l ∨ LoadedAt (loadInto fid steps s q') q (s.rd (Reg.RES_BASE q e)) steps := by
      by_cases hq : q = q'
      · subst hq
        refine .inr fun k hk => ?_
        simp only [loadInto, he, State.seq_setSeq, if_true]
        exact tget_loadSteps _ hk
      · refine (h.imp_left fun hm => (List.mem_cons.mp hm).resolve_left hq).imp_right fun hl k hk => ?_
        unfold loadInto
        split
        · exact hl k hk
        · rw [State.seq_setSeq, if_neg hq]
          exact hl k hk
    have hih := loaded_foldl l (loadInto fid steps s q') ((loadingEntry_congr hr fid q).trans he) (hb.symm ▸ hstep)
    rwa [hb] at hih

theorem figureLoadDone_spec {s : State} {fid : BitVec 16} {dest : List Nat} {steps : List StepWord}
    (h : s.floor.loads.find? (fun l => decide (l.1 < 2 ^ 16)) = some (fid.toNat, dest, steps)) : ∃ t, exec (.figureLoadDone fid) s = .next t ∧
      (∀ q ∈ dest, ∀ e, loadingEntry s fid.toNat q = some e → LoadedAt t q (s.rd (Reg.RES_BASE q e)) steps) ∧ t.cmds = s.cmds ∧ t.regs = s.regs := by
  have hrun : exec (.figureLoadDone fid) s = done (loadDone s fid.toNat) := rfl
  have hfold : loadDone s fid.toNat = { dest.foldl (loadInto fid.toNat steps) s with floor := { (dest.foldl (loadInto fid.toNat steps) s).floor with
      loads := (dest.foldl (loadInto fid.toNat steps) s).floor.loads.set
        ((dest.foldl (loadInto fid.toNat steps) s).floor.loads.idxOf (fid.toNat, dest, steps)) (fid.toNat + 2 ^ 16 + (if steps = [] then 2 ^ 17 else 0), dest, []) } } := by
    unfold loadDone
    simp only [h, ne_eq, not_true_eq_false, if_false]
    rfl
  obtain ⟨hr, hc⟩ := frame_foldl_loadInto fid.toNat steps dest s
  exact ⟨_, hrun.trans (congrArg Host.Outcome.next hfold), fun q hq e he => loaded_foldl dest s he (.inl hq), hc, hr⟩

/-- Settles O32: the count, the order of the boundary's work, the ends and replays of runs, and a load's arrival. -/
theorem measureBoundary : Obligations.MeasureBoundary := by
  refine fun s => ⟨mcount_countMeasure, fun hf => ?_, fun hf => ⟨fun hh => ?_, fun hh => ⟨fun ht => ?_, fun ht => ⟨_, rfl, ?_⟩⟩⟩,
    fun m q i c hi _ hc hs hb => ?_, fun fid dest steps h => figureLoadDone_spec h⟩
  · exact congrArg Host.Outcome.next (if_pos (by simp [hf]))
  · refine congrArg Host.Outcome.next ((if_neg (not_not_intro hf)).trans ?_)
    exact if_pos hh
  · refine congrArg Host.Outcome.next ((if_neg (not_not_intro hf)).trans ?_)
    exact (if_neg (Bool.eq_false_iff.mp hh)).trans (if_pos ht)
  · refine congrArg Host.Outcome.next ((if_neg (not_not_intro hf)).trans ?_)
    exact (if_neg (Bool.eq_false_iff.mp hh)).trans (if_neg (by simp [ht]))
  · dsimp only
    intro hland
    have hl := leaving_unstopped (s := s) (c := c) hs hb
    refine ⟨fun he ha hx => ⟨?_, seq_releaseUnits s q i⟩, fun hx he => ?_, fun he ha hx => ?_⟩
    · refine boundarySeq_ends hi hc hland (hl.trans ?_)
      simp [he, ha, hx]
    · refine boundarySeq_ends hi hc hland (hl.trans ?_)
      rcases he with he | he
      · simp [he, hx]
      · simp [he, hx]
    · refine boundarySeq_again hi hc hland (hl.trans ?_) ha
      simp [ha, hx]

end Sys2Proof.Machine
end

section
/-! SUPPORT. RUN's admission (O33): the state that refutes it. -/
namespace Sys2Proof.Machine

/-! ### Two commands of one number

A key operand's binding appends the operand's slot to what each command of that number has bound. The statement names the result `[some n]` for every
command of the number; it fails where a second one of the same number has an operand bound already. -/

/-- An owner's figure that takes one key and nothing else. -/
def oneKeyFigure : FigHdr := ⟨0x8000, 0, 0, false, false, false, 0, 0, 1, 0, 0, 0, 1, 0, 0, 0, 0, 0, 0, [], [], []⟩

/-- RUN of that figure with handle 1. -/
def oneKeyRun : Cmd := { Cmd.fresh 0 0 0 ([1, 0, 0, 0, 0, 0, 0x00, 0x80, 1, 0, 1, 0, 0, 0, 0, 0, 1] ++ List.replicate 47 0) with ph := .ingress }

/-- Operational, the vault ready, domain 0 active, the figure resident and permitted, the key of handle 1 in the cache; two commands have number 0. -/
def twinRuns : State :=
  let s := { State.reset with
    cmds := [oneKeyRun, { oneKeyRun with keys := [none] }]
    funcs := [(0, { FuncSt.absent with st := 1, cfg := List.replicate 14 0 ++ [1] ++ List.replicate 33 0 ++ [0, 0x80] })]
    cache := [(0, { KSlot.empty with used := true, handle := 1 })]
    vault := { State.reset.vault with recs := [(1, (deviceObj bPolicy [0, 0, 1]).octets)], map := [(1, 2 ^ 13)] }
    floor := { State.reset.floor with figs := [oneKeyFigure] } }
  ((((s.wr Reg.MODE_STAT_MODE mOperational).wr Reg.KS_STAT_VAULT 2).wr (Reg.RES_VALID 0 0) 1).wr (Reg.RES_FIGURE 0 0) 0x8000).wr (Reg.CARD_LIVE 240 0) 0

/-- The operands that an outcome's commands have bound. -/
def outcomeKeys : Out → List (List (Option Nat))
  | .next t => t.cmds.map Cmd.keys
  | _ => []

theorem twinRuns_found : findCmd twinRuns ⟨0, 0, 0⟩ (fun k => decide (k.opc = 1 ∧ k.ph = CmdPhase.ingress ∧ k.order = 0)) = some oneKeyRun := by decide

theorem twinRuns_permits : tenantRefusal twinRuns = none ∧ frozenFn twinRuns oneKeyRun.func = false ∧ permitted twinRuns oneKeyRun.func oneKeyRun.figure = true ∧
    figurePlaceable twinRuns oneKeyRun.func oneKeyRun.figure = true := by decide

theorem twinRuns_shape : twinRuns.figHdr oneKeyRun.figure = some oneKeyFigure ∧ shapeOkRun twinRuns oneKeyRun oneKeyFigure = true ∧
    resumesDigest oneKeyRun = false ∧ (wordsFor oneKeyRun oneKeyFigure).1 = 0 := by decide

theorem twinRuns_key : twinRuns.domState (hDom (oneKeyRun.handle 0)) = 1 ∧ twinRuns.rd Reg.KS_STAT_VAULT = 2 ∧ cachedSlot twinRuns (oneKeyRun.handle 0) = some 0 ∧
    operandOk oneKeyRun oneKeyFigure 0 (twinRuns.slot 0) true = true ∧ leaseBefore twinRuns oneKeyRun (oneKeyRun.handle 0) = false := by decide +kernel

theorem twinRuns_counter : counterBinding twinRuns (oneKeyRun.handle 0) (twinRuns.slot 0) = 0 := by decide

theorem twinRuns_iv : ivcOk oneKeyRun 0 = true ∧ counterEnds oneKeyRun 0 = false := by decide

theorem twinRuns_unused : (twinRuns.obj (hRec (oneKeyRun.handle 0))).limit = 0 ∧ (twinRuns.obj (hRec (oneKeyRun.handle 0))).count = 0 := ⟨rfl, rfl⟩

theorem twinRuns_run : outcomeKeys (exec (.run ⟨0, 0, 0⟩) twinRuns) = [[some 0], [none, some 0]] := by decide +kernel

/-- Refutes O33: with two commands of one number, the second keeps the operand that it had bound; `twinRuns` is such a state. -/
theorem not_runsAdmitted : ¬ Obligations.RunsAdmitted := by
  intro h
  obtain ⟨-, -, -, -, -, -, -, hrun⟩ := h.1 twinRuns ⟨0, 0, 0⟩ oneKeyRun (by decide) twinRuns_found
  obtain ⟨htr, hfr, hpm, hpl⟩ := twinRuns_permits
  obtain ⟨hfig, hsh, hres, hw⟩ := twinRuns_shape
  obtain ⟨hdom, hv, hslot, hop, hlease⟩ := twinRuns_key
  obtain ⟨hivc, hends⟩ := twinRuns_iv
  obtain ⟨hlim, hcnt⟩ := twinRuns_unused
  have hkey := ((hrun oneKeyFigure htr hfr hpm hpl hfig).2 hsh rfl (by decide) (by decide) rfl rfl hres hw).2 0
  dsimp only at hkey
  rw [twinRuns_counter] at hkey
  have hbound := congrArg outcomeKeys (hkey rfl (by decide) hdom hv hslot hop hivc hends hlease (.inl hlim) (by rw [hcnt]; decide) (.inr (by decide)))
  rw [twinRuns_run] at hbound
  exact absurd hbound (by decide)

end Sys2Proof.Machine
end

section
/-! SUPPORT. Creation, change and end of keys (O34). -/
namespace Sys2Proof.Machine

/-! ### Answers -/

/-- A command whose operation answers success answers its caller. -/
theorem answers_of {i : Instr} {s : State} {r : CmdRef} {opc : Nat} {blk trailer : List Octet} {c : Cmd} {b : State} {x : Option Ballot} {op : AdminOp}
    (hrun : exec i s = done (adminRun s r opc blk trailer op)) (h : Passes s r opc blk c b x) {d : State} {r0 : Nat} {out : List Octet} {hold : List Nat}
    (ho : op b c (b.who c.func) blk (fitOctets (leAt c.short 0 4) trailer) x = (d, .fin 0 r0 out hold)) : Answers i s c d r0 out hold :=
  hrun.trans (congrArg Host.Outcome.next (adminRun_of h op trailer ho))

/-- An operation that makes a key tells the replicas of it. -/
theorem newKey_makes {dom : Nat} {s d : State} {f : State → State × Rep} {out : List Octet} {hold : List Nat} (hr : s.role dom ≠ 2)
    (hf : f s = (d, .fin 0 0 out hold)) : newKey dom s f = (plxKey d (leAt out 0 8), .fin 0 0 out hold) := by
  simp only [newKey, hr, if_false, hf]
  rfl

/-- An operation that changes a key tells the replicas of it. -/
theorem changeKey_changes {h : Nat} {tell : State → Nat → State} {s d : State} {f : State → State × Rep} {out : List Octet} {hold : List Nat}
    (hr : s.role (hDom h) ≠ 2) (hf : f s = (d, .fin 0 0 out hold)) : changeKey h tell s f = (tell d h, .fin 0 0 out hold) := by
  simp only [changeKey, hr, if_false, hf]
  rfl

/-! ### Creation -/

theorem createFor_makes {s d : State} {w : Who} {o : Obj} {typ kind h : Nat} {peer pub : List Octet} (hc : createObj s o = (d, .ok h)) :
    createFor s w o typ kind peer pub = (creationRecords d w typ kind peer h o,
      .fin 0 0 (leOctets 8 h ++ pub) (changedPages (creationRecords d w typ kind peer h o) o.dom (hRec h) o.nRec)) := by
  simp only [createFor, hc]
  rfl

theorem arriveFor_makes {s b d : State} {w : Who} {o : Obj} {typ kind v h : Nat} {peer : List Octet} (hc : creatable s o = 0)
    (ht : takeImport s (importBlocked s) = (b, .made v)) (ho : createObj b (o.started b (some v)) = (d, .ok h)) :
    arriveFor s w o typ kind peer = (creationRecords d w typ kind peer h (o.started b (some v)),
      .fin 0 0 (leOctets 8 h) (changedPages (creationRecords d w typ kind peer h (o.started b (some v))) (o.started b (some v)).dom (hRec h)
        (o.started b (some v)).nRec)) := by
  simp only [arriveFor, hc, ht, ne_eq, not_true_eq_false, if_false]
  rw [createFor_makes ho, List.append_nil]

theorem vmap_putMap (s : State) (r e k : Nat) : (putMap s r e).vmap k = if k = r then e else s.vmap k := tget_tset ..

theorem map_putRecord (s : State) (r : Nat) (o : List Octet) : (putRecord s r o).vault.map = s.vault.map := rfl

theorem map_putObj (s : State) (r : Nat) (o : Obj) : (putObj s r o).vault.map = s.vault.map := by
  have hfold : ∀ (l : List Nat) (s : State), (l.foldl (fun s i => putRecord s (r + i) (octAt o.octets (128 * i) 128)) s).vault.map = s.vault.map := by
    intro l
    induction l with
    | nil => exact fun _ => rfl
    | cons i l ih => exact fun s => (ih _).trans rfl
  exact hfold _ s

theorem map_addUsed (s : State) (d : Nat) (grow : Bool) (n : Nat) : (addUsed s d grow n).vault.map = s.vault.map := by
  unfold addUsed
  split
  · rfl
  · exact map_putObj ..

theorem vmap_vaultCounts (s : State) (r : Nat) : (vaultCounts s).vmap r = s.vmap r := rfl

theorem vmap_of_map {s t : State} (h : t.vault.map = s.vault.map) (r : Nat) : t.vmap r = s.vmap r := by rw [State.vmap, State.vmap, h]

/-- The entries that a new object writes after its first one leave the first one alone. -/
theorem vmap_foldl_tail (r : Nat) (e : State → Nat → Nat) : ∀ (l : List Nat) (s : State), (∀ i ∈ l, i ≠ 0) →
    (l.foldl (fun s i => putMap s (r + i) (e s i)) s).vmap r = s.vmap r
  | [], _, _ => rfl
  | i :: l, s, h => by
    have hi := h i List.mem_cons_self
    rw [List.foldl_cons, vmap_foldl_tail r e l _ fun j hj => h j (List.mem_cons_of_mem _ hj), vmap_putMap, if_neg (by omega)]

/-- A new object's map entry: STATE 1 and a generation one above the record's last (R226, R228). -/
theorem createObj_takes {b : State} {k : Obj} {f : Nat} (hf : findRun b k.nRec = some f) (hq : quotaFull b k.dom k.nRec = false) (hg : mapGen (b.vmap f) < 0xFFF) :
    (createObj b k).2 = .ok (handleOf k.dom f (mapGen (b.vmap f) + 1)) ∧ (createObj b k).1.vmap f = mapEntry 1 (mapGen (b.vmap f) + 1) := by
  have hfold : ((List.range k.nRec).foldl (fun s i => putMap s (f + i) (mapEntry (if i = 0 then 1 else 2) (mapGen (s.vmap (f + i)) + 1))) b).vmap f =
      mapEntry 1 (mapGen (b.vmap f) + 1) := by
    obtain ⟨n, hn⟩ : ∃ n, k.nRec = n + 1 := ⟨_, Nat.add_comm 1 _⟩
    rw [hn, List.range_succ_eq_map, List.foldl_cons]
    refine (vmap_foldl_tail f (fun s i => mapEntry (if i = 0 then 1 else 2) (mapGen (s.vmap (f + i)) + 1)) _ _ (by simp)).trans ?_
    rw [vmap_putMap]
    exact if_pos rfl
  simp only [createObj, hf, hq, Bool.false_eq_true, if_false]
  generalize (List.range k.nRec).foldl (fun s i => putMap s (f + i) (mapEntry (if i = 0 then 1 else 2) (mapGen (s.vmap (f + i)) + 1))) b = u at hfold ⊢
  have hv : (addUsed (putObj u f k) k.dom true k.nRec).vmap f = mapEntry 1 (mapGen (b.vmap f) + 1) := by
    rw [vmap_of_map ((map_addUsed ..).trans (map_putObj ..)), hfold]
  have hgen : mapGen (mapEntry 1 (mapGen (b.vmap f) + 1)) = mapGen (b.vmap f) + 1 := by
    simp only [mapEntry]
    generalize mapGen (b.vmap f) = g at hg ⊢
    simp only [mapGen]
    omega
  exact ⟨by rw [hv, hgen], hv⟩

theorem createObj_full {b : State} {k : Obj} (h : findRun b k.nRec = none) : createObj b k = (b, .error 1) := by
  simp only [createObj, h]

/-! ### Destruction -/

/-- What `destroyObj` does to one record of an object. -/
def dropRecord (r : Nat) (o : Obj) (s : State) (i : Nat) : State :=
  let g := mapGen (s.vmap (r + i))
  let s := putRecord (putMap s (r + i) (mapEntry (if g = 0xFFF then 4 else 3) g)) (r + i) emptyRecord
  if g = 0xFFF then jrec s 0x0210 0xE3 6 (leOctets 8 (handleOf o.dom (r + i) g)) else s

theorem vmap_dropRecord {r : Nat} {o : Obj} {s : State} {i : Nat} (h : mapGen (s.vmap (r + i)) < 0xFFF) (k : Nat) :
    (dropRecord r o s i).vmap k = if k = r + i then mapEntry 3 (mapGen (s.vmap (r + i))) else s.vmap k := by
  have hne : ¬ mapGen (s.vmap (r + i)) = 0xFFF := Nat.ne_of_lt h
  have hrun : dropRecord r o s i = putRecord (putMap s (r + i) (mapEntry (if mapGen (s.vmap (r + i)) = 0xFFF then 4 else 3) (mapGen (s.vmap (r + i))))) (r + i)
      emptyRecord := if_neg hne
  rw [hrun, if_neg hne, vmap_of_map (map_putRecord ..), vmap_putMap]

theorem vmap_foldl_drop {r : Nat} {o : Obj} (l : List Nat) (s : State) (hn : l.Nodup) (h : ∀ i ∈ l, mapGen (s.vmap (r + i)) < 0xFFF) :
    (l.foldl (dropRecord r o) s).vmap r = if 0 ∈ l then mapEntry 3 (mapGen (s.vmap r)) else s.vmap r := by
  induction l generalizing s with
  | nil => rfl
  | cons i l ih =>
    obtain ⟨hi, hl⟩ := List.nodup_cons.mp hn
    have hv := vmap_dropRecord (o := o) (h i List.mem_cons_self)
    rw [List.foldl_cons, ih _ hl, hv]
    · by_cases h0 : i = 0
      · subst h0
        simp [hi]
      · have hr : r ≠ r + i := by omega
        simp [h0, Ne.symm h0]
    · intro j hj
      rw [hv, if_neg (by rintro he; exact hi ((Nat.add_left_cancel he) ▸ hj))]
      exact h j (List.mem_cons_of_mem _ hj)

theorem destroyObj_destroys {s : State} {f n : Nat} (hn : n = max 1 (leAt (s.vrec f) 6 1)) (hg : ∀ i < n, mapGen (s.vmap (f + i)) < 0xFFF) :
    (destroyObj s f).vmap f = mapEntry 3 (mapGen (s.vmap f)) := by
  have hfold := vmap_foldl_drop (r := f) (o := s.obj f) (List.range n) s List.nodup_range fun i hi => hg i (List.mem_range.mp hi)
  rw [if_pos (List.mem_range.mpr (by omega))] at hfold
  rw [← hfold, hn]
  exact (vmap_vaultCounts ..).trans (vmap_of_map (map_addUsed ..) f)

/-! ### The key commands -/

section
variable {s b b0 : State} {r : CmdRef} {blk : List Octet} {c : Cmd} {x : Option Ballot} {f : Nat}

theorem keyRestrict_answers (h : Passes s r 0x12 blk c b x) (hl : blk.length = 12) (hz : leAt blk 9 3 = 0) (hr : b.role (hDom c.key0) ≠ 2)
    (hopen : openObj b c.key0 false = (b0, .ok f)) (ha : attrWithin (leAt blk 0 2) (b0.obj f).attr = true) (hc : attrWithin (leAt blk 2 2) (b0.obj f).cAttr = true)
    (hlim : leAt blk 4 5 = 0 ∨ ((b0.obj f).limit ≠ 0 ∧ leAt blk 4 5 ≤ (b0.obj f).limit)) {o' : Obj} (ho : o' = { b0.obj f with
      attr := leAt blk 0 2, cAttr := leAt blk 2 2, limit := if leAt blk 4 5 = 0 then (b0.obj f).limit else leAt blk 4 5 }) :
    Answers (.keyRestrict r blk) s c
      (plxKeyLess (recordFor (putObj (dropCached b0 c.key0) f o') (b.who c.func) 0x0203 0 (keyPayload c.key0 o' 0 [])) c.key0) 0 [] (objPages f (b0.obj f).nRec) := by
  have hop : restrictOp b (b.who c.func) c.key0 blk =
      (recordFor (putObj (dropCached b0 c.key0) f o') (b.who c.func) 0x0203 0 (keyPayload c.key0 o' 0 []), .fin 0 0 [] (objPages f (b0.obj f).nRec)) := by
    simp only [restrictOp, hl, hz, ne_eq, not_true_eq_false, or_self, if_false, hopen, ha, hc, false_or]
    rw [if_neg (by omega), ho]
    rfl
  exact answers_of (i := .keyRestrict r blk) rfl h (changeKey_changes hr hop)

theorem keyInfo_answers (h : Passes s r 0x13 [] c b x) (hopen : openObj b c.key0 true = (b0, .ok f)) :
    Answers (.keyInfo r) s c b0 0 ((b0.obj f).header ++ List.replicate 8 0) [] := by
  have hop : infoOp b c.key0 = (b0, .ok ((b0.obj f).header ++ List.replicate 8 0)) := by simp only [infoOp, hopen]
  exact answers_of (i := .keyInfo r) rfl h hop

theorem keyDestroy_answers (h : Passes s r 0x14 blk c b x) (hl : blk.length = 8) (hh : leAt blk 0 8 = c.key0) (hr : b.role (hDom c.key0) ≠ 2)
    (hopen : openObj b c.key0 false = (b0, .ok f)) {e : State}
    (he : e = recordFor (destroyObj b0 f) (b.who c.func) 0x0204 0 (keyPayload c.key0 (b0.obj f) 0 [])) :
    Answers (.keyDestroy r blk) s c (plxKeyGone e c.key0) 0 [] (changedPages e (b0.obj f).dom f (b0.obj f).nRec) := by
  have hop : destroyOp b (b.who c.func) c.key0 blk = (e, .fin 0 0 [] (changedPages e (b0.obj f).dom f (b0.obj f).nRec)) := by
    simp only [destroyOp, hl, hh, ne_eq, not_true_eq_false, or_self, if_false, hopen, he]
  exact answers_of (i := .keyDestroy r blk) rfl h (changeKey_changes hr hop)

theorem keyGenerate_answers (h : Passes s r 0x10 blk c b x) (hr : b.role (leAt blk 0 2) ≠ 2) {e : State} {out : List Octet} {hold : List Nat}
    (hop : generateOp b (b.who c.func) blk = (e, .fin 0 0 out hold)) : Answers (.keyGenerate r blk) s c (plxKey e (leAt out 0 8)) 0 out hold :=
  answers_of (i := .keyGenerate r blk) rfl h (newKey_makes hr hop)

/-- The object that KEY_GENERATE makes of material drawn in `u`. -/
def generatedKey (blk mat : List Octet) (u : State) : Obj := { templateOf blk with mat := mat }.started u none

/-- The material of a key pair, from its seed. -/
def pairMaterial (blk seed : List Octet) : List Octet :=
  fitOctets (matLen (templateOf blk).binding (templateOf blk).bits) (Config.keyMaterial (templateOf blk).binding (templateOf blk).bits seed)

/-- What KEY_GENERATE's block, domain and mode must allow; then it creates. -/
theorem generateOp_creates {w : Who} (hl : blk.length = 32) (hf : (templateOf blk).flags ≤ 3) (hd : (templateOf blk).dom < 4096) (h9 : leAt blk 9 1 = 0)
    (hE : leAt blk 0xE 2 = 0) (h15 : leAt blk 0x15 11 = 0) (hs : b.domState (templateOf blk).dom = 1) (hv : b.rd Reg.KS_STAT_VAULT = 2)
    (ha : (templateOf blk).admitted = true) (hg : b.drbg.isSome = true)
    (hc : creatable b { templateOf blk with mat := List.replicate (matLen (templateOf blk).binding (templateOf blk).bits) 0 } = 0) : generateOp b w blk =
      let p := drawRandom b (16 * (((templateOf blk).bits + 127) / 128))
      let q := b.freeOctets 64
      if (templateOf blk).binding < 0x20 then
        createFor p.2 w (generatedKey blk (p.1.take (matLen (templateOf blk).binding (templateOf blk).bits)) p.2) 0x0201 0 [] []
      else
        createFor q.2 w (generatedKey blk (pairMaterial blk q.1) q.2) 0x0201 0 [] (Config.publicKey (templateOf blk).binding (pairMaterial blk q.1)) := by
  have hshape : ¬ (blk.length ≠ 32 ∨ (templateOf blk).flags > 3 ∨ (templateOf blk).dom ≥ 4096 ∨ leAt blk 9 1 ≠ 0 ∨ leAt blk 0xE 2 ≠ 0 ∨ leAt blk 0x15 11 ≠ 0) := by omega
  have hopen : ¬ domClosed b (templateOf blk).dom = true := by simp [domClosed, hs]
  have hrng : ¬ ¬ b.rngOk = true := not_not_intro hg
  exact (if_neg hshape).trans ((if_neg hopen).trans ((if_neg (not_not_intro hv)).trans ((if_neg (not_not_intro ha)).trans ((if_neg hrng).trans
    (if_neg (not_not_intro hc))))))

theorem keyDerive_answers (h : Passes s r 0x11 blk c b x) (hr : b.role (hDom c.key0) ≠ 2) {e : State} {out : List Octet} {hold : List Nat}
    (hop : deriveOp b (b.who c.func) c.key0 blk = (e, .fin 0 0 out hold)) : Answers (.keyDerive r blk) s c (plxKey e (leAt out 0 8)) 0 out hold :=
  answers_of (i := .keyDerive r blk) rfl h (newKey_makes hr hop)

/-- The child that KEY_DERIVE makes of an open parent (R247). -/
def childOf (p : Obj) (blk : List Octet) : Obj :=
  ⟨p.cBinding, p.cBits, p.dom, leAt blk 0 1, p.cAttr, if bit p.cAttr aDerive then p.cBinding else 0, p.cAttr, p.cBits, 0, 0, 0, 0, 0, 0,
    deriveMat p (octAt blk 4 (leAt blk 2 2))⟩

theorem deriveOp_arrives {w : Who} {hk : Nat} (hf : leAt blk 0 1 ≤ 3) (h1 : leAt blk 1 1 = 0) (hn : leAt blk 2 2 ≤ 64) (hl : blk.length = 4 + leAt blk 2 2)
    {parent : Nat} (hopen : openObj b hk false = (b0, .ok parent)) (hd : bit (b0.obj parent).attr aDerive = true) (ha : (childOf (b0.obj parent) blk).admitted = true) :
    deriveOp b w hk blk = arriveFor b0 w (childOf (b0.obj parent) blk) 0x0202 0 [] := by
  simp only [deriveOp, hl, hopen]
  rw [if_neg (by omega), if_neg]
  · rfl
  · rintro (h | h)
    · exact h hd
    · exact h ha

end

/-- Settles O34: creation by each of its ways, change, and destruction of keys. -/
theorem keys : Obligations.Keys := by
  refine ⟨fun s r blk c b x => ?_, fun s r blk c b x b0 f => ?_⟩
  · refine ⟨?_, ?_, ?_, ?_⟩
    · exact fun k f hf hq hg => createObj_takes hf hq hg
    · exact fun k hf => createObj_full hf
    · dsimp only
      intro h hl hf hd h9 hE h15 hr hs hv ha hg hc
      have hgen := generateOp_creates (w := b.who c.func) hl hf hd h9 hE h15 hs hv ha hg hc
      refine ⟨?_, ?_⟩
      · intro hb hh d ho
        have hop := (hgen.trans (if_pos hb)).trans (createFor_makes ho)
        rw [List.append_nil] at hop
        exact keyGenerate_answers h hr hop
      · intro hb hh d ho
        exact keyGenerate_answers h hr ((hgen.trans (if_neg (Nat.not_lt.mpr hb))).trans (createFor_makes ho))
    · dsimp only
      intro h hf h1 hn hl hr b0 parent hopen hd ha hc b1 v ht hh d ho
      have hop := (deriveOp_arrives (w := b.who c.func) hf h1 hn hl hopen hd ha).trans (arriveFor_makes hc ht ho)
      exact keyDerive_answers h hr hop
  · refine ⟨?_, ?_, ?_, ?_⟩
    · exact fun h hl hz hr hopen ha hc hlim => keyRestrict_answers h hl hz hr hopen ha hc hlim rfl
    · exact fun h hopen => keyInfo_answers h hopen
    · exact fun h hl hh hr hopen => keyDestroy_answers h hl hh hr hopen rfl
    · exact fun n hn hg => destroyObj_destroys hn hg

end Sys2Proof.Machine
end

section
/-! SUPPORT. Export, import and attestation (O35). -/
namespace Sys2Proof.Machine

section
variable {s b b0 : State} {r : CmdRef} {blk : List Octet} {c : Cmd} {x : Option Ballot} {w : Who} {f : Nat}

/-! ### Export -/

theorem keyExport_answers {d : State} {out : List Octet} (h : Passes s r 0x15 blk c b x) (hop : exportOp b (b.who c.func) blk = (d, .ok out)) :
    Answers (.keyExport r blk) s c d 0 out [] := answers_of (i := .keyExport r blk) rfl h hop

theorem exportOp_transfer (h9 : leAt blk 9 7 = 0) (hopen : openObj b (leAt blk 0 8) false = (b0, .ok f)) (he : bit (b0.obj f).attr aExport = true)
    (hl : 24 ≤ blk.length) (hk : leAt blk 8 1 = 1) (h16 : leAt blk 16 8 = 0) {peer : List Octet × List Octet} (ht : transportOf (blk.drop 24) = some peer)
    (hn : Config.freshNonce (stmtNonce (blk.drop 24)) = true) {p : List Octet × State}
    (hp : p = transferBlob b0 (b0.obj f).dom (stmtSerial (blk.drop 24)) peer (b0.obj f).portable) :
    exportOp b w blk = (recordFor p.2 w 0x0205 0 (keyPayload (leAt blk 0 8) (b0.obj f) 1 (stmtSerial (blk.drop 24))), .ok p.1) := by
  simp only [exportOp, h9, hk, h16]
  rw [if_neg (by omega)]
  simp only [hopen, he, not_true_eq_false, if_false, if_true, ht, hn, hp]

theorem exportOp_wrapped (h9 : leAt blk 9 7 = 0) (hopen : openObj b (leAt blk 0 8) false = (b0, .ok f)) (he : bit (b0.obj f).attr aExport = true)
    (hl : blk.length = 24) (hk : leAt blk 8 1 = 2) {b1 : State} {g : Nat} (hwrap : openObj b0 (leAt blk 16 8) false = (b1, .ok g))
    (hb : (b1.obj g).binding = 8) (ha : bit (b1.obj g).attr aWrap = true) (hd : (b1.obj g).dom = (b0.obj f).dom) :
    exportOp b w blk = (recordFor b1 w 0x0205 0 (keyPayload (leAt blk 0 8) (b0.obj f) 2 []),
      .ok (ownerBlob (b0.obj f).dom (leAt blk 16 8) (b1.obj g).mat (b0.obj f).portable)) := by
  simp only [exportOp, h9, hk]
  rw [if_neg (by omega)]
  simp only [hopen, he, not_true_eq_false, if_false, OfNat.ofNat_ne_one, hwrap, hb, ha, hd, ne_eq, or_self]

/-! ### Import -/

theorem keyImport_answers {d : State} {out : List Octet} {hold : List Nat} (h : Passes s r 0x16 blk c b x) (hr : b.role (leAt blk 0 2) ≠ 2)
    (hop : importOp b (b.who c.func) blk = (d, .fin 0 0 out hold)) : Answers (.keyImport r blk) s c (plxKey d (leAt out 0 8)) 0 out hold :=
  answers_of (i := .keyImport r blk) rfl h (newKey_makes hr hop)

theorem octAt_take (o : List Octet) {m n : Nat} (h : m ≤ n) : octAt o 0 m = (octAt o 0 n).take m := by
  simp only [octAt, List.drop_zero, List.take_take, Nat.min_eq_left h]
  rw [List.take_append, List.take_append]
  simp only [List.take_replicate]
  congr 2
  omega

/-- An import of a signed transfer blob. -/
theorem importOp_transfer (hl : 16 ≤ blk.length) (h2 : leAt blk 2 6 = 0) (hd : leAt blk 0 2 < 4096) (hs : b.domState (leAt blk 0 2) = 1)
    (hv : b.rd Reg.KS_STAT_VAULT = 2) (hm : octAt (blk.drop 16) 0 4 = [0x43, 0x4B, 0x58, 0x46]) (hdom : leAt (blk.drop 16) 6 2 = leAt blk 0 2)
    (hsig : leAt (blk.drop 16) 8 16 ≠ 0) {k : Obj} (ho : (openTransferBlob b (blk.drop 16)).bind (fun p => unpackObj p (leAt blk 0 2)) = some k)
    (ha : k.admitted = true) : importOp b w blk = arriveFor b w k 0x0206 1 (octAt (blk.drop 16) 8 16) := by
  have hopen : ¬ domClosed b (leAt blk 0 2) = true := by simp [domClosed, hs]
  have hun : unsignedTransfer (blk.drop 16) = false := by simp [unsignedTransfer, hsig]
  simp only [importOp]
  rw [if_neg (by omega), if_neg hopen, if_neg (not_not_intro hv), if_pos hm]
  simp only [ho, hun, Bool.false_eq_true, false_and, if_false, hdom, ha, ne_eq, not_true_eq_false, or_self]

/-- An import of a blob under a wrapping key of the owner. -/
theorem importOp_wrapped (hl : 16 ≤ blk.length) (h2 : leAt blk 2 6 = 0) (hd : leAt blk 0 2 < 4096) (hs : b.domState (leAt blk 0 2) = 1)
    (hv : b.rd Reg.KS_STAT_VAULT = 2) (hm : octAt (blk.drop 16) 0 6 = [0x43, 0x4B, 0x4F, 0x57, 1, 0]) (hdom : leAt (blk.drop 16) 6 2 = leAt blk 0 2)
    (hlen : (blk.drop 16).length = 32 + leAt (blk.drop 16) 16 4) {g : Nat} (hopen : openObj b (leAt blk 8 8) false = (b0, .ok g))
    (hb : (b0.obj g).binding = 8) (hu : bit (b0.obj g).attr aUnwrap = true) {u : Obj}
    (ho : (kwpUnwrap (b0.obj g).mat ((blk.drop 16).drop 32)).bind (fun p => unpackObj p (leAt blk 0 2)) = some u) (ha : u.admitted = true) {u' : Obj}
    (hu' : u' = { u with attr := (BitVec.ofNat 16 u.attr &&& BitVec.ofNat 16 (b0.obj g).cAttr).toNat }) (ha' : u'.admitted = true) :
    importOp b w blk = arriveFor b0 w u' 0x0206 2 [] := by
  have hclosed : ¬ domClosed b (leAt blk 0 2) = true := by simp [domClosed, hs]
  have h4 : ¬ octAt (blk.drop 16) 0 4 = [0x43, 0x4B, 0x58, 0x46] := by
    rw [octAt_take (blk.drop 16) (show 4 ≤ 6 by decide), hm]
    decide
  subst hu'
  simp only [importOp]
  rw [if_neg (by omega), if_neg hclosed, if_neg (not_not_intro hv), if_neg h4, if_pos hm]
  simp only [hopen, hb, hu, hdom, hlen, ho, ha, ha', ne_eq, not_true_eq_false, or_self, if_false]

end

/-- Settles O35: the two kinds of export and of import, and attestation. -/
theorem keyTransferAndAttest : Obligations.KeyTransferAndAttest := by
  intro s r blk c b x
  refine ⟨?_, ?_, ?_⟩
  · intro h h9 b0 f hopen
    dsimp only
    intro he
    refine ⟨?_, ?_⟩
    · intro hl hk h16 peer ht hn
      exact keyExport_answers h (exportOp_transfer h9 hopen he hl hk h16 ht hn rfl)
    · intro hl hk b1 g hwrap hb ha hd
      exact keyExport_answers h (exportOp_wrapped h9 hopen he hl hk hwrap hb ha hd)
  · intro h hl h2
    dsimp only
    intro hd hr hs hv
    refine ⟨?_, ?_⟩
    · intro hm hdom hsig k ho ha hc b1 v ht h' d hk
      exact keyImport_answers h hr ((importOp_transfer hl h2 hd hs hv hm hdom hsig ho ha).trans (arriveFor_makes hc ht hk))
    · intro hm hdom hlen b0 g hopen hb hu u ho ha ha' hc b1 v ht h' d hk
      exact keyImport_answers h hr ((importOp_wrapped hl h2 hd hs hv hm hdom hlen hopen hb hu ho ha rfl ha').trans (arriveFor_makes hc ht hk))
  · intro h hl h34 hotp hat
    have hop : attestOp b c blk = ((statement b (octAt blk 0 32) ((List.range (leAt blk 32 2)).map (fun i => leAt blk (36 + 2 * i) 2))).2,
        .ok (statement b (octAt blk 0 32) ((List.range (leAt blk 32 2)).map (fun i => leAt blk (36 + 2 * i) 2))).1) := by
      simp only [attestOp, hl, h34, ne_eq, not_true_eq_false, or_self, if_false, attestFor, hotp, Bool.false_eq_true]
      rw [if_neg]
      rintro ⟨hm, hc⟩
      exact hat.elim hm hc
    exact answers_of (i := .attest r blk) rfl h hop

end Sys2Proof.Machine
end

section
/-! SUPPORT. Ballots and what they are spent for (O36). -/
namespace Sys2Proof.Machine

/-! ### Ballots -/

section
variable {s b : State} {r : CmdRef} {blk : List Octet} {c : Cmd} {x : Option Ballot} {w : Who}

theorem ballotOpenOp_opens (hl : blk.length = 52) (h3 : leAt blk 3 1 = 0) (hd : leAt blk 0 2 < 4096) (ho : leAt blk 2 1 ≠ 0) (hq : quorumOf (leAt blk 2 1) ≠ none)
    (hm : ballotMode b (leAt blk 2 1) = true) {b1 : State} {e opener : Nat} (hf : freeBallot b = (b1, some e)) : ballotOpenOp b w opener blk =
      openBallot b1 w e (leAt blk 2 1) (leAt blk 0 2) opener (ballotTtl b1 (leAt blk 2 1) (leAt blk 0 2)) (blk.drop 4) [] := by
  simp only [ballotOpenOp, hl, h3, hm, hf]
  rw [if_neg (by simp [ho]), if_neg]
  rintro (h | h | h | h)
  · exact h rfl
  · exact h rfl
  · omega
  · exact hq h

theorem commissionBeginOp_opens {opener : Nat} (hc : commissionable b opener = true) {m n mc ttl : Nat} {l : List (List Octet)}
    (hb : commissionBlock blk = some (m, n, mc, ttl, l)) : commissionBeginOp b w opener blk = openBallot b w 0 0 0 opener ttl (sha384 blk) blk := by
  simp only [commissionBeginOp, hc, not_true_eq_false, if_false, hb]

theorem lapse_open {e cause : Nat} (h : (b.ballot e).st = 1 ∨ (b.ballot e).st = 2) : lapse b e cause =
    pfEvent (jrec (b.setBallot e { b.ballot e with st := 4 }) 0x0105 0xE4 (b.ballot e).id (ballotPayload (b.ballot e) 0 cause)) 9 := if_pos h

/-- The signatures of a ballot's block, checked against its signers. -/
theorem ballotSignOp_signer (hl : 8 ≤ blk.length) (h2 : leAt blk 2 2 = 0) (h4 : leAt blk 4 4 = blk.length - 8) (h0 : leAt blk 0 1 < 32)
    (ht : b.tamp.tick < (b.ballot (leAt blk 0 1)).expiry) (hst : (b.ballot (leAt blk 0 1)).st = 1 ∨ (b.ballot (leAt blk 0 1)).st = 2)
    {t : Bool × Nat × List Octet} (hs : (signers b (b.ballot (leAt blk 0 1)) (leAt blk 1 1)).find?
      (fun t => officerSigned t.2.2 (b.ballot (leAt blk 0 1)).stmt (blk.drop 8)) = some t) : ballotSignOp b w blk =
      if bit (if t.1 then (b.ballot (leAt blk 0 1)).dom0 else (b.ballot (leAt blk 0 1)).own) (leAt blk 1 1) then (b, .ok [])
      else (countSignature b w (leAt blk 0 1) (leAt blk 1 1) t.1 t.2.1, .ok []) := by
  have hnow : expireFirst b (leAt blk 0 1) = b := if_neg (Nat.not_le.mpr ht)
  have hne : signers b (b.ballot (leAt blk 0 1)) (leAt blk 1 1) ≠ [] := by
    intro he
    rw [he] at hs
    cases hs
  simp only [ballotSignOp, hnow, hs, h2, h4, List.length_drop]
  rw [if_neg (by omega), if_neg (by omega), if_neg hne]

/-- A counted signature that does not complete the quorum. -/
theorem countSignature_short {e i m : Nat} {second : Bool} {z : Ballot}
    (hz : z = if second then { b.ballot e with dom0 := putOfficer (b.ballot e).dom0 i } else { b.ballot e with own := putOfficer (b.ballot e).own i })
    (h : ¬ (z.st = 1 ∧ tally (if second then z.dom0 else z.own) ≥ m)) :
    countSignature b w e i second m = recordFor (b.setBallot e z) w 0x0102 z.id (ballotPayload z i (1 + b2n second)) := by
  subst hz
  exact if_neg h

/-- The signature that completes the quorum carries the ballot. -/
theorem countSignature_carries {e i m : Nat} {second : Bool} {z : Ballot}
    (hz : z = if second then { b.ballot e with dom0 := putOfficer (b.ballot e).dom0 i } else { b.ballot e with own := putOfficer (b.ballot e).own i })
    (h : z.st = 1 ∧ tally (if second then z.dom0 else z.own) ≥ m) : countSignature b w e i second m =
      pfEvent (recordFor ((recordFor (b.setBallot e z) w 0x0102 z.id (ballotPayload z i (1 + b2n second))).setBallot e { z with st := 2, by0 := b2n second }) w 0x0103 z.id
        (ballotPayload { z with st := 2, by0 := b2n second } 0 (1 + b2n second))) 9 := by
  subst hz
  exact if_pos h

section
variable {t : Bool × Nat × List Octet} {e i : Nat} {z : Ballot} {mine : Nat} (h : Passes s r 0x31 blk c b x)
  (hop : ballotSignOp b (b.who c.func) blk = (countSignature b (b.who c.func) e i t.1 t.2.1, .ok []))
  (hz : z = if t.1 then { b.ballot e with dom0 := putOfficer (b.ballot e).dom0 i } else { b.ballot e with own := putOfficer (b.ballot e).own i })
  (hmine : mine = if t.1 then (b.ballot e).dom0 else (b.ballot e).own)
include h hop hz hmine

omit h hop in
theorem signed_ballot : z.st = (b.ballot e).st ∧ z.id = (b.ballot e).id ∧ (if t.1 then z.dom0 else z.own) = putOfficer mine i := by
  subst hz hmine
  cases t.1 <;> exact ⟨rfl, rfl, rfl⟩

theorem ballotSign_counts (hq : (b.ballot e).st = 2 ∨ tally (putOfficer mine i) < t.2.1) : Answers (.ballotSign r blk) s c
    (recordFor (b.setBallot e z) (b.who c.func) 0x0102 (b.ballot e).id (ballotPayload z i (1 + b2n t.1))) 0 [] [] := by
  obtain ⟨hst, hid, hown⟩ := signed_ballot hz hmine
  have hshort : ¬ (z.st = 1 ∧ tally (if t.1 then z.dom0 else z.own) ≥ t.2.1) := by
    rw [hst, hown]
    omega
  rw [countSignature_short hz hshort, hid] at hop
  exact answers_of (i := .ballotSign r blk) rfl h hop

theorem ballotSign_carries (h1 : (b.ballot e).st = 1) (hq : t.2.1 ≤ tally (putOfficer mine i)) {v : Ballot} (hv : v = { z with st := 2, by0 := b2n t.1 }) :
    Answers (.ballotSign r blk) s c (pfEvent (recordFor ((recordFor (b.setBallot e z) (b.who c.func) 0x0102 (b.ballot e).id
      (ballotPayload z i (1 + b2n t.1))).setBallot e v) (b.who c.func) 0x0103 (b.ballot e).id (ballotPayload v 0 (1 + b2n t.1))) 9) 0 [] [] := by
  obtain ⟨hst, hid, hown⟩ := signed_ballot hz hmine
  have hfull : z.st = 1 ∧ tally (if t.1 then z.dom0 else z.own) ≥ t.2.1 := by
    rw [hst, hown]
    exact ⟨h1, hq⟩
  rw [countSignature_carries hz hfull, ← hv, hid] at hop
  exact answers_of (i := .ballotSign r blk) rfl h hop

end

end

/-! ### Policy changes -/

section
variable {s b : State} {r : CmdRef} {blk trailer : List Octet} {c : Cmd} {x : Option Ballot} {w : Who} {d : Nat}

theorem policyChange_plain {rec : Nat} {f : List Octet → List Octet} (hr : policyRec b d = some rec) (hs : leAt (b.obj rec).mat 0x14 8 + 1 < 2 ^ 64 - 1)
    {new : List Octet} (hn : new = setOctets (f (b.obj rec).mat) 0x14 (leOctets 8 (leAt (b.obj rec).mat 0x14 8 + 1))) :
    (policyChange b w d f).1 = mcAllowedRefresh (plxRecords (recordFor (lapseDomain (putDevice b rec new) d) w 0x0120 d
      (octAt (b.obj rec).mat 2 1 ++ octAt new 2 1 ++ leOctets 8 (leAt (b.obj rec).mat 0x14 8 + 1))) d) := by
  have hmin : min (leAt (b.obj rec).mat 0x14 8 + 1) (2 ^ 64 - 1) = leAt (b.obj rec).mat 0x14 8 + 1 := Nat.min_eq_left (Nat.le_of_lt hs)
  have hlt : ¬ (leAt (b.obj rec).mat 0x14 8 + 1 = 2 ^ 64 - 1 ∧ leAt (b.obj rec).mat 0x14 8 < leAt (b.obj rec).mat 0x14 8 + 1) := fun h => Nat.ne_of_lt hs h.1
  subst hn
  simp only [policyChange, hr, hmin]
  rw [if_neg hlt]

theorem policyChange_fin {f : List Octet → List Octet} (h : (policyRec b d).isSome = true) : ∃ hold, (policyChange b w d f).2 = .fin 0 0 [] hold := by
  obtain ⟨rec, hr⟩ := Option.isSome_iff_exists.mp h
  simp only [policyChange, hr]
  exact ⟨_, rfl⟩

/-- The outcome of an operation that ends in a policy change. -/
def Changes (i : Instr) (s : State) (c : Cmd) (b : State) (w : Who) (d : Nat) (f : List Octet → List Octet) : Prop :=
  ∃ hold, (policyChange b w d f).2 = .fin 0 0 [] hold ∧ Answers i s c (policyChange b w d f).1 0 [] hold

theorem changes_of {i : Instr} {opc : Nat} {op : AdminOp} {b1 : State} {f : List Octet → List Octet} (hrun : exec i s = done (adminRun s r opc blk trailer op))
    (h : Passes s r opc blk c b x) (hp : (policyRec b1 d).isSome = true)
    (ho : op b c (b.who c.func) blk (fitOctets (leAt c.short 0 4) trailer) x = policyChange b1 (b.who c.func) d f) : Changes i s c b1 (b.who c.func) d f := by
  obtain ⟨hold, hf⟩ := policyChange_fin (w := b.who c.func) (f := f) hp
  exact ⟨hold, hf, answers_of hrun h (ho.trans (Prod.ext rfl hf))⟩

theorem domainBlockBad_false (hl : blk.length = 8) (h2 : leAt blk 2 6 = 0) (hd : leAt blk 0 2 < 4096) : domainBlockBad blk = false := by
  simp only [domainBlockBad]
  exact decide_eq_false (by omega)

theorem vault_plxRefresh (s : State) : (plxRefresh s).vault = s.vault := by
  have hfold : ∀ (l : Tab (Nat × Nat)) (s : State),
      (l.foldl (fun s e => (s.wr (Reg.PLX_DOM_ROLE e.1) e.2.1).wr (Reg.PLX_DOM_HOME e.1) e.2.2) s).vault = s.vault := by
    intro l
    induction l with
    | nil => exact fun _ => rfl
    | cons e l ih => exact fun s => (ih _).trans rfl
  exact (hfold _ _).trans rfl

theorem commissionFinish_answers (h : Passes s r 0x34 blk c b x) (hc : commissionable b (openerCode c.func) = true) {m n mc ttl : Nat} {l : List (List Octet)}
    (hb : commissionBlock blk = some (m, n, mc, ttl, l)) : Answers (.commissionFinish r blk) s c (commission b (b.who c.func) m n mc ttl l).1 0 []
      (commission b (b.who c.func) m n mc ttl l).1.vault.dirty := by
  have hop : commissionFinishOp b (b.who c.func) (openerCode c.func) blk = commission b (b.who c.func) m n mc ttl l := by
    simp only [commissionFinishOp, hc, not_true_eq_false, if_false, hb]
  obtain ⟨u, hu⟩ : ∃ u, commission b (b.who c.func) m n mc ttl l = (plxRefresh u, .fin 0 0 [] u.vault.dirty) := ⟨_, rfl⟩
  rw [hu] at hop ⊢
  rw [← vault_plxRefresh u] at hop
  exact answers_of (i := .commissionFinish r blk) rfl h hop

theorem domainCreateOp_creates {y : Ballot} (hl : 16 ≤ blk.length) (h12 : leAt blk 12 4 = 0) (h0 : leAt blk 0 2 ≠ 0) (hd : leAt blk 0 2 < 4096)
    (hs : b.domState (leAt blk 0 2) = 0) (hshape : shapeOk (leAt blk 2 1) (leAt blk 3 1) (leAt blk 4 4) = true) (hq : quotaSum b + leAt blk 8 4 ≤ 15335424)
    {offs sigs : List (List Octet)} (ho : officerEntries (leAt blk 0 2) (leAt blk 3 1) 0 (blk.drop 16) = some offs)
    (hg : trailerSigs (leAt blk 3 1) trailer = some sigs) (hv : ∀ e ∈ offs.zip sigs, officerSigned e.1 y.stmt e.2 = true) {b1 : State}
    (hc : createDevices ((bPolicy, policyMat (leAt blk 0 2) 0 (leAt blk 2 1) (leAt blk 3 1) (leAt blk 8 4) (leAt blk 4 4)) :: offs.map (fun o => (bOfficer, o))) b = (b1, none))
    {t : State} (ht : t = recordFor b1 w 0x0120 (leAt blk 0 2) (leOctets 1 0 ++ leOctets 1 1 ++ leOctets 8 1)) :
    domainCreateOp b w y blk trailer = (t, .fin 0 0 [] t.vault.dirty) := by
  have hall : (offs.zip sigs).all (fun e => officerSigned e.1 y.stmt e.2) = true := List.all_eq_true.mpr hv
  subst ht
  simp only [domainCreateOp]
  rw [if_neg (by omega)]
  simp only [ho, hg]
  rw [if_neg (by simp [h0, hs, hshape, hall]), if_neg (by omega)]
  simp only [hc]

theorem domainDestroyOp_destroys (hl : blk.length = 8) (h2 : leAt blk 2 6 = 0) (h0 : leAt blk 0 2 ≠ 0) (hd : leAt blk 0 2 < 4096) (hn : b.domState (leAt blk 0 2) ≠ 0)
    (h3 : b.domState (leAt blk 0 2) ≠ 3) (hr : b.role (leAt blk 0 2) ≠ 2) (hp : (policyRec (plxUpdate b (leAt blk 0 2) [5]) (leAt blk 0 2)).isSome = true) :
    domainDestroyOp b w blk = ((policyChange (plxUpdate b (leAt blk 0 2) [5]) w (leAt blk 0 2) (fun m => setOctets m 2 [3])).1,
      .fin 0 0 [] [waitDomain (leAt blk 0 2)]) := by
  obtain ⟨hold, hf⟩ := policyChange_fin (w := w) (f := fun m => setOctets m 2 [3]) hp
  simp only [domainDestroyOp, domainBlockBad_false hl h2 hd]
  rw [if_neg (by decide), if_neg (by simp [h0, hn, h3]), if_neg hr]
  generalize policyChange (plxUpdate b (leAt blk 0 2) [5]) w (leAt blk 0 2) (fun m => setOctets m 2 [3]) = p at hf ⊢
  obtain ⟨t, rep⟩ := p
  subst hf
  rfl

theorem domainSuspendOp_changes {y : Ballot} (hl : blk.length = 8) (h2 : leAt blk 2 6 = 0) (h0 : leAt blk 0 2 ≠ 0) (hd : leAt blk 0 2 < 4096)
    (hs : policyStuck b (leAt blk 0 2) = false) (hst : b.domState (leAt blk 0 2) = 1 ∨ b.domState (leAt blk 0 2) = 2) :
    domainSuspendOp b w y blk = policyChange b w (leAt blk 0 2) (fun m => putSuspension m (putBit (leAt m 3 1) y.by0 true)) := by
  simp only [domainSuspendOp, domainBlockBad_false hl h2 hd, hs]
  rw [if_neg (by decide), if_neg]
  simp only [h0, Bool.false_eq_true, or_false, false_or]
  omega

theorem domainResumeOp_changes {y : Ballot} (hl : blk.length = 8) (h2 : leAt blk 2 6 = 0) (h0 : leAt blk 0 2 ≠ 0) (hd : leAt blk 0 2 < 4096)
    (hs : policyStuck b (leAt blk 0 2) = false) (hst : b.domState (leAt blk 0 2) = 2) (hr : b.role (leAt blk 0 2) ≠ 2) :
    domainResumeOp b w y blk = policyChange b w (leAt blk 0 2) (fun m => putSuspension m (putBit (leAt m 3 1) y.by0 false)) := by
  simp only [domainResumeOp, domainBlockBad_false hl h2 hd, hs]
  rw [if_neg (by decide), if_neg (by simp [h0, hst]), if_neg hr]

/-! ### Officers, signers, policies -/

/-- The policy's octets after an officers' change: M, N, the officers' mask and the time of ballots. -/
def officerPolicy (t : State) (d m n ttl : Nat) (p : List Octet) : List Octet :=
  setOctets (setOctets p 4 (leOctets 1 m ++ leOctets 1 n ++ leOctets 2 (officerMask t d))) 0x10 (leOctets 4 ttl)

section
variable {y : Ballot} (hd : leAt blk 0 2 < 4096) (hst : b.domState (leAt blk 0 2) = 1 ∨ b.domState (leAt blk 0 2) = 2)
  (hs : policyStuck b (leAt blk 0 2) = false) (hr : b.role (leAt blk 0 2) ≠ 2) (hi : leAt blk 3 1 < 16) {m ttl n act : Nat} (ha : leAt blk 2 1 = act)
  (hm : m = if act = 4 then leAt blk 4 4 else leAt (b.policy (leAt blk 0 2)) 4 1) (ht : ttl = if act = 5 then leAt blk 4 4 else leAt (b.policy (leAt blk 0 2)) 0x10 4)
include hd hst hs hr hi ha hm ht

theorem officerChangeOp_sets (hact : act = 4 ∨ act = 5) (hl : blk.length = 8) (hn : n = leAt (b.policy (leAt blk 0 2)) 5 1) (hshape : shapeOk m n ttl = true) :
    officerChangeOp b w y blk trailer = policyChange b w (leAt blk 0 2) (officerPolicy b (leAt blk 0 2) m n ttl) := by
  have hkey : decide (act = 1 ∨ act = 3) = false := decide_eq_false (by omega)
  have h12 : b2n (decide (act = 1)) = 0 ∧ b2n (decide (act = 2)) = 0 := by
    rw [decide_eq_false (by omega), decide_eq_false (by omega)]
    exact ⟨rfl, rfl⟩
  simp only [officerChangeOp, ha, hkey, h12.1, h12.2, Nat.add_zero, Nat.sub_zero, ← hm, ← ht, ← hn, hs, hshape]
  rw [if_neg (by simp; omega), if_neg (by simp; omega), if_neg hr, if_neg]
  · rw [if_neg Bool.false_ne_true, if_neg (show ¬ (act = 2 ∨ act = 3) by omega)]
    rfl
  · rintro (h | ⟨h, -⟩ | ⟨h, -⟩ | ⟨h, -⟩ | h)
    · omega
    · omega
    · omega
    · cases h
    · exact h trivial

theorem officerChangeOp_removes (hact : act = 2) (hl : blk.length = 8) (ho : (officerRec b (leAt blk 0 2) (leAt blk 3 1)).isSome = true)
    (hn : n = leAt (b.policy (leAt blk 0 2)) 5 1 - 1) (hshape : shapeOk m n ttl = true) : officerChangeOp b w y blk trailer =
      policyChange (dropOfficer b (leAt blk 0 2) (leAt blk 3 1)) w (leAt blk 0 2)
        (officerPolicy (dropOfficer b (leAt blk 0 2) (leAt blk 3 1)) (leAt blk 0 2) m n ttl) := by
  have hkey : decide (act = 1 ∨ act = 3) = false := decide_eq_false (by omega)
  have h12 : b2n (decide (act = 1)) = 0 ∧ b2n (decide (act = 2)) = 1 := by
    rw [decide_eq_false (by omega), decide_eq_true hact]
    exact ⟨rfl, rfl⟩
  simp only [officerChangeOp, ha, hkey, h12.1, h12.2, Nat.add_zero, ← hm, ← ht, ← hn, hs, hshape, ho]
  rw [if_neg (by simp; omega), if_neg (by simp; omega), if_neg hr, if_neg]
  · rw [if_neg Bool.false_ne_true, if_pos (Or.inl hact)]
    rfl
  · rintro (h | ⟨h, -⟩ | ⟨-, h⟩ | ⟨h, -⟩ | h)
    · omega
    · omega
    · exact h trivial
    · cases h
    · exact h trivial

theorem officerChangeOp_adds (hact : act = 1 ∨ act = 3) (hl : 8 ≤ blk.length) {o g : List Octet} (he : officerEntries (leAt blk 0 2) 1 (leAt blk 3 1) (blk.drop 8) = some [o])
    (hg : trailerSigs 1 trailer = some [g]) (hv : officerSigned o y.stmt g = true) (ho : (officerRec b (leAt blk 0 2) (leAt blk 3 1)).isSome = decide (act = 3))
    (hn : n = leAt (b.policy (leAt blk 0 2)) 5 1 + b2n (decide (act = 1))) (hshape : shapeOk m n ttl = true) {b1 : State}
    (hc : createDevices [(bOfficer, o)] (if act = 3 then dropOfficer b (leAt blk 0 2) (leAt blk 3 1) else b) = (b1, none)) :
    officerChangeOp b w y blk trailer = policyChange b1 w (leAt blk 0 2) (officerPolicy b1 (leAt blk 0 2) m n ttl) := by
  have hkey : decide (act = 1 ∨ act = 3) = true := decide_eq_true hact
  have h2 : b2n (decide (act = 2)) = 0 := by
    rw [decide_eq_false (by omega)]
    rfl
  have hdrop : (if act = 2 ∨ act = 3 then dropOfficer b (leAt blk 0 2) (leAt blk 3 1) else b) = if act = 3 then dropOfficer b (leAt blk 0 2) (leAt blk 3 1) else b := by
    rcases hact with rfl | rfl <;> rfl
  simp only [officerChangeOp, ha, hkey, h2, Nat.sub_zero, ← hm, ← ht, ← hn, hs, hshape, he, hg, hdrop, Option.getD_some, List.map_cons, List.map_nil, hc]
  rw [if_neg (by simp; omega), if_neg (by simp; omega), if_neg hr, if_neg]
  · simp only [if_true, hc]
    rfl
  · rw [ho]
    have hsig : officerSigned (nth [] [o] 0) y.stmt g = true := hv
    simp only [hsig]
    rcases hact with rfl | rfl <;> simp <;> omega

end

theorem figureSignerOp_removes (hl : blk.length = 2722) (h1 : leAt (blk.drop 1) 1 1 = 0) (h6 : leAt (blk.drop 1) 6 26 = 0) (ha : leAt blk 0 1 = 2) {h : Nat}
    (hh : findDevice b bSigner (fun m => decide (leAt m 0 1 = leAt (blk.drop 1) 0 1)) = some h) :
    figureSignerOp b blk = (destroyObj b h, .fin 0 0 [] (destroyObj b h).vault.dirty) := by
  simp only [figureSignerOp, hl, h1, h6, ha, hh]
  rw [if_neg (by decide), if_pos trivial]

theorem figureSignerOp_records (hl : blk.length = 2722) (h1 : leAt (blk.drop 1) 1 1 = 0) (h6 : leAt (blk.drop 1) 6 26 = 0) (ha : leAt blk 0 1 = 1)
    (hi : leAt (blk.drop 1) 0 1 ≤ 15) (hh : findDevice b bSigner (fun m => decide (leAt m 0 1 = leAt (blk.drop 1) 0 1)) = none)
    (hlo : 0x8000 ≤ leAt (blk.drop 1) 2 2) (hhi : leAt (blk.drop 1) 2 2 ≤ leAt (blk.drop 1) 4 2) {b1 : State}
    (hc : createDevices [(bSigner, blk.drop 1)] b = (b1, none)) : figureSignerOp b blk = (b1, .fin 0 0 [] b1.vault.dirty) := by
  simp only [figureSignerOp, hl, h1, h6, ha, hh, hc]
  rw [if_neg (by decide), if_neg (by decide), if_neg]
  simp only [Option.isSome_none, Bool.false_eq_true, false_or]
  omega

theorem devicePolicyOp_keeps (hl : blk.length = 8) (h0 : leAt blk 0 1 ≤ 1) (h2 : leAt blk 2 6 = 0) (hd : b.domState 0 ≠ 0) (hs : policyStuck b 0 = false)
    (hn : leAt blk 1 1 = 0) : devicePolicyOp b w blk =
      policyChange b w 0 (fun m => setOctets m 3 (leOctets 1 (putBit (leAt m 3 1) 2 (decide (leAt blk 0 1 = 1))))) := by
  simp only [devicePolicyOp, hl, h2, hn]
  rw [if_neg (by omega), if_neg (by simp [hd, hs])]
  rfl

theorem devicePolicyOp_burns (hl : blk.length = 8) (h0 : leAt blk 0 1 ≤ 1) (h2 : leAt blk 2 6 = 0) (hd : b.domState 0 ≠ 0) (hs : policyStuck b 0 = false)
    (hn : leAt blk 1 1 = 1) : devicePolicyOp b w blk = policyChange { b with otp := { b.otp with noRecomm := true } } w 0
      (fun m => setOctets m 3 (leOctets 1 (putBit (putBit (leAt m 3 1) 2 (decide (leAt blk 0 1 = 1))) 3 true))) := by
  simp only [devicePolicyOp, hl, h2, hn]
  rw [if_neg (by omega), if_neg (by simp [hd, hs])]
  rfl

theorem replicationOp_ends (hl : blk.length = 16) (ha : leAt blk 2 1 = 2) (h3 : leAt blk 3 1 = 0) (hn : leAt blk 4 2 = 0) (h6 : leAt blk 6 10 = 0)
    (h0 : leAt blk 0 2 ≠ 0) (hd : leAt blk 0 2 < 4096) (hr : b.role (leAt blk 0 2) ≠ 2) {t : State}
    (ht : t = setRole ((plxUpdate b (leAt blk 0 2) [5]).setPlx (fun p => { p with sets := tdel p.sets (leAt blk 0 2) })) (leAt blk 0 2) 0 0) :
    replicationOp b blk = (t, .fin 0 0 [] t.vault.dirty) := by
  subst ht
  simp only [replicationOp, hl, ha, h3, hn, h6]
  rw [if_neg, if_neg (by decide), if_neg (by decide), if_neg hr, if_neg (by decide), if_pos trivial]
  · rfl
  · simp [h0]
    omega

end

/-- Settles O36: ballots from opening to lapse, and every operation that a ballot is spent for. -/
theorem ballotsAndCustody : Obligations.BallotsAndCustody := by
  refine ⟨fun s r blk c b x => ?_, fun s r blk trailer c b x => ?_⟩
  · refine ⟨?_, ?_, ?_, ?_, ?_⟩
    · intro h hl h3 hd ho hq hm b1 e hf
      exact answers_of (i := .ballotOpen r blk) rfl h (ballotOpenOp_opens hl h3 hd ho hq hm hf)
    · intro h hl h2 h4 h0
      dsimp only
      intro ht hst t hs
      have hop := ballotSignOp_signer (w := b.who c.func) hl h2 h4 h0 ht hst hs
      refine ⟨?_, ?_, ?_⟩
      · intro hb
        exact answers_of (i := .ballotSign r blk) rfl h (hop.trans (if_pos hb))
      · intro hb hq
        exact ballotSign_counts h (hop.trans (if_neg (Bool.eq_false_iff.mp hb))) rfl rfl hq
      · intro hb h1 hq
        exact ballotSign_carries h (hop.trans (if_neg (Bool.eq_false_iff.mp hb))) rfl rfl h1 hq rfl
    · intro h h0
      exact answers_of (i := .ballotClose r) rfl h (Prod.ext (if_pos h0) rfl)
    · intro h hc m n mc ttl l hb
      exact answers_of (i := .commissionBegin r blk) rfl h (commissionBeginOp_opens hc hb)
    · intro e
      refine ⟨fun h => lapse_open h, fun h1 h2 => if_neg (not_or.mpr ⟨h1, h2⟩)⟩
  · refine ⟨?_, ?_, ?_, ?_, ?_, ?_, ?_, ?_, ?_, ?_⟩
    · intro rec f hr hs
      exact policyChange_plain hr hs rfl
    · intro h hc m n mc ttl l hb
      exact ⟨commissionFinish_answers h hc hb, by rw [commission_otp], by rw [commission_otp]⟩
    · intro h hl h12 h0 hd hs
      dsimp only
      intro hshape hq offs sigs ho hg hv b1 hc
      exact answers_of (i := .domainCreate r blk trailer) rfl h (domainCreateOp_creates hl h12 h0 hd hs hshape hq ho hg hv hc rfl)
    · intro h hl h2 h0 hd hn h3 hr hp
      exact answers_of (i := .domainDestroy r blk) rfl h (domainDestroyOp_destroys hl h2 h0 hd hn h3 hr hp)
    · intro hp hl h2 h0 hd hs
      refine ⟨?_, ?_⟩
      · intro h hst
        exact changes_of (i := .domainSuspend r blk) rfl h hp (domainSuspendOp_changes hl h2 h0 hd hs hst)
      · intro h hst hr
        exact changes_of (i := .domainResume r blk) rfl h hp (domainResumeOp_changes hl h2 h0 hd hs hst hr)
    · intro h hd hst hs hr
      dsimp only
      intro hi
      refine ⟨?_, ?_, ?_⟩
      · intro hact hl hshape hp
        exact changes_of (i := .officerChange r blk trailer) rfl h hp (officerChangeOp_sets hd hst hs hr hi rfl rfl rfl hact hl rfl hshape)
      · intro hact hl ho hshape hp
        exact changes_of (i := .officerChange r blk trailer) rfl h hp (officerChangeOp_removes hd hst hs hr hi rfl rfl rfl hact hl ho rfl hshape)
      · intro hact o g hl he hg hv ho hshape b1 hc hp
        exact changes_of (i := .officerChange r blk trailer) rfl h hp (officerChangeOp_adds hd hst hs hr hi rfl rfl rfl hact hl he hg hv ho rfl hshape hc)
    · intro h hl h1 h6
      dsimp only
      refine ⟨?_, ?_⟩
      · intro ha n hh
        exact answers_of (i := .figureSigner r blk) rfl h (figureSignerOp_removes hl h1 h6 ha hh)
      · intro ha hi hh hlo hhi b1 hc
        exact answers_of (i := .figureSigner r blk) rfl h (figureSignerOp_records hl h1 h6 ha hi hh hlo hhi hc)
    · intro h hl h0 h2 hd hs hp
      refine ⟨?_, ?_⟩
      · intro hn
        exact changes_of (i := .devicePolicy r blk) rfl h hp (devicePolicyOp_keeps hl h0 h2 hd hs hn)
      · intro hn
        exact changes_of (i := .devicePolicy r blk) rfl h hp (devicePolicyOp_burns hl h0 h2 hd hs hn)
    · intro h hl h1 h0
      have hop : takeoverOp b c blk = (b, .ok []) := if_neg (by simp [hl, h1, h0])
      exact answers_of (i := .leadTakeover r blk) rfl h hop
    · intro h hl ha h3 hn h6 h0 hd hr
      exact answers_of (i := .replication r blk) rfl h (replicationOp_ends hl ha h3 hn h6 h0 hd hr rfl)

end Sys2Proof.Machine
end

section
/-! SUPPORT. Journal, raw entropy, cell window and warm reset commands (O37). -/
namespace Sys2Proof.Machine

/-! ### Raw access -/

theorem cmds_refuse (s : State) (uid st r0 : Nat) : ∀ k ∈ (refuseCmd s uid st r0).cmds, (k ∈ s.cmds ∧ k.uid ≠ uid) ∨ k.ph = CmdPhase.completing := by
  intro k hk
  unfold refuseCmd endCmd at hk
  split at hk
  · next hn =>
    refine .inl ⟨hk, fun hu => ?_⟩
    have hnone := List.find?_eq_none.mp hn k hk
    exact hnone (decide_eq_true hu)
  · rcases List.mem_append.mp hk with hk | hk
    · obtain ⟨hmem, hne⟩ := List.mem_filter.mp hk
      exact .inl ⟨hmem, of_decide_eq_true hne⟩
    · exact .inr (by rw [List.mem_singleton.mp hk])

/-- Of a list of refused commands none is left at work. -/
theorem cmds_foldl_refuse (st r0 : Nat) : ∀ (l : List Cmd) (s : State), ∀ k ∈ (l.foldl (fun s c => refuseCmd s c.uid st r0) s).cmds,
    (k ∈ s.cmds ∧ ∀ c ∈ l, k.uid ≠ c.uid) ∨ k.ph = CmdPhase.completing
  | [], _, _, hk => .inl ⟨hk, fun _ hc => nomatch hc⟩
  | c :: l, s, k, hk => by
    rcases cmds_foldl_refuse st r0 l _ k hk with ⟨hmem, hl⟩ | hp
    · rcases cmds_refuse s c.uid st r0 k hmem with ⟨hs, hne⟩ | hp
      · exact .inl ⟨hs, fun e he => (List.mem_cons.mp he).elim (fun h => h ▸ hne) (hl e)⟩
      · exact .inr hp
    · exact .inr hp

/-- Raw access of source `n` is open in mode `restart`, and no host's RUN is still waiting for random words. -/
structure RawOpened (n : Fin 8) (restart : Bool) (random : Cmd → Bool) (s : State) : Prop where
  source : s.ent.rawSrc = n
  restart : s.ent.rawRestart = restart
  waiting : ∀ k ∈ s.cmds, k.opc = 1 → k.ph = CmdPhase.ingress → random k = false

theorem RawOpened.recorded {n : Fin 8} {restart : Bool} {random : Cmd → Bool} {s t : State} (h : RawOpened n restart random s) (hr : Recorded s t) :
    RawOpened n restart random t where
  source := hr.rawSrc.trans h.source
  restart := hr.rawRestart.trans h.restart
  waiting k hk := h.waiting k (hr.left k hk)

theorem cmds_srcRestart (s : State) (n : Nat) : (srcRestart s n).cmds = s.cmds := by
  unfold srcRestart State.count
  dsimp only
  split <;> rfl

theorem rawGo_opens {s : State} {sc : Nat} {restart : Bool} {n : Fin 8} {count : Nat} (hp : s.on Reg.RNG_STAT_RAW_PERMIT = true) (hm : s.mode = mDiagnostic)
    (hg : s.on Reg.RAW_CTL_GO = false) (hr : s.rd (Reg.SRC_STAT_STATE n) ≠ srcRetired) :
    RawOpened n restart (fun k => hostRandom s k.figure) (rawGo s sc restart n count) := by
  unfold rawGo
  rw [if_neg (not_not_intro hp), if_neg (by simp [hm, hg])]
  dsimp only
  have hstate : (((((s.flag Reg.RAW_CTL_MODE restart).wr Reg.RAW_CTL_SOURCE n).wr Reg.RAW_CTL_COUNT count).flag Reg.RAW_STAT_ABORT false).flag Reg.RAW_STAT_HEALTH false).rd
      (Reg.SRC_STAT_STATE n) = s.rd (Reg.SRC_STAT_STATE n) := by
    rw [State.rd_flag_place, State.rd_flag_place, State.rd_wr_place, State.rd_wr_place, State.rd_flag_place]
    all_goals simp only [Fld.place, Reg.SRC_STAT_STATE, Reg.RAW_CTL_MODE, Reg.RAW_CTL_SOURCE, Reg.RAW_CTL_COUNT, Reg.RAW_STAT_ABORT, Reg.RAW_STAT_HEALTH]; omega
  have hsame : ∀ k : Cmd, hostRandom (((((s.flag Reg.RAW_CTL_MODE restart).wr Reg.RAW_CTL_SOURCE n).wr Reg.RAW_CTL_COUNT count).flag Reg.RAW_STAT_ABORT false).flag
      Reg.RAW_STAT_HEALTH false) k.figure = hostRandom s k.figure := fun _ => rfl
  generalize ((((s.flag Reg.RAW_CTL_MODE restart).wr Reg.RAW_CTL_SOURCE n).wr Reg.RAW_CTL_COUNT count).flag Reg.RAW_STAT_ABORT false).flag Reg.RAW_STAT_HEALTH false = u
    at hstate hsame ⊢
  rw [if_neg (hstate ▸ hr)]
  have hv : ∀ k ∈ ((u.cmds.filter (fun (c : Cmd) => decide (c.opc = 1 ∧ c.ph = CmdPhase.ingress) && hostRandom u c.figure)).foldl
      (fun s c => refuseCmd s c.uid 0x70 0) u).cmds, k.opc = 1 → k.ph = CmdPhase.ingress → hostRandom s k.figure = false := by
    intro k hk h1 hph
    rcases cmds_foldl_refuse 0x70 0 _ u k hk with ⟨hmem, hl⟩ | hc
    · refine Bool.eq_false_iff.mpr fun hrand => hl k (List.mem_filter.mpr ⟨hmem, ?_⟩) rfl
      rw [hsame, hrand, decide_eq_true ⟨h1, hph⟩]
      rfl
    · rw [hc] at hph
      cases hph
  generalize (u.cmds.filter (fun (c : Cmd) => decide (c.opc = 1 ∧ c.ph = CmdPhase.ingress) && hostRandom u c.figure)).foldl
    (fun s c => refuseCmd s c.uid 0x70 0) u = v at hv ⊢
  have hw : ∀ k ∈ (if v.on Reg.RNG_STAT_RAW_OPEN ∧ v.ent.rawSrc ≠ n ∧ v.rd (Reg.SRC_STAT_STATE v.ent.rawSrc) = srcRaw then srcRestart v v.ent.rawSrc else v).cmds,
      k.opc = 1 → k.ph = CmdPhase.ingress → hostRandom s k.figure = false := by
    split
    · rw [cmds_srcRestart]
      exact hv
    · exact hv
  generalize (if v.on Reg.RNG_STAT_RAW_OPEN ∧ v.ent.rawSrc ≠ n ∧ v.rd (Reg.SRC_STAT_STATE v.ent.rawSrc) = srcRaw then srcRestart v v.ent.rawSrc else v) = w at hw ⊢
  have hy : RawOpened n restart (fun k => hostRandom s k.figure) (((((w.wr (Reg.SRC_STAT_STATE n) srcRaw).flag Reg.RNG_STAT_RAW_OPEN true).setEnt (fun e => { e with
    rawSrc := n, rawRestart := restart, run := tdel e.run n })).flag Reg.RAW_CTL_GO true).flag Reg.RAW_STAT_BUSY true) := ⟨rfl, rfl, hw⟩
  split
  · exact hy
  · exact hy.recorded (recorded_jrecG ..)

/-! ### The maintenance window -/

/-- The block of CELL_WINDOW, where nothing of its form is wrong (R389). -/
structure WindowBlock (blk : List Octet) : Prop where
  serial : blk.take 16 = fitOctets 16 Config.deviceSerial
  length : blk.length = 0x20 + 8 * leAt blk 0x12 2
  zeros : leAt blk 0x18 8 = 0
  entries : ∀ i < leAt blk 0x12 2, leAt blk (0x22 + 8 * i) 2 = 0 ∧ (windowEntry blk i).2 < 2 ^ 18

section
variable {b : State} {blk : List Octet} (h : WindowBlock blk)
include h

theorem WindowBlock.any : (List.range (leAt blk 0x12 2)).any (fun i => decide (leAt blk (0x22 + 8 * i) 2 ≠ 0 ∨ (windowEntry blk i).2 ≥ 2 ^ 18)) = false := by
  refine List.any_eq_false.mpr fun i hi => ?_
  obtain ⟨hz, hv⟩ := h.entries i (List.mem_range.mp hi)
  simp only [decide_eq_true_eq, not_or, not_not, not_le]
  exact ⟨hz, hv⟩

theorem cellWindowOp_opens (ha : leAt blk 0x10 1 = 1) (hn : leAt blk 0x12 2 = 0) (hc1 : 1 ≤ leAt blk 0x11 1) (hc3 : leAt blk 0x11 1 ≤ 3) (hd : 60 ≤ leAt blk 0x14 4)
    (hd2 : leAt blk 0x14 4 ≤ 7200) (hm : b.mode = mOperational) (hw : b.on Reg.TAMP_STAT_WINDOW = false) :
    cellWindowOp b blk = (openWindow b (leAt blk 0x11 1) (leAt blk 0x14 4), .ok []) := by
  have hany := h.any
  simp only [cellWindowOp, hany, ha, h.serial, h.length, h.zeros, hm, hw, hn]
  rw [if_neg]
  · simp
  · simp
    omega

theorem cellWindowOp_configures (ha : leAt blk 0x10 1 = 2) (hc : leAt blk 0x11 1 = 0) (hd : leAt blk 0x14 4 = 0) (hn1 : 1 ≤ leAt blk 0x12 2) (hn : leAt blk 0x12 2 ≤ 64)
    (he : ∀ i < leAt blk 0x12 2, isConfigWord (windowEntry blk i).1 = true ∧ configOk (windowEntry blk i).1 (windowEntry blk i).2 = true) {t : State}
    (ht : t = ((List.range (leAt blk 0x12 2)).map (windowEntry blk)).foldl (fun s e => configPut s e.1 e.2) b) :
    cellWindowOp b blk = (ledgerPut t 8 0x30 ((configDigest t).take 16), .ok []) := by
  have hany := h.any
  have hok : ((List.range (leAt blk 0x12 2)).map (windowEntry blk)).any (fun e => !(isConfigWord e.1 && configOk e.1 e.2)) = false := by
    refine List.any_eq_false.mpr fun e hmem => ?_
    obtain ⟨i, hi, rfl⟩ := List.mem_map.mp hmem
    obtain ⟨h1, h2⟩ := he i (List.mem_range.mp hi)
    simp [h1, h2]
  subst ht
  simp only [cellWindowOp, hany, hok, ha, hc, hd, h.serial, h.length, h.zeros]
  rw [if_neg]
  · simp
  · simp
    omega

theorem cellWindowOp_zeroizes (ha : leAt blk 0x10 1 = 3) (hc : leAt blk 0x11 1 = 0) (hd : leAt blk 0x14 4 = 0) (hn : leAt blk 0x12 2 = 0) :
    cellWindowOp b blk = (zeroize b 0x30, .ok []) := by
  have hany := h.any
  simp only [cellWindowOp, hany, ha, hc, hd, h.serial, h.length, h.zeros, hn]
  rw [if_neg]
  · simp
  · simp

end

/-- Settles O37: the journal's commands, raw access, the window's three actions, and WARM_RESET. -/
theorem journalRawAndCells : Obligations.JournalRawAndCells := by
  intro s r blk c b x
  refine ⟨?_, ?_, ?_, ?_, ?_, ?_, ?_, ?_⟩
  · intro h hn hm hs ho
    refine answers_of (i := .journalRead r) rfl h ?_
    simp only [journalReadOp]
    rw [if_neg (by omega), if_neg (by omega), if_neg (by omega)]
  · intro h ha hf
    have hop : journalAckOp b c = (jlevelUpdate (b.setJnl (fun j => { j with acked := leAt c.short 0 8 })), .ok []) := if_neg (by omega)
    exact answers_of (i := .journalAck r) rfl h hop
  · intro h hl h9 ha hf
    dsimp only
    refine ⟨fun h8 => ⟨_, rfl, ?_⟩, fun h8 => ⟨_, rfl, ?_⟩⟩
    · refine answers_of (i := .journalClear r blk) rfl h ?_
      simp only [journalClearOp, hl, h8, h9]
      rw [if_neg (by omega)]
      rfl
    · refine answers_of (i := .journalClear r blk) rfl h ?_
      simp only [journalClearOp, hl, h8, h9, decide_true, Bool.or_true, if_true]
      rw [if_neg (by omega)]
      rfl
  · intro h he
    have hop : rawEntropyOp b blk = (b.flag Reg.RNG_STAT_RAW_PERMIT true, .ok []) := if_neg (not_not_intro he)
    exact answers_of (i := .rawEntropy r blk) rfl h hop
  · intro h
    exact answers_of (i := .rawRead r) rfl h rfl
  · intro sc restart src count
    refine ⟨fun hp => ?_, fun hp hm hg hr => ?_⟩
    · exact congrArg Host.Outcome.next (if_pos (by simp [hp]))
    · obtain ⟨hsrc, hre, hw⟩ := rawGo_opens (sc := sc) (restart := restart) (count := count) hp hm hg hr
      exact ⟨_, rfl, hsrc, hre, hw⟩
  · intro h hser hz
    refine ⟨?_, ?_, ?_⟩
    · intro ha hl hn hc1 hc3 hd hd2 hm hw
      have hb : WindowBlock blk := ⟨hser, by rw [hl, hn], hz, by rw [hn]; exact fun i hi => absurd hi (Nat.not_lt_zero i)⟩
      exact answers_of (i := .cellWindow r blk) rfl h (cellWindowOp_opens hb ha hn hc1 hc3 hd hd2 hm hw)
    · intro ha hc hd hn1 hn hl he
      have hb : WindowBlock blk := ⟨hser, hl, hz, fun i hi => ⟨(he i hi).1, (he i hi).2.1⟩⟩
      exact answers_of (i := .cellWindow r blk) rfl h (cellWindowOp_configures hb ha hc hd hn1 hn (fun i hi => (he i hi).2.2) rfl)
    · intro ha hc hd hn hl
      have hb : WindowBlock blk := ⟨hser, by rw [hl, hn], hz, by rw [hn]; exact fun i hi => absurd hi (Nat.not_lt_zero i)⟩
      exact answers_of (i := .cellWindow r blk) rfl h (cellWindowOp_zeroizes hb ha hc hd hn)
  · intro hc hn ht
    refine ⟨_, rfl, ?_⟩
    have hrun : exec (.warmReset r) s = done (warmResetCmd s r) := rfl
    rw [hrun, warmResetCmd]
    simp only [hc, hn]
    rw [if_neg (by omega)]
    rfl

end Sys2Proof.Machine
end

section
/-! SUPPORT. The vault image, firmware and debug authorisation commands (O38). -/
namespace Sys2Proof.Machine

/-- The checks passed, the command ends with the operation's status, whatever it is. -/
theorem adminRun_ends {s : State} {r : CmdRef} {opc : Nat} {blk trailer : List Octet} {c : Cmd} {b : State} {x : Option Ballot} (h : Passes s r opc blk c b x)
    (op : AdminOp) {d : State} {st r0 : Nat} {out : List Octet} {hold : List Nat}
    (ho : op b c (b.who c.func) blk (fitOctets (leAt c.short 0 4) trailer) x = (d, .fin st r0 out hold)) :
    adminRun s r opc blk trailer op = answerCmd d c s.jnl.seq st r0 out hold := by
  obtain ⟨hfound, hfirst, hwhole, hsteps, hballot⟩ := h
  simp only [adminRun, hfound, fitOctets_self hwhole]
  change adminChecked (taken s c) c blk _ op = _
  simp only [adminChecked, hfirst, if_false, hsteps]
  cases hn : ballotNeed (taken s c) c blk with
  | none =>
    simp only [hn] at hballot
    obtain ⟨rfl, rfl, h43⟩ := hballot
    have hid : ¬ (c.opc = 0x43 ∧ c.ballotId ≠ 0) := fun h => h.2 (h43 h.1)
    simp only [if_neg hid, operate, ho]
    rfl
  | some n =>
    simp only [hn] at hballot
    obtain ⟨y, hy, rfl⟩ := hballot
    simp only [hy, operate, ho]
    rfl

/-! ### The vault image -/

section
variable {s b : State} {r : CmdRef} {blk trailer : List Octet} {c : Cmd} {x : Option Ballot} {w : Who}

/-- A commit's next pages go out, and the table after the last of them where there is room. -/
theorem commitOp_emits {room : Nat} (hv : b.rd Reg.KS_STAT_VAULT = 2) {root vk : List Octet} (hr : b.tamp.root = some root) (hk : b.vault.key = some vk)
    {b1 : State} {k : VCommit} (hb1 : (b.vault.commit.isSome = true ∧ b1 = b) ∨ (b.vault.commit = none ∧ openCommit b = some b1)) (hc : b1.vault.commit = some k)
    {p : List Octet × State} (hp : emitPages vk k.left room b1 = p) {k' : VCommit} (hk' : p.2.vault.commit = some k') : commitOp b room =
      if k'.left = [] ∧ k'.table.isNone ∧ room - p.1.length ≥ tableBlobLen then
        (p.2.setVault (fun v => { v with commit := some { k' with table := some (tableBlob p.2 root vk k'.seq) } }), .ok (p.1 ++ tableBlob p.2 root vk k'.seq))
      else (p.2, .fin 0 (k'.left.length + b2n k'.table.isNone) p.1 []) := by
  have hopen : (if b.vault.commit.isSome then some b else openCommit b) = some b1 := by
    rcases hb1 with ⟨h1, rfl⟩ | ⟨h1, h2⟩
    · rw [if_pos h1]
    · rw [h1, h2]
      rfl
  obtain ⟨o, d⟩ := p
  dsimp only at hk'
  simp only [commitOp, hv, ne_eq, not_true_eq_false, if_false, hr, hk, hopen, hc, hp, hk']

theorem storedOp_stores {pages : List Nat} {t : List Octet} {seq : Nat} (hc : b.vault.commit = some ⟨pages, [], some t, seq⟩) {b1 b2 : State}
    (h1 : b1 = ((putImageRoot b (sha384 t) seq).setVault (fun v => { v with commit := none, seq := seq })).flag Reg.KS_STAT_COMMIT_BUSY false)
    (h2 : b2 = releaseWaits (recordFor ((b1.flag Reg.KS_STAT_DIRTY (decide (b1.vault.dirty ≠ []))).wr Reg.KS_STAT_VAULT 2) w 0x0211 0 (leOctets 8 seq))) :
    storedOp b w = (if b2.on Reg.TAMP_STAT_COMMISSIONED then b2
      else mcAllowedRefresh (setMode (b2.flag Reg.TAMP_STAT_COMMISSIONED true) mOperational 8), .ok []) := by
  subst h2 h1
  simp only [storedOp, hc]

theorem loadOp_table {root : List Octet} (hr : b.tamp.root = some root) (hv : b.rd Reg.KS_STAT_VAULT ≠ 2) (hm : octAt blk 0 4 = [0x43, 0x4B, 0x56, 0x54])
    (hl : blk.length = tableBlobLen) : loadOp b blk = loadTable b root blk := by
  simp only [loadOp, hr, hv, hm, hl, and_self, if_false, if_true]

theorem vaultLoadOp_unready {d : State} {rep : Rep} (hop : loadOp b blk = (d, rep)) (hd : d.rd Reg.KS_STAT_VAULT ≠ 2) : vaultLoadOp b blk = (d, rep) := by
  simp only [vaultLoadOp, hop]
  rw [if_neg fun h => hd h.2]

theorem loadTable_refuses {root : List Octet} (h : sha384 blk ≠ b.imageRoot.1 ∨ leAt blk 8 8 ≠ b.imageRoot.2) : loadTable b root blk =
    (jrec (b.wr Reg.KS_STAT_VAULT 1) 0x0212 0xE3 0xFFFFFFFF (leOctets 1 1), .no 0x50 0) := if_pos h

theorem loadTable_takes {root vk t : List Octet} (hd : sha384 blk = b.imageRoot.1) (hs : leAt blk 8 8 = b.imageRoot.2)
    (hk : kwpUnwrap (vaultKek root) (octAt blk 0x10 40) = some vk)
    (hg : gcmOpen (imageKey vk) (beOctets 4 0xFFFFFFFF ++ beOctets 8 (leAt blk 8 8)) (octAt blk 0 0x40) (octAt blk 0x40 266248) (octAt blk 0x41048 16) = some t)
    {ver : Tab Nat} (hver : ver = ((List.range imagePages).map (fun p => (p, leAt t (8 + 8 * p) 8))).filter (fun e => decide (e.2 ≠ 0))) : loadTable b root blk =
      (vaultCounts (((emptyVault b vk).setVault (fun v => { v with
        ver := ver, seq := leAt blk 8 8, impSeq := leAt t 4 4, impMark := leAt t 4 4, await := ver.map Prod.fst, tableOk := true })).wr Reg.KS_STAT_VAULT 1), .ok []) := by
  have hok : ¬ (sha384 blk ≠ b.imageRoot.1 ∨ leAt blk 8 8 ≠ b.imageRoot.2) := by simp [hd, hs]
  unfold loadTable
  rw [if_neg hok, hk]
  dsimp only
  rw [hg, hver]

theorem rd_vault_vaultCounts (s : State) : (vaultCounts s).rd Reg.KS_STAT_VAULT = s.rd Reg.KS_STAT_VAULT := by
  simp only [vaultCounts, State.wr2]
  rw [State.rd_wr_place _ _ (by decide), State.rd_wr_place _ _ (by decide), State.rd_wr_place _ _ (by decide), State.rd_wr_place _ _ (by decide),
    State.rd_wr_place _ _ (by decide)]

theorem loadOp_page {root vk o : List Octet} (hr : b.tamp.root = some root) (hv : b.rd Reg.KS_STAT_VAULT ≠ 2)
    (hm : octAt blk 0 6 = [0x43, 0x4B, 0x56, 0x50, 1, 0]) (hl : blk.length = pageBlobLen) (ht : b.vault.tableOk = true) (hy : b.on Reg.MEM_STAT_VAULT_READY = true)
    (hp : leAt blk 8 4 < imagePages) (hver : leAt blk 0x10 8 = b.pageVer (leAt blk 8 4)) (hk : b.vault.key = some vk)
    (hg : gcmOpen (imageKey vk) (beOctets 4 (leAt blk 8 4) ++ beOctets 8 (b.pageVer (leAt blk 8 4))) (octAt blk 0 0x20) (octAt blk 0x20 65536)
      (octAt blk 0x10020 16) = some o) {t : State}
    (hload : t = (loadPage b (leAt blk 8 4) o).setVault (fun v => { v with await := v.await.erase (leAt blk 8 4) })) (ha : t.vault.await ≠ []) :
    loadOp b blk = (t, .ok []) := by
  have h4 : ¬ (octAt blk 0 4 = [0x43, 0x4B, 0x56, 0x54] ∧ blk.length = tableBlobLen) := by
    rw [octAt_take blk (show 4 ≤ 6 by decide), hm]
    exact fun h => absurd h.1 (by decide)
  have hok : ¬ (octAt blk 0 6 ≠ [0x43, 0x4B, 0x56, 0x50, 1, 0] ∨ blk.length ≠ pageBlobLen ∨ leAt blk 8 4 ≥ imagePages ∨ leAt blk 0x10 8 ≠ b.pageVer (leAt blk 8 4)) := by
    rintro (h | h | h | h)
    · exact h hm
    · exact h hl
    · exact absurd hp (Nat.not_lt.mpr h)
    · exact h hver
  unfold loadOp
  simp only [hr]
  rw [if_neg hv, if_neg h4, if_neg (not_not_intro ht), if_neg (not_not_intro hy)]
  simp only [hk]
  rw [if_neg hok]
  simp only [hg, ← hload]
  rw [if_neg ha]

theorem vaultResetOp_resets (hs : blk = fitOctets 16 Config.deviceSerial) {t : State} (ht : t = recordFor (mcAllowedRefresh (resetVault b)) w 0x0213 c.ballotId []) :
    vaultResetOp b c w blk = (plxRefresh t, .fin 0 0 [] t.vault.dirty) := by
  subst ht
  exact if_neg (not_not_intro hs)

/-! ### Firmware -/

theorem firmwareStageOp_stages (hl : 16 ≤ blk.length) (h0 : leAt blk 0 1 ≤ 7) (h1 : leAt blk 1 3 = 0) (h12 : leAt blk 12 4 = 0) {t : State}
    (hs : stageBlock b (openerCode c.func) w.m blk = (t, 0, 0)) : firmwareStageOp b c w blk = (t, .fin 0 0 [] []) := by
  simp only [firmwareStageOp]
  rw [if_neg (by omega), hs]
  rfl

theorem mgmt_stageRecord (s : State) (src slot svn : Nat) : (stageRecord s src slot svn).slotImage slot = s.slotImage slot := by
  have hr := (recorded_jrecG s 0x0901 src slot (leOctets 4 svn) false false false).mgmt
  unfold stageRecord jreq
  generalize jrecG s 0x0901 src slot (leOctets 4 svn) false false false = u at hr ⊢
  simp only [hlogAdd, State.slotImage, State.wr_frame, State.setMgmt]
  rw [hr]

theorem slotImage_setSlotImage (s : State) (slot : Nat) (o : List Octet) : (s.setSlotImage slot o).slotImage slot = o := by
  by_cases h : slot = 0
  · simp [State.setSlotImage, State.slotImage, State.setMgmt, h]
  · simp [State.setSlotImage, State.slotImage, State.setMgmt, h]

/-- The first block of an image opens its staging. -/
theorem stageBlock_first {owner src slot : Nat} (hslot : slot = 1 - s.rd Reg.FW_STAT_ACTIVE_SLOT) (hf : leAt blk 0 1 = 1) (ho : leAt blk 4 4 = 0)
    (ht : leAt blk 8 4 ≤ 16777216) (hj : s.journalFull = false) (hb : (bootBlock s).2.2.1 = 0xFF) (hn : s.mgmt.stage = none) :
    ∃ t, stageBlock s owner src blk = (t, 0, 0) ∧ t.mgmt.stage = some ⟨owner, slot, leAt blk 8 4, (blk.drop 16).length⟩ ∧ t.slotImage slot = blk.drop 16 := by
  have hempty : (((stageRecord (s.setSlotImage slot []) src slot 0).setMgmt (fun m => { m with stage := some ⟨owner, slot, leAt blk 8 4, 0⟩ })).flag
      Reg.MGT_STAT_STAGE_BUSY true).slotImage slot = [] := (mgmt_stageRecord (s.setSlotImage slot []) src slot 0).trans (slotImage_setSlotImage s slot [])
  have hbits : bit 1 0 = true ∧ bit 1 1 = false ∧ bit 1 2 = false := by decide
  simp only [stageBlock, hf, ho, hj, hb, hn, hbits.1, hbits.2.1, hbits.2.2, ← hslot]
  rw [if_neg (by decide), if_neg (by simp)]
  have hstage : (((stageRecord (s.setSlotImage slot []) src slot 0).setMgmt (fun m => { m with stage := some ⟨owner, slot, leAt blk 8 4, 0⟩ })).flag
      Reg.MGT_STAT_STAGE_BUSY true).mgmt.stage = some ⟨owner, slot, leAt blk 8 4, 0⟩ := rfl
  generalize ((stageRecord (s.setSlotImage slot []) src slot 0).setMgmt (fun m => { m with stage := some ⟨owner, slot, leAt blk 8 4, 0⟩ })).flag
    Reg.MGT_STAT_STAGE_BUSY true = u at hempty hstage ⊢
  simp only [Option.any_none, Bool.false_eq_true, if_false, if_true, hstage, Nat.not_lt.mpr ht, not_true_eq_false, hempty, List.nil_append]
  exact ⟨_, rfl, rfl, slotImage_setSlotImage u slot _⟩

theorem firmwareActivateOp_activates (hl : blk.length = 72) (hser : blk.take 16 = fitOctets 16 Config.deviceSerial) (h18 : leAt blk 18 2 = 0)
    (hslot : leAt blk 16 1 ≤ 1) (hadv : leAt blk 17 1 ≤ 1) (hn : b.mgmt.stage = none) (hc : imageCode b (b.slotImage (leAt blk 16 1)) = 0)
    (hv : leAt (b.slotImage (leAt blk 16 1)) 8 4 = leAt blk 20 4) (hd : octAt (b.slotImage (leAt blk 16 1)) 0x50 48 = octAt blk 24 48)
    (ha : leAt blk 16 1 ≠ b.rd Reg.FW_STAT_ACTIVE_SLOT) {t : State} (ht : t = putBootBlock (b.wr Reg.FW_STAT_STAGE_CODE 0) (bootBlock b).2.1 (leAt blk 16 1)
      (leAt blk 17 1 + 2 * b2n (bit (bootBlock b).2.2.2 1))) : firmwareActivateOp b w blk =
      (recordFor (measNow t 8 (octAt blk 24 48)) w 0x0901 (leAt blk 16 1) (leOctets 4 (leAt blk 20 4)), .ok []) := by
  subst ht
  simp only [firmwareActivateOp, hl, hser, h18, hn, hc, hv, hd]
  rw [if_neg, if_neg (by simp), if_neg (by simp), if_neg (by simp), if_neg ha]
  simp only [ne_eq, not_true_eq_false, false_or]
  omega

/-! ### Debug -/

theorem debugOp_ends (h1 : leAt blk 1 7 = 0) (ha : leAt blk 0 1 = 2) (hl : blk.length = 8) : debugOp b w blk trailer = (endDebugNow b, .ok []) := by
  simp only [debugOp, h1, ha, hl]
  rw [if_neg (by decide), if_pos trivial]

theorem debugOp_authorises (h1 : leAt blk 1 7 = 0) (ha : leAt blk 0 1 = 1) (hl : blk.length = 7548)
    (hc : certificateOk b (octAt blk 8 2689) (blk.drop 2697) trailer = true) (hv : levelAccepted b (leAt (blk.drop 2697) 6 1) = true)
    (hd : b.on Reg.DBG_STAT_ACTIVE = false) : debugOp b w blk trailer = (renewNonce (openDebug b w (blk.drop 2697)), .ok []) := by
  simp only [debugOp, h1, ha, hl, hc, hv, hd]
  rw [if_neg (by decide), if_neg (by decide), if_neg (by decide), if_neg (by decide), if_neg (by decide), if_neg (by decide)]

end

/-- Settles O38: the vault image out and in, its reset, the firmware slots, and debug sessions. -/
theorem vaultFirmwareAndDebug : Obligations.VaultFirmwareAndDebug := by
  intro s r blk trailer c b x
  refine ⟨?_, ?_, ?_, ?_, ?_, ?_, ?_, ?_⟩
  · intro h hv root vk hr hk b1 k hb1 hc
    dsimp only
    intro k' hk'
    have hop := commitOp_emits (room := c.outLen) hv hr hk hb1 hc rfl hk'
    refine ⟨fun hl ht hroom => ?_, fun hmore => ?_⟩
    · exact answers_of (i := .vaultCommit r) rfl h (hop.trans (if_pos ⟨hl, by rw [ht]; rfl, hroom⟩))
    · refine answers_of (i := .vaultCommit r) rfl h (hop.trans (if_neg ?_))
      rintro ⟨hl, ht, hroom⟩
      rcases hmore with h | h | h
      · exact h hl
      · rw [Option.isNone_iff_eq_none] at ht
        rw [ht] at h
        cases h
      · exact absurd hroom (Nat.not_le.mpr h)
  · intro h pages t seq hc
    dsimp only
    have hop := storedOp_stores (w := b.who c.func) hc rfl rfl
    refine ⟨fun hm => ?_, fun hm => ?_⟩
    · exact answers_of (i := .vaultStored r) rfl h (hop.trans (Prod.ext (if_pos hm) rfl))
    · exact answers_of (i := .vaultStored r) rfl h (hop.trans (Prod.ext (if_neg (Bool.eq_false_iff.mp hm)) rfl))
  · intro h root hr hv
    refine ⟨fun hm hl => ⟨fun hbad t ht ht2 => ?_, fun hd hs vk t hk hg => ?_⟩, fun hm hl hok hy hp hver vk o hk hg => ?_⟩
    · subst ht
      have hop := vaultLoadOp_unready ((loadOp_table hr hv hm hl).trans (loadTable_refuses hbad)) ht2
      exact congrArg Host.Outcome.next (adminRun_ends h (fun s _ _ b _ _ => vaultLoadOp s b) hop)
    · have htake := (loadOp_table hr hv hm hl).trans (loadTable_takes hd hs hk hg rfl)
      refine answers_of (i := .vaultLoad r blk) rfl h (vaultLoadOp_unready htake ?_)
      rw [rd_vault_vaultCounts, State.rd_wr]
      decide
    · dsimp only
      intro ha ht2
      exact answers_of (i := .vaultLoad r blk) rfl h (vaultLoadOp_unready (loadOp_page hr hv hm hl hok hy hp hver hk hg rfl ha) ht2)
  · intro h hs
    exact answers_of (i := .vaultReset r blk) rfl h (vaultResetOp_resets hs rfl)
  · intro h hl h0 h1 h12 t hs
    exact answers_of (i := .firmwareStage r blk) rfl h (firmwareStageOp_stages hl h0 h1 h12 hs)
  · intro owner src slot hslot hf ho ht hj hb hn
    exact stageBlock_first hslot hf ho ht hj hb hn
  · intro h hl hser h18 hslot hadv hn
    dsimp only
    intro hc hv hd ha
    exact answers_of (i := .firmwareActivate r blk) rfl h (firmwareActivateOp_activates hl hser h18 hslot hadv hn hc hv hd ha rfl)
  · intro h h1
    refine ⟨fun ha hl => ?_, fun ha hl hc hv hd => ?_⟩
    · exact answers_of (i := .debugAuthorise r blk trailer) rfl h (debugOp_ends h1 ha hl)
    · exact answers_of (i := .debugAuthorise r blk trailer) rfl h (debugOp_authorises h1 ha hl hc hv hd)

end Sys2Proof.Machine
end


section
/-! SUPPORT. O39: functions, migration, queue marks and figure pins. -/
namespace Sys2Proof.Machine
open Sys2Proof

section Functions
variable {s : State} {w : Who} {f : Nat}

/-- A function that the state holds is what a command may name. -/
theorem vfArg_some {short : List Octet} (hf : leAt short 0 2 < pfA) (hs : s.fnState (leAt short 0 2) ≠ 0) : vfArg s short = some (leAt short 0 2) :=
  if_pos ⟨hf, hs⟩

/-- Where neither shape nor state nor grants refuse it, a configuration is taken. -/
theorem funcConfigOp_configures {create : Bool} {blk : List Octet} {n g : Nat} {cells : List (Nat × Nat)} (hg : g = leAt blk 0 2) (hn : n = leAt blk 0x10 2)
    (hcells : cells = cellClaims n (blk.drop 0xB0)) (hl : blk.length = 0xB0 + 12 * n) (hc : configShape blk = true)
    (hk : claimsOk n (blk.drop 0xB0) = true) (h2050 : g < 2050) (hz : (s.fn g).freezing = false) (hcr : create = true → g < pfA ∧ s.fnState g = 0)
    (hch : create = false → s.fnState g = 1) (hp : portOf s g = 0 ∨ s.rst.split = true) (hgr : grantCause s g blk cells = 0) :
    funcConfigOp s w create blk = (funcRecord (configure s g blk cells create) w g (if create then 1 else 2), .fin 0 0 [] [waitCard]) := by
  subst hg hn hcells
  have hshape : ¬ (blk.length ≠ 0xB0 + 12 * leAt blk 0x10 2 ∨ ¬ configShape blk ∨ ¬ claimsOk (leAt blk 0x10 2) (blk.drop 0xB0)) := by
    rintro (h | h | h)
    · exact h hl
    · exact h hc
    · exact h hk
  have hstate : ¬ (leAt blk 0 2 ≥ 2050 ∨ (create ∧ (leAt blk 0 2 ≥ pfA ∨ s.fnState (leAt blk 0 2) ≠ 0)) ∨ (¬ create ∧ s.fnState (leAt blk 0 2) ≠ 1) ∨
      (s.fn (leAt blk 0 2)).freezing ∨ (portOf s (leAt blk 0 2) = 1 ∧ ¬ s.rst.split)) := by
    rintro (h | ⟨h, h' | h'⟩ | ⟨h, h'⟩ | h | ⟨h, h'⟩)
    · omega
    · exact absurd (hcr h).1 (Nat.not_lt.mpr h')
    · exact h' (hcr h).2
    · exact h' (hch (Bool.eq_false_iff.mpr h))
    · rw [hz] at h
      cases h
    · exact hp.elim (fun h0 => by omega) h'
  exact (if_neg hshape).trans ((if_neg hstate).trans (if_neg (not_not_intro hgr)))

/-- A fold of steps that keep a part of the state keeps it. -/
theorem foldl_keeps {α β : Type} (p : State → β) {g : State → α → State} (h : ∀ s x, p (g s x) = p s) (l : List α) (s : State) : p (l.foldl g s) = p s := by
  induction l generalizing s with
  | nil => rfl
  | cons x l ih => exact (ih _).trans (h s x)

/-- What a claim of no cells leaves: the functions. -/
theorem funcs_claimCells (s : State) (f : Nat) : (claimCells s f []).funcs = s.funcs := by
  refine (congrArg (fun t : State => t.funcs) rfl).trans (foldl_keeps State.funcs (fun s e => foldl_keeps State.funcs (fun s p => ?_) _ s) (s.fn f).cells s)
  dsimp only
  split
  · split <;> rfl
  · rfl

theorem funcs_serveReseed (s : State) : (serveReseed s).funcs = s.funcs := by
  unfold serveReseed
  split
  · split
    · rfl
    · simp only [State.wr_frame, State.flag_frame, State.wr2_frame, apply_ite State.funcs, ite_self, State.setEnt]
  · rfl

theorem funcs_drawRandom (s : State) (n : Nat) : (drawRandom s n).2.funcs = s.funcs := by
  unfold drawRandom
  dsimp only
  split
  · split
    · exact funcs_serveReseed s
    · exact funcs_serveReseed s
  · exact funcs_serveReseed s

theorem State.fn_setFn (s : State) (f : Nat) (x : FuncSt) : (s.setFn f x).fn f = x := (tget_tset ..).trans (if_pos rfl)

theorem State.fn_setFn_ne (s : State) {f g : Nat} (x : FuncSt) (h : g ≠ f) : (s.setFn f x).fn g = s.fn g := (tget_tset ..).trans (if_neg h)

/-- A configuration is one change of its function's entry, in the state that the claims and the drawn key leave. -/
theorem configure_eq (s : State) (f : Nat) (cfg : List Octet) (cells : List (Nat × Nat)) (create : Bool) {t : State} {p : List Octet × State}
    (ht : putGrants (claimCells s f cells) f cfg = t) (hp : (if create then drawRandom t 32 else ((t.fn f).ctxKey, t)) = p) :
    configure s f cfg cells create = p.2.setFn f { p.2.fn f with
      st := if f < pfA then 1 else (p.2.fn f).st, cfg := fitOctets 0xB0 cfg, cells := cells, ctxKey := p.1 } := by
  subst ht hp
  rfl

/-- A configuration without cells makes its function active with the block's grants, and no other function changes. -/
theorem configure_noCells (s : State) {f : Nat} (cfg : List Octet) (create : Bool) (hf : f < pfA) :
    ((configure s f cfg [] create).fn f).st = 1 ∧ ((configure s f cfg [] create).fn f).cfg = fitOctets 0xB0 cfg ∧
      ((configure s f cfg [] create).fn f).cells = [] ∧ ∀ g, g ≠ f → (configure s f cfg [] create).fn g = s.fn g := by
  have hput : (putGrants (claimCells s f []) f cfg).funcs = s.funcs := by
    simp only [putGrants, State.wr_frame, funcs_claimCells]
  generalize ht : putGrants (claimCells s f []) f cfg = t at hput
  have hdraw : (if create then drawRandom t 32 else ((t.fn f).ctxKey, t)).2.funcs = s.funcs := by
    cases create with
    | true => exact (funcs_drawRandom t 32).trans hput
    | false => exact hput
  generalize hp : (if create then drawRandom t 32 else ((t.fn f).ctxKey, t)) = p at hdraw
  rw [configure_eq s f cfg [] create ht hp, State.fn_setFn]
  exact ⟨if_pos hf, rfl, rfl, fun g hg => (State.fn_setFn_ne _ _ hg).trans (congrArg (tget FuncSt.absent · g) hdraw)⟩

/-- The end of VF_DESTROY leaves no function and no FROZEN mark, in whatever state the claims left. -/
theorem destroyed_spec (t : State) {f : Nat} (hf : f < pfA) {d : State}
    (hd : (((t.flag (Reg.FUNC_STAT_FROZEN f) false).flag (Reg.FUNC_STAT_SAVED f) false).flag (Reg.ADM_STAT_FROZEN f) false).setFn f FuncSt.absent = d) :
    d.fn f = FuncSt.absent ∧ d.on (Reg.FUNC_STAT_FROZEN f) = false := by
  subst hd
  refine ⟨State.fn_setFn .., ?_⟩
  have hlt : f < 2048 := hf
  have hadm : (Reg.FUNC_STAT_FROZEN f).place ≠ (Reg.ADM_STAT_FROZEN f).place := by
    simp only [Fld.place, Reg.FUNC_STAT_FROZEN, Reg.ADM_STAT_FROZEN]
    omega
  have hsaved : (Reg.FUNC_STAT_FROZEN f).place ≠ (Reg.FUNC_STAT_SAVED f).place := by
    simp only [Fld.place, Reg.FUNC_STAT_FROZEN, Reg.FUNC_STAT_SAVED]
    omega
  have hoff : (((t.flag (Reg.FUNC_STAT_FROZEN f) false).flag (Reg.FUNC_STAT_SAVED f) false).flag (Reg.ADM_STAT_FROZEN f) false).on
      (Reg.FUNC_STAT_FROZEN f) = false :=
    (State.on_flag_place _ _ hadm).trans ((State.on_flag_place _ _ hsaved).trans (State.on_flag _ Nat.one_ne_zero _))
  exact hoff

/-- VF_DESTROY of a function that is there leaves none. -/
theorem vfDestroyOp_destroys {short : List Octet} {f : Nat} (hf : f = leAt short 0 2) (hlt : f < pfA) (hs : s.fnState f ≠ 0) :
    ∃ t, vfDestroyOp s w short = (t, .fin 0 0 [] [waitCard]) ∧ t.fn f = FuncSt.absent ∧ t.on (Reg.FUNC_STAT_FROZEN f) = false := by
  subst hf
  unfold vfDestroyOp
  rw [vfArg_some hlt hs]
  dsimp only
  generalize putGrants _ _ _ = t
  exact ⟨_, rfl, destroyed_spec t hlt rfl⟩

theorem vfFreezeOp_freezes {short : List Octet} {f : Nat} (hf : f = leAt short 0 2) (hlt : f < pfA) (hs : s.fnState f = 1)
    (hz : (s.fn f).freezing = false) : vfFreezeOp s w short = (freezeFn (funcRecord s w f 4) f, .ok []) := by
  subst hf
  unfold vfFreezeOp
  rw [vfArg_some hlt (by rw [hs]; decide)]
  refine if_neg ?_
  rw [hs, hz]
  decide

theorem vfThawOp_thaws {short : List Octet} {f : Nat} (hf : f = leAt short 0 2) (hlt : f < pfA) (hs : s.fnState f = 2) :
    vfThawOp s w short = (thawFn (funcRecord s w f 5) f, .ok []) := by
  subst hf
  unfold vfThawOp
  rw [vfArg_some hlt (by rw [hs]; decide)]
  exact if_neg (not_not_intro hs)

/-- A thawed function is ACTIVE. -/
theorem fn_thawFn (s : State) (f : Nat) : (thawFn s f).fn f = { s.fn f with st := 1, freezing := false } := by
  have hev : ∀ t : State, (fnEvent t f 1).funcs = t.funcs := fun t => (recorded_fnEvent t f 1).funcs
  have h : (thawFn s f).funcs = (s.setFn f { s.fn f with st := 1, freezing := false }).funcs := by
    unfold thawFn
    dsimp only
    split
    · rw [hev]
      rfl
    · rfl
  exact (congrArg (tget FuncSt.absent · f) h).trans (State.fn_setFn ..)

/-- VF_SAVE of a frozen function answers its blob and marks it SAVED. -/
theorem vfSaveOp_saves {short blk : List Octet} {f : Nat} {peer : List Octet × List Octet} {p : List Octet × State} {t : State} (hf : f = leAt short 0 2)
    (hlt : f < pfA) (hs : s.fnState f = 2) (ht : transportOf blk = some peer) (hp : migrationBlob s f blk peer = p)
    (hu : p.2.setFn f { p.2.fn f with st := 3, ctx := [], ctxKey := [], streams := [], seq := 0, held := [] } = t) :
    vfSaveOp s w short blk = (funcRecord ({ t with cmds := t.cmds.filter (fun k => !decide (k.func = f ∧ k.ph = CmdPhase.queued)) }.flag
      (Reg.FUNC_STAT_SAVED f) true) w f 6, .ok p.1) := by
  subst hf hu hp
  unfold vfSaveOp
  rw [vfArg_some hlt (by rw [hs]; decide)]
  dsimp only
  rw [if_neg (not_not_intro hs), ht]

/-- MIGRATION_FREEZE freezes each ACTIVE function. -/
theorem migrationFreezeOp_freezes {blk : List Octet} {t : State} (hb : blk = fitOctets 16 Config.deviceSerial) (hm : s.mode = mOperational)
    (ht : setMode s mMigrationFreeze 13 = t) :
    migrationFreezeOp s w blk = (returnCmds (t.vfs.foldl (fun s f => if s.fnState f = 1 ∧ ¬ (s.fn f).freezing then freezeFn (funcRecord s w f 4) f else s) t)
      (fun k => decide (pfA ≤ k.func ∧ k.opc = 1)), .ok []) := by
  subst ht
  exact (if_neg (not_not_intro hb)).trans (if_neg (not_not_intro hm))

/-- MIGRATION_THAW thaws each function that is frozen or freezes. -/
theorem migrationThawOp_thaws {t : State} (hm : s.mode = mMigrationFreeze) (ht : setMode s mOperational 14 = t) :
    migrationThawOp s w = (t.vfs.foldl (fun s f => if s.fnState f = 2 ∨ (s.fn f).freezing then thawFn (funcRecord s w f 5) f else s) t, .ok []) := by
  subst ht
  exact if_neg (not_not_intro hm)

/-- MIG_TICKET answers a fresh ticket and the statement over it. -/
theorem migTicketOp_answers {f : Nat} {p y : List Octet × State} (hl : s.tickets.length < 8) (hp : drawRandom s 32 = p) (ho : p.2.rst.otpBad = false)
    (ha : p.2.mode = mFault ∨ canAttest p.2 (pfOf (portOf s f)) = true) (hy : statement p.2 p.1 [] = y) :
    migTicketOp s f = ({ y.2 with tickets := y.2.tickets ++ [p.1] }, .fin 0 0 (p.1 ++ y.1) []) := by
  have hatt : attestFor p.2 (portOf s f) p.1 [] = (y.2, .fin 0 0 y.1 []) := by
    subst hy
    refine (if_neg (by rw [ho]; decide)).trans (if_neg ?_)
    rintro ⟨hm, hc⟩
    exact ha.elim hm hc
  unfold migTicketOp
  rw [if_neg (Nat.not_le.mpr hl), hp]
  dsimp only
  rw [hatt] <;> rfl

/-- VF_RESTORE of a migration image that opens, where nothing forbids the function. -/
theorem vfRestoreOp_restores {blk claims m o cfg : List Octet} {g n : Nat} {t : State} (hg : g = leAt blk 0 2) (hn : n = leAt blk 2 2)
    (hclaims : claims = octAt blk 8 (12 * n)) (hm : m = blk.drop (8 + 12 * n)) (hl : blk.length = 8 + 12 * n + leAt blk 4 4) (h2048 : n ≤ 2048)
    (hk : claimsOk n claims = true) (hopen : openMigration s m = some o)
    (hcfg : cfg = setOctets (setOctets (octAt o 0x20 0xB0) 0 (leOctets 2 g)) 0x10 (leOctets 2 n)) (hlt : g < pfA) (hs : s.fnState g = 0)
    (hp : portOf s g = 0 ∨ s.rst.split = true) (hgr : grantCause s g cfg (cellClaims n claims) = 0)
    (ht : configure { s with tickets := s.tickets.filter (fun t => decide (t ≠ octAt m 0x28 32)) } g cfg (cellClaims n claims) false = t) :
    vfRestoreOp s w blk = (funcRecord (restoreFn t g (leAt m 6 2) o) w g 7, .fin 0 0 [] [waitCard]) := by
  subst ht hcfg hm hclaims hn hg
  have hshape : ¬ (blk.length ≠ 8 + 12 * leAt blk 2 2 + leAt blk 4 4 ∨ leAt blk 2 2 > 2048 ∨ ¬ claimsOk (leAt blk 2 2) (octAt blk 8 (12 * leAt blk 2 2))) := by
    rintro (h | h | h)
    · exact h hl
    · omega
    · exact h hk
  have hstate : ¬ (leAt blk 0 2 ≥ pfA ∨ s.fnState (leAt blk 0 2) ≠ 0 ∨ (portOf s (leAt blk 0 2) = 1 ∧ ¬ s.rst.split)) := by
    rintro (h | h | ⟨h, h'⟩)
    · exact absurd hlt (Nat.not_lt.mpr h)
    · exact h hs
    · exact hp.elim (fun h0 => by omega) h'
  unfold vfRestoreOp
  rw [if_neg hshape, hopen]
  exact (if_neg hstate).trans (if_neg (not_not_intro hgr))

/-- QUEUE_MARK with mark 1 where the function may stream and a mark is free, and with mark 0. -/
theorem queueMarkOp_marks {short : List Octet} {f q m : Nat} (hf : f = leAt short 0 2) (hq : q = leAt short 2 2) (hm : m = leAt short 4 1) (hm1 : m ≤ 1)
    (hlt : f < 2050) (hs : s.fnState f ≠ 0) (hqn : q < s.rd (Reg.FUNC_CAP_QUEUES f))
    (hfree : m = 1 → s.on (Reg.FUNC_CAP_STREAM_PERMIT f) = true ∧ marked s < 64) :
    queueMarkOp s w short = (recordFor (s.flag (Reg.Q_CTL_STREAM (qx f q)) (decide (m = 1))) w 0x0306 q (leOctets 2 f ++ leOctets 1 m), .ok []) := by
  subst hf hq hm
  have hthere : ¬ (leAt short 0 2 ≥ 2050 ∨ s.fnState (leAt short 0 2) = 0 ∨ leAt short 2 2 ≥ s.rd (Reg.FUNC_CAP_QUEUES (leAt short 0 2))) := by
    rintro (h | h | h)
    · omega
    · exact hs h
    · omega
  have hpermit : ¬ (leAt short 4 1 = 1 ∧ ¬ s.on (Reg.Q_CTL_STREAM (qx (leAt short 0 2) (leAt short 2 2))) ∧
      ¬ s.on (Reg.FUNC_CAP_STREAM_PERMIT (leAt short 0 2))) := fun h => h.2.2 (hfree h.1).1
  have hroom : ¬ (leAt short 4 1 = 1 ∧ ¬ s.on (Reg.Q_CTL_STREAM (qx (leAt short 0 2) (leAt short 2 2))) ∧ marked s ≥ 64) :=
    fun h => absurd (hfree h.1).2 (Nat.not_lt.mpr h.2.2)
  exact (if_neg (Nat.not_lt.mpr hm1)).trans ((if_neg hthere).trans ((if_neg hpermit).trans (if_neg hroom)))

/-- PORT_VF_ALLOC before any virtual function is there or enabled. -/
theorem portVfAllocOp_allots {short : List Octet} {v : Nat} (hv : v = leAt short 0 2) (ha : s.portA.vfEnable = false) (hb : s.portB.vfEnable = false)
    (hvf : s.vfs = []) (hn : v = 2048 ∨ (v ≤ 2048 ∧ s.rst.split = true)) :
    portVfAllocOp s short = ((s.wr (Reg.PORT_VF_A_VFS 0) v).wr (Reg.PORT_VF_A_VFS 1) v, .ok []) := by
  subst hv
  have hfree : ¬ (s.portA.vfEnable ∨ s.portB.vfEnable ∨ s.vfs ≠ [] ∨ (¬ s.rst.split ∧ leAt short 0 2 ≠ 2048)) := by
    rintro (h | h | h | ⟨h, h'⟩)
    · exact Bool.eq_false_iff.mp ha h
    · exact Bool.eq_false_iff.mp hb h
    · exact h hvf
    · exact hn.elim h' fun hn => h hn.2
  exact (if_neg (by omega : ¬ leAt short 0 2 > 2048)).trans (if_neg hfree)

/-- The four ends of FIGURE_PIN with a set and an image: its own code, no room, a set that holds the image already, and a load. -/
theorem figurePinOp_ends {blk : List Octet} {o : List Octet} {h : FigHdr} {dest : List Nat} (ho : o = blk.drop 8) (hh : h = figHeader o)
    (hdest : dest = (seqSet (leAt blk 0 8)).filter (fun q => !holdsImage s h q)) (hl : 8 ≤ blk.length) (hset : leAt blk 0 8 ≠ 0) :
    figurePinOp s w blk = (if figureCode s o ≠ 0 then
        (recordFor s w 0x0302 (figureCode s o) (leOctets 2 h.fid ++ leOctets 4 h.version), .fin 0 (figureCode s o) [] [])
      else match reserveRoom h.fid h.steps dest s with
      | none => (recordFor s w 0x0302 0x17 (leOctets 2 h.fid ++ leOctets 4 h.version), .fin 0 0x17 [] [])
      | some s =>
        let s := figureRecord (measNow s (if h.fid < 0x8000 then 4 else 5) h.digest) w h (leAt blk 0 8)
        if dest = [] then (s, .ok [])
        else
          let new := if (s.figHdr h.fid).map FigHdr.digest = some h.digest then [] else [h]
          ({ s with floor := { s.floor with figs := s.floor.figs ++ new, loads := s.floor.loads ++ [(h.fid, dest, figSteps o)] } },
            .fin 0 0 [] [waitFigure h.fid])) := by
  subst hdest hh ho
  refine if_neg ?_
  rintro (h | h)
  · omega
  · exact hset h

/-- FIGURE_UNPIN asks for the end of the pins of the sequencers it names. -/
theorem figureUnpinOp_unpins {short : List Octet} {t : State}
    (ht : { s with floor := { s.floor with unpin := s.floor.unpin ++ (seqSet (leAt short 2 8)).map (fun q => 65536 * q + leAt short 0 2) } } = t) :
    figureUnpinOp s w short = ((t.figHdr (leAt short 0 2)).elim t (fun h => figureRecord t w h (leAt short 2 8)), .ok []) := by
  subst ht
  rfl

end Functions

/-- Settles O39: functions, their migration, queue marks and figure pins. -/
theorem functionsAndFigures : Obligations.FunctionsAndFigures := by
  intro s r blk c b x
  dsimp only
  refine ⟨?_, fun create hg => configure_noCells b blk create hg, fun hf => ⟨fun h hs => ?_, fun h hs hz => ?_, fun h hs => ?_, fun h hs peer hp => ?_⟩,
    ?_, ?_, ?_, ?_, ?_, ?_, ?_, ?_, fun i => rfl⟩
  · intro create h hl hc hk h2050 hz hcr hch hp hgr
    cases create with
    | true => exact answers_of (i := .funcCreate r blk) rfl h (funcConfigOp_configures rfl rfl rfl hl hc hk h2050 hz hcr hch hp hgr)
    | false => exact answers_of (i := .funcChange r blk) rfl h (funcConfigOp_configures rfl rfl rfl hl hc hk h2050 hz hcr hch hp hgr)
  · obtain ⟨t, hop, ht⟩ := vfDestroyOp_destroys (w := b.who c.func) rfl hf hs
    exact ⟨t, answers_of (i := .vfDestroy r) rfl h hop, ht⟩
  · exact answers_of (i := .vfFreeze r) rfl h (vfFreezeOp_freezes rfl hf hs hz)
  · refine ⟨answers_of (i := .vfThaw r) rfl h (vfThawOp_thaws rfl hf hs), ?_⟩
    rw [fn_thawFn]
    exact ⟨rfl, rfl⟩
  · exact answers_of (i := .vfSave r blk) rfl h (vfSaveOp_saves rfl hf hs hp rfl rfl)
  · intro h hb hm
    exact answers_of (i := .migrationFreeze r blk) rfl h (migrationFreezeOp_freezes hb hm rfl)
  · intro h hm
    exact answers_of (i := .migrationThaw r) rfl h (migrationThawOp_thaws hm rfl)
  · intro h hl ho ha
    exact answers_of (i := .migTicket r) rfl h (migTicketOp_answers hl rfl ho ha rfl)
  · intro h hl h2048 hk o hopen hlt hs hp hgr
    exact answers_of (i := .vfRestore r blk) rfl h (vfRestoreOp_restores rfl rfl rfl rfl hl h2048 hk hopen rfl hlt hs hp hgr rfl)
  · intro h hlt hs hq
    refine ⟨fun h1 hp hr => ?_, fun h0 => ?_⟩
    · have hop := queueMarkOp_marks (w := b.who c.func) rfl rfl h1.symm (Nat.le_refl 1) hlt hs hq fun _ => ⟨hp, hr⟩
      exact answers_of (i := .queueMark r) rfl h hop
    · have hop := queueMarkOp_marks (w := b.who c.func) rfl rfl h0.symm (Nat.zero_le 1) hlt hs hq fun h => absurd h (by decide)
      exact answers_of (i := .queueMark r) rfl h hop
  · intro h ha hb hvf hn
    exact answers_of (i := .portVfAlloc r) rfl h (portVfAllocOp_allots rfl ha hb hvf hn)
  · intro h hl hset
    have hop := figurePinOp_ends (s := b) (w := b.who c.func) rfl rfl rfl hl hset
    refine ⟨fun hc => ?_, fun hc hroom => ?_, fun hc hd => ?_, fun hc hd b1 hroom => ?_⟩
    · exact answers_of (i := .figurePin r blk) rfl h (hop.trans (if_pos hc))
    · rw [if_neg (not_not_intro hc), hroom] at hop
      exact answers_of (i := .figurePin r blk) rfl h hop
    · rw [if_neg (not_not_intro hc), hd] at hop
      exact answers_of (i := .figurePin r blk) rfl h hop
    · rw [if_neg (not_not_intro hc), hroom] at hop
      exact answers_of (i := .figurePin r blk) rfl h (hop.trans (if_neg hd))
  · intro h
    have hop := figureUnpinOp_unpins (s := b) (w := b.who c.func) (short := c.short) rfl
    refine ⟨fun hn => ?_, fun g hn => ?_⟩
    · rw [hn] at hop
      exact answers_of (i := .figureUnpin r) rfl h hop
    · rw [hn] at hop
      exact answers_of (i := .figureUnpin r) rfl h hop

end Sys2Proof.Machine
end


section
/-! SUPPORT. O40: noise sources and the DRBG. -/
namespace Sys2Proof.Machine
open Sys2Proof

/-- A change of the entropy sources' state is what it makes of the present one. -/
theorem State.setEnt_congr {s : State} {f g : EntropySt → EntropySt} (h : f s.ent = g s.ent) : s.setEnt f = s.setEnt g := by
  unfold State.setEnt
  rw [h]

theorem State.on_wr_place (s : State) {f g : Fld} (v : Nat) (h : f.place ≠ g.place) : (s.wr g v).on f = s.on f := by
  rw [State.on, State.rd_wr_place s v h, State.on]

theorem State.rd_count_place (s : State) {f c o : Fld} (hc : f.place ≠ c.place) (ho : f.place ≠ o.place) : (s.count c o).rd f = s.rd f := by
  unfold State.count
  dsimp only
  split
  · exact State.rd_wr_place _ _ hc
  · exact (State.rd_wr_place _ _ ho).trans (State.rd_wr_place _ _ hc)

section Sources
variable {s : State} {n : Nat} {o : List Octet}

/-- A running source's block: what passes both tests is accepted, what does not is counted. -/
theorem blockComplete_of {r : (Bool × Nat) × Bool} {a : Bool} (hs : s.rd (Reg.SRC_STAT_STATE n) = srcRunning)
    (hr : rctRun (tget (false, 0) s.ent.run n) (samplesMsb (fitOctets 256 o)) = r) (ha : aptFails (samplesMsb (fitOctets 256 o)) = a) :
    blockComplete s n o = if r.2 ∨ a then srcFail s n r.2 a else (s.wr (Reg.SRC_STAT_CONSEC n) 0).setEnt (fun e => { e with
      run := tset (false, 0) e.run n r.1, acc := if e.fifo.length ≥ 16 then e.acc else e.acc ++ [(n, fitOctets 256 o)] }) := by
  subst hr ha
  exact if_neg (not_not_intro hs)

/-- The end of a source's start-up test. -/
theorem startupEnd_of {r : (Bool × Nat) × Bool} {a : Bool} (hs : s.rd (Reg.SRC_STAT_STATE n) = srcStartUp)
    (hr : rctRun (false, 0) (samplesMsb (fitOctets 512 o)) = r) (ha : aptFails (samplesMsb (fitOctets 512 o)) = a) :
    startupEnd s n o = if r.2 ∨ a then srcFail s n r.2 a else s.wr (Reg.SRC_STAT_STATE n) srcRunning := by
  subst hr ha
  exact if_neg (not_not_intro hs)

/-- A source retires: no capture of it is ended where none runs. -/
theorem srcRetire_retires (hs : s.rd (Reg.SRC_STAT_STATE n) ≠ srcRetired) (hb : s.on Reg.RAW_STAT_BUSY = false) (hn : n < 8) :
    srcRetire s n = evalHealthy (latchEntropy (entRecord ((s.wr (Reg.SRC_STAT_STATE n) srcRetired).flag (Reg.SRC_CTL_RETIRE n) true) n 1 0 true)) := by
  have hstate : Reg.RAW_STAT_BUSY.place ≠ (Reg.SRC_STAT_STATE n).place := by
    simp only [Fld.place, Reg.RAW_STAT_BUSY, Reg.SRC_STAT_STATE]
    omega
  have hctl : Reg.RAW_STAT_BUSY.place ≠ (Reg.SRC_CTL_RETIRE n).place := by
    simp only [Fld.place, Reg.RAW_STAT_BUSY, Reg.SRC_CTL_RETIRE]
    omega
  have hbusy : ((s.wr (Reg.SRC_STAT_STATE n) srcRetired).flag (Reg.SRC_CTL_RETIRE n) true).on Reg.RAW_STAT_BUSY = false := by
    rw [State.on_flag_place _ _ hctl, State.on, State.rd_wr_place _ _ hstate]
    exact hb
  unfold srcRetire
  rw [if_neg hs]
  dsimp only
  rw [hbusy, if_neg (fun h => absurd h.1 Bool.false_ne_true)]

/-- The end of a capture shows DONE and nothing that runs. -/
theorem rawCaptured_ends (hb : s.on Reg.RAW_STAT_BUSY = true) :
    (rawCaptured s o).on Reg.RAW_STAT_BUSY = false ∧ (rawCaptured s o).on Reg.RAW_CTL_GO = false ∧ (rawCaptured s o).on Reg.RAW_STAT_DONE = true := by
  have hends : ∀ t : State, (latchEntropy (((t.flag Reg.RAW_STAT_BUSY false).flag Reg.RAW_CTL_GO false).flag Reg.RAW_STAT_DONE true)).on
        Reg.RAW_STAT_BUSY = false ∧
      (latchEntropy (((t.flag Reg.RAW_STAT_BUSY false).flag Reg.RAW_CTL_GO false).flag Reg.RAW_STAT_DONE true)).on Reg.RAW_CTL_GO = false ∧
      (latchEntropy (((t.flag Reg.RAW_STAT_BUSY false).flag Reg.RAW_CTL_GO false).flag Reg.RAW_STAT_DONE true)).on Reg.RAW_STAT_DONE = true := by
    intro t
    have hlatch : ∀ (u : State) (f : Fld), f.place ≠ (Reg.INT_LATCH_ENT 0).place → f.place ≠ (Reg.INT_LATCH_ENT 1).place →
        (latchEntropy u).on f = u.on f := fun u f h0 h1 => (State.on_flag_place _ _ h1).trans (State.on_flag_place _ _ h0)
    refine ⟨?_, ?_, ?_⟩
    · rw [hlatch _ _ (by decide) (by decide), State.on_flag_place _ _ (by decide), State.on_flag_place _ _ (by decide), State.on_flag _ (by decide)]
    · rw [hlatch _ _ (by decide) (by decide), State.on_flag_place _ _ (by decide), State.on_flag _ (by decide)]
    · rw [hlatch _ _ (by decide) (by decide), State.on_flag _ (by decide)]
  unfold rawCaptured
  rw [if_neg (not_not_intro hb)]
  exact hends _

/-- A record of the journal alone leaves the sources' state and the fields of other registers. -/
theorem ent_jraw (s : State) (typ src arg : Nat) (payload : List Octet) (cont world flush : Bool) :
    (jraw s typ src arg payload cont world flush).ent = s.ent := by
  have hput : ∀ (s : State) (typ src arg : Nat) (payload : List Octet) (cont world flush : Bool), (jput s typ src arg payload cont world flush).ent = s.ent := by
    intro s typ src arg payload cont world flush
    unfold jput
    split
    · rfl
    · dsimp only
      split <;> rfl
  unfold jraw
  dsimp only
  split
  · exact (hput ..).trans (hput ..)
  · exact hput ..

theorem on_jraw (s : State) (typ src arg : Nat) (payload : List Octet) (cont world flush : Bool) {f : Fld} (hf : f.place ≠ Reg.JNL_STAT_FLUSHING.place)
    (hs : f.place ≠ Reg.JNL_STAT_STUCK.place) : (jraw s typ src arg payload cont world flush).on f = s.on f := by
  have hput : ∀ (s : State) (typ src arg : Nat) (payload : List Octet) (cont world flush : Bool),
      (jput s typ src arg payload cont world flush).on f = s.on f := by
    intro s typ src arg payload cont world flush
    unfold jput
    split
    · rfl
    · dsimp only
      split
      · exact State.on_flag_place _ _ hf
      · rfl
  unfold jraw
  dsimp only
  split
  · exact (State.on_flag_place _ _ hs).trans ((hput ..).trans (hput ..))
  · exact hput ..

/-- Closing raw access empties the queue of conditioned outputs. -/
theorem rawShut_closes (ho : s.on Reg.RNG_STAT_RAW_OPEN = true) : (rawShut s).ent.fifo = [] ∧ (rawShut s).on Reg.RNG_STAT_RAW_OPEN = false := by
  have hopen : ((s.flag Reg.RAW_CTL_CLOSE false).flag Reg.RAW_CTL_GO false).on Reg.RNG_STAT_RAW_OPEN = true := by
    rw [State.on_flag_place _ _ (by decide), State.on_flag_place _ _ (by decide), ho]
  unfold rawShut
  rw [if_neg (not_not_intro hopen)]
  dsimp only
  rw [ent_jraw, on_jraw _ _ _ _ _ _ _ _ (by decide) (by decide)]
  have hent : ∀ u : State, (if u.drbg.isSome then u.wr Reg.RNG_STAT_DRBG 2 else u).ent = u.ent := by
    intro u
    split <;> rfl
  refine ⟨(congrArg EntropySt.fifo (hent _)).trans rfl, ?_⟩
  generalize (s.flag Reg.RAW_CTL_CLOSE false).flag Reg.RAW_CTL_GO false = t
  have hshut : ((t.flag Reg.RNG_STAT_RAW_OPEN false).flag Reg.RAW_STAT_BUSY false).on Reg.RNG_STAT_RAW_OPEN = false :=
    (State.on_flag_place _ _ (by decide)).trans (State.on_flag _ Nat.one_ne_zero _)
  have hdrbg : ∀ u : State, (if u.drbg.isSome then u.wr Reg.RNG_STAT_DRBG 2 else u).on Reg.RNG_STAT_RAW_OPEN = u.on Reg.RNG_STAT_RAW_OPEN := by
    intro u
    split
    · exact State.on_wr_place _ _ (by decide)
    · rfl
  have hfifo : ∀ (u : State) (e : EntropySt), (({ u with ent := e }).wr Reg.RNG_STAT_FIFO 0).on Reg.RNG_STAT_RAW_OPEN = u.on Reg.RNG_STAT_RAW_OPEN :=
    fun u e => State.on_wr_place _ _ (by decide)
  rw [hdrbg, hfifo]
  split
  · have hn := t.ent.rawSrc.isLt
    have hstate : Reg.RNG_STAT_RAW_OPEN.place ≠ (Reg.SRC_STAT_STATE t.ent.rawSrc.val).place := by
      simp only [Fld.place, Reg.RNG_STAT_RAW_OPEN, Reg.SRC_STAT_STATE]
      omega
    have hrestarts : Reg.RNG_STAT_RAW_OPEN.place ≠ (Reg.SRC_RESTARTS t.ent.rawSrc.val).place := by
      simp only [Fld.place, Reg.RNG_STAT_RAW_OPEN, Reg.SRC_RESTARTS]
      omega
    have hrfo : Reg.RNG_STAT_RAW_OPEN.place ≠ (Reg.SRC_STAT_RFO t.ent.rawSrc.val).place := by
      simp only [Fld.place, Reg.RNG_STAT_RAW_OPEN, Reg.SRC_STAT_RFO]
      omega
    refine (State.on_wr_place _ _ hstate).trans (Eq.trans ?_ hshut)
    rw [State.on, State.rd_count_place _ hrestarts hrfo, State.on]
  · exact hshut

/-- A conditioned output joins the queue; no entropy request takes it. -/
theorem conditioned_queues {b : Nat × List Octet} (hb : nextBlock s.ent = some b) (hl : s.ent.fifo.length < 16)
    (hn : s.ent.reqs.find? (fun r => r.ent) = none) :
    conditioned s = s.setEnt (fun e => { e with acc := e.acc.erase b, served := b.1, fifo := e.fifo ++ [(sha384 b.2).take 32] }) := by
  unfold conditioned
  rw [hb]
  dsimp only
  rw [State.setEnt_congr (g := fun e => { e with acc := e.acc.erase b, served := b.1, fifo := e.fifo ++ [(sha384 b.2).take 32] })
    (by simp only [if_pos hl])]
  have hreqs : (s.setEnt (fun e => { e with acc := e.acc.erase b, served := b.1, fifo := e.fifo ++ [(sha384 b.2).take 32] })).ent.reqs.find?
      (fun r => r.ent) = none := hn
  generalize s.setEnt _ = t at hreqs
  unfold serveEntropy
  rw [hreqs]

end Sources

section Generator
variable {s : State}

/-- The count of reseeds. -/
theorem rd2_reseeds (s : State) {n : Nat} (h : n < 2 ^ 36) : (s.wr2 Reg.DRBG_RSD_L Reg.DRBG_RSD_H n).rd2 Reg.DRBG_RSD_L Reg.DRBG_RSD_H = n := by
  rw [State.rd2, State.wr2, State.rd_wr, State.rd_wr_place _ _ (by decide), State.rd_wr]
  simp only [Reg.DRBG_RSD_L, Reg.DRBG_RSD_H]
  omega

/-- The registers after a reseed, `c` being the new count. -/
theorem reseeded_spec {u : State} {x : Option Drbg} {l : List (List Octet)} {c : Nat} (hd : u.drbg = x) (hf : u.ent.fifo = l) (hdue : u.ent.due = false)
    {v t : State} (hv : (u.wr Reg.DRBG_REQS 0).flag Reg.RNG_CTL_RESEED false = v)
    (ht : (if c < 2 ^ 36 then v.wr2 Reg.DRBG_RSD_L Reg.DRBG_RSD_H c else (v.wr2 Reg.DRBG_RSD_L Reg.DRBG_RSD_H 0).flag Reg.RNG_STAT_RSO true).wr
      Reg.RNG_STAT_DRBG 1 = t) :
    t.drbg = x ∧ t.ent.fifo = l ∧ t.ent.due = false ∧ t.rd Reg.DRBG_REQS = 0 ∧ t.rd Reg.RNG_STAT_DRBG = 1 ∧ t.on Reg.RNG_CTL_RESEED = false ∧
      (c < 2 ^ 36 → t.rd2 Reg.DRBG_RSD_L Reg.DRBG_RSD_H = c) := by
  have hent : t.drbg = u.drbg ∧ t.ent = u.ent := by
    subst ht hv
    split <;> exact ⟨rfl, rfl⟩
  have hrd : ∀ f : Fld, f.place ≠ Reg.RNG_STAT_DRBG.place → f.place ≠ Reg.DRBG_RSD_L.place → f.place ≠ Reg.DRBG_RSD_H.place →
      f.place ≠ Reg.RNG_STAT_RSO.place → t.rd f = v.rd f := by
    intro f h1 h2 h3 h4
    have hw : ∀ n, (v.wr2 Reg.DRBG_RSD_L Reg.DRBG_RSD_H n).rd f = v.rd f := fun n =>
      (State.rd_wr_place _ _ h3).trans (State.rd_wr_place _ _ h2)
    rw [← ht, State.rd_wr_place _ _ h1]
    split
    · exact hw _
    · exact (State.rd_flag_place _ _ h4).trans (hw _)
  refine ⟨hent.1.trans hd, (congrArg EntropySt.fifo hent.2).trans hf, (congrArg EntropySt.due hent.2).trans hdue, ?_, ?_, ?_, fun hc => ?_⟩
  · rw [hrd _ (by decide) (by decide) (by decide) (by decide), ← hv, State.rd_flag_place _ _ (by decide), State.rd_wr]
    rfl
  · rw [← ht, State.rd_wr]
    rfl
  · rw [State.on, hrd _ (by decide) (by decide) (by decide) (by decide), ← hv]
    exact State.on_flag _ Nat.one_ne_zero _
  · rw [← ht, if_pos hc, State.rd2, State.rd_wr_place _ _ (by decide), State.rd_wr_place _ _ (by decide)]
    exact rd2_reseeds v hc

/-- A due reseed takes two conditioned outputs. -/
theorem serveReseed_reseeds {d : Drbg} {a b : List Octet} {rest : List (List Octet)} (hd : s.drbg = some d) (hf : s.ent.fifo = a :: b :: rest)
    (hdue : reseedDue s = true) {t : State} (ht : serveReseed s = t) :
    t.drbg = some (drbgReseed d a b) ∧ t.ent.fifo = rest ∧ t.ent.due = false ∧ t.rd Reg.DRBG_REQS = 0 ∧ t.rd Reg.RNG_STAT_DRBG = 1 ∧
      t.on Reg.RNG_CTL_RESEED = false ∧
      (s.rd2 Reg.DRBG_RSD_L Reg.DRBG_RSD_H + 1 < 2 ^ 36 → t.rd2 Reg.DRBG_RSD_L Reg.DRBG_RSD_H = s.rd2 Reg.DRBG_RSD_L Reg.DRBG_RSD_H + 1) := by
  subst ht
  unfold serveReseed
  rw [hd, hf]
  dsimp only
  rw [if_neg (not_not_intro hdue)]
  generalize hu : (({ s with drbg := some (drbgReseed d a b) }).setEnt (fun e => { e with
    fifo := rest
    due := false
    rawHold := if ({ s with drbg := some (drbgReseed d a b) }).on Reg.RNG_STAT_RAW_OPEN then e.rawHold else false })) = u
  have hd' : u.drbg = some (drbgReseed d a b) := hu ▸ rfl
  have hf' : u.ent.fifo = rest := hu ▸ rfl
  have hdue' : u.ent.due = false := hu ▸ rfl
  have hc : ((u.wr Reg.DRBG_REQS 0).flag Reg.RNG_CTL_RESEED false).rd2 Reg.DRBG_RSD_L Reg.DRBG_RSD_H = s.rd2 Reg.DRBG_RSD_L Reg.DRBG_RSD_H := by
    subst hu
    simp only [State.rd2, State.setEnt, State.flag]
    rw [State.rd_wr_place _ _ (by decide), State.rd_wr_place _ _ (by decide), State.rd_wr_place _ _ (by decide), State.rd_wr_place _ _ (by decide),
      State.rd_wr_place _ _ (by decide), State.rd_wr_place _ _ (by decide)]
    rfl
  rw [hc]
  exact reseeded_spec hd' hf' hdue' rfl rfl

/-- No reseed is made where none can be or none is due. -/
theorem serveReseed_idle (h : s.drbg = none ∨ s.ent.fifo.length < 2 ∨ reseedDue s = false) : serveReseed s = s := by
  unfold serveReseed
  split
  · next d a b rest hd hf =>
    refine if_pos ?_
    rintro hdue
    rcases h with h | h | h
    · rw [h] at hd
      cases hd
    · rw [hf] at h
      simp only [List.length_cons] at h
      omega
    · rw [h] at hdue
      cases hdue
  · rfl

/-- What the generator does where no reseed is due: seeds for expanders first, then the request of the highest class. -/
theorem serveGenerate_of {d : Drbg} (hd : s.drbg = some d) (hdue : reseedDue s = false) :
    (∀ r, seedWanted s = some r → ∃ t, serveGenerate s = t ∧ t.drbg = some (drbgGenerate d 32).2 ∧
      (tget Expander.zero t.floor.expanders r).seed = some (drbgGenerate d 32).1 ∧ t.rd Reg.DRBG_REQS = (s.rd Reg.DRBG_REQS + 1) % 2 ^ Reg.DRBG_REQS.wid) ∧
    (∀ r, seedWanted s = none → nextReq s = some r → ∀ g, drbgGenerate d (16 * min 64 ((r.words + 6) / 7)) = g →
      serveGenerate s = takeWords (({ s with drbg := some g.2 }).wr Reg.DRBG_REQS (s.rd Reg.DRBG_REQS + 1)) r (drbgWords g.1)) ∧
    (seedWanted s = none → nextReq s = none → serveGenerate s = s) := by
  have hidle : serveReseed s = s := serveReseed_idle (.inr (.inr hdue))
  have hgo : serveGenerate s = (match seedWanted s with
      | some r =>
        let p := drbgRequest s d 32
        let e := tget Expander.zero p.2.floor.expanders r
        { p.2 with floor := { p.2.floor with expanders := tset Expander.zero p.2.floor.expanders r { e with seed := some p.1 } } }
      | none =>
        match nextReq s with
        | none => s
        | some r =>
          let p := drbgRequest s d (16 * min 64 ((r.words + 6) / 7))
          takeWords p.2 r (drbgWords p.1)) := by
    unfold serveGenerate
    rw [hdue, if_neg (fun h => absurd h.1 Bool.false_ne_true)]
    dsimp only
    rw [hidle, hd] <;> rfl
  refine ⟨fun r hr => ⟨_, rfl, ?_⟩, fun r hn hr g hg => ?_, fun hn hr => ?_⟩
  · rw [hgo, hr]
    refine ⟨rfl, ?_, State.rd_wr ..⟩
    exact (congrArg Expander.seed ((tget_tset ..).trans (if_pos rfl)))
  · subst hg
    rw [hgo, hn, hr]
    rfl
  · rw [hgo, hn, hr]

theorem drbg_fatalAlarm (s : State) : (fatalAlarm s).drbg = none := by
  unfold fatalAlarm enterFault
  dsimp only
  split <;> rfl

/-- RESEED before instantiation is only noted. -/
theorem askReseed_of_none (hd : s.drbg = none) : askReseed s = (s.setEnt (fun e => { e with due := true })).flag Reg.RNG_CTL_RESEED true := by
  refine if_neg ?_
  have hn : ((s.setEnt (fun e => { e with due := true })).flag Reg.RNG_CTL_RESEED true).drbg = none := hd
  rw [hn]
  decide

/-- Instantiation waits for two conditioned outputs. -/
theorem instantiate_waits (h0 : s.rd Reg.RNG_STAT_DRBG = 0) (hl : s.ent.fifo.length < 2) : instantiate s true = s := by
  unfold instantiate
  rw [if_neg (not_not_intro h0), if_neg (by decide)]
  split
  · next a b rest hf =>
    rw [hf] at hl
    simp only [List.length_cons] at hl
    omega
  · rfl

/-- Instantiation after its self-test, with two conditioned outputs. -/
theorem instantiate_makes {a b : List Octet} {rest : List (List Octet)} (h0 : s.rd Reg.RNG_STAT_DRBG = 0) (hf : s.ent.fifo = a :: b :: rest) {u z : State}
    (hu : { s with drbg := some (drbgInit a b (fitOctets 16 Config.deviceSerial ++ beOctets 6 s.tamp.tick)) } = u)
    (hz : entRecord (((u.setEnt (fun e => { e with fifo := rest, due := false })).wr Reg.RNG_STAT_DRBG 1).wr Reg.DRBG_REQS 0) 0 2 0 false = z)
    (hm : z.tamp.meshDue = false) {n : List Octet × State} (hn : drawRandom (z.setTamp (fun t => { t with mesh := z.tamp.mesh, meshDue := false })) 32 = n) :
    instantiate s true = { n.2 with dbg := { n.2.dbg with nonce := n.1 } } := by
  unfold instantiate
  rw [if_neg (not_not_intro h0), if_neg (by decide), hf]
  dsimp only
  rw [hu, hz, hm]
  subst hn
  rfl

end Generator

/-- Settles O40: noise sources, their tests, and the DRBG. -/
theorem entropy : Obligations.Entropy := by
  refine ⟨fun s n o => ?_, fun s => ?_⟩
  · dsimp only
    refine ⟨fun hs hb ha => ?_, fun hs hb => ?_, fun hs => ?_, fun hs hb ha => ?_, fun hs hb => ?_, fun a => ?_, fun hs => ?_, fun hs hb => ?_,
      fun hb => ⟨_, rfl, rawCaptured_ends hb⟩, fun sc => ⟨fun hp => ⟨?_, rawShut_closes⟩, fun hp => ?_⟩, fun b hb hl hn => ?_⟩
    · refine congrArg Host.Outcome.next ((blockComplete_of hs rfl rfl).trans (if_neg ?_))
      rw [hb, ha]
      decide
    · exact congrArg Host.Outcome.next ((blockComplete_of hs rfl rfl).trans (if_pos hb))
    · exact congrArg Host.Outcome.next (if_pos hs)
    · refine congrArg Host.Outcome.next ((startupEnd_of hs rfl rfl).trans (if_neg ?_))
      rw [hb, ha]
      decide
    · exact congrArg Host.Outcome.next ((startupEnd_of hs rfl rfl).trans (if_pos hb))
    · cases a <;> rfl
    · exact congrArg Host.Outcome.next (if_pos hs)
    · exact congrArg Host.Outcome.next (srcRetire_retires hs hb n.isLt)
    · exact congrArg Host.Outcome.next (if_pos hp)
    · exact congrArg Host.Outcome.next (if_neg (by rw [hp]; decide))
    · exact congrArg Host.Outcome.next (conditioned_queues hb hl hn)
  · refine ⟨fun hd => congrArg Host.Outcome.next (if_pos hd), fun hd => congrArg Host.Outcome.next (askReseed_of_none hd),
      fun d a b rest hd hf hdue => ⟨_, rfl, serveReseed_reseeds hd hf hdue rfl⟩, fun h => congrArg Host.Outcome.next (serveReseed_idle h), fun d hd hdue => ?_,
      fun h0 => ⟨?_, fun hl => ?_, fun a b rest hf => ?_⟩, fun h0 pass => ?_, drbg_fatalAlarm s, fun r w => rfl⟩
    · obtain ⟨hseed, hreq, hidle⟩ := serveGenerate_of hd hdue
      refine ⟨fun r hr => ?_, fun r hn hr => congrArg Host.Outcome.next (hreq r hn hr _ rfl), fun hn hr => congrArg Host.Outcome.next (hidle hn hr)⟩
      obtain ⟨t, ht, hspec⟩ := hseed r hr
      exact ⟨t, congrArg Host.Outcome.next ht, hspec⟩
    · exact congrArg Host.Outcome.next ((if_neg (not_not_intro h0)).trans (if_pos (by decide)))
    · exact congrArg Host.Outcome.next (instantiate_waits h0 hl)
    · dsimp only
      intro hm
      exact congrArg Host.Outcome.next (instantiate_makes h0 hf rfl rfl hm rfl)
    · exact congrArg Host.Outcome.next (if_pos h0)

end Sys2Proof.Machine
end


section
/-! SUPPORT. O41: the key store's port, destruction of a domain, the journal's flush and JREC_CMD. -/
namespace Sys2Proof.Machine
open Sys2Proof

section Port
variable {s t : State} {w : Who} {op : Nat}

/-- The state in which an operation of the port runs: its argument, operation and GO. -/
def ksAsked (s : State) (op : Nat) (arg : DWord) : State :=
  ((s.wr2 Reg.KS_OP_ARG_L Reg.KS_OP_ARG_H (arg.toNat / 16 * 16)).wr Reg.KS_OP_CMD_OP op).flag Reg.KS_OP_CMD_GO true

theorem rd2_ksAsked (s : State) (op : Nat) (arg : DWord) :
    (ksAsked s op arg).rd2 Reg.KS_OP_ARG_L Reg.KS_OP_ARG_H = arg.toNat / 16 * 16 := by
  have hlt := arg.isLt
  rw [ksAsked, State.rd2, State.rd_flag_place _ _ (by decide), State.rd_flag_place _ _ (by decide), State.rd_wr_place _ _ (by decide),
    State.rd_wr_place _ _ (by decide), State.wr2, State.rd_wr, State.rd_wr_place _ _ (by decide), State.rd_wr]
  simp only [Reg.KS_OP_ARG_L, Reg.KS_OP_ARG_H]
  omega

theorem ksStart_starts {sc : Nat} {arg : DWord} (hg : s.on Reg.KS_OP_CMD_GO = false) : ksStart s sc op arg = ksRun (ksAsked s op arg) ⟨sc, true⟩ op :=
  if_neg (by rw [hg]; decide)

/-- An operation whose argument can be read: done, or waiting for the vault's table. -/
theorem ksRun_readable {a : Nat} (ha : t.rd2 Reg.KS_OP_ARG_L Reg.KS_OP_ARG_H = a) (h7 : targetOf 3 a = 7)
    (hc : checkAccess t ⟨3, true, true, 0xFFF, .read, a, 0⟩ = none) :
    (∀ u st r0 out hold, ksOperation t w op (ksArgument t).1 (ksArgument t).2 = (u, .fin st r0 out hold) →
      ksRun t w op = { u with ks := ⟨out, if st = 0 then hold else [], st⟩ }) ∧
    (∀ u, ksOperation t w op (ksArgument t).1 (ksArgument t).2 = (u, .wait) →
      ksRun t w op = { u with ks := ⟨[], if op = 9 then [] else [waitTable], 256⟩ }) := by
  have hrun : ksRun t w op = (match ksOperation t w op (ksArgument t).1 (ksArgument t).2 with
      | (s, .wait) => { s with ks := ⟨[], if op = 9 then [] else [waitTable], 256⟩ }
      | (s, .fin st _ out hold) => { s with ks := ⟨out, if st = 0 then hold else [], st⟩ }) := by
    unfold ksRun
    dsimp only
    rw [ha, if_pos h7, hc] <;> rfl
  refine ⟨fun u st r0 out hold h => ?_, fun u h => ?_⟩
  · rw [hrun, h]
  · rw [hrun, h]

/-- An argument outside DRAM reports status 0x7F. -/
theorem ksRun_unreadable {a : Nat} (ha : t.rd2 Reg.KS_OP_ARG_L Reg.KS_OP_ARG_H = a) (h7 : targetOf 3 a ≠ 7) : (ksRun t w op).ks = ⟨[], [], 0x7F⟩ := by
  unfold ksRun
  dsimp only
  rw [ha, if_neg h7]

/-- What each start of an operation does, by GO and by its argument. -/
theorem ksStart_spec (s : State) (sc : Fin 2) (op : Nat) (arg : DWord) :
    (s.on Reg.KS_OP_CMD_GO = true → ksStart s sc op arg = s) ∧
    (s.on Reg.KS_OP_CMD_GO = false →
      let t := ksAsked s op arg
      let a := t.rd2 Reg.KS_OP_ARG_L Reg.KS_OP_ARG_H
      a = arg.toNat / 16 * 16 ∧
      (targetOf 3 a = 7 → checkAccess t ⟨3, true, true, 0xFFF, .read, a, 0⟩ = none →
        (∀ u st r0 out hold, ksOperation t ⟨sc, true⟩ op (ksArgument t).1 (ksArgument t).2 = (u, .fin st r0 out hold) →
          done (ksStart s sc op arg) = .next { u with ks := ⟨out, if st = 0 then hold else [], st⟩ }) ∧
        (∀ u, ksOperation t ⟨sc, true⟩ op (ksArgument t).1 (ksArgument t).2 = (u, .wait) →
          done (ksStart s sc op arg) = .next { u with ks := ⟨[], if op = 9 then [] else [waitTable], 256⟩ })) ∧
      (targetOf 3 a ≠ 7 → ∃ u, done (ksStart s sc op arg) = .next u ∧ u.ks = ⟨[], [], 0x7F⟩)) := by
  refine ⟨fun hg => if_pos hg, fun hg => ⟨rd2_ksAsked s op arg, fun h7 hc => ?_, fun h7 => ?_⟩⟩
  · rw [ksStart_starts hg]
    obtain ⟨hfin, hwait⟩ := ksRun_readable (w := ⟨sc, true⟩) (op := op) rfl h7 hc
    exact ⟨fun u st r0 out hold h => congrArg Host.Outcome.next (hfin u st r0 out hold h), fun u h => congrArg Host.Outcome.next (hwait u h)⟩
  · rw [ksStart_starts hg]
    exact ⟨_, rfl, ksRun_unreadable rfl h7⟩

/-- The end of an operation shows its status, once no commit is awaited. -/
theorem ksDone_shows (hg : s.on Reg.KS_OP_CMD_GO = true) (hw : s.ks.wait = []) (hc : s.rd Reg.KS_OP_CMD_OP ∈ [1, 2, 3, 5, 7] → s.vault.commit = none)
    (hs : s.ks.status ≠ 256) : ksDone s = ((s.wr Reg.KS_OP_STAT_STATUS s.ks.status).flag Reg.KS_OP_STAT_DONE true).flag Reg.KS_OP_CMD_GO false := by
  refine (if_neg ?_).trans (if_neg hs)
  rintro (h | h | ⟨h, h'⟩)
  · exact h hg
  · exact h hw
  · rw [hc (of_decide_eq_true h)] at h'
    cases h'

theorem ksDone_idle (h : s.on Reg.KS_OP_CMD_GO = false ∨ s.ks.wait ≠ []) : ksDone s = s := by
  refine if_pos ?_
  rcases h with h | h
  · exact .inl (by rw [h]; decide)
  · exact .inr (.inl h)

end Port

section Journal
variable {s : State}

/-- A step of a domain's destruction with no object left: the domain is absent once the vault has nothing to commit. -/
theorem destroyStep_last {d : Nat} (hd : s.domState d = 3) (hl : lowestOf s d = none) (hv : s.vault.dirty = []) (hc : s.vault.commit = none) :
    destroyStep s d = domainAbsent s d := by
  unfold destroyStep
  rw [if_neg (not_not_intro hd), hl]
  exact if_pos ⟨hv, by rw [hc]; rfl⟩

theorem destroyStep_object {d : Nat} {r : Nat} (hd : s.domState d = 3) (hl : lowestOf s d = some r) : destroyStep s d = destroyObj s r := by
  unfold destroyStep
  rw [if_neg (not_not_intro hd), hl]

/-- A flush with the memory at hand and room for all puts every record down. -/
theorem flushDone_flushes (hf : s.on Reg.JNL_STAT_FLUSHING = true) (hu : s.on Reg.JNL_STAT_UNAVAIL = false) (hr : s.jnl.buf.length ≤ s.jfree) :
    ∃ t, flushDone s = jlevelUpdate t ∧ t.jnl.buf = [] ∧ t.on Reg.JNL_STAT_FLUSHING = false ∧
      (∀ e, s.jnl.buf.getLast? = some e → t.jnl.flushed = e.seq) ∧
      t.jnl.chainFlushed = s.jnl.buf.foldl (fun c e => sha384 (c ++ e.octets)) s.chainFlushed ∧ t.jnl.acked = s.jnl.acked := by
  unfold flushDone
  rw [if_neg (not_not_intro hf)]
  dsimp only
  rw [hu, if_neg (by decide), Nat.min_eq_left hr, List.take_length]
  refine ⟨_, rfl, List.drop_length, State.on_flag _ Nat.one_ne_zero _, fun e he => ?_, rfl, rfl⟩
  have hlast : ((s.jnl.buf.getLast?).map (fun r => r.seq)).getD s.jnl.flushed = e.seq := by
    rw [he]
    rfl
  exact hlast

/-- JREC_CMD: refused where the journal is full and no reserve is asked for; else one record. -/
theorem submitRecord_of {sc : Nat} {cont reserve : Bool} {b : State} {o : List Octet}
    (hb : (s.flag Reg.JREC_CMD_CONT cont).flag Reg.JREC_CMD_RESERVE reserve = b)
    (ho : unpackWords ((List.range 19).map (fun w => b.rd (Reg.JREC_DATA w))) = o) :
    submitRecord s sc cont reserve = if ¬ reserve ∧ b.journalFull then (b.flag Reg.JREC_STAT_REFUSED true).flag Reg.JREC_STAT_DONE true
      else ((jrecG b (leAt o 0 2) sc (leAt o 2 4) (octAt o 6 32) cont true false).flag Reg.JREC_STAT_REFUSED false).flag Reg.JREC_STAT_DONE true := by
  subst ho hb
  rfl

end Journal

/-- Settles O41: the key store's port, destruction of a domain, the journal's flush and JREC_CMD. -/
theorem keyStorePortAndJournal : Obligations.KeyStorePortAndJournal := by
  intro s sc arg
  refine ⟨fun e he => ?_, ⟨fun hg hw hc hs => ?_, fun h => ?_⟩, fun d => ⟨fun hd r hr => ?_, fun hd hl hv hc => ?_, fun hd => ?_⟩, rfl, fun hf hu hr => ?_,
    fun cont reserve => ⟨fun hr hj => ?_, fun h => ?_⟩⟩
  · have hstart : exec e.1 s = done (ksStart s sc e.2 arg) := by
      simp only [List.mem_cons, List.not_mem_nil, or_false] at he
      rcases he with rfl | rfl | rfl | rfl | rfl | rfl | rfl | rfl | rfl | rfl <;> rfl
    rw [hstart]
    obtain ⟨hbusy, hfree⟩ := ksStart_spec s sc e.2 arg
    exact ⟨fun hg => congrArg Host.Outcome.next (hbusy hg), hfree⟩
  · exact congrArg Host.Outcome.next (ksDone_shows hg hw hc hs)
  · exact congrArg Host.Outcome.next (ksDone_idle h)
  · exact congrArg Host.Outcome.next (destroyStep_object hd hr)
  · exact congrArg Host.Outcome.next (destroyStep_last hd hl hv hc)
  · exact congrArg Host.Outcome.next (if_pos hd)
  · obtain ⟨t, ht, hspec⟩ := flushDone_flushes hf hu hr
    exact ⟨t, congrArg Host.Outcome.next ht, hspec⟩
  · exact congrArg Host.Outcome.next ((submitRecord_of rfl rfl).trans (if_pos ⟨by rw [hr]; decide, hj⟩))
  · refine congrArg Host.Outcome.next ((submitRecord_of rfl rfl).trans (if_neg ?_))
    rintro ⟨hr, hj⟩
    rcases h with h | h
    · exact hr h
    · rw [h] at hj
      cases hj

end Sys2Proof.Machine
end


section
/-! SUPPORT. O42: the ledger, samples of the tamper sensors, zeroization. -/
namespace Sys2Proof.Machine
open Sys2Proof

/-! ### The ledger -/

/-- `t` is `s` with ledger entries made: the ledger and its registers differ, and nothing else. -/
structure Ledgered (s t : State) : Prop where
  frame : t = { s with regs := t.regs, tamp := { s.tamp with ledger := t.tamp.ledger, lastIdx := t.tamp.lastIdx, overflow := t.tamp.overflow } }
  rd : ∀ f : Fld, f.place ≠ Reg.LEDGER_USED.place → f.place ≠ Reg.TAMP_STAT_LEDGER_FULL.place → f.place ≠ Reg.LAST_ZERO.place →
    f.place ≠ Reg.LAST_ALARM.place → t.rd f = s.rd f

theorem ledgered_store (s : State) (i : Nat) (e : List Octet) : Ledgered s (ledgerStore s i e) := by
  unfold ledgerStore
  refine ⟨?_, fun f h1 h2 h3 h4 => ?_⟩
  · dsimp only
    split <;> split <;> rfl
  · dsimp only
    split
    · rw [State.rd_wr_place _ _ h4]
      split
      · rw [State.rd_wr_place _ _ h3, State.rd_flag_place _ _ h2, State.rd_wr_place _ _ h1]
        rfl
      · rw [State.rd_flag_place _ _ h2, State.rd_wr_place _ _ h1]
        rfl
    · split
      · rw [State.rd_wr_place _ _ h3, State.rd_flag_place _ _ h2, State.rd_wr_place _ _ h1]
        rfl
      · rw [State.rd_flag_place _ _ h2, State.rd_wr_place _ _ h1]
        rfl

theorem Ledgered.trans {s t u : State} (h : Ledgered s t) (h' : Ledgered t u) : Ledgered s u where
  frame := by rw [h'.frame, h.frame]
  rd f h1 h2 h3 h4 := (h'.rd f h1 h2 h3 h4).trans (h.rd f h1 h2 h3 h4)

theorem Ledgered.ite {s t u : State} {p : Prop} [Decidable p] (h : Ledgered s t) (h' : Ledgered s u) : Ledgered s (if p then t else u) := by
  split
  · exact h
  · exact h'

theorem ledgered_put (s : State) (typ src : Nat) (data : List Octet) : Ledgered s (ledgerPut s typ src data) := by
  have hover : Ledgered s (s.setTamp (fun t => { t with overflow := stick 32 (t.overflow + 1) })) := ⟨rfl, fun f _ _ _ _ => rfl⟩
  exact .ite (ledgered_store ..) (.ite (ledgered_store ..) (.ite (ledgered_store ..) (.ite (hover.trans (ledgered_store ..)) hover)))

section Ledger
variable {s : State} {typ src : Nat} {data : List Octet}

theorem sens_ledgerPut (s : State) (typ src : Nat) (data : List Octet) : (ledgerPut s typ src data).tamp.sens = s.tamp.sens := by
  rw [(ledgered_put s typ src data).frame]

theorem root_ledgerPut (s : State) (typ src : Nat) (data : List Octet) : (ledgerPut s typ src data).tamp.root = s.tamp.root := by
  rw [(ledgered_put s typ src data).frame]

theorem on_ledgerPut (s : State) (typ src : Nat) (data : List Octet) {f : Fld} (h1 : f.place ≠ Reg.LEDGER_USED.place)
    (h2 : f.place ≠ Reg.TAMP_STAT_LEDGER_FULL.place) (h3 : f.place ≠ Reg.LAST_ZERO.place) (h4 : f.place ≠ Reg.LAST_ALARM.place) :
    (ledgerPut s typ src data).on f = s.on f := by
  rw [State.on, (ledgered_put s typ src data).rd f h1 h2 h3 h4, State.on]

/-- An entry that repeats no other goes to the ledger's end while there is room. -/
theorem ledgerPut_appends (hl : s.tamp.ledger.length < 256) (h1 : typ ≠ 1) (h2 : typ ≠ 2) :
    ledgerPut s typ src data = ledgerStore s s.tamp.ledger.length (ledgerEntry s typ src 1 data) :=
  (if_neg fun h => h2 h.2.1).trans ((if_neg fun h => h1 h.2.1).trans (if_pos hl))

theorem ledger_ledgerStore_end (e : List Octet) : (ledgerStore s s.tamp.ledger.length e).tamp.ledger = s.tamp.ledger ++ [e] := by
  have hl : (if s.tamp.ledger.length < s.tamp.ledger.length then s.tamp.ledger.set s.tamp.ledger.length e else s.tamp.ledger ++ [e]) =
      s.tamp.ledger ++ [e] := if_neg (Nat.lt_irrefl _)
  refine Eq.trans ?_ hl
  unfold ledgerStore
  dsimp only
  split <;> split <;> rfl

theorem used_ledgerStore_end (hl : s.tamp.ledger.length < 256) (e : List Octet) :
    (ledgerStore s s.tamp.ledger.length e).rd Reg.LEDGER_USED = s.tamp.ledger.length + 1 := by
  have hroom : (s.tamp.ledger ++ [e]).length % 2 ^ Reg.LEDGER_USED.wid = s.tamp.ledger.length + 1 := by
    rw [List.length_append, List.length_singleton]
    simp only [Reg.LEDGER_USED]
    omega
  have hset : (s.setTamp (fun t => { t with
      ledger := if s.tamp.ledger.length < t.ledger.length then t.ledger.set s.tamp.ledger.length e else t.ledger ++ [e],
      lastIdx := some s.tamp.ledger.length })).tamp.ledger = s.tamp.ledger ++ [e] := if_neg (Nat.lt_irrefl _)
  have hmark : ∀ (u : State), (if leAt e 0 1 = 3 then (if leAt e 0 1 = 4 ∧ leAt e 12 1 = 0 then u.wr Reg.LAST_ZERO s.tamp.ledger.length else u).wr
      Reg.LAST_ALARM s.tamp.ledger.length else if leAt e 0 1 = 4 ∧ leAt e 12 1 = 0 then u.wr Reg.LAST_ZERO s.tamp.ledger.length else u).rd Reg.LEDGER_USED =
      u.rd Reg.LEDGER_USED := by
    intro u
    have hzero : (if leAt e 0 1 = 4 ∧ leAt e 12 1 = 0 then u.wr Reg.LAST_ZERO s.tamp.ledger.length else u).rd Reg.LEDGER_USED = u.rd Reg.LEDGER_USED := by
      split
      · exact State.rd_wr_place _ _ (by decide)
      · rfl
    split
    · exact (State.rd_wr_place _ _ (by decide)).trans hzero
    · exact hzero
  unfold ledgerStore
  dsimp only
  rw [hmark, State.rd_flag_place _ _ (by decide), State.rd_wr, hset, hroom]

theorem length_ledgerPut (hl : s.tamp.ledger.length < 256) (h1 : typ ≠ 1) (h2 : typ ≠ 2) :
    (ledgerPut s typ src data).tamp.ledger.length = s.tamp.ledger.length + 1 := by
  rw [ledgerPut_appends hl h1 h2, ledger_ledgerStore_end, List.length_append, List.length_singleton]

end Ledger

/-! ### Sensors -/

section Sensors
variable {s : State} {c : Nat}

theorem respond_nil (s : State) : respond s ([].mergeSort (fun a b => decide (a ≤ b))) = s := by
  rw [List.mergeSort_nil]
  rfl

/-- A clear sample restarts the sensor's count. -/
theorem takeSamples_clear (s : State) (c : Nat) : takeSamples s [(c, false)] = s.setTamp (fun t => { t with sens := tdel t.sens c }) := respond_nil _

/-- A condition that does not reach the filter, or holds already, is counted alone. -/
theorem takeSamples_counts {n m : Nat} {a : Bool} (hx : tget Sensor.clean s.tamp.sens c = ⟨n, a⟩) (hm : min (n + 1) (sensFilter s c) = m)
    (h : a = true ∨ m < sensFilter s c) : takeSamples s [(c, true)] = s.setTamp (fun t => { t with sens := tset Sensor.clean t.sens c ⟨m, a⟩ }) := by
  have hhit : (!a && decide (m ≥ sensFilter s c)) = false := by
    rcases h with h | h
    · rw [h]
      rfl
    · rw [decide_eq_false (Nat.not_le.mpr h), Bool.and_false]
  have hsample : sampleSensor s c true = (s.setTamp (fun t => { t with sens := tset Sensor.clean t.sens c ⟨m, a⟩ }), false) := by
    unfold sampleSensor
    rw [if_neg (by decide), hx]
    dsimp only
    rw [hm, hhit, Bool.or_false]
  unfold takeSamples
  dsimp only [List.foldl_cons, List.foldl_nil]
  rw [hsample]
  exact respond_nil _

/-- A condition that reaches the filter asserts the sensor, and the sensor's response follows. -/
theorem takeSamples_asserts {n : Nat} (hx : tget Sensor.clean s.tamp.sens c = ⟨n, false⟩) (hn : sensFilter s c ≤ n + 1) :
    takeSamples s [(c, true)] = respond (s.setTamp (fun t => { t with sens := tset Sensor.clean t.sens c ⟨sensFilter s c, true⟩ })) [c] := by
  have hsample : sampleSensor s c true = (s.setTamp (fun t => { t with sens := tset Sensor.clean t.sens c ⟨sensFilter s c, true⟩ }), true) := by
    unfold sampleSensor
    rw [if_neg (by decide), hx]
    dsimp only
    rw [Nat.min_eq_right hn]
    simp
  unfold takeSamples
  dsimp only [List.foldl_cons, List.foldl_nil]
  rw [hsample]
  exact congrArg (respond _) (List.mergeSort_singleton ..)

/-- One sensor's response. -/
theorem respond_one (s : State) (c : Nat) : respond s [c] = match sensResponse s c with
    | 0 => ledgerPut s 2 c (leOctets 6 s.tamp.tick)
    | 1 => tampRefresh ((ledgerPut s 3 c []).flag Reg.TAMP_STAT_ALARM true)
    | _ => zeroize s c := by
  have hle : sensResponse s c ≤ 2 := by
    unfold sensResponse
    split
    · exact Nat.le_refl 2
    · split
      · exact Nat.zero_le 2
      · exact Nat.min_le_right ..
  unfold respond
  have hmax : ([c].map (sensResponse s)).foldl max 0 = sensResponse s c := Nat.zero_max _
  dsimp only [List.foldl_cons, List.foldl_nil]
  rw [hmax]
  unfold responseEntry
  generalize hr : sensResponse s c = r at hle ⊢
  match r, hr, hle with
  | 0, _, _ => rfl
  | 1, _, _ => rfl
  | 2, hr, _ =>
    have hfind : ([c].find? (fun k => decide (sensResponse s k = 2))).getD 0 = c := by
      simp [hr]
    rw [hfind]
    rfl

theorem sensFilter_shield (s : State) : sensFilter s 0x20 = 2 := if_pos rfl

/-- Sensor 0x20 always zeroizes. -/
theorem sensResponse_shield (s : State) : sensResponse s 0x20 = 2 := if_pos (.inr rfl)

/-- Sensor 0x15 is no sensor that a window suspends. -/
theorem sensResponse_clkTamp (s : State) : sensResponse s 0x15 = min (s.rd (Reg.SENS_CFG_RESPONSE 0x15)) 2 := by
  have hno : 0x15 ∉ suspended s := by
    unfold suspended
    split <;> split <;> decide
  exact (if_neg (by decide)).trans (if_neg hno)

/-- A sample of CLK_TAMP's window detector marks CLK_RC where the sensor is asserted then. -/
theorem tamperSample_clkTamp {t u : State} (h : takeSamples s [(0x15, true)] = t) (ha : (tget Sensor.clean t.tamp.sens 0x15).asserted = true)
    (hu : t.flag Reg.TAMP_STAT_CLK_RC true = u) : tamperSample s [.clkTamp true] = u := by
  have hmark : tamperSample s [.clkTamp true] = t.flag Reg.TAMP_STAT_CLK_RC (tget Sensor.clean t.tamp.sens 0x15).asserted := by
    subst h
    rfl
  rw [hmark, ha, hu]

/-- CLK_TAMP's detector with response 0 is logged. -/
theorem clkTamp_logs {n : Nat} (hx : tget Sensor.clean s.tamp.sens 0x15 = ⟨n, false⟩) (hn : sensFilter s 0x15 ≤ n + 1)
    (hr : s.rd (Reg.SENS_CFG_RESPONSE 0x15) = 0) {b : State}
    (hb : s.setTamp (fun t => { t with sens := tset Sensor.clean t.sens 0x15 ⟨sensFilter s 0x15, true⟩ }) = b) :
    tamperSample s [.clkTamp true] = (ledgerPut b 2 0x15 (leOctets 6 s.tamp.tick)).flag Reg.TAMP_STAT_CLK_RC true := by
  have hresp : sensResponse b 0x15 = 0 := by
    rw [sensResponse_clkTamp, ← hb]
    exact congrArg (min · 2) hr
  have htick : b.tamp.tick = s.tamp.tick := hb ▸ rfl
  have htake : takeSamples s [(0x15, true)] = ledgerPut b 2 0x15 (leOctets 6 s.tamp.tick) := by
    rw [takeSamples_asserts hx hn, hb, respond_one, hresp, htick]
    rfl
  refine tamperSample_clkTamp htake ?_ rfl
  rw [sens_ledgerPut, ← hb]
  exact congrArg Sensor.asserted ((tget_tset ..).trans (if_pos rfl))

/-- CLK_TAMP's detector with response 1 raises the alarm. -/
theorem clkTamp_alarms {n : Nat} (hx : tget Sensor.clean s.tamp.sens 0x15 = ⟨n, false⟩) (hn : sensFilter s 0x15 ≤ n + 1)
    (hr : s.rd (Reg.SENS_CFG_RESPONSE 0x15) = 1) {b : State}
    (hb : s.setTamp (fun t => { t with sens := tset Sensor.clean t.sens 0x15 ⟨sensFilter s 0x15, true⟩ }) = b) :
    tamperSample s [.clkTamp true] = (tampRefresh ((ledgerPut b 3 0x15 []).flag Reg.TAMP_STAT_ALARM true)).flag Reg.TAMP_STAT_CLK_RC true := by
  have hresp : sensResponse b 0x15 = 1 := by
    rw [sensResponse_clkTamp, ← hb]
    exact congrArg (min · 2) hr
  have htake : takeSamples s [(0x15, true)] = tampRefresh ((ledgerPut b 3 0x15 []).flag Reg.TAMP_STAT_ALARM true) := by
    rw [takeSamples_asserts hx hn, hb, respond_one, hresp]
    rfl
  have hsens : (tampRefresh ((ledgerPut b 3 0x15 []).flag Reg.TAMP_STAT_ALARM true)).tamp.sens = b.tamp.sens := sens_ledgerPut b 3 0x15 []
  refine tamperSample_clkTamp htake ?_ rfl
  rw [hsens, ← hb]
  exact congrArg Sensor.asserted ((tget_tset ..).trans (if_pos rfl))

end Sensors

/-! ### Zeroization -/

section Zeroization
variable {s : State}

theorem rd_tampRefresh_tamper (s : State) : (tampRefresh s).rd Reg.TAMP_STAT_TAMPER = (match s.tamp.root with
    | none => if s.otp.comm > 0 then 3 else 0
    | some _ => if s.on Reg.TAMP_STAT_ALARM then 2 else 1) := by
  unfold tampRefresh
  dsimp only
  rw [State.rd_flag_place _ _ (by decide), State.rd_wr]
  cases s.tamp.root with
  | none =>
    dsimp only
    split <;> rfl
  | some r =>
    dsimp only
    split <;> rfl

theorem on_tampRefresh (s : State) {f : Fld} (h1 : f.place ≠ Reg.TAMP_STAT_TAMPER.place) (h2 : f.place ≠ Reg.TAMP_STAT_ROOT.place) :
    (tampRefresh s).on f = s.on f := (State.on_flag_place _ _ h2).trans (State.on_wr_place _ _ h1)

/-- What a zeroization destroys (Table 16.6). -/
theorem zeroizeDestroy_spec {r : List Octet} (hr : s.tamp.root = some r) :
    (zeroizeDestroy s).tamp.root = none ∧ (zeroizeDestroy s).tamp.bank0 = ([], 0) ∧ (zeroizeDestroy s).tamp.bank1 = ([], 0) ∧
      (zeroizeDestroy s).tamp.origin = false ∧ (zeroizeDestroy s).on Reg.TAMP_STAT_COMMISSIONED = false ∧
      (zeroizeDestroy s).on Reg.TAMP_STAT_CFG_LOCKED = false ∧ (zeroizeDestroy s).rd Reg.TAMP_STAT_TAMPER = (if s.otp.comm > 0 then 3 else 0) ∧
      (s.tamp.main = true → (zeroizeDestroy s).cache = [] ∧ (zeroizeDestroy s).vault = .none) := by
  generalize hu : ((s.setTamp (fun t => { t with root := none, origin := false, bank0 := ([], 0), bank1 := ([], 0), zeroEntry := true })).flag
    Reg.TAMP_STAT_COMMISSIONED false).flag Reg.TAMP_STAT_CFG_LOCKED false = u
  have hz : zeroizeDestroy s = tampRefresh (if u.tamp.main then clearKeys u else u) := by
    unfold zeroizeDestroy
    rw [hr]
    dsimp only
    rw [hu]
  have hcomm : u.on Reg.TAMP_STAT_COMMISSIONED = false := by
    rw [← hu, State.on_flag_place _ _ (by decide), State.on_flag _ Nat.one_ne_zero]
  have hlock : u.on Reg.TAMP_STAT_CFG_LOCKED = false := by
    rw [← hu, State.on_flag _ Nat.one_ne_zero]
  have hmain : u.tamp.main = s.tamp.main := hu ▸ rfl
  have hotp : u.otp = s.otp := hu ▸ rfl
  have hclear : ∀ f : Fld, f.place ≠ Reg.KS_STAT_VAULT.place → f.place ≠ Reg.MEM_STAT_VAULT_READY.place → (if u.tamp.main then clearKeys u else u).on f = u.on f := by
    intro f h1 h2
    split
    · exact (State.on_flag_place _ _ h2).trans (State.on_wr_place _ _ h1)
    · rfl
  have htamp : (if u.tamp.main then clearKeys u else u).tamp = u.tamp ∧ (if u.tamp.main then clearKeys u else u).otp = u.otp := by
    split <;> exact ⟨rfl, rfl⟩
  obtain ⟨ht, ho⟩ := htamp
  have htamp : (tampRefresh (if u.tamp.main then clearKeys u else u)).tamp = u.tamp := ht
  rw [hz, htamp, ← hmain]
  refine ⟨by rw [← hu]; rfl, by rw [← hu]; rfl, by rw [← hu]; rfl, by rw [← hu]; rfl, ?_, ?_, ?_, fun hm => ?_⟩
  · rw [on_tampRefresh _ (by decide) (by decide), hclear _ (by decide) (by decide), hcomm]
  · rw [on_tampRefresh _ (by decide) (by decide), hclear _ (by decide) (by decide), hlock]
  · have hroot : u.tamp.root = none := hu ▸ rfl
    rw [rd_tampRefresh_tamper, ht, ho, hroot, hotp]
  · rw [if_pos hm]
    exact ⟨rfl, rfl⟩

/-- A zeroization of a device that holds a root. -/
theorem zeroize_destroys {r : List Octet} (src : Nat) (hr : s.tamp.root = some r) {t : State} (ht : zeroizeDestroy (ledgerPut s 4 src [0]) = t) :
    zeroize s src = closeWindow t 5 src ∧ t.tamp.root = none ∧ t.tamp.bank0 = ([], 0) ∧ t.tamp.bank1 = ([], 0) ∧ t.tamp.origin = false ∧
      t.on Reg.TAMP_STAT_COMMISSIONED = false ∧ t.on Reg.TAMP_STAT_CFG_LOCKED = false ∧ t.rd Reg.TAMP_STAT_TAMPER = (if s.otp.comm > 0 then 3 else 0) ∧
      (s.tamp.main = true → t.cache = [] ∧ t.vault = .none) := by
  subst ht
  have hz := zeroizeDestroy_spec ((root_ledgerPut s 4 src [0]).trans hr)
  rw [(ledgerPut_keep s 4 src [0]).2.1, show (ledgerPut s 4 src [0]).tamp.main = s.tamp.main by rw [(ledgered_put s 4 src [0]).frame]] at hz
  refine ⟨?_, hz⟩
  unfold zeroize
  rw [hr]
  rfl

/-- A zeroization without a root is logged alone. -/
theorem zeroize_logs (src : Nat) (hr : s.tamp.root = none) : zeroize s src = closeWindow (ledgerPut s 4 src [1]) 5 src := by
  have hroot : (ledgerPut s 4 src [1]).tamp.root = none := (root_ledgerPut s 4 src [1]).trans hr
  have hdestroy : zeroizeDestroy (ledgerPut s 4 src [1]) = ledgerPut s 4 src [1] := by
    unfold zeroizeDestroy
    rw [hroot]
  have hlog : zeroize s src = closeWindow (zeroizeDestroy (ledgerPut s 4 src [1])) 5 src := by
    unfold zeroize
    rw [hr]
    rfl
  rw [hlog, hdestroy]

/-- The tick at its end: it sticks there, once, and is logged. -/
theorem tickStuck_sticks (h : s.tamp.stuckDone = false) : (tickStuck s).tamp.tick = 2 ^ 48 - 1 ∧ (tickStuck s).tamp.stuckDone = true ∧
    (s.tamp.ledger.length < 256 → (tickStuck s).tamp.ledger.length = s.tamp.ledger.length + 1) := by
  have hpass : (passTicks s (2 ^ 48 - 1 - s.tamp.tick)).tamp =
      { s.tamp with tick := stick 48 (s.tamp.tick + (2 ^ 48 - 1 - s.tamp.tick)), winTicks := s.tamp.winTicks - (2 ^ 48 - 1 - s.tamp.tick) } := by
    unfold passTicks
    dsimp only
    split <;> split <;> rfl
  have htick : stick 48 (s.tamp.tick + (2 ^ 48 - 1 - s.tamp.tick)) = 2 ^ 48 - 1 := by
    unfold stick
    omega
  unfold tickStuck
  rw [if_neg (by rw [h]; decide)]
  dsimp only
  generalize passTicks s (2 ^ 48 - 1 - s.tamp.tick) = p at hpass
  generalize hu : (p.setTamp (fun t => { t with stuckDone := true })).flag Reg.TAMP_STAT_TICK_STUCK true = u
  have hut : u.tamp = { p.tamp with stuckDone := true } := hu ▸ rfl
  have hledger : u.tamp.ledger = s.tamp.ledger := by rw [hut, hpass]
  refine ⟨?_, ?_, fun hl => ?_⟩
  · rw [(ledgered_put u 0xB 0x3F []).frame]
    dsimp only
    rw [hut, hpass, htick]
  · rw [(ledgered_put u 0xB 0x3F []).frame]
    dsimp only
    rw [hut]
  · rw [length_ledgerPut (hledger ▸ hl) (by decide) (by decide), hledger]

/-- Loss of the tamper domain's power. -/
theorem domainLoss_loses (h : s.tamp.main = false) : (domainLoss s).tamp.root = none ∧ (domainLoss s).tamp.ledger = [] ∧ (domainLoss s).tamp.tick = 0 ∧
    (domainLoss s).tamp.lost = true ∧ (domainLoss s).jnl.headValid = false ∧ (domainLoss s).rd Reg.TAMP_STAT_TAMPER = (if s.otp.comm > 0 then 3 else 0) := by
  unfold domainLoss
  rw [if_neg (by rw [h]; decide)]
  exact ⟨rfl, rfl, rfl, rfl, rfl, rd_tampRefresh_tamper _⟩

end Zeroization

/-- Settles O42: tamper sensors, the ledger, zeroization and loss of the domain. -/
theorem sensorsAndZeroization : Obligations.SensorsAndZeroization := by
  intro s
  refine ⟨fun n a hx => ⟨?_, fun hn ha => ?_, fun hn ha => ?_, fun hn ha => ?_⟩, fun n hx hn hlt => ⟨fun hr => ?_, fun hr => ?_⟩, fun hm => ?_, fun hm => ?_,
    fun src r hr => ⟨_, rfl, zeroize_destroys src hr rfl⟩, fun src hr => zeroize_logs src hr, fun typ src data hl h1 h2 => ?_, fun h => ?_,
    fun h => ⟨_, rfl, tickStuck_sticks h⟩, fun toMain => rfl, fun hm => ?_, fun hm => ⟨_, rfl, domainLoss_loses hm⟩⟩
  · exact congrArg Host.Outcome.next (takeSamples_clear s 0x20)
  · subst hn ha
    exact congrArg Host.Outcome.next (takeSamples_counts hx rfl (.inr (by rw [sensFilter_shield]; decide)))
  · subst hn ha
    refine congrArg Host.Outcome.next ((takeSamples_asserts hx (by rw [sensFilter_shield])).trans ?_)
    rw [respond_one, sensResponse_shield]
    rfl
  · subst hn ha
    exact congrArg Host.Outcome.next (takeSamples_counts hx rfl (.inl rfl))
  · exact congrArg Host.Outcome.next (clkTamp_logs hx hn hr rfl)
  · exact congrArg Host.Outcome.next (clkTamp_alarms hx hn hr rfl)
  · exact congrArg Host.Outcome.next (if_pos hm)
  · exact congrArg Host.Outcome.next (if_neg (by rw [hm]; decide))
  · rw [ledgerPut_appends hl h1 h2]
    exact ⟨ledger_ledgerStore_end _, used_ledgerStore_end hl _⟩
  · exact congrArg Host.Outcome.next (if_pos h)
  · exact congrArg Host.Outcome.next (if_pos hm)

end Sys2Proof.Machine
end


section
/-! SUPPORT. O43: custody cells, configuration words, the alarm and the maintenance window. -/
namespace Sys2Proof.Machine
open Sys2Proof

section Cells
variable {s : State} {c : Nat}

/-! ### What keeps the cell records -/

theorem cells_ledgerPut (s : State) (typ src : Nat) (data : List Octet) : (ledgerPut s typ src data).tamp.cells = s.tamp.cells := by
  rw [(ledgered_put s typ src data).frame]

theorem cells_closeWindow (s : State) (cause src : Nat) : (closeWindow s cause src).tamp.cells = s.tamp.cells := by
  have hmode : ∀ (s : State) (m row : Nat), (setMode s m row).tamp = s.tamp := fun s m row => (recorded_setModeWith s m row 0).tamp
  unfold closeWindow
  dsimp only
  split
  · rfl
  · split
    · rw [hmode, cells_ledgerPut]
      rfl
    · rw [cells_ledgerPut]
      rfl

theorem cells_zeroizeDestroy (s : State) : (zeroizeDestroy s).tamp.cells = s.tamp.cells := by
  unfold zeroizeDestroy
  split
  · rfl
  · dsimp only
    split <;> rfl

theorem cells_zeroize (s : State) (src : Nat) : (zeroize s src).tamp.cells = s.tamp.cells :=
  (cells_closeWindow ..).trans ((cells_zeroizeDestroy _).trans (cells_ledgerPut ..))

theorem cells_respond_one (s : State) (c : Nat) : (respond s [c]).tamp.cells = s.tamp.cells := by
  rw [respond_one]
  split
  · exact cells_ledgerPut ..
  · exact cells_ledgerPut s 3 c []
  · exact cells_zeroize ..

theorem cells_takeSamples_one (s : State) (c : Nat) (b : Bool) : (takeSamples s [(c, b)]).tamp.cells = s.tamp.cells := by
  cases b with
  | false =>
    rw [takeSamples_clear]
    rfl
  | true =>
    generalize hx : tget Sensor.clean s.tamp.sens c = x
    obtain ⟨n, a⟩ := x
    by_cases h : a = true ∨ min (n + 1) (sensFilter s c) < sensFilter s c
    · rw [takeSamples_counts hx rfl h]
      rfl
    · have ha : a = false := Bool.eq_false_iff.mpr fun ha => h (.inl ha)
      subst ha
      have hn : sensFilter s c ≤ n + 1 := by
        have hno : ¬ min (n + 1) (sensFilter s c) < sensFilter s c := fun hlt => h (.inr hlt)
        omega
      rw [takeSamples_asserts hx hn, cells_respond_one]
      rfl

theorem cells_cartAlert (s : State) : (cartAlert s).tamp = s.tamp := by
  have hconf : ∀ s : State, (gpioConflict s).tamp = s.tamp := by
    intro s
    unfold gpioConflict
    split
    · rfl
    · rfl
  unfold cartAlert
  split
  · rfl
  · exact hconf _

/-! ### Commands of the cells' bus -/

theorem cellStart_busy (hg : s.on Reg.CELL_CMD_GO = true) (c : Nat) : (∀ act, cellStart s c act = s) ∧ cellAccept s c = s ∧ cellReject s c = s :=
  ⟨fun _ => if_pos hg, if_pos hg, if_pos hg⟩

theorem cellStart_starts (hg : s.on Reg.CELL_CMD_GO = false) (c act : Nat) :
    cellStart s c act = ((s.wr Reg.CELL_CMD_ACTION act).wr Reg.CELL_CMD_CELL c).flag Reg.CELL_CMD_GO true := if_neg (by rw [hg]; decide)

/-- The state after acceptance of a cell, apart from its record. -/
def cellAccepted (s : State) (c : Nat) : State :=
  ((((s.wr Reg.CELL_CMD_ACTION 2).wr Reg.CELL_CMD_CELL c).flag Reg.CELL_CMD_GO true).flag (Reg.CELL_STAT_AUTH_OK c) true).flag (Reg.CELL_STAT_AUTH_FAIL c) false

theorem on_cellAccepted_window (s : State) (c : Nat) : (cellAccepted s c).on Reg.TAMP_STAT_WINDOW = s.on Reg.TAMP_STAT_WINDOW := by
  have hfail : Reg.TAMP_STAT_WINDOW.place ≠ (Reg.CELL_STAT_AUTH_FAIL c).place := by
    simp only [Fld.place, Reg.TAMP_STAT_WINDOW, Reg.CELL_STAT_AUTH_FAIL]
    omega
  have hok : Reg.TAMP_STAT_WINDOW.place ≠ (Reg.CELL_STAT_AUTH_OK c).place := by
    simp only [Fld.place, Reg.TAMP_STAT_WINDOW, Reg.CELL_STAT_AUTH_OK]
    omega
  rw [cellAccepted, State.on_flag_place _ _ hfail, State.on_flag_place _ _ hok, State.on_flag_place _ _ (by decide), State.on_wr_place _ _ (by decide),
    State.on_wr_place _ _ (by decide)]

/-- The record that acceptance inside a window makes, and its ledger entry. -/
def cellRecorded (b : State) (c : Nat) : State :=
  let o := cellResp b
  let serial := ofBe (octAt o 0 8)
  let rated := ofBe (octAt o 8 4) % 2 ^ 24
  let s := b.setCell c ⟨serial, rated, 0⟩
  let s := (s.flag (cellDue c) false).flag (Reg.CELL_STAT_EXPIRED c) false
  let s := s.setTamp (fun t => { t with sens := tdel t.sens (0x28 + c) })
  cartAlert (ledgerPut s 5 0x31 (octAt o 0 8 ++ leOctets 4 rated ++ leOctets 1 c))

theorem cellAccept_of (hg : s.on Reg.CELL_CMD_GO = false) (c : Nat) : cellAccept s c =
    if s.on Reg.TAMP_STAT_WINDOW ∧ bit s.tamp.winCells c then cellRecorded (cellAccepted s c) c else cellAccepted s c := by
  have hacc : cellAccept s c = if (cellAccepted s c).on Reg.TAMP_STAT_WINDOW ∧ bit s.tamp.winCells c then cellRecorded (cellAccepted s c) c
      else cellAccepted s c := by
    unfold cellAccept
    rw [if_neg (by rw [hg]; decide)]
    dsimp only
    rw [cellStart_starts hg]
    rfl
  rw [hacc, on_cellAccepted_window]

theorem State.cell_setCell (s : State) (c : Nat) (r : CellRec) : (s.setCell c r).cell c = r := (tget_tset ..).trans (if_pos rfl)

/-- What an accepted cell's record and ledger entry leave. -/
theorem cellEntered_spec (b : State) (c : Nat) (r : CellRec) (d : List Octet) {u : State}
    (hu : (((b.setCell c r).flag (cellDue c) false).flag (Reg.CELL_STAT_EXPIRED c) false).setTamp (fun t => { t with sens := tdel t.sens (0x28 + c) }) = u) :
    (cartAlert (ledgerPut u 5 0x31 d)).cell c = r ∧
      (b.tamp.ledger.length < 256 → (cartAlert (ledgerPut u 5 0x31 d)).tamp.ledger.length = b.tamp.ledger.length + 1) := by
  have hcell : u.cell c = r := hu ▸ State.cell_setCell b c r
  have hledger : u.tamp.ledger = b.tamp.ledger := hu ▸ rfl
  refine ⟨?_, fun hl => ?_⟩
  · rw [State.cell, cells_cartAlert, cells_ledgerPut]
    exact hcell
  · rw [cells_cartAlert, length_ledgerPut (hledger ▸ hl) (by decide) (by decide), hledger]

theorem cellRecorded_spec (b : State) (c : Nat) :
    (cellRecorded b c).cell c = ⟨ofBe (octAt (cellResp b) 0 8), ofBe (octAt (cellResp b) 8 4) % 2 ^ 24, 0⟩ ∧
      (b.tamp.ledger.length < 256 → (cellRecorded b c).tamp.ledger.length = b.tamp.ledger.length + 1) := by
  unfold cellRecorded
  exact cellEntered_spec b c _ _ rfl

theorem cellReject_rejects (hg : s.on Reg.CELL_CMD_GO = false) (c : Nat) : cellReject s c = takeSamples
    (((((s.wr Reg.CELL_CMD_ACTION 3).wr Reg.CELL_CMD_CELL c).flag Reg.CELL_CMD_GO true).flag (Reg.CELL_STAT_AUTH_OK c) false).flag
      (Reg.CELL_STAT_AUTH_FAIL c) true) [(0x26 + c, true)] := by
  unfold cellReject
  rw [if_neg (by rw [hg]; decide)]
  dsimp only
  rw [cellStart_starts hg]

/-- The end of a bus action: no answer, or the answer of READ_SERIAL or CHALLENGE. -/
theorem cellCmdDone_of (hg : s.on Reg.CELL_CMD_GO = true) {b : State} (hb : (s.flag Reg.CELL_CMD_GO false).flag Reg.CELL_CMD_STAT_DONE true = b)
    (answer : Option (List Octet)) : cellCmdDone s answer = match answer with
    | none => b.flag Reg.CELL_CMD_STAT_ERR (decide (s.rd Reg.CELL_CMD_ACTION < 2))
    | some o =>
      if s.rd Reg.CELL_CMD_ACTION = 0 then cellIdentity (b.flag Reg.CELL_CMD_STAT_ERR false) (s.rd Reg.CELL_CMD_CELL) (ofBe (octAt o 0 8))
      else if s.rd Reg.CELL_CMD_ACTION = 1 then
        ((List.range 106).zip (packWords (fitOctets 212 o))).foldl (fun s e => s.wr (Reg.CELL_RESP e.1) e.2.toNat) (b.flag Reg.CELL_CMD_STAT_ERR false)
      else b.flag Reg.CELL_CMD_STAT_ERR false := by
  subst hb
  unfold cellCmdDone
  rw [if_neg (not_not_intro hg)] <;> rfl

theorem place_cellResp_ne {i j : Nat} (h : i ≠ j) : (Reg.CELL_RESP i).place ≠ (Reg.CELL_RESP j).place := by
  simp only [Fld.place, Reg.CELL_RESP]
  omega

/-- What a row of word registers reads after it is written from word `k` on. -/
theorem rd_writeRow {g : Nat → Fld} (hg : ∀ i j, i ≠ j → (g i).place ≠ (g j).place) (hwid : ∀ i, (g i).wid = 18) (l : List Word) (k : Nat) (s : State) {w : Nat}
    (hw : w < k + l.length) (hk : k ≤ w) :
    some ((((List.range' k l.length).zip l).foldl (fun s e => s.wr (g e.1) e.2.toNat) s).rd (g w)) = l[w - k]?.map BitVec.toNat := by
  have hlow : ∀ (l : List Word) (k : Nat) (s : State), w < k →
      (((List.range' k l.length).zip l).foldl (fun s e => s.wr (g e.1) e.2.toNat) s).rd (g w) = s.rd (g w) := by
    intro l
    induction l with
    | nil => exact fun _ _ _ => rfl
    | cons x l ih =>
      intro k s hlt
      rw [List.length_cons, List.range'_succ, List.zip_cons_cons, List.foldl_cons, ih _ _ (by omega), State.rd_wr_place _ _ (hg _ _ (by omega))]
  induction l generalizing k s with
  | nil =>
    simp only [List.length_nil] at hw
    omega
  | cons x l ih =>
    rw [List.length_cons, List.range'_succ, List.zip_cons_cons, List.foldl_cons]
    by_cases hwk : w = k
    · subst hwk
      rw [hlow _ _ _ (Nat.lt_succ_self w), State.rd_wr, Nat.sub_self, hwid]
      simp only [List.getElem?_cons_zero, Option.map_some]
      exact congrArg some (Nat.mod_eq_of_lt x.isLt)
    · have hsucc : w - k = (w - (k + 1)) + 1 := by omega
      rw [ih (k + 1) _ (by simp only [List.length_cons] at hw; omega) (by omega), hsucc, List.getElem?_cons_succ]

/-- The response words leave the bus's own fields. -/
theorem on_writeResp (l : List (Nat × Word)) (s : State) {f : Fld} (hf : f.place < (Reg.CELL_RESP 0).place) :
    (l.foldl (fun s e => s.wr (Reg.CELL_RESP e.1) e.2.toNat) s).on f = s.on f := by
  refine foldl_keeps (State.on · f) (fun s e => State.on_wr_place s _ fun h => ?_) l s
  rw [h] at hf
  simp only [Fld.place, Reg.CELL_RESP] at hf
  omega

theorem length_packWords (o : List Octet) : (packWords o).length = (o.length + 1) / 2 := by
  rw [packWords, List.length_map, List.length_range]

end Cells

section Window
variable {s : State}

/-- The identity that a cell shows, where it is present. -/
theorem cellHour_spec (s : State) (c : Nat) : ((cellHour s c).cell c).used = min ((s.cell c).used + 1) (2 ^ 24 - 1) ∧
    ((cellHour s c).cell c).serial = (s.cell c).serial ∧ ((cellHour s c).cell c).rated = (s.cell c).rated := by
  have hcell : (cellHour s c).cell c = { s.cell c with used := stick 24 ((s.cell c).used + 1) } := by
    unfold cellHour
    dsimp only
    rw [State.cell, cells_takeSamples_one, cells_cartAlert]
    refine Eq.trans ?_ (State.cell_setCell s c _)
    split
    · exact congrArg (tget CellRec.none · c) (cells_ledgerPut ..)
    · rfl
  rw [hcell]
  exact ⟨rfl, rfl, rfl⟩

theorem winClose_of (s : State) (m : Requester) : winClose s m = if s.lead ≠ m.lead then dropFollower s m else closeWindow s 2 0x3F := rfl

/-- A configuration word by the lead, while the words are open. -/
theorem configWrite_of {m : Requester} {k v : Nat} (hl : s.lead = m.lead) : configWrite s m k v =
    if ¬ isConfigWord k then s
    else if s.on Reg.TAMP_STAT_CFG_LOCKED then hostLock s m.master (0x50000 + 4 * k) s.mc.priv
    else if configOk k v then configPut s k v else s := if_neg (not_not_intro hl)

/-- The alarm is acknowledged where the entry is the last one's, on main power, and no sensor holds it. -/
theorem alarmAck_of {m : Requester} {i : Nat} (hl : s.lead = m.lead) {b : State} (hb : s.wr Reg.TAMP_CTL_ACK_INDEX i = b) :
    alarmAck s m i = if s.on Reg.TAMP_STAT_ALARM = true ∧ i = s.rd Reg.LAST_ALARM ∧ s.tamp.main = true ∧
        ¬ s.tamp.sens.any (fun e => e.2.asserted && decide (sensResponse s e.1 = 1)) then
      tampRefresh (ledgerPut (b.flag Reg.TAMP_STAT_ALARM false) 0xC 0x3F (leOctets 2 i)) else b.flag Reg.TAMP_STAT_ACK_REF true := by
  have hresp : ∀ c, sensResponse b c = sensResponse s c := by
    intro c
    have hrd : b.rd (Reg.SENS_CFG_RESPONSE c) = s.rd (Reg.SENS_CFG_RESPONSE c) := by
      rw [← hb, State.rd_wr_place _ _ (by simp only [Fld.place, Reg.SENS_CFG_RESPONSE, Reg.TAMP_CTL_ACK_INDEX]; omega)]
    unfold sensResponse
    rw [hrd, ← hb]
    rfl
  have halarm : b.on Reg.TAMP_STAT_ALARM = s.on Reg.TAMP_STAT_ALARM := hb ▸ State.on_wr_place _ _ (by decide)
  have hlast : b.rd Reg.LAST_ALARM = s.rd Reg.LAST_ALARM := hb ▸ State.rd_wr_place _ _ (by decide)
  unfold alarmAck
  rw [if_neg (not_not_intro hl)]
  dsimp only
  rw [hb, halarm, hlast]
  simp only [hresp]
  rw [← hb]
  rfl

/-- No asserted sensor's response is the alarm. -/
theorem noneHolds_iff (s : State) : (¬ s.tamp.sens.any (fun e => e.2.asserted && decide (sensResponse s e.1 = 1))) ↔
    ∀ e ∈ s.tamp.sens, e.2.asserted = true → sensResponse s e.1 ≠ 1 := by
  rw [List.any_eq_true]
  constructor
  · intro h e he ha hr
    exact h ⟨e, he, by rw [ha, hr]; rfl⟩
  · rintro h ⟨e, he, hx⟩
    obtain ⟨ha, hr⟩ := Bool.and_eq_true_iff.mp hx
    exact h e he ha (of_decide_eq_true hr)

theorem closeWindow_shut (hw : s.on Reg.TAMP_STAT_WINDOW = false) (cause src : Nat) : closeWindow s cause src = s := if_pos (by rw [hw]; decide)

/-- The close of a window outside Maintenance mode. -/
theorem closeWindow_closes (cause src : Nat) (hw : s.on Reg.TAMP_STAT_WINDOW = true) (hm : s.mode ≠ mMaintenance) {t : State} (ht : closeWindow s cause src = t) :
    t.on Reg.TAMP_STAT_WINDOW = false ∧ t.rd Reg.WIN_LEFT = 0 ∧ t.tamp.winCells = 0 ∧ ∀ k ∈ suspended s, tget Sensor.clean t.tamp.sens k = Sensor.clean := by
  subst ht
  generalize hu : ((s.flag Reg.TAMP_STAT_WINDOW false).wr Reg.WIN_LEFT 0).setTamp (fun t => { t with
      sens := t.sens.filter (fun e => !decide (e.1 ∈ suspended s)), winCells := 0, winTicks := 0, winDur := 0 }) = u
  have hled := ledgered_put u 7 src (windowData s 2 cause)
  have hmode : (ledgerPut u 7 src (windowData s 2 cause)).mode ≠ mMaintenance := by
    rw [State.mode, hled.rd _ (by decide) (by decide) (by decide) (by decide), ← hu]
    have hrd : ((s.flag Reg.TAMP_STAT_WINDOW false).wr Reg.WIN_LEFT 0).rd Reg.MODE_STAT_MODE = s.rd Reg.MODE_STAT_MODE := by
      rw [State.rd_wr_place _ _ (by decide), State.rd_flag_place _ _ (by decide)]
    exact fun h => hm (hrd.symm.trans h)
  have hclose : closeWindow s cause src = ledgerPut u 7 src (windowData s 2 cause) := by
    unfold closeWindow
    rw [if_neg (not_not_intro hw)]
    dsimp only
    rw [hu, if_neg fun h => hmode h.2]
  rw [hclose]
  refine ⟨?_, ?_, ?_, fun k hk => ?_⟩
  · rw [on_ledgerPut _ _ _ _ (by decide) (by decide) (by decide) (by decide), ← hu]
    have hoff : ((s.flag Reg.TAMP_STAT_WINDOW false).wr Reg.WIN_LEFT 0).on Reg.TAMP_STAT_WINDOW = false :=
      (State.on_wr_place _ _ (by decide)).trans (State.on_flag _ Nat.one_ne_zero _)
    exact hoff
  · rw [hled.rd _ (by decide) (by decide) (by decide) (by decide), ← hu]
    have hleft : ((s.flag Reg.TAMP_STAT_WINDOW false).wr Reg.WIN_LEFT 0).rd Reg.WIN_LEFT = 0 := State.rd_wr ..
    exact hleft
  · rw [hled.frame, ← hu]
    rfl
  · rw [sens_ledgerPut, ← hu]
    refine (tget_filter Sensor.clean s.tamp.sens (fun j => !decide (j ∈ suspended s)) k).trans (if_neg ?_)
    rw [decide_eq_true hk]
    decide

end Window

/-- Settles O43: cells, configuration words, the alarm and the maintenance window. -/
theorem cellsAndWindow : Obligations.CellsAndWindow := by
  intro s c m
  refine ⟨fun hg => ?_, fun hg => ⟨?_, ?_, ⟨fun h => ?_, fun hw hb => ?_⟩, ?_⟩, fun answer => ⟨fun hg => ?_, fun hg => ?_⟩, fun serial => ⟨fun hp => ?_, fun hp => ?_⟩,
    ⟨_, rfl, cellHour_spec s c⟩, fun k v => ⟨fun hl => ?_, fun hl hk => ?_, fun hl hk hlock => ?_, fun hl hk hlock => ?_⟩,
    fun i => ⟨fun hl => ?_, fun hl => ⟨fun hmay => ?_, fun hmay => ?_⟩⟩, fun hl => ?_, fun hl => ?_, fun hw => ?_, fun hw => ⟨?_, ?_⟩, fun cause src hw hm => ?_⟩
  · obtain ⟨hstart, hacc, hrej⟩ := cellStart_busy hg c
    exact ⟨congrArg Host.Outcome.next (hstart 0), congrArg Host.Outcome.next (hstart 1), congrArg Host.Outcome.next hacc, congrArg Host.Outcome.next hrej⟩
  · exact congrArg Host.Outcome.next (cellStart_starts hg c 0)
  · exact congrArg Host.Outcome.next (cellStart_starts hg c 1)
  · refine congrArg Host.Outcome.next ((cellAccept_of hg c).trans (if_neg ?_))
    rintro ⟨hw, hb⟩
    rcases h with h | h
    · rw [hw] at h
      cases h
    · rw [hb] at h
      cases h
  · exact ⟨_, congrArg Host.Outcome.next ((cellAccept_of hg c).trans (if_pos ⟨hw, hb⟩)), cellRecorded_spec (cellAccepted s c) c⟩
  · exact congrArg Host.Outcome.next (cellReject_rejects hg c)
  · exact congrArg Host.Outcome.next (if_pos (by rw [hg]; decide))
  · have hdone := cellCmdDone_of hg rfl answer
    refine ⟨fun ha => ?_, fun o ha h0 => ?_, fun o ha h1 => ?_⟩
    · subst ha
      exact congrArg Host.Outcome.next hdone
    · subst ha
      exact congrArg Host.Outcome.next (hdone.trans (if_pos h0))
    · subst ha
      refine ⟨_, congrArg Host.Outcome.next (hdone.trans ((if_neg (by rw [h1]; decide)).trans (if_pos h1))), ?_, fun w hw => ?_⟩
      · exact (on_writeResp _ _ (by decide)).trans (State.on_flag _ Nat.one_ne_zero _)
      · have hlen : (packWords (fitOctets 212 o)).length = 106 := by
          rw [length_packWords, length_fitOctets]
        have hrd := rd_writeRow (g := Reg.CELL_RESP) (fun _ _ => place_cellResp_ne) (fun _ => rfl) (packWords (fitOctets 212 o)) 0 (((s.flag Reg.CELL_CMD_GO false).flag Reg.CELL_CMD_STAT_DONE true).flag
          Reg.CELL_CMD_STAT_ERR false) (w := w) (by omega) (Nat.zero_le w)
        rw [hlen, ← List.range_eq_range'] at hrd
        exact hrd
  · exact congrArg Host.Outcome.next (if_neg (by rw [hp]; decide))
  · exact congrArg Host.Outcome.next (if_pos hp)
  · exact congrArg Host.Outcome.next (if_pos hl)
  · exact congrArg Host.Outcome.next ((configWrite_of hl).trans (if_pos (by rw [hk]; decide)))
  · exact congrArg Host.Outcome.next ((configWrite_of hl).trans ((if_neg (not_not_intro hk)).trans (if_pos hlock)))
  · exact congrArg Host.Outcome.next ((configWrite_of hl).trans ((if_neg (not_not_intro hk)).trans (if_neg (by rw [hlock]; decide))))
  · exact congrArg Host.Outcome.next (if_pos hl)
  · obtain ⟨ha, hi, hmain, hnone⟩ := hmay
    exact congrArg Host.Outcome.next ((alarmAck_of hl rfl).trans (if_pos ⟨ha, hi, hmain, (noneHolds_iff s).mpr hnone⟩))
  · refine congrArg Host.Outcome.next ((alarmAck_of hl rfl).trans (if_neg ?_))
    rintro ⟨ha, hi, hmain, hnone⟩
    exact hmay ⟨ha, hi, hmain, (noneHolds_iff s).mp hnone⟩
  · exact congrArg Host.Outcome.next (if_pos hl)
  · exact congrArg Host.Outcome.next (if_neg (not_not_intro hl))
  · exact congrArg Host.Outcome.next (congrArg (closeWindow · 1 0x3F) (if_pos hw))
  · refine congrArg Host.Outcome.next ((congrArg (closeWindow · 1 0x3F) (if_neg ?_)).trans (closeWindow_shut hw 1 0x3F))
    rw [hw]
    decide
  · exact closeWindow_shut hw
  · exact ⟨_, rfl, closeWindow_closes cause src hw hm rfl⟩

end Sys2Proof.Machine
end


section
/-! SUPPORT. O44: the lead, lock tokens, and what time ends. -/
namespace Sys2Proof.Machine
open Sys2Proof

section Lead
variable {s : State} {m : Requester}

/-- CLAIM of a free lead by a requester that may hold it. -/
theorem claimLead_of (hu : s.hostUp = true) (hx : s.reqExists m = true) : claimLead s m =
    if s.lead ≠ 0 ∨ (m = .mc ∧ ¬ s.on Reg.LEAD_STAT_MC_ALLOWED) then s.flag (Reg.LEAD_STAT_REFUSED m.idx) true else changeLead s m.lead 4 m.master none := by
  refine if_neg ?_
  rw [hu, hx]
  decide

theorem claimLead_drops (h : s.hostUp = false ∨ s.reqExists m = false) : claimLead s m = s := by
  refine if_pos ?_
  rcases h with h | h
  · exact .inl (by rw [h]; decide)
  · exact .inr (by rw [h]; decide)

theorem releaseRole_of (hu : s.hostUp = true) : releaseRole s m = if s.lead = m.lead then changeLead s 0 2 m.master none else dropFollower s m :=
  if_neg (by rw [hu]; decide)

/-- Ballots that are not open do not lapse. -/
theorem lapseAll_none {cause : Nat} {keep : Nat → Ballot → Bool} (h : ∀ b < 32, (s.ballot b).st ≠ 1 ∧ (s.ballot b).st ≠ 2) : lapseAll s cause keep = s := by
  have hstep : ∀ l : List Nat, (∀ b ∈ l, b < 32) → l.foldl (fun s b => if keep b (s.ballot b) then s else lapse s b cause) s = s := by
    intro l
    induction l with
    | nil => exact fun _ => rfl
    | cons b l ih =>
      intro hl
      obtain ⟨h1, h2⟩ := h b (hl b List.mem_cons_self)
      have hone : (if keep b (s.ballot b) then s else lapse s b cause) = s := by
        split
        · rfl
        · exact if_neg fun h => h.elim h1 h2
      rw [List.foldl_cons, hone]
      exact ih fun c hc => hl c (List.mem_cons_of_mem _ hc)
  exact hstep _ fun b hb => List.mem_range.mp hb

/-- A change of lead where no ballot is open, no debug session runs and no window stands: the epoch, a record and an event. -/
theorem changeLead_quiet {new cause src : Nat} {keep : Option Nat} (hsrc : src < 0xE0) (he : s.rd Reg.LEAD_EPOCH + 1 < 2 ^ 32) {t : State}
    (ht : t = pfEvent (jrecG ((s.wr Reg.LEAD_STAT_LEAD new).wr Reg.LEAD_EPOCH (s.rd Reg.LEAD_EPOCH + 1)) 0x0110 src
      (s.rd Reg.LEAD_EPOCH + 1) (leOctets 1 s.lead ++ leOctets 1 new ++ leOctets 1 cause) false false false) 8)
    (hb : ∀ b < 32, (t.ballot b).st ≠ 1 ∧ (t.ballot b).st ≠ 2) (hd : t.on Reg.DBG_STAT_ACTIVE = false) (hw : t.on Reg.TAMP_STAT_WINDOW = false) :
    changeLead s new cause src keep = t := by
  have hepoch : (s.wr Reg.LEAD_STAT_LEAD new).rd Reg.LEAD_EPOCH = s.rd Reg.LEAD_EPOCH := State.rd_wr_place _ _ (by decide)
  have hnew : ((s.wr Reg.LEAD_STAT_LEAD new).wr Reg.LEAD_EPOCH (s.rd Reg.LEAD_EPOCH + 1)).rd Reg.LEAD_EPOCH = s.rd Reg.LEAD_EPOCH + 1 := by
    rw [State.rd_wr]
    exact Nat.mod_eq_of_lt he
  unfold changeLead
  dsimp only
  rw [hepoch, if_pos he, hnew, if_neg (Nat.not_le.mpr hsrc), ← ht, lapseAll_none hb]
  have hdebug : endDebug t = t := if_pos (by rw [hd]; decide)
  rw [hdebug, closeWindow_shut hw]

end Lead

section Ends
variable {s : State}

theorem expireBallot_open {b : Nat} (hx : (s.ballot b).st = 1 ∨ (s.ballot b).st = 2) : expireBallot s b =
    pfEvent (jrec ((passTicks s ((s.ballot b).expiry - s.tamp.tick)).setBallot b { s.ballot b with st := 4 }) 0x0105 0xE4 (s.ballot b).id
      (ballotPayload (s.ballot b) 0 1)) 9 := by
  have hb : (passTicks s ((s.ballot b).expiry - s.tamp.tick)).ballot b = s.ballot b := by
    unfold passTicks
    dsimp only
    split <;> split <;> rfl
  have hlapse := lapse_open (b := passTicks s ((s.ballot b).expiry - s.tamp.tick)) (e := b) (cause := 1) (by rw [hb]; exact hx)
  rw [hb] at hlapse
  exact (if_pos hx).trans hlapse

/-- The end of a session of level 1. -/
theorem endDebugNow_plain (ha : s.on Reg.DBG_STAT_ACTIVE = true) (hl : s.rd Reg.DBG_STAT_LEVEL ≠ 2) :
    endDebugNow s = clearDebug (jrec s 0x0602 0xE7 (s.rd Reg.DBG_STAT_LEVEL) (s.dbg.cert.take 16)) := by
  have hend : endDebug s = clearDebug (jrec s 0x0602 0xE7 (s.rd Reg.DBG_STAT_LEVEL) (s.dbg.cert.take 16)) :=
    (if_neg (not_not_intro ha)).trans (if_neg hl)
  exact (if_neg fun h => hl h.2).trans hend

end Ends

/-- A token's holder, read after it is written. -/
theorem rd_holder (s : State) (n v : Nat) (h : v < 256) : (s.wr (Reg.TOKEN_HOLDER n) v).rd (Reg.TOKEN_HOLDER n) = v := by
  rw [State.rd_wr]
  exact Nat.mod_eq_of_lt h

theorem tokenId_lt (k : TokenMaster) : tokenId k < 256 := by
  cases k <;> decide

/-- A token given back is free and not broken. -/
theorem tokenGiven (s : State) (n : Nat) : ((s.wr (Reg.TOKEN_HOLDER n) 0xFF).flag (Reg.TOKEN_BROKEN n) false).rd (Reg.TOKEN_HOLDER n) = 0xFF ∧
    ((s.wr (Reg.TOKEN_HOLDER n) 0xFF).flag (Reg.TOKEN_BROKEN n) false).on (Reg.TOKEN_BROKEN n) = false := by
  refine ⟨?_, State.on_flag _ Nat.one_ne_zero _⟩
  rw [State.rd_flag_place _ _ (by simp only [Fld.place, Reg.TOKEN_HOLDER, Reg.TOKEN_BROKEN]; omega)]
  exact rd_holder s n 0xFF (by decide)

/-- Settles O44: the lead, lock tokens, expiry of ballots and of debug sessions. -/
theorem leadAndTokens : Obligations.LeadAndTokens := by
  intro s m
  refine ⟨fun h => ?_, fun hu hx h => ?_, fun hu hx hl hm => ?_, fun hu => ?_, fun hu hl => ?_, fun hu hl => ?_, fun new cause src keep hsrc he _ _ _ t ht hb hd hw => ?_,
    fun n k => ⟨fun h => ?_, fun h => ?_, fun h => ?_, fun h => ?_⟩, fun b => ⟨fun h1 h2 => ?_, fun h => ?_⟩, fun ha => ?_, fun ha => ?_, endDebugNow_plain⟩
  · exact congrArg Host.Outcome.next (claimLead_drops h)
  · refine congrArg Host.Outcome.next ((claimLead_of hu hx).trans (if_pos ?_))
    exact h.imp id fun hm => ⟨hm.1, by rw [hm.2]; decide⟩
  · refine congrArg Host.Outcome.next ((claimLead_of hu hx).trans (if_neg ?_))
    rintro (h | ⟨h, h'⟩)
    · exact h hl
    · exact hm.elim (fun hm => hm h) h'
  · exact congrArg Host.Outcome.next (if_pos (by rw [hu]; decide))
  · exact congrArg Host.Outcome.next ((releaseRole_of hu).trans (if_pos hl))
  · exact congrArg Host.Outcome.next ((releaseRole_of hu).trans (if_neg hl))
  · exact changeLead_quiet hsrc he ht hb hd hw
  · exact ⟨_, congrArg Host.Outcome.next (if_pos h), rd_holder s n _ (tokenId_lt k)⟩
  · exact congrArg Host.Outcome.next (if_neg h)
  · exact ⟨_, congrArg Host.Outcome.next (if_pos h), tokenGiven s n⟩
  · exact congrArg Host.Outcome.next (if_neg h)
  · exact congrArg Host.Outcome.next (if_neg fun h => h.elim h1 h2)
  · exact congrArg Host.Outcome.next (expireBallot_open h)
  · exact congrArg Host.Outcome.next (if_neg (by rw [ha]; decide))
  · exact congrArg Host.Outcome.next (if_pos ha)

end Sys2Proof.Machine
end


section
/-! SUPPORT. O45 and O46: the page ownership table, region registers, and the memory subsystem. -/
namespace Sys2Proof.Machine
open Sys2Proof

/-! ### Tables written in order -/

/-- What a table reads after values are written from place `b + k` on. -/
theorem tget_writeFrom {α : Type} [DecidableEq α] (d : α) (b j : Nat) (o : List α) (k : Nat) (t : Tab α) :
    tget d (((List.range' k o.length).zip o |>.map (fun e => (b + e.1, e.2))).foldl (fun t e => tset d t e.1 e.2) t) j =
      if b + k ≤ j ∧ j < b + k + o.length then nth d o (j - (b + k)) else tget d t j := by
  induction o generalizing k t with
  | nil =>
    simp only [List.length_nil, List.range'_zero, List.zip_nil_left, List.map_nil, List.foldl_nil]
    exact (if_neg (by omega)).symm
  | cons x o ih =>
    rw [List.length_cons, List.range'_succ, List.zip_cons_cons, List.map_cons, List.foldl_cons, ih (k + 1), tget_tset]
    dsimp only
    by_cases hj : j = b + k
    · subst hj
      rw [if_neg (by omega), if_pos rfl, if_pos (by omega), Nat.sub_self]
      rfl
    · rw [if_neg hj]
      by_cases hin : b + (k + 1) ≤ j ∧ j < b + (k + 1) + o.length
      · have hsucc : j - (b + k) = (j - (b + (k + 1))) + 1 := by omega
        rw [if_pos hin, if_pos (by omega), hsucc]
        rfl
      · rw [if_neg hin, if_neg (by omega)]

theorem length_unpackWords (w : List Nat) : (unpackWords w).length = 2 * w.length := by
  induction w with
  | nil => rfl
  | cons v w ih =>
    rw [unpackWords, List.flatMap_cons, List.length_append, List.length_cons, List.length_cons, List.length_nil, List.length_cons]
    have hw : (w.flatMap fun v => [BitVec.ofNat 8 v, BitVec.ofNat 8 (v / 512)]).length = 2 * w.length := ih
    omega

/-! ### The page ownership table -/

section Table
variable {s : State} {m p v : Nat}

/-- The registers that the check of a line may change. -/
def lineFields : List Fld := [Reg.MEM_UE_COUNT, Reg.MEM_STAT_UEO, Reg.MEM_CE_COUNT, Reg.MEM_STAT_CEO, Reg.MEM_STAT_UE, Reg.MEM_STAT_CTR_FAIL, Reg.MEM_ERR_ADDR_L,
  Reg.MEM_ERR_ADDR_H, Reg.MEM_ERR_INFO_KIND, Reg.MEM_ERR_INFO_MASTER, Reg.MEM_ERR_INFO_OCTETS, Reg.MEM_ERR_INFO_REGION, Reg.MEM_STAT_POISON_EVT,
  Reg.MEM_STAT_VSTUCK]

theorem rd_memCapture (s : State) (line kind master octets : Nat) {f : Fld} (hf : ∀ g ∈ lineFields, f.place ≠ g.place) :
    (memCapture s line kind master octets).rd f = s.rd f := by
  unfold memCapture
  dsimp only
  rw [State.rd_wr_place _ _ (hf _ (by decide)), State.rd_wr_place _ _ (hf _ (by decide)), State.rd_wr_place _ _ (hf _ (by decide)),
    State.rd_wr_place _ _ (hf _ (by decide)), State.wr2, State.rd_wr_place _ _ (hf _ (by decide)), State.rd_wr_place _ _ (hf _ (by decide))]

theorem rd_lineCheck (s : State) (line master : Nat) {f : Fld} (hf : ∀ g ∈ lineFields, f.place ≠ g.place) : (lineCheck s line master).1.rd f = s.rd f := by
  unfold lineCheck
  split
  · rfl
  · split
    · refine (rd_memCapture _ _ _ _ _ hf).trans ?_
      rw [State.rd_flag_place _ _ (hf _ (by decide)), State.rd_flag_place _ _ (hf _ (by decide)), State.rd_count_place _ (hf _ (by decide)) (hf _ (by decide))]
    · dsimp only
      split
      · rfl
      · split
        · refine (rd_memCapture _ _ _ _ _ hf).trans ((State.rd_count_place _ (hf _ (by decide)) (hf _ (by decide))).trans ?_)
          rfl
        · refine (rd_memCapture _ _ _ _ _ hf).trans ?_
          rw [State.rd_flag_place _ _ (hf _ (by decide)), State.rd_count_place _ (hf _ (by decide)) (hf _ (by decide))]

/-- A partial write changes no register but those that report on memory. -/
theorem rd_linePartialWrite (s : State) (line master : Nat) (o : List (Nat × Octet)) {f : Fld} (hf : ∀ g ∈ lineFields, f.place ≠ g.place) :
    (linePartialWrite s line master o).1.rd f = s.rd f := by
  unfold linePartialWrite
  split
  · rfl
  · split
    · exact (rd_memCapture _ _ _ _ _ hf).trans ((State.rd_flag_place _ _ (hf _ (by decide))).trans rfl)
    · dsimp only
      have hcheck := rd_lineCheck s line master hf
      generalize (lineCheck s line master).1 = t at hcheck
      unfold raiseVersion
      dsimp only
      by_cases hv : tget 0 t.mem.ver line ≥ 2 ^ 56 - 1
      · rw [if_pos hv]
        exact (State.rd_flag_place _ _ (hf _ (by decide))).trans hcheck
      · rw [if_neg hv]
        exact hcheck

/-- A field of the table or of its backing store's base is none that reports on memory. -/
theorem potEntry_ne_line (p : Nat) : ∀ g ∈ lineFields, (Reg.POT_ENTRY p).place ≠ g.place := by
  intro g hg h
  have hlt : ∀ g ∈ lineFields, g.place < (Reg.POT_ENTRY 0).place := by decide
  have := hlt g hg
  rw [← h] at this
  simp only [Fld.place, Reg.POT_ENTRY] at this
  omega

theorem rd_potPut_self (s : State) (p v : Nat) (hv : v < 2 ^ 16) : (potPut s p v).rd (Reg.POT_ENTRY p) = v := by
  have hset : (s.wr (Reg.POT_ENTRY p) v).rd (Reg.POT_ENTRY p) = v := by
    rw [State.rd_wr]
    exact Nat.mod_eq_of_lt hv
  unfold potPut
  dsimp only
  split
  · exact (rd_linePartialWrite _ _ _ _ (potEntry_ne_line p)).trans hset
  · exact hset

theorem rd_potPut_ne (s : State) (p v : Nat) {f : Fld} (hf : f.place ≠ (Reg.POT_ENTRY p).place) (hl : ∀ g ∈ lineFields, f.place ≠ g.place) :
    (potPut s p v).rd f = s.rd f := by
  have hset : (s.wr (Reg.POT_ENTRY p) v).rd f = s.rd f := State.rd_wr_place _ _ hf
  unfold potPut
  dsimp only
  split
  · exact (rd_linePartialWrite _ _ _ _ hl).trans hset
  · exact hset

theorem on_mark_wr_potEntry (s : State) (p v : Nat) (hp : p < 524288) :
    (s.wr (Reg.POT_ENTRY p) v).on Reg.POT_BACK_BASE16.mark = s.on Reg.POT_BACK_BASE16.mark :=
  State.on_wr_place _ _ (by simp only [Fld.place, Fld.mark, Reg.POT_BACK_BASE16, Reg.POT_ENTRY]; omega)

theorem potPut_unbacked (hb : s.on Reg.POT_BACK_BASE16.mark = false) (hp : p < 524288) : potPut s p v = s.wr (Reg.POT_ENTRY p) v :=
  if_neg (by rw [on_mark_wr_potEntry s p v hp, hb]; decide)

/-- With a backing store and no line in error, the entry's octets stand in it. -/
theorem potPut_backed (hb : s.on Reg.POT_BACK_BASE16.mark = true) (hp : p < 524288) (hpoison : s.mem.poison = []) (hbad : s.mem.bad = [])
    (hchain : s.mem.chainBad = []) (hstuck : (potPut s p v).on Reg.MEM_STAT_VSTUCK = false) : (potPut s p v).dramOctets (backAddr s p) 2 = leOctets 2 v := by
  generalize hu : s.wr (Reg.POT_ENTRY p) v = u
  have hbase : backAddr u p = backAddr s p := by
    rw [backAddr, ← hu, State.rd_wr_place _ _ (by simp only [Fld.place, Reg.POT_BACK_BASE16, Reg.POT_ENTRY]; omega), backAddr]
  have hput : potPut s p v = (linePartialWrite u (lineOf (backAddr s p)) 0xE7
      [(backAddr s p, BitVec.ofNat 8 v), (backAddr s p + 1, BitVec.ofNat 8 (v / 256))]).1 := by
    refine (if_pos ((on_mark_wr_potEntry s p v hp).trans hb)).trans ?_
    rw [hu, hbase]
  have hmem : u.mem = s.mem := hu ▸ rfl
  have hcheck : (lineCheck u (lineOf (backAddr s p)) 0xE7).1 = u := by
    unfold lineCheck
    rw [hmem, hpoison, hbad, hchain]
    rfl
  rw [hput] at hstuck ⊢
  generalize backAddr s p = a at hstuck hcheck ⊢
  unfold linePartialWrite at hstuck ⊢
  rw [hcheck, hmem, hpoison, hbad, hchain] at hstuck ⊢
  have hsound : ¬ tget false ([] : Tab Bool) (lineOf a) = true := Bool.false_ne_true
  have hfew : ¬ (tget 0 ([] : Tab Nat) (lineOf a) > 3 ∨ tget false ([] : Tab Bool) (lineOf a) = true) := fun h => h.elim (Nat.not_lt_zero 3) hsound
  rw [if_neg hsound, if_neg hfew] at hstuck ⊢
  unfold raiseVersion at hstuck ⊢
  dsimp only at hstuck ⊢
  by_cases hv : tget 0 u.mem.ver (lineOf a) ≥ 2 ^ 56 - 1
  · rw [if_pos hv] at hstuck
    have hon : (u.flag Reg.MEM_STAT_VSTUCK true).on Reg.MEM_STAT_VSTUCK = true := State.on_flag _ Nat.one_ne_zero _
    exact absurd (hon.symm.trans hstuck) (by decide)
  · rw [if_neg hv]
    have hd : ∀ t : Tab Octet, [tget 0 (tset 0 (tset 0 t a (BitVec.ofNat 8 v)) (a + 1) (BitVec.ofNat 8 (v / 256))) (a + 0),
        tget 0 (tset 0 (tset 0 t a (BitVec.ofNat 8 v)) (a + 1) (BitVec.ofNat 8 (v / 256))) (a + 1)] = leOctets 2 v := by
      intro t
      rw [tget_tset, tget_tset, tget_tset, if_neg (by omega), if_pos rfl, Nat.add_zero, if_pos rfl]
      rfl
    exact hd _

/-- The base of the backing store can be written once. -/
theorem lockedChange_potBack (s : State) (v : BitVec 15) : s.lockedChange 0x30200021 v.toNat =
    (s.on Reg.POT_BACK_BASE16.mark && decide (v.toNat ≠ s.rd Reg.POT_BACK_BASE16)) := by
  have hfields : fieldsAt 0x30200021 = [Reg.POT_BACK_BASE16] := by decide
  have hv : v.toNat / 2 ^ Reg.POT_BACK_BASE16.lo % 2 ^ Reg.POT_BACK_BASE16.wid = v.toNat := by
    have := v.isLt
    simp only [Reg.POT_BACK_BASE16]
    omega
  rw [State.lockedChange, hfields, List.any_cons, List.any_nil, Bool.or_false, hv]
  rfl

/-- The pages `b + i` made table backing store, locked. -/
def lockPages (b : Nat) (l : List Nat) (s : State) : State := l.foldl (fun s i => potPut s (b + i) (2 ^ 13 + 2 ^ 12 + 2)) s

theorem rd_lockPages_ne {b : Nat} {f : Fld} (hl : ∀ g ∈ lineFields, f.place ≠ g.place) (l : List Nat) (t : State)
    (hf : ∀ i ∈ l, f.place ≠ (Reg.POT_ENTRY (b + i)).place) : (lockPages b l t).rd f = t.rd f := by
  induction l generalizing t with
  | nil => rfl
  | cons i l ih => exact (ih _ fun j hj => hf j (List.mem_cons_of_mem _ hj)).trans (rd_potPut_ne t _ _ (hf i List.mem_cons_self) hl)

theorem rd_lockPages_mem {b i : Nat} (l : List Nat) (t : State) (hi : i ∈ l) : (lockPages b l t).rd (Reg.POT_ENTRY (b + i)) = 2 ^ 13 + 2 ^ 12 + 2 := by
  induction l generalizing t with
  | nil => exact absurd hi List.not_mem_nil
  | cons j l ih =>
    by_cases hil : i ∈ l
    · exact ih _ hil
    · have hij : i = j := (List.mem_cons.mp hi).resolve_right hil
      subst hij
      refine (rd_lockPages_ne (potEntry_ne_line _) l _ fun k hk => ?_).trans (rd_potPut_self t _ _ (by decide))
      have hne : i ≠ k := fun h => hil (h ▸ hk)
      simp only [Fld.place, Reg.POT_ENTRY]
      omega

/-- The first write of the base takes it and locks the write. -/
theorem wrWord_potBack {v : BitVec 15} (hb : s.on Reg.POT_BACK_BASE16.mark = false) :
    s.wrWord 0x30200021 v.toNat = (s.wr Reg.POT_BACK_BASE16 v.toNat).flag Reg.POT_BACK_BASE16.mark true := by
  have hlt := v.isLt
  have hfields : fieldsAt 0x30200021 = [Reg.POT_BACK_BASE16] := by decide
  have hv : v.toNat / 2 ^ Reg.POT_BACK_BASE16.lo % 2 ^ Reg.POT_BACK_BASE16.wid = v.toNat := by
    simp only [Reg.POT_BACK_BASE16]
    omega
  have hacc : s.wrAcc Reg.POT_BACK_BASE16 v.toNat = (s.wr Reg.POT_BACK_BASE16
      (v.toNat / 2 ^ Reg.POT_BACK_BASE16.lo % 2 ^ Reg.POT_BACK_BASE16.wid)).flag Reg.POT_BACK_BASE16.mark true := if_neg (by rw [hb]; decide)
  rw [State.wrWord, hfields, List.foldl_cons, List.foldl_nil, hacc, hv]

/-- What the first write of the base leaves of the table: its sixteen pages' entries and the base. -/
theorem potBackWrite_first {v : BitVec 15} (hb : s.on Reg.POT_BACK_BASE16.mark = false) :
    (potBackWrite s m v.toNat).rd Reg.POT_BACK_BASE16 = v.toNat ∧ (potBackWrite s m v.toNat).on Reg.POT_BACK_BASE16.mark = true ∧
      ∀ i < 16, (potBackWrite s m v.toNat).rd (Reg.POT_ENTRY (16 * v.toNat + i)) = 2 ^ 13 + 2 ^ 12 + 2 := by
  have hlt := v.isLt
  have hback : potBackWrite s m v.toNat =
      lockPages (16 * v.toNat) (List.range 16) ((s.wr Reg.POT_BACK_BASE16 v.toNat).flag Reg.POT_BACK_BASE16.mark true) := by
    unfold potBackWrite
    rw [lockedChange_potBack, hb, Bool.false_and, if_neg Bool.false_ne_true, if_neg Bool.false_ne_true]
    dsimp only
    rw [wrWord_potBack hb, Nat.mod_eq_of_lt hlt]
    rfl
  rw [hback]
  refine ⟨?_, ?_, fun i hi => rd_lockPages_mem _ _ (List.mem_range.mpr hi)⟩
  · rw [rd_lockPages_ne (by decide), State.rd_flag_place _ _ (by decide), State.rd_wr]
    · exact Nat.mod_eq_of_lt hlt
    · intro i hi
      have := List.mem_range.mp hi
      simp only [Fld.place, Reg.POT_BACK_BASE16, Reg.POT_ENTRY]
      omega
  · rw [State.on, rd_lockPages_ne (by decide)]
    · exact State.on_flag _ (by decide) _
    · intro i hi
      have := List.mem_range.mp hi
      simp only [Fld.place, Fld.mark, Reg.POT_BACK_BASE16, Reg.POT_ENTRY]
      omega

/-- A region register that is not locked takes its fields. -/
theorem regionWrite_takes {k r off : Nat} (hl : s.on (Reg.RGN_ATTR_LOCK k r) = false) (hc : s.lockedChange (0x30201000 + 64 * k + 4 * r + off) v = false) :
    regionWrite s m k r off v = s.wrWord (0x30201000 + 64 * k + 4 * r + off) v := by
  unfold regionWrite
  dsimp only
  rw [if_neg (by rw [hl]; decide), hc, if_neg Bool.false_ne_true]

/-- The base and limit words of a region are one plain field each. -/
theorem fieldsAt_region (k : Fin 3) (r : Fin 16) : fieldsAt (0x30201000 + 64 * k.val + 4 * r.val + 0) = [Reg.RGN_BASE k r] ∧
    fieldsAt (0x30201000 + 64 * k.val + 4 * r.val + 1) = [Reg.RGN_LIMIT k r] := by
  revert k r
  decide

/-- A write of a word that is one plain field. -/
theorem plainWord {a v : Nat} {f : Fld} (ha : fieldsAt a = [f]) (hacc : f.acc = .rw) (s : State) :
    s.lockedChange a v = false ∧ (s.wrWord a v).rd f = v / 2 ^ f.lo % 2 ^ f.wid := by
  have hwr : s.wrAcc f v = s.wr f (v / 2 ^ f.lo % 2 ^ f.wid) := by
    unfold State.wrAcc
    rw [hacc]
  refine ⟨?_, ?_⟩
  · rw [State.lockedChange, ha, List.any_cons, List.any_nil, hacc]
    rfl
  · rw [State.wrWord, ha, List.foldl_cons, List.foldl_nil, hwr, State.rd_wr, Nat.mod_mod]

end Table

/-- Settles O45: the page ownership table, region registers and violation reports. -/
theorem ownershipAndRegions : Obligations.OwnershipAndRegions := by
  intro s sc
  refine ⟨fun p v => ⟨fun hp => ?_, fun hp hb => ?_, fun hp hb => ⟨_, congrArg Host.Outcome.next ((if_neg (Nat.not_le.mpr hp)).trans (if_neg ?_)), ?_, ?_, ?_⟩⟩,
    ⟨_, rfl, State.on_flag _ Nat.one_ne_zero _⟩, fun v => ⟨fun hb hv => ?_, fun hb hv => ?_, fun hb => ⟨_, rfl, potBackWrite_first hb⟩⟩,
    fun k r off v => ⟨fun hl => ?_, fun hl hc => ?_⟩, fun k r v hl => ?_, ⟨_, rfl, rfl, ?_⟩⟩
  · exact congrArg Host.Outcome.next (if_pos hp)
  · exact congrArg Host.Outcome.next ((if_neg (Nat.not_le.mpr hp)).trans (if_pos hb))
  · rw [hb]
    decide
  · exact rd_potPut_self s p _ v.isLt
  · exact fun hm => potPut_unbacked hm p.isLt
  · exact fun hm ⟨hpoison, hbad, hchain⟩ _ hstuck => potPut_backed hm p.isLt hpoison hbad hchain hstuck
  · refine congrArg Host.Outcome.next (if_pos ?_)
    rw [lockedChange_potBack, hb, decide_eq_true hv]
    rfl
  · refine congrArg Host.Outcome.next ((if_neg ?_).trans (if_pos hb))
    rw [lockedChange_potBack, decide_eq_false (not_not_intro hv), Bool.and_false]
    decide
  · exact congrArg Host.Outcome.next (if_pos hl)
  · exact congrArg Host.Outcome.next (regionWrite_takes hl hc)
  · obtain ⟨hbase, hlimit⟩ := fieldsAt_region k r
    obtain ⟨hb1, hb2⟩ := plainWord (v := v.toNat) hbase rfl s
    obtain ⟨hl1, hl2⟩ := plainWord (v := v.toNat) hlimit rfl s
    refine ⟨_, _, congrArg Host.Outcome.next (regionWrite_takes hl hb1), hb2.trans ?_, congrArg Host.Outcome.next (regionWrite_takes hl hl1), hl2.trans ?_⟩
    · exact congrArg (· % _) (Nat.div_one _)
    · exact congrArg (· % _) (Nat.div_one _)
  · exact (State.rd_wr ..).trans (congrArg (· % _) List.length_drop)

/-! ### The memory subsystem -/

section Memory
variable {s : State} {line master : Nat}

theorem trainingDone_idle (h : s.mode ≠ mSecureBoot ∨ s.on Reg.MEM_STAT_TRAINED = true) (pass : Bool) : trainingDone s pass = s := if_pos h

theorem trainingDone_of (hm : s.mode = mSecureBoot) (ht : s.on Reg.MEM_STAT_TRAINED = false) (pass : Bool) : trainingDone s pass =
    if pass then { s.flag Reg.MEM_STAT_TRAINED true with sc0 := { Ctl.reset true with running := true } } else enterFault s 3 := by
  refine if_neg ?_
  rintro (h | h)
  · exact h hm
  · rw [ht] at h
    cases h

theorem usable_le (s : State) : s.usable ≤ 458752 := by
  unfold State.usable
  split <;> decide

/-- One page of the fill: the count rises, and FILL_DONE comes with the last. -/
theorem fillPage_fills (ht : s.on Reg.MEM_STAT_TRAINED = true) (hd : s.on Reg.MEM_STAT_FILL_DONE = false)
    (hlt : s.rd2 Reg.MEM_FILL_L Reg.MEM_FILL_H < s.usable) {t : State} (h : fillPage s = t) :
    t.rd2 Reg.MEM_FILL_L Reg.MEM_FILL_H = s.rd2 Reg.MEM_FILL_L Reg.MEM_FILL_H + 1 ∧
      t.on Reg.MEM_STAT_FILL_DONE = decide (s.usable ≤ s.rd2 Reg.MEM_FILL_L Reg.MEM_FILL_H + 1) := by
  generalize hn : s.rd2 Reg.MEM_FILL_L Reg.MEM_FILL_H + 1 = n at *
  have hle := usable_le s
  have hcount : (s.wr2 Reg.MEM_FILL_L Reg.MEM_FILL_H n).rd2 Reg.MEM_FILL_L Reg.MEM_FILL_H = n := by
    rw [State.rd2, State.wr2, State.rd_wr, State.rd_wr_place _ _ (by decide), State.rd_wr]
    simp only [Reg.MEM_FILL_L, Reg.MEM_FILL_H]
    omega
  have husable : (s.wr2 Reg.MEM_FILL_L Reg.MEM_FILL_H n).usable = s.usable := by
    have hstrap : (s.wr2 Reg.MEM_FILL_L Reg.MEM_FILL_H n).rd Reg.MEM_CFG_STRAP = s.rd Reg.MEM_CFG_STRAP :=
      (State.rd_wr_place _ _ (by decide)).trans (State.rd_wr_place _ _ (by decide))
    rw [State.usable, hstrap, State.usable]
  have hfill : t = if s.usable ≤ n then (s.wr2 Reg.MEM_FILL_L Reg.MEM_FILL_H n).flag Reg.MEM_STAT_FILL_DONE true else s.wr2 Reg.MEM_FILL_L Reg.MEM_FILL_H n := by
    rw [← h, fillPage, if_neg (by rw [ht, hd]; decide)]
    dsimp only
    rw [hn, husable]
  rw [hfill]
  split
  · next hlast =>
    rw [State.rd2, State.rd_flag_place _ _ (by decide), State.rd_flag_place _ _ (by decide), decide_eq_true hlast]
    exact ⟨hcount, State.on_flag _ Nat.one_ne_zero _⟩
  · next hmore =>
    refine ⟨hcount, ?_⟩
    rw [decide_eq_false hmore]
    exact (State.on_wr_place _ _ (by decide)).trans ((State.on_wr_place _ _ (by decide)).trans hd)

/-- The vault's fill is done while its image is not whole: no load starts. -/
theorem vaultFilled_ready (hk : s.vault.key ≠ none) (hr : s.on Reg.MEM_STAT_VAULT_READY = false) (h : s.vault.tableOk = false ∨ s.vault.await ≠ []) :
    vaultFilled s = s.flag Reg.MEM_STAT_VAULT_READY true := by
  refine (if_neg ?_).trans (if_neg ?_)
  · rintro (h | h)
    · exact hk (Option.isNone_iff_eq_none.mp h)
    · rw [hr] at h
      cases h
  · rintro ⟨ht, ha, _⟩
    rcases h with h | h
    · have ht : s.vault.tableOk = true := ht
      rw [h] at ht
      cases ht
    · exact h ha

/-- The base of the vault: locked, beyond the usable pages, or taken. -/
theorem vaultBaseWrite_of {m : Nat} {high : Bool} {v : Word} {a vb : Nat} (ha : a = 0x30240002 + b2n high)
    (hvb : vb = if high then s.rd Reg.MEM_VAULT_BASE_L + 2 ^ 18 * (v.toNat % 2) else v.toNat + 2 ^ 18 * s.rd Reg.MEM_VAULT_BASE_H) :
    vaultBaseWrite s m high v.toNat = if s.lockedChange a v.toNat then lockViolation s m true true a
      else if vb + 38035 > s.usable then s.flag Reg.MEM_STAT_CFG_ERR true else s.wrWord a v.toNat := by
  subst ha hvb
  unfold vaultBaseWrite
  rw [Nat.mod_eq_of_lt v.isLt]

/-- A full-line write from the secure world. -/
theorem lineFullWrite_secure {o : List Octet} (hv : tget 0 s.mem.ver line < 2 ^ 56 - 1) (ho : o.length = 64) {t : State} {e : Option MemErr}
    (h : lineFullWrite s line true o = (t, e)) : e = none ∧ t.regs = s.regs ∧ t.dramOctets (64 * line) 64 = o ∧
      tget 0 t.mem.ver line = tget 0 s.mem.ver line + 1 ∧ tget false t.mem.poison line = false ∧
      ∀ j, j < 64 * line ∨ 64 * line + 64 ≤ j → tget 0 t.mem.dram j = tget 0 s.mem.dram j := by
  have hraise : raiseVersion s line = some (s.setMem (fun m => { m with ver := tset 0 m.ver line (tget 0 s.mem.ver line + 1) })) := if_neg (Nat.not_le.mpr hv)
  unfold lineFullWrite at h
  rw [if_neg (fun hp => hp.2 rfl), hraise] at h
  obtain ⟨rfl, rfl⟩ := Prod.mk.inj h
  have hdram : ∀ j, tget 0 (((List.range 64).zip o |>.map (fun e => (64 * line + e.1, e.2))).foldl (fun t e => tset 0 t e.1 e.2) s.mem.dram) j =
      if 64 * line ≤ j ∧ j < 64 * line + 64 then nth 0 o (j - 64 * line) else tget 0 s.mem.dram j := by
    intro j
    have hw := tget_writeFrom 0 (64 * line) j o 0 s.mem.dram
    rw [ho, ← List.range_eq_range'] at hw
    exact hw
  refine ⟨rfl, rfl, ?_, ?_, ?_, fun j hj => (hdram j).trans (if_neg ?_)⟩
  · refine List.ext_getElem? fun i => ?_
    by_cases hi : i < 64
    · have hget : (List.range 64)[i]? = some i := List.getElem?_range hi
      have hbyte := (hdram (64 * line + i)).trans (if_pos (by omega))
      rw [Nat.add_sub_cancel_left] at hbyte
      refine (List.getElem?_map ..).trans ?_
      rw [hget, List.getElem?_eq_getElem (ho ▸ hi)]
      refine congrArg some (hbyte.trans ?_)
      rw [nth, List.getElem?_eq_getElem (ho ▸ hi)]
      rfl
    · have hnone : o[i]? = none := List.getElem?_eq_none (by omega)
      rw [hnone]
      refine List.getElem?_eq_none ?_
      rw [State.dramOctets, List.length_map, List.length_range]
      exact Nat.not_lt.mp hi
  · have hver : tget 0 (tset 0 s.mem.ver line (tget 0 s.mem.ver line + 1)) line = tget 0 s.mem.ver line + 1 := (tget_tset ..).trans (if_pos rfl)
    exact hver
  · exact (tget_tdel ..).trans (if_pos rfl)
  · omega

/-- The line-write window: the access the line's page permits, and one it refuses. -/
theorem lineWindow_writes {m addr : Nat} (ha : addr = s.rd2 Reg.MEM_LW_ADDR_L Reg.MEM_LW_ADDR_H / 32 * 32) {l : Nat} (hl : l = (addr - 0x400000000) / 32)
    (hc : checkAccess s ⟨m, true, true, 0xFFF, .write, addr, 0⟩ = none) (h7 : targetOf m addr = 7) (hv : tget 0 s.mem.ver l < 2 ^ 56 - 1) {t : State}
    (h : lineWindow s m true true = t) : t.on Reg.MEM_LW_STAT_DONE = true ∧ t.on Reg.MEM_LW_STAT_ERR = false ∧
      t.dramOctets (64 * l) 64 = unpackWords ((List.range 32).map (fun w => s.rd (Reg.MEM_LW_DATA w))) ∧
      tget 0 t.mem.ver l = tget 0 s.mem.ver l + 1 ∧ tget false t.mem.poison l = false ∧
      ∀ o, o < 64 * l ∨ 64 * l + 64 ≤ o → tget 0 t.mem.dram o = tget 0 s.mem.dram o := by
  subst hl
  have hlen : (unpackWords ((List.range 32).map (fun w => s.rd (Reg.MEM_LW_DATA w)))).length = 64 := by
    rw [length_unpackWords, List.length_map, List.length_range]
  generalize hp : lineFullWrite s ((addr - 0x400000000) / 32) true (unpackWords ((List.range 32).map (fun w => s.rd (Reg.MEM_LW_DATA w)))) = p
  obtain ⟨u, e⟩ := p
  obtain ⟨he, _, hdram, hver, hpoison, hrest⟩ := lineFullWrite_secure hv hlen hp
  subst he
  have hwin : t = (u.flag Reg.MEM_LW_STAT_ERR false).flag Reg.MEM_LW_STAT_DONE true := by
    rw [← h]
    unfold lineWindow
    dsimp only
    rw [← ha, hc]
    dsimp only
    rw [if_neg (not_not_intro h7), hp]
    rfl
  subst hwin
  exact ⟨State.on_flag _ Nat.one_ne_zero _, (State.on_flag_place _ _ (by decide)).trans (State.on_flag _ Nat.one_ne_zero _), hdram, hver, hpoison, hrest⟩

theorem lineWindow_refused {m addr : Nat} (ha : addr = s.rd2 Reg.MEM_LW_ADDR_L Reg.MEM_LW_ADDR_H / 32 * 32) {r : Refused}
    (hc : checkAccess s ⟨m, true, true, 0xFFF, .write, addr, 0⟩ = some r) : lineWindow s m true true =
      ((reportRefusal s ⟨m, true, true, 0xFFF, .write, addr, 0⟩ r).flag Reg.MEM_LW_STAT_ERR true).flag Reg.MEM_LW_STAT_DONE true := by
  unfold lineWindow
  dsimp only
  rw [← ha, hc]

/-- The capture's kind and master. -/
theorem memCapture_shows (s : State) (line kind master octets : Nat) (hk : kind < 4) (hm : master < 256) :
    (memCapture s line kind master octets).rd Reg.MEM_ERR_INFO_KIND = kind ∧ (memCapture s line kind master octets).rd Reg.MEM_ERR_INFO_MASTER = master ∧
      (memCapture s line kind master octets).mem = s.mem ∧ (memCapture s line kind master octets).on Reg.MEM_STAT_UE = s.on Reg.MEM_STAT_UE := by
  unfold memCapture
  refine ⟨?_, ?_, rfl, ?_⟩
  · dsimp only
    rw [State.rd_wr_place _ _ (by decide), State.rd_wr_place _ _ (by decide), State.rd_wr_place _ _ (by decide), State.rd_wr]
    exact Nat.mod_eq_of_lt hk
  · dsimp only
    rw [State.rd_wr_place _ _ (by decide), State.rd_wr_place _ _ (by decide), State.rd_wr]
    exact Nat.mod_eq_of_lt hm
  · dsimp only
    rw [State.on_wr_place _ _ (by decide), State.on_wr_place _ _ (by decide), State.on_wr_place _ _ (by decide), State.on_wr_place _ _ (by decide), State.wr2,
      State.on_wr_place _ _ (by decide), State.on_wr_place _ _ (by decide)]

/-- The check of a line whose chain is whole and that is not poisoned, by its octets in error. -/
theorem lineCheck_of {n : Nat} (hp : tget false s.mem.poison line = false) (hc : tget false s.mem.chainBad line = false) (hn : tget 0 s.mem.bad line = n) :
    (lineCheck s line master).1 = if n = 0 then s
      else if n ≤ 3 then memCapture ((s.setMem (fun m => { m with bad := tdel m.bad line })).count Reg.MEM_CE_COUNT Reg.MEM_STAT_CEO) line 0 master n
      else memCapture ((s.count Reg.MEM_UE_COUNT Reg.MEM_STAT_UEO).flag Reg.MEM_STAT_UE true) line 1 master 0 := by
  subst hn
  unfold lineCheck
  rw [hp, hc, if_neg Bool.false_ne_true, if_neg Bool.false_ne_true]
  dsimp only
  split
  · rfl
  · split <;> rfl

theorem mem_count (s : State) (c o : Fld) : (s.count c o).mem = s.mem := by
  unfold State.count
  dsimp only
  split <;> rfl

theorem scrubLine_idle (h : s.rd Reg.MEM_SCRUB_PERIOD = 0 ∨ tget false s.mem.poison line = true) (e : Nat) : scrubLine s line e = s := if_pos h

/-- Scrub of a line that shows `e` octets in error. -/
theorem scrubLine_of {e : Nat} (hs : s.rd Reg.MEM_SCRUB_PERIOD ≠ 0) (hp : tget false s.mem.poison line = false) (he : e ≠ 0) :
    scrubLine s line e = (lineCheck (s.setMem (fun m => { m with bad := tset 0 m.bad line e })) line 0xFE).1 := by
  refine (if_neg ?_).trans ?_
  · rintro (h | h)
    · exact hs h
    · rw [hp] at h
      cases h
  · exact congrArg (fun u => (lineCheck u line 0xFE).1) (if_neg he)

/-- Scrub corrects up to three octets of a line. -/
theorem scrubLine_corrects {e : Nat} (hs : s.rd Reg.MEM_SCRUB_PERIOD ≠ 0) (hp : tget false s.mem.poison line = false)
    (hc : tget false s.mem.chainBad line = false) (h1 : 1 ≤ e) (h3 : e ≤ 3) {t : State} (h : scrubLine s line e = t) :
    tget 0 t.mem.bad line = 0 ∧ t.rd Reg.MEM_ERR_INFO_KIND = 0 ∧ t.rd Reg.MEM_ERR_INFO_MASTER = 0xFE ∧ t.mem.dram = s.mem.dram := by
  rw [scrubLine_of hs hp (by omega)] at h
  rw [lineCheck_of (s := s.setMem (fun m => { m with bad := tset 0 m.bad line e })) hp hc ((tget_tset ..).trans (if_pos rfl)), if_neg (by omega), if_pos h3] at h
  obtain ⟨hkind, hmaster, hmem, _⟩ := memCapture_shows (((s.setMem (fun m => { m with bad := tset 0 m.bad line e })).setMem
    (fun m => { m with bad := tdel m.bad line })).count Reg.MEM_CE_COUNT Reg.MEM_STAT_CEO) line 0 0xFE e (by decide) (by decide)
  rw [h, mem_count] at hmem
  rw [h] at hkind hmaster
  refine ⟨?_, hkind, hmaster, ?_⟩
  · rw [hmem]
    exact (tget_tdel ..).trans (if_pos rfl)
  · rw [hmem]
    rfl

/-- Scrub counts a line it cannot correct and poisons nothing. -/
theorem scrubLine_reports {e : Nat} (hs : s.rd Reg.MEM_SCRUB_PERIOD ≠ 0) (hp : tget false s.mem.poison line = false)
    (hc : tget false s.mem.chainBad line = false) (h3 : 3 < e) {t : State} (h : scrubLine s line e = t) :
    t.on Reg.MEM_STAT_UE = true ∧ t.rd Reg.MEM_ERR_INFO_KIND = 1 ∧ t.mem.poison = s.mem.poison ∧ t.mem.dram = s.mem.dram := by
  rw [scrubLine_of hs hp (by omega)] at h
  rw [lineCheck_of (s := s.setMem (fun m => { m with bad := tset 0 m.bad line e })) hp hc ((tget_tset ..).trans (if_pos rfl)), if_neg (by omega),
    if_neg (by omega)] at h
  obtain ⟨hkind, _, hmem, hue⟩ := memCapture_shows (((s.setMem (fun m => { m with bad := tset 0 m.bad line e })).count Reg.MEM_UE_COUNT
    Reg.MEM_STAT_UEO).flag Reg.MEM_STAT_UE true) line 1 0xFE 0 (by decide) (by decide)
  rw [h] at hkind hmem hue
  have hmem' : t.mem = (s.setMem (fun m => { m with bad := tset 0 m.bad line e })).mem := hmem.trans (mem_count ..)
  exact ⟨hue.trans (State.on_flag _ Nat.one_ne_zero _), hkind, by rw [hmem']; rfl, by rw [hmem']; rfl⟩

end Memory

/-- Settles O46: training, the fill, the vault's base, the line-write window and scrub. -/
theorem memorySubsystem : Obligations.MemorySubsystem := by
  intro s sc
  refine ⟨rfl, fun pass h => ?_, fun hm ht => ⟨⟨_, congrArg Host.Outcome.next (trainingDone_of hm ht true), ?_, rfl, rfl⟩, ?_⟩, fun h => ?_, fun ht hd hlt => ?_,
    fun h => ?_, fun hk hr h => ?_, fun high v => ⟨fun hl => ?_, fun hl hlt => ?_, fun hl hle => ?_⟩, ?_, ?_, fun line e => ⟨fun h => ?_, fun hs hp hc => ⟨?_, ?_, ?_⟩⟩⟩
  · exact congrArg Host.Outcome.next (trainingDone_idle h pass)
  · have hon : (s.flag Reg.MEM_STAT_TRAINED true).on Reg.MEM_STAT_TRAINED = true := State.on_flag _ Nat.one_ne_zero _
    exact hon
  · exact congrArg Host.Outcome.next (trainingDone_of hm ht false)
  · refine congrArg Host.Outcome.next (if_pos ?_)
    exact h.imp (fun h => by rw [h]; decide) id
  · exact ⟨_, rfl, fillPage_fills ht hd hlt rfl⟩
  · refine congrArg Host.Outcome.next (if_pos ?_)
    exact h.imp (fun h => by rw [h]; rfl) id
  · exact congrArg Host.Outcome.next (vaultFilled_ready hk hr h)
  · exact congrArg Host.Outcome.next ((vaultBaseWrite_of rfl rfl).trans (if_pos hl))
  · exact congrArg Host.Outcome.next ((vaultBaseWrite_of rfl rfl).trans ((if_neg (by rw [hl]; decide)).trans (if_pos hlt)))
  · exact congrArg Host.Outcome.next ((vaultBaseWrite_of rfl rfl).trans ((if_neg (by rw [hl]; decide)).trans (if_neg (Nat.not_lt.mpr hle))))
  · dsimp only
    intro hc h7 hv
    exact ⟨_, rfl, lineWindow_writes rfl rfl hc h7 hv rfl⟩
  · dsimp only
    intro r hc
    exact congrArg Host.Outcome.next (lineWindow_refused rfl hc)
  · exact congrArg Host.Outcome.next (scrubLine_idle h e)
  · intro he hb
    have hscrub : scrubLine s line.toNat e.val = s := by
      refine (if_neg ?_).trans ?_
      · rintro (h | h)
        · exact hs h
        · rw [hp] at h
          cases h
      · rw [if_pos he, lineCheck_of hp hc hb]
        rfl
    exact congrArg Host.Outcome.next hscrub
  · intro h1 h3
    exact ⟨_, rfl, scrubLine_corrects hs hp hc h1 h3 rfl⟩
  · intro h3
    exact ⟨_, rfl, scrubLine_reports hs hp hc h3 rfl⟩

end Sys2Proof.Machine
end


section
/-! SUPPORT. O47: the boot tap and measurement. O48: plain registers. -/
namespace Sys2Proof.Machine
open Sys2Proof

/-! ### The length of a digest -/

theorem length_leOctets (k v : Nat) : (leOctets k v).length = k := by
  induction k generalizing v with
  | zero => rfl
  | succ k ih => exact congrArg Nat.succ (ih _)

theorem length_beOctets (k v : Nat) : (beOctets k v).length = k := (List.length_reverse ..).trans (length_leOctets k v)

/-- Eight chaining words give eight. -/
theorem length_sha2Compress {w : Nat} (ks : List (BitVec w)) (b0 b1 s0 s1 : BitVec w → BitVec w) (h m : List (BitVec w)) (hh : h.length = 8) :
    (sha2Compress ks b0 b1 s0 s1 h m).length = 8 := by
  have hrounds : ∀ (l : List (BitVec w × BitVec w)) (v : List (BitVec w)), v.length = 8 → (l.foldl (fun (v : List (BitVec w)) kw =>
      let a := nth 0 v 0; let b := nth 0 v 1; let c := nth 0 v 2; let d := nth 0 v 3
      let e := nth 0 v 4; let f := nth 0 v 5; let g := nth 0 v 6; let hh := nth 0 v 7
      let t1 := hh + b1 e + ((e &&& f) ^^^ (~~~e &&& g)) + kw.1 + kw.2
      let t2 := b0 a + ((a &&& b) ^^^ (a &&& c) ^^^ (b &&& c))
      [t1 + t2, a, b, c, d + t1, e, f, g]) v).length = 8 := by
    intro l
    induction l with
    | nil => exact fun _ hv => hv
    | cons x l ih => exact fun v _ => ih _ rfl
  unfold sha2Compress
  rw [List.length_zipWith, hh]
  exact congrArg (min 8) (hrounds _ h hh)

theorem length_flatten_beOctets (l : List Nat) : ((l.map (beOctets 8)).flatten).length = 8 * l.length := by
  induction l with
  | nil => rfl
  | cons v l ih =>
    rw [List.map_cons, List.flatten_cons, List.length_append, length_beOctets, ih, List.length_cons]
    omega

theorem length_compress512 (h blk : List Octet) : (compress512 h blk).length = 64 := by
  have hwords : ∀ l : List (BitVec 64), ((l.map (fun x => beOctets 8 x.toNat)).flatten).length = 8 * l.length := by
    intro l
    have hl := length_flatten_beOctets (l.map BitVec.toNat)
    rw [List.map_map, List.length_map] at hl
    exact hl
  refine (hwords _).trans (congrArg (8 * ·) (length_sha2Compress _ _ _ _ _ _ _ ?_))
  rw [List.length_map, List.length_range]

theorem length_sha384 (m : List Octet) : (sha384 m).length = 48 := by
  have hiv : iv384.length = 64 := by
    have hl := length_flatten_beOctets (((primes80.drop 8).take 8).map (sqrtFrac 64))
    rw [List.map_map, List.length_map] at hl
    exact hl
  have hrun : ∀ (l : List Nat) (b h : List Octet), h.length = 64 → (l.foldl (fun h i => compress512 h (octAt b (128 * i) 128)) h).length = 64 := by
    intro l b
    induction l with
    | nil => exact fun _ hh => hh
    | cons i l ih => exact fun h _ => ih _ (length_compress512 ..)
  have hlen : (sha2Run 128 compress512 iv384 (sha2Pad 128 m m.length)).length = 64 := hrun _ _ _ hiv
  rw [sha384, List.length_take, hlen]
  rfl

/-! ### The boot tap -/

section Tap
variable {s : State}

theorem State.du_setDu (s : State) (i : Nat) (d : DigestUnit) : (s.setDu i d).du i = d := (tget_tset ..).trans (if_pos rfl)

/-- A transfer into SRAM changes memory alone. -/
theorem frame_sramPut (s : State) (a : Nat) (o : List Octet) : s.sramPut a o = { s with mem := (s.sramPut a o).mem } := by
  have hfold : ∀ (l : List (Nat × Octet)) (s : State), l.foldl (fun s e => s.setNonet (a + e.1 / 2) e.1 (nonetOf e.2)) s =
      { s with mem := (l.foldl (fun s e => s.setNonet (a + e.1 / 2) e.1 (nonetOf e.2)) s).mem } := by
    intro l
    induction l with
    | nil => exact fun _ => rfl
    | cons e l ih =>
      intro s
      rw [List.foldl_cons, ih]
      rfl
  exact hfold _ s

/-- ARM while the tap is open. -/
theorem tapArm_arms (hl : s.on Reg.BOOT_TAP_STAT_LOCKED = false) (hm : s.mode = mSecureBoot) (hc : s.on Reg.BOOT_TAP_CTL_CLOSE = false) {t : State} (h : tapArm s = t) :
    t.on Reg.BOOT_TAP_STAT_ARMED = true ∧ t.du 63 = duFresh 3 ∧ t.rd2 Reg.BOOT_TAP_OCT_L Reg.BOOT_TAP_OCT_H = 0 := by
  have harm : tapArm s = ((s.setDu 63 (duFresh 3)).flag Reg.BOOT_TAP_STAT_ARMED true).wr2 Reg.BOOT_TAP_OCT_L Reg.BOOT_TAP_OCT_H 0 := by
    refine (if_neg (by rw [hl]; decide)).trans (if_neg ?_)
    rintro (h | h)
    · exact h hm
    · rw [hc] at h
      cases h
  subst h
  rw [harm]
  refine ⟨?_, State.du_setDu s 63 (duFresh 3), ?_⟩
  · rw [State.wr2, State.on_wr_place _ _ (by decide), State.on_wr_place _ _ (by decide)]
    exact State.on_flag _ Nat.one_ne_zero _
  · rw [State.rd2, State.wr2, State.rd_wr, State.rd_wr_place _ _ (by decide), State.rd_wr]
    rfl

theorem place_tapDig_ne {i j : Nat} (h : i ≠ j) : (Reg.BOOT_TAP_DIG i).place ≠ (Reg.BOOT_TAP_DIG j).place := by
  simp only [Fld.place, Reg.BOOT_TAP_DIG]
  omega

/-- A row of word registers written changes registers alone. -/
theorem frame_writeRow (g : Nat → Fld) (l : List (Nat × Word)) (s : State) :
    l.foldl (fun s e => s.wr (g e.1) e.2.toNat) s = { s with regs := (l.foldl (fun s e => s.wr (g e.1) e.2.toNat) s).regs } := by
  induction l generalizing s with
  | nil => rfl
  | cons e l ih =>
    rw [List.foldl_cons, ih]
    rfl

/-- CLOSE of an armed tap: the image goes to SRAM, its digest to the unit, the registers and the measurement queue. -/
theorem tapClose_closes {place : Nat} {img : List Octet} (hl : s.on Reg.BOOT_TAP_STAT_LOCKED = false) (ha : s.on Reg.BOOT_TAP_STAT_ARMED = true)
    (hm : s.mode = mSecureBoot) {t : State} (h : tapClose s place img = t) :
    t.on Reg.BOOT_TAP_STAT_ARMED = false ∧ t.on Reg.BOOT_TAP_CTL_CLOSE = true ∧ t.meas.queue = s.meas.queue ++ [⟨3, 0, sha384 img⟩] ∧ (t.du 63).dig = sha384 img ∧
      t.mem = (s.sramPut place img).mem ∧ ((List.range 24).map (fun w => t.rd (Reg.BOOT_TAP_DIG w))) = (packWords (sha384 img)).map BitVec.toNat ∧
      t.rd2 Reg.BOOT_TAP_OCT_L Reg.BOOT_TAP_OCT_H = (s.rd2 Reg.BOOT_TAP_OCT_L Reg.BOOT_TAP_OCT_H + img.length) % 2 ^ 36 := by
  have hlen : (packWords (sha384 img)).length = 24 := by
    rw [length_packWords, length_sha384]
  generalize hd : sha384 img = d at *
  obtain ⟨x, hx⟩ : ∃ x : DigestUnit, x = { (s.du 63) with dig := d, len := img.length, final := true, absorbing := false } := ⟨_, rfl⟩
  generalize hu : (tapOctets s place img).setDu 63 x = u
  generalize hv : ((List.range 24).zip (packWords d)).foldl (fun s e => s.wr (Reg.BOOT_TAP_DIG e.1) e.2.toNat) u = v
  have hdu : (tapOctets s place img).du 63 = s.du 63 := by
    rw [tapOctets, frame_sramPut]
    rfl
  have ht : t = { (v.flag Reg.BOOT_TAP_STAT_ARMED false).flag Reg.BOOT_TAP_CTL_CLOSE true with meas := { v.meas with queue := v.meas.queue ++ [⟨3, 0, d⟩] } } := by
    rw [← h, tapClose, if_neg (by rw [hl]; decide), if_neg (by rw [ha, hm]; decide)]
    dsimp only
    rw [hd, hdu, ← hx, hu, hv]
    rfl
  have hrow : v = { u with regs := v.regs } := hv ▸ frame_writeRow Reg.BOOT_TAP_DIG _ u
  have hmeas : v.meas = s.meas := by
    rw [hrow, ← hu, tapOctets, frame_sramPut]
    rfl
  have hrd : ∀ f : Fld, f.place < (Reg.BOOT_TAP_DIG 0).place → v.rd f = (tapOctets s place img).rd f := by
    intro f hf
    rw [← hv]
    refine (foldl_keeps (State.rd · f) (fun s e => State.rd_wr_place s _ fun h => ?_) _ u).trans (hu ▸ rfl)
    rw [h] at hf
    simp only [Fld.place, Reg.BOOT_TAP_DIG] at hf
    omega
  rw [ht]
  refine ⟨?_, ?_, ?_, ?_, ?_, ?_, ?_⟩
  · have hoff : ((v.flag Reg.BOOT_TAP_STAT_ARMED false).flag Reg.BOOT_TAP_CTL_CLOSE true).on Reg.BOOT_TAP_STAT_ARMED = false :=
      (State.on_flag_place _ _ (by decide)).trans (State.on_flag _ Nat.one_ne_zero _)
    exact hoff
  · have hon : ((v.flag Reg.BOOT_TAP_STAT_ARMED false).flag Reg.BOOT_TAP_CTL_CLOSE true).on Reg.BOOT_TAP_CTL_CLOSE = true := State.on_flag _ Nat.one_ne_zero _
    exact hon
  · exact congrArg (fun q : MeasSt => q.queue ++ [⟨3, 0, d⟩]) hmeas
  · have hdig : (v.du 63).dig = d := by
      rw [hrow, ← hu]
      refine (congrArg DigestUnit.dig (State.du_setDu (tapOctets s place img) 63 x)).trans ?_
      rw [hx]
    exact hdig
  · have hmem : v.mem = (s.sramPut place img).mem := by
      rw [hrow, ← hu]
      rfl
    exact hmem
  · refine List.ext_getElem? fun w => ?_
    by_cases hw : w < 24
    · have hrd := rd_writeRow (g := Reg.BOOT_TAP_DIG) (fun _ _ => place_tapDig_ne) (fun _ => rfl) (packWords d) 0 u (w := w) (by omega) (Nat.zero_le w)
      rw [hlen, ← List.range_eq_range', hv, Nat.sub_zero, ← List.getElem?_map] at hrd
      rw [← hrd, List.getElem?_map, List.getElem?_range hw]
      refine congrArg some ?_
      have hkeep : ((v.flag Reg.BOOT_TAP_STAT_ARMED false).flag Reg.BOOT_TAP_CTL_CLOSE true).rd (Reg.BOOT_TAP_DIG w) = v.rd (Reg.BOOT_TAP_DIG w) := by
        rw [State.rd_flag_place, State.rd_flag_place]
        · simp only [Fld.place, Reg.BOOT_TAP_DIG, Reg.BOOT_TAP_STAT_ARMED]
          omega
        · simp only [Fld.place, Reg.BOOT_TAP_DIG, Reg.BOOT_TAP_CTL_CLOSE]
          omega
      exact hkeep
    · rw [List.getElem?_eq_none (by rw [List.length_map, List.length_range]; omega), List.getElem?_eq_none (by rw [List.length_map, hlen]; omega)]
  · have hcount : ∀ (r : State) (n : Nat), (r.wr2 Reg.BOOT_TAP_OCT_L Reg.BOOT_TAP_OCT_H n).rd2 Reg.BOOT_TAP_OCT_L Reg.BOOT_TAP_OCT_H = n % 2 ^ 36 := by
      intro r n
      rw [State.rd2, State.wr2, State.rd_wr, State.rd_wr_place _ _ (by decide), State.rd_wr]
      simp only [Reg.BOOT_TAP_OCT_L, Reg.BOOT_TAP_OCT_H]
      omega
    have hfinal : ((v.flag Reg.BOOT_TAP_STAT_ARMED false).flag Reg.BOOT_TAP_CTL_CLOSE true).rd2 Reg.BOOT_TAP_OCT_L Reg.BOOT_TAP_OCT_H =
        (s.rd2 Reg.BOOT_TAP_OCT_L Reg.BOOT_TAP_OCT_H + img.length) % 2 ^ 36 := by
      rw [State.rd2, State.rd_flag_place _ _ (by decide), State.rd_flag_place _ _ (by decide), State.rd_flag_place _ _ (by decide),
        State.rd_flag_place _ _ (by decide), hrd _ (by decide), hrd _ (by decide)]
      refine (hcount (s.sramPut place img) _).trans ?_
      rw [frame_sramPut]
      rfl
    exact hfinal

end Tap

/-! ### Measurement -/

section Measurement
variable {s : State}

theorem measxData_wr (s : State) (q : Nat) {f : Fld} (v : Nat) (hf : ∀ w < 24, (Reg.MEASX_DATA q w).place ≠ f.place) : measxData (s.wr f v) q = measxData s q := by
  unfold measxData
  refine congrArg unpackWords (List.map_congr_left fun w hw => ?_)
  exact State.rd_wr_place _ _ (hf w (List.mem_range.mp hw))

/-- A request set with GO clear asks for an extension within its range, and refuses one outside it. -/
theorem measRequest_asks {q lo hi i : Nat} (hg : s.on (Reg.MEASX_CMD_GO q) = false) (hlo : lo ≤ i) (hhi : i ≤ hi) {t : State} (h : measRequest s q lo hi i = t) :
    t.on (Reg.MEASX_CMD_GO q) = true ∧ t.meas.queue = s.meas.queue ++ [⟨q, i, measxData s q⟩] := by
  have hdata : measxData ((s.wr (Reg.MEASX_CMD_INDEX q) i).flag (Reg.MEASX_CMD_GO q) true) q = measxData s q := by
    have hgo : ∀ w < 24, (Reg.MEASX_DATA q w).place ≠ (Reg.MEASX_CMD_GO q).place := by
      intro w _
      simp only [Fld.place, Reg.MEASX_DATA, Reg.MEASX_CMD_GO]
      omega
    have hidx : ∀ w < 24, (Reg.MEASX_DATA q w).place ≠ (Reg.MEASX_CMD_INDEX q).place := by
      intro w _
      simp only [Fld.place, Reg.MEASX_DATA, Reg.MEASX_CMD_INDEX]
      omega
    exact (measxData_wr _ q _ hgo).trans (measxData_wr s q _ hidx)
  have hask : measRequest s q lo hi i = { (s.wr (Reg.MEASX_CMD_INDEX q) i).flag (Reg.MEASX_CMD_GO q) true with
      meas := { s.meas with queue := s.meas.queue ++ [⟨q, i, measxData ((s.wr (Reg.MEASX_CMD_INDEX q) i).flag (Reg.MEASX_CMD_GO q) true) q⟩] } } :=
    (if_neg (by rw [hg]; decide)).trans (if_neg (by omega))
  rw [← h, hask, hdata]
  have hon : ((s.wr (Reg.MEASX_CMD_INDEX q) i).flag (Reg.MEASX_CMD_GO q) true).on (Reg.MEASX_CMD_GO q) = true := State.on_flag _ Nat.one_ne_zero _
  exact ⟨hon, rfl⟩

theorem measRequest_refuses {q lo hi i : Nat} (hg : s.on (Reg.MEASX_CMD_GO q) = false) (h : i < lo ∨ hi < i) :
    measRequest s q lo hi i = ((s.wr (Reg.MEASX_CMD_INDEX q) i).wr (Reg.MEASX_STAT_ERR q) 1).flag (Reg.MEASX_STAT_DONE q) true :=
  (if_neg (by rw [hg]; decide)).trans (if_pos h)

/-- What a refusal shows. -/
theorem measRefused_spec (s : State) (q i : Nat) {t : State} (h : ((s.wr (Reg.MEASX_CMD_INDEX q) i).wr (Reg.MEASX_STAT_ERR q) 1).flag (Reg.MEASX_STAT_DONE q) true = t) :
    t.rd (Reg.MEASX_STAT_ERR q) = 1 ∧ t.on (Reg.MEASX_STAT_DONE q) = true ∧ t.meas = s.meas := by
  subst h
  refine ⟨?_, State.on_flag _ Nat.one_ne_zero _, rfl⟩
  rw [State.rd_flag_place _ _ (by simp only [Fld.place, Reg.MEASX_STAT_ERR, Reg.MEASX_STAT_DONE]; omega), State.rd_wr]
  rfl

/-- The lead's request. -/
theorem measCommand_host {m : Requester} {i : Nat} (hm : m ≠ .mc) (hl : s.lead = m.lead) (hu : s.hostUp = true) :
    measCommand s (.host m) i = measRequest s 2 16 31 i := by
  refine if_neg ?_
  rintro (h | h | h)
  · exact hm h
  · exact h hl
  · exact h hu

theorem measCommand_drops {m : Requester} {i : Nat} (h : m = .mc ∨ s.lead ≠ m.lead ∨ s.hostUp = false) : measCommand s (.host m) i = dropFollower s m := by
  refine if_pos ?_
  exact h.imp id (Or.imp id fun h => by rw [h]; decide)

/-- One extension: the register, and its two records. -/
theorem measExtend_extends (s : State) (q i src : Nat) (world : Bool) (d : List Octet) {t : State} (h : measExtend s q i src world d = t) :
    t.meas.queue = s.meas.queue ∧ t.measReg i = sha384 (s.measReg i ++ fitOctets 48 d) ∧ ∀ j, j ≠ i → t.measReg j = s.measReg j := by
  have hmeas : t.meas = { s.meas with regs := tset (List.replicate 48 0) s.meas.regs i (sha384 (s.measReg i ++ fitOctets 48 d)) } := by
    rw [← h]
    exact (recorded_jrecG ..).meas.trans ((recorded_jrecG ..).meas.trans rfl)
  refine ⟨by rw [hmeas], ?_, fun j hj => ?_⟩
  · rw [State.measReg, hmeas]
    exact (tget_tset ..).trans (if_pos rfl)
  · rw [State.measReg, hmeas]
    exact (tget_tset ..).trans (if_neg hj)

/-- The block serves the oldest request. -/
theorem measServe_serves {r : MeasReq} {rest : List MeasReq} (hq : s.meas.queue = r :: rest) {t : State} (h : measServe s = t) :
    t.meas.queue = rest ∧ t.measReg r.index = sha384 (s.measReg r.index ++ fitOctets 48 r.d) ∧ (∀ j, j ≠ r.index → t.measReg j = s.measReg j) ∧
      (r.set = 3 → t.on Reg.BOOT_TAP_CTL_CLOSE = false) ∧
      (r.set ≠ 3 → t.on (Reg.MEASX_CMD_GO r.set) = false ∧ t.rd (Reg.MEASX_STAT_ERR r.set) = 0 ∧ t.on (Reg.MEASX_STAT_DONE r.set) = true) := by
  generalize hu : measExtend { s with meas := { s.meas with queue := rest } } r.set r.index
    (measSource { s with meas := { s.meas with queue := rest } } r.set).1 (measSource { s with meas := { s.meas with queue := rest } } r.set).2 r.d = u
  obtain ⟨hqueue, hreg, hrest⟩ := measExtend_extends _ _ _ _ _ _ hu
  have ht : t = if r.set = 3 then u.flag Reg.BOOT_TAP_CTL_CLOSE false
      else ((u.flag (Reg.MEASX_CMD_GO r.set) false).wr (Reg.MEASX_STAT_ERR r.set) 0).flag (Reg.MEASX_STAT_DONE r.set) true := by
    rw [← h, measServe, hq]
    dsimp only
    rw [hu]
  by_cases h3 : r.set = 3
  · rw [if_pos h3] at ht
    subst ht
    exact ⟨hqueue, hreg, hrest, fun _ => State.on_flag _ Nat.one_ne_zero _, fun h => absurd h3 h⟩
  · rw [if_neg h3] at ht
    subst ht
    refine ⟨hqueue, hreg, hrest, fun h => absurd h h3, fun _ => ⟨?_, ?_, State.on_flag _ Nat.one_ne_zero _⟩⟩
    · rw [State.on_flag_place _ _ (by simp only [Fld.place, Reg.MEASX_CMD_GO, Reg.MEASX_STAT_DONE]; omega),
        State.on_wr_place _ _ (by simp only [Fld.place, Reg.MEASX_CMD_GO, Reg.MEASX_STAT_ERR]; omega)]
      exact State.on_flag _ Nat.one_ne_zero _
    · rw [State.rd_flag_place _ _ (by simp only [Fld.place, Reg.MEASX_STAT_ERR, Reg.MEASX_STAT_DONE]; omega), State.rd_wr]
      rfl

end Measurement

/-- Settles O47: the boot tap and the measurement registers. -/
theorem bootTapAndMeasurement : Obligations.BootTapAndMeasurement := by
  intro s
  refine ⟨fun hl => ⟨?_, fun a img => ?_⟩, fun hl hm hc => ⟨_, rfl, tapArm_arms hl hm hc rfl⟩, fun hl hm => ⟨?_, fun a img => ?_⟩,
    fun hl ha hm a img => ⟨_, rfl, tapClose_closes hl ha hm rfl⟩, fun sc i => ⟨fun hg => ?_, fun hg h1 h15 => ⟨_, rfl, measRequest_asks hg h1 h15 rfl⟩, fun hg h => ?_⟩,
    fun m i => ⟨fun h => ?_, fun hm hl hu hg hi => ?_, fun hm hl hu hg hi => ?_⟩, fun hq => ?_, fun r rest hq => ⟨_, rfl, measServe_serves hq rfl⟩⟩
  · exact congrArg Host.Outcome.next (if_pos hl)
  · exact congrArg Host.Outcome.next (if_pos hl)
  · exact congrArg Host.Outcome.next ((if_neg (by rw [hl]; decide)).trans (if_pos (.inl hm)))
  · exact congrArg Host.Outcome.next ((if_neg (by rw [hl]; decide)).trans (if_pos (.inr hm)))
  · exact congrArg Host.Outcome.next (if_pos hg)
  · exact congrArg Host.Outcome.next (measRequest_refuses hg (by omega))
  · exact congrArg Host.Outcome.next (measCommand_drops h)
  · exact ⟨_, congrArg Host.Outcome.next (measCommand_host hm hl hu), measRequest_asks hg hi (by omega) rfl⟩
  · exact ⟨_, congrArg Host.Outcome.next ((measCommand_host hm hl hu).trans (measRequest_refuses hg (.inl hi))), measRefused_spec s 2 i rfl⟩
  · have hserve : measServe s = s := by
      unfold measServe
      rw [hq]
    exact congrArg Host.Outcome.next hserve

/-! ### Plain registers -/

section Words
variable {s : State}

/-- What a controller's access to a device register does: refused by the fabric's check, or let through. -/
theorem registerWrite_word {c : CtlId} {a : DWord} {v : BitVec 32} (h6 : targetOf c.num a.toNat = 6) :
    registerWrite s (.word c a) v = match checkAccess s (ctlAccess s c .write a 0) with
      | some r => reportRefusal s (ctlAccess s c .write a 0) r
      | none => devWrite s ⟨c.num, (s.ctl c).secure, (s.ctl c).priv⟩ a.toNat (v.toNat % 2 ^ 18) := if_neg (not_not_intro h6)

theorem latchedRead_word {c : CtlId} {a : DWord} (h6 : targetOf c.num a.toNat = 6) :
    latchedRead s (.word c a) = match checkAccess s (ctlAccess s c .read a 0) with
      | some r => reportRefusal s (ctlAccess s c .read a 0) r
      | none => (devRead s c.num a.toNat).2 := if_neg (not_not_intro h6)

/-- The bits of a word, by its field. -/
theorem testBit_field (x lo w i : Nat) (h : i < w) : (x / 2 ^ lo % 2 ^ w).testBit i = x.testBit (lo + i) := by
  rw [Nat.testBit_mod_two_pow, decide_eq_true h, Bool.true_and, ← Nat.shiftRight_eq_div_pow, Nat.testBit_shiftRight]

theorem place_mark_ne (f : Fld) : f.place ≠ f.mark.place := by
  simp only [Fld.place, Fld.mark]
  omega

/-- What a write does to a field, by its access code (Table 0.4). -/
theorem wrAcc_spec (s : State) (f : Fld) (x : Nat) :
    (f.acc = .rw → (s.wrAcc f x).rd f = x / 2 ^ f.lo % 2 ^ f.wid) ∧
    (f.acc = .ro ∨ f.acc = .wo ∨ f.acc = .xo → s.wrAcc f x = s) ∧
    (f.acc = .w1c → ∀ i < f.wid, ((s.wrAcc f x).rd f).testBit i = ((s.rd f).testBit i && !x.testBit (f.lo + i))) ∧
    (f.acc = .w1s → ∀ i < f.wid, ((s.wrAcc f x).rd f).testBit i = ((s.rd f).testBit i || x.testBit (f.lo + i))) ∧
    (f.acc = .wl → s.on f.mark = true → s.wrAcc f x = s) ∧
    (f.acc = .wl → s.on f.mark = false → (s.wrAcc f x).rd f = x / 2 ^ f.lo % 2 ^ f.wid ∧ (s.wrAcc f x).on f.mark = true) := by
  have hbits : ∀ (b : BitVec f.wid) (i : Nat), ((s.wr f b.toNat).rd f).testBit i = b.getLsbD i := by
    intro b i
    rw [State.rd_wr, Nat.mod_eq_of_lt b.isLt, BitVec.testBit_toNat]
  have hfield : ∀ i < f.wid, (BitVec.ofNat f.wid (x / 2 ^ f.lo % 2 ^ f.wid)).getLsbD i = x.testBit (f.lo + i) := by
    intro i hi
    rw [BitVec.getLsbD_ofNat, decide_eq_true hi, Bool.true_and, testBit_field _ _ _ _ hi]
  refine ⟨fun ha => ?_, fun ha => ?_, fun ha i hi => ?_, fun ha i hi => ?_, fun ha hm => ?_, fun ha hm => ?_⟩
  all_goals unfold State.wrAcc
  · rw [ha]
    exact (State.rd_wr ..).trans (Nat.mod_mod _ _)
  · rcases ha with ha | ha | ha <;> rw [ha]
  · rw [ha]
    refine (hbits _ i).trans ?_
    rw [BitVec.getLsbD_and, BitVec.getLsbD_not, hfield i hi, BitVec.getLsbD_ofNat, decide_eq_true hi, Bool.true_and, Bool.true_and]
  · rw [ha]
    refine (hbits _ i).trans ?_
    rw [BitVec.getLsbD_or, hfield i hi, BitVec.getLsbD_ofNat, decide_eq_true hi, Bool.true_and]
  · rw [ha]
    exact if_pos hm
  · rw [ha]
    have hopen : ¬ s.on f.mark = true := by rw [hm]; decide
    dsimp only
    rw [if_neg hopen, State.rd_flag_place _ _ (place_mark_ne f), State.rd_wr, Nat.mod_mod]
    exact ⟨rfl, State.on_flag _ Nat.one_ne_zero _⟩

end Words

/-- Settles O48: accesses to device registers, windows of functions, and access codes. -/
theorem plainRegisters : Obligations.PlainRegisters := by
  intro s v
  refine ⟨fun c a h6 => ⟨?_, ?_⟩, fun c a r h6 => ⟨fun hc => ?_, fun hc => ?_⟩, fun c a h6 => ⟨fun hc => ?_, fun hc => ?_⟩,
    fun p off => ⟨fun hr => ⟨?_, ?_⟩, fun hr ho => ⟨?_, ?_⟩, fun hr ho => ⟨?_, ?_⟩⟩, fun f off => ⟨fun hr => ⟨?_, ?_⟩, fun hr ho => ⟨?_, ?_⟩, fun hr ho => ⟨?_, ?_⟩⟩,
    wrAcc_spec s⟩
  · exact congrArg Host.Outcome.next (if_pos h6)
  · exact congrArg Host.Outcome.next (if_pos h6)
  · refine congrArg Host.Outcome.next ((registerWrite_word h6).trans ?_)
    rw [hc]
  · refine congrArg Host.Outcome.next ((latchedRead_word h6).trans ?_)
    rw [hc]
  · refine congrArg Host.Outcome.next ((registerWrite_word h6).trans ?_)
    rw [hc]
  · refine congrArg Host.Outcome.next ((latchedRead_word h6).trans ?_)
    rw [hc]
  · exact congrArg Host.Outcome.next (if_pos (by rw [hr]; decide))
  · exact congrArg Host.Outcome.next (if_pos (by rw [hr]; decide))
  · exact congrArg Host.Outcome.next ((if_neg (not_not_intro hr)).trans (if_pos ho))
  · exact congrArg Host.Outcome.next ((if_neg (not_not_intro hr)).trans (if_pos ho))
  · exact congrArg Host.Outcome.next ((if_neg (not_not_intro hr)).trans (if_neg (not_not_intro ho)))
  · exact congrArg Host.Outcome.next ((if_neg (not_not_intro hr)).trans (if_neg (not_not_intro ho)))
  · exact congrArg Host.Outcome.next (if_pos (by rw [hr]; decide))
  · exact congrArg Host.Outcome.next (if_neg fun h => absurd h.1 (by rw [hr]; decide))
  · exact congrArg Host.Outcome.next ((if_neg (not_not_intro hr)).trans (if_pos ho))
  · exact congrArg Host.Outcome.next (if_pos ⟨hr, ho⟩)
  · exact congrArg Host.Outcome.next ((if_neg (not_not_intro hr)).trans (if_neg (not_not_intro ho)))
  · exact congrArg Host.Outcome.next (if_neg fun h => h.2 ho)

end Sys2Proof.Machine
end


section
/-! SUPPORT. O49 and O50: the management controller's surroundings and disciplined time. -/
namespace Sys2Proof.Machine
open Sys2Proof

/-! ### Health log and latched lines -/

theorem rd_hlogAdd (s : State) (typ src : Nat) (data : List Octet) {f : Fld} (hf : f.place ≠ Reg.HLOG_SEQ.place) : (hlogAdd s typ src data).rd f = s.rd f :=
  State.rd_wr_place _ _ hf

theorem on_hlogAdd (s : State) (typ src : Nat) (data : List Octet) {f : Fld} (hf : f.place ≠ Reg.HLOG_SEQ.place) : (hlogAdd s typ src data).on f = s.on f :=
  State.on_wr_place _ _ hf

theorem rd_mcLatch (s : State) (b : Nat) {f : Fld} (hf : f.place ≠ Reg.MC_INT_LATCH.place) : (mcLatch s b).rd f = s.rd f := by
  unfold mcLatch
  dsimp only
  split
  · rfl
  · exact State.rd_wr_place _ _ hf

/-- A latched line changes registers alone. -/
theorem frame_mcLatch (s : State) (b : Nat) : mcLatch s b = { s with regs := (mcLatch s b).regs } := by
  unfold mcLatch
  dsimp only
  split <;> rfl

/-- A latched line shows. -/
theorem bit_mcLatch (s : State) {b : Nat} (hb : b < 4) : bit ((mcLatch s b).rd Reg.MC_INT_LATCH) b = true := by
  unfold mcLatch
  dsimp only
  split
  · next h => exact h
  · next h =>
    rw [State.rd_wr]
    have hw : Reg.MC_INT_LATCH.wid = 4 := rfl
    rw [hw]
    simp only [bit, decide_eq_true_eq] at h ⊢
    generalize s.rd Reg.MC_INT_LATCH = v at h
    have hcases : b = 0 ∨ b = 1 ∨ b = 2 ∨ b = 3 := by omega
    rcases hcases with rfl | rfl | rfl | rfl <;> omega

section Controller
variable {s : State}

theorem mcRelease_releases (h : s.on Reg.MC_STAT_RUNNING = false) {t : State} (ht : mcRelease s = t) :
    t.mc = { Ctl.reset false with running := true } ∧ t.on Reg.MC_STAT_RUNNING = true := by
  have hrun : mcRelease s = ({ s with mc := { Ctl.reset false with running := true } }.flag Reg.MC_STAT_RUNNING true).flag Reg.MC_CTL_RUN true :=
    if_neg (by rw [h]; decide)
  rw [← ht, hrun]
  exact ⟨rfl, (State.on_flag_place _ _ (by decide)).trans (State.on_flag _ Nat.one_ne_zero _)⟩

/-- A reset of the MC that does not hold the lead. -/
theorem mcResetEffects_follower (h : s.lead ≠ 3) : mcResetEffects s =
    hlogAdd (breakTokens ((s.flag Reg.MC_STAT_HALTED false).flag Reg.MGT_STAT_MC_HALTED false) (fun h => decide (h = 2))) 5 0xFF [] := by
  have hlead : ((s.flag Reg.MC_STAT_HALTED false).flag Reg.MGT_STAT_MC_HALTED false).lead ≠ 3 := by
    rw [State.lead, State.rd_flag_place _ _ (by decide), State.rd_flag_place _ _ (by decide)]
    exact h
  have hlapse : lapseLead ((s.flag Reg.MC_STAT_HALTED false).flag Reg.MGT_STAT_MC_HALTED false) 3 =
      (s.flag Reg.MC_STAT_HALTED false).flag Reg.MGT_STAT_MC_HALTED false := if_neg fun h => hlead h.1
  unfold mcResetEffects
  dsimp only
  rw [hlapse]

theorem mcExpire_idle (h : s.rd Reg.MC_WDOG_MS = 0 ∨ s.on Reg.MC_STAT_RUNNING = false) : mcExpire s = s :=
  if_pos (h.imp id fun h => by rw [h]; decide)

theorem mcExpire_expires (h0 : s.rd Reg.MC_WDOG_MS ≠ 0) (h : s.on Reg.MC_STAT_RUNNING = true) : mcExpire s = mcResetEffects
    ((({ s with mc := Ctl.reset false }.flag Reg.MC_STAT_RUNNING false).flag Reg.MC_CTL_RUN false).flag Reg.MC_STAT_WDOG true) := by
  refine if_neg ?_
  rintro (h' | h')
  · exact h0 h'
  · exact h' h

end Controller

section Monitors
variable {s : State} {k : Nat} {v : Int}

theorem monLevel_lt (s : State) (k : Nat) (v : Int) : monLevel s k v < 4 := by
  unfold monLevel
  dsimp only
  split
  · decide
  · split <;> decide

/-- The level is critical exactly beyond the critical threshold. -/
theorem monLevel_critical (s : State) (k : Nat) (v : Int) :
    monLevel s k v = 2 ↔ monBeyond k v (signed18 (s.rd (Reg.MON_CRIT_THR k))) (decide (s.rd (Reg.MON_VAL_LEVEL k) = 2)) = true := by
  unfold monLevel
  dsimp only
  constructor
  · intro h
    by_contra hno
    rw [if_neg hno] at h
    split at h <;> cases h
  · exact fun h => if_pos h

/-- A change of level shows in the status, latches line 0 and is logged. -/
theorem monSample_changes (hk : k < 14) (hl : monLevel s k v ≠ s.rd (Reg.MON_VAL_LEVEL k)) {t : State} (ht : monSample s k v = t) :
    t.rd (Reg.MON_VAL_LEVEL k) = monLevel s k v ∧ bit (t.rd Reg.MC_INT_LATCH) 0 = true ∧
      (t.on Reg.MGT_STAT_MON_CRIT = true ↔ ∃ j < 14, t.rd (Reg.MON_VAL_LEVEL j) = 2) := by
  have hlt := monLevel_lt s k v
  obtain ⟨u, hu⟩ : ∃ u, (s.wr (Reg.MON_VAL_VALUE k) (v % 2 ^ 16).toNat).wr (Reg.MON_VAL_LEVEL k) (monLevel s k v) = u := ⟨_, rfl⟩
  obtain ⟨w, hw⟩ : ∃ w, (u.flag Reg.MGT_STAT_MON_WARN ((List.range 14).any (fun j => decide (u.rd (Reg.MON_VAL_LEVEL j) = 1)))).flag Reg.MGT_STAT_MON_CRIT
      ((List.range 14).any (fun j => decide (u.rd (Reg.MON_VAL_LEVEL j) = 2))) = w := ⟨_, rfl⟩
  have hsample : t = mcLatch (hlogAdd w 1 k (leOctets 2 (v % 2 ^ 16).toNat ++ leOctets 1 (monLevel s k v))) 0 := by
    rw [← ht, monSample]
    dsimp only
    rw [if_neg hl, hu, hw]
  have hlevel : ∀ j < 14, t.rd (Reg.MON_VAL_LEVEL j) = u.rd (Reg.MON_VAL_LEVEL j) := by
    intro j hj
    rw [hsample, rd_mcLatch, rd_hlogAdd, ← hw, State.rd_flag_place, State.rd_flag_place]
    all_goals
      simp only [Fld.place, Reg.MON_VAL_LEVEL, Reg.MGT_STAT_MON_WARN, Reg.MGT_STAT_MON_CRIT, Reg.HLOG_SEQ, Reg.MC_INT_LATCH]
      omega
  refine ⟨?_, ?_, ?_⟩
  · rw [hlevel k hk, ← hu, State.rd_wr]
    exact Nat.mod_eq_of_lt hlt
  · rw [hsample]
    exact bit_mcLatch _ (by decide)
  · have hcrit : t.on Reg.MGT_STAT_MON_CRIT = (List.range 14).any (fun j => decide (u.rd (Reg.MON_VAL_LEVEL j) = 2)) := by
      rw [hsample, State.on, rd_mcLatch _ _ (by decide), rd_hlogAdd _ _ _ _ (by decide), ← hw]
      exact State.on_flag _ Nat.one_ne_zero _
    rw [hcrit, List.any_eq_true]
    constructor
    · rintro ⟨j, hj, h⟩
      have hj := List.mem_range.mp hj
      exact ⟨j, hj, (hlevel j hj).trans (of_decide_eq_true h)⟩
    · rintro ⟨j, hj, h⟩
      exact ⟨j, List.mem_range.mpr hj, decide_eq_true ((hlevel j hj).symm.trans h)⟩

end Monitors

section Flash
variable {s : State}

theorem hlogWipe_wipes {m : Requester} (hl : s.lead = m.lead) (he : s.on Reg.MGT_CFG_HLOG_ERASE = false) {t : State} (ht : hlogWipe s m = t) :
    t.mgmt.flashOp = 2 ∧ t.mgmt.hlog.length = 1 := by
  have hwipe : hlogWipe s m = (hlogAdd (s.setMgmt (fun m => { m with hlog := [], flashOp := 2 })) 8 0xFF []).flag Reg.MGT_CFG_HLOG_ERASE true :=
    (if_neg (not_not_intro hl)).trans (if_neg (by rw [he]; decide))
  rw [← ht, hwipe]
  exact ⟨rfl, rfl⟩

theorem stageCommand_drops (h : s.on Reg.STAGE_CMD_GO = true ∨ s.on Reg.MGT_CFG_MC_STAGE = false) : stageCommand s = s :=
  if_pos (h.imp id fun h => by rw [h]; decide)

theorem stageCommand_stages (hg : s.on Reg.STAGE_CMD_GO = false) (hm : s.on Reg.MGT_CFG_MC_STAGE = true) {a n : Nat}
    (ha : a = s.rd2 Reg.STAGE_ADDR_L Reg.STAGE_ADDR_H) (hn : n = min (leAt (s.sramGet a 16) 8 4 - leAt (s.sramGet a 16) 4 4) (2 * (0x3020000 - a) - 16))
    {t : State} {st code : Nat} (hb : stageBlock s 3 2 (s.sramGet a (16 + n)) = (t, st, code)) : stageCommand s =
      (((t.wr Reg.STAGE_CMD_STATUS st).wr Reg.STAGE_CMD_CODE code).flag Reg.STAGE_CMD_GO true).setMgmt (fun m => { m with flashOp := 3 }) := by
  subst hn ha
  unfold stageCommand
  rw [if_neg (by rw [hg, hm]; decide)]
  dsimp only
  rw [hb]

/-- The end of a flash operation, by which it was. -/
theorem flashDone_of {b : State} (hb : s.setMgmt (fun m => { m with flashOp := 0 }) = b) : flashDone s =
    if s.mgmt.flashOp = 1 then mcLatch (b.flag Reg.HLOG_APPEND_GO false) 2
    else if s.mgmt.flashOp = 2 then b.flag Reg.MGT_CFG_HLOG_ERASE false
    else if s.mgmt.flashOp = 3 then mcLatch (b.flag Reg.STAGE_CMD_GO false) 2 else b := by
  subst hb
  rfl

end Flash

section Sideband
variable {s : State} {msg : List Octet}

/-- Set Endpoint ID assigns it. -/
theorem mctpControl_set (h : nth 0 msg 1 = 1) {t : State} (ht : mctpControl s msg = t) :
    t.mgmt.eid = (nth 0 msg 3).toNat ∧ t.mgmt.mctpIn = s.mgmt.mctpIn ++ [msg] ∧
      t.sent = s.sent ++ [.mctp [nth 0 msg 0 &&& 0x1F, 1, 0, 0, nth 0 msg 3, 0]] := by
  have hset : mctpControl s msg = mctpSend ((mctpArrive s msg).setMgmt (fun m => { m with eid := (nth 0 msg 3).toNat }))
      [nth 0 msg 0 &&& 0x1F, nth 0 msg 1, 0, 0, BitVec.ofNat 8 (nth 0 msg 3).toNat, 0] := if_pos h
  rw [h, BitVec.ofNat_toNat, BitVec.setWidth_eq] at hset
  rw [← ht, hset]
  exact ⟨rfl, rfl, rfl⟩

/-- Get Endpoint ID answers it. -/
theorem mctpControl_get (h : nth 0 msg 1 = 2) {t : State} (ht : mctpControl s msg = t) :
    t.mgmt.eid = s.mgmt.eid ∧ t.sent = s.sent ++ [.mctp [nth 0 msg 0 &&& 0x1F, 2, 0, BitVec.ofNat 8 s.mgmt.eid, 0, 0]] := by
  have hget : mctpControl s msg = mctpSend (mctpArrive s msg) [nth 0 msg 0 &&& 0x1F, nth 0 msg 1, 0, BitVec.ofNat 8 s.mgmt.eid, 0, 0] :=
    (if_neg (by rw [h]; decide)).trans (if_pos h)
  rw [h] at hget
  rw [← ht, hget]
  exact ⟨rfl, rfl⟩

theorem mctpControl_other (h1 : nth 0 msg 1 ≠ 1) (h2 : nth 0 msg 1 ≠ 2) (h5 : nth 0 msg 1 ≠ 5) :
    mctpControl s msg = mctpSend (mctpArrive s msg) [nth 0 msg 0 &&& 0x1F, nth 0 msg 1, 5] := (if_neg h1).trans ((if_neg h2).trans (if_neg h5))

/-- GetSensorReading answers the channel's latest sample. -/
theorem pldmMonitor_reads (h : nth 0 msg 2 = 0x11) (hk : leAt msg 3 2 < 14) {t : State} (ht : pldmMonitor s msg = t) :
    t.mgmt.mctpIn = s.mgmt.mctpIn ++ [msg] ∧ t.sent = s.sent ++ [.mctp ([nth 0 msg 0 &&& 0x1F, 2, 0x11, 0, 3, 0, 0] ++
      [if s.rd (Reg.MON_VAL_LEVEL (leAt msg 3 2)) = 0 then 1 else if s.rd (Reg.MON_VAL_LEVEL (leAt msg 3 2)) = 1 then 2 else 3] ++
      [0, 0] ++ leOctets 2 (s.rd (Reg.MON_VAL_VALUE (leAt msg 3 2))))] := by
  have hread : pldmMonitor s msg = mctpSend (mctpArrive s msg) ([nth 0 msg 0 &&& 0x1F, 2, nth 0 msg 2, 0, 3, 0, 0] ++
      leOctets 1 (if s.rd (Reg.MON_VAL_LEVEL (leAt msg 3 2)) = 0 then 1 else if s.rd (Reg.MON_VAL_LEVEL (leAt msg 3 2)) = 1 then 2 else 3) ++ [0, 0] ++
      leOctets 2 (s.rd (Reg.MON_VAL_VALUE (leAt msg 3 2)))) := if_pos ⟨h, hk⟩
  have hlevel : ∀ n : Nat, leOctets 1 (if n = 0 then 1 else if n = 1 then 2 else 3) = [if n = 0 then 1 else if n = 1 then 2 else 3] := by
    intro n
    split
    · rfl
    · split <;> rfl
  rw [h, hlevel] at hread
  rw [← ht, hread]
  exact ⟨rfl, rfl⟩

/-- Image data over PLDM: kept for the MC, staged where it runs and may stage. -/
theorem pldmData_of (s : State) (msg : List Octet) : pldmData s msg = if s.on Reg.MGT_CFG_MC_STAGE ∧ s.mc.running then
    ((stageBlock (mctpArrive s msg) 3 2 msg).1.wr Reg.STAGE_CMD_STATUS (stageBlock (mctpArrive s msg) 3 2 msg).2.1).wr Reg.STAGE_CMD_CODE
      (stageBlock (mctpArrive s msg) 3 2 msg).2.2 else mctpArrive s msg := rfl

end Sideband

/-- Settles O49: the MC's release and resets, monitors, the health log, staging and sideband messages. -/
theorem management : Obligations.Management := by
  intro s
  refine ⟨fun h => ?_, fun h => ⟨_, rfl, mcRelease_releases h rfl⟩, rfl, fun h => ?_, fun h0 h => ?_, mcResetEffects_follower, rfl,
    fun k v => ⟨fun hl => ?_, fun hl => ⟨_, rfl, monSample_changes k.isLt hl rfl⟩, monLevel_critical s k v⟩, fun hg => ?_, fun hg => ?_,
    fun m => ⟨fun hl => ?_, fun hl he => ⟨_, rfl, hlogWipe_wipes hl he rfl⟩⟩, fun h => ?_, fun hg hm => ?_, ⟨fun h => ?_, fun h => ?_, fun h => ?_, fun h => ?_⟩,
    ⟨_, rfl, rfl, State.on_flag _ Nat.one_ne_zero _⟩, fun msg => ⟨fun h => ⟨_, rfl, mctpControl_set h rfl⟩, fun h => ⟨_, rfl, mctpControl_get h rfl⟩,
      fun h1 h2 h5 => ⟨_, congrArg Host.Outcome.next (mctpControl_other h1 h2 h5), rfl⟩, fun h hk => ⟨_, rfl, pldmMonitor_reads h hk rfl⟩, ⟨_, rfl, rfl, rfl⟩,
      fun h => ⟨_, congrArg Host.Outcome.next ((pldmData_of s msg).trans (if_neg ?_)), rfl, rfl⟩, fun hs hr t st code hb => ?_, ⟨_, rfl, rfl, rfl⟩, ⟨_, rfl, rfl, rfl⟩⟩⟩
  · exact congrArg Host.Outcome.next (if_pos h)
  · exact congrArg Host.Outcome.next (mcExpire_idle h)
  · exact congrArg Host.Outcome.next (mcExpire_expires h0 h)
  · exact congrArg Host.Outcome.next (if_pos hl)
  · exact congrArg Host.Outcome.next (if_pos hg)
  · exact congrArg Host.Outcome.next (if_neg (by rw [hg]; decide))
  · exact congrArg Host.Outcome.next (if_pos hl)
  · exact congrArg Host.Outcome.next (stageCommand_drops h)
  · exact fun t st code hb => congrArg Host.Outcome.next (stageCommand_stages hg hm rfl rfl hb)
  · exact congrArg Host.Outcome.next ((flashDone_of rfl).trans (by rw [h]; rfl))
  · exact congrArg Host.Outcome.next ((flashDone_of rfl).trans (if_pos h))
  · exact congrArg Host.Outcome.next ((flashDone_of rfl).trans (by rw [h]; rfl))
  · exact congrArg Host.Outcome.next ((flashDone_of rfl).trans (by rw [h]; rfl))
  · rintro ⟨hs, hr⟩
    rcases h with h | h
    · rw [h] at hs
      cases hs
    · rw [h] at hr
      cases hr
  · refine congrArg Host.Outcome.next ((pldmData_of s msg).trans ((if_pos ⟨hs, hr⟩).trans ?_))
    rw [hb]

/-! ### Disciplined time -/

section Time
variable {s : State}

theorem disciplined_unlocked (h : s.on Reg.TIME_CTL_LOCK = false) : disciplined s = s.setMgmt (fun m => { m with recent := true }) := by
  have hlock : (s.setMgmt (fun m => { m with recent := true })).on Reg.TIME_CTL_LOCK = false := h
  exact if_neg (by rw [hlock]; decide)

theorem rateWrite_unlocked (v : Word) (h : s.on Reg.TIME_CTL_LOCK = false) : rateWrite s v.toNat = (s.wr Reg.TIME_RATE_H v.toNat).setMgmt (fun m => { m with
    rate := max (-137438953) (min 137438953 (BitVec.ofNat 36 (s.rd Reg.TIME_RATE_L + 2 ^ 18 * v.toNat)).toInt), recent := true }) := by
  have hrate : (s.wr Reg.TIME_RATE_H v.toNat).rd2 Reg.TIME_RATE_L Reg.TIME_RATE_H = s.rd Reg.TIME_RATE_L + 2 ^ 18 * v.toNat := by
    rw [State.rd2, State.rd_wr, State.rd_wr_place _ _ (by decide)]
    exact congrArg (fun n => s.rd Reg.TIME_RATE_L + 2 ^ 18 * n) (Nat.mod_eq_of_lt v.isLt)
  unfold rateWrite
  dsimp only
  rw [hrate]
  exact disciplined_unlocked ((State.on_wr_place s v.toNat (by decide)).trans h)

/-- What a step of the counter leaves. -/
theorem stepWrite_unlocked (v : Word) (h : s.on Reg.TIME_CTL_LOCK = false) {t : State} (ht : stepWrite s v.toNat = t) {w : Nat × Nat} {sum : Int}
    (hw : timeWords Reg.TIME_STEP (s.wr (Reg.TIME_STEP 4) v.toNat) = w)
    (hsum : (s.mgmt.secs : Int) * 1000000000 + s.mgmt.ns + (BitVec.ofNat 48 w.1).toInt * 1000000000 + w.2 = sum) :
    (t.mgmt.ns : Int) = sum % 1000000000 ∧ (t.mgmt.secs : Int) = sum / 1000000000 % 2 ^ 48 ∧ t.mgmt.recent = true := by
  obtain ⟨u, hu⟩ : ∃ u, hlogAdd (putTime (s.wr (Reg.TIME_STEP 4) v.toNat) sum) 3 0xFF (leOctets 6 w.1 ++ leOctets 4 w.2) = u := ⟨_, rfl⟩
  have hlock : u.on Reg.TIME_CTL_LOCK = false := by
    rw [← hu, on_hlogAdd _ _ _ _ (by decide)]
    exact (State.on_wr_place s v.toNat (by decide)).trans h
  have hstep : stepWrite s v.toNat = u.setMgmt (fun m => { m with recent := true }) := by
    refine Eq.trans ?_ (disciplined_unlocked hlock)
    rw [← hu, ← hsum, ← hw]
    rfl
  rw [← ht, hstep, ← hu]
  refine ⟨?_, ?_, rfl⟩
  · exact Int.toNat_of_nonneg (Int.emod_nonneg _ (by decide))
  · exact Int.toNat_of_nonneg (Int.emod_nonneg _ (by decide))

/-- The first entry of an empty ledger. -/
theorem ledgerPut_first {typ src : Nat} {data : List Octet} (hl : s.tamp.ledger = []) (h2 : typ ≠ 2) :
    ledgerPut s typ src data = ledgerStore s s.tamp.ledger.length (ledgerEntry s typ src 1 data) := by
  have hlast : (match s.tamp.lastIdx with | some i => nth [] s.tamp.ledger i | none => []) = ([] : List Octet) := by
    rw [hl]
    split <;> rfl
  refine (if_neg fun h => h2 h.2.1).trans ((if_neg ?_).trans (if_pos ?_))
  · rintro ⟨_, _, h⟩
    have hnone : leAt ([] : List Octet) 0 1 = 1 := hlast ▸ h
    exact absurd hnone (by decide)
  · rw [hl]
    decide

/-- The state in which a new time state is shown, latched and logged. -/
def timeShown (s : State) (x : Nat) : State := mcLatch (hlogAdd (s.wr Reg.MGT_STAT_TIME_STATE x) 2 0xFF (leOctets 1 x)) 3

theorem frame_timeShown (s : State) (x : Nat) : timeShown s x = { s with
    regs := (timeShown s x).regs
    mgmt := { s.mgmt with hlog := (timeShown s x).mgmt.hlog, hseq := (timeShown s x).mgmt.hseq } } := by
  rw [timeShown, frame_mcLatch]
  rfl

theorem rd_timeShown (s : State) (x : Nat) {f : Fld} (h1 : f.place ≠ Reg.MGT_STAT_TIME_STATE.place) (h2 : f.place ≠ Reg.HLOG_SEQ.place)
    (h3 : f.place ≠ Reg.MC_INT_LATCH.place) : (timeShown s x).rd f = s.rd f := by
  rw [timeShown, rd_mcLatch _ _ h3, rd_hlogAdd _ _ _ _ h2, State.rd_wr_place _ _ h1]

/-- A change of time state is shown; the first in DISCIPLINED or HOLDOVER anchors the ledger. -/
theorem setTimeState_of {x : Nat} (hne : x ≠ s.rd Reg.MGT_STAT_TIME_STATE) : setTimeState s x =
    if (x = 2 ∨ x = 3) ∧ ¬ s.tamp.anchored then
      (ledgerPut (timeShown s x) 1 0x31 (leOctets 6 s.mgmt.secs ++ leOctets 4 s.mgmt.ns ++ leOctets 1 (x - 2))).setTamp (fun t => { t with anchored := true })
    else timeShown s x := by
  have hanch : (timeShown s x).tamp.anchored = s.tamp.anchored := by rw [frame_timeShown]
  have hsecs : (timeShown s x).mgmt.secs = s.mgmt.secs := by rw [frame_timeShown]
  have hns : (timeShown s x).mgmt.ns = s.mgmt.ns := by rw [frame_timeShown]
  rw [← hanch, ← hsecs, ← hns]
  exact if_neg hne

/-- The time state and line 3 after a change. -/
theorem setTimeState_shows {x : Nat} (hx : x < 8) (hne : x ≠ s.rd Reg.MGT_STAT_TIME_STATE) :
    (setTimeState s x).rd Reg.MGT_STAT_TIME_STATE = x ∧ bit ((setTimeState s x).rd Reg.MC_INT_LATCH) 3 = true := by
  have hshown : (timeShown s x).rd Reg.MGT_STAT_TIME_STATE = x := by
    rw [timeShown, rd_mcLatch _ _ (by decide), rd_hlogAdd _ _ _ _ (by decide), State.rd_wr]
    exact Nat.mod_eq_of_lt hx
  have hbit : bit ((timeShown s x).rd Reg.MC_INT_LATCH) 3 = true := bit_mcLatch _ (by decide)
  have hrd : ∀ (d : List Octet) {f : Fld}, f.place ≠ Reg.LEDGER_USED.place → f.place ≠ Reg.TAMP_STAT_LEDGER_FULL.place → f.place ≠ Reg.LAST_ZERO.place →
      f.place ≠ Reg.LAST_ALARM.place →
      ((ledgerPut (timeShown s x) 1 0x31 d).setTamp (fun t => { t with anchored := true })).rd f = (timeShown s x).rd f :=
    fun d _ h1 h2 h3 h4 => (ledgered_put (timeShown s x) 1 0x31 d).rd _ h1 h2 h3 h4
  rw [setTimeState_of hne]
  split
  · rw [hrd _ (by decide) (by decide) (by decide) (by decide), hrd _ (by decide) (by decide) (by decide) (by decide)]
    exact ⟨hshown, hbit⟩
  · exact ⟨hshown, hbit⟩

theorem mgmt_setTimeState (s : State) (x : Nat) : (setTimeState s x).mgmt.secs = s.mgmt.secs ∧ (setTimeState s x).mgmt.ns = s.mgmt.ns ∧
    (setTimeState s x).mgmt.frac = s.mgmt.frac := by
  have hshown : (timeShown s x).mgmt.secs = s.mgmt.secs ∧ (timeShown s x).mgmt.ns = s.mgmt.ns ∧ (timeShown s x).mgmt.frac = s.mgmt.frac := by
    rw [frame_timeShown]
    exact ⟨rfl, rfl, rfl⟩
  by_cases hne : x = s.rd Reg.MGT_STAT_TIME_STATE
  · rw [setTimeState, if_pos hne]
    exact ⟨rfl, rfl, rfl⟩
  · have hput : ∀ d : List Octet, ((ledgerPut (timeShown s x) 1 0x31 d).setTamp (fun t => { t with anchored := true })).mgmt = (timeShown s x).mgmt := by
      intro d
      rw [(ledgered_put (timeShown s x) 1 0x31 d).frame]
      rfl
    rw [setTimeState_of hne]
    split
    · rw [hput]
      exact hshown
    · exact hshown

/-- A time set begins ACQUIRING. -/
theorem setWrite_sets (v : Word) {t : State} (ht : setWrite s v.toNat = t) {w : Nat × Nat} (hw : timeWords Reg.TIME_SET (s.wr (Reg.TIME_SET 4) v.toNat) = w) :
    t.rd Reg.MGT_STAT_TIME_STATE = 1 ∧ (w.2 < 1000000000 → t.mgmt.ns = w.2 ∧ t.mgmt.secs = w.1 % 2 ^ 48) ∧ t.mgmt.frac = 0 := by
  obtain ⟨u, hu⟩ : ∃ u, (putTime (s.wr (Reg.TIME_SET 4) v.toNat) (w.1 * 1000000000 + w.2)).setMgmt (fun m => { m with recent := false, frac := 0 }) = u := ⟨_, rfl⟩
  have hset : t = setTimeState u 1 := by
    rw [← ht, ← hu, ← hw]
    rfl
  obtain ⟨hsecs, hns, hfrac⟩ := mgmt_setTimeState u 1
  rw [hset]
  refine ⟨?_, fun hlt => ⟨hns.trans ?_, hsecs.trans ?_⟩, hfrac.trans (hu ▸ rfl)⟩
  · by_cases hne : 1 = u.rd Reg.MGT_STAT_TIME_STATE
    · rw [setTimeState, if_pos hne]
      exact hne.symm
    · exact (setTimeState_shows (by decide) hne).1
  · rw [← hu]
    simp only [putTime, State.setMgmt]
    omega
  · rw [← hu]
    simp only [putTime, State.setMgmt]
    omega

/-- A change of time state anchors the ledger in DISCIPLINED and HOLDOVER. -/
theorem setTimeState_anchors {x : Nat} (hne : x ≠ s.rd Reg.MGT_STAT_TIME_STATE) : (x = 2 ∨ x = 3 → (setTimeState s x).tamp.anchored = true) ∧
    (x = 2 → s.tamp.anchored = false → s.tamp.ledger = [] →
      (setTimeState s x).tamp.ledger = [ledgerEntry s 1 0x31 1 (leOctets 6 s.mgmt.secs ++ leOctets 4 s.mgmt.ns ++ [0])]) := by
  have htamp : (timeShown s x).tamp = s.tamp := by rw [frame_timeShown]
  refine ⟨fun h23 => ?_, fun h2 ha hl => ?_⟩
  · rw [setTimeState_of hne]
    split
    · rfl
    · next h =>
      rw [htamp]
      by_contra hno
      exact h ⟨h23, hno⟩
  · subst h2
    rw [setTimeState_of hne, if_pos ⟨.inl rfl, by rw [ha]; decide⟩]
    generalize hd : leOctets 6 s.mgmt.secs ++ leOctets 4 s.mgmt.ns ++ [(0 : Octet)] = d
    have hentry : ledgerEntry (timeShown s 2) 1 0x31 1 d = ledgerEntry s 1 0x31 1 d := by
      have hwin : (timeShown s 2).on Reg.TAMP_STAT_WINDOW = s.on Reg.TAMP_STAT_WINDOW := by
        rw [State.on, rd_timeShown _ _ (by decide) (by decide) (by decide), State.on]
      have hmode : (timeShown s 2).tampMode = s.tampMode := by
        rw [State.tampMode, htamp, State.mode, rd_timeShown _ _ (by decide) (by decide) (by decide)]
        rfl
      unfold ledgerEntry
      rw [hwin, hmode, htamp]
    have hdata : leOctets 6 s.mgmt.secs ++ leOctets 4 s.mgmt.ns ++ leOctets 1 (2 - 2) = d := hd
    rw [hdata, ledgerPut_first (by rw [htamp]; exact hl) (by decide)]
    refine (ledger_ledgerStore_end (s := timeShown s 2) _).trans ?_
    rw [htamp, hl, hentry]
    rfl

/-- The servo gives up its claim to lock. -/
theorem lockWrite_off (s : State) : lockWrite s false = if s.rd Reg.MGT_STAT_TIME_STATE = 2 then setTimeState (s.flag Reg.TIME_CTL_LOCK false) 3
    else if s.rd Reg.MGT_STAT_TIME_STATE = 4 then setTimeState (s.flag Reg.TIME_CTL_LOCK false) 1 else s.flag Reg.TIME_CTL_LOCK false := by
  have hstate : (s.flag Reg.TIME_CTL_LOCK false).rd Reg.MGT_STAT_TIME_STATE = s.rd Reg.MGT_STAT_TIME_STATE := State.rd_flag_place _ _ (by decide)
  rw [← hstate]
  rfl

/-! ### Pulses -/

/-- An edge of PPS_IN latches the counter. -/
theorem ppsEdge_latches {t : State} (ht : ppsEdge s = t) :
    (t.rd (Reg.PPS_IN_TS 0) + 2 ^ 18 * t.rd (Reg.PPS_IN_TS 1) = s.mgmt.ns % 2 ^ 36 ∧
      t.rd (Reg.PPS_IN_TS 2) + 2 ^ 18 * t.rd (Reg.PPS_IN_TS 3) + 2 ^ 36 * t.rd (Reg.PPS_IN_TS 4) = s.mgmt.secs % 2 ^ 54) ∧
      t.on Reg.MGT_STAT_PPS_IN_LOST = false ∧ bit (t.rd Reg.MC_INT_LATCH) 1 = true := by
  obtain ⟨u, hu⟩ : ∃ u, ((((s.wr (Reg.PPS_IN_TS 0) (s.mgmt.ns % 2 ^ 18)).wr (Reg.PPS_IN_TS 1) (s.mgmt.ns / 2 ^ 18)).wr (Reg.PPS_IN_TS 2)
      (s.mgmt.secs % 2 ^ 18)).wr (Reg.PPS_IN_TS 3) (s.mgmt.secs / 2 ^ 18 % 2 ^ 18)).wr (Reg.PPS_IN_TS 4) (s.mgmt.secs / 2 ^ 36) = u := ⟨_, rfl⟩
  obtain ⟨w, hw⟩ : ∃ w, u.setMgmt (fun m => { m with ppsSeen := true }) = w := ⟨_, rfl⟩
  have hedge : t = mcLatch (if w.on Reg.MGT_STAT_PPS_IN_LOST then hlogAdd (w.flag Reg.MGT_STAT_PPS_IN_LOST false) 9 0xFF [1] else w) 1 := by
    rw [← ht, ← hw, ← hu]
    rfl
  have hrd : ∀ f : Fld, f.place ≠ Reg.MC_INT_LATCH.place → f.place ≠ Reg.HLOG_SEQ.place → f.place ≠ Reg.MGT_STAT_PPS_IN_LOST.place → t.rd f = u.rd f := by
    intro f h1 h2 h3
    rw [hedge, rd_mcLatch _ _ h1]
    split
    · rw [rd_hlogAdd _ _ _ _ h2, State.rd_flag_place _ _ h3, ← hw]
      rfl
    · rw [← hw]
      rfl
  have h0 : u.rd (Reg.PPS_IN_TS 0) = s.mgmt.ns % 2 ^ 18 % 2 ^ 18 := by
    rw [← hu, State.rd_wr_place _ _ (by decide), State.rd_wr_place _ _ (by decide), State.rd_wr_place _ _ (by decide), State.rd_wr_place _ _ (by decide), State.rd_wr]
    rfl
  have h1 : u.rd (Reg.PPS_IN_TS 1) = s.mgmt.ns / 2 ^ 18 % 2 ^ 18 := by
    rw [← hu, State.rd_wr_place _ _ (by decide), State.rd_wr_place _ _ (by decide), State.rd_wr_place _ _ (by decide), State.rd_wr]
    rfl
  have h2 : u.rd (Reg.PPS_IN_TS 2) = s.mgmt.secs % 2 ^ 18 % 2 ^ 18 := by
    rw [← hu, State.rd_wr_place _ _ (by decide), State.rd_wr_place _ _ (by decide), State.rd_wr]
    rfl
  have h3 : u.rd (Reg.PPS_IN_TS 3) = s.mgmt.secs / 2 ^ 18 % 2 ^ 18 % 2 ^ 18 := by
    rw [← hu, State.rd_wr_place _ _ (by decide), State.rd_wr]
    rfl
  have h4 : u.rd (Reg.PPS_IN_TS 4) = s.mgmt.secs / 2 ^ 36 % 2 ^ 18 := by
    rw [← hu, State.rd_wr]
    rfl
  refine ⟨⟨?_, ?_⟩, ?_, ?_⟩
  · rw [hrd _ (by decide) (by decide) (by decide), hrd _ (by decide) (by decide) (by decide), h0, h1]
    omega
  · rw [hrd _ (by decide) (by decide) (by decide), hrd _ (by decide) (by decide) (by decide), hrd _ (by decide) (by decide) (by decide), h2, h3, h4]
    omega
  · rw [hedge, State.on, rd_mcLatch _ _ (by decide)]
    split
    · rw [rd_hlogAdd _ _ _ _ (by decide)]
      exact State.on_flag _ Nat.one_ne_zero _
    · next h => exact Bool.eq_false_iff.mpr h
  · rw [hedge]
    exact bit_mcLatch _ (by decide)

theorem ppsLost_shows (hs : s.mgmt.ppsSeen = true) (hl : s.on Reg.MGT_STAT_PPS_IN_LOST = false) : (ppsLost s).on Reg.MGT_STAT_PPS_IN_LOST = true := by
  unfold ppsLost
  rw [if_pos ⟨hs, by rw [hl]; decide⟩, State.on, rd_mcLatch _ _ (by decide), rd_hlogAdd _ _ _ _ (by decide)]
  exact State.on_flag _ Nat.one_ne_zero _

theorem ppsLost_idle (h : s.mgmt.ppsSeen = false ∨ s.on Reg.MGT_STAT_PPS_IN_LOST = true) : ppsLost s = s := by
  refine if_neg ?_
  rintro ⟨hs, hl⟩
  rcases h with h | h
  · rw [h] at hs
    cases hs
  · exact hl h

end Time

/-- Settles O50: disciplined time. -/
theorem disciplinedTime : Obligations.DisciplinedTime := by
  intro s v
  refine ⟨fun hl => ?_, fun hl => ⟨_, rfl, stepWrite_unlocked v hl rfl rfl rfl⟩, ⟨_, rfl, setWrite_sets v rfl rfl⟩,
    ⟨fun hr => ?_, fun hr => ?_, fun h => ?_, fun h => ?_, fun h2 h4 => ?_, fun h => ?_, fun h => ?_, fun h => ?_, fun h => ?_, fun x hx hne => ?_⟩,
    ⟨_, rfl, ppsEdge_latches rfl⟩, fun hs hl => ⟨_, rfl, ppsLost_shows hs hl⟩, fun h => ?_, ⟨fun h => ?_, fun h => ?_⟩⟩
  · exact congrArg Host.Outcome.next (rateWrite_unlocked v hl)
  · exact congrArg Host.Outcome.next (if_pos hr)
  · exact congrArg Host.Outcome.next (if_neg (by rw [show (s.flag Reg.TIME_CTL_LOCK true).mgmt.recent = s.mgmt.recent from rfl, hr]; decide))
  · exact congrArg Host.Outcome.next ((lockWrite_off s).trans (if_pos h))
  · exact congrArg Host.Outcome.next ((lockWrite_off s).trans ((if_neg (by rw [h]; decide)).trans (if_pos h)))
  · exact congrArg Host.Outcome.next ((lockWrite_off s).trans ((if_neg h2).trans (if_neg h4)))
  · exact congrArg Host.Outcome.next (if_pos h)
  · exact congrArg Host.Outcome.next (if_neg h)
  · exact congrArg Host.Outcome.next (if_pos h)
  · exact congrArg Host.Outcome.next (if_neg h)
  · obtain ⟨hstate, hbit⟩ := setTimeState_shows hx hne
    exact ⟨hstate, hbit, setTimeState_anchors hne⟩
  · exact congrArg Host.Outcome.next (ppsLost_idle h)
  · obtain ⟨ht, hg, hc⟩ := h
    exact congrArg Host.Outcome.next (if_pos ⟨ht, hg, by rw [hc]; decide⟩)
  · refine congrArg Host.Outcome.next (if_neg fun hno => h ⟨hno.1, hno.2.1, Bool.eq_false_iff.mpr hno.2.2⟩)

end Sys2Proof.Machine
end


section
/-! SUPPORT. O51: JTAG and the debug port. O52: the SPDM responder. -/
namespace Sys2Proof.Machine
open Sys2Proof

/-! ### The debug port -/

section Port
variable {s : State} {c : CtlId}

theorem scanMode_iff (s : State) : scanMode s = true ↔ s.mode = mUncommissioned ∨ s.mode = mZeroized ∨ s.mode = mFault := decide_eq_true_iff

theorem scanIr_of (s : State) (i : JtagIr) (h : scanMode s = true) : scanIr s i = setIr s i := congrArg (setIr s) (if_pos h)

theorem scanIr_elsewhere (s : State) (i : JtagIr) (h : ¬ scanMode s = true) : scanIr s i = setIr s .bypass := congrArg (setIr s) (if_neg h)

theorem portServes_iff (s : State) (n : Nat) : portServes s n = true ↔ s.on Reg.DBG_STAT_ACTIVE = true ∧ s.rd Reg.DBG_STAT_LEVEL = n ∧ s.dbg.ir = .debugPort := by
  rw [portServes, Bool.and_eq_true_iff, Bool.and_eq_true_iff, decide_eq_true_iff, decide_eq_true_iff, and_assoc]

theorem portCommands_iff (s : State) (c : CtlId) : portCommands s c = true ↔ portServes s 2 = true ∧ debugHolds s c = true ∧ (s.ctl c).running = true := by
  rw [portCommands, Bool.and_eq_true_iff, Bool.and_eq_true_iff, and_assoc]

/-- A transaction at level 2. -/
theorem debugTransaction_invasive (h : portServes s 2 = true) (isStore : Bool) (x : DebugTarget) (v : Word) :
    debugTransaction s isStore x v = invasive s isStore x v := if_pos h

/-- No session, no transaction. -/
theorem debugTransaction_idle (h : s.on Reg.DBG_STAT_ACTIVE = false) (isStore : Bool) (x : DebugTarget) (v : Word) : debugTransaction s isStore x v = s := by
  have hno : ∀ n, ¬ portServes s n = true := by
    intro n hp
    have ha := ((portServes_iff s n).mp hp).1
    rw [h] at ha
    cases ha
  exact (if_neg (hno 2)).trans (if_neg (hno 1))

/-- Level 1 writes nothing. -/
theorem debugTransaction_watch (hl : s.rd Reg.DBG_STAT_LEVEL = 1) (x : DebugTarget) (v : Word) : debugTransaction s true x v = s := by
  have hno : ¬ portServes s 2 = true := by
    intro hp
    have h2 := ((portServes_iff s 2).mp hp).2.1
    omega
  refine (if_neg hno).trans ?_
  split
  · cases x <;> rfl
  · rfl

end Port

/-- Settles O51: JTAG instructions and the debug port. -/
theorem jtagAndDebugPort : Obligations.JtagAndDebugPort := by
  intro s c
  refine ⟨⟨rfl, rfl, rfl⟩, fun h => ?_, fun h => ?_, fun h => ?_, fun h => ?_, fun hp hh hr => ?_, fun h => ?_, fun isStore r v => ⟨fun hp hh => ?_, fun ha x => ?_,
    fun ha hl hi x => ?_, fun a hp => ⟨fun hs => ?_, ?_⟩⟩⟩
  · have hscan := (scanMode_iff s).mpr h
    exact ⟨congrArg Host.Outcome.next (scanIr_of s _ hscan), congrArg Host.Outcome.next (scanIr_of s _ hscan), congrArg Host.Outcome.next (scanIr_of s _ hscan),
      fun cells => congrArg Host.Outcome.next (if_pos hscan)⟩
  · have hscan : ¬ scanMode s = true := fun hs => h ((scanMode_iff s).mp hs)
    exact ⟨congrArg Host.Outcome.next (scanIr_elsewhere s _ hscan), congrArg Host.Outcome.next (scanIr_elsewhere s _ hscan),
      congrArg Host.Outcome.next (scanIr_elsewhere s _ hscan), fun cells => congrArg Host.Outcome.next (if_neg hscan)⟩
  · exact congrArg Host.Outcome.next (congrArg (setIr s) (if_pos h))
  · exact congrArg Host.Outcome.next (congrArg (setIr s) (if_neg (by rw [h]; decide)))
  · have hcmd := (portCommands_iff s c).mpr ⟨(portServes_iff s 2).mpr hp, hh, hr⟩
    refine ⟨congrArg Host.Outcome.next (if_pos hcmd), fun hst => ?_, fun hst hhalt => ?_⟩
    · exact congrArg Host.Outcome.next (if_pos ⟨hcmd, by rw [hst]; decide⟩)
    · exact congrArg Host.Outcome.next (if_pos ⟨hcmd, hhalt, by rw [hst]; decide⟩)
  · have hcmd : ¬ portCommands s c = true := by
      intro hc
      obtain ⟨hp, hh, hr⟩ := (portCommands_iff s c).mp hc
      rcases h with h | h | h
      · exact h ((portServes_iff s 2).mp hp)
      · rw [h] at hh
        cases hh
      · rw [h] at hr
        cases hr
    exact ⟨congrArg Host.Outcome.next (if_neg hcmd), congrArg Host.Outcome.next (if_neg fun h => hcmd h.1), congrArg Host.Outcome.next (if_neg fun h => hcmd h.1)⟩
  · exact congrArg Host.Outcome.next ((debugTransaction_invasive ((portServes_iff s 2).mpr hp) true _ v).trans (if_pos ⟨rfl, hh⟩))
  · exact congrArg Host.Outcome.next (debugTransaction_idle ha isStore x v)
  · exact congrArg Host.Outcome.next (debugTransaction_watch hl x v)
  · exact congrArg Host.Outcome.next (debugTransaction_invasive ((portServes_iff s 2).mpr hp) true _ v)
  · exact congrArg Host.Outcome.next (debugTransaction_invasive ((portServes_iff s 2).mpr hp) false _ v)

/-! ### The SPDM responder -/

section Responder
variable {s b : State} {p : Nat} {msg : List Octet} {x : Spdm}

/-- A request of version 1.3 at a step that was reached. -/
theorem spdmCheck_passes {step : Nat} {f : State → State} (hs : spdmServed s p = true) (h13 : leAt msg 0 1 = 0x13) (hst : ((wake s 1).spdm p).step ≥ step) :
    spdmCheck s p step msg f = f (wake s 1) :=
  (if_neg (not_not_intro hs)).trans ((if_neg (not_not_intro h13)).trans (if_neg (Nat.not_lt.mpr hst)))

/-- A request of another version. -/
theorem spdmCheck_version {step : Nat} {f : State → State} (hs : spdmServed s p = true) (h13 : leAt msg 0 1 ≠ 0x13) :
    spdmCheck s p step msg f = spdmSend (wake s 1) p [0x13, 0x7F, 0x41, 0] := (if_neg (not_not_intro hs)).trans (if_pos h13)

/-- A request out of order. -/
theorem spdmCheck_order {step : Nat} {f : State → State} (hs : spdmServed s p = true) (h13 : leAt msg 0 1 = 0x13) (hst : ((wake s 1).spdm p).step < step) :
    spdmCheck s p step msg f = spdmSend (wake s 1) p [0x13, 0x7F, 4, 0] :=
  (if_neg (not_not_intro hs)).trans ((if_neg (not_not_intro h13)).trans (if_pos hst))

theorem spdmCheck_absent {step : Nat} {f : State → State} (hs : spdmServed s p = false) : spdmCheck s p step msg f = s := if_pos (by rw [hs]; decide)

theorem State.spdm_setSpdm (s : State) (hp : p < 2) (x : Spdm) : (s.setSpdm p x).spdm p = x := by
  have hp2 : p ≠ 2 := Nat.ne_of_lt hp
  unfold State.setSpdm State.spdm
  rw [if_neg hp2, if_neg hp2]
  exact congrArg Port.spdm (State.port_setPort ..)

theorem State.sent_setSpdm (s : State) (p : Nat) (x : Spdm) : (s.setSpdm p x).sent = s.sent := by
  unfold State.setSpdm State.setPort
  split
  · rfl
  · split <;> rfl

theorem spdm_spdmSend (s : State) (p : Nat) (o : List Octet) : (spdmSend s p o).spdm p = s.spdm p := by
  unfold spdmSend
  split <;> rfl

theorem sent_spdmSend (s : State) (hp : p < 2) (o : List Octet) : (spdmSend s p o).sent = s.sent ++ [.doe p o] := by
  unfold spdmSend
  rw [if_neg (Nat.ne_of_lt hp)]

/-- Random bits change the generator alone, not what the responder reads. -/
theorem frame_serveReseed (s : State) : (serveReseed s).meas = s.meas ∧ (serveReseed s).spdmM = s.spdmM ∧ (serveReseed s).portA = s.portA ∧
    (serveReseed s).portB = s.portB := by
  unfold serveReseed
  split
  · split
    · exact ⟨rfl, rfl, rfl, rfl⟩
    · simp only [State.wr_frame, State.flag_frame, State.wr2_frame, apply_ite State.meas, apply_ite State.spdmM, apply_ite State.portA, apply_ite State.portB,
        ite_self, State.setEnt, and_self]
  · exact ⟨rfl, rfl, rfl, rfl⟩

theorem frame_drawRandom (s : State) (n : Nat) : (drawRandom s n).2.meas = s.meas ∧ (drawRandom s n).2.spdmM = s.spdmM ∧ (drawRandom s n).2.portA = s.portA ∧
    (drawRandom s n).2.portB = s.portB := by
  unfold drawRandom
  dsimp only
  split
  · split
    · exact frame_serveReseed s
    · exact frame_serveReseed s
  · exact frame_serveReseed s

theorem spdm_drawRandom (s : State) (n p : Nat) : ((drawRandom s n).2).spdm p = s.spdm p := by
  obtain ⟨_, hM, hA, hB⟩ := frame_drawRandom s n
  unfold State.spdm State.port
  rw [hM, hA, hB]

theorem spdmMeasure_drawRandom (s : State) (n i : Nat) : spdmMeasure (drawRandom s n).2 i = spdmMeasure s i := by
  unfold spdmMeasure State.measReg
  rw [(frame_drawRandom s n).1]

theorem spdmSummary_drawRandom (s : State) (n kind : Nat) : spdmSummary (drawRandom s n).2 kind = spdmSummary s kind := by
  unfold spdmSummary
  simp only [spdmMeasure_drawRandom]

/-- A signed answer: a fresh signature of 96 octets over it, and the transcript is closed. -/
theorem spdmSigned_spec (s : State) (hp : p < 2) (o rsp : List Octet) {t : State}
    (ht : spdmSend ((spdmSign s o).2.setSpdm p { (spdmSign s o).2.spdm p with transcript := [] }) p (rsp ++ (spdmSign s o).1) = t) :
    ∃ sig : List Octet, (t.spdm p).transcript = [] ∧ sig.length = 96 ∧ t.sent = s.sent ++ [.doe p (rsp ++ sig)] := by
  subst ht
  refine ⟨(spdmSign s o).1, ?_, length_fitOctets ..,  ?_⟩
  · rw [spdm_spdmSend, State.spdm_setSpdm _ hp]
  · rw [sent_spdmSend _ hp, State.sent_setSpdm]
    rfl

/-- CHALLENGE of slot 0 is answered with a signature. -/
theorem spdmChallenge_signs (hp : p < 2) (hb : wake s 1 = b) (hs : spdmServed s p = true) (h13 : leAt msg 0 1 = 0x13) (hst : (b.spdm p).step ≥ 3)
    (h0 : leAt msg 2 1 = 0) (ho : b.rst.otpBad = false) {t : State} (ht : spdmChallenge s p msg = t) :
    ∃ sig : List Octet, (t.spdm p).transcript = [] ∧ sig.length = 96 ∧ t.sent = (drawRandom b 32).2.sent ++
      [.doe p ([0x13, 3, 0, 1] ++ sha384 spdmChain ++ (drawRandom b 32).1 ++ spdmSummary b (leAt msg 3 1) ++ [0, 0] ++ octAt msg 36 8 ++ sig)] := by
  subst hb
  rw [spdmChallenge, spdmCheck_passes hs h13 hst, if_neg (not_not_intro h0), if_neg (by rw [ho]; decide)] at ht
  dsimp only at ht
  rw [spdmSummary_drawRandom] at ht
  exact spdmSigned_spec _ hp _ _ ht

/-- GET_MEASUREMENTS of one index with a signature. -/
theorem spdmMeasurements_signs (hp : p < 2) (hb : wake s 1 = b) (hs : spdmServed s p = true) (h13 : leAt msg 0 1 = 0x13) (hst : (b.spdm p).step ≥ 3)
    (hsig : bit (leAt msg 2 1) 0 = true) (h1 : 1 ≤ leAt msg 3 1) (h32 : leAt msg 3 1 ≤ 32) (ho : b.rst.otpBad = false) {t : State}
    (ht : spdmMeasurements s p msg = t) : ∃ sig : List Octet, (t.spdm p).transcript = [] ∧ sig.length = 96 ∧ t.sent = (drawRandom b 32).2.sent ++
      [.doe p ([0x13, 0x60, 0, 0, 1] ++ leOctets 3 (spdmMeasure b (leAt msg 3 1)).length ++ spdmMeasure b (leAt msg 3 1) ++ (drawRandom b 32).1 ++
        [0, 0] ++ octAt msg 37 8 ++ sig)] := by
  subst hb
  have hblocks : ∀ o, spdmBlocks (wake s 1) p (leAt msg 3 1) o = (wake s 1, some [spdmMeasure (wake s 1) (leAt msg 3 1)]) := fun o =>
    (if_neg (by omega)).trans (if_pos ⟨h1, h32⟩)
  have hflat : ∀ m : List Octet, [m].flatten = m := fun m => (List.flatten_cons ..).trans (List.append_nil m)
  rw [spdmMeasurements, spdmCheck_passes hs h13 hst, hsig] at ht
  dsimp only at ht
  rw [if_pos rfl, if_pos rfl, hblocks] at ht
  dsimp only at ht
  rw [if_neg (by rw [ho]; decide), if_pos rfl, if_neg (by omega), if_pos rfl, hflat] at ht
  exact spdmSigned_spec _ hp _ _ ht

/-- KEY_EXCHANGE opens a handshake. -/
theorem spdmKeyExchange_opens (hp : p < 2) (hb : wake s 1 = b) (hs : spdmServed s p = true) (h13 : leAt msg 0 1 = 0x13) (hst : (b.spdm p).step ≥ 3)
    (h0 : leAt msg 3 1 = 0) (hsess : (b.spdm p).sess = 0) (ho : b.rst.otpBad = false) {t : State} (ht : spdmKeyExchange s p msg = t) :
    (t.spdm p).sess = 1 ∧ (t.spdm p).step = (b.spdm p).step := by
  subst hb
  rw [spdmKeyExchange, spdmCheck_passes hs h13 hst, if_neg (not_not_intro h0), if_neg (not_not_intro hsess), if_neg (by rw [ho]; decide)] at ht
  dsimp only at ht
  subst ht
  rw [spdm_spdmSend, State.spdm_setSpdm _ hp]
  refine ⟨rfl, ?_⟩
  have hstep : ((drawRandom (drawRandom (wake s 1) 32).2 2).2.spdm p).step = ((wake s 1).spdm p).step :=
    congrArg Spdm.step ((spdm_drawRandom ..).trans (spdm_drawRandom ..))
  exact hstep

/-- GET_VERSION opens a connection. -/
theorem spdmVersion_opens (hb : wake s 1 = b) (hs : spdmServed s p = true) : spdmVersion s p msg =
    spdmAnswer (b.setSpdm p { Spdm.reset with step := 1, ide := (b.spdm p).ide }) p msg [0x10, 4, 0, 0, 0, 1, 0, 0x13] := by
  subst hb
  exact if_neg (not_not_intro hs)

/-- The selections in an ALGORITHMS response, whatever its count, its length and the structures at its end. -/
theorem algorithms_selections (n l : Nat) (st : List Octet) {rsp : List Octet}
    (h : rsp = [0x13, 0x63] ++ leOctets 1 n ++ [0] ++ leOctets 2 l ++ [1, 0] ++ leOctets 4 4 ++ leOctets 4 0x80 ++ leOctets 4 2 ++ List.replicate 16 0 ++ st) :
    leAt rsp 12 4 = 0x80 ∧ leAt rsp 16 4 = 2 := by
  subst h
  exact ⟨rfl, rfl⟩

/-- NEGOTIATE_ALGORITHMS selects ECDSA P-384 and SHA-384. -/
theorem spdmAlgorithms_selects (hb : wake s 1 = b) (hs : spdmServed s p = true) (h13 : leAt msg 0 1 = 0x13) (hst : (b.spdm p).step ≥ 2)
    (h7 : bit (leAt msg 8 4) 7 = true) (h1 : bit (leAt msg 12 4) 1 = true) : ∃ rsp : List Octet,
      spdmAlgorithms s p msg = spdmAnswer (b.setSpdm p { b.spdm p with step := 3 }) p msg rsp ∧ leAt rsp 12 4 = 0x80 ∧ leAt rsp 16 4 = 2 := by
  subst hb
  rw [spdmAlgorithms, spdmCheck_passes hs h13 hst]
  exact ⟨_, if_neg (by rw [h7, h1]; decide), algorithms_selections _ _ _ rfl⟩

/-- GET_CERTIFICATE answers a part of the chain. -/
theorem spdmCertificate_answers (hb : wake s 1 = b) (hs : spdmServed s p = true) (h13 : leAt msg 0 1 = 0x13) (hst : (b.spdm p).step ≥ 3)
    (h0 : leAt msg 2 1 % 16 = 0) (hlt : leAt msg 4 2 < spdmChain.length) {part : List Octet} (hpart : part = (spdmChain.drop (leAt msg 4 2)).take (leAt msg 6 2)) :
    spdmCertificate s p msg =
      spdmAnswer b p msg ([0x13, 2, 0, 0] ++ leOctets 2 part.length ++ leOctets 2 (spdmChain.length - leAt msg 4 2 - part.length) ++ part) := by
  subst hb hpart
  rw [spdmCertificate, spdmCheck_passes hs h13 hst]
  exact if_neg (by omega)

/-- FINISH in a handshake: the requester's proof holds, or not. -/
theorem spdmFinish_of (hb : wake s 1 = b) (hx : b.spdm p = x) (hs : spdmServed s p = true) (h13 : leAt msg 0 1 = 0x13) (hst : x.step ≥ 3) (hsess : x.sess = 1)
    {th : List Octet} (hth : th = x.transcript ++ msg.take 4) : spdmFinish s p msg =
      if octAt msg 4 48 ≠ hmac384 (spdmExpand (spdmExpand x.secret "req hs data" (sha384 x.transcript)) "finished" []) (sha384 th) then
        spdmSend (b.setSpdm p { x with sess := 0, secret := [], sid := 0 }) p [0x13, 0x7F, 6, 0]
      else spdmSend (b.setSpdm p { x with
        sess := 2
        secret := hmac384 (spdmExpand x.secret "derived" []) (List.replicate 48 0)
        transcript := th ++ octAt msg 4 48 ++ [0x13, 0x65, 0, 0] }) p [0x13, 0x65, 0, 0] := by
  subst hb hx hth
  rw [spdmFinish, spdmCheck_passes hs h13 hst]
  exact if_neg (not_not_intro hsess)

/-- A message of an established session. -/
theorem spdmInSession_of {f : State → Spdm → State} (hb : wake s 1 = b) (hs : spdmServed s p = true) (h13 : leAt msg 0 1 = 0x13) (hst : (b.spdm p).step ≥ 3) :
    spdmInSession s p msg f = if (b.spdm p).sess ≠ 2 then spdmSend b p [0x13, 0x7F, 0xB, 0] else f b (b.spdm p) := by
  subst hb
  rw [spdmInSession, spdmCheck_passes hs h13 hst]
  rfl

/-- IDE_KM in a session. -/
theorem ideKmMessage_of (hb : wake s 1 = b) (hs : spdmServed s p = true) (hsess : (b.spdm p).sess = 2) : ideKmMessage s p msg =
    (if leAt msg 0 1 = 0 then spdmSend b p ([1, 0] ++ octAt msg 2 1 ++ fitOctets 8 Config.ideCapabilities)
    else if leAt msg 0 1 = 2 then
      if msg.length ≠ 47 then spdmSend b p ([3, 0, 0] ++ octAt msg 3 1 ++ [1] ++ octAt msg 5 2)
      else spdmSend (b.setSpdm p { b.spdm p with ide := tput (b.spdm p).ide (ideKey msg) (octAt msg 7 40) }) p ([3, 0, 0] ++ octAt msg 3 1 ++ [0] ++ octAt msg 5 2)
    else if leAt msg 0 1 = 4 ∨ leAt msg 0 1 = 5 then
      spdmSend (if leAt msg 0 1 = 5 then b.setSpdm p { b.spdm p with ide := tdel (b.spdm p).ide (ideKey msg) } else b) p
        ([6, 0, 0] ++ octAt msg 3 1 ++ [0] ++ octAt msg 5 2)
    else b) := by
  subst hb
  exact (if_neg (not_not_intro hs)).trans (if_neg (not_not_intro hsess))

theorem ideKmMessage_sessionless (hb : wake s 1 = b) (hs : spdmServed s p = true) (hsess : (b.spdm p).sess ≠ 2) :
    ideKmMessage s p msg = spdmSend b p [0x13, 0x7F, 0xB, 0] := by
  subst hb
  exact (if_neg (not_not_intro hs)).trans (if_pos hsess)

/-- K_SET_STOP forgets the key. -/
theorem ideKmMessage_stops (hp : p < 2) (hb : wake s 1 = b) (hs : spdmServed s p = true) (hsess : (b.spdm p).sess = 2) (h5 : leAt msg 0 1 = 5) {t : State}
    (ht : ideKmMessage s p msg = t) : (t.spdm p).ide = tdel (b.spdm p).ide (ideKey msg) := by
  rw [ideKmMessage_of hb hs hsess, if_neg (by omega), if_neg (by omega), if_pos (.inr h5), if_pos h5] at ht
  rw [← ht, spdm_spdmSend, State.spdm_setSpdm _ hp]

/-- The relay of the management controller, where it does not serve: no request does anything. -/
theorem spdmRelay_absent (hs : spdmServed s 2 = false) : spdmRelay s msg = s := by
  have hno : ¬ spdmServed s 2 = true := ne_true_of_eq_false hs
  have hversion : spdmVersion s 2 msg = s := if_pos hno
  have hcheck : ∀ {step : Nat} {f : State → State}, spdmCheck s 2 step msg f = s := spdmCheck_absent hs
  simp only [spdmRelay, spdmCapabilities, spdmAlgorithms, spdmDigests, spdmCertificate, spdmChallenge, spdmMeasurements, hversion, hcheck, if_neg hno, ite_self]

/-- The relay refuses a code it does not know. -/
theorem spdmRelay_unknown (hs : spdmServed s 2 = true) (hc : leAt msg 1 1 = 0xE4) : spdmRelay s msg = spdmError s 2 7 := by
  unfold spdmRelay
  dsimp only
  rw [hc, if_pos hs]
  rfl

end Responder

/-- Settles O52: the SPDM responder's answers, signatures and sessions. -/
theorem spdmResponder : Obligations.SpdmResponder := by
  intro s p msg
  dsimp only
  have hp := p.isLt
  refine ⟨fun hs i hi => ?_, fun hs => ⟨fun index => ?_, ?_, fun h13 => ⟨?_, ?_⟩, fun h13 hst => ?_, fun h13 hst => ?_, fun h13 hst h7 h1 => ?_,
    fun h13 hst => ⟨?_, fun h0 hlt => ⟨_, rfl, ?_⟩, fun h0 ho => ?_, fun hsig h1 h32 ho => ?_, fun h0 hsess ho => ⟨_, rfl, spdmKeyExchange_opens hp rfl hs h13 hst h0 hsess ho rfl⟩,
      fun hsess => ?_, fun hsess => ⟨fun hg => ?_, fun hg => ?_⟩, fun hsess i hi => ?_, fun hsess => ⟨?_, ?_, fun hop => ?_⟩⟩, fun hsess h2 hl => ?_,
    fun hsess h5 => ⟨_, rfl, ideKmMessage_stops hp rfl hs hsess h5 rfl⟩, fun hsess => ?_⟩, fun hs => ?_, fun hs h => ?_, fun hs h => ?_⟩
  · simp only [List.mem_cons, List.not_mem_nil, or_false] at hi
    rcases hi with rfl | rfl | rfl | rfl | rfl | rfl | rfl | rfl | rfl | rfl | rfl | rfl | rfl | rfl <;>
      exact congrArg Host.Outcome.next (if_pos (by rw [hs]; decide))
  · exact congrArg Host.Outcome.next (if_neg (not_not_intro hs))
  · exact congrArg Host.Outcome.next (spdmVersion_opens rfl hs)
  · exact congrArg Host.Outcome.next (spdmCheck_version hs h13)
  · exact congrArg Host.Outcome.next (spdmCheck_version hs h13)
  · exact congrArg Host.Outcome.next (spdmCheck_order hs h13 (by omega))
  · exact congrArg Host.Outcome.next (spdmCheck_passes hs h13 hst)
  · obtain ⟨rsp, hrsp, hspec⟩ := spdmAlgorithms_selects rfl hs h13 hst h7 h1
    exact ⟨rsp, congrArg Host.Outcome.next hrsp, hspec⟩
  · exact congrArg Host.Outcome.next (spdmCheck_passes hs h13 hst)
  · exact congrArg Host.Outcome.next (spdmCertificate_answers rfl hs h13 hst h0 hlt rfl)
  · obtain ⟨sig, hspec⟩ := spdmChallenge_signs hp rfl hs h13 hst h0 ho rfl
    exact ⟨_, sig, rfl, hspec⟩
  · obtain ⟨sig, hspec⟩ := spdmMeasurements_signs hp rfl hs h13 hst hsig h1 h32 ho rfl
    exact ⟨_, sig, rfl, hspec⟩
  · exact congrArg Host.Outcome.next ((spdmCheck_passes hs h13 hst).trans (if_pos hsess))
  · exact congrArg Host.Outcome.next ((spdmFinish_of rfl rfl hs h13 hst hsess rfl).trans (if_neg (not_not_intro hg)))
  · exact congrArg Host.Outcome.next ((spdmFinish_of rfl rfl hs h13 hst hsess rfl).trans (if_pos hg))
  · simp only [List.mem_cons, List.not_mem_nil, or_false] at hi
    rcases hi with rfl | rfl | rfl <;> exact congrArg Host.Outcome.next ((spdmInSession_of rfl hs h13 hst).trans (if_pos hsess))
  · exact congrArg Host.Outcome.next ((spdmInSession_of rfl hs h13 hst).trans (if_neg (not_not_intro hsess)))
  · exact congrArg Host.Outcome.next ((spdmInSession_of rfl hs h13 hst).trans (if_neg (not_not_intro hsess)))
  · exact congrArg Host.Outcome.next ((spdmInSession_of rfl hs h13 hst).trans ((if_neg (not_not_intro hsess)).trans (if_pos hop)))
  · refine congrArg Host.Outcome.next ((ideKmMessage_of rfl hs hsess).trans ?_)
    rw [if_neg (by omega), if_pos h2, if_neg (not_not_intro hl)]
  · exact congrArg Host.Outcome.next (ideKmMessage_sessionless rfl hs hsess)
  · exact congrArg Host.Outcome.next (spdmRelay_absent hs)
  · exact congrArg Host.Outcome.next ((if_pos h).trans (spdmVersion_opens rfl hs))
  · exact congrArg Host.Outcome.next (spdmRelay_unknown hs h)

end Sys2Proof.Machine
end


section
/-! SUPPORT. What frames of the quadrille do at a port (R393 to R396, R398, R402, R404 to R406). -/
namespace Sys2Proof.Machine
open Sys2Proof

/-! ### The quadrille's state through the vault's writes -/

theorem plx_putObj (s : State) (r : Nat) (o : Obj) : (putObj s r o).plx = s.plx :=
  foldl_keeps State.plx (g := fun s i => putRecord s (r + i) (octAt o.octets (128 * i) 128)) (fun _ _ => rfl) _ s

theorem plx_putDevice (s : State) (r : Nat) (mat : List Octet) : (putDevice s r mat).plx = s.plx := plx_putObj ..

theorem plx_addUsed (s : State) (d : Nat) (grow : Bool) (n : Nat) : (addUsed s d grow n).plx = s.plx := by
  unfold addUsed
  split
  · rfl
  · exact plx_putDevice ..

theorem plx_createObj (s : State) (o : Obj) : (createObj s o).1.plx = s.plx := by
  unfold createObj
  dsimp only
  split
  · rfl
  · split
    · rfl
    · next r _ _ =>
      have hmap : ∀ l : List Nat, (l.foldl (fun s i => putMap s (r + i) (mapEntry (if i = 0 then 1 else 2) (mapGen (s.vmap (r + i)) + 1))) s).plx = s.plx :=
        fun l => foldl_keeps State.plx (g := fun s i => putMap s (r + i) (mapEntry (if i = 0 then 1 else 2) (mapGen (s.vmap (r + i)) + 1))) (fun _ _ => rfl) l s
      have hcounts : ∀ t : State, (vaultCounts t).plx = t.plx := fun _ => rfl
      rw [hcounts, plx_addUsed, plx_putObj, hmap]

theorem plx_rosterCounts (s : State) : (rosterCounts s).plx = s.plx := rfl

/-- Storing an entry raises ROSTER_SEQ and leaves the rest of the quadrille's state. -/
theorem plx_putEntry (s : State) (e : List Octet) : (putEntry s e).plx = { s.plx with seq := max s.plx.seq (beAt e 8 8) } := by
  unfold putEntry
  dsimp only
  rw [plx_rosterCounts]
  split
  · rw [plx_putDevice]
    rfl
  · rw [plx_createObj]
    rfl

/-! ### Frames -/

section Frames
variable {s u : State} {port typ : Nat} {fs : List (List Octet)} {f b : List Octet}

/-- The single frame of a message that is discarded. -/
theorem takeFrames_dropped (h : takeFrame s port typ f = (u, none)) : takeFrames s port typ [f] = (u, none) := by
  unfold takeFrames
  rw [List.foldl_cons, List.foldl_nil]
  dsimp only
  rw [h]
  rfl

/-- A frame that is not of its form. -/
theorem takeFrame_malformed (h : f.length < 32 ∨ beAt f 0 1 ≠ 1 ∨ beAt f 1 1 ≠ typ ∨ 1400 < beAt f 0x1C 2 ∨ (isKeyType typ = true ∧ bit (beAt f 2 1) 0 = false)) :
    takeFrame s port typ f = (dropFrame s port, none) := by
  refine if_pos ?_
  rcases h with h | h | h | h | ⟨hk, h⟩
  · exact .inl h
  · exact .inr (.inl h)
  · exact .inr (.inr (.inl h))
  · exact .inr (.inr (.inr (.inl h)))
  · exact .inr (.inr (.inr (.inr (.inr ⟨hk, ne_true_of_eq_false h⟩))))

/-- A frame of a key this device does not hold, seen before or too old. -/
theorem takeFrame_refused {k : LinkKey} (hk : tget LinkKey.none s.plx.keys (beAt f 4 2) = k)
    (h : k.rx = [] ∨ beAt f 0x10 8 ∈ k.seen ∨ beAt f 0x10 8 + 1024 ≤ k.high) (henc : bit (beAt f 2 1) 0 = true) :
    takeFrame s port typ f = (dropFrame s port, none) := by
  subst hk
  unfold takeFrame
  dsimp only
  rw [if_neg (not_not_intro henc), if_pos h, ite_self]

theorem plxDeliver_down {act : State → Nat → List Octet → State × Nat} (h : portUp s port = false) : plxDeliver s port typ fs act = s :=
  if_pos (ne_true_of_eq_false h)

/-- A message of which nothing is left. -/
theorem plxDeliver_dropped {act : State → Nat → List Octet → State × Nat} (hup : portUp s port = true) (h : takeFrames s port typ fs = (u, none)) :
    plxDeliver s port typ fs act = u := by
  unfold plxDeliver
  rw [if_neg (not_not_intro hup), h]

/-- A message that came before acts no more. -/
theorem plxDeliver_again {act : State → Nat → List Octet → State × Nat} (hup : portUp s port = true) (h : takeFrames s port typ fs = (u, some b))
    (hno : bit (beAt (nth [] fs 0) 2 1) 1 = false) (hgot : (beAt (nth [] fs 0) 4 2, beAt (nth [] fs 0) 0x18 4) ∈ u.plx.got) :
    plxDeliver s port typ fs act = u := by
  unfold plxDeliver
  rw [if_neg (not_not_intro hup), h]
  dsimp only
  rw [if_pos hgot, hno, if_neg Bool.false_ne_true]

/-- A message that is new acts once and is remembered. -/
theorem plxDeliver_acts {act : State → Nat → List Octet → State × Nat} {g : State} (hup : portUp s port = true) (h : takeFrames s port typ fs = (u, some b))
    (hno : bit (beAt (nth [] fs 0) 2 1) 1 = false) (hgot : (beAt (nth [] fs 0) 4 2, beAt (nth [] fs 0) 0x18 4) ∉ u.plx.got)
    (hg : g = u.setPlx (fun p => { p with got := (beAt (nth [] fs 0) 4 2, beAt (nth [] fs 0) 0x18 4) :: p.got })) :
    plxDeliver s port typ fs act = (act g (beAt (nth [] fs 0) 4 2) b).1 := by
  subst hg
  unfold plxDeliver
  rw [if_neg (not_not_intro hup), h]
  dsimp only
  rw [if_neg hgot, hno, if_neg Bool.false_ne_true]

theorem helloFrame_dropped (hup : portUp s port = true) (h : takeFrame s port 1 f = (u, none)) : helloFrame s port f = u := by
  unfold helloFrame
  rw [if_neg (not_not_intro hup), h]

/-- A HELLO at a device that joins nothing. -/
theorem helloFrame_heard (hup : portUp s port = true) (h : takeFrame s port 1 f = (u, some b)) (hj : u.plx.join = none) : helloFrame s port f =
    if beAt b 16 2 ≥ 4096 ∨ beAt b 18 8 ≠ u.plx.qid ∨ u.plx.member = 0xFFFF ∨ beAt b 16 2 = u.plx.member then u
    else if beAt b 34 1 ≠ 0 then heardClaim (u.setPlx (fun p => { p with paths := insNat (4 * beAt b 16 2 + port) p.paths })) (beAt b 16 2) (beAt b 34 1)
    else u.setPlx (fun p => { p with paths := insNat (4 * beAt b 16 2 + port) p.paths }) := by
  unfold helloFrame
  rw [if_neg (not_not_intro hup), h]
  dsimp only
  rw [hj]

theorem pairMessage_dropped (hup : portUp s port = true) (h : takeFrames s port 3 fs = (u, none)) : pairMessage s port fs = u := by
  unfold pairMessage
  rw [if_neg (not_not_intro hup), h]

theorem joinMsg_dropped (hup : portUp s port = true) (h : takeFrames s port 2 fs = (u, none)) : joinMsg s port fs = u := by
  unfold joinMsg
  rw [if_neg (not_not_intro hup), h]

/-- A PAIR message of no member. -/
theorem pairMessage_stranger (hup : portUp s port = true) (h : takeFrames s port 3 fs = (u, some b))
    (hm : 4096 ≤ beAt (nth [] fs 0) 4 2 ∨ entState (u.entry (beAt (nth [] fs 0) 4 2)) ≠ 1) : pairMessage s port fs = u := by
  unfold pairMessage
  rw [if_neg (not_not_intro hup), h]
  exact if_pos hm

/-- The signatures over both offers end an exchange. -/
theorem pairMessage_ends {m : Nat} {root tr : List Octet} {v : State} (hup : portUp s port = true) (h : takeFrames s port 3 fs = (u, some b))
    (hm : beAt (nth [] fs 0) 4 2 = m) (hlt : m < 4096) (he : entState (u.entry m) = 1) (hkind : beAt b 0 1 = 2) (hroot : u.tamp.root = some root)
    (hpeer : tget [] u.plx.pairing (4096 + m) ≠ []) (hown : tget [] u.plx.pairing m ≠ []) (hlen : b.length = 4724) (htr : pairTranscript u m = tr)
    (hsig : signedBy (entSerial (u.entry m)) (tr ++ b.drop 1) tr.length = true)
    (hv : v = u.setPlx (fun p => { p with
      keys := tset LinkKey.none p.keys m (pairKeys u root m)
      pairing := tdel (tdel p.pairing m) (4096 + m) })) : pairMessage s port fs = resendTo (touchKey v m) m := by
  subst hm htr hv
  unfold pairMessage
  rw [if_neg (not_not_intro hup), h]
  dsimp only
  rw [if_neg (by simp only [ge_iff_le, he]; omega), if_neg (by rw [hkind]; decide), hroot]
  dsimp only
  exact if_neg (by simp only [hpeer, hown, hlen, hsig, ne_eq, not_true_eq_false, not_false_eq_true, or_self])

end Frames

/-! ### What messages do -/

section Messages
variable {s : State} {m : Nat} {b : List Octet}

/-- An acknowledgement of no message that waits. -/
theorem ackMessage_unknown (h : ∀ x ∈ s.plx.msgs, ¬ (x.id = beAt b 0 4 ∧ x.dst = m)) : ackMessage s m b = (s, 0) := by
  have hnone : s.plx.msgs.find? (fun x => decide (x.id = beAt b 0 4 ∧ x.dst = m)) = none :=
    List.find?_eq_none.mpr fun x hx hd => h x hx (of_decide_eq_true hd)
  unfold ackMessage
  rw [hnone]

/-- An acknowledgement of an update ends the message and counts the update. -/
theorem ackMessage_update {x : PlxMsg} (h : s.plx.msgs.find? (fun x => decide (x.id = beAt b 0 4 ∧ x.dst = m)) = some x) (h7 : x.typ = 7) {t : State}
    (ht : (ackMessage s m b).1 = t) : t.plx.msgs = s.plx.msgs.filter (fun y => decide (y.id ≠ x.id)) ∧
      tget 0 t.plx.acked (4096 * beAt x.body 0 2 + m) = max (tget 0 s.plx.acked (4096 * beAt x.body 0 2 + m)) (beAt x.body 2 8) := by
  subst ht
  unfold ackMessage
  rw [h]
  dsimp only
  rw [if_neg (not_not_intro h7)]
  exact ⟨rfl, (tget_tset ..).trans (if_pos rfl)⟩

theorem statementMessage_asked (h : beAt b 0 1 = 1) :
    statementMessage s m b = (sendMsg (statement s (octAt b 1 32) []).2 m 6 ([2] ++ (statement s (octAt b 1 32) []).1) true, 0) := if_pos h

theorem statementMessage_unasked (h : beAt b 0 1 ≠ 1) (hn : tget [] s.plx.nonces m = []) : statementMessage s m b = (s, 0) :=
  (if_neg h).trans (if_pos (.inl hn))

/-- An update that this device does not take. -/
theorem replicaMessage_refused {d : Nat} (hd : beAt b 0 2 % 4096 = d) (h : d = 0 ∨ entState (s.entry m) ≠ 1 ∨ s.role d = 1 ∨
    (s.role d = 2 ∧ (tget (0, 0) s.plx.roles d).2 ≠ m) ∨ (s.role d = 0 ∧ s.domState d ≠ 0)) : replicaMessage s m b = (s, 0) := by
  subst hd
  refine if_pos ?_
  rcases h with h | h | h
  · exact .inl h
  · exact .inr (.inl h)
  · exact .inr (.inr (.inr h))

/-- An update of the home that this device is a replica of: taken before, next, or beyond a gap. -/
theorem replicaMessage_of {d n : Nat} (hd : beAt b 0 2 % 4096 = d) (hn : beAt b 2 8 = n) (h0 : d ≠ 0) (he : entState (s.entry m) = 1)
    (hown : entState (s.entry s.plx.member) = 1) (h2 : s.role d = 2) (hm : (tget (0, 0) s.plx.roles d).2 = m) : (replicaMessage s m b).1 =
      if n ≤ tget 0 s.plx.dseq d then s
      else if n = tget 0 s.plx.dseq d + 1 then
        let r := applyUpdate (s.setPlx (fun p => { p with dseq := tset 0 p.dseq d n })) d (b.drop 10)
        lagRefresh (applyHeld r.1.plx.heldUp.length r.1 d) d
      else lagRefresh (sendMsg (s.setPlx (fun p => { p with heldUp := p.heldUp ++ [(d, n, b.drop 10)] })) m 8
        (beOctets 2 d ++ beOctets 8 (tget 0 s.plx.dseq d + 1)) true) d := by
  subst hd hn
  unfold replicaMessage
  dsimp only
  rw [if_neg (by simp only [h0, he, hown, h2, hm, ne_eq, not_true_eq_false, and_false, or_false, OfNat.ofNat_ne_one, OfNat.ofNat_ne_zero, false_and, not_false_eq_true]),
    if_neg (show ¬ s.role (beAt b 0 2 % 4096) = 0 by omega)]
  split_ifs <;> rfl

/-- A roster message too short for an entry, at a device that is no member. -/
theorem rosterMessage_short (hlen : b.length < entryLen) (hm : s.plx.member = 0xFFFF) : (rosterMessage s m b).1 = plxRefresh s := by
  unfold rosterMessage
  rw [Nat.div_eq_of_lt hlen]
  exact if_neg fun h => h.1 hm

/-- A roster message of one entry that its caller signed and that is newer. -/
theorem rosterMessage_one (hlen : b.length = entryLen) (hm : s.plx.member = 0xFFFF) (hsig : entrySigned s.plx.qid (entSerial (s.entry m)) b = true)
    (hnew : beAt (s.entry (beAt b 0 2)) 8 8 < beAt b 8 8) : (rosterMessage s m b).1 = plxRefresh (putEntry s b) := by
  have hone : (List.range (b.length / entryLen)).map (fun i => octAt b (entryLen * i) entryLen) = [b] := by
    rw [hlen, Nat.div_self (by decide)]
    refine congrArg (fun x => [x]) ?_
    unfold octAt
    beta_reduce
    rw [Nat.mul_zero, List.drop_zero, ← hlen, List.take_left]
  have hkeep : (putEntry s b).plx.member = 0xFFFF := (congrArg Plx.member (plx_putEntry s b)).trans hm
  have hput : (if entrySigned s.plx.qid (entSerial (s.entry m)) b = true ∧ beAt (s.entry (beAt b 0 2)) 8 8 < beAt b 8 8 then putEntry s b else s) = putEntry s b :=
    if_pos ⟨hsig, hnew⟩
  unfold rosterMessage
  dsimp only
  rw [hone, List.foldl_cons, List.foldl_nil, hput]
  exact if_neg fun h => h.1 hkeep

end Messages

/-- Settles O53: frames are checked at their port, and a message acts once. -/
theorem quadrilleMessages : Obligations.QuadrilleMessages := by
  intro s port fs
  refine ⟨fun hdown i hi => ?_, fun hup => congrArg Host.Outcome.next (if_pos hup), fun hup f hf => ?_, fun hup typ u b htake => ?_, fun hup f u b hf htake hj => ?_,
    fun hup u b root htake => ⟨fun h => congrArg Host.Outcome.next (pairMessage_stranger hup htake h), fun hlt he hk hroot hpeer hown hlen hsig =>
      ⟨_, rfl, congrArg Host.Outcome.next (pairMessage_ends hup htake rfl hlt he hk hroot hpeer hown hlen rfl hsig rfl)⟩⟩⟩
  · have hno : ¬ portUp s port = true := ne_true_of_eq_false hdown
    simp only [List.mem_cons, List.not_mem_nil, or_false] at hi
    rcases hi with rfl | rfl | rfl | rfl | rfl | rfl | rfl | rfl | rfl
    · exact congrArg Host.Outcome.next (if_pos hno)
    · exact congrArg Host.Outcome.next (if_pos hno)
    · exact congrArg Host.Outcome.next (plxDeliver_down hdown)
    · exact congrArg Host.Outcome.next (plxDeliver_down hdown)
    · exact congrArg Host.Outcome.next (plxDeliver_down hdown)
    · exact congrArg Host.Outcome.next (plxDeliver_down hdown)
    · exact congrArg Host.Outcome.next (plxDeliver_down hdown)
    · exact congrArg Host.Outcome.next (if_neg hno)
    · exact congrArg Host.Outcome.next (if_pos hno)
  · subst hf
    have hbad : ∀ {typ : Nat} {act : State → Nat → List Octet → State × Nat}, isKeyType typ = true →
        f.length < 32 ∨ beAt f 0 1 ≠ 1 ∨ beAt f 1 1 ≠ typ ∨ 1400 < beAt f 0x1C 2 ∨ bit (beAt f 2 1) 0 = false →
        plxDeliver s port typ [f] act = dropFrame s port := fun hk h =>
      plxDeliver_dropped hup (takeFrames_dropped (takeFrame_malformed (h.imp_right (.imp_right (.imp_right (.imp_right fun h => ⟨hk, h⟩))))))
    exact ⟨fun h => congrArg Host.Outcome.next (hbad rfl h), fun h => congrArg Host.Outcome.next (hbad rfl h), fun h => congrArg Host.Outcome.next (hbad rfl h),
      fun h => congrArg Host.Outcome.next (hbad rfl h), fun h => congrArg Host.Outcome.next (hbad rfl h), fun h =>
        ⟨congrArg Host.Outcome.next (pairMessage_dropped hup (takeFrames_dropped (takeFrame_malformed (.inl h)))),
          congrArg Host.Outcome.next (joinMsg_dropped hup (takeFrames_dropped (takeFrame_malformed (.inl h)))),
          congrArg Host.Outcome.next (helloFrame_dropped hup (takeFrame_malformed (.inl h)))⟩,
      fun h henc => congrArg Host.Outcome.next (plxDeliver_dropped hup (takeFrames_dropped (takeFrame_refused rfl h henc)))⟩
  · intro m id hno
    refine ⟨fun hgot => ?_, fun hgot g hg => ?_⟩
    · have hagain : ∀ {act : State → Nat → List Octet → State × Nat}, plxDeliver s port typ fs act = u := plxDeliver_again hup htake hno hgot
      refine ⟨?_, ?_, ?_, ?_, ?_⟩ <;> rintro rfl <;> exact congrArg Host.Outcome.next hagain
    · have hact : ∀ {act : State → Nat → List Octet → State × Nat}, plxDeliver s port typ fs act = (act g m b).1 := plxDeliver_acts hup htake hno hgot hg
      refine ⟨?_, ?_, ?_, ?_, ?_, ?_, ?_, ?_, ?_⟩
      · rintro rfl h
        exact congrArg Host.Outcome.next (hact.trans (congrArg Prod.fst (ackMessage_unknown h)))
      · rintro rfl x hx h7
        exact ⟨_, congrArg Host.Outcome.next hact, ackMessage_update hx h7 rfl⟩
      · rintro rfl h
        exact congrArg Host.Outcome.next (hact.trans (congrArg Prod.fst (statementMessage_asked h)))
      · rintro rfl h hn
        exact congrArg Host.Outcome.next (hact.trans (congrArg Prod.fst (statementMessage_unasked h hn)))
      · rintro rfl h
        exact congrArg Host.Outcome.next (hact.trans (congrArg Prod.fst (if_pos h)))
      · rintro rfl h
        exact congrArg Host.Outcome.next (hact.trans (congrArg Prod.fst (if_neg (not_not_intro h))))
      · rintro rfl
        refine ⟨fun h => congrArg Host.Outcome.next (hact.trans (congrArg Prod.fst (replicaMessage_refused rfl h))), fun h0 he hown h2 hm => ?_⟩
        have hof := hact.trans (replicaMessage_of rfl rfl h0 he hown h2 hm)
        refine ⟨fun hle => congrArg Host.Outcome.next (hof.trans (if_pos hle)), ?_, fun hlt => congrArg Host.Outcome.next (hof.trans ((if_neg (by omega)).trans (if_neg (by omega))))⟩
        rintro hn - r rfl hheld
        refine congrArg Host.Outcome.next (hof.trans ((if_neg (by omega)).trans ((if_pos hn).trans ?_)))
        exact congrArg (fun x => lagRefresh x _) (congrArg (fun l => applyHeld (List.length l) _ _) hheld)
      · rintro rfl hlen hm
        exact congrArg Host.Outcome.next (hact.trans (rosterMessage_short hlen hm))
      · rintro rfl hlen hm hsig hnew
        exact congrArg Host.Outcome.next (hact.trans (rosterMessage_one hlen hm hsig hnew))
  · have hof := helloFrame_heard hup htake hj
    refine ⟨fun h => congrArg Host.Outcome.next (hof.trans (if_pos h)), ?_⟩
    rintro hm hq hown hne t rfl
    have hin : ¬ (beAt b 16 2 ≥ 4096 ∨ beAt b 18 8 ≠ u.plx.qid ∨ u.plx.member = 0xFFFF ∨ beAt b 16 2 = u.plx.member) := by
      rintro (h | h | h | h)
      · omega
      · exact h hq
      · exact hown h
      · exact hne h
    exact ⟨fun h => congrArg Host.Outcome.next (hof.trans ((if_neg hin).trans (if_neg (not_not_intro h)))),
      fun h => congrArg Host.Outcome.next (hof.trans ((if_neg hin).trans (if_pos h)))⟩

end Sys2Proof.Machine
end


section
/-! SUPPORT. Links, paths and membership of the quadrille (R394, R396 to R402, R409). -/
namespace Sys2Proof.Machine
open Sys2Proof

/-! ### Links and paths -/

section Links
variable {s t : State} {port : Nat}

/-- HELLO leaves on each of some ports that is enabled. -/
theorem sent_hellos (l : List Nat) (s : State) : (l.foldl (fun s n => if s.on (Reg.PLX_PORT_CFG_ENABLE n) then
      emitFrames s n [plxHeader 1 0 0 s.plx.member 0xFFFF s.plx.qid 0 0 36 1 ++ helloBody s n] else s) s).sent =
    s.sent ++ (l.filter (fun n => s.on (Reg.PLX_PORT_CFG_ENABLE n))).map (fun n =>
      .peloux n (plxHeader 1 0 0 s.plx.member 0xFFFF s.plx.qid 0 0 36 1 ++ helloBody s n)) := by
  induction l generalizing s with
  | nil => exact (List.append_nil _).symm
  | cons n l ih =>
    rw [List.foldl_cons, ih]
    by_cases hon : s.on (Reg.PLX_PORT_CFG_ENABLE n) = true
    · rw [if_pos hon, List.filter_cons_of_pos (p := fun n => s.on (Reg.PLX_PORT_CFG_ENABLE n)) hon, List.map_cons, List.append_cons]
      rfl
    · rw [if_neg hon, List.filter_cons_of_neg (p := fun n => s.on (Reg.PLX_PORT_CFG_ENABLE n)) hon]

/-- Clearing a bit that is set of four. -/
theorem bit_sub_pow {l p : Nat} (hp : p < 4) (h : bit l p = true) : bit ((l - 2 ^ p) % 2 ^ 4) p = false ∧ ∀ q < 4, q ≠ p → bit ((l - 2 ^ p) % 2 ^ 4) q = bit l q := by
  have hl : l / 2 ^ p % 2 = 1 := of_decide_eq_true h
  have hcase : p = 0 ∨ p = 1 ∨ p = 2 ∨ p = 3 := by omega
  refine ⟨decide_eq_false ?_, fun q hq hne => Bool.decide_congr ?_⟩
  · rcases hcase with rfl | rfl | rfl | rfl <;> omega
  · have hcase' : q = 0 ∨ q = 1 ∨ q = 2 ∨ q = 3 := by omega
    rcases hcase with rfl | rfl | rfl | rfl <;> rcases hcase' with rfl | rfl | rfl | rfl <;> omega

/-- Setting a bit that is clear of four. -/
theorem bit_add_pow {l p : Nat} (hp : p < 4) (h : bit l p = false) : bit ((l + 2 ^ p) % 2 ^ 4) p = true ∧ ∀ q < 4, q ≠ p → bit ((l + 2 ^ p) % 2 ^ 4) q = bit l q := by
  have hl : ¬ l / 2 ^ p % 2 = 1 := of_decide_eq_false h
  have hcase : p = 0 ∨ p = 1 ∨ p = 2 ∨ p = 3 := by omega
  refine ⟨decide_eq_true ?_, fun q hq hne => Bool.decide_congr ?_⟩
  · rcases hcase with rfl | rfl | rfl | rfl <;> omega
  · have hcase' : q = 0 ∨ q = 1 ∨ q = 2 ∨ q = 3 := by omega
    rcases hcase with rfl | rfl | rfl | rfl <;> rcases hcase' with rfl | rfl | rfl | rfl <;> omega

/-- A port that loses lock while no message waits. -/
theorem lockLost_shows (hp : port < 4) (h : bit (s.rd Reg.PLX_STAT_LINK) port = true) (hm : s.plx.msgs = []) (ht : lockLost s port = t) :
    bit (t.rd Reg.PLX_STAT_LINK) port = false ∧ (∀ q < 4, q ≠ port → bit (t.rd Reg.PLX_STAT_LINK) q = bit (s.rd Reg.PLX_STAT_LINK) q) ∧
      (∀ x ∈ t.plx.paths, x % 4 ≠ port) ∧ portUp t port = false := by
  have hkeep : lockLost s port = (s.wr Reg.PLX_STAT_LINK (s.rd Reg.PLX_STAT_LINK - 2 ^ port)).setPlx
      (fun p => { p with paths := p.paths.filter (fun x => decide (x % 4 ≠ port)) }) := by
    unfold lockLost
    dsimp only
    rw [if_pos h]
    exact congrArg (fun l : List PlxMsg => (l.filter (fun x => decide (x.port = port))).foldl moveMsg _) hm
  have hrd : t.rd Reg.PLX_STAT_LINK = (s.rd Reg.PLX_STAT_LINK - 2 ^ port) % 2 ^ 4 := by
    rw [← ht, hkeep]
    exact State.rd_wr ..
  obtain ⟨hclear, hothers⟩ := bit_sub_pow hp h
  rw [hrd]
  refine ⟨hclear, hothers, fun x hx => ?_, ?_⟩
  · rw [← ht, hkeep] at hx
    exact of_decide_eq_true (List.mem_filter.mp hx).2
  · unfold portUp
    rw [hrd, hclear, Bool.and_false]

/-- A port that gains lock. -/
theorem lockGained_shows (hp : port < 4) (h : bit (s.rd Reg.PLX_STAT_LINK) port = false) (ht : lockGained s port = t) :
    bit (t.rd Reg.PLX_STAT_LINK) port = true ∧ ∀ q < 4, q ≠ port → bit (t.rd Reg.PLX_STAT_LINK) q = bit (s.rd Reg.PLX_STAT_LINK) q := by
  have hrd : t.rd Reg.PLX_STAT_LINK = (s.rd Reg.PLX_STAT_LINK + 2 ^ port) % 2 ^ 4 := by
    rw [← ht, lockGained, if_neg (ne_true_of_eq_false h)]
    exact State.rd_wr ..
  rw [hrd]
  exact bit_add_pow hp h

theorem retryMsg_unknown {id : Nat} (h : ∀ x ∈ s.plx.msgs, x.id ≠ id) : retryMsg s id = s := by
  have hnone : s.plx.msgs.find? (fun x => decide (x.id = id)) = none := List.find?_eq_none.mpr fun x hx hd => h x hx (of_decide_eq_true hd)
  unfold retryMsg
  rw [hnone]

/-- The only message without an acknowledgement goes again, or moves. -/
theorem retryMsg_only {x y : PlxMsg} (hx : s.plx.msgs = [x]) (hy : y = { x with tries := x.tries + 1 }) : retryMsg s x.id =
    if x.tries ≥ 8 then moveMsg s x else transmit (s.setPlx (fun p => { p with msgs := [y] })) y true := by
  subst hy
  have hsome : s.plx.msgs.find? (fun z => decide (z.id = x.id)) = some x := by rw [hx]; exact List.find?_cons_of_pos (decide_eq_true rfl)
  unfold retryMsg
  rw [hsome]
  dsimp only [State.setPlx]
  rw [hx, List.map_singleton, if_pos rfl]

/-- The only message has no port left. -/
theorem moveMsg_fails {x : PlxMsg} (hx : s.plx.msgs = [x]) (hno : ∀ n, portFor s x.dst n = none) : moveMsg s x = s.setPlx (fun p => { p with msgs := [] }) := by
  unfold moveMsg
  rw [hno, hno]
  dsimp only [Option.orElse, State.setPlx]
  rw [hx, List.filter_cons_of_neg (by simp only [ne_eq, not_true_eq_false, decide_false, Bool.false_eq_true, not_false_eq_true]), List.filter_nil]

/-- The only message moves to the next port. -/
theorem moveMsg_moves {x y : PlxMsg} {n : Nat} (hx : s.plx.msgs = [x]) (hn : portFor s x.dst (x.port + 1) = some n) (hy : y = { x with port := n, tries := 0 }) :
    moveMsg s x = transmit (s.setPlx (fun p => { p with msgs := [y] })) y true := by
  subst hy
  unfold moveMsg
  rw [hn]
  dsimp only [Option.orElse, State.setPlx]
  rw [hx, List.map_singleton, if_pos rfl]

/-- A message in the clear leaves segment by segment. -/
theorem sent_sendClear (typ dst id : Nat) (body : List Octet) : (sendClear s port typ dst id body).sent = s.sent ++
    (segments body).mapIdx (fun i o => .peloux port (plxHeader typ 0 i s.plx.member dst s.plx.qid 0 id o.length (segments body).length ++ o)) := by
  have hzip : ∀ (l : List (List Octet)) (g : Nat × List Octet → Sent), ((List.range l.length).zip l).map g = l.mapIdx (fun i o => g (i, o)) := by
    intro l g
    refine List.ext_getElem (by simp only [List.length_map, List.length_zip, List.length_range, min_self, List.length_mapIdx]) fun i h1 h2 => ?_
    simp only [List.getElem_map, List.getElem_zip, List.getElem_range, List.getElem_mapIdx]
  refine congrArg (s.sent ++ ·) ?_
  rw [List.map_map]
  exact hzip _ _

/-- An exchange of keys opens with this side's offer. -/
theorem startPair_offers {m n : Nat} {root : List Octet} (hn : portFor s m 0 = some n) (hr : s.tamp.root = some root) (hp : tget [] s.plx.pairing m = [])
    (ht : startPair s m = t) : ∃ body, t.sent = s.sent ++ (segments body).mapIdx (fun i o =>
        .peloux n (plxHeader 3 0 i s.plx.member m s.plx.qid 0 s.plx.nextId o.length (segments body).length ++ o)) ∧
      body.take 5 = [1] ++ beOctets 4 ((tget LinkKey.none s.plx.keys m).exch + 1) := by
  subst ht
  unfold startPair
  rw [hn, hr]
  dsimp only
  rw [if_neg (not_not_intro hp)]
  exact ⟨_, sent_sendClear .., rfl⟩

end Links

/-! ### The registers that show membership -/

/-- The fields that `plxRefresh` writes, without those of the domains. -/
def plxShown : List Fld := [Reg.PLX_STAT_MSTATE, Reg.PLX_STAT_CALLER, Reg.PLX_QID_LO, Reg.PLX_QID_HI, Reg.PLX_FIXED, Reg.PLX_ACTIVE, Reg.PLX_ROSTER_SEQ]

section Shown
variable {f : Fld}

/-- The domains' roles shown leave the fields below them. -/
theorem rd_showRoles (hlow : f.place < 0x10000078000 * 32) (l : Tab (Nat × Nat)) (s : State) :
    (l.foldl (fun s e => (s.wr (Reg.PLX_DOM_ROLE e.1) e.2.1).wr (Reg.PLX_DOM_HOME e.1) e.2.2) s).rd f = s.rd f := by
  refine foldl_keeps (fun s : State => s.rd f) (fun s e => ?_) l s
  rw [State.rd_wr_place _ _ (by simp only [Fld.place, Reg.PLX_DOM_HOME] at hlow ⊢; omega),
    State.rd_wr_place _ _ (by simp only [Fld.place, Reg.PLX_DOM_ROLE] at hlow ⊢; omega)]

theorem rd_rosterCounts (s : State) (h : ∀ g ∈ plxShown, f.place ≠ g.place) : (rosterCounts s).rd f = s.rd f := by
  rw [rosterCounts, State.rd_wr_place _ _ (h _ (by simp only [plxShown, List.mem_cons, true_or, or_true])),
    State.rd_wr_place _ _ (h _ (by simp only [plxShown, List.mem_cons, true_or, or_true]))]

theorem rd_plxRefresh (s : State) (h : ∀ g ∈ plxShown, f.place ≠ g.place) (hlow : f.place < 0x10000078000 * 32) : (plxRefresh s).rd f = s.rd f := by
  unfold plxRefresh
  dsimp only
  rw [rd_showRoles hlow, rd_rosterCounts _ h]
  simp only [plxShown, List.forall_mem_cons] at h
  obtain ⟨hstate, hcaller, hlo, hhi, hfixed, -⟩ := h
  rw [State.rd_wr_place _ _ hfixed, State.rd_wr_place _ _ hhi, State.rd_wr_place _ _ hlo, State.rd_flag_place _ _ hcaller, State.rd_wr_place _ _ hstate]

/-- MSTATE as `plxRefresh` shows it. -/
theorem mstate_plxRefresh (s : State) : (plxRefresh s).rd Reg.PLX_STAT_MSTATE =
    (if s.plx.join.isSome then 1 else if s.plx.member = 0xFFFF then 0 else if entState (s.entry s.plx.member) = 3 then 3 else 2) % 2 ^ 2 := by
  unfold plxRefresh rosterCounts
  dsimp only
  rw [rd_showRoles (by decide), State.rd_wr_place _ _ (by decide), State.rd_wr_place _ _ (by decide), State.rd_wr_place _ _ (by decide),
    State.rd_wr_place _ _ (by decide), State.rd_wr_place _ _ (by decide), State.rd_flag_place _ _ (by decide)]
  exact State.rd_wr ..

theorem plx_plxRefresh (s : State) : (plxRefresh s).plx = s.plx :=
  foldl_keeps State.plx (g := fun s (e : Nat × Nat × Nat) => (s.wr (Reg.PLX_DOM_ROLE e.1) e.2.1).wr (Reg.PLX_DOM_HOME e.1) e.2.2) (fun _ _ => rfl) _ _

end Shown

/-! ### Random words -/

/-- The fields that a use of the DRBG writes. -/
def drbgFields : List Fld := [Reg.DRBG_REQS, Reg.RNG_CTL_RESEED, Reg.DRBG_RSD_L, Reg.DRBG_RSD_H, Reg.RNG_STAT_RSO, Reg.RNG_STAT_DRBG, Reg.RNG_STAT_FIFO]

theorem rd_serveReseed {f : Fld} (s : State) (h : ∀ g ∈ drbgFields, f.place ≠ g.place) : (serveReseed s).rd f = s.rd f := by
  simp only [drbgFields, List.forall_mem_cons] at h
  obtain ⟨hreqs, hseed, hlo, hhi, hover, hdrbg, hfifo, -⟩ := h
  have hwide : ∀ (t : State) (v : Nat), (t.wr2 Reg.DRBG_RSD_L Reg.DRBG_RSD_H v).rd f = t.rd f := fun t v => by
    rw [State.wr2, State.rd_wr_place _ _ hhi, State.rd_wr_place _ _ hlo]
  unfold serveReseed
  split
  · split
    · rfl
    · dsimp only
      rw [State.rd_wr_place _ _ hdrbg, apply_ite (fun t : State => t.rd f), State.rd_flag_place _ _ hover, hwide, hwide, ite_self,
        State.rd_flag_place _ _ hseed, State.rd_wr_place _ _ hreqs, State.setEnt, State.rd_wr_place _ _ hfifo]
      rfl
  · rfl

theorem rd_drawRandom {f : Fld} (s : State) (n : Nat) (h : ∀ g ∈ drbgFields, f.place ≠ g.place) : (drawRandom s n).2.rd f = s.rd f := by
  have hreqs : f.place ≠ Reg.DRBG_REQS.place := h _ List.mem_cons_self
  unfold drawRandom
  dsimp only
  split
  · split
    · exact rd_serveReseed s h
    · exact (State.rd_wr_place _ _ hreqs).trans (rd_serveReseed s h)
  · exact rd_serveReseed s h

theorem plx_serveReseed (s : State) : (serveReseed s).plx = s.plx := by
  unfold serveReseed
  split
  · split
    · rfl
    · simp only [State.wr_frame, State.flag_frame, State.wr2_frame, apply_ite State.plx, ite_self, State.setEnt]
  · rfl

theorem plx_drawRandom (s : State) (n : Nat) : (drawRandom s n).2.plx = s.plx := by
  unfold drawRandom
  dsimp only
  split
  · split
    · exact plx_serveReseed s
    · exact plx_serveReseed s
  · exact plx_serveReseed s

/-! ### Commands of a member -/

/-- The state in which an action of PLX_CMD begins. -/
def plxTaken (s : State) (act : Nat) : State := (s.wr Reg.PLX_CMD_ACTION act).flag Reg.PLX_CMD_GO true

section Commands
variable {s t : State} {m : Requester} {act : Nat} {f : State → State}

theorem rd_plxTaken (s : State) (act : Nat) {g : Fld} (hg : g.addr ≠ 0x10000070020) (hl : g.lo < 32) : (plxTaken s act).rd g = s.rd g := by
  rw [plxTaken, State.rd_flag_place _ _ (by simp only [Fld.place, Reg.PLX_CMD_GO]; omega), State.rd_wr_place _ _ (by simp only [Fld.place, Reg.PLX_CMD_ACTION]; omega)]

theorem mode_plxTaken (s : State) (act : Nat) : (plxTaken s act).mode = s.mode := rd_plxTaken s act (by decide) (by decide)

theorem namedJoiner_plxTaken (s : State) (act : Nat) : namedJoiner (plxTaken s act) = namedJoiner s := by
  have harg : ∀ k, (plxTaken s act).rd (Reg.PLX_ARG k) = s.rd (Reg.PLX_ARG k) := fun k =>
    rd_plxTaken s act (by simp only [Reg.PLX_ARG]; omega) (Nat.zero_lt_succ _)
  unfold namedJoiner
  simp only [harg]
  rfl

theorem plxCommand_follower (h : s.lead ≠ m.lead) : plxCommand s m act f = dropFollower s m := if_pos h

theorem plxCommand_busy (h : s.lead = m.lead) (hgo : s.on Reg.PLX_CMD_GO = true) : plxCommand s m act f = s := (if_neg (not_not_intro h)).trans (if_pos hgo)

theorem plxCommand_taken (h : s.lead = m.lead) (hgo : s.on Reg.PLX_CMD_GO = false) : plxCommand s m act f = f (plxTaken s act) :=
  (if_neg (not_not_intro h)).trans (if_neg (ne_true_of_eq_false hgo))

/-- JOIN where a device may not join. -/
theorem joinStart_refused (h : s.mode ≠ mOperational ∨ s.tamp.root = none ∨ s.plx.member ≠ 0xFFFF) : joinStart (plxTaken s act) = plxEnds (plxTaken s act) 2 := by
  refine if_pos ?_
  rw [mode_plxTaken]
  exact h.imp_right (.imp_left fun hr => Option.isNone_iff_eq_none.mpr hr)

/-- JOIN begins. -/
theorem joinStart_begins (hmode : s.mode = mOperational) (hr : s.tamp.root ≠ none) (hm : s.plx.member = 0xFFFF) (ht : joinStart (plxTaken s act) = t) :
    t.plx.join = some (s.rd (Reg.PLX_ARG 1) + 2 ^ 32 * s.rd (Reg.PLX_ARG 2), s.rd (Reg.PLX_ARG 0) % 4096, (drawRandom (plxTaken s act) 32).1, 0) ∧
      t.rd Reg.PLX_STAT_MSTATE = 1 := by
  have hfree : ¬ ((plxTaken s act).mode ≠ mOperational ∨ (plxTaken s act).tamp.root.isNone = true ∨ (plxTaken s act).plx.member ≠ 0xFFFF) := by
    rw [mode_plxTaken]
    rintro (h | h | h)
    · exact h hmode
    · exact hr (Option.isNone_iff_eq_none.mp h)
    · exact h hm
  have harg : ∀ k, k < 3 → (drawRandom (plxTaken s act) 32).2.rd (Reg.PLX_ARG k) = s.rd (Reg.PLX_ARG k) := fun k hk => by
    rw [rd_drawRandom, rd_plxTaken s act (by simp only [Reg.PLX_ARG]; omega) (Nat.zero_lt_succ _)]
    have hcase : k = 0 ∨ k = 1 ∨ k = 2 := by omega
    rcases hcase with rfl | rfl | rfl <;> decide
  subst ht
  unfold joinStart
  rw [if_neg hfree]
  dsimp only
  rw [plx_plxRefresh, mstate_plxRefresh, harg 0 (by decide), harg 1 (by decide), harg 2 (by decide)]
  exact ⟨rfl, rfl⟩

theorem admitOp_unknown (h : namedJoiner s = none) : admitOp (plxTaken s act) = plxEnds (plxTaken s act) 2 := by
  unfold admitOp
  rw [namedJoiner_plxTaken, h]

theorem refuseOp_unknown (h : namedJoiner s = none) : refuseOp (plxTaken s act) = plxEnds (plxTaken s act) 2 := by
  unfold refuseOp
  rw [namedJoiner_plxTaken, h]

theorem refuseOp_answers {j : List Octet} (h : namedJoiner s = some j) : refuseOp (plxTaken s act) = plxEnds (dropJoiner (plxTaken s act) j [4, 2]) 0 := by
  unfold refuseOp
  rw [namedJoiner_plxTaken, h]

/-- ADMIT of a joiner that asks for a number. -/
theorem admitOp_asks {j : List Octet} {u : State} (h : namedJoiner s = some j) (hask : beAt j 16 2 ≠ 0) (hu : plxTaken s act = u) : admitOp (plxTaken s act) =
    if entState (u.entry (beAt j 16 2)) = 1 then plxEnds (dropJoiner u j [4, 3]) 3
    else if u.plx.count ≥ 16383 ∨ u.plx.epoch = 0 then plxEnds (dropJoiner u j [4, 6]) 6
    else
      let e := signEntry (u.setPlx (fun p => { p with count := p.count + 1 })) (beAt j 16 2) 1 (u.plx.epoch * 2 ^ 14 + (u.plx.count + 1)) (j.take 16)
        (octAt j 84 48) (octAt j 132 48)
      plxEnds (sendRoster (dropJoiner e.2 j ([4, 0] ++ e.2.members.flatMap (fun k => fitOctets entryLen (e.2.entry k)))) e.1) 0 := by
  subst hu
  unfold admitOp
  rw [namedJoiner_plxTaken, h]
  dsimp only
  rw [if_pos hask]
  rfl

/-- ADMIT signs an entry, answers the joiner with the roster and tells the members. -/
theorem admitOp_admits {j x : List Octet} {u t : State} {e c : Nat} (h : namedJoiner s = some j) (hask : beAt j 16 2 ≠ 0) (hu : plxTaken s act = u)
    (hfree : entState (u.entry (beAt j 16 2)) ≠ 1) (he : u.plx.epoch = e) (hc : u.plx.count = c) (he0 : e ≠ 0) (hlt : c < 16383)
    (hsign : signEntry (u.setPlx (fun p => { p with count := p.count + 1 })) (beAt j 16 2) 1 (e * 2 ^ 14 + (c + 1)) (j.take 16) (octAt j 84 48) (octAt j 132 48) = (x, t)) :
    admitOp (plxTaken s act) = plxEnds (sendRoster (dropJoiner t j ([4, 0] ++ t.members.flatMap (fun k => fitOctets entryLen (t.entry k)))) x) 0 := by
  have hroom : ¬ (c ≥ 16383 ∨ e = 0) := by omega
  rw [admitOp_asks h hask hu, if_neg hfree, he, hc, if_neg hroom]
  dsimp only
  rw [hsign]

theorem leaveOp_standalone (hm : s.plx.member = 0xFFFF) : leaveOp s = plxEnds s 2 := if_pos hm

theorem leaveOp_caller (hm : s.plx.member ≠ 0xFFFF) (he : s.plx.epoch ≠ 0) : leaveOp s = plxEnds (leaveQuadrille (retireMember s s.plx.member)) 0 :=
  (if_neg hm).trans (if_pos he)

theorem leaveOp_member (hm : s.plx.member ≠ 0xFFFF) (he : s.plx.epoch = 0) (hc : s.plx.claims = []) :
    leaveOp s = plxEnds (leaveQuadrille (signBoth s ([5] ++ beOctets 2 s.plx.member)).2) 0 := by
  have hkeep : (signBoth s ([5] ++ beOctets 2 s.plx.member)).2.plx.claims = [] := hc
  unfold leaveOp
  rw [if_neg hm, if_neg (not_not_intro he)]
  dsimp only
  rw [hkeep]
  rfl

end Commands

/-- A device that leaves is no member. -/
theorem leaveQuadrille_shows (s : State) : (leaveQuadrille s).plx.member = 0xFFFF ∧ (leaveQuadrille s).plx.qid = 0 ∧ (leaveQuadrille s).plx.epoch = 0 ∧
    (leaveQuadrille s).plx.join = none ∧ (leaveQuadrille s).rd Reg.PLX_STAT_MSTATE = 0 := by
  unfold leaveQuadrille
  rw [plx_plxRefresh, mstate_plxRefresh]
  exact ⟨rfl, rfl, rfl, rfl, rfl⟩

theorem plx_joinFails (s : State) (status : Nat) : (joinFails s status).plx = { s.plx with join := none } := plx_plxRefresh _

theorem joinFails_shows (s : State) : (joinFails s 4).plx.join = none ∧ (joinFails s 4).rd Reg.PLX_CMD_STATUS = 4 ∧ (joinFails s 4).on Reg.PLX_CMD_GO = false := by
  refine ⟨congrArg Plx.join (plx_joinFails s 4), ?_, ?_⟩
  · rw [joinFails, rd_plxRefresh _ (by decide) (by decide), State.rd_flag_place _ _ (by decide)]
    exact State.rd_wr ..
  · have hgo : ∀ u : State, (u.flag Reg.PLX_CMD_GO false).on Reg.PLX_CMD_GO = false := fun u => State.on_flag _ Nat.one_ne_zero _
    rw [joinFails, State.on, rd_plxRefresh _ (by decide) (by decide)]
    exact hgo _

/-- No ADMIT in time, with no joiner shown. -/
theorem admitTimeout_of {s : State} {q k : Nat} {n : Nat} {o : List Octet} (h : s.plx.join = some (q, n, o, k)) (hj : s.plx.joiners = []) :
    admitTimeout s = if k ≥ 1 then joinFails s 5 else s := by
  have hkeep : (if k ≥ 1 then joinFails s 5 else s).plx.joiners = [] := by
    split
    · rw [plx_joinFails, hj]
    · exact hj
  unfold admitTimeout
  rw [h]
  dsimp only
  rw [hkeep]
  rfl

/-- A caller forgets the joiner it has shown. -/
theorem admitTimeout_forgets {s : State} {j : List Octet} (h : s.plx.join = none) (hj : s.plx.joiners = [j]) (hshown : beAt j 83 1 = 1) :
    admitTimeout s = pendShow (s.setPlx (fun p => { p with joiners := [] })) := by
  unfold admitTimeout
  rw [h]
  dsimp only
  rw [hj, List.find?_cons_of_pos (by exact decide_eq_true hshown)]
  dsimp only [State.setPlx]
  rw [hj, List.filter_cons_of_neg (by simp only [ne_eq, not_true_eq_false, decide_false, Bool.false_eq_true, not_false_eq_true]), List.filter_nil]

/-- Settles O54: links, paths and membership. -/
theorem linksAndMembership : Obligations.LinksAndMembership := by
  refine ⟨fun s m port => ⟨⟨_, rfl, sent_hellos _ _⟩, rfl, fun h hm => ⟨_, rfl, lockLost_shows port.isLt h hm rfl⟩, fun h => congrArg Host.Outcome.next (if_pos h),
    fun h => ⟨_, rfl, lockGained_shows port.isLt h rfl⟩, fun id => ⟨fun h => congrArg Host.Outcome.next (retryMsg_unknown h), ?_, ?_, ?_⟩,
    fun h => congrArg Host.Outcome.next (if_pos h), fun h => congrArg Host.Outcome.next (if_neg h), fun n root h hn hr hp => ?_⟩,
    fun s m => ⟨fun h i hi => ?_, fun h hgo i hi => ?_, fun h hgo => ?_, ⟨_, rfl, leaveQuadrille_shows s⟩, fun q n o k hjoin => ⟨?_, ?_, ?_, ?_⟩, ?_, ?_, ⟨_, rfl, joinFails_shows s⟩⟩⟩
  · intro x hx hid hlt
    refine congrArg Host.Outcome.next ?_
    rw [← hid]
    exact (retryMsg_only hx rfl).trans (if_neg (by omega))
  · intro x hx hid hle hno
    refine congrArg Host.Outcome.next ?_
    rw [← hid]
    exact (retryMsg_only hx rfl).trans ((if_pos hle).trans (moveMsg_fails hx hno))
  · intro x n hx hid hle hn
    refine congrArg Host.Outcome.next ?_
    rw [← hid]
    exact (retryMsg_only hx rfl).trans ((if_pos hle).trans (moveMsg_moves hx hn rfl))
  · obtain ⟨body, hspec⟩ := startPair_offers hn hr hp rfl
    exact ⟨_, body, congrArg Host.Outcome.next (if_neg h), hspec⟩
  · simp only [List.mem_cons, List.not_mem_nil, or_false] at hi
    rcases hi with rfl | rfl | rfl | rfl <;> exact congrArg Host.Outcome.next (plxCommand_follower h)
  · simp only [List.mem_cons, List.not_mem_nil, or_false] at hi
    rcases hi with rfl | rfl | rfl | rfl <;> exact congrArg Host.Outcome.next (plxCommand_busy h hgo)
  · have htaken : ∀ {act : Nat} {f : State → State}, plxCommand s m act f = f (plxTaken s act) := plxCommand_taken h hgo
    refine ⟨fun hno => congrArg Host.Outcome.next (htaken.trans (joinStart_refused hno)),
      fun hmode hr hm => ⟨_, congrArg Host.Outcome.next htaken, joinStart_begins hmode hr hm rfl⟩,
      fun hno => ⟨congrArg Host.Outcome.next (htaken.trans (admitOp_unknown hno)), congrArg Host.Outcome.next (htaken.trans (refuseOp_unknown hno))⟩,
      fun j hj => congrArg Host.Outcome.next (htaken.trans (refuseOp_answers hj)),
      fun j hj hask he => congrArg Host.Outcome.next (htaken.trans ((admitOp_asks hj hask rfl).trans (if_pos he))),
      fun j hj hask he hfull => congrArg Host.Outcome.next (htaken.trans ((admitOp_asks hj hask rfl).trans ((if_neg he).trans (if_pos hfull)))),
      fun j hj hask he hc hep => ?_,
      fun hm => congrArg Host.Outcome.next (htaken.trans (leaveOp_standalone hm)),
      fun hm he => congrArg Host.Outcome.next (htaken.trans (leaveOp_caller hm he)),
      fun hm he hc => congrArg Host.Outcome.next (htaken.trans (leaveOp_member hm he hc))⟩
    intro b x t hsign
    exact congrArg Host.Outcome.next (htaken.trans (admitOp_admits hj hask rfl he rfl rfl hep hc hsign))
  · rintro rfl
    refine congrArg Host.Outcome.next ?_
    rw [hjoin] <;> rfl
  · intro hk
    refine congrArg Host.Outcome.next ?_
    rw [hjoin]
    split
    · next h =>
      exact absurd (congrArg (fun x : Option (Nat × Nat × List Octet × Nat) => x.elim 0 (fun y => y.2.2.2)) h) hk
    · rfl
  · exact fun hk hj => congrArg Host.Outcome.next ((admitTimeout_of hjoin hj).trans (if_pos (Nat.one_le_iff_ne_zero.mpr hk)))
  · exact fun hk hj => congrArg Host.Outcome.next ((admitTimeout_of hjoin hj).trans (if_neg (by omega)))
  · intro hjoin
    refine congrArg Host.Outcome.next ?_
    rw [hjoin]
  · exact fun j hjoin hj hshown => congrArg Host.Outcome.next (admitTimeout_forgets hjoin hj hshown)

end Sys2Proof.Machine
end


section
/-! SUPPORT. What a record and a change of mode leave as it was: mode, cause of Fault, journal level, sources, key cache, DRBG, the reset's state (R203, R282 to
R292, R442, R445). -/
namespace Sys2Proof.Machine
open Sys2Proof

/-- The fields that records and events leave. -/
def steadyFields : List Fld := [Reg.MODE_STAT_MODE, Reg.MODE_STAT_FAULT_CAUSE, Reg.JNL_STAT_LEVEL]

/-- The places that records and events leave: those of `steadyFields` and of the sources' states. -/
def steadyPlaces : List Nat := steadyFields.map Fld.place ++ (List.range 8).map (fun n => (Reg.SRC_STAT_STATE n).place)

/-- The sources keep their states, but for those in raw access, which may restart. -/
def SrcKept (s t : State) : Prop := ∀ n < 8, t.rd (Reg.SRC_STAT_STATE n) = s.rd (Reg.SRC_STAT_STATE n) ∨
  (s.rd (Reg.SRC_STAT_STATE n) = 3 ∧ t.rd (Reg.SRC_STAT_STATE n) = 1)

theorem SrcKept.refl (s : State) : SrcKept s s := fun _ _ => .inl rfl

theorem SrcKept.trans {s t u : State} (h : SrcKept s t) (h' : SrcKept t u) : SrcKept s u := fun n hn => by
  have h1 := h n hn
  have h2 := h' n hn
  omega

theorem SrcKept.of_regs {s t : State} (h : t.regs = s.regs) : SrcKept s t :=
  fun n _ => .inl (congrArg (fun r => tget (Reg.SRC_STAT_STATE n).rst r (Reg.SRC_STAT_STATE n).key) h)

theorem SrcKept.wr (s : State) {g : Fld} (v : Nat) (h : g.place ∉ (List.range 8).map (fun n => (Reg.SRC_STAT_STATE n).place)) : SrcKept s (s.wr g v) :=
  fun n hn => .inl (State.rd_wr_place s v fun e => h (List.mem_map.mpr ⟨n, List.mem_range.mpr hn, e⟩))

/-- `t` is `s` with records and events: what is named here stays. -/
structure Noted (s t : State) : Prop where
  rd : ∀ f ∈ steadyFields, t.rd f = s.rd f
  src : SrcKept s t
  cache : t.cache = s.cache
  drbg : t.drbg = s.drbg
  halting : t.halting = s.halting
  rst : t.rst = s.rst
  jmem : t.jnl.mem = s.jnl.mem
  ballots : s.ballots = [] → t.ballots = []

theorem Noted.refl (s : State) : Noted s s := ⟨fun _ _ => rfl, .refl s, rfl, rfl, rfl, rfl, rfl, id⟩

theorem Noted.trans {s t u : State} (h : Noted s t) (h' : Noted t u) : Noted s u where
  rd f hf := (h'.rd f hf).trans (h.rd f hf)
  src := h.src.trans h'.src
  cache := h'.cache.trans h.cache
  drbg := h'.drbg.trans h.drbg
  halting := h'.halting.trans h.halting
  rst := h'.rst.trans h.rst
  jmem := h'.jmem.trans h.jmem
  ballots hb := h'.ballots (h.ballots hb)

theorem Noted.ite {s t u : State} {p : Prop} [Decidable p] (h : Noted s t) (h' : Noted s u) : Noted s (if p then t else u) := by
  split
  · exact h
  · exact h'

theorem Noted.ite_step {s t u : State} {p : Prop} [Decidable p] (h : Noted s u) (h' : Noted u t) : Noted s (if p then t else u) := .ite (h.trans h') h

theorem Noted.foldl {α : Type} {f : State → α → State} (h : ∀ s x, Noted s (f s x)) (l : List α) (s : State) : Noted s (l.foldl f s) := by
  induction l generalizing s with
  | nil => exact .refl s
  | cons x l ih => exact (h s x).trans (ih _)

/-- A state that differs in nothing that is named. -/
theorem Noted.of_regs {s t : State} (hr : t.regs = s.regs) (hc : t.cache = s.cache) (hd : t.drbg = s.drbg) (hh : t.halting = s.halting) (hs : t.rst = s.rst)
    (hj : t.jnl.mem = s.jnl.mem) (hb : t.ballots = s.ballots) : Noted s t where
  rd f _ := congrArg (fun r => tget f.rst r f.key) hr
  src := .of_regs hr
  cache := hc
  drbg := hd
  halting := hh
  rst := hs
  jmem := hj
  ballots h := hb.trans h

theorem Noted.wr (s : State) {g : Fld} (v : Nat) (h : g.place ∉ steadyPlaces) : Noted s (s.wr g v) where
  rd f hf := State.rd_wr_place s v fun e => h (List.mem_append_left _ (List.mem_map.mpr ⟨f, hf, e⟩))
  src := .wr s v fun e => h (List.mem_append_right _ e)
  cache := rfl
  drbg := rfl
  halting := rfl
  rst := rfl
  jmem := rfl
  ballots := id

theorem Noted.flag (s : State) {g : Fld} (b : Bool) (h : g.place ∉ steadyPlaces) : Noted s (s.flag g b) := .wr s _ h

/-- A field above the fields of the device keeps none of the places. -/
theorem steadyPlaces_lt {g : Fld} (h : 0x20000000000 ≤ g.addr) : g.place ∉ steadyPlaces := by
  have hall : ∀ x ∈ steadyPlaces, x < 0x20000000000 * 32 := by decide
  intro hg
  have hlt := hall _ hg
  unfold Fld.place at hlt
  omega

/-! ### Events and records -/

theorem noted_fnEvent (s : State) (f ev : Nat) : Noted s (fnEvent s f ev) := by
  have hw : Noted s (s.wr (Reg.FUNC_EVT f) (s.rd (Reg.FUNC_EVT f) + 2 ^ ev)) := .wr s _ (steadyPlaces_lt (by simp only [Reg.FUNC_EVT]; omega))
  have hraise : ∀ u : State, Noted u (raiseVector u f 0) := fun u => .ite (.of_regs rfl rfl rfl rfl rfl rfl rfl) (.of_regs rfl rfl rfl rfl rfl rfl rfl)
  exact .ite (.refl s) (.ite (hw.trans (hraise _)) hw)

theorem noted_pfEvent (s : State) (ev : Nat) : Noted s (pfEvent s ev) := (noted_fnEvent ..).trans (noted_fnEvent ..)

theorem noted_allEvent (s : State) (ev : Nat) : Noted s (allEvent s ev) := (noted_pfEvent s ev).trans (.foldl (fun _ _ => noted_fnEvent ..) _ _)

theorem noted_jput (s : State) (typ src arg : Nat) (payload : List Octet) (cont world flush : Bool) : Noted s (jput s typ src arg payload cont world flush) := by
  unfold jput
  refine .ite (.refl s) (.ite ?_ (.of_regs rfl rfl rfl rfl rfl rfl rfl))
  refine Noted.trans ?_ (.flag (g := Reg.JNL_STAT_FLUSHING) _ _ (by decide))
  exact .of_regs rfl rfl rfl rfl rfl rfl rfl

theorem noted_jraw (s : State) (typ src arg : Nat) (payload : List Octet) (cont world flush : Bool) : Noted s (jraw s typ src arg payload cont world flush) := by
  have h := noted_jput s typ src arg payload cont world flush
  exact .ite (h.trans ((noted_jput ..).trans (.flag _ _ (by decide)))) h

/-! ### Changes of mode -/

theorem noted_count (s : State) {c o : Fld} (hc : c.place ∉ steadyPlaces) (ho : o.place ∉ steadyPlaces) : Noted s (s.count c o) :=
  .ite (.wr s _ hc) ((Noted.wr s _ hc).trans (.wr _ _ ho))

/-- A source in raw access restarts. -/
theorem noted_restart (s : State) {n : Nat} (hn : n < 8) (h : s.rd (Reg.SRC_STAT_STATE n) = 3) : Noted s (s.wr (Reg.SRC_STAT_STATE n) 1) where
  rd f hf := State.rd_wr_place s _ fun e => by
    have hall : ∀ m < 8, ∀ g ∈ steadyFields, g.place ≠ (Reg.SRC_STAT_STATE m).place := by decide
    exact hall n hn f hf e
  src m _ := by
    by_cases hmn : m = n
    · subst hmn
      exact .inr ⟨h, State.rd_wr ..⟩
    · exact .inl (State.rd_wr_place s _ (by simp only [Fld.place, Reg.SRC_STAT_STATE]; omega))
  cache := rfl
  drbg := rfl
  halting := rfl
  rst := rfl
  jmem := rfl
  ballots := id

theorem noted_rawShut (s : State) : Noted s (rawShut s) := by
  unfold rawShut
  have h1 : Noted s ((s.flag Reg.RAW_CTL_CLOSE false).flag Reg.RAW_CTL_GO false) := (Noted.flag _ _ (by decide)).trans (.flag _ _ (by decide))
  refine .ite h1 (h1.trans ?_)
  generalize (s.flag Reg.RAW_CTL_CLOSE false).flag Reg.RAW_CTL_GO false = u
  dsimp only
  have h2 : Noted u ((u.flag Reg.RNG_STAT_RAW_OPEN false).flag Reg.RAW_STAT_BUSY false) := (Noted.flag _ _ (by decide)).trans (.flag _ _ (by decide))
  refine h2.trans ?_
  have hn := u.ent.rawSrc.isLt
  generalize u.ent.rawSrc.val = n at hn
  generalize (u.flag Reg.RNG_STAT_RAW_OPEN false).flag Reg.RAW_STAT_BUSY false = v
  refine Noted.trans ?_ (noted_jraw ..)
  refine .ite_step ?_ (.wr _ _ (by decide))
  refine Noted.trans ?_ (.wr _ _ (by decide))
  have hplaces : ∀ n < 8, (Reg.SRC_RESTARTS n).place ∉ steadyPlaces ∧ (Reg.SRC_STAT_RFO n).place ∉ steadyPlaces := by decide
  have hstate : ∀ n < 8, (Reg.SRC_STAT_STATE n).place ≠ (Reg.SRC_RESTARTS n).place ∧ (Reg.SRC_STAT_STATE n).place ≠ (Reg.SRC_STAT_RFO n).place := by decide
  have h3 : Noted v (if decide (v.rd (Reg.SRC_STAT_STATE n) = 3) = true then
      (v.count (Reg.SRC_RESTARTS n) (Reg.SRC_STAT_RFO n)).wr (Reg.SRC_STAT_STATE n) 1 else v) := by
    split
    · next hraw =>
      refine (noted_count v (hplaces n hn).1 (hplaces n hn).2).trans (noted_restart _ hn ?_)
      exact (State.rd_count_place v (hstate n hn).1 (hstate n hn).2).trans (of_decide_eq_true hraw)
    · exact .refl v
  revert h3
  generalize (if decide (v.rd (Reg.SRC_STAT_STATE n) = 3) = true then (v.count (Reg.SRC_RESTARTS n) (Reg.SRC_STAT_RFO n)).wr (Reg.SRC_STAT_STATE n) 1 else v) = w
  exact fun h3 => h3.trans (.of_regs rfl rfl rfl rfl rfl rfl rfl)

theorem noted_holdCaptures (s : State) : Noted s (holdCaptures s) := by
  have hflag : ∀ (p : Prop) [Decidable p] (g : Fld) (u : State), g.place ∉ steadyPlaces → Noted u (if p then u.flag g true else u) := fun p _ g u hg =>
    .ite (.flag _ _ hg) (.refl u)
  unfold holdCaptures
  dsimp only
  generalize hu : (if s.viol ≠ [] then s.flag Reg.ISO_CAPT_VIOL_HELD true else s) = u
  have h1 : Noted s u := hu ▸ hflag _ _ s (by decide)
  generalize hv : (if u.rd Reg.CMON_CAUSE ≠ 0 then u.flag Reg.ISO_CAPT_CMON_HELD true else u) = v
  have h2 : Noted u v := hv ▸ hflag _ _ u (by decide)
  refine (h1.trans h2).trans (.trans (hflag ((List.range 32).filter (fun r => decide (s.word (Reg.FLT_LAST_LANE r).addr ≠ 0)) ≠ []) Reg.ISO_CAPT_FLT_HELD v (by decide)) ?_)
  exact .of_regs rfl rfl rfl rfl rfl rfl rfl

/-- A change of mode is a write of the mode, then records and events. -/
theorem noted_setModeWith (s : State) (m row extra : Nat) : Noted (s.wr Reg.MODE_STAT_MODE m) (setModeWith s m row extra) := by
  unfold setModeWith
  dsimp only
  refine Noted.trans ?_ (noted_allEvent _ _)
  refine .ite_step ?_ ((Noted.flag _ _ (by decide)).trans (noted_rawShut _))
  refine .ite_step ?_ (.of_regs rfl rfl rfl rfl rfl rfl rfl)
  refine .ite_step ?_ (.flag _ _ (by decide))
  refine Noted.trans ?_ (.flag _ _ (by decide))
  refine .ite_step ?_ (noted_holdCaptures _)
  exact (noted_jraw ..).trans ((Noted.flag _ _ (by decide)).trans (.flag _ _ (by decide)))

theorem mode_setModeWith (s : State) {m : Nat} (row extra : Nat) (hm : m < 16) : (setModeWith s m row extra).mode = m :=
  ((noted_setModeWith s m row extra).rd _ (by decide)).trans ((State.rd_wr ..).trans (Nat.mod_eq_of_lt hm))

theorem srcKept_setModeWith (s : State) (m row extra : Nat) : SrcKept s (setModeWith s m row extra) :=
  (SrcKept.wr s m (by decide)).trans (noted_setModeWith s m row extra).src

theorem cause_setModeWith (s : State) (m row extra : Nat) : (setModeWith s m row extra).rd Reg.MODE_STAT_FAULT_CAUSE = s.rd Reg.MODE_STAT_FAULT_CAUSE :=
  ((noted_setModeWith s m row extra).rd _ (by decide)).trans (State.rd_wr_place s m (by decide))

theorem level_setModeWith (s : State) (m row extra : Nat) : (setModeWith s m row extra).rd Reg.JNL_STAT_LEVEL = s.rd Reg.JNL_STAT_LEVEL :=
  ((noted_setModeWith s m row extra).rd _ (by decide)).trans (State.rd_wr_place s m (by decide))

/-! ### Entry into Fault -/

/-- A warm reset of some argument pends, with a source's bit: the controllers halt. -/
structure WarmPends (arg b : Nat) (s : State) : Prop where
  req : s.rst.warmReq = some arg
  union : bit s.rst.union b = true
  halting : s.halting = true

theorem bit_setBit (v b : Nat) : bit (setBit v b) b = true := by
  unfold setBit
  split
  · next h => exact h
  · next h =>
    have h2 : ¬ v / 2 ^ b % 2 = 1 := fun e => h (decide_eq_true e)
    refine decide_eq_true ?_
    rw [Nat.add_div_right _ (Nat.two_pow_pos b)]
    omega

theorem bit_eq_testBit (v i : Nat) : bit v i = v.testBit i := (Nat.testBit_eq_decide_div_mod_eq ..).symm

/-- A bit that is set leaves the others that are set. -/
theorem bit_setBit_of {v i : Nat} (b : Nat) (h : bit v i = true) : bit (setBit v b) i = true := by
  unfold setBit
  split
  · exact h
  · next hb =>
    have hclear : ¬ v / 2 ^ b % 2 = 1 := fun e => hb (decide_eq_true e)
    rw [bit_eq_testBit] at h ⊢
    rcases Nat.lt_trichotomy i b with hlt | rfl | hgt
    · rw [Nat.add_comm, Nat.testBit_two_pow_add_gt hlt]
      exact h
    · exact absurd ((bit_eq_testBit ..).trans h) hb
    · have hhalf : (v + 2 ^ b) / 2 ^ (b + 1) = v / 2 ^ (b + 1) := by
        rw [pow_succ, ← Nat.div_div_eq_div_mul, ← Nat.div_div_eq_div_mul, Nat.add_div_right _ (Nat.two_pow_pos b)]
        omega
      obtain ⟨k, rfl⟩ := Nat.exists_eq_add_of_lt hgt
      have hi : b + k + 1 = k + (b + 1) := by omega
      rw [hi] at h ⊢
      rw [← Nat.testBit_div_two_pow, hhalf, Nat.testBit_div_two_pow]
      exact h

/-- `t` is `s` with records, events and a request for a warm reset: what is named here stays. -/
structure Steady (s t : State) : Prop where
  rd : ∀ f ∈ steadyFields, t.rd f = s.rd f
  src : SrcKept s t
  cache : t.cache = s.cache
  drbg : t.drbg = s.drbg
  jmem : t.jnl.mem = s.jnl.mem
  pends : ∀ arg b, WarmPends arg b s → WarmPends arg b t

theorem Noted.steady {s t : State} (h : Noted s t) : Steady s t where
  rd := h.rd
  src := h.src
  cache := h.cache
  drbg := h.drbg
  jmem := h.jmem
  pends _ _ hp := ⟨h.rst.symm ▸ hp.req, h.rst.symm ▸ hp.union, h.halting.trans hp.halting⟩

theorem Steady.trans {s t u : State} (h : Steady s t) (h' : Steady t u) : Steady s u where
  rd f hf := (h'.rd f hf).trans (h.rd f hf)
  src := h.src.trans h'.src
  cache := h'.cache.trans h.cache
  drbg := h'.drbg.trans h.drbg
  jmem := h'.jmem.trans h.jmem
  pends arg b hp := h'.pends arg b (h.pends arg b hp)

theorem inReset_of_req {s : State} {arg : Nat} (h : s.rst.warmReq = some arg) : inReset s = true := by
  simp only [inReset, h, Option.isSome_some, Bool.or_true, Bool.true_or]

theorem steady_askWarm (s : State) (arg b : Nat) : Steady s (askWarm s arg b) := by
  have hregs : (askWarm s arg b).regs = s.regs := by unfold askWarm; dsimp only; split <;> rfl
  refine ⟨fun f _ => congrArg (fun r => tget f.rst r f.key) hregs, SrcKept.of_regs hregs,
    ?_, ?_, ?_, fun a i hp => ?_⟩
  · unfold askWarm; dsimp only; split <;> rfl
  · unfold askWarm; dsimp only; split <;> rfl
  · unfold askWarm; dsimp only; split <;> rfl
  · have hnote : WarmPends a i (noteSource s b false) := by
      refine ⟨hp.req, ?_, hp.halting⟩
      dsimp only [noteSource]
      rw [inReset_of_req hp.req, if_pos rfl]
      exact bit_setBit_of b hp.union
    unfold askWarm
    dsimp only
    split
    · exact hnote
    · refine ⟨?_, hnote.union, rfl⟩
      dsimp only
      rw [hnote.req]
      rfl

theorem noted_lapseAllFault (s : State) : Noted s (lapseAllFault s) := by
  refine .foldl (fun s b => ?_) _ _
  dsimp only
  split
  · next hopen =>
    have hset : Noted s (s.setBallot b { s.ballot b with st := 4 }) :=
      ⟨fun _ _ => rfl, .of_regs rfl, rfl, rfl, rfl, rfl, rfl, fun hnone => absurd hopen (by rw [State.ballot, hnone]; exact fun h => h.elim nofun nofun)⟩
    exact hset.trans ((noted_jraw ..).trans (noted_pfEvent ..))
  · exact .refl s

theorem noted_clearDebug (s : State) : Noted s (clearDebug s) := by
  have h : Noted s (((s.flag Reg.DBG_STAT_ACTIVE false).wr Reg.DBG_STAT_LEVEL 0).wr Reg.DBG_STAT_TARGETS 0) :=
    ((Noted.flag _ _ (by decide)).trans (.wr _ _ (by decide))).trans (.wr _ _ (by decide))
  refine Noted.trans ?_ (.wr (g := Reg.DBG_LEFT) _ _ (by decide))
  exact h.trans (.of_regs rfl rfl rfl rfl rfl rfl rfl)

theorem steady_faultDebug (s : State) : Steady s (faultDebug s) := by
  unfold faultDebug
  split
  · have h : ∀ lvl cert, Noted s (clearDebug (jraw s 0x0602 0xE7 lvl cert false Config.noMasterWorld false)) := fun lvl cert =>
      (noted_jraw ..).trans (noted_clearDebug _)
    dsimp only
    split
    · exact (h _ _).steady.trans ((steady_askWarm ..).trans (noted_jraw ..).steady)
    · exact (h _ _).steady
  · exact (Noted.refl s).steady

theorem noted_disableQueues (s : State) : Noted s (disableQueues s) := by
  have hlow : ∀ f : Fld, f.place < 0x20000000000 * 32 → (disableQueues s).rd f = s.rd f := by
    intro f hf
    have hc : f.cls.num < 8 := by cases f.cls <;> decide
    have hkey : f.key < 0x40000000000 * 256 := by
      unfold Fld.place at hf
      unfold Fld.key
      omega
    refine (tget_filter f.rst s.regs (fun k => !decide (0x40000000000 * 256 ≤ k ∧ k < 0x40001010000 * 256 ∧ k / 8 % 32 = 0 ∧ k / 256 % 32 ∈ [0, 4])) _).trans (if_pos ?_)
    rw [decide_eq_false (fun e => absurd e.1 (Nat.not_le.mpr hkey))]
    rfl
  have hsteady : ∀ f ∈ steadyFields, f.place < 0x20000000000 * 32 := by decide
  have hsrc : ∀ n < 8, (Reg.SRC_STAT_STATE n).place < 0x20000000000 * 32 := by decide
  exact ⟨fun f hf => hlow f (hsteady f hf), fun n hn => .inl (hlow _ (hsrc n hn)), rfl, rfl, rfl, rfl, rfl, id⟩

/-- Entry into Fault, where the mode allows it: a write of the mode, one of the cause, records and events; the cache, the DRBG and the controllers stop. -/
theorem enterFault_steps {s : State} (cause : Nat) (h1 : s.mode ≠ mFault) (h2 : s.mode ≠ mFuseLoad) (h3 : s.mode ≠ mBatteryHold) :
    ∃ u v, Noted (s.wr Reg.MODE_STAT_MODE mFault) u ∧ Steady (u.wr Reg.MODE_STAT_FAULT_CAUSE cause) v ∧
      enterFault s cause = { v with halting := true, cache := [], drbg := none } := by
  refine ⟨_, _, noted_setModeWith s mFault (if s.mode = mSecureBoot ∧ cause ∈ [3, 4, 5, 6] then 7 else 19) 0,
    (noted_lapseAllFault _).steady.trans ((steady_faultDebug _).trans (noted_disableQueues _).steady), if_neg ?_⟩
  rintro (h | h | h)
  · exact h1 h
  · exact h2 h
  · exact h3 h

/-- What entry into Fault shows. -/
theorem enterFault_shows {s t : State} {cause : Nat} (h1 : s.mode ≠ mFault) (h2 : s.mode ≠ mFuseLoad) (h3 : s.mode ≠ mBatteryHold) (hc : cause < 32)
    (ht : enterFault s cause = t) : t.mode = mFault ∧ t.rd Reg.MODE_STAT_FAULT_CAUSE = cause ∧ t.cache = [] ∧ t.drbg = none := by
  obtain ⟨u, v, hu, hv, heq⟩ := enterFault_steps cause h1 h2 h3
  rw [heq] at ht
  subst ht
  refine ⟨?_, ?_, rfl, rfl⟩
  · exact (hv.rd Reg.MODE_STAT_MODE (by decide)).trans ((State.rd_wr_place u cause (by decide)).trans ((hu.rd _ (by decide)).trans (State.rd_wr ..)))
  · exact (hv.rd Reg.MODE_STAT_FAULT_CAUSE (by decide)).trans ((State.rd_wr ..).trans (Nat.mod_eq_of_lt hc))

/-- What entry into Fault leaves, whatever the mode. -/
theorem enterFault_leaves (s : State) (cause : Nat) : (enterFault s cause).rd Reg.JNL_STAT_LEVEL = s.rd Reg.JNL_STAT_LEVEL ∧
    SrcKept s (enterFault s cause) ∧ (enterFault s cause).jnl.mem = s.jnl.mem ∧ ∀ arg b, WarmPends arg b s → WarmPends arg b (enterFault s cause) := by
  by_cases h : s.mode = mFault ∨ s.mode = mFuseLoad ∨ s.mode = mBatteryHold
  · rw [enterFault, if_pos h]
    exact ⟨rfl, .refl s, rfl, fun _ _ h => h⟩
  · obtain ⟨u, v, hu, hv, heq⟩ := enterFault_steps cause (fun e => h (.inl e)) (fun e => h (.inr (.inl e))) (fun e => h (.inr (.inr e)))
    rw [heq]
    refine ⟨?_, ?_, ?_, fun arg b hp => ?_⟩
    · exact (hv.rd Reg.JNL_STAT_LEVEL (by decide)).trans ((State.rd_wr_place u cause (by decide)).trans ((hu.rd _ (by decide)).trans (State.rd_wr_place s _ (by decide))))
    · have hkept := (((SrcKept.wr s mFault (by decide)).trans hu.src).trans (SrcKept.wr u cause (by decide))).trans hv.src
      exact hkept.trans (.of_regs rfl)
    · exact hv.jmem.trans hu.jmem
    · have hp2 : WarmPends arg b (s.wr Reg.MODE_STAT_MODE mFault) := ⟨hp.req, hp.union, hp.halting⟩
      have hpu := hu.steady.pends arg b hp2
      have hpw : WarmPends arg b (u.wr Reg.MODE_STAT_FAULT_CAUSE cause) := ⟨hpu.req, hpu.union, hpu.halting⟩
      have hpv := hv.pends arg b hpw
      exact ⟨hpv.req, hpv.union, rfl⟩

/-! ### Records that may fill the journal -/

/-- The level brought up to date: records and events, then entry into Fault where the journal is full. -/
theorem jlevelUpdate_cases (s : State) : jlevelUpdate s = s ∨ ∃ u, Noted (s.wr Reg.JNL_STAT_LEVEL s.jlevel) u ∧
    (jlevelUpdate s = u ∨ (s.jlevel = 2 ∧ jlevelUpdate s = enterFault u 8)) := by
  have h : Noted (s.wr Reg.JNL_STAT_LEVEL s.jlevel) (pfEvent ((jraw (s.wr Reg.JNL_STAT_LEVEL s.jlevel) 0x0008 0xE0 s.jlevel
      (leOctets 4 (s.wr Reg.JNL_STAT_LEVEL s.jlevel).jfree) false Config.noMasterWorld false).flag Reg.JNL_STAT_LEVEL_CHG true) 6) :=
    (noted_jraw ..).trans ((Noted.flag _ _ (by decide)).trans (noted_pfEvent ..))
  unfold jlevelUpdate
  revert h
  dsimp only
  generalize pfEvent _ 6 = u
  intro h
  split
  · exact .inl rfl
  · refine .inr ⟨u, h, ?_⟩
    split
    · next h2 => exact .inr ⟨h2, rfl⟩
    · exact .inl rfl

/-- What bringing the level up to date leaves. -/
theorem jlevelUpdate_leaves (s : State) : SrcKept s (jlevelUpdate s) ∧
    (jlevelUpdate s).jnl.mem = s.jnl.mem ∧ (∀ arg b, WarmPends arg b s → WarmPends arg b (jlevelUpdate s)) ∧
    ((jlevelUpdate s).mode = s.mode ∨ (jlevelUpdate s).rd Reg.JNL_STAT_LEVEL = 2) := by
  rcases jlevelUpdate_cases s with heq | ⟨u, hu, hcase⟩
  · rw [heq]
    exact ⟨.refl s, rfl, fun _ _ h => h, .inl rfl⟩
  · have hsrc : SrcKept s u := (SrcKept.wr s _ (by decide)).trans hu.src
    have hpend : ∀ arg b, WarmPends arg b s → WarmPends arg b u := fun arg b hp => hu.steady.pends arg b ⟨hp.req, hp.union, hp.halting⟩
    rcases hcase with heq | ⟨hfull, heq⟩ <;> rw [heq]
    · exact ⟨hsrc, hu.jmem, hpend, .inl ((hu.rd Reg.MODE_STAT_MODE (by decide)).trans (State.rd_wr_place s _ (by decide)))⟩
    · obtain ⟨hlevel, hs, hj, hp⟩ := enterFault_leaves u 8
      have hshown : (s.wr Reg.JNL_STAT_LEVEL s.jlevel).rd Reg.JNL_STAT_LEVEL = 2 := by
        rw [State.rd_wr, hfull]
        rfl
      exact ⟨hsrc.trans hs, hj.trans hu.jmem, fun arg b h => hp arg b (hpend arg b h),
        .inr (hlevel.trans ((hu.rd _ (by decide)).trans hshown))⟩

/-- A record leaves the warm reset that pends. -/
theorem pends_jrecG {s : State} {a b : Nat} (h : WarmPends a b s) (typ src arg : Nat) (payload : List Octet) (cont world flush : Bool) :
    WarmPends a b (jrecG s typ src arg payload cont world flush) := by
  have hraw : ∀ flush, WarmPends a b (jraw s typ src arg payload cont world flush) := fun flush => (noted_jraw ..).steady.pends a b h
  unfold jrecG
  split
  · exact (enterFault_leaves _ 8).2.2.2 a b (hraw true)
  · exact (jlevelUpdate_leaves _).2.2.1 a b (hraw flush)

theorem srcKept_jlevelUpdate (s : State) : SrcKept s (jlevelUpdate s) := (jlevelUpdate_leaves s).1

theorem srcKept_jrecG (s : State) (typ src arg : Nat) (payload : List Octet) (cont world flush : Bool) :
    SrcKept s (jrecG s typ src arg payload cont world flush) := by
  have hraw : ∀ flush, SrcKept s (jraw s typ src arg payload cont world flush) := fun flush => (noted_jraw ..).src
  unfold jrecG
  split
  · exact (hraw true).trans (enterFault_leaves _ 8).2.1
  · exact (hraw flush).trans (srcKept_jlevelUpdate _)

end Sys2Proof.Machine
end


section
/-! SUPPORT. Reset sources and their reach, Fuse Load, block resets (R10, R427 to R433, R436, R444). -/
namespace Sys2Proof.Machine
open Sys2Proof

/-! ### The register store through a reset -/

theorem key_mod (f : Fld) : f.key % 8 = f.cls.num := by
  have hc : f.cls.num < 8 := by cases f.cls <;> decide
  unfold Fld.key
  omega

/-- The fields that a reset name reaches read as their reset values. -/
theorem tget_resetRegs_reached {f : Fld} {r : RCls} (h : resetReaches r f.cls = true) (t : Tab Nat) : tget f.rst (resetRegs r t) f.key = f.rst := by
  refine (tget_filter f.rst t (fun k => !(decide (k % 8 ≠ 0) && (if r = .vbat then decide (k % 8 = 1) else decide (r.num ≤ k % 8)))) _).trans (if_neg ?_)
  rw [key_mod]
  revert h
  cases r <;> cases f.cls <;> decide

/-- The others stand. -/
theorem tget_resetRegs_left {f : Fld} {r : RCls} (h : resetReaches r f.cls = false) (t : Tab Nat) : tget f.rst (resetRegs r t) f.key = tget f.rst t f.key := by
  refine (tget_filter f.rst t (fun k => !(decide (k % 8 ≠ 0) && (if r = .vbat then decide (k % 8 = 1) else decide (r.num ≤ k % 8)))) _).trans (if_pos ?_)
  rw [key_mod]
  revert h
  cases r <;> cases f.cls <;> decide

/-! ### Warm resets -/

section Warm
variable {s t : State}

theorem inReset_congr (hr : t.rst = s.rst) (hm : t.mode = s.mode) : inReset t = inReset s := by
  unfold inReset
  rw [hr, hm]

/-- A reset that pends makes `inReset`; without it none pends and none is on. -/
theorem inReset_false_iff : inReset s = false ↔ s.rst.now = 0 ∧ s.rst.por = false ∧ s.rst.loadStop = false ∧ s.rst.warmReq = none ∧ s.rst.warmOn = false ∧ s.mode ≠ mFuseLoad := by
  simp only [inReset, Bool.or_eq_false_iff, decide_eq_false_iff_not, not_not, and_assoc, Option.isSome_eq_false_iff, Option.isNone_iff_eq_none, ne_eq]

/-- A warm reset asked for outside a reset pends. -/
theorem askWarm_pends (arg b : Nat) (h : inReset s = false) : WarmPends arg b (askWarm s arg b) := by
  obtain ⟨-, -, -, hreq, hon, -⟩ := inReset_false_iff.mp h
  have hon' : ¬ (noteSource s b false).rst.warmOn = true := ne_true_of_eq_false hon
  have hreq' : (noteSource s b false).rst.warmReq = none := hreq
  unfold askWarm
  dsimp only
  rw [if_neg hon', hreq']
  exact ⟨rfl, bit_setBit .., rfl⟩

theorem recorded_requestWarm (s : State) (arg b src : Nat) : Recorded s (requestWarm s arg b src) := (recorded_askWarm ..).trans (recorded_jrecG ..)

theorem quiet_lead : Reg.LEAD_STAT_LEAD.Quiet := ⟨by decide, by decide, .inl (by decide), .inr (by decide), by decide⟩

/-- A warm reset begins where no lead ends with it. -/
theorem startWarm_pends (arg b src : Nat) (h : inReset s = false) (hm : s.mode ≠ mSleep) (hl : s.lead = 0) : WarmPends arg b (startWarm s arg b src) := by
  obtain ⟨u, hu⟩ : ∃ u, (if arg = 2 then s else s.flag Reg.RST_BOOT_TARGET false) = u := ⟨_, rfl⟩
  have hrst : u.rst = s.rst := by rw [← hu]; split <;> rfl
  have hrd : ∀ f : Fld, f.place ≠ Reg.RST_BOOT_TARGET.place → u.rd f = s.rd f := fun f hf => by
    rw [← hu]
    split
    · rfl
    · exact State.rd_flag_place s _ hf
  have hin : inReset u = false := (inReset_congr hrst (hrd _ (by decide))).trans h
  have hlead : (requestWarm u arg b src).lead = 0 := ((recorded_requestWarm u arg b src).rd _ quiet_lead).trans ((hrd _ (by decide)).trans hl)
  have hwake : wake s 6 = s := if_pos hm
  unfold startWarm
  rw [hwake]
  dsimp only
  rw [hu, if_pos hlead]
  exact pends_jrecG (askWarm_pends arg b hin) ..

theorem dram_warmReach (s : State) : (warmReach s).mem = { s.mem with sram := [] } := by
  have hmem : (flushDone (startFlush (warmEnds s))).mem = s.mem := by
    rw [(flushDone_keep _).2.2, (startFlush_keep _).2.2, (warmEnds_keep s).2.2]
  unfold warmReach setMode
  dsimp only
  rw [(setModeWith_keep ..).2.2, hmem]

/-- The state that a warm reset leaves. -/
theorem warmReach_leaves (ht : warmReach s = t) : t.mode = mSecureBoot ∧ t.rst.warmReq = none ∧ t.rst.warmOn = true ∧
    t.sc0 = Ctl.reset true ∧ t.sc1 = Ctl.reset true ∧ t.mc = Ctl.reset false ∧ t.cmds = [] ∧ t.drbg = none ∧ t.cache = [] ∧ t.ballots = [] ∧
    t.mem.sram = [] ∧ t.mem.dram = s.mem.dram ∧ t.otp = s.otp ∧ t.pending = s.pending := by
  obtain ⟨u, row, hu, hreq, hon, h0, h1, h2, hcmds, hdrbg, hcache, hballots⟩ : ∃ u row, warmReach s = setModeWith u mSecureBoot row 0 ∧ u.rst.warmReq = none ∧ u.rst.warmOn = true ∧
      u.sc0 = Ctl.reset true ∧ u.sc1 = Ctl.reset true ∧ u.mc = Ctl.reset false ∧ u.cmds = [] ∧ u.drbg = none ∧ u.cache = [] ∧ u.ballots = [] :=
    ⟨_, _, rfl, rfl, rfl, rfl, rfl, rfl, rfl, rfl, rfl, rfl⟩
  have hmem := dram_warmReach s
  obtain ⟨hpend, hotp⟩ := warmReach_keep s
  rw [ht] at hmem hpend hotp
  rw [hu] at ht
  have hrec := recorded_setModeWith u mSecureBoot row 0
  have hnote := noted_setModeWith u mSecureBoot row 0
  have hmode := mode_setModeWith u row 0 (show mSecureBoot < 16 by decide)
  rw [ht] at hrec hnote hmode
  refine ⟨hmode, ?_, ?_, hrec.sc0.trans h0, hrec.sc1.trans h1, hrec.mc.trans h2, ?_, hnote.drbg.trans hdrbg, hnote.cache.trans hcache, hnote.ballots hballots, ?_, ?_, hotp, hpend⟩
  · rw [hnote.rst]
    exact hreq
  · rw [hnote.rst]
    exact hon
  · exact List.eq_nil_iff_forall_not_mem.mpr fun k hk => by
      have hin := hrec.left k hk
      rw [hcmds] at hin
      exact List.not_mem_nil hin
  · rw [hmem]
  · rw [hmem]

/-- The exit of a warm reset, with no backing store of the page table. -/
theorem warmRelease_exits (hon : s.rst.warmOn = true) (hnow : s.rst.now = 0) (hpor : s.rst.por = false) (hb : s.on Reg.POT_BACK_BASE16.mark = false)
    (ht : warmRelease s = t) : t.rst.warmOn = false ∧ t.sc0 = { Ctl.reset true with running := true } ∧ ∀ p < 524288, t.rd (Reg.POT_ENTRY p) = 0 := by
  have hno : ¬ (¬ s.rst.warmOn = true ∨ s.rst.now ≠ 0 ∨ s.rst.por = true) := by
    rw [hon, hnow, hpor]
    decide
  have heq : warmRelease s = { s with
      rst := { s.rst with warmOn := false }
      sc0 := { Ctl.reset true with running := true }
      regs := s.regs.filter (fun e => !decide (0x30800000 ≤ e.1 / 256 ∧ e.1 / 256 < 0x30880000)) } := by
    unfold warmRelease potReload
    rw [if_neg hno]
    exact if_pos (ne_true_of_eq_false hb)
  rw [heq] at ht
  subst ht
  refine ⟨rfl, rfl, fun p hp => ?_⟩
  refine (tget_filter _ s.regs (fun k => !decide (0x30800000 ≤ k / 256 ∧ k / 256 < 0x30880000)) _).trans (if_neg ?_)
  have hkey : (Reg.POT_ENTRY p).key / 256 = 0x30800000 + p := by
    simp only [Fld.key, Reg.POT_ENTRY, RCls.num]
    omega
  rw [hkey, decide_eq_true (by omega)]
  decide

end Warm

/-! ### Resets of reach POR -/

section Por
variable {s t : State}

theorem mode_noteSource (s : State) (b : Nat) (held : Bool) : (noteSource s b held).mode = s.mode := rfl

/-- What breaking the tokens of a reset of reach POR leaves: registers alone change. -/
theorem frame_foldl_flag (g : Nat → Fld) (l : List Nat) (s : State) :
    l.foldl (fun t n => t.flag (g n) true) s = { s with regs := (l.foldl (fun t n => t.flag (g n) true) s).regs } := by
  induction l generalizing s with
  | nil => rfl
  | cons n l ih => exact (ih _).trans rfl

/-- A reset of reach POR. -/
theorem porReset_leaves (supply : Bool) (ht : porReset s supply = t) : t.mode = (if supply then mBatteryHold else mFuseLoad) ∧ t.rst.por = true ∧
    t.rst.now = (closeWindow s 4 0x3F).rst.now ∧ t.mem = Mem.reset ∧ t.cmds = [] ∧ t.sc0 = Ctl.reset true ∧ t.jnl.mem = (closeWindow s 4 0x3F).jnl.mem ∧ t.jnl.buf = [] ∧
    t.tamp = (closeWindow s 4 0x3F).tamp := by
  subst ht
  unfold porReset
  dsimp only
  rw [frame_foldl_flag]
  refine ⟨?_, ?_⟩
  · refine (State.rd_wr ..).trans ?_
    cases supply <;> rfl
  · cases supply <;> exact ⟨rfl, rfl, rfl, rfl, rfl, rfl, rfl, rfl⟩

/-- A window's close for another cause than its end leaves the reset and the journal. -/
theorem frame_closeWindow (s : State) : (closeWindow s 4 0x3F).rst = s.rst ∧ (closeWindow s 4 0x3F).jnl = s.jnl := by
  unfold closeWindow
  split
  · exact ⟨rfl, rfl⟩
  · dsimp only
    rw [if_neg (by simp only [ne_eq, not_true_eq_false, false_and, not_false_eq_true]), (ledgered_put ..).frame]
    exact ⟨rfl, rfl⟩

/-- A main supply falls. -/
theorem supplyFalls_leaves (ht : supplyFalls s = t) : t.mode = mBatteryHold ∧ t.rst.por = true ∧ t.otp = s.otp ∧ t.mem = Mem.reset ∧ t.cmds = [] ∧ t.sc0 = Ctl.reset true ∧
    t.pending = s.pending ∧ t.jnl.mem = s.jnl.mem ∧ (s.on Reg.TAMP_STAT_WINDOW = false → t.tamp = s.tamp) := by
  obtain ⟨hmode, hpor, -, hmem, hcmds, hsc0, hjnl, -, htamp⟩ := porReset_leaves true ht
  obtain ⟨hpend, hotp⟩ := porReset_keep (noteSource s 2 true) true
  rw [supplyFalls] at ht
  rw [ht] at hpend hotp
  refine ⟨hmode, hpor, hotp, hmem, hcmds, hsc0, hpend, hjnl.trans (congrArg JournalSt.mem (frame_closeWindow _).2), fun hw => ?_⟩
  have hshut : closeWindow (noteSource s 2 true) 4 0x3F = noteSource s 2 true := closeWindow_shut (s := noteSource s 2 true) hw 4 0x3F
  rw [htamp, hshut]
  rfl

/-- RESET_N outside Fuse Load. -/
theorem resetPin_leaves (hpor : s.rst.por = false) (hm : s.mode ≠ mFuseLoad) (hw : s.on Reg.TAMP_STAT_WINDOW = false) (ht : resetPin s = t) :
    t.mode = mFuseLoad ∧ t.rst.por = true ∧ bit t.rst.now 3 = true ∧ t.otp = s.otp ∧ t.tamp = s.tamp ∧ t.jnl.mem = s.jnl.mem ∧ t.jnl.buf = [] := by
  have hload : ¬ (s.mode = mFuseLoad ∧ ¬ s.rst.por = true) := fun h => hm h.1
  have hshut : closeWindow (noteSource s 3 true) 4 0x3F = noteSource s 3 true := closeWindow_shut (s := noteSource s 3 true) hw 4 0x3F
  have hno : ¬ (noteSource s 3 true).rst.por = true := ne_true_of_eq_false hpor
  have heq : resetPin s = porReset (noteSource s 3 true) false := by
    unfold resetPin
    dsimp only
    rw [if_neg hload, if_neg hno]
  rw [heq] at ht
  obtain ⟨hmode, hpor', hnow, -, -, -, hjnl, hbuf, htamp⟩ := porReset_leaves false ht
  obtain ⟨-, hotp⟩ := porReset_keep (noteSource s 3 true) false
  rw [ht] at hotp
  rw [hshut] at hnow hjnl htamp
  refine ⟨hmode, hpor', ?_, hotp, htamp, hjnl, hbuf⟩
  rw [hnow]
  exact bit_setBit ..

theorem resetPin_again (hpor : s.rst.por = true) : resetPin s = noteSource s 3 true := by
  have hload : ¬ (s.mode = mFuseLoad ∧ ¬ s.rst.por = true) := fun h => h.2 hpor
  unfold resetPin
  dsimp only
  rw [if_neg hload]
  exact if_pos hpor

theorem warmPin_held (h : s.mode = mBatteryHold ∨ s.rst.por = true) : warmPin s = noteSource s 7 true := by
  have hstop : stopLoad (noteSource s 7 true) = noteSource s 7 true := by
    refine if_pos ?_
    rcases h with h | h
    · refine .inl ?_
      rw [mode_noteSource, h]
      decide
    · exact .inr (.inl h)
  refine (if_pos ?_).trans hstop
  rcases h with h | h
  · exact .inl h
  · exact .inr (.inl h)

/-- The last release after a reset of reach POR. -/
theorem startLoad_begins (hpor : s.rst.por = true) (hl : s.tamp.lost = false) (ht : startLoad s = t) : t.mode = mFuseLoad ∧ t.rst.por = false ∧
    t.tamp.session = min (s.tamp.session + 1) (2 ^ 32 - 1) ∧ t.tamp.main = true ∧ t.tamp.anchored = false := by
  have hno : ¬ ¬ s.rst.por = true := not_not_intro hpor
  have heq : startLoad s = { s.wr Reg.MODE_STAT_MODE mFuseLoad with
      rst := { s.rst with loadStop := false, fuseAgain := false, por := false }
      tamp := { s.tamp with session := stick 32 (s.tamp.session + 1), main := true, anchored := false, meshDue := true, lost := false, zeroEntry := false } } := by
    refine (if_neg hno).trans (if_neg ?_)
    exact ne_true_of_eq_false hl
  rw [heq] at ht
  subst ht
  have hmode : (s.wr Reg.MODE_STAT_MODE mFuseLoad).mode = mFuseLoad := State.rd_wr ..
  exact ⟨hmode, rfl, rfl, rfl, rfl⟩

/-- The last source is released after a reset of reach POR. -/
theorem releaseSource_last {b : Nat} (hnow : clearBit s.rst.now b = 0) (hpor : s.rst.por = true) (hl : s.tamp.lost = false) (ht : releaseSource s b = t) :
    t.mode = mFuseLoad ∧ t.rst.por = false ∧ t.tamp.session = min (s.tamp.session + 1) (2 ^ 32 - 1) ∧ t.tamp.main = true ∧ t.tamp.anchored = false := by
  obtain ⟨u, hu⟩ : ∃ u, { s with rst := { s.rst with now := clearBit s.rst.now b } } = u := ⟨_, rfl⟩
  have hpor' : u.rst.por = true := by rw [← hu]; exact hpor
  have htamp : u.tamp = s.tamp := by rw [← hu]
  have hl' : u.tamp.lost = false := by rw [htamp]; exact hl
  have heq : releaseSource s b = startLoad u := by
    rw [← hu]
    exact if_pos ⟨hnow, .inl hpor⟩
  rw [heq] at ht
  rw [← htamp]
  exact startLoad_begins hpor' hl' ht

end Por

/-! ### Fuse Load -/

section Load
variable {s t : State}

/-- A source that is Off begins its start-up. -/
def startSource (s : State) (n : Nat) : State := if s.rd (Reg.SRC_STAT_STATE n) = 0 then s.wr (Reg.SRC_STAT_STATE n) 1 else s

theorem src_startSource_ne (s : State) {m n : Nat} (h : n ≠ m) : (startSource s m).rd (Reg.SRC_STAT_STATE n) = s.rd (Reg.SRC_STAT_STATE n) := by
  unfold startSource
  split
  · exact State.rd_wr_place s 1 (by simp only [Fld.place, Reg.SRC_STAT_STATE]; omega)
  · rfl

theorem src_startSource_same (s : State) {n : Nat} (h : s.rd (Reg.SRC_STAT_STATE n) = 0 ∨ s.rd (Reg.SRC_STAT_STATE n) = 1) :
    (startSource s n).rd (Reg.SRC_STAT_STATE n) = 1 := by
  unfold startSource
  split
  · exact State.rd_wr ..
  · next h0 => exact h.resolve_left h0

theorem src_startSources_on {n : Nat} (l : List Nat) (h : s.rd (Reg.SRC_STAT_STATE n) = 1) : (l.foldl startSource s).rd (Reg.SRC_STAT_STATE n) = 1 := by
  induction l generalizing s with
  | nil => exact h
  | cons m l ih =>
    refine ih ?_
    by_cases hmn : n = m
    · exact hmn ▸ src_startSource_same s (.inr (hmn ▸ h))
    · exact (src_startSource_ne s hmn).trans h

theorem src_startSources {n : Nat} (l : List Nat) (hn : n ∈ l) (h : s.rd (Reg.SRC_STAT_STATE n) = 0) : (l.foldl startSource s).rd (Reg.SRC_STAT_STATE n) = 1 := by
  induction l generalizing s with
  | nil => exact absurd hn List.not_mem_nil
  | cons m l ih =>
    by_cases hmn : n = m
    · subst hmn
      exact src_startSources_on l (src_startSource_same s (.inl h))
    · exact ih ((List.mem_cons.mp hn).resolve_left hmn) ((src_startSource_ne s hmn).trans h)

theorem srcKept_journalResume (s : State) : SrcKept s (journalResume s) := by
  have hset : ∀ (u : State) (f : JournalSt → JournalSt), SrcKept u (u.setJnl f) := fun _ _ => .of_regs rfl
  have hstuck : ∀ (u : State) (b : Bool), SrcKept u (u.flag Reg.JNL_STAT_STUCK b) := fun _ _ => .wr _ _ (by decide)
  have hunavail : ∀ (u : State) (b : Bool), SrcKept u (u.flag Reg.JNL_STAT_UNAVAIL b) := fun _ _ => .wr _ _ (by decide)
  have hrec : ∀ (u : State) (typ arg : Nat) (pay : List Octet), SrcKept u (jrecG u typ 0xE0 arg pay false Config.noMasterWorld false) :=
    fun _ _ _ _ => srcKept_jrecG _ _ _ _ _ _ _ _
  unfold journalResume
  extract_lets rec0 s0 k high next sa a b sb s1 s2 s3
  have h0 : SrcKept s s0 := hset _ _
  have h1 : SrcKept s0 s1 := by
    unfold s1
    split
    · exact (hset _ _).trans (hrec _ _ _ _)
    · split
      · exact hset _ _
      · exact (hset _ _).trans (hrec _ _ _ _)
  have h2 : SrcKept s1 s2 := by
    unfold s2
    split
    · exact hrec _ _ _ _
    · exact .refl _
  have h3 : SrcKept s2 s3 := by
    unfold s3
    split
    · exact .refl _
    · split
      · exact (hset _ _).trans (hrec _ _ _ _)
      · exact hunavail _ _
  exact (((h0.trans h1).trans (h2.trans h3)).trans (hstuck _ _)).trans (srcKept_jlevelUpdate _)

/-- A shadow that fails twice. -/
theorem fuseFault_shows (s : State) {cause : Nat} (hc : cause < 32) : (fuseFault s cause).mode = mFault ∧ (fuseFault s cause).rd Reg.MODE_STAT_FAULT_CAUSE = cause ∧
    (fuseFault s cause).rst.otpBad = s.rst.otpBad := by
  refine ⟨(State.rd_wr_place _ _ (by decide)).trans (mode_setModeWith s 4 0 (by decide)), (State.rd_wr ..).trans (Nat.mod_eq_of_lt hc), ?_⟩
  exact congrArg RstSt.otpBad (noted_setModeWith s mFault 4 0).rst

/-- Fuse Load at its end: what has happened when the shadow is judged. -/
def loadJudged (s : State) : State :=
  setMode ((journalResume (s.setTamp (fun t => { t with masked := false }))).wr Reg.MODE_STAT_MODE
    (journalResume (s.setTamp (fun t => { t with masked := false }))).rst.fromMode) mFuseLoad 2

theorem srcKept_loadJudged (s : State) : SrcKept s (loadJudged s) :=
  (SrcKept.of_regs (t := s.setTamp (fun t => { t with masked := false })) rfl).trans
    ((srcKept_journalResume _).trans ((SrcKept.wr (g := Reg.MODE_STAT_MODE) _ _ (by decide)).trans (srcKept_setModeWith _ mFuseLoad 2 0)))

theorem loadEnds_again (hm : s.mode = mFuseLoad) (hp : s.rst.por = false) (hl : s.rst.loadStop = false) (ha : s.rst.fuseAgain = false) (split : Bool) (strap : Nat) :
    loadEnds s false split strap = { s with rst := { s.rst with fuseAgain := true } } := by
  unfold loadEnds
  rw [if_neg (by simp only [hm, hp, hl]; decide), if_pos (by rw [ha]; decide)]

theorem loadEnds_fails (hm : s.mode = mFuseLoad) (hp : s.rst.por = false) (hl : s.rst.loadStop = false) (ha : s.rst.fuseAgain = true) (split : Bool) (strap : Nat) :
    loadEnds s false split strap = fuseFault { loadJudged s with rst := { (loadJudged s).rst with otpBad := true } } 1 := by
  unfold loadEnds loadJudged
  rw [if_neg (by simp only [hm, hp, hl]; decide), if_neg (by rw [ha]; decide)]
  generalize journalResume _ = j
  dsimp only
  generalize setMode _ mFuseLoad 2 = w
  exact if_pos Bool.false_ne_true

/-- A shadow that fails again leads to Fault. -/
theorem loadEnds_faults (hm : s.mode = mFuseLoad) (hp : s.rst.por = false) (hl : s.rst.loadStop = false) (ha : s.rst.fuseAgain = true) (split : Bool) (strap : Nat)
    (ht : loadEnds s false split strap = t) : t.mode = mFault ∧ t.rd Reg.MODE_STAT_FAULT_CAUSE = 1 ∧ t.rst.otpBad = true := by
  obtain ⟨u, hu⟩ : ∃ u, { loadJudged s with rst := { (loadJudged s).rst with otpBad := true } } = u := ⟨_, rfl⟩
  have hbad : u.rst.otpBad = true := by rw [← hu]
  rw [loadEnds_fails hm hp hl ha, hu] at ht
  obtain ⟨hmode, hcause, hkeep⟩ := fuseFault_shows u (show 1 < 32 by decide)
  rw [ht] at hmode hcause hkeep
  exact ⟨hmode, hcause, hkeep.trans hbad⟩

/-- A shadow that is good: the straps decide. -/
theorem loadEnds_loads (hm : s.mode = mFuseLoad) (hp : s.rst.por = false) (hl : s.rst.loadStop = false) (split : Bool) (strap : Nat) {u : State}
    (hu : u = { (List.range 8).foldl startSource (loadJudged s) with
      rst := { ((List.range 8).foldl startSource (loadJudged s)).rst with split := split } }) :
    loadEnds s true split strap = if strap > 4 then fuseFault u 2
      else
        let v := (u.wr Reg.MEM_CFG_STRAP strap).wr2 Reg.MEM_USABLE_L Reg.MEM_USABLE_H (u.wr Reg.MEM_CFG_STRAP strap).usable
        setModeWith v mSecureBoot 3 (v.rd Reg.FUSE_STAT_INTERRUPTS) := by
  have hstart : startSource = fun s n => if s.rd (Reg.SRC_STAT_STATE n) = 0 then s.wr (Reg.SRC_STAT_STATE n) 1 else s := rfl
  subst hu
  unfold loadEnds loadJudged
  rw [if_neg (by simp only [hm, hp, hl]; decide), if_neg fun h => h.1 rfl, hstart]
  generalize journalResume _ = j
  dsimp only
  generalize setMode _ mFuseLoad 2 = w
  generalize List.foldl _ w _ = x
  exact if_neg (not_not_intro rfl)

/-- Straps that name no configuration. -/
theorem loadEnds_misstrapped (hm : s.mode = mFuseLoad) (hp : s.rst.por = false) (hl : s.rst.loadStop = false) (split : Bool) {strap : Nat} (h4 : strap > 4)
    (ht : loadEnds s true split strap = t) : t.mode = mFault ∧ t.rd Reg.MODE_STAT_FAULT_CAUSE = 2 := by
  rw [loadEnds_loads hm hp hl split strap rfl, if_pos h4] at ht
  subst ht
  obtain ⟨hmode, hcause, -⟩ := fuseFault_shows { (List.range 8).foldl startSource (loadJudged s) with
    rst := { ((List.range 8).foldl startSource (loadJudged s)).rst with split := split } } (show 2 < 32 by decide)
  exact ⟨hmode, hcause⟩

/-- Fuse Load ends in Secure Boot. -/
theorem loadEnds_boots (hm : s.mode = mFuseLoad) (hp : s.rst.por = false) (hl : s.rst.loadStop = false) (split : Bool) {strap : Nat} (h4 : strap ≤ 4)
    (ht : loadEnds s true split strap = t) : t.mode = mSecureBoot ∧ t.rst.split = split ∧ ∀ n < 8, s.rd (Reg.SRC_STAT_STATE n) = 0 → t.rd (Reg.SRC_STAT_STATE n) = 1 := by
  rw [loadEnds_loads hm hp hl split strap rfl, if_neg (by omega)] at ht
  dsimp only at ht
  subst ht
  refine ⟨mode_setModeWith _ 3 _ (by decide), congrArg RstSt.split (noted_setModeWith ..).rst, fun n hn h0 => ?_⟩
  have hj : (loadJudged s).rd (Reg.SRC_STAT_STATE n) = 0 := by
    have hkept := srcKept_loadJudged s n hn
    omega
  have hone := src_startSources (List.range 8) (List.mem_range.mpr hn) hj
  have hplaces : ∀ n < 8, (Reg.SRC_STAT_STATE n).place ≠ Reg.MEM_CFG_STRAP.place ∧ (Reg.SRC_STAT_STATE n).place ≠ Reg.MEM_USABLE_L.place ∧
      (Reg.SRC_STAT_STATE n).place ≠ Reg.MEM_USABLE_H.place := by decide
  obtain ⟨hstrap, hlo, hhi⟩ := hplaces n hn
  generalize List.foldl _ (loadJudged s) (List.range 8) = u at hone ⊢
  have hv : ∀ v x, (((({ u with rst := { u.rst with split := split } }).wr Reg.MEM_CFG_STRAP x).wr2 Reg.MEM_USABLE_L Reg.MEM_USABLE_H v).rd (Reg.SRC_STAT_STATE n)) = 1 := by
    intro v x
    rw [State.wr2, State.rd_wr_place _ _ hhi, State.rd_wr_place _ _ hlo, State.rd_wr_place _ _ hstrap]
    exact hone
  refine (srcKept_setModeWith _ _ _ _ n hn).elim (fun e => e.trans (hv _ _)) fun e => e.2

end Load

/-! ### Block resets -/

section Block
variable {s t : State} {ty i : Nat}

/-- What clearing a column changes: the floor alone. -/
theorem frame_clearColumn (s : State) (col : Nat) : clearColumn s col = { s with floor := (clearColumn s col).floor } := by
  have hlanes : ∀ (l : List Nat) (u : State), l.foldl (fun s j => s.setLane (8 * col + j) { Lane.zero with rnd := (s.lane (8 * col + j)).rnd }) u =
      { u with floor := (l.foldl (fun s j => s.setLane (8 * col + j) { Lane.zero with rnd := (s.lane (8 * col + j)).rnd }) u).floor } := by
    intro l
    induction l with
    | nil => exact fun _ => rfl
    | cons j l ih => exact fun u => (ih _).trans rfl
  unfold clearColumn
  split_ifs
  · exact (hlanes _ _).trans rfl
  all_goals rfl

/-- What clearing a block changes: the floor alone. -/
theorem frame_clearBlock (s : State) (ty i : Nat) : (clearBlock s ty i).regs = s.regs ∧ (clearBlock s ty i).blockRst = s.blockRst := by
  have hcols : ∀ (l : List Nat) (u : State), (l.foldl clearColumn u).regs = u.regs ∧ (l.foldl clearColumn u).blockRst = u.blockRst := fun l u =>
    ⟨foldl_keeps State.regs (fun s c => by rw [frame_clearColumn s c]) l u, foldl_keeps State.blockRst (fun s c => by rw [frame_clearColumn s c]) l u⟩
  have hlanes : ∀ (l : List Nat) (u : State), (l.foldl (fun s j => s.setLane (32 * i + j) Lane.zero) u).regs = u.regs ∧
      (l.foldl (fun s j => s.setLane (32 * i + j) Lane.zero) u).blockRst = u.blockRst := fun l u =>
    ⟨foldl_keeps State.regs (g := fun s j => s.setLane (32 * i + j) Lane.zero) (fun _ _ => rfl) l u,
      foldl_keeps State.blockRst (g := fun s j => s.setLane (32 * i + j) Lane.zero) (fun _ _ => rfl) l u⟩
  unfold clearBlock
  dsimp only
  have hc := hcols (blockColumns ty i) s
  generalize List.foldl clearColumn s _ = u at hc ⊢
  split_ifs
  · have hl := hlanes (List.range 32) u
    generalize List.foldl _ u (List.range 32) = v at hl ⊢
    exact ⟨hl.1.trans hc.1, hl.2.trans hc.2⟩
  · exact hc
  · exact hc

/-- The lanes of a reel that is cleared. -/
theorem lane_clearBlock {j : Nat} (h0 : ty = 0) (hi : i < 32) (hj : j < 32) : (clearBlock s ty i).lane (32 * i + j) = Lane.zero := by
  have hfold : ∀ (l : List Nat) (u : State), j ∈ l ∨ u.lane (32 * i + j) = Lane.zero →
      (l.foldl (fun s j => s.setLane (32 * i + j) Lane.zero) u).lane (32 * i + j) = Lane.zero := by
    intro l
    induction l with
    | nil => exact fun u h => h.resolve_left List.not_mem_nil
    | cons k l ih =>
      intro u h
      refine ih _ ?_
      rw [State.lane_setLane]
      by_cases hk : 32 * i + j = 32 * i + k
      · exact .inr (if_pos hk)
      · rw [if_neg hk]
        exact h.imp_left fun hm => (List.mem_cons.mp hm).resolve_left (by omega)
  have hne : ¬ 32 * i + j = 1024 + i := by omega
  unfold clearBlock
  dsimp only
  rw [if_pos h0]
  have hzero := hfold (List.range 32) ((blockColumns ty i).foldl clearColumn s) (.inl (List.mem_range.mpr hj))
  generalize List.foldl _ _ (List.range 32) = u at hzero ⊢
  exact ((State.lane_setLane u (1024 + i) (32 * i + j) Lane.zero).trans (if_neg hne)).trans hzero

theorem blockRst_withdrawGrants (s : State) (ty i : Nat) : (withdrawGrants s ty i).blockRst = s.blockRst :=
  foldl_keeps State.blockRst (g := fun s (c : Cmd) => (dropReqs (releasePages s c.uid) c.uid).onCmd c.uid (fun c => { c with
    ph := .ingress, order := 7, pages := [], reels := [], staged := 0, rnd := [], rndWant := 0 })) (fun _ _ => rfl) _ s

theorem rd_withdrawGrants (s : State) (ty i : Nat) {f : Fld} (hf : f.place ≠ Reg.RNG_STAT_FIFO.place) : (withdrawGrants s ty i).rd f = s.rd f :=
  foldl_keeps (fun s : State => s.rd f) (g := fun s (c : Cmd) => (dropReqs (releasePages s c.uid) c.uid).onCmd c.uid (fun c => { c with
    ph := .ingress, order := 7, pages := [], reels := [], staged := 0, rnd := [], rndWant := 0 })) (fun _ _ => State.rd_wr_place _ _ hf) _ s

theorem rd_clearBlock (s : State) (ty i : Nat) (f : Fld) : (clearBlock s ty i).rd f = s.rd f :=
  congrArg (fun r => tget f.rst r f.key) (frame_clearBlock s ty i).1

theorem blockDone_idle (h : s.blockRst = none) : blockDone s = s := by
  unfold blockDone
  rw [h]

/-- The wrapper opens. -/
theorem blockDone_opens (h : s.blockRst = some (ty, i)) (ht : blockDone s = t) : t.blockRst = none ∧ t.on Reg.BLOCK_RST_GO = false ∧ t.on Reg.BLOCK_RST_STAT_DONE = true := by
  unfold blockDone at ht
  rw [h] at ht
  dsimp only at ht
  subst ht
  generalize clearBlock s ty i = u
  have hgo : ((u.flag Reg.BLOCK_RST_GO false).flag Reg.BLOCK_RST_STAT_DONE true).on Reg.BLOCK_RST_GO = false :=
    (State.on_flag_place _ _ (by decide)).trans (State.on_flag _ Nat.one_ne_zero _)
  have hdone : ((u.flag Reg.BLOCK_RST_GO false).flag Reg.BLOCK_RST_STAT_DONE true).on Reg.BLOCK_RST_STAT_DONE = true := State.on_flag _ Nat.one_ne_zero _
  exact ⟨rfl, hgo, hdone⟩

theorem blockStart_refused (hgo : s.on Reg.BLOCK_RST_GO = false) (h : blockColumns ty i = [] ∨ inReset s = true) :
    blockStart s ty i = ((s.wr Reg.BLOCK_RST_TYPE ty).wr Reg.BLOCK_RST_INDEX i).flag Reg.BLOCK_RST_STAT_ERR true := by
  have hmode : ((s.wr Reg.BLOCK_RST_TYPE ty).wr Reg.BLOCK_RST_INDEX i).mode = s.mode := (State.rd_wr_place _ _ (by decide)).trans (State.rd_wr_place _ _ (by decide))
  have hin : inReset ((s.wr Reg.BLOCK_RST_TYPE ty).wr Reg.BLOCK_RST_INDEX i) = inReset s := inReset_congr rfl hmode
  refine (if_neg (ne_true_of_eq_false hgo)).trans (if_pos ?_)
  rw [hin]
  exact h.imp_right .inl

/-- A block in reset: its wrapper is closed, a reel's lanes are clear, a digest or number unit is out of service. -/
structure BlockHeld (ty i : Nat) (s : State) : Prop where
  block : s.blockRst = some (ty, i)
  go : s.on Reg.BLOCK_RST_GO = true
  lanes : ty = 0 → i < 32 → ∀ j < 32, s.lane (32 * i + j) = Lane.zero
  du : ty = 1 → s.on (Reg.DU_STAT_OOS i) = true
  nu : ty = 2 → s.on (Reg.NU_STAT_OOS i) = true

/-- What keeps the fields that show a block in reset, and its lanes, keeps it held. -/
theorem BlockHeld.of_kept (h : BlockHeld ty i s) (hb : t.blockRst = s.blockRst) (hl : t.floor.lanes = s.floor.lanes)
    (hr : ∀ f ∈ [Reg.BLOCK_RST_GO, Reg.DU_STAT_OOS i, Reg.NU_STAT_OOS i], t.rd f = s.rd f) : BlockHeld ty i t := by
  have hon : ∀ f ∈ [Reg.BLOCK_RST_GO, Reg.DU_STAT_OOS i, Reg.NU_STAT_OOS i], t.on f = s.on f := fun f hf => by rw [State.on, State.on, hr f hf]
  refine ⟨hb.trans h.block, (hon _ (by simp)).trans h.go, fun h0 hi j hj => ?_, fun h1 => (hon _ (by simp)).trans (h.du h1), fun h2 => (hon _ (by simp)).trans (h.nu h2)⟩
  rw [← h.lanes h0 hi j hj, State.lane, hl, State.lane]

/-- The fields that show a block in reset are none that a record or a card's column changes. -/
theorem block_fields (hi : i < 64) : ∀ f ∈ [Reg.BLOCK_RST_GO, Reg.DU_STAT_OOS i, Reg.NU_STAT_OOS i],
    f.Quiet ∧ f.place ≠ (Reg.INT_LATCH_FLT 0).place ∧ f.place ≠ (Reg.INT_LATCH_FLT 1).place ∧ f.place ≠ Reg.FLOOR_CTL_COMMIT.place ∧
      ∀ col < 512, ∀ p < 64, f.place ≠ (Reg.CARD_SHADOW col p).place := by
  intro f hf
  simp only [List.mem_cons, List.not_mem_nil, or_false] at hf
  rcases hf with rfl | rfl | rfl
  · refine ⟨⟨by decide, by decide, .inl (by decide), .inr (by decide), by decide⟩, by decide, by decide, by decide, fun col hc p hp => ?_⟩
    simp only [Fld.place, Reg.BLOCK_RST_GO, Reg.CARD_SHADOW]
    omega
  all_goals
    refine ⟨quiet_of_addr_lt (Nat.zero_lt_succ _) ?_, ?_, ?_, ?_, fun col hc p hp => ?_⟩ <;>
      simp only [Fld.place, Reg.DU_STAT_OOS, Reg.NU_STAT_OOS, Reg.CARD_SHADOW, Reg.FLOOR_CTL_COMMIT, Reg.INT_LATCH_FLT] <;> omega

theorem BlockHeld.latchFault (h : BlockHeld ty i s) (hi : i < 64) : BlockHeld ty i (latchFault s) :=
  h.of_kept rfl rfl fun f hf => (State.rd_flag_place _ _ (block_fields hi f hf).2.2.1).trans (State.rd_flag_place _ _ (block_fields hi f hf).2.1)

theorem BlockHeld.recorded (h : BlockHeld ty i s) (hi : i < 64) (hr : Recorded s t) : BlockHeld ty i t :=
  h.of_kept hr.blockRst (by rw [hr.floor]) fun f hf => hr.rd f (block_fields hi f hf).1

theorem BlockHeld.retireColumn (h : BlockHeld ty i s) (hi : i < 64) {col : Nat} (hc : col < 512) : BlockHeld ty i (retireColumn s col) := by
  have hblock : (Machine.retireColumn s col).blockRst = s.blockRst := by
    have hfold := foldl_keeps State.blockRst (g := fun s p => s.wr (Reg.CARD_SHADOW col p) 0xFFE) (fun _ _ => rfl) (List.range 64) s
    rw [Machine.retireColumn]
    generalize List.foldl _ s (List.range 64) = u at hfold ⊢
    exact hfold
  refine h.of_kept hblock (congrArg Floor.lanes (floor_retireColumn s col)) fun f hf => ?_
  obtain ⟨-, -, -, hcommit, hshadow⟩ := block_fields hi f hf
  rw [Machine.retireColumn, State.rd_flag_place _ _ hcommit]
  exact rd_foldl_wr s _ _ _ fun p hp => hshadow col hc p (List.mem_range.mp hp)

theorem BlockHeld.retireColumns (h : BlockHeld ty i s) (hi : i < 64) (l : List Nat) (hl : ∀ c ∈ l, c < 512) : BlockHeld ty i (l.foldl Machine.retireColumn s) := by
  induction l generalizing s with
  | nil => exact h
  | cons c l ih =>
    rw [List.foldl_cons]
    exact ih (h.retireColumn hi (hl c List.mem_cons_self)) fun x hx => hl x (List.mem_cons_of_mem _ hx)

theorem blockColumns_lt (hi : i < 64) : ∀ c ∈ blockColumns ty i, c < 512 := by
  intro c hc
  unfold blockColumns at hc
  split_ifs at hc <;> simp only [List.mem_cons, List.not_mem_nil, or_false] at hc <;> omega

/-- A block reset begins. -/
theorem blockStart_starts (hgo : s.on Reg.BLOCK_RST_GO = false) (hc : blockColumns ty i ≠ []) (hin : inReset s = false) (hb : ty ≠ 1 ∨ i ≠ 63) (hi : i < 64)
    (ht : blockStart s ty i = t) : BlockHeld ty i t := by
  have hmode : ((s.wr Reg.BLOCK_RST_TYPE ty).wr Reg.BLOCK_RST_INDEX i).mode = s.mode := (State.rd_wr_place _ _ (by decide)).trans (State.rd_wr_place _ _ (by decide))
  have hrst : ((s.wr Reg.BLOCK_RST_TYPE ty).wr Reg.BLOCK_RST_INDEX i).rst = s.rst := rfl
  have hin' : inReset ((s.wr Reg.BLOCK_RST_TYPE ty).wr Reg.BLOCK_RST_INDEX i) = false := (inReset_congr hrst hmode).trans hin
  rw [blockStart, if_neg (ne_true_of_eq_false hgo)] at ht
  generalize (s.wr Reg.BLOCK_RST_TYPE ty).wr Reg.BLOCK_RST_INDEX i = u at hin' ht
  dsimp only at ht
  rw [if_neg (by
    rintro (h | h | ⟨h1, h2, -⟩)
    · exact hc h
    · exact absurd (h.symm.trans hin') (by decide)
    · exact hb.elim (fun h => h h1) fun h => h h2)] at ht
  obtain ⟨v, hv⟩ : ∃ v, { (u.flag Reg.BLOCK_RST_STAT_ERR false).flag Reg.BLOCK_RST_GO true with blockRst := some (ty, i) } = v := ⟨_, rfl⟩
  have hvb : v.blockRst = some (ty, i) := by rw [← hv]
  have hvg : v.on Reg.BLOCK_RST_GO = true := by
    have hon : ((u.flag Reg.BLOCK_RST_STAT_ERR false).flag Reg.BLOCK_RST_GO true).on Reg.BLOCK_RST_GO = true := State.on_flag _ Nat.one_ne_zero _
    rw [← hv]
    exact hon
  rw [hv] at ht
  obtain ⟨w, hw⟩ : ∃ w, clearBlock (withdrawGrants (stopHolders v ty i) ty i) ty i = w := ⟨_, rfl⟩
  have hwb : w.blockRst = some (ty, i) := by
    rw [← hw, (frame_clearBlock ..).2, blockRst_withdrawGrants]
    exact hvb
  have hwg : w.on Reg.BLOCK_RST_GO = true := by
    rw [← hw, State.on, rd_clearBlock, rd_withdrawGrants _ _ _ (by decide)]
    exact hvg
  have hwl : ty = 0 → i < 32 → ∀ j < 32, w.lane (32 * i + j) = Lane.zero := fun h0 hlt j hj => hw ▸ lane_clearBlock h0 hlt hj
  rw [hw] at ht
  have hheld : BlockHeld ty i (if ty = 1 then w.flag (Reg.DU_STAT_OOS i) true else if ty = 2 then w.flag (Reg.NU_STAT_OOS i) true else w) := by
    split
    · next h1 =>
      refine ⟨hwb, (State.on_flag_place _ _ ?_).trans hwg, fun h0 => absurd (h0.symm.trans h1) (by decide), fun _ => State.on_flag _ Nat.one_ne_zero _, fun h2 => absurd (h1.symm.trans h2) (by decide)⟩
      simp only [Fld.place, Reg.BLOCK_RST_GO, Reg.DU_STAT_OOS]
      omega
    · next h1 =>
      split
      · next h2 =>
        refine ⟨hwb, (State.on_flag_place _ _ ?_).trans hwg, fun h0 => absurd (h0.symm.trans h2) (by decide), fun h => absurd h h1, fun _ => State.on_flag _ Nat.one_ne_zero _⟩
        simp only [Fld.place, Reg.BLOCK_RST_GO, Reg.NU_STAT_OOS]
        omega
      · next h2 => exact ⟨hwb, hwg, hwl, fun h => absurd h h1, fun h => absurd h h2⟩
  rw [← ht]
  exact ((hheld.latchFault hi).recorded hi (recorded_jrec ..)).retireColumns hi _ (blockColumns_lt hi)

end Block

/-- Settles O55: the sources and reaches of resets, Fuse Load and block resets. -/
theorem resetsAndReach : Obligations.ResetsAndReach := by
  intro s
  refine ⟨fun h => congrArg Host.Outcome.next (if_pos h), fun hin hm => ?_, fun arg b src hin hm hl => ?_, rfl, fun h1 h2 h3 => ⟨_, rfl, ?_⟩, fun h => ?_,
    fun hreq hpf hpor => ?_, fun f r _ _ h => tget_resetRegs_reached h _, fun f r _ h => tget_resetRegs_left h _, fun h => ?_,
    fun hon hnow hpor hb => ⟨_, rfl, warmRelease_exits hon hnow hpor hb rfl⟩, ⟨_, rfl, supplyFalls_leaves rfl⟩, fun hpor hm hw => ⟨_, rfl, resetPin_leaves hpor hm hw rfl⟩,
    fun hpor => congrArg Host.Outcome.next (resetPin_again hpor), fun hb hf hpor => ?_, fun h => congrArg Host.Outcome.next (warmPin_held h), fun b => ⟨fun h => ?_, fun hnow hpor hl => ?_⟩,
    fun ok split strap => ⟨fun h => ?_, fun hm hp hl => ⟨?_, ?_, ?_, ?_⟩⟩, fun ty i => ⟨fun h => congrArg Host.Outcome.next (if_pos h), fun hgo h => congrArg Host.Outcome.next (blockStart_refused hgo h),
      fun hgo hc hin hb => ?_⟩, fun h => ?_, fun ty i h => ⟨_, rfl, blockDone_opens h rfl⟩⟩
  · refine congrArg Host.Outcome.next (if_neg ?_)
    rintro (h | h)
    · exact absurd (h.symm.trans hin) (by decide)
    · exact hm h
  · have hp := startWarm_pends arg b src hin hm hl
    exact ⟨_, rfl, hp.req, hp.halting, hp.union⟩
  · have hmode : (s.flag Reg.RST_CTL_FAULT true).mode = s.mode := State.rd_flag_place _ _ (by decide)
    exact enterFault_shows (hmode.symm ▸ h1) (hmode.symm ▸ h2) (hmode.symm ▸ h3) (by decide) rfl
  · refine congrArg Host.Outcome.next (if_pos ?_)
    exact h.imp_left fun h => Option.isNone_iff_eq_none.mpr h
  · refine ⟨_, congrArg Host.Outcome.next (if_neg ?_), warmReach_leaves rfl⟩
    rintro (h | h | h)
    · exact hreq (Option.isNone_iff_eq_none.mp h)
    · exact absurd (h.symm.trans hpf) (by decide)
    · exact absurd (h.symm.trans hpor) (by decide)
  · refine congrArg Host.Outcome.next (if_pos ?_)
    exact h.imp_left ne_true_of_eq_false
  · refine ⟨_, congrArg Host.Outcome.next (if_neg ?_), rfl⟩
    rintro (h | h | h)
    · exact hb h
    · exact absurd (h.symm.trans hpor) (by decide)
    · exact hf h
  · refine congrArg Host.Outcome.next (if_neg ?_)
    rintro ⟨h0, hor⟩
    rcases h with h | ⟨hp, hl⟩
    · exact h h0
    · exact hor.elim (ne_true_of_eq_false hp) (ne_true_of_eq_false hl)
  · exact ⟨_, rfl, releaseSource_last hnow hpor hl rfl⟩
  · refine congrArg Host.Outcome.next (if_pos h)
  · rintro rfl ha
    exact congrArg Host.Outcome.next (loadEnds_again hm hp hl ha ..)
  · rintro rfl ha
    exact ⟨_, rfl, loadEnds_faults hm hp hl ha split strap rfl⟩
  · rintro rfl h4
    exact ⟨_, rfl, loadEnds_misstrapped hm hp hl split h4 rfl⟩
  · rintro rfl h4
    exact ⟨_, rfl, loadEnds_boots hm hp hl split h4 rfl⟩
  · have hheld := blockStart_starts hgo hc hin hb i.isLt rfl
    exact ⟨_, rfl, hheld.block, hheld.go, hheld.lanes, hheld.du, hheld.nu⟩
  · exact congrArg Host.Outcome.next (blockDone_idle h)

end Sys2Proof.Machine
end


section
/-! SUPPORT. Modes, watchdogs, power-fail and Sleep (R287, R420, R434, R437, R442, R443, R446 to R448, R473, R474). -/
namespace Sys2Proof.Machine
open Sys2Proof

/-! ### Sleep -/

section Sleep
variable {s t : State}

theorem rd_startSources {f : Fld} (hf : f.place < (Reg.SRC_STAT_STATE 0).place ∨ (Reg.SRC_STAT_STATE 8).place ≤ f.place) (l : List Nat) (hl : ∀ n ∈ l, n < 8) (s : State) :
    (l.foldl startSource s).rd f = s.rd f := by
  induction l generalizing s with
  | nil => rfl
  | cons n l ih =>
    have hn := hl n List.mem_cons_self
    rw [List.foldl_cons, ih fun m hm => hl m (List.mem_cons_of_mem _ hm)]
    unfold startSource
    split
    · refine State.rd_wr_place s 1 ?_
      simp only [Fld.place, Reg.SRC_STAT_STATE] at hf ⊢
      omega
    · rfl

theorem quiet_wake : Reg.SLEEP_STAT_WAKE.Quiet := ⟨by decide, by decide, .inl (by decide), .inr (by decide), by decide⟩

/-- A wake event in Sleep. -/
theorem wake_wakes {ev : Nat} (hm : s.mode = mSleep) (hev : ev < 8) (ht : wake s ev = t) : t.mode = mOperational ∧ t.rd Reg.SLEEP_STAT_WAKE = ev := by
  have hstart : (fun s n => if s.rd (Reg.SRC_STAT_STATE n) = 0 then s.wr (Reg.SRC_STAT_STATE n) 1 else s) = startSource := rfl
  rw [wake, if_neg (not_not_intro hm), hstart] at ht
  subst ht
  refine ⟨mode_setModeWith _ 16 0 (by decide), ?_⟩
  rw [setMode, (recorded_setModeWith ..).rd _ quiet_wake, State.rd_flag_place _ _ (by decide), rd_startSources (.inr (by decide)) _ (by decide), State.rd_wr]
  exact Nat.mod_eq_of_lt hev

/-- A source goes Off, but for one that is retired. -/
def stopSource (s : State) (n : Nat) : State :=
  if s.rd (Reg.SRC_STAT_STATE n) = srcRetired then s
  else (s.wr (Reg.SRC_STAT_STATE n) srcOff).setEnt (fun e => { e with run := tdel e.run n })

theorem rd_stopSource_place (s : State) (m : Nat) {f : Fld} (hf : f.place ≠ (Reg.SRC_STAT_STATE m).place) (hfifo : f.place ≠ Reg.RNG_STAT_FIFO.place) :
    (stopSource s m).rd f = s.rd f := by
  unfold stopSource
  split
  · rfl
  · exact (State.rd_wr_place _ _ hfifo).trans (State.rd_wr_place s srcOff hf)

theorem src_stopSource_same (s : State) {n : Nat} (hn : n < 8) : (stopSource s n).rd (Reg.SRC_STAT_STATE n) =
    if s.rd (Reg.SRC_STAT_STATE n) = srcRetired then srcRetired else srcOff := by
  have hfifo : ∀ n < 8, (Reg.SRC_STAT_STATE n).place ≠ Reg.RNG_STAT_FIFO.place := by decide
  have hoff : (s.wr (Reg.SRC_STAT_STATE n) srcOff).rd (Reg.SRC_STAT_STATE n) = srcOff := State.rd_wr ..
  unfold stopSource
  split
  · next h => exact h
  · exact (State.rd_wr_place _ _ (hfifo n hn)).trans hoff

/-- What Sleep's stop of some sources leaves of one. -/
theorem src_stopSources {n : Nat} (hn : n < 8) (l : List Nat) (s : State) : (l.foldl stopSource s).rd (Reg.SRC_STAT_STATE n) =
    if n ∈ l then (if s.rd (Reg.SRC_STAT_STATE n) = srcRetired then srcRetired else srcOff) else s.rd (Reg.SRC_STAT_STATE n) := by
  have hfifo : ∀ n < 8, (Reg.SRC_STAT_STATE n).place ≠ Reg.RNG_STAT_FIFO.place := by decide
  induction l generalizing s with
  | nil => exact (if_neg List.not_mem_nil).symm
  | cons m l ih =>
    rw [List.foldl_cons, ih]
    by_cases hmn : n = m
    · subst hmn
      rw [src_stopSource_same s hn, if_pos List.mem_cons_self]
      by_cases hr : s.rd (Reg.SRC_STAT_STATE n) = srcRetired
      · rw [if_pos hr, if_pos rfl, ite_self]
      · rw [if_neg hr, if_neg (show ¬ srcOff = srcRetired by decide), ite_self]
    · rw [rd_stopSource_place s m (by simp only [Fld.place, Reg.SRC_STAT_STATE]; omega) (hfifo n hn)]
      simp only [List.mem_cons, hmn, false_or]

theorem rd_stopSources {f : Fld} (hf : ∀ m < 8, f.place ≠ (Reg.SRC_STAT_STATE m).place) (hfifo : f.place ≠ Reg.RNG_STAT_FIFO.place) (l : List Nat) (hl : ∀ n ∈ l, n < 8) (s : State) :
    (l.foldl stopSource s).rd f = s.rd f := by
  induction l generalizing s with
  | nil => rfl
  | cons m l ih =>
    rw [List.foldl_cons, ih fun k hk => hl k (List.mem_cons_of_mem _ hk), rd_stopSource_place s m (hf m (hl m List.mem_cons_self)) hfifo]

theorem cmds_stopSources (l : List Nat) (s : State) : (l.foldl stopSource s).cmds = s.cmds := by
  refine foldl_keeps State.cmds (fun s n => ?_) l s
  unfold stopSource
  split <;> rfl

/-- The end of a flush: records, then the level. -/
theorem flushDone_leaves (s : State) : SrcKept s (flushDone s) ∧ ((flushDone s).mode = s.mode ∨ (flushDone s).rd Reg.JNL_STAT_LEVEL = 2) ∧ Recorded s (flushDone s) := by
  unfold flushDone
  split
  · exact ⟨.refl s, .inl rfl, .refl s⟩
  · extract_lets n w chain u
    have hrec : Recorded s u := .of_eq rfl
    have hflag : Recorded u (u.flag Reg.JNL_STAT_FLUSHING false) := .flagTouched _ _ (by simp [touchedFields])
    have hmode : (u.flag Reg.JNL_STAT_FLUSHING false).mode = s.mode := State.rd_flag_place u false (by decide)
    obtain ⟨hsrc, -, -, hlevel⟩ := jlevelUpdate_leaves (u.flag Reg.JNL_STAT_FLUSHING false)
    exact ⟨((SrcKept.of_regs rfl).trans (SrcKept.wr u _ (by decide))).trans hsrc, hlevel.imp_left fun h => h.trans hmode, (hrec.trans hflag).trans (recorded_jlevelUpdate _)⟩

theorem SrcKept.ite {s t u : State} {p : Prop} [Decidable p] (h : SrcKept s t) (h' : SrcKept s u) : SrcKept s (if p then t else u) := by
  split
  · exact h
  · exact h'

theorem startFlush_leaves (s : State) : SrcKept s (startFlush s) ∧ (startFlush s).mode = s.mode ∧ (startFlush s).cmds = s.cmds := by
  unfold startFlush
  split
  · exact ⟨.refl s, rfl, rfl⟩
  · exact ⟨.wr s _ (by decide), State.rd_flag_place s true (by decide), rfl⟩

/-- Entry into Sleep. -/
theorem fallAsleep_sleeps (h : sleepReady s = true) (ht : fallAsleep s = t) : (t.mode = mSleep ∨ t.rd Reg.JNL_STAT_LEVEL = 2) ∧
    (∀ n < 8, t.rd (Reg.SRC_STAT_STATE n) = if s.rd (Reg.SRC_STAT_STATE n) = srcRetired then srcRetired else srcOff) ∧ t.cmds = [] := by
  have hstop : stopSource = fun s n => if s.rd (Reg.SRC_STAT_STATE n) = srcRetired then s
    else (s.wr (Reg.SRC_STAT_STATE n) srcOff).setEnt (fun e => { e with run := tdel e.run n }) := rfl
  have hcmds : s.cmds = [] := by
    simp only [sleepReady, Bool.and_eq_true, decide_eq_true_eq] at h
    exact h.1.1.1.1.1.1.1.1.2
  obtain ⟨u, hu⟩ : ∃ u, setMode (s.count Reg.SLEEP_COUNT Reg.SLEEP_STAT_SCO) mSleep 15 = u := ⟨_, rfl⟩
  obtain ⟨v, hv⟩ : ∃ v, startFlush u = v := ⟨_, rfl⟩
  obtain ⟨w, hw⟩ : ∃ w, flushDone v = w := ⟨_, rfl⟩
  have heq : fallAsleep s = (List.range 8).foldl stopSource w := by
    rw [← hw, ← hv, ← hu, hstop]
    exact if_neg (not_not_intro h)
  have hcount : SrcKept s (s.count Reg.SLEEP_COUNT Reg.SLEEP_STAT_SCO) :=
    .ite (.wr s _ (by decide)) ((SrcKept.wr s _ (by decide)).trans (.wr _ _ (by decide)))
  have hcountCmds : (s.count Reg.SLEEP_COUNT Reg.SLEEP_STAT_SCO).cmds = [] := by
    unfold State.count
    dsimp only
    split <;> exact hcmds
  obtain ⟨hsv, hmv, hcv⟩ := startFlush_leaves u
  obtain ⟨hsw, hmw, hrw⟩ := flushDone_leaves v
  rw [hv] at hsv hmv hcv
  rw [hw] at hsw hmw hrw
  have hmode : u.mode = mSleep := hu ▸ mode_setModeWith _ 15 0 (by decide)
  have hsu : SrcKept s u := hu ▸ hcount.trans (srcKept_setModeWith _ _ _ _)
  have hcu : u.cmds = [] := List.eq_nil_iff_forall_not_mem.mpr fun k hk => by
    rw [← hu] at hk
    have hin := (recorded_setModeWith (s.count Reg.SLEEP_COUNT Reg.SLEEP_STAT_SCO) mSleep 15 0).left k hk
    rw [hcountCmds] at hin
    exact List.not_mem_nil hin
  have hcw : w.cmds = [] := List.eq_nil_iff_forall_not_mem.mpr fun k hk => by
    have hin := hrw.left k hk
    rw [hcv, hcu] at hin
    exact List.not_mem_nil hin
  have hplace : ∀ f ∈ steadyFields, (∀ m < 8, f.place ≠ (Reg.SRC_STAT_STATE m).place) ∧ f.place ≠ Reg.RNG_STAT_FIFO.place := by decide
  have hkeep : ∀ f ∈ steadyFields, ((List.range 8).foldl stopSource w).rd f = w.rd f := fun f hf =>
    rd_stopSources (hplace f hf).1 (hplace f hf).2 _ (fun _ hn => List.mem_range.mp hn) w
  rw [heq] at ht
  rw [← ht]
  refine ⟨?_, fun n hn => ?_, (cmds_stopSources _ w).trans hcw⟩
  · rcases hmw with hmw | hmw
    · exact .inl ((hkeep Reg.MODE_STAT_MODE (by decide)).trans (hmw.trans (hmv.trans hmode)))
    · exact .inr ((hkeep Reg.JNL_STAT_LEVEL (by decide)).trans hmw)
  · have hkept := (hsu.trans hsv).trans hsw n hn
    rw [src_stopSources hn, if_pos (List.mem_range.mpr hn)]
    have hiff : w.rd (Reg.SRC_STAT_STATE n) = srcRetired ↔ s.rd (Reg.SRC_STAT_STATE n) = srcRetired := by
      unfold srcRetired
      omega
    simp only [hiff]

end Sleep

/-! ### The end of Secure Boot -/

section Boot
variable {s t : State}

/-- Secure Boot's last state before the mode is chosen, where slot A has booted, was the first choice, and nothing is republished. -/
def bootReady (s : State) : State :=
  tapLock ((((s.wr Reg.FW_STAT_ACTIVE_SLOT 0).flag Reg.FW_STAT_FALLBACK false).flag Reg.FW_STAT_TRY_PENDING (decide ((bootBlock s).2.2.1 ≠ 0xFF))).flag
    Reg.FW_STAT_ADV_PEND (bit (bootBlock s).2.2.2 1))

theorem rd_bootReady (s : State) {f : Fld} (hf : f.place < 0x10000060004 * 32 ∧ f.place ≠ Reg.BOOT_TAP_STAT_LOCKED.place) : (bootReady s).rd f = s.rd f := by
  have hdu : ∀ (u : State) (d : DigestUnit), (u.setDu 63 d).rd f = u.rd f := fun _ _ => rfl
  have hne : ∀ g ∈ [Reg.FW_STAT_ACTIVE_SLOT, Reg.FW_STAT_FALLBACK, Reg.FW_STAT_TRY_PENDING, Reg.FW_STAT_ADV_PEND], f.place ≠ g.place := by
    have hlow : ∀ g ∈ [Reg.FW_STAT_ACTIVE_SLOT, Reg.FW_STAT_FALLBACK, Reg.FW_STAT_TRY_PENDING, Reg.FW_STAT_ADV_PEND], 0x10000060004 * 32 ≤ g.place := by decide
    exact fun g hg => Nat.ne_of_lt (Nat.lt_of_lt_of_le hf.1 (hlow g hg))
  rw [bootReady, tapLock, State.rd_flag_place _ _ hf.2, hdu, State.rd_flag_place _ _ (hne _ (by simp)), State.rd_flag_place _ _ (hne _ (by simp)),
    State.rd_flag_place _ _ (hne _ (by simp)), State.rd_wr_place _ _ (hne _ (by simp))]

/-- What the registers show once slot A has booted. -/
theorem bootReady_shows (s : State) : (bootReady s).rd Reg.FW_STAT_ACTIVE_SLOT = 0 ∧ (bootReady s).on Reg.FW_STAT_FALLBACK = false ∧
    (bootReady s).on Reg.BOOT_TAP_STAT_LOCKED = true := by
  have hdu : ∀ (u : State) (d : DigestUnit) (f : Fld), (u.setDu 63 d).rd f = u.rd f := fun _ _ _ => rfl
  have hon : ∀ u : State, (u.flag Reg.FW_STAT_FALLBACK false).on Reg.FW_STAT_FALLBACK = false := fun u => State.on_flag _ Nat.one_ne_zero _
  refine ⟨?_, ?_, State.on_flag _ Nat.one_ne_zero _⟩
  · rw [bootReady, tapLock, State.rd_flag_place _ _ (by decide), hdu, State.rd_flag_place _ _ (by decide), State.rd_flag_place _ _ (by decide),
      State.rd_flag_place _ _ (by decide)]
    exact State.rd_wr ..
  · rw [bootReady, tapLock, State.on, State.rd_flag_place _ _ (by decide), hdu, State.rd_flag_place _ _ (by decide), State.rd_flag_place _ _ (by decide)]
    exact hon _

theorem firstSlot_settled (htry : (bootBlock s).2.2.1 = 0xFF) (ha : (bootBlock s).2.1 = 0) : firstSlot s = (0, s) := by
  unfold firstSlot
  dsimp only
  rw [if_pos htry, ha]

theorem confirmSlot_settled (htry : (bootBlock s).2.2.1 = 0xFF) (hadv : bit (bootBlock s).2.2.2 1 = false) : confirmSlot s 0 false = s := by
  have hne : ¬ (0 : Nat) = (bootBlock s).2.2.1 := by rw [htry]; decide
  have hadv' : ¬ (bit (bootBlock s).2.2.2 1 = true ∧ 0 = (bootBlock s).2.1) := fun h => absurd (h.1.symm.trans hadv) (by decide)
  have hfall : ¬ (false = true ∧ (bootBlock s).2.2.1 ≠ 0xFF) := fun h => Bool.false_ne_true h.1
  unfold confirmSlot
  dsimp only
  rw [if_neg hne, if_neg hfall, if_neg hadv']

theorem republish_nothing (h : s.rst.copy = none) : republish s = s := by
  unfold republish
  rw [h]

/-- The end of Secure Boot where slot A boots at the first choice. -/
theorem bootEnds_of (hm : s.mode = mSecureBoot) (hrun : s.sc0.running = true) (hreq : s.rst.warmReq = none) (htry : (bootBlock s).2.2.1 = 0xFF)
    (ha : (bootBlock s).2.1 = 0) (hadv : bit (bootBlock s).2.2.2 1 = false) (hcopy : s.rst.copy = none) (pass : Bool) {u : State} (hu : bootReady s = u) :
    bootEnds s (some false) pass = if u.rd Reg.JNL_STAT_LEVEL = 2 ∨ u.jnl.seq ≥ 2 ^ 64 - 1 then enterFault u 8
      else if u.rd Reg.RNG_STAT_HEALTHY < 3 then enterFault u 6
      else
        let b := bootMode u
        plxRefresh (mcAllowedRefresh (setMode ((tampRefresh b.2).flag Reg.RST_BOOT_TARGET false) (if b.2.on Reg.RST_BOOT_TARGET then mDiagnostic else b.1) 6)) := by
  subst hu
  have hgo : ¬ (s.mode ≠ mSecureBoot ∨ ¬ s.sc0.running = true ∨ s.rst.warmReq.isSome = true) := by
    rw [hm, hrun, hreq]
    decide
  obtain ⟨v, hv⟩ : ∃ v, (s.wr Reg.FW_STAT_ACTIVE_SLOT 0).flag Reg.FW_STAT_FALLBACK false = v := ⟨_, rfl⟩
  have hblock : bootBlock v = bootBlock s := by rw [← hv]; rfl
  have hconf : confirmSlot v 0 false = v := confirmSlot_settled (hblock ▸ htry) (hblock ▸ hadv)
  have hready : bootReady s = tapLock ((v.flag Reg.FW_STAT_TRY_PENDING (decide ((bootBlock v).2.2.1 ≠ 0xFF))).flag Reg.FW_STAT_ADV_PEND (bit (bootBlock v).2.2.2 1)) := by
    rw [hblock, ← hv]
    rfl
  have hrep : republish (bootReady s) = bootReady s := republish_nothing hcopy
  have hslot : b2n false = 0 := rfl
  have hfall : decide ((0 : Nat) ≠ 0) = false := rfl
  unfold bootEnds
  rw [if_neg hgo, firstSlot_settled htry ha]
  dsimp only
  rw [hslot, hfall, hv, hconf, ite_self, ← hready, hrep]

/-- What the last writes of Secure Boot's end leave. -/
theorem bootFinish_shows (v : State) {m : Nat} (hm : m < 16)
    (ht : plxRefresh (mcAllowedRefresh (setMode ((tampRefresh v).flag Reg.RST_BOOT_TARGET false) m 6)) = t) : t.mode = m ∧ t.tamp = v.tamp ∧
      t.rd Reg.FW_STAT_ACTIVE_SLOT = v.rd Reg.FW_STAT_ACTIVE_SLOT ∧ t.on Reg.FW_STAT_FALLBACK = v.on Reg.FW_STAT_FALLBACK ∧
      t.on Reg.BOOT_TAP_STAT_LOCKED = v.on Reg.BOOT_TAP_STAT_LOCKED := by
  have hquiet : ∀ f ∈ [Reg.FW_STAT_ACTIVE_SLOT, Reg.FW_STAT_FALLBACK, Reg.BOOT_TAP_STAT_LOCKED], f.Quiet := by
    intro f hf
    simp only [List.mem_cons, List.not_mem_nil, or_false] at hf
    rcases hf with rfl | rfl | rfl
    · exact ⟨by decide, by decide, .inl (by decide), .inr (by decide), by decide⟩
    · exact ⟨by decide, by decide, .inl (by decide), .inr (by decide), by decide⟩
    · exact quiet_of_addr_lt (by decide) (by decide)
  have hplaces : ∀ f ∈ [Reg.FW_STAT_ACTIVE_SLOT, Reg.FW_STAT_FALLBACK, Reg.BOOT_TAP_STAT_LOCKED], (∀ g ∈ plxShown, f.place ≠ g.place) ∧ f.place < 0x10000078000 * 32 ∧
      f.place ≠ Reg.LEAD_STAT_MC_ALLOWED.place ∧ f.place ≠ Reg.RST_BOOT_TARGET.place ∧ f.place ≠ Reg.TAMP_STAT_ROOT.place ∧ f.place ≠ Reg.TAMP_STAT_TAMPER.place := by decide
  have hrec := recorded_setModeWith ((tampRefresh v).flag Reg.RST_BOOT_TARGET false) m 6 0
  have hrd : ∀ f ∈ [Reg.FW_STAT_ACTIVE_SLOT, Reg.FW_STAT_FALLBACK, Reg.BOOT_TAP_STAT_LOCKED], t.rd f = v.rd f := by
    intro f hf
    obtain ⟨hplx, hlow, hmc, hboot, hroot, htamper⟩ := hplaces f hf
    rw [← ht, rd_plxRefresh _ hplx hlow, mcAllowedRefresh, State.rd_flag_place _ _ hmc, setMode, hrec.rd f (hquiet f hf), State.rd_flag_place _ _ hboot,
      tampRefresh, State.rd_flag_place _ _ hroot, State.rd_wr_place _ _ htamper]
  refine ⟨?_, ?_, hrd _ (by simp), by rw [State.on, State.on, hrd _ (by simp)], by rw [State.on, State.on, hrd _ (by simp)]⟩
  · rw [← ht, State.mode, rd_plxRefresh _ (by decide) (by decide), mcAllowedRefresh, State.rd_flag_place _ _ (by decide)]
    exact mode_setModeWith _ 6 0 hm
  · have hplx : ∀ u : State, (plxRefresh u).tamp = u.tamp := fun u =>
      foldl_keeps State.tamp (g := fun s (e : Nat × Nat × Nat) => (s.wr (Reg.PLX_DOM_ROLE e.1) e.2.1).wr (Reg.PLX_DOM_HOME e.1) e.2.2) (fun _ _ => rfl) _ _
    rw [← ht, hplx]
    exact hrec.tamp

/-- The mode that Secure Boot chooses, and the state it leaves. -/
theorem bootMode_of (u : State) {m : Nat} {v : State} (hb : bootMode u = (m, v)) : m < 16 ∧
    (u.tamp.root ≠ none → u.on Reg.TAMP_STAT_COMMISSIONED = true → m = mOperational) ∧
    (u.tamp.root ≠ none → u.on Reg.TAMP_STAT_COMMISSIONED = false → v.tamp.root = none ∧ m = if u.tamp.origin then mZeroized else mUncommissioned) ∧
    (u.tamp.root = none → m = if u.otp.comm > 0 then mZeroized else mUncommissioned) ∧
    ∀ f : Fld, f.place ≠ Reg.TAMP_STAT_CFG_LOCKED.place → f.place ≠ Reg.TAMP_STAT_TAMPER.place → f.place ≠ Reg.TAMP_STAT_ROOT.place → v.rd f = u.rd f := by
  have hlt : ∀ p : Prop, [Decidable p] → (if p then mZeroized else mUncommissioned) < 16 := fun p _ => by split <;> decide
  unfold bootMode at hb
  split at hb
  · next r hr =>
    split at hb
    · next hc =>
      obtain ⟨rfl, rfl⟩ := Prod.mk.inj hb
      exact ⟨by decide, fun _ _ => rfl, fun _ h => absurd (hc.symm.trans h) (by decide), fun h => absurd (hr.symm.trans h) nofun, fun _ _ _ _ => rfl⟩
    · next hc =>
      obtain ⟨rfl, rfl⟩ := Prod.mk.inj hb
      refine ⟨hlt _, fun _ h => absurd h hc, fun _ _ => ⟨rfl, rfl⟩, fun h => absurd (hr.symm.trans h) nofun, fun f h1 h2 h3 => ?_⟩
      rw [tampRefresh, State.rd_flag_place _ _ h3, State.rd_wr_place _ _ h2, State.rd_flag_place _ _ h1]
      rfl
  · next hr =>
    obtain ⟨rfl, rfl⟩ := Prod.mk.inj hb
    exact ⟨hlt _, fun h => absurd hr h, fun h => absurd hr h, fun _ => rfl, fun _ _ _ _ => rfl⟩

/-- Secure Boot ends in the mode that R443 gives. -/
theorem bootEnds_boots (hm : s.mode = mSecureBoot) (hrun : s.sc0.running = true) (hreq : s.rst.warmReq = none) (htry : (bootBlock s).2.2.1 = 0xFF)
    (ha : (bootBlock s).2.1 = 0) (hadv : bit (bootBlock s).2.2.2 1 = false) (hcopy : s.rst.copy = none) (hlevel : s.rd Reg.JNL_STAT_LEVEL ≠ 2)
    (hseq : s.jnl.seq < 2 ^ 64 - 1) (hsrc : 3 ≤ s.rd Reg.RNG_STAT_HEALTHY) (hboot : s.on Reg.RST_BOOT_TARGET = false) {pass : Bool} (ht : bootEnds s (some false) pass = t) :
    t.rd Reg.FW_STAT_ACTIVE_SLOT = 0 ∧ t.on Reg.FW_STAT_FALLBACK = false ∧ t.on Reg.BOOT_TAP_STAT_LOCKED = true ∧
      (s.tamp.root ≠ none → s.on Reg.TAMP_STAT_COMMISSIONED = true → t.mode = mOperational) ∧
      (s.tamp.root ≠ none → s.on Reg.TAMP_STAT_COMMISSIONED = false → t.tamp.root = none ∧ t.mode = if s.tamp.origin then mZeroized else mUncommissioned) ∧
      (s.tamp.root = none → t.mode = if s.otp.comm > 0 then mZeroized else mUncommissioned) := by
  obtain ⟨u, hu⟩ : ∃ u, bootReady s = u := ⟨_, rfl⟩
  have htamp : u.tamp = s.tamp := by rw [← hu]; rfl
  have hotp : u.otp = s.otp := by rw [← hu]; rfl
  have hjnl : u.jnl = s.jnl := by rw [← hu]; rfl
  have hrd : ∀ f : Fld, f.place < 0x10000060004 * 32 ∧ f.place ≠ Reg.BOOT_TAP_STAT_LOCKED.place → u.rd f = s.rd f := fun f hf => hu ▸ rd_bootReady s hf
  have hcomm : u.on Reg.TAMP_STAT_COMMISSIONED = s.on Reg.TAMP_STAT_COMMISSIONED := by rw [State.on, State.on, hrd _ (by decide)]
  obtain ⟨hslot, hfall, hlock⟩ := bootReady_shows s
  rw [hu] at hslot hfall hlock
  have hclear : ¬ (u.rd Reg.JNL_STAT_LEVEL = 2 ∨ u.jnl.seq ≥ 2 ^ 64 - 1) := by
    rw [hrd _ (by decide), hjnl]
    exact fun h => h.elim hlevel (Nat.not_le.mpr hseq)
  have hhealthy : ¬ u.rd Reg.RNG_STAT_HEALTHY < 3 := by
    rw [hrd _ (by decide)]
    exact Nat.not_lt.mpr hsrc
  obtain ⟨m, v, hb⟩ : ∃ m v, bootMode u = (m, v) := ⟨_, _, rfl⟩
  obtain ⟨hlt, hoper, huncomm, hnone, hkeep⟩ := bootMode_of u hb
  have htarget : ¬ v.on Reg.RST_BOOT_TARGET = true := by
    rw [State.on, hkeep _ (by decide) (by decide) (by decide), hrd _ (by decide)]
    exact ne_true_of_eq_false hboot
  rw [bootEnds_of hm hrun hreq htry ha hadv hcopy pass hu, if_neg hclear, if_neg hhealthy, hb] at ht
  dsimp only at ht
  rw [if_neg htarget] at ht
  obtain ⟨hmode, htroot, htslot, htfall, htlock⟩ := bootFinish_shows v hlt ht
  have hkeepOn : ∀ f : Fld, f.place ≠ Reg.TAMP_STAT_CFG_LOCKED.place → f.place ≠ Reg.TAMP_STAT_TAMPER.place → f.place ≠ Reg.TAMP_STAT_ROOT.place → v.on f = u.on f :=
    fun f h1 h2 h3 => by rw [State.on, State.on, hkeep f h1 h2 h3]
  rw [htamp, hcomm] at huncomm
  rw [htamp, hcomm] at hoper
  rw [htamp, hotp] at hnone
  refine ⟨htslot.trans ((hkeep _ (by decide) (by decide) (by decide)).trans hslot), htfall.trans ((hkeepOn _ (by decide) (by decide) (by decide)).trans hfall),
    htlock.trans ((hkeepOn _ (by decide) (by decide) (by decide)).trans hlock), fun h1 h2 => hmode.trans (hoper h1 h2), fun h1 h2 => ?_, fun h => hmode.trans (hnone h)⟩
  obtain ⟨hroot, hm'⟩ := huncomm h1 h2
  exact ⟨(congrArg Tamper.root htroot).trans hroot, hmode.trans hm'⟩

/-- A cause of Fault that persists brings Fault back. -/
theorem bootEnds_faults (hm : s.mode = mSecureBoot) (hrun : s.sc0.running = true) (hreq : s.rst.warmReq = none) (htry : (bootBlock s).2.2.1 = 0xFF)
    (ha : (bootBlock s).2.1 = 0) (hadv : bit (bootBlock s).2.2.2 1 = false) (hcopy : s.rst.copy = none) (hlevel : s.rd Reg.JNL_STAT_LEVEL ≠ 2)
    (hseq : s.jnl.seq < 2 ^ 64 - 1) (hsrc : s.rd Reg.RNG_STAT_HEALTHY < 3) {pass : Bool} (ht : bootEnds s (some false) pass = t) :
    t.mode = mFault ∧ t.rd Reg.MODE_STAT_FAULT_CAUSE = 6 := by
  obtain ⟨u, hu⟩ : ∃ u, bootReady s = u := ⟨_, rfl⟩
  have hjnl : u.jnl = s.jnl := by rw [← hu]; rfl
  have hrd : ∀ f : Fld, f.place < 0x10000060004 * 32 ∧ f.place ≠ Reg.BOOT_TAP_STAT_LOCKED.place → u.rd f = s.rd f := fun f hf => hu ▸ rd_bootReady s hf
  have hmode : u.mode = mSecureBoot := (hrd _ (by decide)).trans hm
  have hclear : ¬ (u.rd Reg.JNL_STAT_LEVEL = 2 ∨ u.jnl.seq ≥ 2 ^ 64 - 1) := by
    rw [hrd _ (by decide), hjnl]
    exact fun h => h.elim hlevel (Nat.not_le.mpr hseq)
  have hill : u.rd Reg.RNG_STAT_HEALTHY < 3 := by
    rw [hrd _ (by decide)]
    exact hsrc
  rw [bootEnds_of hm hrun hreq htry ha hadv hcopy pass hu, if_neg hclear, if_pos hill] at ht
  obtain ⟨hfault, hcause, -⟩ := enterFault_shows (by rw [hmode]; decide) (by rw [hmode]; decide) (by rw [hmode]; decide) (by decide) ht
  exact ⟨hfault, hcause⟩

theorem bootEnds_idle (h : s.mode ≠ mSecureBoot ∨ s.sc0.running = false ∨ s.rst.warmReq ≠ none) (slot : Option Bool) (pass : Bool) : bootEnds s slot pass = s :=
  if_pos (h.imp_right (.imp ne_true_of_eq_false Option.isSome_iff_ne_none.mpr))

theorem bootEnds_slotless (hm : s.mode = mSecureBoot) (hrun : s.sc0.running = true) (hreq : s.rst.warmReq = none) (pass : Bool) :
    bootEnds s none pass = enterFault (firstSlot s).2 4 := by
  have hgo : ¬ (s.mode ≠ mSecureBoot ∨ ¬ s.sc0.running = true ∨ s.rst.warmReq.isSome = true) := by
    rw [hm, hrun, hreq]
    decide
  exact if_neg hgo

end Boot

/-! ### Zeroized, power-fail, watchdog and doorbells -/

section Ends
variable {s t : State}

theorem quiet_fill : Reg.MEM_FILL_L.Quiet ∧ Reg.MEM_FILL_H.Quiet := by
  constructor <;> exact ⟨by decide, by decide, .inl (by decide), .inr (by decide), by decide⟩

/-- The main domain learns of a zeroization in Operational mode. -/
theorem zeroizedEntry_zeroizes (hz : s.tamp.zeroEntry = true) (hm : s.mode = mOperational) (ht : zeroizedEntry s = t) : t.mode = mZeroized ∧ t.cmds = [] ∧ t.funcs = [] ∧
    t.mem.dram = [] ∧ t.tamp.zeroEntry = false ∧ t.rd2 Reg.MEM_FILL_L Reg.MEM_FILL_H = 0 := by
  obtain ⟨u, hu⟩ : ∃ u, s.setTamp (fun t => { t with zeroEntry := false }) = u := ⟨_, rfl⟩
  have hwake : wake s 5 = s := if_pos (by rw [hm]; decide)
  have humode : u.mode = mOperational := by rw [← hu]; exact hm
  have huzero : u.tamp.zeroEntry = false := by rw [← hu]; rfl
  obtain ⟨v, hv⟩ : ∃ v, faultDebug (lapseAllFault (disableQueues u)) = v := ⟨_, rfl⟩
  have hrec : Recorded u v := hv ▸ ((recorded_disableQueues u).trans (recorded_lapseAllFault _)).trans (recorded_faultDebug _)
  have hvzero : v.tamp.zeroEntry = false := hrec.tamp.symm ▸ huzero
  obtain ⟨w, hw, hwc, hwf, hwm, hwt, hwl, hwh⟩ : ∃ w : State, zeroizedEntry s = setModeWith w mZeroized 17 0 ∧ w.cmds = [] ∧ w.funcs = [] ∧ w.mem.dram = [] ∧
      w.tamp.zeroEntry = false ∧ w.rd Reg.MEM_FILL_L = 0 ∧ w.rd Reg.MEM_FILL_H = 0 := by
    have hlow : ∀ x : State, (((x.wr2 Reg.MEM_FILL_L Reg.MEM_FILL_H 0).flag Reg.MEM_STAT_FILL_DONE false).flag Reg.KS_STAT_DIRTY false).rd Reg.MEM_FILL_L = 0 := fun x =>
      (State.rd_flag_place _ _ (by decide)).trans ((State.rd_flag_place _ _ (by decide)).trans ((State.rd_wr_place _ _ (by decide)).trans (State.rd_wr ..)))
    have hhigh : ∀ x : State, (((x.wr2 Reg.MEM_FILL_L Reg.MEM_FILL_H 0).flag Reg.MEM_STAT_FILL_DONE false).flag Reg.KS_STAT_DIRTY false).rd Reg.MEM_FILL_H = 0 := fun x =>
      (State.rd_flag_place _ _ (by decide)).trans ((State.rd_flag_place _ _ (by decide)).trans (State.rd_wr ..))
    have hlive : ¬ u.mode ∉ [mOperational, mMaintenance, mMigrationFreeze, mDiagnostic, mDebug] := by
      rw [humode]
      decide
    unfold zeroizedEntry
    rw [if_neg (not_not_intro hz), hwake]
    dsimp only
    rw [hu, if_neg hlive, hv]
    exact ⟨_, rfl, rfl, rfl, rfl, hvzero, hlow _, hhigh _⟩
  have hset := recorded_setModeWith w mZeroized 17 0
  rw [hw] at ht
  rw [← ht]
  refine ⟨mode_setModeWith _ 17 0 (by decide), ?_, hset.funcs.trans hwf, ?_, ?_, ?_⟩
  · exact List.eq_nil_iff_forall_not_mem.mpr fun k hk => by
      have hin := hset.left k hk
      rw [hwc] at hin
      exact List.not_mem_nil hin
  · exact (congrArg Mem.dram hset.mem).trans hwm
  · exact (congrArg Tamper.zeroEntry hset.tamp).trans hwt
  · rw [State.rd2, hset.rd _ quiet_fill.1, hset.rd _ quiet_fill.2, hwl, hwh]
    rfl

/-- A window's close for another cause than its end leaves the window shut and the tamper domain's mask. -/
theorem closeWindow_leaves (s : State) : (closeWindow s 4 0x3F).on Reg.TAMP_STAT_WINDOW = false ∧ (closeWindow s 4 0x3F).tamp.masked = s.tamp.masked := by
  by_cases hw : s.on Reg.TAMP_STAT_WINDOW = true
  · have hon : ∀ x : State, ((x.flag Reg.TAMP_STAT_WINDOW false).wr Reg.WIN_LEFT 0).on Reg.TAMP_STAT_WINDOW = false := fun x =>
      (State.on_wr_place _ _ (by decide)).trans (State.on_flag _ Nat.one_ne_zero _)
    unfold closeWindow
    dsimp only
    rw [if_neg (not_not_intro hw), if_neg (fun h : (4 : Nat) ≠ 4 ∧ _ => h.1 rfl)]
    refine ⟨?_, ?_⟩
    · rw [on_ledgerPut _ _ _ _ (by decide) (by decide) (by decide) (by decide)]
      exact hon s
    · rw [(ledgered_put ..).frame]
      rfl
  · have hw' : s.on Reg.TAMP_STAT_WINDOW = false := Bool.eq_false_iff.mpr hw
    rw [closeWindow_shut hw']
    exact ⟨hw', rfl⟩

theorem quiet_window : Reg.TAMP_STAT_WINDOW.Quiet := ⟨by decide, by decide, .inl (by decide), .inr (by decide), by decide⟩

/-- PWR_FAIL_N falls. -/
theorem powerFails_holds (hb : s.mode ≠ mBatteryHold) (hf : s.rst.pfFlush = false) (hh : s.rst.pfHold = false) (ht : powerFails s = t) : t.rst.pfFlush = true ∧
    t.halting = true ∧ t.tamp.masked = true ∧ t.on Reg.TAMP_STAT_WINDOW = false ∧ t.sc0.running = false ∧ t.sc1.running = false ∧ t.mc.running = false := by
  have hgo : ¬ (s.mode = mBatteryHold ∨ s.rst.pfFlush = true ∨ s.rst.pfHold = true) := by
    rw [hf, hh]
    exact fun h => h.elim hb fun h => h.elim Bool.false_ne_true Bool.false_ne_true
  obtain ⟨u, hu⟩ : ∃ u, (wake s 6).setTamp (fun t => { t with masked := true }) = u := ⟨_, rfl⟩
  have humask : u.tamp.masked = true := by rw [← hu]; rfl
  obtain ⟨hshut, hmask⟩ := closeWindow_leaves u
  obtain ⟨v, hv⟩ : ∃ v, closeWindow u 4 0x3F = v := ⟨_, rfl⟩
  rw [hv] at hshut hmask
  have hrec : Recorded v (if v.rst.por ∨ v.mode = mFuseLoad then v else jrecG v 0x0006 0xE4 v.jnl.buf.length [] false Config.noMasterWorld true) :=
    .ite (.refl v) (recorded_jrecG ..)
  unfold powerFails at ht
  rw [if_neg hgo] at ht
  dsimp only at ht
  rw [hu, hv] at ht
  subst ht
  revert hrec
  generalize (if v.rst.por ∨ v.mode = mFuseLoad then v else jrecG v 0x0006 0xE4 v.jnl.buf.length [] false Config.noMasterWorld true) = w
  intro hrec
  have hwin : w.on Reg.TAMP_STAT_WINDOW = false := by
    rw [State.on, hrec.rd _ quiet_window]
    exact hshut
  have hwmask : w.tamp.masked = true := by rw [hrec.tamp, hmask, humask]
  exact ⟨rfl, rfl, hwmask, hwin, rfl, rfl, rfl⟩

/-- After the flush the device holds itself in reset. -/
theorem powerHold_holds (hf : s.rst.pfFlush = true) (hp : s.rst.por = false) (ht : powerHold s = t) : t.rst.pfFlush = false ∧ t.rst.pfHold = true ∧ t.rst.por = true ∧
    bit t.rst.now 4 = true ∧ t.jnl.buf = [] ∧ t.otp = s.otp := by
  have hrec := (flushDone_leaves s).2.2
  obtain ⟨u, hu⟩ : ∃ u, noteSource (flushDone s) 4 true = u := ⟨_, rfl⟩
  have hpor : u.rst.por = false := by
    rw [← hu]
    exact (congrArg RstSt.por hrec.reset).trans hp
  have hnow : bit u.rst.now 4 = true := by
    rw [← hu]
    exact bit_setBit ..
  have hotp : u.otp = s.otp := by
    rw [← hu, (noteSource_keep ..).2.1, (flushDone_keep s).2.1]
  obtain ⟨v, hv⟩ : ∃ v, porReset u false = v := ⟨_, rfl⟩
  obtain ⟨-, hvpor, hvnow, -, -, -, -, hvbuf, -⟩ := porReset_leaves false hv
  have hvotp : v.otp = u.otp := hv ▸ (porReset_keep u false).2
  have heq : powerHold s = { v with rst := { v.rst with pfFlush := false, pfHold := true } } := by
    unfold powerHold
    rw [if_neg (not_not_intro hf), hu]
    dsimp only
    rw [if_neg (ne_true_of_eq_false hpor), hv]
  rw [heq] at ht
  subst ht
  refine ⟨rfl, rfl, hvpor, ?_, hvbuf, hvotp.trans hotp⟩
  have hkeep : v.rst.now = u.rst.now := hvnow.trans (congrArg RstSt.now (frame_closeWindow u).1)
  exact hkeep ▸ hnow

theorem powerHold_idle (h : s.rst.pfFlush = false) : powerHold s = s := if_pos (ne_true_of_eq_false h)

/-- Half the watchdog's timeout. -/
theorem scHalf_pends (hms : s.rd Reg.SC_WDOG_MS ≠ 0) (hrun : s.sc0.running = true) (ht : scHalf s = t) :
    t.irq.wdogHalf = true ∧ s.rd Reg.SC_WDOG_MS * 250000 ≤ t.irq.scWdog := by
  have hgo : ¬ (s.rd Reg.SC_WDOG_MS = 0 ∨ ¬ s.sc0.running = true) := fun h => h.elim hms fun h => h hrun
  rw [scHalf, if_neg hgo] at ht
  subst ht
  refine ⟨rfl, ?_⟩
  have hhalf : scTimeout s / 2 = s.rd Reg.SC_WDOG_MS * 250000 := by
    unfold scTimeout
    omega
  exact hhalf ▸ Nat.le_max_right _ _

/-- Doorbells ring what their bits name. -/
theorem ringDoors_rings (v : Nat) (ht : ringDoors s v = t) : (bit v 0 = true → t.on (Reg.INT_LATCH_DOOR 0) = true) ∧ (bit v 1 = true → t.on (Reg.INT_LATCH_DOOR 1) = true) ∧
    (bit v 2 = true → bit (t.rd Reg.MC_INT_LATCH) 3 = true) ∧ (v = 0 → t = s) := by
  subst ht
  have hmc : ∀ (u : State) (f : Fld), f.place ≠ Reg.MC_INT_LATCH.place → (if bit v 2 then mcLatch u 3 else u).on f = u.on f := fun u f hf => by
    split
    · rw [State.on, State.on, rd_mcLatch _ _ hf]
    · rfl
  unfold ringDoors
  dsimp only
  refine ⟨fun h => ?_, fun h => ?_, fun h => ?_, ?_⟩
  · rw [hmc _ _ (by decide), if_pos h]
    split
    · exact (State.on_flag_place _ _ (by decide)).trans (State.on_flag _ Nat.one_ne_zero _)
    · exact State.on_flag _ Nat.one_ne_zero _
  · rw [hmc _ _ (by decide), if_pos h]
    exact State.on_flag _ Nat.one_ne_zero _
  · rw [if_pos h]
    exact bit_mcLatch _ (by decide)
  · rintro rfl
    rfl

/-- SC_1 is released. -/
theorem releaseSc1_releases (hrun : s.sc0.running = true) (ho : s.on Reg.RST_CTL_SC1_RUN = false) (ht : releaseSc1 s = t) :
    t.sc1 = { Ctl.reset true with running := true } ∧ t.on Reg.RST_CTL_SC1_RUN = true := by
  have hgo : ¬ (s.on Reg.RST_CTL_SC1_RUN = true ∨ ¬ s.sc0.running = true) := by
    rw [ho, hrun]
    decide
  have hon : (s.flag Reg.RST_CTL_SC1_RUN true).on Reg.RST_CTL_SC1_RUN = true := State.on_flag _ Nat.one_ne_zero _
  rw [releaseSc1, if_neg hgo] at ht
  subst ht
  exact ⟨rfl, hon⟩

end Ends

/-- Settles O56: modes, watchdogs, power-fail and Sleep. -/
theorem modesPowerAndSleep : Obligations.ModesPowerAndSleep := by
  intro s
  refine ⟨fun slot pass => ⟨fun h => congrArg Host.Outcome.next (bootEnds_idle h slot pass), ?_, ?_, ?_⟩, fun h => congrArg Host.Outcome.next (if_pos (ne_true_of_eq_false h)),
    fun hz hm => ⟨_, rfl, zeroizedEntry_zeroizes hz hm rfl⟩, fun h => congrArg Host.Outcome.next (if_pos ?_), fun hrun ho => ⟨_, rfl, releaseSc1_releases hrun ho rfl⟩, rfl,
    fun h => congrArg Host.Outcome.next (if_pos (h.imp_right ne_true_of_eq_false)), fun hms hrun => ⟨_, rfl, scHalf_pends hms hrun rfl⟩,
    fun h => congrArg Host.Outcome.next (if_pos h), fun hms hin hb => congrArg Host.Outcome.next (if_neg ?_), fun ring => ⟨_, rfl, ?_⟩,
    fun h => congrArg Host.Outcome.next (if_pos (ne_true_of_eq_false h)), fun h => ⟨_, rfl, fallAsleep_sleeps h rfl⟩, fun ev => ⟨fun h => ?_, fun h0 hm => ?_⟩,
    fun hm => congrArg Host.Outcome.next (if_pos hm), fun hm => ⟨_, rfl, wake_wakes hm (by decide) rfl⟩, fun h => congrArg Host.Outcome.next (if_pos h),
    fun hb hf hh => ⟨_, rfl, powerFails_holds hb hf hh rfl⟩, fun h => congrArg Host.Outcome.next (powerHold_idle h), fun hf hp => ⟨_, rfl, powerHold_holds hf hp rfl⟩,
    fun hf hh => congrArg Host.Outcome.next ?_, fun hf hh => congrArg Host.Outcome.next ?_⟩
  · rintro hm hrun hreq rfl
    exact congrArg Host.Outcome.next (bootEnds_slotless hm hrun hreq pass)
  · rintro hm hrun hreq rfl htry ha hadv hcopy hlevel hseq hsrc hboot
    exact ⟨_, rfl, bootEnds_boots hm hrun hreq htry ha hadv hcopy hlevel hseq hsrc hboot rfl⟩
  · rintro hm hrun hreq rfl htry ha hadv hcopy hlevel hseq hsrc
    exact ⟨_, rfl, bootEnds_faults hm hrun hreq htry ha hadv hcopy hlevel hseq hsrc rfl⟩
  · exact h.symm.imp_right ne_true_of_eq_false
  · rintro (h | h | h)
    · exact hms h
    · exact absurd (h.symm.trans hin) (by decide)
    · exact hb h
  · obtain ⟨h0, h1, h2, h3⟩ := ringDoors_rings (s := s) ring.toNat rfl
    have hbit : ∀ i, ring.getLsbD i = true → bit ring.toNat i = true := fun i h => (bit_eq_testBit ..).trans h
    exact ⟨fun h => h0 (hbit 0 h), fun h => h1 (hbit 1 h), fun h => h2 (hbit 2 h), fun h => h3 (h ▸ rfl)⟩
  · refine congrArg Host.Outcome.next ?_
    split
    · rfl
    · next h0 => exact if_pos (h.resolve_left h0)
  · exact ⟨_, congrArg Host.Outcome.next (if_neg h0), wake_wakes hm (by omega) rfl⟩
  · rw [powerReturns, powerHold_idle hf]
    exact if_neg (ne_true_of_eq_false hh)
  · rw [powerReturns, powerHold_idle hf]
    exact if_pos hh

end Sys2Proof.Machine
end
